-- ==== Sys2Proof/Word.lean ====
section
/-!
DEFINITION. The word types of the machine and the type of its sparse tables.
-/

namespace Sys2Proof

/-- A byte (spec 00, R3 and R4). -/
abbrev Byte := BitVec 8
/-- A 32-bit register word. -/
abbrev Word := BitVec 32
/-- A 64-bit register or address. -/
abbrev DWord := BitVec 64

/-- A sparse table from keys to values, kept in one canonical form: keys strictly rising, and no
entry equal to the table's default (`SMap.wf`, Machine/Maps.lean). -/
abbrev SMap (α : Type) := List (Nat × α)

/-- A cache line that a `CACHE_EVICTION` names (R242, R243, R246, R382): which cache, and the line's
physical address (or virtual address and ASID) divided by 128; for a TLB, the entry's place. -/
inductive CacheLine where
  | l1 (core line : Nat)
  | l1i (core asid line : Nat)
  | codeCache (die line : Nat)
  | dieCache (die line : Nat)
  | frame (line : Nat)
  | ring (line : Nat)
  | l1Tlb (core entry : Nat)
  | dieTlb (die entry : Nat)
  deriving DecidableEq, Repr

/-- The counter and the signatures that a signed operator message carries (R435). -/
structure SignedMsg where
  counter : DWord
  ecdsa : List Byte
  lms : List Byte
  deriving DecidableEq, Repr

/-- Where an uncorrectable soft error strikes (R234, R194, R216). -/
inductive SoftError where
  /-- a group's registers, its scratchpad, or its dirty L1 bytes (code 0, 1 or 2 of SOFTERR) -/
  | group (uid loc : Nat)
  /-- a clean L1 or die-cache line, an instruction line or a TLB entry: the entry is fetched again -/
  | clean (c : CacheLine)
  /-- a dirty die-cache line or a byte range of memory: the bytes are marked (code 3 or 4) -/
  | marked (loc addr len : Nat)
  /-- the working bank of a core's Trit Array, during a run -/
  | workingBank (core : Nat)
  /-- a line core's registers, line buffer or matrix context -/
  | lineCore (n : Nat)
  deriving DecidableEq, Repr

end Sys2Proof
end

