-- ==== Sys2Proof/Machine/Num.lean ====
section
/-!
DEFINITION. Number formats, rounding and the order of sums (spec 03). Every value is decoded to an
exact rational, computed on exactly, and rounded once at the end.
-/

namespace Sys2Proof

/-- Rounding modes (R55). -/
inductive RMode where
  | rne | rtz | ru | rd
  deriving DecidableEq, Repr

/-- The mode that XMOD bits 1:0, or a two-bit mode field, select (R102, R283). -/
def RMode.ofBits (n : Nat) : RMode :=
  match n % 4 with | 0 => .rne | 1 => .rtz | 2 => .ru | _ => .rd

/-- What a format has for infinities and NaNs (R43). -/
inductive FmtKind where
  /-- infinities and NaNs at the highest exponent -/
  | ieee
  /-- E4M3: no infinity, the all-ones code is the NaN -/
  | e4m3
  /-- E5M2: as ieee, but results saturate by default (R57) -/
  | e5m2
  /-- E2M1: neither -/
  | e2m1
  deriving DecidableEq, Repr

/-- A floating-point format (R43, R120). -/
structure Fmt where
  kind : FmtKind
  ew : Nat
  fw : Nat
  bias : Nat
  deriving DecidableEq, Repr

def fp32 : Fmt := { kind := .ieee, ew := 8, fw := 23, bias := 127 }
def fp16 : Fmt := { kind := .ieee, ew := 5, fw := 10, bias := 15 }
/-- FP64 (R120). -/
def fp64 : Fmt := { kind := .ieee, ew := 11, fw := 52, bias := 1023 }
def bf16 : Fmt := { kind := .ieee, ew := 8, fw := 7, bias := 127 }
def e4m3 : Fmt := { kind := .e4m3, ew := 4, fw := 3, bias := 7 }
def e5m2 : Fmt := { kind := .e5m2, ew := 5, fw := 2, bias := 15 }
def e2m1 : Fmt := { kind := .e2m1, ew := 2, fw := 1, bias := 1 }

/-- Width of a code. -/
def Fmt.width (f : Fmt) : Nat := 1 + f.ew + f.fw
/-- Code of the largest finite magnitude (R43). -/
def Fmt.maxCode (f : Fmt) : Nat :=
  match f.kind with
  | .ieee | .e5m2 => (2 ^ f.ew - 1) * 2 ^ f.fw - 1
  | .e4m3 => 0x7E
  | .e2m1 => 0x7
/-- Code of +∞ in the formats that have it. -/
def Fmt.infCode (f : Fmt) : Nat := (2 ^ f.ew - 1) * 2 ^ f.fw
/-- The canonical NaN (R43, R46); 0 in E2M1, whose NaN inputs R111 converts to 0b0000. -/
def Fmt.nanCode (f : Fmt) : Nat :=
  match f.kind with
  | .ieee | .e5m2 => (2 ^ f.ew - 1) * 2 ^ f.fw + 2 ^ (f.fw - 1)
  | .e4m3 => 0x7F
  | .e2m1 => 0

/-- 2^e for an integer e. -/
def pow2 (e : Int) : Rat := if 0 ≤ e then ((2 ^ e.toNat : Nat) : Rat) else 1 / ((2 ^ (-e).toNat : Nat) : Rat)

/-- A decoded value: a NaN, an infinity, or a sign with an exact magnitude. -/
inductive FVal where
  | nan
  | inf (neg : Bool)
  | fin (neg : Bool) (mag : Rat)
  deriving DecidableEq, Repr

/-- The value of a code (R43, R44). -/
def Fmt.decode (f : Fmt) (c : Nat) : FVal :=
  let s := (c / 2 ^ (f.ew + f.fw)) % 2 = 1
  let e := (c / 2 ^ f.fw) % 2 ^ f.ew
  let fr := c % 2 ^ f.fw
  let special : Option FVal :=
    match f.kind with
    | .ieee | .e5m2 => if e = 2 ^ f.ew - 1 then some (if fr = 0 then .inf s else .nan) else none
    | .e4m3 => if e = 15 ∧ fr = 7 then some .nan else none
    | .e2m1 => none
  match special with
  | some v => v
  | none =>
    if e = 0 then .fin s ((fr : Rat) * pow2 (1 - (f.bias : Int) - f.fw))
    else .fin s (((2 ^ f.fw + fr : Nat) : Rat) * pow2 ((e : Int) - f.bias - f.fw))

/-- The value of an E8M0 code (R44). -/
def e8m0Decode (c : Nat) : FVal := if c % 256 = 255 then .nan else .fin false (pow2 (((c % 256 : Nat) : Int) - 127))

/-- The signed exact value of a finite value. -/
def FVal.toRat : FVal → Rat
  | .fin true m => -m
  | .fin false m => m
  | _ => 0

def FVal.isNan : FVal → Bool | .nan => true | _ => false
def FVal.isInf : FVal → Bool | .inf _ => true | _ => false
def FVal.isFin : FVal → Bool | .fin _ _ => true | _ => false
def FVal.isZero : FVal → Bool | .fin _ m => m == 0 | _ => false
/-- The sign, false for a NaN. -/
def FVal.neg : FVal → Bool | .nan => false | .inf s => s | .fin s _ => s
/-- The value with its sign inverted; a NaN stays a NaN (R104). -/
def FVal.negate : FVal → FVal | .nan => .nan | .inf s => .inf (!s) | .fin s m => .fin (!s) m
/-- A rational as a value; zero is +0. -/
def FVal.ofRat (q : Rat) : FVal := if q < 0 then .fin true (-q) else .fin false q

/-- floor(log2 q) of a positive rational. -/
def log2Floor (q : Rat) : Int :=
  let n := q.num.natAbs
  let d := q.den
  let e : Int := (Nat.log2 n : Int) - (Nat.log2 d : Int)
  if q < pow2 e then e - 1 else e

/-- A non-negative rational rounded to an integer, in mode m for a value of sign `neg`. -/
def roundMag (m : RMode) (neg : Bool) (q : Rat) : Nat :=
  let fl := q.num.natAbs / q.den
  let r2 := 2 * (q.num.natAbs % q.den)
  if r2 = 0 then fl
  else
    match m with
    | .rne => if r2 < q.den then fl else if q.den < r2 then fl + 1 else fl + fl % 2
    | .rtz => fl
    | .ru => if neg then fl else fl + 1
    | .rd => if neg then fl + 1 else fl

/-- The magnitude code of a positive rational on the format's grid, with the exponent range unbounded
above (R55). -/
def Fmt.roundCode (f : Fmt) (m : RMode) (neg : Bool) (q : Rat) : Nat :=
  if q = 0 then 0
  else
    let e := max (log2Floor q) (1 - (f.bias : Int))
    let k := roundMag m neg (q * pow2 (f.fw - e))
    ((e + f.bias - 1).toNat) * 2 ^ f.fw + k

/-- Whether an overflow in mode m gives an infinity (R56). -/
def overflowInf (m : RMode) (neg : Bool) : Bool :=
  match m with | .rne => true | .rtz => false | .ru => !neg | .rd => neg

/-- The code with a sign bit. -/
def Fmt.signed (f : Fmt) (neg : Bool) (c : Nat) : Nat := if neg then 2 ^ (f.ew + f.fw) + c else c

/-- What an infinity, or an overflow that R56 gives an infinity, becomes: an infinity, a saturated
value (R57, and ±6 in E2M1 by R111) or, in E4M3 under .NS, the NaN (R58). -/
def Fmt.toInf (f : Fmt) (ns neg : Bool) : Nat :=
  match f.kind with
  | .ieee => f.signed neg f.infCode
  | .e4m3 => if ns then 0x7F else f.signed neg f.maxCode
  | .e5m2 => if ns then f.signed neg f.infCode else f.signed neg f.maxCode
  | .e2m1 => f.signed neg f.maxCode

/-- round_mode of R9: the code of a value in a format under a mode, with overflow by R56, R57 or,
under .NS, R58. -/
def Fmt.round (f : Fmt) (m : RMode) (ns : Bool) (v : FVal) : Nat :=
  match v with
  | .nan => f.nanCode
  | .inf s => f.toInf ns s
  | .fin s q =>
    let c := f.roundCode m s q
    if c ≤ f.maxCode then f.signed s c
    else if overflowInf m s then f.toInf ns s
    else f.signed s f.maxCode

/-! ### Exact arithmetic on values -/

/-- The exact product (R104, R61): ±0 × ±∞ is a NaN. -/
def FVal.mul (a b : FVal) : FVal :=
  match a, b with
  | .nan, _ | _, .nan => .nan
  | .inf s, .inf t => .inf (s != t)
  | .inf s, .fin t m => if m = 0 then .nan else .inf (s != t)
  | .fin s m, .inf t => if m = 0 then .nan else .inf (s != t)
  | .fin s m, .fin t n => .fin (s != t) (m * n)

/-- The exact sum of R61 (of R60 with two addends), with the sign of a zero sum by mode. -/
def FVal.sum (m : RMode) (l : List FVal) : FVal :=
  if l.any FVal.isNan || (l.any (· == .inf true) && l.any (· == .inf false)) then .nan
  else if l.any (· == .inf true) then .inf true
  else if l.any (· == .inf false) then .inf false
  else
    let s := l.foldl (fun acc v => acc + v.toRat) 0
    if s = 0 then
      if l.all (fun v => v.isZero && v.neg) then .fin true 0
      else if l.all (fun v => v.isZero && !v.neg) then .fin false 0
      else .fin (m == .rd) 0
    else FVal.ofRat s

/-! ### FP32 on register words -/

/-- The value of an FP32 word. -/
def f32v (w : Word) : FVal := fp32.decode w.toNat
/-- A value rounded to an FP32 word. -/
def f32r (m : RMode) (v : FVal) : Word := BitVec.ofNat 32 (fp32.round m false v)
/-- The canonical quiet NaN (R9). -/
def qnan : Word := 0x7FC00000

/-- FADD of R104. -/
def fadd (m : RMode) (a b : Word) : Word := f32r m (FVal.sum m [f32v a, f32v b])
/-- FADD with b's sign inverted (.NB of R104, QDD of R141). -/
def fsub (m : RMode) (a b : Word) : Word := f32r m (FVal.sum m [f32v a, (f32v b).negate])
/-- FMUL of R104. -/
def fmul (m : RMode) (a b : Word) : Word := f32r m ((f32v a).mul (f32v b))
/-- FFMA of R104. -/
def ffma (m : RMode) (a b c : Word) : Word := f32r m (FVal.sum m [(f32v a).mul (f32v b), f32v c])

/-- lerp of R210 and R316: b − a rounded, then one fused multiply-add. -/
def flerp (a b t : Word) : Word := ffma .rne t (fsub .rne b a) a

/-- dot of R61 with an FP32 destination. -/
def fdot (m : RMode) (prods : List (FVal × FVal)) (acc : FVal) : Word :=
  f32r m (FVal.sum m (acc :: prods.map fun p => p.1.mul p.2))

/-- a < b of FP values (R8): false with a NaN. -/
def FVal.lt (a b : FVal) : Bool :=
  match a, b with
  | .nan, _ | _, .nan => false
  | .inf s, .inf t => s && !t
  | .inf s, .fin _ _ => s
  | .fin _ _, .inf t => !t
  | .fin _ _, .fin _ _ => a.toRat < b.toRat
/-- a = b of FP values (R8): −0 equals +0, a NaN equals nothing. -/
def FVal.eq (a b : FVal) : Bool :=
  match a, b with
  | .inf s, .inf t => s == t
  | .fin _ _, .fin _ _ => a.toRat == b.toRat
  | _, _ => false

/-- a comes before b with −0 below +0 (R105). -/
def FVal.below (a b : FVal) : Bool := a.lt b || (a.eq b && a.neg && !b.neg)

/-- FMIN and FMAX (R105): `mx` selects FMAX, `nan` the .NAN form; on codes of the format. -/
def Fmt.minmax (f : Fmt) (mx nan : Bool) (a b : Nat) : Nat :=
  let x := f.decode a
  let y := f.decode b
  if x.isNan && y.isNan then f.nanCode
  else if x.isNan then (if nan then f.nanCode else b)
  else if y.isNan then (if nan then f.nanCode else a)
  else if mx then (if x.below y then b else a)
  else (if y.below x then b else a)

/-- FMIN and FMAX on FP32 words. -/
def fminmax (mx nan : Bool) (a b : Word) : Word := BitVec.ofNat 32 (fp32.minmax mx nan a.toNat b.toNat)

/-- FRND of R107: rounded to an integral FP32 value; a zero result keeps the sign of a. -/
def frnd (m : RMode) (a : Word) : Word :=
  match f32v a with
  | .nan => qnan
  | .inf _ => a
  | .fin s q => if 2 ^ 23 ≤ q ∨ q = 0 then a else f32r .rne (.fin s (roundMag m s q))

/-- A value converted to an integer of a range (R59). -/
def toIntSat (m : RMode) (lo hi : Int) (v : FVal) : Int :=
  match v with
  | .nan => 0
  | .inf s => if s then lo else hi
  | .fin s q =>
    let k : Int := roundMag m s q
    let x := if s then -k else k
    if x < lo then lo else if hi < x then hi else x

/-- sat of R9. -/
def satInt (x lo hi : Int) : Int := if x < lo then lo else if hi < x then hi else x

/-! ### The formats of CVT (R110, R111) -/

/-- The floating-point format of a CVT code, where it is one. -/
def cvtFmt : Nat → Option Fmt
  | 0 => some fp32 | 1 => some fp16 | 2 => some bf16 | 3 => some e4m3 | 4 => some e5m2 | 5 => some e2m1
  | _ => none

/-- Width and signedness of the integer format of a CVT code. -/
def cvtInt : Nat → Option (Nat × Bool)
  | 8 => some (8, true) | 9 => some (8, false) | 10 => some (16, true) | 11 => some (16, false)
  | 12 => some (32, true) | 13 => some (32, false) | 14 => some (4, true) | 15 => some (4, false)
  | _ => none

/-- The exact value of an element code of CVT format `fs` (R44, R48, R111). -/
def cvtDecode (fs code : Nat) : FVal :=
  match cvtFmt fs with
  | some f => f.decode (code % 2 ^ f.width)
  | none =>
    match cvtInt fs with
    | some (w, sg) =>
      let n : Nat := code % 2 ^ w
      FVal.ofRat ((if sg ∧ 2 ^ (w - 1) ≤ n then (n : Int) - ((2 ^ w : Nat) : Int) else (n : Int) : Int) : Rat)
    | none => e8m0Decode code

/-- Conversion to E8M0 (R111). -/
def toE8m0 (m : RMode) (v : FVal) : Nat :=
  match v with
  | .nan | .inf _ => 0xFF
  | .fin s q =>
    if q = 0 then 0x00
    else if s then 0xFF
    else
      let k := log2Floor q
      if k < -127 then 0x00
      else
        let up : Bool :=
          match m with
          | .rtz | .rd => false
          | .ru => q != pow2 k
          | .rne =>
            if q < 3 / 2 * pow2 k then false
            else if 3 / 2 * pow2 k < q then true
            else (k + 127) % 2 != 0
        let e := if up then k + 1 else k
        if 127 < e then 0xFE else (e + 127).toNat

/-- The code of a value in CVT format `fd` (R111): the element's bits, a signed integer sign-extended
to 32 bits and every other zero-extended. -/
def cvtEncode (fd : Nat) (m : RMode) (ns : Bool) (v : FVal) : Word :=
  match cvtFmt fd with
  | some f => BitVec.ofNat 32 (f.round m ns v)
  | none =>
    match cvtInt fd with
    | some (w, true) => BitVec.ofInt 32 (toIntSat m (-(2 ^ (w - 1))) (2 ^ (w - 1) - 1) v)
    | some (w, false) => BitVec.ofInt 32 (toIntSat m 0 (2 ^ w - 1) v)
    | none => BitVec.ofNat 32 (toE8m0 m v)

/-! ### E2M1X blocks (R52 to R54) -/

/-- decode_e2m1x of R53, on the block's 112 bits as a number. -/
def decodeE2m1x (blk i : Nat) : FVal :=
  let sc : Nat := (blk / 2 ^ 96) % 256
  let sp : Nat := (blk / 2 ^ 104) % 256
  let c : Nat := (blk / 2 ^ (4 * i)) % 16
  if sc = 0xFF then .nan
  else
    let scale : FVal := .fin false (pow2 ((sc : Int) - 127))
    if c = 8 then (e4m3.decode sp).mul scale else (e2m1.decode c).mul scale

/-- |x| of a finite value. -/
def FVal.mag : FVal → Rat | .fin _ m => m | _ => 0

/-- encode_e2m1x of R54 on up to 24 values (the missing ones +0): the block's 112 bits. -/
def encodeE2m1x (xs : List FVal) : Nat :=
  if xs.any (fun v => !v.isFin) then 0xFF * 2 ^ 96
  else
    let amax := xs.foldl (fun a v => max a v.mag) 0
    if amax = 0 then 127 * 2 ^ 96
    else
      let xj := ((xs.find? fun v => v.mag == amax).map FVal.toRat).getD 0
      let sc : Int := satInt (log2Floor amax - 2 + 127) 0 254
      let m := pow2 (sc - 127)
      let sp := e4m3.round .rne false (FVal.ofRat (xj / m))
      let spv := (e4m3.decode sp).toRat
      let code (v : FVal) : Nat :=
        let y := v.toRat / m
        let c0 := e2m1.round .rne false (FVal.ofRat y)
        let c := if c0 = 8 then 0 else c0
        if |y - spv| < |y - (e2m1.decode c).toRat| then 8 else c
      let codes := (xs.zipIdx.map fun p => code p.1 * 2 ^ (4 * p.2)).foldl (· + ·) 0
      2 ^ 104 * sp + 2 ^ 96 * sc.toNat + codes

/-! ### Trits (R49, R50) -/

/-- Digit i of a trit byte. -/
def tritDigit (b i : Nat) : Nat := (b / 3 ^ i) % 3
/-- trit_of of R9, on a legal byte. -/
def tritOf (b i : Nat) : Int := match tritDigit b i with | 0 => 0 | 1 => 1 | _ => -1
/-- A trit byte is legal (R49). -/
def tritLegal (b : Nat) : Bool := b < 243

/-- A float atomic add's aggregate (R62) and its like: the running combinations of the lanes' values. -/
def prefixes {α : Type} (op : α → α → α) : List α → List (Option α)
  | [] => []
  | v :: vs => none :: (go v vs)
where
  go (acc : α) : List α → List (Option α)
    | [] => []
    | w :: ws => some acc :: go (op acc w) ws

end Sys2Proof
end

