-- ==== Sys2Proof/Config.lean ====
section
/-!
DEFINITION. What an implementation fixes and what the spec leaves open, as constants without a body:
nothing can be proved of their values. Each is named in the assumption log.
-/

namespace Sys2Proof.Config

/-- Which of the agents and events that could move next does so at the n-th open choice (R125, R150,
R242, R246, R262 to R265, R382; log 1): the number selects from the list the step makes. -/
opaque turnAt : Nat → Nat

/-- A free bit string: a value the spec leaves undefined (log 11). -/
opaque freeValue : Nat → Nat

/-- The digest SHA-384 of FIPS 180-4 (R394, R442; log 8). -/
opaque sha384 : List Byte → List Byte

/-- ECDSA on P-384 with SHA-384, verification: key, message, signature (R392; log 8). -/
opaque ecdsaVerify : List Byte → List Byte → List Byte → Bool

/-- LMS verification: key, message, signature (R392; log 8). -/
opaque lmsVerify : List Byte → List Byte → List Byte → Bool

/-- The vendor keys whose digest the ROM holds: ECDSA and LMS (R438; log 8). -/
opaque vendorKeys : List Byte × List Byte

/-- Whether a firmware image carries the vendor's two signatures (R438; log 8). -/
opaque imageVerify : List Byte → Bool

/-- The version of a firmware image (R438; log 8). -/
opaque imageVersion : List Byte → Nat

/-- The device's ECDSA signature of a message (R441, R442; log 8). -/
opaque ecdsaSign : List Byte → List Byte

/-- The device's HSS signature of a message at a leaf index (R441, R442; log 8). -/
opaque hssSign : Nat → List Byte → List Byte

/-- The Milliner's translation of a VOSIS section with its kernel descriptors: the T section, the A
section, the save table and the native headers; none where it fails (R407; log 9). -/
opaque milliner : List Byte → List Byte → Option (List Byte × List Byte × List Byte × List Byte)

/-- Whether the attached sink trains at a head's configuration: head, lanes, rate in Mbit/s (R437). -/
opaque sinkTrains : Nat → Nat → Nat → Bool

/-- The b register that the ROM program's CHKRES names (0) and its RELOC n names (n + 1), which R344 does
not give (log 11). -/
opaque romReg : Nat → Nat

end Sys2Proof.Config
end

