-- ==== Sys2Proof/Machine/Maps.lean ====
section
/-!
DEFINITION. Sparse tables: association lists with strictly rising keys. `find`, `put` and `del` treat
an unlisted key as absent; `get` and `set` give it a default value, and `set` removes an entry that
holds the default, so that equal tables are equal lists.
-/

namespace Sys2Proof

/-- The entry at a key. -/
def SMap.find {α : Type} : SMap α → Nat → Option α
  | [], _ => none
  | (k, v) :: t, n => if k = n then some v else SMap.find t n

/-- The table with the entry at a key replaced or inserted. -/
def SMap.put {α : Type} : SMap α → Nat → α → SMap α
  | [], n, x => [(n, x)]
  | (k, v) :: t, n, x =>
    if n < k then (n, x) :: (k, v) :: t else if k = n then (n, x) :: t else (k, v) :: SMap.put t n x

/-- The table without the entry at a key. -/
def SMap.del {α : Type} : SMap α → Nat → SMap α
  | [], _ => []
  | (k, v) :: t, n => if k = n then SMap.del t n else (k, v) :: SMap.del t n

/-- The value at a key, `d` where none is listed. -/
def SMap.get {α : Type} (d : α) (m : SMap α) (n : Nat) : α := (SMap.find m n).getD d

/-- The table with a value at a key, where an unlisted key holds `d`. -/
def SMap.set {α : Type} [DecidableEq α] (d : α) (m : SMap α) (n : Nat) (x : α) : SMap α :=
  if x = d then SMap.del m n else SMap.put m n x

/-- Keys strictly rising. -/
def SMap.sorted {α : Type} : SMap α → Bool
  | [] => true
  | (k, _) :: t => (match t with | [] => true | (k', _) :: _ => decide (k < k')) && SMap.sorted t

/-- The canonical form of a table with default `d`. -/
def SMap.wf {α : Type} [DecidableEq α] (d : α) (m : SMap α) : Bool :=
  SMap.sorted m && m.all fun p => decide (p.2 ≠ d)

/-- Every value changed by its key. -/
def SMap.mapv {α β : Type} (f : Nat → α → β) (m : SMap α) : SMap β := m.map fun p => (p.1, f p.1 p.2)

/-- Every listed value changed, where an unlisted key holds `d`. -/
def SMap.mapSet {α : Type} [DecidableEq α] (d : α) (f : α → α) (m : SMap α) : SMap α :=
  m.foldl (fun acc p => SMap.set d acc p.1 (f (SMap.get d m p.1))) m

/-- Values written at consecutive keys. -/
def SMap.setList {α : Type} [DecidableEq α] (d : α) (m : SMap α) (n : Nat) : List α → SMap α
  | [] => m
  | x :: xs => SMap.setList d (SMap.set d m n x) (n + 1) xs

/-- Bit n of a mask. -/
def bit {w : Nat} (m : BitVec w) (n : Nat) : Bool := m.getLsbD n

/-- A mask with bit n given. -/
def setBit {w : Nat} (m : BitVec w) (n : Nat) (b : Bool) : BitVec w :=
  if b then m ||| (1#w <<< n) else m &&& ~~~(1#w <<< n)

/-- The mask of the indices below n that satisfy p. -/
def maskOf (w n : Nat) (p : Nat → Bool) : BitVec w :=
  (List.range n).foldl (fun m i => if p i then m ||| (1#w <<< i) else m) 0

/-- The indices of a 32-bit mask, ascending. -/
def lanesOf (m : BitVec 32) : List Nat := (List.range 32).filter fun t => m.getLsbD t

end Sys2Proof
end

