-- ==== Sys2Proof/Syntax.lean ====
section
/-!
DEFINITION. The instructions of the SVH-740, one constructor of `Instr` for each row of the opcode
table: the T stream (spec 04), the A stream (08), the operations of the SSP's slots (10), the queue
bytecode and the command packets (17), and the steps of the part that no stream issues (95).
-/

namespace Sys2Proof

/-- The second word of a long T instruction (R68), less its reserved bit 0. -/
structure TLong where
  imm32 : Word
  immuse : BitVec 2
  oc : BitVec 4
  scope : BitVec 3
  sem : BitVec 2
  cmask : BitVec 16
  xmod : BitVec 4
  deriving DecidableEq, Repr

/-- The values a T instruction without a second word behaves with (R68, column Short). -/
def TLong.short : TLong :=
  { imm32 := 0, immuse := 0, oc := 0, scope := 0, sem := 0, cmask := 0xFFFF, xmod := 0 }

/-- The fields of a T instruction (R64), less OP, which the constructor names, and LEN, which says
whether `long` is there. -/
structure TWord where
  mod : BitVec 4
  pred : BitVec 3
  pneg : BitVec 1
  popq : BitVec 3
  pushq : BitVec 3
  spec : BitVec 1
  dst : BitVec 9
  srca : BitVec 9
  srcb : BitVec 9
  srcc : BitVec 9
  lr : BitVec 3
  long : Option TLong
  deriving DecidableEq, Repr

/-- The second-word fields in force: those of the second word, or the Short values (R68). -/
def TWord.ext (w : TWord) : TLong := w.long.getD TLong.short

/-- The fields of an A word (R154), less OP. -/
structure AWord where
  popq : BitVec 3
  pushq : BitVec 3
  d : BitVec 5
  s1 : BitVec 5
  s2 : BitVec 10
  deriving DecidableEq, Repr

/-- The prefix word of an A long form with its IMM32 word (R156). -/
structure APrefix where
  oc : BitVec 4
  scope : BitVec 3
  sem : BitVec 2
  iuse : BitVec 2
  imm32 : Word
  deriving DecidableEq, Repr

/-- What an A instruction without a prefix behaves with (R156). -/
def APrefix.none : APrefix := { oc := 0, scope := 0, sem := 0, iuse := 0, imm32 := 0 }

/-- The fields of an SSP S slot (R204), less OP. -/
structure SSlot where
  i : BitVec 1
  d : BitVec 5
  a : BitVec 5
  b : BitVec 16
  deriving DecidableEq, Repr

/-- The fields of an SSP V slot (R205), less OP. -/
structure VSlot where
  mreg : BitVec 3
  mke : BitVec 1
  ty : BitVec 2
  d : BitVec 6
  a : BitVec 6
  b : BitVec 6
  sub : BitVec 3
  deriving DecidableEq, Repr

/-- The fields of the SSP M slot (R206), less OP. -/
structure MSlot where
  mreg : BitVec 3
  mke : BitVec 1
  d : BitVec 6
  a : BitVec 5
  b : BitVec 5
  sub : BitVec 7
  deriving DecidableEq, Repr

/-- The fields of a bytecode word (R345), less its op. -/
structure QWord where
  r : BitVec 3
  x : BitVec 8
  deriving DecidableEq, Repr

/-- A command that a packet's queue program has issued (R335, R340, R344): the packet fields that it
carries, its body words, its share of the weight (R356) and the k registers that CHKRES staged. -/
structure Command where
  /-- the packet's number among those taken -/
  id : Nat
  /-- global queue index, 64 × tenant + local queue -/
  queue : Nat
  /-- reservation index of the packet in its ring -/
  index : DWord
  tag : Word
  aux : BitVec 16
  dep : Word
  thresh : Word
  weight : DWord
  parent : Word
  body : List Word
  /-- k0 to k15 staged by CHKRES and RELOC, with the slot checked -/
  staged : Option (Nat × List DWord)
  deriving DecidableEq, Repr

/-- The fields of a row that has no field at all. -/
def AWord.zero : AWord := { popq := 0, pushq := 0, d := 0, s1 := 0, s2 := 0 }
def SSlot.zero : SSlot := { i := 0, d := 0, a := 0, b := 0 }
def VSlot.zero : VSlot := { mreg := 0, mke := 0, ty := 0, d := 0, a := 0, b := 0, sub := 0 }
def QWord.zero : QWord := { r := 0, x := 0 }

/-- The instructions and steps of the opcode table, one constructor a row. What a packet or an event
acts on (the command; the core, head or queue pair; the bytes) stands in the state
(`State.cmd`, `State.arg`). -/
inductive Instr where
  /-- ADD (R91). -/
  | add (w : TWord)
  /-- ADD3 (R91). -/
  | add3 (w : TWord)
  /-- SUB (R91). -/
  | sub (w : TWord)
  /-- NEG (R91). -/
  | neg (w : TWord)
  /-- ABS (R91). -/
  | abs (w : TWord)
  /-- MULLO (R91). -/
  | mullo (w : TWord)
  /-- MULHI (R91). -/
  | mulhi (w : TWord)
  /-- MAD (R91). -/
  | mad (w : TWord)
  /-- MADW (R91). -/
  | madw (w : TWord)
  /-- DIV (R92). -/
  | div (w : TWord)
  /-- REM (R92). -/
  | rem (w : TWord)
  /-- MIN (R93). -/
  | min (w : TWord)
  /-- MAX (R93). -/
  | max (w : TWord)
  /-- LOP3 (R93). -/
  | lop3 (w : TWord)
  /-- SHL (R96). -/
  | shl (w : TWord)
  /-- SHR (R96). -/
  | shr (w : TWord)
  /-- SRA (R96). -/
  | sra (w : TWord)
  /-- FSH (R96). -/
  | fsh (w : TWord)
  /-- BFX (R97). -/
  | bfx (w : TWord)
  /-- BFI (R97). -/
  | bfi (w : TWord)
  /-- POPC (R93). -/
  | popc (w : TWord)
  /-- CLZ (R93). -/
  | clz (w : TWord)
  /-- BREV (R93). -/
  | brev (w : TWord)
  /-- CMP (R94). -/
  | cmp (w : TWord)
  /-- SEL (R95). -/
  | sel (w : TWord)
  /-- MOV (R98). -/
  | mov (w : TWord)
  /-- MOVI (R90). -/
  | movi (w : TWord)
  /-- LEA (R98). -/
  | lea (w : TWord)
  /-- ADD_W (R98). -/
  | addW (w : TWord)
  /-- PACK_T5 (R99). -/
  | packT5 (w : TWord)
  /-- UNPACK_T5 (R100). -/
  | unpackT5 (w : TWord)
  /-- FADD (R104). -/
  | fadd (w : TWord)
  /-- FMUL (R104). -/
  | fmul (w : TWord)
  /-- FFMA (R104). -/
  | ffma (w : TWord)
  /-- FMIN (R105). -/
  | fmin (w : TWord)
  /-- FMAX (R105). -/
  | fmax (w : TWord)
  /-- FCMP (R106). -/
  | fcmp (w : TWord)
  /-- FCLASS (R106). -/
  | fclass (w : TWord)
  /-- FRND (R107). -/
  | frnd (w : TWord)
  /-- FRCP (R108). -/
  | frcp (w : TWord)
  /-- FRSQ (R108). -/
  | frsq (w : TWord)
  /-- FSQRT (R108). -/
  | fsqrt (w : TWord)
  /-- FDIV (R108). -/
  | fdiv (w : TWord)
  /-- FEXP2 (R108). -/
  | fexp2 (w : TWord)
  /-- FLOG2 (R108). -/
  | flog2 (w : TWord)
  /-- FSINT (R109). -/
  | fsint (w : TWord)
  /-- FCOST (R109). -/
  | fcost (w : TWord)
  /-- CVT (R111). -/
  | cvt (w : TWord)
  /-- HFMA2 (R113). -/
  | hfma2 (w : TWord)
  /-- DOT2 (R114). -/
  | dot2 (w : TWord)
  /-- DOT4 (R114). -/
  | dot4 (w : TWord)
  /-- DOT8 (R114). -/
  | dot8 (w : TWord)
  /-- IDOT4 (R115). -/
  | idot4 (w : TWord)
  /-- DOT_T5 (R116). -/
  | dotT5 (w : TWord)
  /-- CBX (R119). -/
  | cbx (w : TWord)
  /-- CBLD (R118). -/
  | cbld (w : TWord)
  /-- DADD (R121). -/
  | dadd (w : TWord)
  /-- DMUL (R121). -/
  | dmul (w : TWord)
  /-- DFMA (R121). -/
  | dfma (w : TWord)
  /-- BRA (R134). -/
  | bra (w : TWord)
  /-- BRX (R135). -/
  | brx (w : TWord)
  /-- CALL (R134). -/
  | call (w : TWord)
  /-- CALL_X (R135). -/
  | callX (w : TWord)
  /-- RET (R135). -/
  | ret (w : TWord)
  /-- EXIT (R136). -/
  | exit (w : TWord)
  /-- SAFEPT (R137). -/
  | safept (w : TWord)
  /-- SETPC (R138). -/
  | setpc (w : TWord)
  /-- SELC (R131). -/
  | selc (w : TWord)
  /-- VOTE (R139). -/
  | vote (w : TWord)
  /-- ELECT (R139). -/
  | elect (w : TWord)
  /-- SHFL (R140). -/
  | shfl (w : TWord)
  /-- QSWP (R141). -/
  | qswp (w : TWord)
  /-- QBC (R141). -/
  | qbc (w : TWord)
  /-- QDD (R141). -/
  | qdd (w : TWord)
  /-- BAR_ARV (R143). -/
  | barArv (w : TWord)
  /-- BAR_WT (R143). -/
  | barWt (w : TWord)
  /-- BAR_SYNC (R143). -/
  | barSync (w : TWord)
  /-- NOP (R146). -/
  | nop (w : TWord)
  /-- TRAP (R146). -/
  | trap (w : TWord)
  /-- BRK (R146). -/
  | brk (w : TWord)
  /-- TRET (R223). -/
  | tret (w : TWord)
  /-- S2V (R147). -/
  | s2v (w : TWord)
  /-- VGET (R148). -/
  | vget (w : TWord)
  /-- VPUT (R148). -/
  | vput (w : TWord)
  /-- LD (R253). -/
  | ld (w : TWord)
  /-- ST (R253). -/
  | st (w : TWord)
  /-- LDS (R253). -/
  | lds (w : TWord)
  /-- STS (R253). -/
  | sts (w : TWord)
  /-- LDX (R240). -/
  | ldx (w : TWord)
  /-- STX (R240). -/
  | stx (w : TWord)
  /-- ATOM (R256). -/
  | atom (w : TWord)
  /-- CAS (R257). -/
  | cas (w : TWord)
  /-- RED (R255). -/
  | red (w : TWord)
  /-- PFH (R259). -/
  | pfh (w : TWord)
  /-- RESIDE (R260). -/
  | reside (w : TWord)
  /-- FENCE (R270). -/
  | fence (w : TWord)
  /-- SAMPLE (R418). -/
  | sample (w : TWord)
  /-- LNCH (R355). -/
  | lnch (w : TWord)
  /-- RQ_RAY (R310). -/
  | rqRay (w : TWord)
  /-- RQ_BEAM (R310). -/
  | rqBeam (w : TWord)
  /-- RQ_CONE (R310). -/
  | rqCone (w : TWord)
  /-- RPOP (R331). -/
  | rpop (w : TWord)
  /-- RSTAT (R332). -/
  | rstat (w : TWord)
  /-- SEMADD (R426). -/
  | semadd (w : TWord)
  /-- SEMSET (R426). -/
  | semset (w : TWord)
  /-- SEMWAIT (R426). -/
  | semwait (w : TWord)
  /-- AADD (R162). -/
  | aadd (w : AWord)
  /-- AADD_LONG (R157). -/
  | aaddLong (p : APrefix) (w : AWord)
  /-- ASUB (R162). -/
  | asub (w : AWord)
  /-- ASUB_LONG (R157). -/
  | asubLong (p : APrefix) (w : AWord)
  /-- AMUL (R162). -/
  | amul (w : AWord)
  /-- AMUL_LONG (R157). -/
  | amulLong (p : APrefix) (w : AWord)
  /-- AAND (R162). -/
  | aand (w : AWord)
  /-- AAND_LONG (R157). -/
  | aandLong (p : APrefix) (w : AWord)
  /-- AOR (R162). -/
  | aor (w : AWord)
  /-- AOR_LONG (R157). -/
  | aorLong (p : APrefix) (w : AWord)
  /-- AXOR (R162). -/
  | axor (w : AWord)
  /-- AXOR_LONG (R157). -/
  | axorLong (p : APrefix) (w : AWord)
  /-- ASHL (R162). -/
  | ashl (w : AWord)
  /-- ASHL_LONG (R162). -/
  | ashlLong (p : APrefix) (w : AWord)
  /-- ASHR (R162). -/
  | ashr (w : AWord)
  /-- ASHR_LONG (R162). -/
  | ashrLong (p : APrefix) (w : AWord)
  /-- AMOV (R164). -/
  | amov (w : AWord)
  /-- AMOVI (R164). -/
  | amovi (w : AWord)
  /-- AMOVI_LONG (R164). -/
  | amoviLong (p : APrefix) (w : AWord)
  /-- AMOVI_H (R164). -/
  | amoviH (p : APrefix) (w : AWord)
  /-- ACMP (R163). -/
  | acmp (w : AWord)
  /-- ACMP_LONG (R157). -/
  | acmpLong (p : APrefix) (w : AWord)
  /-- ASEL (R163). -/
  | asel (w : AWord)
  /-- ASEL_LONG (R157). -/
  | aselLong (p : APrefix) (w : AWord)
  /-- AS2A (R165). -/
  | as2a (w : AWord)
  /-- ANOP (R173). -/
  | anop (w : AWord)
  /-- ABR (R166). -/
  | abr (w : AWord)
  /-- AJMP (R166). -/
  | ajmp (w : AWord)
  /-- ACALL (R166). -/
  | acall (w : AWord)
  /-- ARET (R166). -/
  | aret (w : AWord)
  /-- ALOOP (R167). -/
  | aloop (w : AWord)
  /-- AEND (R170). -/
  | aend (w : AWord)
  /-- ASAFE (R172). -/
  | asafe (w : AWord)
  /-- ATRAP (R173). -/
  | atrap (w : AWord)
  /-- AFENCE (R169). -/
  | afence (w : AWord)
  /-- AFENCE_LONG (R169). -/
  | afenceLong (p : APrefix) (w : AWord)
  /-- ALD (R168). -/
  | ald (w : AWord)
  /-- ALD_LONG (R168). -/
  | aldLong (p : APrefix) (w : AWord)
  /-- AST (R168). -/
  | ast (w : AWord)
  /-- AST_LONG (R168). -/
  | astLong (p : APrefix) (w : AWord)
  /-- ALDS (R168). -/
  | alds (w : AWord)
  /-- ALDS_LONG (R168). -/
  | aldsLong (p : APrefix) (w : AWord)
  /-- ASTS (R168). -/
  | asts (w : AWord)
  /-- ASTS_LONG (R168). -/
  | astsLong (p : APrefix) (w : AWord)
  /-- QPUSH (R302). -/
  | qpush (w : AWord)
  /-- QPUSH_LONG (R302). -/
  | qpushLong (p : APrefix) (w : AWord)
  /-- QPOP (R303). -/
  | qpop (w : AWord)
  /-- AWAITQ (R304). -/
  | awaitq (w : AWord)
  /-- SEMADD_A (R426). -/
  | semaddA (w : AWord)
  /-- SEMADD_A_LONG (R425). -/
  | semaddALong (p : APrefix) (w : AWord)
  /-- SEMSET_A (R426). -/
  | semsetA (w : AWord)
  /-- SEMSET_A_LONG (R425). -/
  | semsetALong (p : APrefix) (w : AWord)
  /-- SEMWAIT_A (R426). -/
  | semwaitA (w : AWord)
  /-- SEMWAIT_A_LONG (R425). -/
  | semwaitALong (p : APrefix) (w : AWord)
  /-- CPY (R283). -/
  | cpy (w : AWord)
  /-- CPY_LONG (R278). -/
  | cpyLong (p : APrefix) (w : AWord)
  /-- CPYX (R284). -/
  | cpyx (w : AWord)
  /-- CPYX_LONG (R278). -/
  | cpyxLong (p : APrefix) (w : AWord)
  /-- CPYLV (R288). -/
  | cpylv (w : AWord)
  /-- CPYLV_LONG (R278). -/
  | cpylvLong (p : APrefix) (w : AWord)
  /-- KVAPP (R290). -/
  | kvapp (w : AWord)
  /-- KVAPP_LONG (R278). -/
  | kvappLong (p : APrefix) (w : AWord)
  /-- CPYW (R291). -/
  | cpyw (w : AWord)
  /-- CPYW_LONG (R278). -/
  | cpywLong (p : APrefix) (w : AWord)
  /-- FMTQ (R185). -/
  | fmtq (w : AWord)
  /-- FMTQ_LONG (R185). -/
  | fmtqLong (p : APrefix) (w : AWord)
  /-- TA_RUN (R186). -/
  | taRun (w : AWord)
  /-- TA_RUN_LONG (R186). -/
  | taRunLong (p : APrefix) (w : AWord)
  /-- TA_ZERO (R187). -/
  | taZero (w : AWord)
  /-- TA_SWAP (R188). -/
  | taSwap (w : AWord)
  /-- TASTAT (R189). -/
  | tastat (w : AWord)
  /-- CROWN_TAKE (R191). -/
  | crownTake (w : AWord)
  /-- CROWN_PASS (R191). -/
  | crownPass (w : AWord)
  /-- SADD (R208). -/
  | sadd (w : SSlot)
  /-- SSUB (R208). -/
  | ssub (w : SSlot)
  /-- SMUL (R208). -/
  | smul (w : SSlot)
  /-- SAND (R208). -/
  | sand (w : SSlot)
  /-- SOR (R208). -/
  | sor (w : SSlot)
  /-- SSHL (R208). -/
  | sshl (w : SSlot)
  /-- SSHR (R208). -/
  | sshr (w : SSlot)
  /-- SMOV (R208). -/
  | smov (w : SSlot)
  /-- SMOVH (R208). -/
  | smovh (w : SSlot)
  /-- SCMP (R208). -/
  | scmp (w : SSlot)
  /-- BR (R208). -/
  | br (w : SSlot)
  /-- BRC (R208). -/
  | brc (w : SSlot)
  /-- LOOP (R208). -/
  | loop (w : SSlot)
  /-- POSE_R (R208). -/
  | poseR (w : SSlot)
  /-- POSE_W (R208). -/
  | poseW (w : SSlot)
  /-- BANDI_RD (R208). -/
  | bandiRd (w : SSlot)
  /-- BANDI_NEXT (R209). -/
  | bandiNext (w : SSlot)
  /-- VADD (R210). -/
  | vadd (w : VSlot)
  /-- VSUB (R210). -/
  | vsub (w : VSlot)
  /-- VMUL (R210). -/
  | vmul (w : VSlot)
  /-- VFMA (R210). -/
  | vfma (w : VSlot)
  /-- VMIN (R210). -/
  | vmin (w : VSlot)
  /-- VMAX (R210). -/
  | vmax (w : VSlot)
  /-- VRCP (R210). -/
  | vrcp (w : VSlot)
  /-- VRSQ (R210). -/
  | vrsq (w : VSlot)
  /-- VFLR (R210). -/
  | vflr (w : VSlot)
  /-- VCVT (R210). -/
  | vcvt (w : VSlot)
  /-- VCMP (R210). -/
  | vcmp (w : VSlot)
  /-- VSEL (R210). -/
  | vsel (w : VSlot)
  /-- VLERP (R210). -/
  | vlerp (w : VSlot)
  /-- VPERM (R210). -/
  | vperm (w : VSlot)
  /-- VBCAST (R210). -/
  | vbcast (w : VSlot)
  /-- VPACK (R210). -/
  | vpack (w : VSlot)
  /-- LBLD (R211). -/
  | lbld (w : MSlot)
  /-- LBST (R211). -/
  | lbst (w : MSlot)
  /-- GLD (R211). -/
  | gld (w : MSlot)
  /-- WSAMP (R212). -/
  | wsamp (w : MSlot)
  /-- DSAMP (R212). -/
  | dsamp (w : MSlot)
  /-- MXLD (R213). -/
  | mxld (w : MSlot)
  /-- MXRUN (R213). -/
  | mxrun (w : MSlot)
  /-- MXST (R213). -/
  | mxst (w : MSlot)
  /-- EMIT (R214). -/
  | emit (w : MSlot)
  /-- LDP (R345). -/
  | ldp (w : QWord)
  /-- LDM (R345). -/
  | ldm (w : QWord)
  /-- MOVB (R345). -/
  | movb (w : QWord)
  /-- ADDB (R345). -/
  | addb (w : QWord)
  /-- SUBB (R345). -/
  | subb (w : QWord)
  /-- ANDB (R345). -/
  | andb (w : QWord)
  /-- ORB (R345). -/
  | orb (w : QWord)
  /-- SHLB (R345). -/
  | shlb (w : QWord)
  /-- SHRB (R345). -/
  | shrb (w : QWord)
  /-- CMPB (R345). -/
  | cmpb (w : QWord)
  /-- JF (R345). -/
  | jf (w : QWord)
  /-- JFC (R345). -/
  | jfc (w : QWord)
  /-- LOOPB (R345). -/
  | loopb (w : QWord)
  /-- CHKRES (R348). -/
  | chkres (w : QWord)
  /-- RELOC (R345). -/
  | reloc (w : QWord)
  /-- EMIT_C (R345). -/
  | emitC (w : QWord)
  /-- FAIL (R345). -/
  | fail (w : QWord)
  /-- CBLD_FILL (R118). -/
  | cbldFill
  /-- AEXIT (R171). -/
  | aexit
  /-- ARET_T (R224). -/
  | aretT
  /-- CE_COMMAND_START (R277). -/
  | ceCommandStart
  /-- CE_COMMAND_COMPLETE (R279). -/
  | ceCommandComplete
  /-- TA_COMMAND_START (R183). -/
  | taCommandStart
  /-- TA_COMMAND_COMPLETE (R183). -/
  | taCommandComplete
  /-- TA_RUN_FAULT (R194). -/
  | taRunFault
  /-- SNOP (R201). -/
  | snop
  /-- SYNCM (R208). -/
  | syncm
  /-- HALT (R209). -/
  | halt
  /-- VNOP (R201). -/
  | vnop
  /-- ENDB (R345). -/
  | endb
  /-- DONE (R345). -/
  | done
  /-- QI_TAKE_PACKET (R337). -/
  | qiTakePacket
  /-- NOP_PACKET (R341). -/
  | nopPacket
  /-- LAUNCH (R341). -/
  | launch
  /-- INVOKE (R341). -/
  | invoke
  /-- COPY (R342). -/
  | copy
  /-- WAITSEM (R341). -/
  | waitsem
  /-- SIGNALSEM (R341). -/
  | signalsem
  /-- FENCE_PACKET (R341). -/
  | fencePacket
  /-- EVENT (R341). -/
  | event
  /-- SLOTLOAD (R347). -/
  | slotload
  /-- SLOTFREE (R347). -/
  | slotfree
  /-- QPROG (R346). -/
  | qprog
  /-- MAPUPD (R385). -/
  | mapupd
  /-- MAPUPD_UNMAP (R385). -/
  | mapupdUnmap
  /-- MAPUPD_DECAY (R385). -/
  | mapupdDecay
  /-- TLBINV (R386). -/
  | tlbinv
  /-- CODEINV (R387). -/
  | codeinv
  /-- HEADCFG_ENABLE (R357). -/
  | headcfgEnable
  /-- HEADCFG_DISABLE (R357). -/
  | headcfgDisable
  /-- HEADCFG_EFFECT (R360). -/
  | headcfgEffect
  /-- RSETUP_REGISTER (R352). -/
  | rsetupRegister
  /-- RSETUP_UNREGISTER (R352). -/
  | rsetupUnregister
  /-- RSETUP_KILL (R232). -/
  | rsetupKill
  /-- GRID_READY (R349). -/
  | gridReady
  /-- GROUP_PLACEMENT (R351). -/
  | groupPlacement
  /-- GROUP_START (R17). -/
  | groupStart
  /-- GROUP_END (R18). -/
  | groupEnd
  /-- QUANTUM_EXPIRY (R353). -/
  | quantumExpiry
  /-- GROUP_SAVE_COMPLETE (R228). -/
  | groupSaveComplete
  /-- GROUP_RESUMPTION (R230). -/
  | groupResumption
  /-- RAY_QUERY_TAKE (R306). -/
  | rayQueryTake
  /-- SPLIT_RECORD_EMIT (R325). -/
  | splitRecordEmit
  /-- SPAWN_WARP_START (R326). -/
  | spawnWarpStart
  /-- RAY_QUERY_COMPLETE (R328). -/
  | rayQueryComplete
  /-- PAGE_WALK (R380). -/
  | pageWalk
  /-- CACHE_EVICTION (R242). -/
  | cacheEviction
  /-- FAULT_LOG_DRAIN (R384). -/
  | faultLogDrain
  /-- FAULT_LOG_RETEST (R384). -/
  | faultLogRetest
  /-- COUNTER_SNAPSHOT (R427). -/
  | counterSnapshot
  /-- EVENT_SEND (R434). -/
  | eventSend
  /-- RENDER_SET_LATCH (R364). -/
  | renderSetLatch
  /-- POSE_LATCH (R366). -/
  | poseLatch
  /-- BAND_DISPATCH (R367). -/
  | bandDispatch
  /-- BAND_DEADLINE (R368). -/
  | bandDeadline
  /-- BAND_SCAN_OUT (R371). -/
  | bandScanOut
  /-- RDMA_WRITE (R273). -/
  | rdmaWrite
  /-- RDMA_READ (R274). -/
  | rdmaRead
  /-- RDMA_FETCH_ADD (R432). -/
  | rdmaFetchAdd
  /-- RDMA_COMPARE_SWAP (R432). -/
  | rdmaCompareSwap
  /-- ATTEST (R442). -/
  | attest
  /-- PROVISION (R435). -/
  | provision
  /-- UPDATE (R435). -/
  | update
  /-- RESET (R438). -/
  | reset
  /-- POWER_ON (R438). -/
  | powerOn
  /-- POWER_MEASURE (R443). -/
  | powerMeasure
  /-- THERMAL_STOP (R444). -/
  | thermalStop
  /-- THERMAL_RESTART (R444). -/
  | thermalRestart
  /-- THERMAL_SHUTDOWN (R444). -/
  | thermalShutdown
  /-- LINK_LOSS (R437). -/
  | linkLoss
  /-- LINK_RETRAIN (R437). -/
  | linkRetrain
  /-- CORRECTABLE_ERROR (R234). -/
  | correctableError
  /-- UNCORRECTABLE_ERROR (R234). -/
  | uncorrectableError
  /-- MATRIX_OPERATION_COMPLETE (R213). -/
  | matrixOperationComplete
  /-- INPUT_POWER_REMOVED (R441). -/
  | inputPowerRemoved
  /-- RDMA_INVALID_REQUEST (R431). -/
  | rdmaInvalidRequest
  /-- CONGESTION_NOTIFICATION (R431). -/
  | congestionNotification
  deriving DecidableEq, Repr

end Sys2Proof
end

