-- ==== Sys2Proof/Machine/Shapes.lean ====
section
/-!
DEFINITION. The field rules of every encoding: which fields an instruction uses and how (R64 to R77,
R89, R103, R132, R154 to R161, R184, R203 to R213, R247, R269, R278, R301, R308, R345, R354, R417,
R425), and the trap causes of R218 with the checks made at decode (R74, R158).
-/

namespace Sys2Proof

/-- The trap causes (R218). -/
inductive Cause where
  | illinst | illopnd | regalign | regrange | qfield | emul | illtrit | poison | xlate | align
  | prot | descalign | fmtunder | tafmt | nocrown | weightexh | safeover | trap | brk | tafault
  | cefault | softerr
  deriving DecidableEq, Repr

/-- The CODE of a cause (R218). -/
def Cause.code : Cause → Nat
  | .illinst => 0x01 | .illopnd => 0x02 | .regalign => 0x03 | .regrange => 0x04 | .qfield => 0x05
  | .emul => 0x06 | .illtrit => 0x07 | .poison => 0x08 | .xlate => 0x09 | .align => 0x0A
  | .prot => 0x0B | .descalign => 0x0C | .fmtunder => 0x0D | .tafmt => 0x0E | .nocrown => 0x0F
  | .weightexh => 0x10 | .safeover => 0x11 | .trap => 0x12 | .brk => 0x13 | .tafault => 0x14
  | .cefault => 0x15 | .softerr => 0x16

/-- A precise trap: its cause and its TVAL. -/
structure TrapInfo where
  cause : Cause
  tval : DWord
  deriving DecidableEq, Repr

/-- What decoding depends on beside the words: the kernel header's declarations (R38, R142, R226)
and whether the warp is a spawned one (R295). `safe` holds, per entry of the save and restore table,
whether it has a T pair and whether it has an A pair. -/
structure KernelCtx where
  vregs : Nat
  sregs : Nat
  nbar : Nat
  safe : List (Bool × Bool)
  spawned : Bool
  deriving DecidableEq, Repr

/-- A context in which every declaration is at its largest. -/
def KernelCtx.full : KernelCtx :=
  { vregs := 128, sregs := 64, nbar := 16, safe := List.replicate 256 (true, true), spawned := false }

/-- What a 9-bit operand selector names (R66). -/
inductive Sel where
  | v (n : Nat) | s (n : Nat) | o (n : Nat) | x (n : Nat) | q (n : Nat)
  | reserved
  | imm (b : BitVec 8)
  deriving DecidableEq, Repr

/-- The operand that a selector names (R66). -/
def Sel.ofBits (b : BitVec 9) : Sel :=
  let n := b.toNat
  if n < 0x80 then .v n
  else if n < 0xC0 then .s (n - 0x80)
  else if n < 0xC8 then .o (n - 0xC0)
  else if n < 0xCA then .x (n - 0xC8)
  else if n < 0xCD then .q (n - 0xC9)
  else if n < 0x100 then .reserved
  else .imm (b.extractLsb' 0 8)

/-- How an instruction uses its DST field. -/
inductive DstKind where
  | none | r32 | r64 | r128
  /-- a predicate number in bits 2:0 (R94) -/
  | pred
  deriving DecidableEq, Repr

/-- How an instruction uses a source field. -/
inductive SrcKind where
  | none | r32 | r64 | r128
  /-- an s register only (R148) -/
  | sreg
  /-- a v pair or an s pair (R417) -/
  | vs64
  /-- IMM32 only (R90) -/
  | immOnly
  /-- a displacement: a short immediate or IMM32 (R134) -/
  | disp
  /-- a code, 0x100 + n (R132) -/
  | code
  /-- a predicate with an invert bit (R132, VOTE) -/
  | predSel
  /-- the format field of CVT (R110) -/
  | cvt
  deriving DecidableEq, Repr

/-- What a memory instruction accepts in its second word (R70). -/
structure MemShape where
  sems : List Nat
  scopes : List Nat
  /-- OC may be other than 0 -/
  oc : Bool
  /-- OC, SCOPE, SEM and CMASK apply to the instruction at all -/
  used : Bool
  deriving DecidableEq, Repr

def MemShape.unused : MemShape := { sems := [0], scopes := [0], oc := false, used := false }

/-- The shape of one form of a T instruction. -/
structure TShape where
  dst : DstKind := .none
  a : SrcKind := .none
  b : SrcKind := .none
  c : SrcKind := .none
  /-- XMOD bits that the form defines -/
  xmod : BitVec 4 := 0
  spec : Bool := false
  mem : MemShape := MemShape.unused
  /-- the values of IMMUSE that the form accepts beside 0 -/
  imms : List Nat := []
  noGuard : Bool := false
  noQueue : Bool := false
  emul : Bool := false
  deriving DecidableEq, Repr

/-- IMMUSE values that the register and displacement sources of a form accept (R69). -/
def immsOf (a b c : SrcKind) : List Nat :=
  let ok : SrcKind → Bool := fun k =>
    match k with
    | .r32 | .r64 | .r128 | .immOnly | .disp => true
    | _ => false
  (if ok a then [1] else []) ++ (if ok b then [2] else []) ++ (if ok c then [3] else [])

/-- A form of rows 0x0_ to 0x3_: SPEC is allowed (R72). -/
def aluShape (dst : DstKind) (a b c : SrcKind) (xmod : BitVec 4) : TShape :=
  { dst := dst, a := a, b := b, c := c, xmod := xmod, spec := true, imms := immsOf a b c }

/-- A form of rows 0x4_ and 0x5_ (R132). -/
def flowShape (dst : DstKind) (a b c : SrcKind) : TShape :=
  { dst := dst, a := a, b := b, c := c, imms := immsOf a b c }

/-- A memory form of R247. -/
def memShape (dst : DstKind) (a b c : SrcKind) (sems scopes imms : List Nat) : TShape :=
  { dst := dst, a := a, b := b, c := c, imms := imms,
    mem := { sems := sems, scopes := scopes, oc := true, used := true } }

/-- Whether the S2V index names a 64-bit register (R39). -/
def s2vIs64 (n : Nat) : Bool :=
  n == 6 || n == 10 || (16 ≤ n && n < 32) || n == 34 || n == 36 || n == 37 || n == 38

/-- Whether the S2V index is assigned (R40). -/
def s2vOk (n : Nat) : Bool := n < 14 || (16 ≤ n && n < 40)

/-- n of a code field 0x100 + n (R132). -/
def codeOf (b : BitVec 9) : Nat := (b.extractLsb' 0 8).toNat

/-- The destination kind of a load size (R248), `none` for an unassigned MOD. -/
def loadDst (mod : Nat) : Option DstKind :=
  if mod ≤ 4 then some .r32 else if mod = 5 then some .r64 else if mod = 6 then some .r128 else none

/-- The data kind of a store size (R248). -/
def storeSrc (mod : Nat) : Option SrcKind :=
  match mod with
  | 0 | 1 | 3 => some .r32
  | 5 => some .r64
  | 6 => some .r128
  | _ => none

/-- Whether an operation of R255 is 8 bytes wide. -/
def atomIs64 (mod : Nat) : Bool := mod == 1 || mod == 0xA

def allScopes : List Nat := [0, 1, 2, 3, 4]

/-- Rows 0x0_ and 0x1_ of the opcode map (R77, R89). -/
def shapeInt (op mod : Nat) (x : BitVec 4) : Option TShape :=
  let ok (c : Bool) (s : TShape) : Option TShape := if c then some s else none
  let emu (s : TShape) : TShape := { s with emul := true }
  match op with
  | 0x01 | 0x03 => ok (mod ≤ 2) (aluShape .r32 .r32 .r32 .none 0)
  | 0x02 => ok (mod = 0) (aluShape .r32 .r32 .r32 .r32 0)
  | 0x04 | 0x05 => ok (mod ≤ 1) (aluShape .r32 .r32 .none .none 0)
  | 0x06 => ok (mod = 0) (aluShape .r32 .r32 .r32 .none 0)
  | 0x07 => ok (mod ≤ 1) (aluShape .r32 .r32 .r32 .none 0)
  | 0x08 => ok (mod = 0) (aluShape .r32 .r32 .r32 .r32 0)
  | 0x09 => ok (mod ≤ 1) (aluShape .r64 .r32 .r32 .r64 0)
  | 0x0A | 0x0B => ok (mod ≤ 1) (emu (aluShape .r32 .r32 .r32 .none 0))
  | 0x0C | 0x0D => ok (mod ≤ 1) (aluShape .r32 .r32 .r32 .none 0)
  | 0x0E => some (aluShape .r32 .r32 .r32 .r32 0xF)
  | 0x0F | 0x10 | 0x11 => ok (mod ≤ 1) (aluShape .r32 .r32 .r32 .none 0)
  | 0x12 => ok (mod ≤ 1) (aluShape .r32 .r32 .r32 .r32 0)
  | 0x13 => ok (mod ≤ 1) (aluShape .r32 .r32 .r32 .none 0)
  | 0x14 => ok (mod = 0) (aluShape .r32 .r32 .r32 .r32 0)
  | 0x15 | 0x16 | 0x17 => ok (mod = 0) (aluShape .r32 .r32 .none .none 0)
  | 0x18 => ok (mod % 8 ≤ 5) (aluShape (if x.getLsbD 0 then .pred else .r32) .r32 .r32 .none 1)
  | 0x19 => some (aluShape .r32 .r32 .r32 .none 0)
  | 0x1A => ok (mod ≤ 1)
      (if mod = 0 then aluShape .r32 .r32 .none .none 0 else aluShape .r64 .r64 .none .none 0)
  | 0x1B => ok (mod = 0) (aluShape .r32 .immOnly .none .none 0)
  | 0x1C => ok (mod ≤ 7) (aluShape .r64 .r64 .r32 .none 0)
  | 0x1D => ok (mod ≤ 1) (aluShape .r64 .r64 .r64 .none 0)
  | 0x1E => ok (mod = 0) (aluShape .r32 .r32 .none .none 0)
  | 0x1F => ok (mod ≤ 3)
      { aluShape .r32 .r32 .none .none 1 with spec := !x.getLsbD 0 }
  | _ => none

/-- Rows 0x2_ and 0x3_ of the opcode map (R77, R103). -/
def shapeFloat (op mod : Nat) (x : BitVec 4) : Option TShape :=
  let ok (c : Bool) (s : TShape) : Option TShape := if c then some s else none
  let emu (s : TShape) : TShape := { s with emul := true }
  match op with
  | 0x20 => ok (mod ≤ 1) (aluShape .r32 .r32 .r32 .none 3)
  | 0x21 => ok (mod = 0) (aluShape .r32 .r32 .r32 .none 3)
  | 0x22 => ok (mod ≤ 3) (aluShape .r32 .r32 .r32 .r32 3)
  | 0x23 | 0x24 => ok (mod ≤ 1) (aluShape .r32 .r32 .r32 .none 0)
  | 0x25 => ok (mod ≤ 6) (aluShape (if x.getLsbD 0 then .pred else .r32) .r32 .r32 .none 1)
  | 0x26 => ok (mod = 0) (aluShape (if x.getLsbD 0 then .pred else .r32) .r32 .r32 .none 1)
  | 0x27 => ok (mod ≤ 3) (aluShape .r32 .r32 .none .none 0)
  | 0x28 | 0x29 | 0x2A => ok (mod = 0) (aluShape .r32 .r32 .none .none 0)
  | 0x2B => ok (mod = 0) (aluShape .r32 .r32 .r32 .none 0)
  | 0x2C | 0x2D | 0x2E | 0x2F => ok (mod = 0) (aluShape .r32 .r32 .none .none 0)
  | 0x30 => some (aluShape .r32 .r32 .cvt .none (if mod = 3 ∨ mod = 4 then 7 else 3))
  | 0x31 => ok (mod ≤ 1) (aluShape .r32 .r32 .r32 .r32 3)
  | 0x32 => ok (mod ≤ 1) (aluShape .r32 .r32 .r32 .r32 3)
  | 0x33 => ok (mod ≤ 3) (aluShape .r32 .r32 .r32 .r32 3)
  | 0x34 => ok (mod = 0) (aluShape .r32 .r64 .r64 .r32 3)
  | 0x35 => ok (mod ≤ 7) (aluShape .r32 .r32 .r32 .r32 0)
  | 0x36 => ok (mod ≤ 7) (aluShape .r32 .r64 .r32 .r32 0)
  | 0x37 => ok (mod ≤ 3) (aluShape .r32 .r32 .r32 .r32 0)
  | 0x38 => ok (mod ≤ 3) { aluShape .none .r32 .r32 .none 0 with spec := false }
  | 0x39 | 0x3A => ok (mod = 0) (emu (aluShape .r64 .r64 .r64 .none 3))
  | 0x3B => ok (mod = 0) (emu (aluShape .r64 .r64 .r64 .r64 3))
  | _ => none

/-- Rows 0x4_ and 0x5_ of the opcode map (R77, R132, R72). -/
def shapeFlow (op mod : Nat) (w : TWord) : Option TShape :=
  let ok (c : Bool) (s : TShape) : Option TShape := if c then some s else none
  let sp (s : TShape) : TShape := { s with spec := true }
  let q0 (s : TShape) : TShape := { s with noQueue := true }
  let g0 (s : TShape) : TShape := { s with noGuard := true }
  match op with
  | 0x40 => ok (mod = 0) (flowShape .none .disp .none .none)
  | 0x41 => ok (mod = 0) (flowShape .none .r32 .r32 .none)
  | 0x42 => ok (mod ≤ 1)
      (if mod = 0 then flowShape .r32 .disp .none .none else flowShape .r32 .r32 .r32 .none)
  | 0x43 => ok (mod = 0) (flowShape .none .r32 .none .none)
  | 0x44 => ok (mod = 0) (flowShape .none .none .none .none)
  | 0x45 => ok (mod = 0) (g0 (q0 (flowShape .none .code .none .none)))
  | 0x46 => ok (mod = 0) (q0 (flowShape .none .r32 .none .none))
  | 0x47 => some (flowShape .r32 .r32 .r32 .none)
  | 0x48 => ok (mod ≤ 3) (flowShape (if mod = 3 then .r32 else .pred) .predSel .none .none)
  | 0x49 => ok (mod = 0) (flowShape .pred .none .none .none)
  | 0x4A => ok (mod ≤ 3) (sp (flowShape .r32 .r32 .r32 .none))
  | 0x4B => ok (mod ≤ 2) (sp (flowShape .r32 .r32 .none .none))
  | 0x4C => ok (mod ≤ 3) (sp (flowShape .r32 .r32 .none .none))
  | 0x4D => ok (mod ≤ 3) (sp (flowShape .r32 .r32 .none .none))
  | 0x4E | 0x4F | 0x50 => ok (mod ≤ 2) (g0 (flowShape .none .code .none .none))
  | 0x51 => ok (mod = 0) (flowShape .none .none .none .none)
  | 0x52 => ok (mod = 0) (q0 (flowShape .none .code .none .none))
  | 0x53 => ok (mod = 0) (g0 (q0 (flowShape .none .none .none .none)))
  | 0x54 => ok (mod = 0) (q0 (flowShape .none .code .none .none))
  | 0x55 => ok (mod = 0)
      (sp (flowShape (if s2vIs64 (codeOf w.srca) then .r64 else .r32) .code .none .none))
  | 0x56 => ok (mod = 0) (flowShape .r32 .sreg .none .none)
  | 0x57 => ok (mod = 0) (flowShape .none .sreg .r32 .none)
  | _ => none

/-- Rows 0x6_ and 0x7_ of the opcode map (R77, R247, R269, R308, R354, R417, R425). -/
def shapeMem (op mod : Nat) : Option TShape :=
  let ok (c : Bool) (s : TShape) : Option TShape := if c then some s else none
  let sp (s : TShape) : TShape := { s with spec := true }
  let semSh (sems : List Nat) : TShape :=
    { dst := .r32, a := .r32, b := .r32, imms := [1, 2],
      mem := { sems := sems, scopes := allScopes, oc := false, used := true } }
  match op with
  | 0x60 => (loadDst mod).map fun d => sp (memShape d .r64 .r32 .none [0, 1] allScopes [2])
  | 0x61 => (storeSrc mod).map fun d => memShape .none .r64 .r32 d [0, 2] allScopes [2, 3]
  | 0x62 => (loadDst mod).map fun d => sp (memShape d .r32 .r32 .none [0, 1] [0, 1] [2])
  | 0x63 => (storeSrc mod).map fun d => memShape .none .r32 .r32 d [0, 2] [0, 1] [2, 3]
  | 0x64 => (loadDst mod).map fun d => sp (memShape d .r32 .r32 .none [0, 1] [0, 1] [2])
  | 0x65 => (storeSrc mod).map fun d => memShape .none .r32 .r32 d [0, 2] [0, 1] [2, 3]
  | 0x66 => ok (mod ≤ 0xE)
      (memShape (if atomIs64 mod then .r64 else .r32) .r64 .r32 (if atomIs64 mod then .r64 else .r32)
        [0, 1, 2, 3] allScopes [2, 3])
  | 0x67 => ok (mod ≤ 1)
      (memShape (if mod = 1 then .r64 else .r32) .r64 .r32 (if mod = 1 then .r128 else .r64)
        [0, 1, 2, 3] allScopes [2, 3])
  | 0x68 => ok (mod ≤ 0xE && mod != 9 && mod != 0xA)
      (memShape .none .r64 .r32 (if atomIs64 mod then .r64 else .r32) [0, 2] allScopes [2, 3])
  | 0x69 => ok (mod ≤ 1) (memShape .none .r64 .r32 .none [0] [0] [2])
  | 0x6A => ok (mod ≤ 2) (memShape .none .r64 .r32 .r32 [0] [0] [2, 3])
  | 0x6B => ok (mod = 0)
      { mem := { sems := [1, 2, 3], scopes := allScopes, oc := false, used := true } }
  | 0x6C => ok (mod ≤ 1) { dst := .r128, a := .vs64, b := .r128, spec := true }
  | 0x6D => ok (mod = 0)
      { a := .r64, b := .r32, c := .r32, imms := [1, 2, 3],
        mem := { sems := [2], scopes := [3, 4], oc := true, used := true } }
  | 0x70 => ok (mod = 0) { dst := .r32, a := .r128, b := .r128, c := .r128 }
  | 0x71 | 0x72 => ok (mod = 0) { dst := .r32, a := .r32, b := .r32, imms := [2] }
  | 0x73 => ok (mod = 0) { dst := .r128 }
  | 0x74 => ok (mod ≤ 1) { dst := .r32, a := if mod = 0 then .r32 else .none }
  | 0x75 | 0x76 => ok (mod = 0) (semSh [0, 2])
  | 0x77 => ok (mod = 0) (semSh [0, 1])
  | _ => none

/-- The shape of a T word's form; `none` for an unassigned OP or MOD (R77). -/
def tShape (op : Nat) (w : TWord) : Option TShape :=
  let m := w.mod.toNat
  if op < 0x20 then shapeInt op m w.ext.xmod
  else if op < 0x40 then shapeFloat op m w.ext.xmod
  else if op < 0x60 then shapeFlow op m w
  else shapeMem op m

/-! ### The checks of a T word, in the order of R74 -/

/-- Bits that an element of a CVT format occupies (R110). -/
def cvtWidth : Nat → Nat
  | 0 => 32 | 1 | 2 => 16 | 3 | 4 => 8 | 5 => 4 | 6 => 8 | 7 => 32
  | 8 | 9 => 8 | 10 | 11 => 16 | 12 | 13 => 32 | _ => 4

/-- FS of a CVT format field (R110). -/
def cvtFs (b : BitVec 9) : Nat := (b.extractLsb' 0 4).toNat
/-- ELEM of a CVT format field (R110). -/
def cvtElem (b : BitVec 9) : Nat := (b.extractLsb' 4 3).toNat

/-- The format field of a CVT is legal with destination format `fd` (R110). -/
def cvtOk (fd : Nat) (b : BitVec 9) : Bool :=
  b.extractLsb' 7 2 == 0 && cvtElem b < 32 / cvtWidth (cvtFs b) && !(cvtFs b == 7 && fd == 7)

/-- A source field of the kind holds a register or short-immediate operand. -/
def SrcKind.isReg : SrcKind → Bool
  | .r32 | .r64 | .r128 | .sreg | .vs64 => true
  | _ => false

/-- The ILLINST checks of one source field: unused fields (R65), code, predicate and displacement
fields (R132), replacement by IMM32 (R69) and the last-read mark (R25). `rep` says that IMMUSE
replaces the field, `lr` that its mark is set. -/
def srcInstOk (k : SrcKind) (f : BitVec 9) (rep lr : Bool) (fd : Nat) : Bool :=
  (if rep then f == 0 && !lr else
    match k with
    | .none => f == 0
    | .code => f.getLsbD 8
    | .predSel => f.extractLsb' 4 5 == 0
    | .disp => f.getLsbD 8
    | .immOnly => false
    | .cvt => cvtOk fd f
    | _ => true) &&
  (!lr || (k.isReg && f.toNat < 0x80))

/-- The ILLINST checks of the destination field (R65, R94, R32). -/
def dstInstOk (k : DstKind) (f : BitVec 9) (spec : Bool) : Bool :=
  match k with
  | .none => f == 0
  | .pred => f.extractLsb' 3 6 == 0 && !spec
  | _ => !(spec && 0x80 ≤ f.toNat && f.toNat < 0xC0)

/-- The second-word checks of R68 to R70. -/
def extInstOk (sh : TShape) (e : TLong) : Bool :=
  (e.immuse != 0 || e.imm32 == 0) &&
  (e.immuse == 0 || sh.imms.contains e.immuse.toNat) &&
  (e.xmod &&& ~~~sh.xmod == 0) &&
  (if sh.mem.used then
    e.scope.toNat ≤ 4 && sh.mem.scopes.contains e.scope.toNat && sh.mem.sems.contains e.sem.toNat &&
    (sh.mem.oc || e.oc == 0) && !(e.sem != 0 && e.cmask == 0)
  else e.oc == 0 && e.scope == 0 && e.sem == 0 && e.cmask == 0xFFFF)

/-- ILLINST checks that read the kernel header: save entries (R137, R226) and barrier indices
(R142), and the S2V index (R40). -/
def ctxInstOk (ctx : KernelCtx) (op : Nat) (w : TWord) : Bool :=
  let n := codeOf w.srca
  match op with
  | 0x45 => ((ctx.safe[n]?).map Prod.fst).getD false
  | 0x4E | 0x4F | 0x50 =>
    match w.mod.toNat with
    | 0 => n < ctx.nbar && n < 16
    | 1 => n < 8
    | _ => n < 4
  | 0x55 => s2vOk n
  | _ => true

/-- The ILLINST checks of a word with an assigned form (R74, order 1). -/
def tInstOk (ctx : KernelCtx) (op : Nat) (sh : TShape) (w : TWord) : Bool :=
  let e := w.ext
  let fd := w.mod.toNat
  let sp := w.spec == 1
  (!sp || sh.spec) &&
  dstInstOk sh.dst w.dst sp &&
  srcInstOk sh.a w.srca (e.immuse == 1) (w.lr.getLsbD 2) fd &&
  srcInstOk sh.b w.srcb (e.immuse == 2) (w.lr.getLsbD 1) fd &&
  srcInstOk sh.c w.srcc (e.immuse == 3) (w.lr.getLsbD 0) fd &&
  extInstOk sh e &&
  (!sh.noGuard || (w.pred == 7 && w.pneg == 0)) &&
  (!sh.noQueue || (w.popq == 0 && w.pushq == 0)) &&
  ctxInstOk ctx op w

/-- A register field naming q1 to q3 that differs from POPQ (R34). -/
def qMismatch (k : SrcKind) (f : BitVec 9) (popq : BitVec 3) : Bool :=
  k.isReg && (match Sel.ofBits f with | .q n => n != popq.toNat | _ => false)

/-- The QFIELD checks (R73, R34, R295; R74, order 2). -/
def tQueueOk (ctx : KernelCtx) (sh : TShape) (w : TWord) : Bool :=
  w.popq.toNat ≤ 3 && (w.pushq == 0 || w.pushq == 4 || w.pushq == 5) &&
  !(ctx.spawned && (w.popq != 0 || w.pushq != 0)) &&
  !qMismatch sh.a w.srca w.popq && !qMismatch sh.b w.srcb w.popq && !qMismatch sh.c w.srcc w.popq

/-- A destination selector that R66, R31 or R249 refuses (ILLOPND). -/
def dstOpndBad (k : DstKind) (f : BitVec 9) : Bool :=
  match k, Sel.ofBits f with
  | .none, _ => false
  | .pred, _ => false
  | _, .reserved => true
  | _, .q _ => true
  | _, .imm _ => true
  | _, .x 1 => true
  | .r128, .x _ => true
  | _, _ => false

/-- A source selector that R66, R37, R148, R249 or R417 refuses (ILLOPND). -/
def srcOpndBad (k : SrcKind) (f : BitVec 9) (rep : Bool) : Bool :=
  if rep then k == .r128
  else
    match k, Sel.ofBits f with
    | .r32, .reserved | .r64, .reserved | .r128, .reserved | .sreg, .reserved | .vs64, .reserved => true
    | .r64, .q _ => true
    | .r128, .q _ | .r128, .x _ | .r128, .imm _ => true
    | .sreg, .s _ => false
    | .sreg, _ => true
    | .vs64, .v _ | .vs64, .s _ => false
    | .vs64, _ => true
    | _, _ => false

/-- Registers that an operand of the kind spans. -/
def SrcKind.regs : SrcKind → Nat
  | .r32 | .sreg => 1
  | .r64 | .vs64 => 2
  | .r128 => 4
  | _ => 0

/-- Registers that a destination of the kind spans. -/
def DstKind.regs : DstKind → Nat
  | .r32 => 1
  | .r64 => 2
  | .r128 => 4
  | _ => 0

/-- The alignment rule of pairs and quadruples (R37, R249), on a selector. -/
def selMisaligned (n : Nat) (f : BitVec 9) : Bool :=
  match Sel.ofBits f with
  | .v i | .s i | .o i => i % n != 0
  | .x i => n == 2 && i != 0
  | _ => false

/-- The range rule of R38, on a selector. -/
def selOutOfRange (ctx : KernelCtx) (n : Nat) (f : BitVec 9) : Bool :=
  match Sel.ofBits f with
  | .v i => ctx.vregs < i + n
  | .s i => ctx.sregs < i + n
  | _ => false

/-- TVAL of an operand trap (R218): bits 10:9 the field, bits 8:0 the selector. -/
def opndTval (field : Nat) (f : BitVec 9) : DWord :=
  BitVec.ofNat 64 (field * 512 + f.toNat)

/-- The first of DST, A, B and C that fails a check, as a trap: where several do, TVAL names the first (log 60). -/
def firstOpnd (cause : Cause) (l : List (Bool × Nat × BitVec 9)) : Option TrapInfo :=
  (l.find? fun x => x.1).map fun x => { cause := cause, tval := opndTval x.2.1 x.2.2 }

/-- The decode checks of a T word (R74), all but those of LEN: the trap that is taken, if any. -/
def tCheck (ctx : KernelCtx) (op : Nat) (w : TWord) : Option TrapInfo :=
  match tShape op w with
  | none => some { cause := .illinst, tval := 0 }
  | some sh =>
    let im := w.ext.immuse.toNat
    let regSrc (k : SrcKind) (field : Nat) : Bool := k.isReg && im != field
    if !tInstOk ctx op sh w then some { cause := .illinst, tval := 0 }
    else if !tQueueOk ctx sh w then
      some { cause := .qfield, tval := BitVec.ofNat 64 (w.pushq.toNat * 8 + w.popq.toNat) }
    else
      (firstOpnd .illopnd
        [(dstOpndBad sh.dst w.dst, 0, w.dst), (srcOpndBad sh.a w.srca (im == 1), 1, w.srca),
         (srcOpndBad sh.b w.srcb (im == 2), 2, w.srcb), (srcOpndBad sh.c w.srcc (im == 3), 3, w.srcc)]) <|>
      (firstOpnd .regalign
        [(1 < sh.dst.regs && selMisaligned sh.dst.regs w.dst, 0, w.dst),
         (regSrc sh.a 1 && 1 < sh.a.regs && selMisaligned sh.a.regs w.srca, 1, w.srca),
         (regSrc sh.b 2 && 1 < sh.b.regs && selMisaligned sh.b.regs w.srcb, 2, w.srcb),
         (regSrc sh.c 3 && 1 < sh.c.regs && selMisaligned sh.c.regs w.srcc, 3, w.srcc)]) <|>
      (firstOpnd .regrange
        [(0 < sh.dst.regs && selOutOfRange ctx sh.dst.regs w.dst, 0, w.dst),
         (regSrc sh.a 1 && selOutOfRange ctx sh.a.regs w.srca, 1, w.srca),
         (regSrc sh.b 2 && selOutOfRange ctx sh.b.regs w.srcb, 2, w.srcb),
         (regSrc sh.c 3 && selOutOfRange ctx sh.c.regs w.srcc, 3, w.srcc)])

/-! ### The checks of an A word (R154 to R161, R184, R278, R301, R425) -/

/-- Bits h:l of an A word's S2 field, as a number. -/
def AWord.s2bits (w : AWord) (h l : Nat) : Nat := (w.s2.extractLsb' l (h + 1 - l)).toNat

/-- Which prefixes an A instruction accepts: IUSE values, and whether OC, SCOPE and SEM may be other
than their defaults, with the SEM values accepted. -/
structure PrefixRule where
  iuses : List Nat
  oc : Bool := false
  scope : Bool := false
  sems : List Nat := [0]
  grpOnly : Bool := false
  deriving DecidableEq, Repr

/-- The prefix rule of each A opcode that accepts one; `none` for the others. -/
def prefixRule (op : Nat) : Option PrefixRule :=
  match op with
  | 0x01 | 0x02 | 0x03 | 0x04 | 0x05 | 0x06 | 0x07 | 0x08 | 0x0B => some { iuses := [1, 2] }
  | 0x0A => some { iuses := [1] }
  | 0x0C => some { iuses := [2] }
  | 0x1A => some { iuses := [3] }
  | 0x20 => some { iuses := [0, 1, 3], oc := true, scope := true, sems := [0, 1] }
  | 0x21 => some { iuses := [0, 1, 3], oc := true, scope := true, sems := [0, 2] }
  | 0x22 => some { iuses := [0, 1, 3], oc := true, scope := true, sems := [0, 1], grpOnly := true }
  | 0x23 => some { iuses := [0, 1, 3], oc := true, scope := true, sems := [0, 2], grpOnly := true }
  | 0x24 => some { iuses := [1] }
  | 0x27 | 0x28 => some { iuses := [0, 2, 3], scope := true, sems := [0, 2] }
  | 0x29 => some { iuses := [0, 2, 3], scope := true, sems := [0, 1] }
  | 0x30 | 0x31 | 0x32 | 0x33 | 0x34 => some { iuses := [0], scope := true }
  | 0x35 | 0x36 => some { iuses := [2] }
  | _ => none

/-- The prefix of an A long form is accepted by the instruction (R156, R157). -/
def prefixOk (op : Nat) (p : APrefix) : Bool :=
  match prefixRule op with
  | none => false
  | some r =>
    p.scope.toNat ≤ 4 && r.iuses.contains p.iuse.toNat &&
    (r.oc || p.oc == 0) && (r.scope || p.scope == 0) && (!r.grpOnly || p.scope == 0) &&
    r.sems.contains p.sem.toNat &&
    (p.iuse != 0 || p.imm32 == 0) &&
    (p.iuse != 3 || (p.imm32.extractLsb' 16 16 == 0 && p.imm32.extractLsb' 0 16 != 0))

/-- An S2 field of kind RI whose register form uses no XS bit but those of `xs` (bits 8:5). -/
def s2RI (w : AWord) (xs : Nat) : Bool :=
  w.s2.getLsbD 9 || (w.s2bits 8 5) &&& (15 - xs) == 0

/-- The queue fields hold 0 (R161, "0 only"). -/
def noQueues (w : AWord) : Bool := w.popq == 0 && w.pushq == 0

/-- The field rules of an A instruction, less those of the prefix. `iuse` is that of the prefix in
force, `safe` the save and restore table (R172). -/
def aFieldsOk (safe : List (Bool × Bool)) (op : Nat) (iuse : Nat) (w : AWord) : Bool :=
  let s1z := iuse != 2 || w.s1 == 0
  match op with
  | 0x01 | 0x02 | 0x03 | 0x04 | 0x05 | 0x06 =>
    s1z && (if iuse = 1 then w.s2 == 0 else s2RI w 0)
  | 0x07 =>
    s1z && (if iuse = 1 then w.s2 == 0
      else if w.s2.getLsbD 9 then w.s2bits 8 6 == 0 else s2RI w 0)
  | 0x08 =>
    s1z && (if iuse = 1 then (w.s2 &&& ~~~(0x40#10)) == 0
      else if w.s2.getLsbD 9 then w.s2bits 8 7 == 0 else s2RI w 1)
  | 0x09 =>
    w.s1 == 0 && (match w.s2bits 9 5 with
      | 0 => true
      | 1 => w.d.extractLsb' 2 3 == 0
      | 2 => w.s2bits 4 2 == 0
      | _ => false)
  | 0x0A => w.s1 == 0 && (iuse != 1 || w.s2bits 9 1 == 0)
  | 0x0B => s1z && (if iuse = 1 then w.s2 == 0 else s2RI w 0)
  | 0x0C => s1z && w.s2bits 9 8 == 0
  | 0x0D =>
    let n := w.s2bits 9 0
    w.s1 == 0 && ((5 ≤ n && n ≤ 10) || n == 13 || (16 ≤ n && n < 40) || (48 ≤ n && n ≤ 50))
  | 0x0E => w.d == 0 && w.s1 == 0 && w.s2 == 0
  | 0x10 => w.d.extractLsb' 3 2 == 0
  | 0x11 | 0x12 => true
  | 0x13 => w.d == 0 && w.s2 == 0
  | 0x14 => w.d.extractLsb' 2 3 == 0
  | 0x15 => w.d == 0 && w.s1 == 0 && w.s2bits 9 3 == 0
  | 0x16 =>
    w.d == 0 && w.s1 == 0 && w.s2bits 9 8 == 0 && noQueues w &&
    ((safe[w.s2bits 7 0]?).map Prod.snd).getD false
  | 0x17 | 0x19 => w.d == 0 && w.s1 == 0 && w.s2 == 0 && noQueues w
  | 0x18 => w.d == 0 && w.s1 == 0 && w.s2bits 9 8 == 0 && noQueues w
  | 0x1A =>
    w.d == 0 && w.s1 == 0 && w.s2bits 9 5 == 0 && w.s2bits 2 0 ≤ 4 && w.s2bits 4 3 != 0
  | 0x20 | 0x21 | 0x22 | 0x23 => iuse != 1 || w.s2bits 7 0 == 0
  | 0x24 =>
    w.d == 0 && (if iuse = 1 then w.s2 == 0 else s2RI w 0) &&
    1 ≤ w.pushq.toNat && w.pushq.toNat ≤ 3
  | 0x25 => w.s1 == 0 && w.s2 == 0 && 4 ≤ w.popq.toNat
  | 0x26 =>
    let q := (w.d.extractLsb' 0 3).toNat
    let n := w.s2bits 9 0
    let depth := if q = 0 ∨ q = 6 then 8 else 16
    w.s1 == 0 && !w.d.getLsbD 4 && (if w.d.getLsbD 3 then q ≤ 3 else 4 ≤ q) && 1 ≤ n && n ≤ depth
  | 0x27 | 0x28 | 0x29 => s1z && w.s2bits 9 6 == 0
  | 0x30 | 0x31 | 0x32 | 0x33 =>
    w.d == 0 && (w.s2.getLsbD 3 || w.s2bits 9 4 == 0)
  | 0x34 => w.s2.getLsbD 3 || w.s2bits 9 4 == 0
  | 0x35 | 0x36 => w.d == 0 && s1z && w.s2 == 0
  | 0x37 | 0x38 | 0x3A => w.d == 0 && w.s1 == 0 && w.s2 == 0
  | 0x39 => w.s1 == 0 && w.s2 == 0
  | 0x3B =>
    w.d == 0 && w.s1 == 0 && w.s2bits 7 3 == 0 && !w.s2.getLsbD 9 &&
    (!w.s2.getLsbD 8 || w.s2bits 2 0 == 0)
  | _ => false

/-- The QFIELD check of an A word (R158). -/
def aQueueOk (w : AWord) : Bool :=
  (w.popq == 0 || 4 ≤ w.popq.toNat) && w.pushq.toNat ≤ 3

/-- The decode checks of an A instruction (R157, R158). -/
def aCheck (safe : List (Bool × Bool)) (op : Nat) (p : Option APrefix) (w : AWord) : Option TrapInfo :=
  let ok := aFieldsOk safe op ((p.map fun q => q.iuse.toNat).getD 0) w &&
    (match p with | none => true | some q => prefixOk op q)
  if !ok then some { cause := .illinst, tval := 0 }
  else if !aQueueOk w then
    some { cause := .qfield, tval := BitVec.ofNat 64 (w.pushq.toNat * 8 + w.popq.toNat) }
  else none

/-! ### The field rules of the SSP slots (R203 to R214) -/

/-- B of an S slot names a register or an immediate (R204). -/
def sRegB (w : SSlot) : Bool := w.i == 1 || w.b.extractLsb' 5 11 == 0

/-- The field rules of an S operation (R208). POSE and BANDI hold two rows each: `sub` is bit 15 of B. -/
def sFieldsOk (op : Nat) (w : SSlot) : Bool :=
  match op with
  | 0x00 => w.i == 0 && w.d == 0 && w.a == 0 && w.b == 0
  | 0x01 | 0x02 | 0x03 | 0x04 | 0x05 | 0x06 | 0x07 => sRegB w
  | 0x08 => w.a == 0 && sRegB w
  | 0x09 => w.a == 0 && w.i == 1
  | 0x0A => w.d.extractLsb' 3 2 == 0 && (w.i == 1 || w.b.extractLsb' 5 8 == 0)
  | 0x0B => w.i == 1 && w.d == 0 && w.a == 0
  | 0x0C => w.i == 1 && w.a == 0 && w.d.extractLsb' 3 2 != 3
  | 0x0D => w.i == 1 && w.d == 0
  | 0x0E => w.i == 1 && w.b.extractLsb' 3 12 == 0 && (if w.b.getLsbD 15 then w.d == 0 else w.a == 0)
  | 0x0F => w.i == 1 && w.a == 0 && w.b.extractLsb' 3 12 == 0 &&
      (!w.b.getLsbD 15 || (w.d == 0 && w.b.extractLsb' 0 3 == 0))
  | 0x10 | 0x11 => w.i == 0 && w.d == 0 && w.a == 0 && w.b == 0
  | _ => false

/-- The field rules of a V operation (R205, R210). -/
def vFieldsOk (op : Nat) (w : VSlot) : Bool :=
  let msk := w.mke == 1 || w.mreg == 0
  let ty := w.ty.toNat
  let f32 := ty = 0
  match op with
  | 0x00 => w.mreg == 0 && w.mke == 0 && ty = 0 && w.d == 0 && w.a == 0 && w.b == 0 && w.sub == 0
  | 0x01 | 0x02 | 0x03 | 0x05 | 0x06 => msk && ty ≤ 2 && w.sub == 0
  | 0x04 | 0x0D | 0x0E => msk && f32 && w.sub == 0
  | 0x07 | 0x08 | 0x09 => msk && f32 && w.sub == 0 && w.b == 0
  | 0x0A => msk && f32 && w.b == 0
  | 0x0B => msk && ty ≤ 2 && w.d.extractLsb' 3 3 == 0 &&
      (w.sub.toNat ≤ 5 || (w.sub == 6 && f32))
  | 0x0C => w.mke == 1 && f32 && w.sub == 0
  | 0x0F => msk && f32 && (match w.sub.toNat with
      | 0 => !w.a.getLsbD 5 && w.b == 0
      | 1 => w.b.extractLsb' 4 2 == 0
      | 2 => w.a == 0 && w.b == 0
      | _ => false)
  | 0x10 => msk && f32 && w.sub.toNat ≤ 1
  | _ => false

/-- The field rules of an M operation (R206, R211 to R214). -/
def mFieldsOk (op : Nat) (w : MSlot) : Bool :=
  let msk := w.mke == 1 || w.mreg == 0
  let nomask := w.mke == 0 && w.mreg == 0
  match op with
  | 0x00 => nomask && w.d == 0 && w.a == 0 && w.b == 0 && w.sub == 0
  | 0x01 | 0x02 => msk
  | 0x03 => msk && !w.a.getLsbD 0 && w.b == 0 && !w.sub.getLsbD 6
  | 0x04 => nomask && w.a == 0 && w.b == 0 && !w.d.getLsbD 0 && !w.sub.getLsbD 0
  | 0x05 => nomask && w.a == 0 && w.b.extractLsb' 2 3 == 0 && w.b.extractLsb' 0 2 != 3 &&
      !w.sub.getLsbD 6 && !w.sub.getLsbD 0
  | 0x06 | 0x08 => nomask && w.d == 0 && w.b == 0 && w.sub.extractLsb' 2 5 == 0
  | 0x07 => nomask && w.d == 0 && w.b == 0 && w.sub.extractLsb' 1 6 == 0
  | 0x09 => msk && !w.d.getLsbD 0 && w.sub == 0
  | _ => false

/-! ### The field rules of a bytecode word (R345) -/

/-- A SRC operand: an immediate, or a register with bits 6:3 zero. -/
def qSrcOk (w : QWord) : Bool := w.x.getLsbD 7 || w.x.extractLsb' 3 4 == 0

/-- The field rules of a bytecode word; false for an unassigned op. -/
def qFieldsOk (op : Nat) (w : QWord) : Bool :=
  match op with
  | 0x00 => w.x.extractLsb' 4 4 == 0
  | 0x01 => w.x.extractLsb' 3 3 == 0
  | 0x02 | 0x03 | 0x04 | 0x05 | 0x06 | 0x07 | 0x08 => qSrcOk w
  | 0x09 => w.x.getLsbD 7 || w.x.extractLsb' 3 3 == 0
  | 0x0A | 0x0B => w.r == 0
  | 0x0C => true
  | 0x0D => w.r == 0 && w.x == 0
  | 0x0E => w.x == 0
  | 0x0F => w.x.extractLsb' 4 4 == 0
  | 0x10 => w.r == 0 && w.x.extractLsb' 4 4 == 0
  | 0x11 => w.r == 0 && w.x == 0
  | 0x12 => w.r == 0
  | _ => false

end Sys2Proof
end

