-- ==== Sys2Proof/Machine/Opcodes.lean ====
section
/-!
DEFINITION. The opcode maps: from an opcode and its fields to the instruction, and back (R77, R160,
R207, R345).
-/

namespace Sys2Proof

/-- The instruction of a T word with the given OP (R77). -/
def Instr.ofT (op : Nat) (w : TWord) : Option Instr :=
  match op with
  | 0x01 => some (.add w)
  | 0x02 => some (.add3 w)
  | 0x03 => some (.sub w)
  | 0x04 => some (.neg w)
  | 0x05 => some (.abs w)
  | 0x06 => some (.mullo w)
  | 0x07 => some (.mulhi w)
  | 0x08 => some (.mad w)
  | 0x09 => some (.madw w)
  | 0x0A => some (.div w)
  | 0x0B => some (.rem w)
  | 0x0C => some (.min w)
  | 0x0D => some (.max w)
  | 0x0E => some (.lop3 w)
  | 0x0F => some (.shl w)
  | 0x10 => some (.shr w)
  | 0x11 => some (.sra w)
  | 0x12 => some (.fsh w)
  | 0x13 => some (.bfx w)
  | 0x14 => some (.bfi w)
  | 0x15 => some (.popc w)
  | 0x16 => some (.clz w)
  | 0x17 => some (.brev w)
  | 0x18 => some (.cmp w)
  | 0x19 => some (.sel w)
  | 0x1A => some (.mov w)
  | 0x1B => some (.movi w)
  | 0x1C => some (.lea w)
  | 0x1D => some (.addW w)
  | 0x1E => some (.packT5 w)
  | 0x1F => some (.unpackT5 w)
  | 0x20 => some (.fadd w)
  | 0x21 => some (.fmul w)
  | 0x22 => some (.ffma w)
  | 0x23 => some (.fmin w)
  | 0x24 => some (.fmax w)
  | 0x25 => some (.fcmp w)
  | 0x26 => some (.fclass w)
  | 0x27 => some (.frnd w)
  | 0x28 => some (.frcp w)
  | 0x29 => some (.frsq w)
  | 0x2A => some (.fsqrt w)
  | 0x2B => some (.fdiv w)
  | 0x2C => some (.fexp2 w)
  | 0x2D => some (.flog2 w)
  | 0x2E => some (.fsint w)
  | 0x2F => some (.fcost w)
  | 0x30 => some (.cvt w)
  | 0x31 => some (.hfma2 w)
  | 0x32 => some (.dot2 w)
  | 0x33 => some (.dot4 w)
  | 0x34 => some (.dot8 w)
  | 0x35 => some (.idot4 w)
  | 0x36 => some (.dotT5 w)
  | 0x37 => some (.cbx w)
  | 0x38 => some (.cbld w)
  | 0x39 => some (.dadd w)
  | 0x3A => some (.dmul w)
  | 0x3B => some (.dfma w)
  | 0x40 => some (.bra w)
  | 0x41 => some (.brx w)
  | 0x42 => if w.mod = 0 then some (.call w) else some (.callX w)
  | 0x43 => some (.ret w)
  | 0x44 => some (.exit w)
  | 0x45 => some (.safept w)
  | 0x46 => some (.setpc w)
  | 0x47 => some (.selc w)
  | 0x48 => some (.vote w)
  | 0x49 => some (.elect w)
  | 0x4A => some (.shfl w)
  | 0x4B => some (.qswp w)
  | 0x4C => some (.qbc w)
  | 0x4D => some (.qdd w)
  | 0x4E => some (.barArv w)
  | 0x4F => some (.barWt w)
  | 0x50 => some (.barSync w)
  | 0x51 => some (.nop w)
  | 0x52 => some (.trap w)
  | 0x54 => some (.brk w)
  | 0x53 => some (.tret w)
  | 0x55 => some (.s2v w)
  | 0x56 => some (.vget w)
  | 0x57 => some (.vput w)
  | 0x60 => some (.ld w)
  | 0x61 => some (.st w)
  | 0x62 => some (.lds w)
  | 0x63 => some (.sts w)
  | 0x64 => some (.ldx w)
  | 0x65 => some (.stx w)
  | 0x66 => some (.atom w)
  | 0x67 => some (.cas w)
  | 0x68 => some (.red w)
  | 0x69 => some (.pfh w)
  | 0x6A => some (.reside w)
  | 0x6B => some (.fence w)
  | 0x6C => some (.sample w)
  | 0x6D => some (.lnch w)
  | 0x70 => some (.rqRay w)
  | 0x71 => some (.rqBeam w)
  | 0x72 => some (.rqCone w)
  | 0x73 => some (.rpop w)
  | 0x74 => some (.rstat w)
  | 0x75 => some (.semadd w)
  | 0x76 => some (.semset w)
  | 0x77 => some (.semwait w)
  | _ => none

/-- The instruction of an A word with the given OP (R160). -/
def Instr.ofA (op : Nat) (w : AWord) : Option Instr :=
  match op with
  | 0x17 => some .aexit
  | 0x19 => some .aretT
  | 0x01 => some (.aadd w)
  | 0x02 => some (.asub w)
  | 0x03 => some (.amul w)
  | 0x04 => some (.aand w)
  | 0x05 => some (.aor w)
  | 0x06 => some (.axor w)
  | 0x07 => some (.ashl w)
  | 0x08 => some (.ashr w)
  | 0x09 => some (.amov w)
  | 0x0A => some (.amovi w)
  | 0x0B => some (.acmp w)
  | 0x0C => some (.asel w)
  | 0x0D => some (.as2a w)
  | 0x0E => some (.anop w)
  | 0x10 => some (.abr w)
  | 0x11 => some (.ajmp w)
  | 0x12 => some (.acall w)
  | 0x13 => some (.aret w)
  | 0x14 => some (.aloop w)
  | 0x15 => some (.aend w)
  | 0x16 => some (.asafe w)
  | 0x18 => some (.atrap w)
  | 0x1A => some (.afence w)
  | 0x20 => some (.ald w)
  | 0x21 => some (.ast w)
  | 0x22 => some (.alds w)
  | 0x23 => some (.asts w)
  | 0x24 => some (.qpush w)
  | 0x25 => some (.qpop w)
  | 0x26 => some (.awaitq w)
  | 0x27 => some (.semaddA w)
  | 0x28 => some (.semsetA w)
  | 0x29 => some (.semwaitA w)
  | 0x30 => some (.cpy w)
  | 0x31 => some (.cpyx w)
  | 0x32 => some (.cpylv w)
  | 0x33 => some (.kvapp w)
  | 0x34 => some (.cpyw w)
  | 0x35 => some (.fmtq w)
  | 0x36 => some (.taRun w)
  | 0x37 => some (.taZero w)
  | 0x38 => some (.taSwap w)
  | 0x39 => some (.tastat w)
  | 0x3A => some (.crownTake w)
  | 0x3B => some (.crownPass w)
  | _ => none

/-- The instruction of an A long form with the given OP (R160, R164). -/
def Instr.ofALong (op : Nat) (p : APrefix) (w : AWord) : Option Instr :=
  match op with
  | 0x01 => some (.aaddLong p w)
  | 0x02 => some (.asubLong p w)
  | 0x03 => some (.amulLong p w)
  | 0x04 => some (.aandLong p w)
  | 0x05 => some (.aorLong p w)
  | 0x06 => some (.axorLong p w)
  | 0x07 => some (.ashlLong p w)
  | 0x08 => some (.ashrLong p w)
  | 0x0A => if w.s2.getLsbD 0 then some (.amoviH p w) else some (.amoviLong p w)
  | 0x0B => some (.acmpLong p w)
  | 0x0C => some (.aselLong p w)
  | 0x1A => some (.afenceLong p w)
  | 0x20 => some (.aldLong p w)
  | 0x21 => some (.astLong p w)
  | 0x22 => some (.aldsLong p w)
  | 0x23 => some (.astsLong p w)
  | 0x24 => some (.qpushLong p w)
  | 0x27 => some (.semaddALong p w)
  | 0x28 => some (.semsetALong p w)
  | 0x29 => some (.semwaitALong p w)
  | 0x30 => some (.cpyLong p w)
  | 0x31 => some (.cpyxLong p w)
  | 0x32 => some (.cpylvLong p w)
  | 0x33 => some (.kvappLong p w)
  | 0x34 => some (.cpywLong p w)
  | 0x35 => some (.fmtqLong p w)
  | 0x36 => some (.taRunLong p w)
  | _ => none

/-- The operation of an S slot with the given OP (R207). -/
def Instr.ofS (op : Nat) (w : SSlot) : Option Instr :=
  match op with
  | 0x00 => some .snop
  | 0x10 => some .syncm
  | 0x11 => some .halt
  | 0x01 => some (.sadd w)
  | 0x02 => some (.ssub w)
  | 0x03 => some (.smul w)
  | 0x04 => some (.sand w)
  | 0x05 => some (.sor w)
  | 0x06 => some (.sshl w)
  | 0x07 => some (.sshr w)
  | 0x08 => some (.smov w)
  | 0x09 => some (.smovh w)
  | 0x0A => some (.scmp w)
  | 0x0B => some (.br w)
  | 0x0C => some (.brc w)
  | 0x0D => some (.loop w)
  | 0x0E => if w.b.getLsbD 15 then some (.poseW w) else some (.poseR w)
  | 0x0F => if w.b.getLsbD 15 then some (.bandiNext w) else some (.bandiRd w)
  | _ => none

/-- The operation of a V slot with the given OP (R207). -/
def Instr.ofV (op : Nat) (w : VSlot) : Option Instr :=
  match op with
  | 0x00 => some .vnop
  | 0x01 => some (.vadd w)
  | 0x02 => some (.vsub w)
  | 0x03 => some (.vmul w)
  | 0x04 => some (.vfma w)
  | 0x05 => some (.vmin w)
  | 0x06 => some (.vmax w)
  | 0x07 => some (.vrcp w)
  | 0x08 => some (.vrsq w)
  | 0x09 => some (.vflr w)
  | 0x0A => some (.vcvt w)
  | 0x0B => some (.vcmp w)
  | 0x0C => some (.vsel w)
  | 0x0D => some (.vlerp w)
  | 0x0E => some (.vperm w)
  | 0x0F => some (.vbcast w)
  | 0x10 => some (.vpack w)
  | _ => none

/-- The operation of the M slot with the given OP; OP 0 is the slot's NOP and no row (R201, R207). -/
def Instr.ofM (op : Nat) (w : MSlot) : Option Instr :=
  match op with
  | 0x01 => some (.lbld w)
  | 0x02 => some (.lbst w)
  | 0x03 => some (.gld w)
  | 0x04 => some (.wsamp w)
  | 0x05 => some (.dsamp w)
  | 0x06 => some (.mxld w)
  | 0x07 => some (.mxrun w)
  | 0x08 => some (.mxst w)
  | 0x09 => some (.emit w)
  | _ => none

/-- The bytecode instruction with the given op (R345). -/
def Instr.ofQ (op : Nat) (w : QWord) : Option Instr :=
  match op with
  | 0x0D => some .endb
  | 0x11 => some .done
  | 0x00 => some (.ldp w)
  | 0x01 => some (.ldm w)
  | 0x02 => some (.movb w)
  | 0x03 => some (.addb w)
  | 0x04 => some (.subb w)
  | 0x05 => some (.andb w)
  | 0x06 => some (.orb w)
  | 0x07 => some (.shlb w)
  | 0x08 => some (.shrb w)
  | 0x09 => some (.cmpb w)
  | 0x0A => some (.jf w)
  | 0x0B => some (.jfc w)
  | 0x0C => some (.loopb w)
  | 0x0E => some (.chkres w)
  | 0x0F => some (.reloc w)
  | 0x10 => some (.emitC w)
  | 0x12 => some (.fail w)
  | _ => none

/-- The instruction words of a row: which stream its words belong to, its opcode and its fields. -/
inductive View where
  | t (op : Nat) (w : TWord)
  | a (op : Nat) (w : AWord)
  | aLong (op : Nat) (p : APrefix) (w : AWord)
  | s (op : Nat) (w : SSlot)
  | v (op : Nat) (w : VSlot)
  | m (op : Nat) (w : MSlot)
  | q (op : Nat) (w : QWord)
  /-- a packet or an event: no stream holds it -/
  | none
  deriving DecidableEq, Repr

/-- The stream, opcode and fields of an instruction (R77, R160, R207, R345). -/
def Instr.view : Instr → View
  | .add w => .t 0x01 w
  | .add3 w => .t 0x02 w
  | .sub w => .t 0x03 w
  | .neg w => .t 0x04 w
  | .abs w => .t 0x05 w
  | .mullo w => .t 0x06 w
  | .mulhi w => .t 0x07 w
  | .mad w => .t 0x08 w
  | .madw w => .t 0x09 w
  | .div w => .t 0x0A w
  | .rem w => .t 0x0B w
  | .min w => .t 0x0C w
  | .max w => .t 0x0D w
  | .lop3 w => .t 0x0E w
  | .shl w => .t 0x0F w
  | .shr w => .t 0x10 w
  | .sra w => .t 0x11 w
  | .fsh w => .t 0x12 w
  | .bfx w => .t 0x13 w
  | .bfi w => .t 0x14 w
  | .popc w => .t 0x15 w
  | .clz w => .t 0x16 w
  | .brev w => .t 0x17 w
  | .cmp w => .t 0x18 w
  | .sel w => .t 0x19 w
  | .mov w => .t 0x1A w
  | .movi w => .t 0x1B w
  | .lea w => .t 0x1C w
  | .addW w => .t 0x1D w
  | .packT5 w => .t 0x1E w
  | .unpackT5 w => .t 0x1F w
  | .fadd w => .t 0x20 w
  | .fmul w => .t 0x21 w
  | .ffma w => .t 0x22 w
  | .fmin w => .t 0x23 w
  | .fmax w => .t 0x24 w
  | .fcmp w => .t 0x25 w
  | .fclass w => .t 0x26 w
  | .frnd w => .t 0x27 w
  | .frcp w => .t 0x28 w
  | .frsq w => .t 0x29 w
  | .fsqrt w => .t 0x2A w
  | .fdiv w => .t 0x2B w
  | .fexp2 w => .t 0x2C w
  | .flog2 w => .t 0x2D w
  | .fsint w => .t 0x2E w
  | .fcost w => .t 0x2F w
  | .cvt w => .t 0x30 w
  | .hfma2 w => .t 0x31 w
  | .dot2 w => .t 0x32 w
  | .dot4 w => .t 0x33 w
  | .dot8 w => .t 0x34 w
  | .idot4 w => .t 0x35 w
  | .dotT5 w => .t 0x36 w
  | .cbx w => .t 0x37 w
  | .cbld w => .t 0x38 w
  | .cbldFill => .none
  | .dadd w => .t 0x39 w
  | .dmul w => .t 0x3A w
  | .dfma w => .t 0x3B w
  | .bra w => .t 0x40 w
  | .brx w => .t 0x41 w
  | .call w => .t 0x42 w
  | .callX w => .t 0x42 w
  | .ret w => .t 0x43 w
  | .exit w => .t 0x44 w
  | .safept w => .t 0x45 w
  | .setpc w => .t 0x46 w
  | .selc w => .t 0x47 w
  | .vote w => .t 0x48 w
  | .elect w => .t 0x49 w
  | .shfl w => .t 0x4A w
  | .qswp w => .t 0x4B w
  | .qbc w => .t 0x4C w
  | .qdd w => .t 0x4D w
  | .barArv w => .t 0x4E w
  | .barWt w => .t 0x4F w
  | .barSync w => .t 0x50 w
  | .nop w => .t 0x51 w
  | .trap w => .t 0x52 w
  | .brk w => .t 0x54 w
  | .tret w => .t 0x53 w
  | .s2v w => .t 0x55 w
  | .vget w => .t 0x56 w
  | .vput w => .t 0x57 w
  | .ld w => .t 0x60 w
  | .st w => .t 0x61 w
  | .lds w => .t 0x62 w
  | .sts w => .t 0x63 w
  | .ldx w => .t 0x64 w
  | .stx w => .t 0x65 w
  | .atom w => .t 0x66 w
  | .cas w => .t 0x67 w
  | .red w => .t 0x68 w
  | .pfh w => .t 0x69 w
  | .reside w => .t 0x6A w
  | .fence w => .t 0x6B w
  | .sample w => .t 0x6C w
  | .lnch w => .t 0x6D w
  | .rqRay w => .t 0x70 w
  | .rqBeam w => .t 0x71 w
  | .rqCone w => .t 0x72 w
  | .rpop w => .t 0x73 w
  | .rstat w => .t 0x74 w
  | .semadd w => .t 0x75 w
  | .semset w => .t 0x76 w
  | .semwait w => .t 0x77 w
  | .aadd w => .a 0x01 w
  | .aaddLong p w => .aLong 0x01 p w
  | .asub w => .a 0x02 w
  | .asubLong p w => .aLong 0x02 p w
  | .amul w => .a 0x03 w
  | .amulLong p w => .aLong 0x03 p w
  | .aand w => .a 0x04 w
  | .aandLong p w => .aLong 0x04 p w
  | .aor w => .a 0x05 w
  | .aorLong p w => .aLong 0x05 p w
  | .axor w => .a 0x06 w
  | .axorLong p w => .aLong 0x06 p w
  | .ashl w => .a 0x07 w
  | .ashlLong p w => .aLong 0x07 p w
  | .ashr w => .a 0x08 w
  | .ashrLong p w => .aLong 0x08 p w
  | .amov w => .a 0x09 w
  | .amovi w => .a 0x0A w
  | .amoviLong p w => .aLong 0x0A p w
  | .amoviH p w => .aLong 0x0A p w
  | .acmp w => .a 0x0B w
  | .acmpLong p w => .aLong 0x0B p w
  | .asel w => .a 0x0C w
  | .aselLong p w => .aLong 0x0C p w
  | .as2a w => .a 0x0D w
  | .anop w => .a 0x0E w
  | .abr w => .a 0x10 w
  | .ajmp w => .a 0x11 w
  | .acall w => .a 0x12 w
  | .aret w => .a 0x13 w
  | .aloop w => .a 0x14 w
  | .aend w => .a 0x15 w
  | .asafe w => .a 0x16 w
  | .aexit => .a 0x17 AWord.zero
  | .atrap w => .a 0x18 w
  | .aretT => .a 0x19 AWord.zero
  | .afence w => .a 0x1A w
  | .afenceLong p w => .aLong 0x1A p w
  | .ald w => .a 0x20 w
  | .aldLong p w => .aLong 0x20 p w
  | .ast w => .a 0x21 w
  | .astLong p w => .aLong 0x21 p w
  | .alds w => .a 0x22 w
  | .aldsLong p w => .aLong 0x22 p w
  | .asts w => .a 0x23 w
  | .astsLong p w => .aLong 0x23 p w
  | .qpush w => .a 0x24 w
  | .qpushLong p w => .aLong 0x24 p w
  | .qpop w => .a 0x25 w
  | .awaitq w => .a 0x26 w
  | .semaddA w => .a 0x27 w
  | .semaddALong p w => .aLong 0x27 p w
  | .semsetA w => .a 0x28 w
  | .semsetALong p w => .aLong 0x28 p w
  | .semwaitA w => .a 0x29 w
  | .semwaitALong p w => .aLong 0x29 p w
  | .cpy w => .a 0x30 w
  | .cpyLong p w => .aLong 0x30 p w
  | .cpyx w => .a 0x31 w
  | .cpyxLong p w => .aLong 0x31 p w
  | .cpylv w => .a 0x32 w
  | .cpylvLong p w => .aLong 0x32 p w
  | .kvapp w => .a 0x33 w
  | .kvappLong p w => .aLong 0x33 p w
  | .cpyw w => .a 0x34 w
  | .cpywLong p w => .aLong 0x34 p w
  | .ceCommandStart => .none
  | .ceCommandComplete => .none
  | .fmtq w => .a 0x35 w
  | .fmtqLong p w => .aLong 0x35 p w
  | .taRun w => .a 0x36 w
  | .taRunLong p w => .aLong 0x36 p w
  | .taZero w => .a 0x37 w
  | .taSwap w => .a 0x38 w
  | .tastat w => .a 0x39 w
  | .crownTake w => .a 0x3A w
  | .crownPass w => .a 0x3B w
  | .taCommandStart => .none
  | .taCommandComplete => .none
  | .taRunFault => .none
  | .snop => .s 0x00 SSlot.zero
  | .sadd w => .s 0x01 w
  | .ssub w => .s 0x02 w
  | .smul w => .s 0x03 w
  | .sand w => .s 0x04 w
  | .sor w => .s 0x05 w
  | .sshl w => .s 0x06 w
  | .sshr w => .s 0x07 w
  | .smov w => .s 0x08 w
  | .smovh w => .s 0x09 w
  | .scmp w => .s 0x0A w
  | .br w => .s 0x0B w
  | .brc w => .s 0x0C w
  | .loop w => .s 0x0D w
  | .poseR w => .s 0x0E w
  | .poseW w => .s 0x0E w
  | .bandiRd w => .s 0x0F w
  | .bandiNext w => .s 0x0F w
  | .syncm => .s 0x10 SSlot.zero
  | .halt => .s 0x11 SSlot.zero
  | .vnop => .v 0x00 VSlot.zero
  | .vadd w => .v 0x01 w
  | .vsub w => .v 0x02 w
  | .vmul w => .v 0x03 w
  | .vfma w => .v 0x04 w
  | .vmin w => .v 0x05 w
  | .vmax w => .v 0x06 w
  | .vrcp w => .v 0x07 w
  | .vrsq w => .v 0x08 w
  | .vflr w => .v 0x09 w
  | .vcvt w => .v 0x0A w
  | .vcmp w => .v 0x0B w
  | .vsel w => .v 0x0C w
  | .vlerp w => .v 0x0D w
  | .vperm w => .v 0x0E w
  | .vbcast w => .v 0x0F w
  | .vpack w => .v 0x10 w
  | .lbld w => .m 0x01 w
  | .lbst w => .m 0x02 w
  | .gld w => .m 0x03 w
  | .wsamp w => .m 0x04 w
  | .dsamp w => .m 0x05 w
  | .mxld w => .m 0x06 w
  | .mxrun w => .m 0x07 w
  | .mxst w => .m 0x08 w
  | .emit w => .m 0x09 w
  | .ldp w => .q 0x00 w
  | .ldm w => .q 0x01 w
  | .movb w => .q 0x02 w
  | .addb w => .q 0x03 w
  | .subb w => .q 0x04 w
  | .andb w => .q 0x05 w
  | .orb w => .q 0x06 w
  | .shlb w => .q 0x07 w
  | .shrb w => .q 0x08 w
  | .cmpb w => .q 0x09 w
  | .jf w => .q 0x0A w
  | .jfc w => .q 0x0B w
  | .loopb w => .q 0x0C w
  | .endb => .q 0x0D QWord.zero
  | .chkres w => .q 0x0E w
  | .reloc w => .q 0x0F w
  | .emitC w => .q 0x10 w
  | .done => .q 0x11 QWord.zero
  | .fail w => .q 0x12 w
  | .qiTakePacket => .none
  | .nopPacket => .none
  | .launch => .none
  | .invoke => .none
  | .copy => .none
  | .waitsem => .none
  | .signalsem => .none
  | .fencePacket => .none
  | .event => .none
  | .slotload => .none
  | .slotfree => .none
  | .qprog => .none
  | .mapupd => .none
  | .mapupdUnmap => .none
  | .mapupdDecay => .none
  | .tlbinv => .none
  | .codeinv => .none
  | .headcfgEnable => .none
  | .headcfgDisable => .none
  | .headcfgEffect => .none
  | .rsetupRegister => .none
  | .rsetupUnregister => .none
  | .rsetupKill => .none
  | .gridReady => .none
  | .groupPlacement => .none
  | .groupStart => .none
  | .groupEnd => .none
  | .quantumExpiry => .none
  | .groupSaveComplete => .none
  | .groupResumption => .none
  | .rayQueryTake => .none
  | .splitRecordEmit => .none
  | .spawnWarpStart => .none
  | .rayQueryComplete => .none
  | .pageWalk => .none
  | .cacheEviction => .none
  | .faultLogDrain => .none
  | .faultLogRetest => .none
  | .counterSnapshot => .none
  | .eventSend => .none
  | .renderSetLatch => .none
  | .poseLatch => .none
  | .bandDispatch => .none
  | .bandDeadline => .none
  | .bandScanOut => .none
  | .rdmaWrite => .none
  | .rdmaRead => .none
  | .rdmaFetchAdd => .none
  | .rdmaCompareSwap => .none
  | .attest => .none
  | .provision => .none
  | .update => .none
  | .reset => .none
  | .powerOn => .none
  | .powerMeasure => .none
  | .thermalStop => .none
  | .thermalRestart => .none
  | .thermalShutdown => .none
  | .linkLoss => .none
  | .linkRetrain => .none
  | .correctableError => .none
  | .uncorrectableError => .none
  | .matrixOperationComplete => .none
  | .inputPowerRemoved => .none
  | .rdmaInvalidRequest => .none
  | .congestionNotification => .none

end Sys2Proof
end

