-- ==== Sys2Proof/Machine/State.lean ====
section
/-!
DEFINITION. The state of the module: compute dies, launch unit, queue interpreter, display side,
firmware and memories, all as plain data. A record that exists only while something is resident,
registered or provisioned stands in a table that is empty at reset.
-/

namespace Sys2Proof.Machine

/-! ### Threads, warps and A contexts -/

/-- The state of a thread of a warp (R122). -/
inductive TState where
  | live (pc : Word)
  | helper
  | exited
  deriving DecidableEq, Repr

/-- What a stream is doing (R137, R172, R228, R230): `saved` is stopped with its save routine ended. -/
inductive RunMode where
  | running
  | saving (entry : Nat)
  | saved (entry : Nat)
  | restoring (entry : Nat)
  deriving DecidableEq, Repr

/-- An access parked on a translation fault (R221, R384). -/
structure Park where
  asid : Nat
  va : Nat
  cause : Nat
  agent : Nat
  deriving DecidableEq, Repr

/-- A wait of SEMWAIT (R426): the semaphore, the threshold and the first value that satisfied it. -/
structure SemWait where
  idx : Nat
  thresh : Word
  hit : Option Word
  deriving DecidableEq, Repr

/-- The trap registers of a stream (R217): tinst2 is the second T word, or the A prefix with IMM32. -/
structure TrapRegs where
  tcause : Word
  tpc : Word
  tinst : DWord
  tinst2 : DWord
  tmask : BitVec 32
  tval : DWord
  deriving DecidableEq, Repr

def TrapRegs.zero : TrapRegs := { tcause := 0, tpc := 0, tinst := 0, tinst2 := 0, tmask := 0, tval := 0 }

/-- An outstanding ray query of a thread (R307, R332): 1 in the FIFO, 2 traversing or awaiting its
spawned warps, 3 complete with its record. -/
structure QueryRef where
  /-- the query's number on its core, the model's own -/
  id : Nat
  lane : Nat
  tag : Nat
  st : Nat
  words : List Word
  deriving DecidableEq, Repr

/-- The register files of a warp (R22, R30 to R33): thread t's value of file register r at key
32 r + t, and r's poison mask at key r, with v0 to v127 at r = 0 to 127, o0 to o7 at 128 to 135, x0 and
x1 at 136 and 137. -/
structure Regs where
  val : SMap Word
  poison : SMap (BitVec 32)
  vmap : BitVec 128
  sreg : SMap Word
  pred : SMap (BitVec 32)
  deriving DecidableEq, Repr

def Regs.zero : Regs := { val := [], poison := [], vmap := 0, sreg := [], pred := [] }

/-- A value that an operation of a Vosis block delivers (R404): word j of thread t at key 4 t + j, the threads in which
it is poisoned, and a predicate. -/
structure BlockVal where
  val : SMap Word
  poison : BitVec 32
  pred : BitVec 32
  deriving DecidableEq, Repr

def BlockVal.zero : BlockVal := { val := [], poison := 0, pred := 0 }

/-- A warp. `stop` holds the thread states at its stop, or the threads that a restore waits for; `stopDue` the
entry of a stop whose poison map is not yet written; `keptPop` the entry that the instruction at the stop had popped;
`synced` that a BAR.ARV or BAR.SYNC under way has waited or arrived, with the threads that have arrived in it (R143); `block` the values delivered in a Vosis block whose boundary operation
waits, by operation (R404, R405). `cb` holds codebook entry e of slot k at key 8 k + e; `cbPend` the fills under way, each its
slot, the push that is due with it and the 16 bytes (R117, R118). -/
structure Warp where
  regs : Regs
  threads : SMap TState
  trap : TrapRegs
  tframe : DWord
  dfrec : DWord
  safecnt : Word
  inHandler : Bool
  frozen : BitVec 32
  mode : RunMode
  stop : SMap TState
  stopDue : Option Nat
  lastSafe : Option Nat
  cb : SMap (BitVec 16)
  cbPend : List (Nat × Nat × BitVec 128)
  held : Option Word
  keptPop : Option Word
  pushDue : Option Nat
  synced : Option (BitVec 32)
  semWait : Option SemWait
  parked : Option Park
  queries : List QueryRef
  tags : SMap Nat
  spawnOf : List (Nat × Nat)
  block : Option (SMap BlockVal)
  deriving DecidableEq, Repr

/-- An A context (R152, R165, R172); `restart` until the first issue of its restore routine (R231). -/
structure ACtx where
  a : SMap DWord
  l : SMap Word
  p : BitVec 4
  apc : Word
  trap : TrapRegs
  tframe : DWord
  safecnt : Word
  restart : Bool
  inHandler : Bool
  ended : Bool
  mode : RunMode
  held : Option Word
  pushDue : Option (Nat × Word)
  crownWait : Bool
  semWait : Option SemWait
  parked : Option Park
  deriving DecidableEq, Repr

/-- An entry of a broadcast queue (R297). -/
structure BEntry where
  payload : Word
  pops : BitVec 32
  deriving DecidableEq, Repr

/-- The eight queues of a group (R293 to R299); an entry of queue 4 or 5 is its contribution mask. -/
structure Queues where
  fmt : List Word
  b1 : List BEntry
  b2 : List BEntry
  b3 : List BEntry
  g4 : List (BitVec 32)
  g5 : List (BitVec 32)
  t6 : List Word
  t7 : List Word
  deriving DecidableEq, Repr

def Queues.empty : Queues :=
  { fmt := [], b1 := [], b2 := [], b3 := [], g4 := [], g5 := [], t6 := [], t7 := [] }

/-- A barrier (R142, R143): its phase, and per member warp (64 × uid + slot) the threads that have
arrived in it. -/
structure Barrier where
  phase : Bool
  arrived : SMap (BitVec 32)
  deriving DecidableEq, Repr

def Barrier.zero : Barrier := { phase := false, arrived := [] }

/-- A kernel as its header and its sections give it (R391, R396, R226). `vver` is 0 in the native form; in the portable
form it is VVER, and `blocks` are the Vosis blocks by offset (R400, R409). -/
structure Kern where
  tbase : Nat
  tlen : Nat
  abase : Nat
  alen : Nat
  tentry : Nat
  aentry : Option Nat
  ttrap : Option Nat
  atrap : Option Nat
  safe : List (List (Option Nat))
  vregs : Nat
  sregs : Nat
  live : Nat
  nbar : Nat
  spawn : Nat
  preload : BitVec 9
  maxdist : Nat
  smem : Nat
  quantum : Nat
  crown : Bool
  legacy : Bool
  vver : Nat
  blocks : SMap (List (BitVec 128))
  deriving DecidableEq, Repr

/-- What a launch record and its packet give every group of a grid (R398, R399). -/
structure Launch where
  asid : Nat
  tenant : Nat
  obj : DWord
  ctxbase : DWord
  tx : Nat
  ty : Nat
  tz : Nat
  threads : Nat
  warps : Nat
  clg : Nat
  clc : Nat
  quantum : Nat
  crown : Bool
  barmask : List Nat
  kregs : List DWord
  kern : Kern
  deriving DecidableEq, Repr

/-- What the part keeps of a completed save (R228, R230, R236): the entry on which each warp stopped, the entry that its
instruction had popped (log 21), its SAFECNT, the A context's entry, and the group barriers; of a portable kernel the warps too, whose place in the context area the Milliner
chooses (R407, log 9). -/
structure SaveRec where
  warps : SMap Nat
  held : SMap Word
  counts : SMap Word
  kept : SMap Warp
  aEntry : Option Nat
  bars : SMap Barrier
  deriving DecidableEq, Repr

/-- A group. `uid` is 2^32 × grid number + $gid; `started` from its start or resumption on; `toHead` says
where a pre-empted group waits (R352, R353); `image` that it resumes rather than starts; `savedAs` its latest
completed save; `heldAtSave` is HELD of its group image (R228). -/
structure Group where
  uid : Nat
  grid : Nat
  gid : Nat
  gx : Nat
  gy : Nat
  ln : Launch
  core : Nat
  quarter : Nat
  actx : Nat
  pipes : List (Nat × Nat)
  warps : SMap Warp
  a : ACtx
  queues : Queues
  bars : SMap Barrier
  smem : SMap Byte
  taSeq : Nat
  ceSeq : Nat
  ceInfo : List (Nat × Nat)
  /-- the completion scope of each command whose token stands in queue 7, by its SEQ (R272) -/
  ceScope : List (Nat × Nat)
  side : Nat
  started : Bool
  preempt : Bool
  toHead : Bool
  timer : Nat
  replayed : Bool
  image : Bool
  savedAs : Option SaveRec
  ring : Option Nat
  heldAtSave : Bool
  frozenIO : Option Park
  deriving DecidableEq, Repr

/-! ### Cores and dies -/

/-- A line of a data cache (R242, R243), with its page's kind and COMP mark. In a die cache `owners` holds, by core, the
dirty bytes that the core has written (the core mask of R243 is the cores listed), and `readers` the cores that have
read the line while it held dirty bytes (R265). -/
structure Line where
  valid : BitVec 128
  dirty : BitVec 128
  data : BitVec 1024
  owners : SMap (BitVec 128)
  readers : BitVec 160
  kind : Nat
  comp : Bool
  deriving DecidableEq, Repr

def Line.none : Line := { valid := 0, dirty := 0, data := 0, owners := [], readers := 0, kind := 0, comp := false }

/-- The sizes of a page (R377). -/
inductive PageSize where
  | k64 | m2 | g1
  deriving DecidableEq, Repr

/-- Bytes of a page. -/
def PageSize.bytes : PageSize → Nat
  | .k64 => 2 ^ 16
  | .m2 => 2 ^ 21
  | .g1 => 2 ^ 30

/-- A TLB entry (R382): an ASID and a page, with its PTE. -/
structure TlbEntry where
  asid : Nat
  va : Nat
  size : PageSize
  pte : DWord
  deriving DecidableEq, Repr

/-- How far a tile command has come (R183, R194): `faulted` holds a run fault that has not been recorded yet, and `struck` one
that has. -/
inductive TaSt where
  | queued
  | ran
  | faulted (cause addr chunk : Nat)
  | struck
  deriving DecidableEq, Repr

/-- A tile command of the array queue (R176), with the scratchpad and the window as they stood when it was accepted
(R186). -/
structure TaCmd where
  uid : Nat
  seq : Nat
  zero : Bool
  fmt : Word
  block : BitVec 512
  smem : SMap Byte
  win : SMap Word
  st : TaSt
  deriving DecidableEq, Repr

/-- A core's Trit Array (R174, R188 to R191): bank cells at key 128 m + n. `holder` is the latest holder's ring
position. -/
structure TritArray where
  working : SMap Word
  visible : SMap Word
  poison : Bool
  queue : List TaCmd
  faddr : Nat
  fchunk : Nat
  fcause : Nat
  fqtr : Nat
  fctx : Nat
  fpend : Bool
  fowner : Nat
  fseq : Nat
  epset : Bool
  eprs : Bool
  rowsc : SMap Word
  held : Bool
  holder : Nat
  ring : SMap Nat
  present : SMap Nat
  deriving DecidableEq, Repr

def TritArray.zero : TritArray :=
  { working := [], visible := [], poison := false, queue := [], faddr := 0, fchunk := 0, fcause := 0, fqtr := 0,
    fctx := 0, fpend := false, fowner := 0, fseq := 0, epset := false, eprs := false, rowsc := [], held := false,
    holder := 0, ring := [], present := [] }

/-- How far a copy engine command has come (R277, R279, R282). -/
inductive CeSt where
  | queued
  | performed
  | faulted (cause index : Nat)
  deriving DecidableEq, Repr

/-- A write that a copy command's unit has to make (R282): n bytes at an address of global memory or of a scratchpad, the bits that
keep their value, and the element index that a stop there reports. -/
structure CePut where
  pad : Bool
  a : Nat
  n : Nat
  v : Nat
  keep : Nat
  index : Nat
  deriving DecidableEq, Repr

/-- A command of a copy channel (R277 to R291): the descriptor as read at issue; CPYW's address and
value stand in its low bits. `old` holds the bytes of its source that it has itself overwritten, as they were before
(R280), and `puts` the writes still to make of a unit that one of them has parked (R282). -/
structure CeCmd where
  uid : Nat
  seq : Nat
  kind : Nat
  scope : Nat
  sem : Option Nat
  tok : Bool
  desc : BitVec 512
  st : CeSt
  next : Nat
  park : Option Park
  old : SMap Byte
  puts : List CePut
  deriving DecidableEq, Repr

/-- A query as accepted (R306, R310): kind 1 ray, 2 beam, 3 cone, with its numbers in the layout of a
beam record. -/
structure RayQuery where
  id : Nat
  uid : Nat
  slot : Nat
  lane : Nat
  tag : Nat
  kind : Nat
  record : BitVec 1024
  spawned : Bool
  deriving DecidableEq, Repr

/-- A rectangle of rays (R318). -/
structure Rect where
  i0 : Nat
  j0 : Nat
  w : Nat
  h : Nat
  deriving DecidableEq, Repr

/-- An open call of the traversal (R323): call 0 a node's children, 1 a rectangle's quadrants at a
node, 2 a leaf's quadrants, 3 a leaf's tests, both with the leaf's slot; the node as it was read and the classes of its
children, 0 ALL-MISS, 1 ALL-HIT, 2 MIXED. -/
structure RayFrame where
  node : Nat
  rect : Rect
  call : Nat
  next : Nat
  slot : Nat
  data : BitVec 1024
  cls : List Nat
  deriving DecidableEq, Repr

/-- The closest hit of a ray. -/
structure Hit where
  t : Word
  prim : Word
  deriving DecidableEq, Repr

/-- A page as a walk found it (R378, R380). -/
structure Page where
  pa : Nat
  kind : Nat
  comp : Bool
  r : Bool
  w : Bool
  x : Bool
  h : Bool
  deriving DecidableEq, Repr

/-- A traversal context (R306, R321 to R330). `stack` holds the open calls with the deepest first;
`spilled` counts the calls below them that stand in the spill area; `emits` are split records not yet
emitted, as their words 0 to 6; `records` counts those emitted and `begun` the threads started; `cause`
is set when the traversal has ended. -/
structure RayCtx where
  q : RayQuery
  started : Bool
  stack : List RayFrame
  spilled : Nat
  emits : List (List Word)
  hits : SMap Hit
  records : Nat
  begun : Nat
  cause : Option Nat
  /-- bytes of the node or leaf that is being read, in 16-byte units (R333) -/
  buf : List Byte
  /-- the entry read back from the spill area whose node is being read again (R323) -/
  back : Option RayFrame
  /-- result entries not yet written, once the writes have begun, each with its page, none in scratchpad (R327, R330, R333) -/
  left : Option (List (Nat × Option Page))
  written : Bool
  park : Option Park
  deriving DecidableEq, Repr

/-- A split record (R324): the words, and the rays of its rectangle not yet started. -/
structure SplitRec where
  uid : Nat
  id : Nat
  words : List Word
  rays : List (Nat × Nat)
  entry : Nat
  deriving DecidableEq, Repr

/-- A core (R11). Instruction lines: key 2^45 × ASID + line. -/
structure Core where
  l1 : SMap Line
  l1i : SMap (BitVec 1024)
  tlb : List TlbEntry
  sems : SMap Word
  ta : TritArray
  chans : SMap (List CeCmd)
  fifo : List RayQuery
  rays : List RayCtx
  splits : List SplitRec
  /-- the number of the next query accepted (R307) -/
  rayNext : Nat
  clk : DWord
  deriving DecidableEq, Repr

def Core.zero : Core :=
  { l1 := [], l1i := [], tlb := [], sems := [], ta := TritArray.zero, chans := [], fifo := [], rays := [],
    splits := [], rayNext := 0, clk := 0 }

/-- A translation fault that waits in a die's queue (R384); `uids` are the groups whose accesses it stands for. -/
structure FaultEntry where
  tenant : Nat
  asid : Nat
  va : Nat
  cause : Nat
  agent : Nat
  count : Nat
  uids : List Nat
  deriving DecidableEq, Repr

/-- A line of the code cache, with its presence bits (R246). -/
structure CodeLine where
  data : BitVec 1024
  cores : BitVec 160
  keys : List Nat
  deriving DecidableEq, Repr

/-- A compute die (R11). -/
structure Die where
  code : SMap CodeLine
  dcache : SMap Line
  /-- lines marked as evicted after every other (R260) -/
  keep : List Nat
  /-- lines marked as evicted first (R260) -/
  first : List Nat
  tlb : List TlbEntry
  faults : List FaultEntry
  late : List FaultEntry
  corrected : SMap Word
  deriving DecidableEq, Repr

def Die.zero : Die :=
  { code := [], dcache := [], keep := [], first := [], tlb := [], faults := [], late := [], corrected := [] }

/-! ### Display side -/

/-- A matrix operation handed to an in-paint engine (R213). -/
structure MxOp where
  line : Nat
  kind : Nat
  addr : Nat
  flags : Nat
  deriving DecidableEq, Repr

/-- A line core's activity (R197, R209). -/
inductive LineSt where
  | idle
  | running
  | waitNext
  deriving DecidableEq, Repr

/-- A line core (R196 to R200): w lane l at key 16 r + l; a line-buffer byte at its address; matrix
values at key 64 r + c as FP32 patterns; emitted pixels at key 8192 (line in band) + x. -/
structure LineCore where
  w : SMap Word
  z : SMap Word
  e : SMap (BitVec 16)
  bandid : Word
  line0 : Word
  pose : SMap Word
  spc : Word
  lb : SMap Byte
  mxX : SMap Word
  mxW : SMap Word
  mxO : SMap Word
  st : LineSt
  head : Nat
  band : Nat
  frame : Nat
  emitted : List (Nat × BitVec 48)
  deriving DecidableEq, Repr

def LineCore.zero : LineCore :=
  { w := [], z := [], e := [], bandid := 0, line0 := 0, pose := [], spc := 0, lb := [], mxX := [], mxW := [],
    mxO := [], st := .idle, head := 0, band := 0, frame := 0, emitted := [] }

/-- A render set as adopted (R363, R364). -/
structure RenderSet where
  seq : Word
  w : Nat
  h : Nat
  cbase : DWord
  zbase : DWord
  mbase : DWord
  cpitch : Nat
  zpitch : Nat
  mpitch : Nat
  zero : Bool
  deriving DecidableEq, Repr

def RenderSet.first : RenderSet :=
  { seq := 0, w := 1, h := 1, cbase := 0, zbase := 0, mbase := 0, cpitch := 0, zpitch := 0, mpitch := 0, zero := true }

/-- A band from its point P to its point S, with what P and the frame's render-set latch gave it (R362 to
R368). -/
structure Band where
  frame : Nat
  band : Nat
  pose : List Word
  poseseq : Word
  kept : Bool
  rs : RenderSet
  rskept : Bool
  /-- the line core that ran it -/
  lcore : Option Nat
  /-- complete: the absolute line in which it completed, or in which a fault at its deadline or later ended it -/
  doneAt : Option Int
  cause : Nat
  outcome : Option Nat
  pixels : List (Nat × BitVec 48)
  deriving DecidableEq, Repr

/-- What a head has to do at the start of a line, in order (R360, R362). -/
inductive Point where
  | effect
  | scan (frame band : Nat)
  | deadline (frame band : Nat)
  | renderSet (frame : Nat)
  | pose (frame band : Nat)
  deriving DecidableEq, Repr

/-- A HEADCFG that has been taken (R359, R360): the record and the program as read, FCPMB, the link
configuration that it trains (rate in units of 10 Mbit/s, lanes), and the command that it is. -/
structure HeadChange where
  record : BitVec 1024
  prog : List Byte
  fcpmb : Nat
  link : Nat × Nat
  queue : Nat
  id : Nat
  n : Nat
  deriving DecidableEq, Repr

/-- A display head (R357 to R372). `line` is the absolute line of the current record, negative before its
frame 0; `due` are the points of that line not yet passed; `prevPose` holds each band's pose of its
latest frame. The render set is that of the latest latch. -/
structure Head where
  on : Bool
  tenant : Nat
  record : BitVec 1024
  prog : List Byte
  pending : List HeadChange
  line : Int
  due : List Point
  queue : List (Nat × Nat)
  live : List Band
  pose : List Word
  poseseq : Word
  rs : RenderSet
  rskept : Bool
  prevPose : SMap (List Word)
  counters : SMap Word
  link : Bool
  linkCfg : Nat × Nat
  deriving DecidableEq, Repr

def Head.zero : Head :=
  { on := false, tenant := 0, record := 0, prog := [], pending := [], line := 0, due := [], queue := [],
    live := [], pose := List.replicate 8 0, poseseq := 0, rs := RenderSet.first, rskept := false,
    prevPose := [], counters := [], link := false, linkCfg := (0, 0) }

/-! ### Launch unit and queue interpreter -/

/-- A grid record (R349 to R356). `head` and `tail` hold pre-empted groups, before and after the
never-started groups from `nextGid` up; its level and PRE are its queue's (`State.level`);
`asked` is the group that a run-timer pre-emption is asked of (R353). -/
structure Grid where
  num : Nat
  id : Nat
  seq : Nat
  queue : Nat
  index : DWord
  tag : Word
  dep : Word
  thresh : Word
  parent : Nat
  graph : Nat
  weight : Nat
  indaddr : DWord
  gx : Nat
  gy : Nat
  gz : Nat
  ln : Launch
  slot : Option Nat
  ready : Bool
  head : List Nat
  nextGid : Nat
  tail : List Nat
  placed : List Nat
  endedCount : Nat
  ended : Bool
  asked : Option Nat
  deriving DecidableEq, Repr

/-- A task graph (R356). -/
structure Graph where
  tenant : Nat
  counter : Nat
  queue : Nat
  index : DWord
  tag : Word
  gevt : Bool
  root : Nat
  done : Bool
  deriving DecidableEq, Repr

/-- A placement held for the candidate `uid` of a pre-empting queue (R352): the core and the quarter of each of its
groups, and the groups that were asked to leave. -/
structure Hold where
  uid : Nat
  places : List (Nat × Nat)
  gone : List Nat
  deriving DecidableEq, Repr

/-- The launch unit. Cluster barriers: key 8 (2^32 grid + cluster) + index; grid barriers: key
4 grid + index. `launched` counts the grid records made; `holds` are the placements held for queues' candidates
(R352). -/
structure LaunchUnit where
  grids : SMap Grid
  next : Nat
  launched : Nat
  ptrs : SMap Nat
  clBars : SMap Barrier
  gdBars : SMap Barrier
  saved : SMap Group
  graphs : SMap Graph
  nextGraph : Nat
  holds : List Hold
  deriving DecidableEq, Repr

/-- A queue program with its windows (R346). -/
structure QProg where
  words : List (BitVec 16)
  windows : List (Nat × Nat)
  deriving DecidableEq, Repr

/-- A registered ring (R334 to R338, R352). -/
structure Ring where
  tenant : Nat
  addr : Nat
  logsize : Nat
  npub : Nat
  rd : DWord
  prio : Nat
  pre : Bool
  deriving DecidableEq, Repr

/-- A command of an issued packet: 0 waiting, 1 started and not complete, 2 complete; `grid` is the
grid that it started, `graph` the task graph of a launch (0 for none), `launch` and `change` what was read for it when its packet was taken, `hit` that the
semaphore it waits for has reached its threshold, `next` how many units of a COPY or entries of a MAPUPD are done, `old` the source bytes that a COPY has overwritten, as they were
before (R342). -/
structure IssuedCmd where
  ty : Nat
  cmd : Command
  st : Nat
  grid : Option Nat
  graph : Nat
  launch : Option Launch
  change : Option HeadChange
  hit : Bool
  next : Nat
  old : SMap Byte
  deriving DecidableEq, Repr

/-- A command as it is issued. -/
def IssuedCmd.fresh (ty : Nat) (c : Command) : IssuedCmd :=
  { ty := ty, cmd := c, st := 0, grid := none, graph := 0, launch := none, change := none, hit := false, next := 0,
    old := [] }

/-- A packet taken whose commands are issued and not all complete (R340): `id` is its number among those taken, `cause` the
group that published it (R235). -/
structure Issued where
  id : Nat
  cause : Option Nat
  queue : Nat
  index : DWord
  tag : Word
  flags : Nat
  cmds : List IssuedCmd
  failed : Option Nat
  killed : Bool
  deriving DecidableEq, Repr

/-- A loop of a queue program (R345): register, count, counter, index of its LOOPB. -/
structure QLoop where
  reg : Nat
  count : Nat
  i : Nat
  start : Nat
  deriving DecidableEq, Repr

/-- The queue program that is running (R344, R345), the ROM program where `prog` is none; each staged command
holds its type, its body and what CHKRES and RELOC had staged; `record` is the launch record that CHKRES has read, by its address,
which is not read again (R398). -/
structure QRun where
  cause : Option Nat
  queue : Nat
  index : DWord
  packet : List Word
  prog : Option QProg
  b : SMap Word
  flag : Bool
  loops : List QLoop
  pc : Nat
  count : Nat
  cmds : List (Nat × List Word × Option (Nat × List DWord))
  staged : Option (Nat × List DWord)
  record : Option (Nat × BitVec 2048)
  deriving DecidableEq, Repr

/-- The queue interpreter. Rings by global queue index; `issued` holds the issued packets, oldest first; `nextId` counts
them; `levels` is the priority and PRE of queues whose ring has been unregistered, as that ring had them (R351, R352, log 43);
`posters` is the group that last wrote the VALID word of a 64-byte block of a RING page, by the block (R235). -/
structure QueueInt where
  rings : SMap Ring
  levels : SMap (Nat × Bool)
  progs : SMap QProg
  run : Option QRun
  issued : List Issued
  nextId : Nat
  posters : SMap Nat
  ptrs : SMap Nat
  deriving DecidableEq, Repr

/-! ### Firmware, mailbox engine and the world outside -/

/-- A verified object (R394): its kernels in the form in use. -/
structure ObjEntry where
  tenant : Nat
  addr : DWord
  asid : Nat
  digest : List Byte
  native : Bool
  kerns : List Kern
  pins : List Nat
  deriving DecidableEq, Repr

/-- A resident slot (R347). -/
structure Slot where
  tenant : Nat
  asid : Nat
  obj : DWord
  ranges : List (Nat × Nat × Nat)
  deriving DecidableEq, Repr

/-- A queue pair of the mailbox engine (R431, R432); the operator's, number 0, has the tenant 16 for none (R435). -/
structure QPair where
  tenant : Nat
  port : Nat
  err : Bool
  deriving DecidableEq, Repr

/-- The vendor's identity certificate (R441): the device's two public keys and the vendor's two signatures of them. -/
structure IdentityCert where
  ecdsaKey : List Byte
  hssKey : List Byte
  ecdsaSig : List Byte
  lmsSig : List Byte
  deriving DecidableEq, Repr

/-- A port of the module as bring-up has set it (R438, R439): at 400 Gb/s, and its MAC address. -/
structure Port where
  fast : Bool
  mac : BitVec 48
  deriving DecidableEq, Repr

/-- Module flash (R438 to R441): its contents survive the loss of input power. -/
structure Flash where
  cert : IdentityCert
  config : List Byte
  imageA : List Byte
  imageB : List Byte
  rollback : Word
  opctr : DWord
  leaf : Nat
  mono : DWord
  deriving DecidableEq, Repr

/-- The firmware's own state. `freeTables` are page tables given back, with their bytes (R385); `running` and `config` are
the image and the configuration record that bring-up verified (R438), `ports` what it set of the ports. `marked` holds the marked bytes, false for die-cache data and true for memory (R234). -/
structure Firmware where
  tenants : SMap (BitVec 512)
  roots : SMap DWord
  tblNext : Nat
  freeTables : List (Nat × Nat)
  objs : List ObjEntry
  slots : SMap Slot
  trans : List (List Byte × List Byte × List Byte × List Byte × List Byte)
  hintdrop : SMap DWord
  counts : SMap DWord
  misses : SMap Nat
  logSeq : SMap Nat
  events : List (Nat × BitVec 512)
  qps : SMap QPair
  marked : SMap Bool
  up : Bool
  image : Nat
  running : List Byte
  config : List Byte
  ports : List Port
  gate : Nat
  stopped : Bool
  removed : Bool
  cores : BitVec 160
  fabricClk : DWord
  sspClk : DWord
  mgmtClk : DWord
  fcpmb : Nat
  flash : Flash
  deriving DecidableEq, Repr

/-- What the module has sent outside (R433 to R435, R370, R431); an event with the port, the queue pair and the R_Key
of its tenant's target record. -/
inductive Sent where
  | event (tenant port dqp rkey : Nat) (raddr : DWord) (payload : BitVec 512)
  | readAnswer (qp : Nat) (bytes : List Byte)
  | ack (qp : Nat)
  | nakAccess (qp : Nat)
  | nakInvalid (qp : Nat)
  | cnp (qp : Nat)
  | answer (bytes : List Byte)
  | refused
  | video (head line : Nat) (codes : List Nat)
  deriving DecidableEq, Repr

/-! ### The model's own fields -/

/-- For whom exec acts. -/
inductive Agent where
  | none
  | warp (uid slot : Nat)
  | actx (uid : Nat)
  | line (n : Nat)
  | qi
  deriving DecidableEq, Repr

/-- What an event acts on, and what comes with it from outside. -/
structure EventArg where
  core : Nat
  ch : Nat
  uid : Nat
  slot : Nat
  head : Nat
  queue : Nat
  qp : Nat
  die : Nat
  asid : Nat
  va : Nat
  len : Nat
  rkey : Nat
  val : DWord
  cmp : DWord
  bytes : List Byte
  payload : BitVec 512
  signed : SignedMsg
  cline : CacheLine
  soft : SoftError
  deriving DecidableEq, Repr

def EventArg.zero : EventArg :=
  { core := 0, ch := 0, uid := 0, slot := 0, head := 0, queue := 0, qp := 0, die := 0, asid := 0, va := 0, len := 0,
    rkey := 0, val := 0, cmp := 0, bytes := [], payload := 0,
    signed := { counter := 0, ecdsa := [], lms := [] }, cline := .frame 0, soft := .lineCore 0 }

/-- Time domains that a tick advances (R14, R427). -/
inductive Domain where
  | core (n : Nat)
  | fabric
  | ssp
  | mgmt
  | line (head : Nat)
  deriving DecidableEq, Repr

/-- One turn of the machine: an agent issues an instruction, a packet's command starts or is looked at
again, a traversal advances, a step that no stream issues happens, or time passes. -/
inductive Turn where
  | warp (uid slot : Nat)
  | actx (uid : Nat)
  | line (n : Nat)
  | qi
  | command (id n : Nat)
  | ray (core n : Nat)
  | event (i : Instr) (arg : EventArg)
  | tick (d : Domain) (n : Nat)
  deriving DecidableEq, Repr

/-- A turn of a group's streams. -/
def Turn.ofStream (u : Nat) : Turn → Bool
  | .warp uid _ | .actx uid => uid == u
  | _ => false

/-- What a walk found (R380): a leaf, or the cause of its translation fault. -/
inductive WalkResult where
  | leaf (pte : DWord) (size : PageSize)
  | fault (cause : Nat)
  deriving DecidableEq, Repr

/-- A walk of a die (R383): for an ASID and bits 51:16 of a virtual address, with the turns whose accesses ask for it and,
once it has been completed, what it found. -/
structure Walk where
  tenant : Nat
  asid : Nat
  page : Nat
  who : List Turn
  result : Option WalkResult
  deriving DecidableEq, Repr

/-- A die-TLB miss that a turn has met (R382, R383). -/
structure Miss where
  die : Nat
  tenant : Nat
  asid : Nat
  page : Nat
  deriving DecidableEq, Repr

/-- What a completed walk of a die gives to the access that asked for it. -/
structure Served where
  die : Nat
  asid : Nat
  page : Nat
  result : WalkResult
  deriving DecidableEq, Repr

/-- A bundle's registers as read at its issue (R202), the matrix operations that are earlier than it and not complete
(R208, R209), and what its branch decides. -/
structure Latch where
  w : SMap Word
  z : SMap Word
  e : SMap (BitVec 16)
  mx : List MxOp
  on : Bool
  target : Option Word
  deriving DecidableEq, Repr

def Latch.off : Latch := { w := [], z := [], e := [], mx := [], on := false, target := none }

/-- The parts that the model adds to the machine: `wait` says that the last instruction was not ready,
`struck` that a read has met a marked byte, with its location code (R234); `inBlock` that an operation of a Vosis block
acts, whose trap is left in `blockTrap` for the block to take (R406); `served` holds the completed walks that the turn
asked for, and `missed` the first die-TLB miss that it has met beyond them (R383, log 58). -/
structure Control where
  cur : Agent
  agenda : List Turn
  turns : Nat
  fresh : Nat
  cmd : Command
  arg : EventArg
  latch : Latch
  wait : Bool
  bandFault : Option Nat
  struck : Option Nat
  inBlock : Bool
  blockTrap : Option (Cause × DWord)
  served : List Served
  missed : Option Miss
  out : List Sent
  deriving DecidableEq, Repr

/-- The machine. -/
structure State where
  groups : SMap Group
  cores : SMap Core
  dies : SMap Die
  /-- the walks of each die, in the order in which they were asked for (R383) -/
  walks : SMap (List Walk)
  lines : SMap LineCore
  mx : List MxOp
  heads : SMap Head
  lu : LaunchUnit
  qi : QueueInt
  fw : Firmware
  frame : SMap Line
  ringp : SMap Line
  mem : List Host.Cell
  ctl : Control
  deriving DecidableEq, Repr

/-- Why the machine stops. Every reason is one of the model's own: the step was asked for an agent, a
record or a place that does not exist in this state, which no turn of the machine itself chooses. All
are safe: a claim about what the hardware does is not proved from a stop. -/
inductive Fault where
  /-- exec of a T instruction while no resident warp with a head run is current (every T meaning) -/
  | noWarp
  /-- exec of an A instruction while no running A context is current (every A meaning) -/
  | noContext
  /-- exec of an SSP operation while no line core is current (every SSP meaning) -/
  | noLineCore
  /-- exec of a bytecode word while no queue program runs (every bytecode meaning) -/
  | noProgram
  /-- the module is not up, or its power is removed (R438, R441, R444) (every step but POWER_ON) -/
  | down
  deriving DecidableEq, Repr

/-- Why an instruction has no meaning. -/
inductive Refusal where
  /-- no meaning written for the instruction (arms of exec; safe) -/
  | notModelled (mnemonic : String)
  deriving DecidableEq, Repr

/-! ### Reset -/

/-- The operator queue pair: port 0, bound to no tenant (R435). -/
def QPair.operator : QPair := { tenant := 16, port := 0, err := false }

def Port.zero : Port := { fast := false, mac := 0 }

def Flash.reset : Flash :=
  { cert := { ecdsaKey := [], hssKey := [], ecdsaSig := [], lmsSig := [] }, config := [], imageA := [], imageB := [], rollback := 0, opctr := 0, leaf := 0, mono := 0 }

def Firmware.reset : Firmware :=
  { tenants := [], roots := [], tblNext := 0x100000, freeTables := [], objs := [], slots := [], trans := [], hintdrop := [], counts := [],
    misses := [], logSeq := [], events := [], qps := [(0, QPair.operator)], marked := [], up := true, image := 0,
    running := [], config := [], ports := [Port.zero, Port.zero], gate := 0,
    stopped := false, removed := false, cores := BitVec.allOnes 160, fabricClk := 0, sspClk := 0, mgmtClk := 0,
    fcpmb := 0, flash := Flash.reset }

def LaunchUnit.reset : LaunchUnit :=
  { grids := [], next := 1, launched := 0, ptrs := [], clBars := [], gdBars := [], saved := [], graphs := [], nextGraph := 1,
    holds := [] }

def QueueInt.reset : QueueInt := { rings := [], levels := [], progs := [], run := none, issued := [], nextId := 0, posters := [], ptrs := [] }

def Command.zero : Command :=
  { id := 0, queue := 0, index := 0, tag := 0, aux := 0, dep := 0, thresh := 0, weight := 0, parent := 0,
    body := List.replicate 8 0, staged := none }

def Control.reset : Control :=
  { cur := .none, agenda := [], turns := 0, fresh := 0, cmd := Command.zero, arg := EventArg.zero,
    latch := Latch.off, wait := false, bandFault := none, struck := none, inBlock := false, blockTrap := none, served := [],
    missed := none, out := [] }

/-- The module after bring-up (R438): nothing resident, every cache, scratchpad and register file
zero, ports up, heads disabled. -/
def State.reset : State :=
  { groups := [], cores := [], dies := [], walks := [], lines := [], mx := [], heads := [], lu := LaunchUnit.reset,
    qi := QueueInt.reset, fw := Firmware.reset, frame := [], ringp := [], mem := [], ctl := Control.reset }

end Sys2Proof.Machine
end

