-- ==== Sys2Proof/Machine/Mem.lean ====
section
/-!
DEFINITION. Physical memory, page tables, TLBs and caches (spec 12, 13, 19): the named operations by
which every agent reads and writes global memory.
-/

namespace Sys2Proof.Machine

/-! ### Bytes and little-endian numbers -/

/-- The number that bytes make, the first lowest (R4). -/
def leNat : List Byte → Nat
  | [] => 0
  | b :: bs => b.toNat + 256 * leNat bs

/-- The n low bytes of a number, the lowest first. -/
def leBytes : Nat → Nat → List Byte
  | 0, _ => []
  | n + 1, v => BitVec.ofNat 8 v :: leBytes n (v / 256)

/-- Bits h:l of a number. -/
def bitsOf (v h l : Nat) : Nat := (v / 2 ^ l) % 2 ^ (h + 1 - l)

/-- sext of R9 from w bits, as an integer. -/
def sextI (w v : Nat) : Int := (BitVec.ofNat w v).toInt

/-- The byte of physical memory at an address; an unlisted byte reads 0 (log 4). -/
def memByte (m : List Host.Cell) (a : Nat) : Byte := SMap.get 0 m a

/-- Memory with a byte written, in canonical form. -/
def memPut (m : List Host.Cell) (a : Nat) (b : Byte) : List Host.Cell := SMap.set 0 m a b

/-- The canonical form of a memory: addresses strictly rising, no byte that an unlisted one reads as. -/
def Memory.wf (m : List Host.Cell) : Bool := SMap.wf (0 : Byte) m

/-- n bytes from an address, as a number. -/
def memNat (m : List Host.Cell) (a n : Nat) : Nat := leNat ((List.range n).map fun i => memByte m (a + i))

/-- Bytes written from an address. -/
def memPuts (m : List Host.Cell) (a : Nat) : List Byte → List Host.Cell
  | [] => m
  | b :: bs => memPuts (memPut m a b) (a + 1) bs

/-! ### Access to the parts of the state -/

def State.core (s : State) (c : Nat) : Core := SMap.get Core.zero s.cores c
def State.setCore (s : State) (c : Nat) (x : Core) : State := { s with cores := SMap.set Core.zero s.cores c x }
def State.die (s : State) (d : Nat) : Die := SMap.get Die.zero s.dies d
def State.setDie (s : State) (d : Nat) (x : Die) : State := { s with dies := SMap.set Die.zero s.dies d x }
/-- The walks of a die (R383). -/
def State.walksOf (s : State) (d : Nat) : List Walk := SMap.get [] s.walks d
def State.setWalks (s : State) (d : Nat) (l : List Walk) : State := { s with walks := SMap.set [] s.walks d l }

/-- Turns that ask for no walk any more; a completed walk that no turn asks for is forgotten. -/
def State.closeWalks (s : State) (gone : Turn → Bool) : State :=
  let close (l : List Walk) : List Walk :=
    (l.map fun w => { w with who := w.who.filter fun t => !gone t }).filter fun w => w.result.isNone || !w.who.isEmpty
  { s with walks := SMap.mapSet [] close s.walks }

/-- The die of a core (R350). -/
def dieOf (c : Nat) : Nat := c / 40

/-- Keys of the counts of R427: the tenant, the kind (0 to 3 compressed transfers, 4 die-TLB misses,
5 walks, 6 L1 misses, 7 die-cache misses, 8 translation faults, 9 atomics, 10 T issues, 11 A issues,
12 present chunks, 13 SSP bundles) and the die or core. -/
def countKey (tenant kind unit : Nat) : Nat := (tenant * 16 + kind) * 256 + unit

/-- A count raised by n (R428). -/
def State.bump (s : State) (tenant kind unit n : Nat) : State :=
  let k := countKey tenant kind unit
  { s with fw := { s.fw with counts := SMap.set 0 s.fw.counts k (SMap.get 0 s.fw.counts k + BitVec.ofNat 64 n) } }

/-- HINTDROP raised (R259, R260). -/
def State.hintDrop (s : State) (tenant n : Nat) : State :=
  { s with fw := { s.fw with
      hintdrop := SMap.set 0 s.fw.hintdrop tenant (SMap.get 0 s.fw.hintdrop tenant + BitVec.ofNat 64 n) } }

/-- The state marked as one in which the stream's instruction was not ready (R125, R227). -/
def State.waits (s : State) : State := { s with ctl := { s.ctl with wait := true } }

/-- A step of the part that is not due in this state does not happen: nothing changes but the mark (log 57). -/
def State.notDue (s : State) : Host.Outcome State Fault Refusal := .next s.waits

/-- The next free value (log 11). -/
def State.freeNat (s : State) : State × Nat :=
  ({ s with ctl := { s.ctl with fresh := s.ctl.fresh + 1 } }, Config.freeValue s.ctl.fresh)

/-- What a read of n bytes gives whose bytes now hold v: where the command itself has overwritten some of them, freely
that or the value from before (R280, R342). -/
def State.oldOrNew (s : State) (old : SMap Byte) (a n v : Nat) : State × Nat :=
  if (List.range n).any fun i => (SMap.find old (a + i)).isSome then
    let r := s.freeNat
    (r.1, if r.2 % 2 = 0 then v
      else leNat ((List.range n).map fun i => (SMap.find old (a + i)).getD (BitVec.ofNat 8 (v / 2 ^ (8 * i)))))
  else (s, v)

/-- A field of a tenant record (R375). -/
def State.tenantField (s : State) (t h l : Nat) : Nat := bitsOf (SMap.get 0 s.fw.tenants t).toNat h l
def State.abase (s : State) (t : Nat) : Nat := s.tenantField t 143 128
/-- The ASID is in the tenant's window (R376). -/
def State.asidOk (s : State) (t a : Nat) : Bool :=
  (SMap.find s.fw.tenants t).isSome && s.abase t ≤ a && decide (a < s.abase t + s.tenantField t 159 144)

/-! ### Tiers, page tables and walks (R377 to R381) -/

def hbmEnd : Nat := 0x7735940000
def lpddrBase : Nat := 0x10000000000
def lpddrEnd : Nat := 0x2DCD6500000

/-- The page lies in a tier with every byte (R379). -/
def inTier (pa size : Nat) : Bool :=
  decide (pa + size ≤ hbmEnd) || (decide (lpddrBase ≤ pa) && decide (pa + size ≤ lpddrEnd))

/-- The home agent of an address, numbered over the module: HBM stacks 0 to 7, then LPDDR controllers
8 to 23 (R379). -/
def homeAgent (pa : Nat) : Nat := if pa < lpddrBase then bitsOf pa 10 8 else 8 + bitsOf (pa - lpddrBase) 11 8

/-- The die of an address's home agent: two stacks or four controllers to a die (R11, R379). -/
def homeDie (pa : Nat) : Nat := if pa < lpddrBase then bitsOf pa 10 8 / 2 else bitsOf (pa - lpddrBase) 11 8 / 4

/-- What an access needs of its page (R381). -/
inductive Need where
  | read | write | atomic | fetch | hostRead | hostWrite
  deriving DecidableEq, Repr

/-- The page allows the access (R381). -/
def Page.allows (p : Page) : Need → Bool
  | .read => p.r
  | .write => p.w
  | .atomic => p.r && p.w
  | .fetch => p.x
  | .hostRead => p.h && p.r
  | .hostWrite => p.h && p.w

/-- Bits of a PTE (R378). -/
def ptePA (e : DWord) : Nat := bitsOf e.toNat 55 16 * 256
def pteKind (e : DWord) : Nat := bitsOf e.toNat 7 6

/-- The page that a leaf of a size maps an address to. -/
def pageOf (e : DWord) (size : PageSize) (va : Nat) : Page :=
  { pa := ptePA e + va % size.bytes, kind := pteKind e, comp := bit e 8, r := bit e 2, w := bit e 3, x := bit e 4, h := bit e 5 }

/-- The levels of the walk (R377): low index bit, entries, and the size a leaf maps. -/
def walkLevels : List (Nat × Nat × Nat) :=
  [(39, 8192, 2 ^ 39), (30, 512, 2 ^ 30), (21, 512, 2 ^ 21), (16, 32, 2 ^ 16)]

/-- The size of a leaf in a level of the walk below the root. -/
def PageSize.ofLevel : Nat → PageSize
  | 1 => .g1
  | 2 => .m2
  | _ => .k64

/-- The fault of a leaf that a walk finds, if it has one (R380). -/
def leafFault (e : DWord) (size : Nat) : Option Nat :=
  let pa := ptePA e
  if pa % size ≠ 0 then some 2
  else if !inTier pa size || (pteKind e == 1 && decide (hbmEnd < pa + size)) ||
      (pteKind e == 2 && size != 2 ^ 16) || (bit e 8 && pteKind e != 0) then some 3
  else none

/-- The walk below a table (R380): the leaf and its size, or the fault's cause. -/
def walkFrom (m : List Host.Cell) (va : Nat) : List (Nat × Nat × Nat) → Nat → Nat → Except Nat (DWord × PageSize)
  | [], _, _ => .error 2
  | (lo, n, size) :: ls, table, lvl =>
    let e : DWord := BitVec.ofNat 64 (memNat m (table + 8 * ((va / 2 ^ lo) % n)) 8)
    if !bit e 0 then .error 1
    else if bitsOf e.toNat 63 56 ≠ 0 || bitsOf e.toNat 15 10 ≠ 0 || pteKind e == 3 || (lvl == 0 && bit e 1) ||
        (lvl == 3 && !bit e 1) then .error 2
    else if bit e 1 then (match leafFault e size with | some c => .error c | none => .ok (e, PageSize.ofLevel lvl))
    else walkFrom m va ls (ptePA e) (lvl + 1)

/-- The walk for an ASID and a virtual address (R380). -/
def State.walk (s : State) (asid va : Nat) : Except Nat (DWord × PageSize) :=
  let root := SMap.get 0 s.fw.roots asid
  if !bit root 0 then .error 1 else walkFrom s.mem va walkLevels (ptePA root) 0

/-- A translation without a TLB, for the agents of the I/O die. -/
def State.translateIO (s : State) (asid va : Nat) : Except Nat Page :=
  match s.walk asid va with
  | .error c => .error c
  | .ok (e, size) => .ok (pageOf e size va)

/-- An I/O-die agent's address with its permission: none for any failure. -/
def State.pageIO (s : State) (asid va : Nat) (n : Need) : Option Page :=
  if 2 ^ 52 ≤ va then none
  else match s.translateIO asid va with | .ok p => if p.allows n then some p else none | .error _ => none

def TlbEntry.hits (e : TlbEntry) (asid va : Nat) : Bool := e.asid == asid && e.va ≤ va && decide (va < e.va + e.size.bytes)

/-- The walk that a TLB miss needs, its entries filled on success (R380, R382). -/
def State.fillTlbs (s : State) (c asid va : Nat) (r : WalkResult) (die : Bool) : State × Except Nat Page :=
  match r with
  | .fault k => (s, .error k)
  | .leaf pte size =>
    let e : TlbEntry := { asid := asid, va := va / size.bytes * size.bytes, size := size, pte := pte }
    let s := s.setCore c { s.core c with tlb := e :: (s.core c).tlb }
    let d := dieOf c
    (if die then s.setDie d { s.die d with tlb := e :: (s.die d).tlb } else s, .ok (pageOf pte size va))

/-- What a walk finds now. -/
def State.walkResult (s : State) (asid va : Nat) : WalkResult :=
  match s.walk asid va with
  | .error k => .fault k
  | .ok (pte, size) => .leaf pte size

/-- A translation through the L1 TLB and the die TLB of a core, filling both (R382). A miss takes what the walk that
the turn has asked for found; a miss for which it has asked for none is noted, and the tables are read as they stand:
the turn is then not taken, but asks for the walk (R383, log 58). -/
def State.translate (s : State) (c tenant asid va : Nat) : State × Except Nat Page :=
  let d := dieOf c
  match (s.core c).tlb.find? fun e => e.hits asid va with
  | some e => (s, .ok (pageOf e.pte e.size va))
  | none =>
    match (s.die d).tlb.find? fun e => e.hits asid va with
    | some e => s.fillTlbs c asid va (.leaf e.pte e.size) false
    | none =>
      match s.ctl.served.find? fun x => x.die == d && x.asid == asid && x.page == va / 65536 with
      | some x => s.fillTlbs c asid va x.result false
      | none =>
        let m : Miss := { die := d, tenant := tenant, asid := asid, page := va / 65536 }
        let s := { s with ctl := { s.ctl with missed := some (s.ctl.missed.getD m) } }
        ((s.bump tenant 4 d 1).bump tenant 5 d 1).fillTlbs c asid va (s.walkResult asid va) true

/-! ### Lines (R242 to R244) -/

/-- Byte i of a line. -/
def lineByte (x : BitVec 1024) (i : Nat) : Byte := x.extractLsb' (8 * i) 8

/-- The bytes of `new` where the mask is set, those of `old` elsewhere. -/
def mergeLine (mask : BitVec 128) (new old : BitVec 1024) : BitVec 1024 :=
  BitVec.ofNat 1024 (leNat ((List.range 128).map fun i => if bit mask i then lineByte new i else lineByte old i))

/-- The mask of n bytes from offset o. -/
def byteMask (o n : Nat) : BitVec 128 := BitVec.ofNat 128 ((2 ^ n - 1) * 2 ^ o)

/-- n bytes of a line from offset o, as a number. -/
def lineNat (x : BitVec 1024) (o n : Nat) : Nat := bitsOf x.toNat (8 * (o + n) - 1) (8 * o)

/-- A number placed at offset o of a line. -/
def natLine (v o : Nat) : BitVec 1024 := BitVec.ofNat 1024 (v * 2 ^ (8 * o))

/-- A line of physical memory. -/
def homeLine (m : List Host.Cell) (ln : Nat) : BitVec 1024 := BitVec.ofNat 1024 (memNat m (128 * ln) 128)

/-- A line of physical memory written by byte mask (R244). -/
def homeStore (m : List Host.Cell) (ln : Nat) (mask : BitVec 128) (x : BitVec 1024) : List Host.Cell :=
  ((List.range 128).filter fun i => bit mask i).foldl (fun m i => memPut m (128 * ln + i) (lineByte x i)) m

/-- Bytes overwritten are no longer marked (R234). -/
def unmark (marked : SMap Bool) (ln : Nat) (mask : BitVec 128) : SMap Bool :=
  if marked.isEmpty then marked
  else ((List.range 128).filter fun i => bit mask i).foldl (fun m i => SMap.del m (128 * ln + i)) marked

/-- Bytes of a line overwritten. -/
def State.unmarkLine (s : State) (ln : Nat) (mask : BitVec 128) : State :=
  { s with fw := { s.fw with marked := unmark s.fw.marked ln mask } }

/-- A write at the home agent. -/
def State.homeWrite (s : State) (ln : Nat) (mask : BitVec 128) (x : BitVec 1024) : State :=
  State.unmarkLine { s with mem := homeStore s.mem ln mask x } ln mask

/-- A line filled from the level beyond: dirty bytes keep their values, every other byte takes the
fetched one, clean (R242, R259). -/
def Line.fill (l : Line) (x : BitVec 1024) : Line :=
  { l with valid := BitVec.allOnes 128, data := mergeLine l.dirty l.data x }

/-- A line with bytes written; `d` marks them dirty, and otherwise they are clean (R242, R263). -/
def Line.write (l : Line) (mask : BitVec 128) (x : BitVec 1024) (d : Bool) : Line :=
  { l with valid := l.valid ||| mask, dirty := if d then l.dirty ||| mask else l.dirty &&& ~~~mask,
           data := mergeLine mask x l.data }

/-- The flits that a transfer of a line takes, as the kind of R292: 0 zero, 1, 2 base-delta, 3 raw. -/
def compKind (x : BitVec 1024) (full : Bool) : Nat :=
  let w (i : Nat) : Int := (BitVec.ofNat 32 (lineNat x (4 * i) 4) - BitVec.ofNat 32 (lineNat x 0 4)).toInt
  let fits (b : Int) : Bool := (List.range 32).all fun i => decide (-b ≤ w i) && decide (w i < b)
  if !full then 3 else if x = 0 then 0 else if fits 128 then 1 else if fits 32768 then 2 else 3

/-- The transfer of a line of a COMP page counted (R292). -/
def State.countComp (s : State) (tenant d : Nat) (comp : Bool) (x : BitVec 1024) (full : Bool) : State :=
  if comp then s.bump tenant (compKind x full) d 1 else s

/-- The region index of an address in a tenant's hotness table (R388). -/
def State.hotIndex (s : State) (t pa : Nat) : Option Nat :=
  let hb := 2 ^ 30 * s.tenantField t 111 96
  let hl := 2 ^ 30 * s.tenantField t 127 112
  let lb := lpddrBase + 2 ^ 30 * s.tenantField t 79 64
  let ll := 2 ^ 30 * s.tenantField t 95 80
  if hb ≤ pa ∧ pa < hb + hl then some ((pa - hb) / 2 ^ 21)
  else if lb ≤ pa ∧ pa < lb + ll then some ((hl + (pa - lb)) / 2 ^ 21)
  else none

/-- 1 added, saturating, to the hotness counter at an address (R388). -/
def heatMem (m : List Host.Cell) (a : Nat) : List Host.Cell := memPuts m a (leBytes 2 (min 0xFFFF (memNat m a 2 + 1)))

/-- The address of a hotness counter (R388). -/
def State.hotAddr (s : State) (t i : Nat) : Nat := s.tenantField t 383 320 + 2 * i

/-- 1 added, saturating, to the hotness counter of an address's region (R388, R260). -/
def State.heat (s : State) (t pa : Nat) : State :=
  match s.hotIndex t pa with
  | none => s
  | some i => { s with mem := heatMem s.mem (s.hotAddr t i) }

/-- A miss that a home agent counts: every 16th heats the region (R388). -/
def State.homeMiss (s : State) (t pa : Nat) : State :=
  let k := homeAgent pa * 16 + t
  let n := SMap.get 0 s.fw.misses k + 1
  let s := { s with fw := { s.fw with misses := SMap.set 0 s.fw.misses k (n % 16) } }
  if n % 16 = 0 then s.heat t pa else s

/-- A die-cache line (R243). -/
def State.dieLine (s : State) (d ln : Nat) : Line := SMap.get Line.none (s.die d).dcache ln
def State.setDieLine (s : State) (d ln : Nat) (l : Line) : State :=
  s.setDie d { s.die d with dcache := SMap.set Line.none (s.die d).dcache ln l }
/-- An L1 line (R242). -/
def State.l1Line (s : State) (c ln : Nat) : Line := SMap.get Line.none (s.core c).l1 ln
def State.setL1Line (s : State) (c ln : Nat) (l : Line) : State :=
  s.setCore c { s.core c with l1 := SMap.set Line.none (s.core c).l1 ln l }

/-- A line of an I/O-die partition: kind 1 frame, 2 ring (R244, R358). -/
def State.partLine (s : State) (kind ln : Nat) : Line :=
  SMap.get Line.none (if kind = 1 then s.frame else s.ringp) ln
def State.setPartLine (s : State) (kind ln : Nat) (l : Line) : State :=
  if kind = 1 then { s with frame := SMap.set Line.none s.frame ln l }
  else { s with ringp := SMap.set Line.none s.ringp ln l }
/-- The partition holds lines: the frame partition does not at size 0 (R358). -/
def State.partHolds (s : State) (kind : Nat) : Bool := kind != 1 || s.fw.fcpmb != 0

/-- A line read at the home agent or, for FRAME and RING pages, at the partition (R262). -/
def State.devLine (s : State) (tenant kind ln : Nat) : State × BitVec 1024 :=
  if kind = 0 then (s, homeLine s.mem ln)
  else
    let l := s.partLine kind ln
    if l.valid = BitVec.allOnes 128 then (s, l.data)
    else
      let l' := l.fill (homeLine s.mem ln)
      let s := s.homeMiss tenant (128 * ln)
      (if s.partHolds kind then s.setPartLine kind ln { l' with kind := kind } else s, l'.data)

/-- A line written at the home agent or the partition (R262). -/
def State.devStore (s : State) (kind ln : Nat) (mask : BitVec 128) (x : BitVec 1024) : State :=
  if kind = 0 || !s.partHolds kind then s.homeWrite ln mask x
  else
    (s.setPartLine kind ln { (s.partLine kind ln).write mask x true with kind := kind }).unmarkLine ln mask

/-- The die cache filled with a line of an ordinary page (R243). -/
def State.fillDie (s : State) (tenant d ln : Nat) (comp : Bool) : State × BitVec 1024 :=
  let l := s.dieLine d ln
  if l.valid = BitVec.allOnes 128 then (s, l.data)
  else
    let l' := l.fill (homeLine s.mem ln)
    let s := (s.bump tenant 7 d 1).homeMiss tenant (128 * ln)
    (s.setDieLine d ln { l' with comp := comp }, l'.data)

/-- A core noted as a reader of a die-cache line that holds dirty bytes (R265). -/
def State.noteReader (s : State) (c ln : Nat) : State :=
  let l := s.dieLine (dieOf c) ln
  if l.dirty = 0 then s else s.setDieLine (dieOf c) ln { l with readers := setBit l.readers c true }

/-- A line as the level beyond the L1 gives it. -/
def State.beyondL1 (s : State) (c tenant ln : Nat) (p : Page) : State × BitVec 1024 :=
  if p.kind = 0 then
    let r := (s.fillDie tenant (dieOf c) ln p.comp)
    ((r.1.noteReader c ln).countComp tenant (dieOf c) p.comp r.2 true, r.2)
  else s.devLine tenant p.kind ln

/-- A die-cache line of which some bytes have gone to the home agent: no core's dirty bytes any more (R243). -/
def Line.landed (l : Line) (mask : BitVec 128) : Line :=
  { l with owners := SMap.mapSet 0 (fun m => m &&& ~~~mask) l.owners }

/-- A write through to the home agent or the partition, passing the die cache where it holds the line
(R263). -/
def State.writeThrough (s : State) (c kind ln : Nat) (mask : BitVec 128) (x : BitVec 1024) : State :=
  let l := s.dieLine (dieOf c) ln
  let s := if kind = 0 && l.valid != 0 then s.setDieLine (dieOf c) ln ((l.write mask x false).landed mask) else s
  s.devStore kind ln mask x

/-- A write into the die cache, dirty, under the core's mask bit; the partition for FRAME and RING. -/
def State.dieStore (s : State) (c kind ln : Nat) (comp : Bool) (mask : BitVec 128) (x : BitVec 1024) : State :=
  if kind = 0 then
    let l := (s.dieLine (dieOf c) ln).write mask x true
    (s.setDieLine (dieOf c) ln { l with owners := SMap.set 0 l.owners c (SMap.get 0 l.owners c ||| mask), comp := comp }).unmarkLine ln mask
  else s.devStore kind ln mask x

/-- Dirty bytes of the L1's line written to the level of a scope (R242, R263). -/
def State.flushL1Line (s : State) (tenant c ln sc : Nat) : State :=
  let l := s.l1Line c ln
  if l.dirty = 0 || sc = 0 then s
  else
    let s := s.setL1Line c ln { l with dirty := 0 }
    let s := s.countComp tenant (dieOf c) l.comp l.data (l.dirty == BitVec.allOnes 128)
    if sc ≤ 2 then s.dieStore c l.kind ln l.comp l.dirty l.data else s.writeThrough c l.kind ln l.dirty l.data

/-- A core's bit in the core mask of a die-cache line (R243). -/
def Line.ownedBy (l : Line) (c : Nat) : Bool := (SMap.find l.owners c).isSome

/-- A core whose release at .dev writes the line back: one of the core mask, or one that has read the line's dirty bytes,
which its agents must find at home as well once they go on upon another die (R265). -/
def Line.releasedBy (l : Line) (c : Nat) : Bool := l.ownedBy c || bit l.readers c

/-- Dirty bytes of a die-cache line written to the home agent (R243). -/
def State.flushDieLine (s : State) (d ln : Nat) : State :=
  let l := s.dieLine d ln
  if l.dirty = 0 then s
  else (s.setDieLine d ln { l with dirty := 0, owners := [], readers := 0 }).homeWrite ln l.dirty l.data

/-- The write-backs of a release at a scope (R242, R243). -/
def State.release (s : State) (tenant c sc : Nat) : State :=
  if sc = 0 then s
  else
    let s := ((s.core c).l1.map Prod.fst).foldl (fun s ln => s.flushL1Line tenant c ln sc) s
    if sc ≤ 2 then s
    else
      let d := dieOf c
      ((s.die d).dcache.filter fun p => p.2.releasedBy c).foldl (fun s p => s.flushDieLine d p.1) s

/-- A line with its clean bytes invalid; none when nothing is left. -/
def Line.dropClean (l : Line) : Line := if l.dirty = 0 then Line.none else { l with valid := l.dirty }

/-- The invalidations of an acquire at a scope (R242, R243). In a die-cache line with dirty bytes the clean ones go too:
a later read would else return a byte from before the acquire, against R267. -/
def State.acquire (s : State) (c sc : Nat) : State :=
  if sc = 0 then s
  else
    let co := s.core c
    let s := s.setCore c { co with l1 := SMap.mapSet Line.none Line.dropClean co.l1 }
    if sc ≤ 2 then s
    else
      let d := s.die (dieOf c)
      s.setDie (dieOf c) { d with dcache := SMap.mapSet Line.none Line.dropClean d.dcache }

/-- A line with its page's kind and COMP mark. -/
def tagLine (l : Line) (p : Page) : Line := { l with kind := p.kind, comp := p.comp }

/-- The die cache without a line of which a core of it accesses the home agent: the dirty bytes are written there first, the
core's own (R263) and any that an acquire at .clu or .die has bound it to (R267, R268), and the clean bytes go, since a later
read at .die would else return an older byte than this access (R265). -/
def State.passDie (s : State) (d ln : Nat) : State := (s.flushDieLine d ln).setDieLine d ln Line.none

/-! ### Loads, stores and atomics (R253, R258, R263) -/

/-- A read of n bytes at a physical address: one that meets a marked byte is noted (R234). -/
def State.touch (s : State) (pa n : Nat) : State :=
  if s.fw.marked.isEmpty then s
  else
    match (List.range n).findSome? fun i => SMap.find s.fw.marked (pa + i) with
    | some b => { s with ctl := { s.ctl with struck := some (if b then 4 else 3) } }
    | none => s

/-- mem_read of R263: n bytes at a page address, at a scope. -/
def State.gLoad (s : State) (c tenant sc : Nat) (p : Page) (n : Nat) : State × Nat :=
  let s := s.touch p.pa n
  let ln := p.pa / 128
  let o := p.pa % 128
  if sc = 0 then
    let l := s.l1Line c ln
    if l.valid &&& byteMask o n = byteMask o n then (s, lineNat l.data o n)
    else
      let r := (s.bump tenant 6 (dieOf c) 1).beyondL1 c tenant ln p
      let l' := tagLine ((r.1.l1Line c ln).fill r.2) p
      (r.1.setL1Line c ln l', lineNat l'.data o n)
  else
    let s := s.flushL1Line tenant c ln sc
    let r :=
      if sc ≤ 2 then s.beyondL1 c tenant ln p
      else if p.kind = 0 then
        let r := (s.passDie (dieOf c) ln).devLine tenant 0 ln
        (r.1.countComp tenant (dieOf c) p.comp r.2 true, r.2)
      else s.devLine tenant p.kind ln
    let l' := tagLine ((r.1.l1Line c ln).fill r.2) p
    (r.1.setL1Line c ln l', lineNat l'.data o n)

/-- mem_write of R263. -/
def State.gStore (s : State) (c _tenant sc : Nat) (p : Page) (n v : Nat) : State :=
  let ln := p.pa / 128
  let o := p.pa % 128
  let mask := byteMask o n
  let x := natLine (v % 2 ^ (8 * n)) o
  let s := (s.setL1Line c ln (tagLine ((s.l1Line c ln).write mask x (sc == 0)) p)).unmarkLine ln mask
  if sc = 0 then s
  else if sc ≤ 2 then s.dieStore c p.kind ln p.comp mask x
  else s.writeThrough c p.kind ln mask x

/-- An atomic at the level of its scope (R258): the old value, and `f` of it written. One at a home agent counts under that
agent's die (R379, R427). -/
def State.gAtomic (s : State) (c tenant sc : Nat) (p : Page) (n : Nat) (f : Nat → Nat) : State × Nat :=
  let s := s.touch p.pa n
  let ln := p.pa / 128
  let o := p.pa % 128
  let mask := byteMask o n
  if sc = 0 then
    let r := s.gLoad c tenant 0 p n
    (r.1.gStore c tenant 0 p n (f r.2), r.2)
  else
    let s := s.flushL1Line tenant c ln sc
    let s := s.setL1Line c ln Line.none
    if sc ≤ 2 then
      let r := if p.kind = 0 then s.fillDie tenant (dieOf c) ln p.comp else s.devLine tenant p.kind ln
      let old := lineNat r.2 o n
      (r.1.dieStore c p.kind ln p.comp mask (natLine (f old % 2 ^ (8 * n)) o), old)
    else
      let s := if p.kind = 0 then s.passDie (dieOf c) ln else s
      let s := if p.kind = 0 then s.bump tenant 9 (homeDie p.pa) 1 else s
      let r := s.devLine tenant p.kind ln
      let old := lineNat r.2 o n
      (r.1.devStore p.kind ln mask (natLine (f old % 2 ^ (8 * n)) o), old)

/-! ### Accesses of the I/O-die agents, at the home agent or the partition -/

/-- n bytes read at .dev or .sys; the bytes lie in one line. -/
def State.devRead (s : State) (tenant : Nat) (p : Page) (n : Nat) : State × Nat :=
  let r := s.devLine tenant p.kind (p.pa / 128)
  (r.1, lineNat r.2 (p.pa % 128) n)

/-- n bytes written at .dev or .sys; the bytes lie in one line. -/
def State.devWrite (s : State) (p : Page) (n v : Nat) : State :=
  s.devStore p.kind (p.pa / 128) (byteMask (p.pa % 128) n) (natLine (v % 2 ^ (8 * n)) (p.pa % 128))

/-- Bytes read byte by byte by an I/O-die agent at a virtual address; none where a byte's page fails. -/
def State.vaRead (s : State) (tenant asid va n : Nat) (need : Need) : State × Option (List Byte) :=
  (List.range n).foldl
    (fun a i =>
      match a.2 with
      | none => a
      | some bs =>
        match a.1.pageIO asid (va + i) need with
        | none => (a.1, none)
        | some p => let r := a.1.devRead tenant p 1; (r.1, some (bs ++ [BitVec.ofNat 8 r.2])))
    (s, some [])

/-- The same, as a number. -/
def State.vaNat (s : State) (tenant asid va n : Nat) (need : Need) : State × Option Nat :=
  let r := s.vaRead tenant asid va n need
  (r.1, r.2.map leNat)

/-- Bytes written byte by byte by an I/O-die agent; none where a byte's page fails. -/
def State.vaWrite (s : State) (asid va : Nat) (need : Need) (bs : List Byte) : Option State :=
  (bs.zipIdx).foldl
    (fun a b => a.bind fun s => (s.pageIO asid (va + b.2) need).map fun p => s.devWrite p 1 b.1.toNat)
    (some s)

/-- Every page of a range allows an access; a range past 2^52 does not. -/
def State.rangeOk (s : State) (asid va n : Nat) (need : Need) : Bool :=
  decide (va + n ≤ 2 ^ 52) &&
  (List.range ((va + n + 65535) / 65536 - va / 65536)).all fun i =>
    (s.pageIO asid (max va (65536 * (va / 65536 + i))) need).isSome

end Sys2Proof.Machine
end

