-- ==== Sys2Proof/Machine/Ops.lean ====
section
/-!
DEFINITION. The shared operations of the compute side: groups, warps and queues, events and grids,
containment, taking an exception in a warp or an A context, and returning from one.
-/

namespace Sys2Proof.Machine

/-! ### Groups, warps, contexts -/

def State.group? (s : State) (uid : Nat) : Option Group := SMap.find s.groups uid
def State.setGroup (s : State) (g : Group) : State := { s with groups := SMap.put s.groups g.uid g }
def Group.warp? (g : Group) (slot : Nat) : Option Warp := SMap.find g.warps slot
def Group.setWarp (g : Group) (slot : Nat) (w : Warp) : Group := { g with warps := SMap.put g.warps slot w }
def Group.kern (g : Group) : Kern := g.ln.kern
def Group.tenant (g : Group) : Nat := g.ln.tenant
def Group.asid (g : Group) : Nat := g.ln.asid
/-- Threads of a warp (R42). -/
def Kern.width (k : Kern) : Nat := if k.legacy then 16 else 32
/-- The kernel runs in its portable form (R399, R404). -/
def Kern.portable (k : Kern) : Bool := k.vver != 0

/-- A group with one of its warps changed. -/
def State.setWarp (s : State) (uid slot : Nat) (w : Warp) : State :=
  match s.group? uid with
  | none => s
  | some g => s.setGroup (g.setWarp slot w)

/-- A group with its A context changed. -/
def State.setA (s : State) (uid : Nat) (a : ACtx) : State :=
  match s.group? uid with
  | none => s
  | some g => s.setGroup { g with a := a }

def Warp.thread (w : Warp) (t : Nat) : TState := SMap.get .exited w.threads t
def Warp.setThread (w : Warp) (t : Nat) (x : TState) : Warp := { w with threads := SMap.set .exited w.threads t x }
def TState.isLive : TState → Bool | .live _ => true | _ => false
def TState.isHelper : TState → Bool | .helper => true | _ => false

/-- The warp has exited: no thread is live (R123, R128). -/
def Warp.exited (w : Warp) : Bool := w.threads.all fun p => !p.2.isLive

/-- The warp has exited for good: one that is in its save routine, or has ended it, has not, whatever the routine's threads
have done (R228, R295). -/
def Warp.gone (w : Warp) : Bool :=
  match w.mode with
  | .saving _ | .saved _ => false
  | _ => w.exited

/-- The PCs of the table: live threads that are not frozen (R122, R222). -/
def Warp.table (w : Warp) : List (Nat × Nat) :=
  w.threads.filterMap fun p =>
    match p.2 with
    | .live pc => if bit w.frozen p.1 then none else some (p.1, pc.toNat)
    | _ => none

/-- The lowest PC of the table. -/
def Warp.minPc (w : Warp) : Option Nat :=
  w.table.foldl (fun a p => match a with | none => some p.2 | some m => some (min m p.2)) none

/-- The head run (R123): the PC and the mask of its threads, helpers of their quads among them. -/
def Warp.headRun (w : Warp) : Option (Nat × BitVec 32) :=
  match w.minPc with
  | none => none
  | some pc =>
    let live := maskOf 32 32 fun t => w.table.contains (t, pc)
    let quad (t : Nat) : Bool := (List.range 4).any fun i => bit live (t / 4 * 4 + i)
    some (pc, live ||| maskOf 32 32 fun t => (w.thread t).isHelper && !bit w.frozen t && quad t)

/-- The helpers among the threads. -/
def Warp.helpers (w : Warp) : BitVec 32 := maskOf 32 32 fun t => (w.thread t).isHelper

/-- The launched warps that have not exited (R295). -/
def Group.liveSet (g : Group) : BitVec 32 :=
  maskOf 32 g.ln.warps fun k => match g.warp? k with | some w => !w.gone | none => false

/-! ### Group queues (R294 to R299) -/

def Queues.bcast (q : Queues) : Nat → List BEntry
  | 1 => q.b1 | 2 => q.b2 | _ => q.b3
def Queues.setBcast (q : Queues) (n : Nat) (l : List BEntry) : Queues :=
  match n with | 1 => { q with b1 := l } | 2 => { q with b2 := l } | _ => { q with b3 := l }
def Queues.gath (q : Queues) : Nat → List (BitVec 32)
  | 4 => q.g4 | _ => q.g5
def Queues.setGath (q : Queues) (n : Nat) (l : List (BitVec 32)) : Queues :=
  match n with | 4 => { q with g4 := l } | _ => { q with g5 := l }
def Queues.tok (q : Queues) : Nat → List Word
  | 6 => q.t6 | _ => q.t7
def Queues.setTok (q : Queues) (n : Nat) (l : List Word) : Queues :=
  match n with | 6 => { q with t6 := l } | _ => { q with t7 := l }

/-- Entries that every warp of the live set has popped leave the broadcast queues (R297). -/
def Queues.retire (q : Queues) (live : BitVec 32) : Queues :=
  let keep (e : BEntry) : Bool := live &&& ~~~e.pops != 0
  { q with b1 := q.b1.filter keep, b2 := q.b2.filter keep, b3 := q.b3.filter keep }

/-- The oldest entry of a broadcast queue that a warp has not popped (R297). -/
def Group.nextEntry (g : Group) (n slot : Nat) : Option BEntry := (g.queues.bcast n).find? fun e => !bit e.pops slot

/-- The list with its first entry that satisfies p changed. -/
def updFirst {α : Type} (p : α → Bool) (f : α → α) : List α → List α
  | [] => []
  | x :: xs => if p x then f x :: xs else x :: updFirst p f xs

/-- A warp's pop of a broadcast queue (R297): the payload and the group after it; none while it waits. -/
def Group.popT (g : Group) (n slot : Nat) : Option (Group × Word) :=
  match g.nextEntry n slot with
  | none => none
  | some e =>
    let l := updFirst (fun x => !bit x.pops slot) (fun x => { x with pops := setBit x.pops slot true }) (g.queues.bcast n)
    some ({ g with queues := (g.queues.setBcast n l).retire g.liveSet }, e.payload)

/-- A warp's push to a gathering queue (R298); none while it waits. -/
def Group.pushT (g : Group) (n slot : Nat) : Option Group :=
  let l := g.queues.gath n
  if l.any fun e => !bit e slot then
    some { g with queues := g.queues.setGath n (updFirst (fun e => !bit e slot) (fun e => setBit e slot true) l) }
  else if l.length < 16 then some { g with queues := g.queues.setGath n (l ++ [setBit 0 slot true]) }
  else none

/-- The context's push to a broadcast queue (R297); none while it waits. -/
def Group.pushA (g : Group) (n : Nat) (v : Word) : Option Group :=
  if g.liveSet = 0 then some g
  else if (g.queues.bcast n).length < 16 then
    some { g with queues := g.queues.setBcast n (g.queues.bcast n ++ [{ payload := v, pops := 0 }]) }
  else none

/-- Entries of queue n that the context can pop, oldest first (R298, R299). -/
def Group.visible (g : Group) (n : Nat) : List Word :=
  if n < 6 then (g.queues.gath n).takeWhile fun e => g.liveSet &&& ~~~e == 0 else g.queues.tok n

/-- Queue n without its oldest entry. -/
def Group.dropA (g : Group) (n : Nat) : Group :=
  if n < 6 then { g with queues := g.queues.setGath n (g.queues.gath n).tail }
  else { g with queues := g.queues.setTok n (g.queues.tok n).tail }

/-! ### Scratchpad (R238, R175) -/

/-- Where n bytes of a group's scratchpad space stand. -/
inductive SpPlace where
  | alloc
  | window (off : Nat)
  deriving DecidableEq, Repr

/-- The place of n bytes at a scratchpad address; none raises PROT (R238, R175). -/
def Group.spPlace (g : Group) (a n : Nat) : Option SpPlace :=
  if a + n ≤ g.kern.smem then some .alloc
  else if 0x200000 ≤ a ∧ a + n ≤ 0x210000 ∧ g.ring.isSome then some (.window (a - 0x200000))
  else none

/-- A byte of the visible bank. -/
def TritArray.winByte (t : TritArray) (o : Nat) : Byte := (SMap.get 0 t.visible (o / 4)).extractLsb' (8 * (o % 4)) 8

/-- The visible bank with a byte written. -/
def TritArray.winPut (t : TritArray) (o : Nat) (b : Byte) : TritArray :=
  let v := (SMap.get 0 t.visible (o / 4)).toNat
  let k := 2 ^ (8 * (o % 4))
  let v' := v - (v / k % 256) * k + b.toNat * k
  { t with visible := SMap.set 0 t.visible (o / 4) (BitVec.ofNat 32 v') }

/-- A byte of a group's scratchpad space, 0 outside it. -/
def State.spByte (s : State) (g : Group) (a : Nat) : Byte :=
  match g.spPlace a 1 with
  | some .alloc => SMap.get 0 g.smem a
  | some (.window o) => (s.core g.core).ta.winByte o
  | none => 0

/-- n bytes of a group's scratchpad space, as a number. -/
def State.spNat (s : State) (g : Group) (a n : Nat) : Nat := leNat ((List.range n).map fun i => s.spByte g (a + i))

/-- Bytes written to a group's scratchpad space. -/
def State.spPuts (s : State) (uid a : Nat) : List Byte → State
  | [] => s
  | b :: bs =>
    match s.group? uid with
    | none => s
    | some g =>
      let s := match g.spPlace a 1 with
        | some .alloc => s.setGroup { g with smem := SMap.set 0 g.smem a b }
        | some (.window o) => s.setCore g.core { s.core g.core with ta := (s.core g.core).ta.winPut o b }
        | none => s
      State.spPuts s uid (a + 1) bs

/-! ### Runs of bytes through a core's L1 -/

/-- A page with its address advanced. -/
def Page.at (p : Page) (o : Nat) : Page := { p with pa := p.pa + o }

/-- Bytes stored at a page address, at a scope, in aligned 16-byte units (R222, R228). -/
def State.gStoreList (s : State) (c tenant sc : Nat) (p : Page) (bs : List Byte) : State :=
  (List.range ((bs.length + 15) / 16)).foldl
    (fun s i =>
      let u := (bs.drop (16 * i)).take 16
      s.gStore c tenant sc (p.at (16 * i)) u.length (leNat u)) s

/-- n bytes loaded, in aligned 16-byte units. -/
def State.gLoadList (s : State) (c tenant sc : Nat) (p : Page) (n : Nat) : State × List Byte :=
  (List.range ((n + 15) / 16)).foldl
    (fun a i =>
      let k := min 16 (n - 16 * i)
      let r := a.1.gLoad c tenant sc (p.at (16 * i)) k
      (r.1, a.2 ++ leBytes k r.2)) (s, [])

/-! ### Events, weights and packets (R233, R340, R343, R356) -/

/-- A 64-byte event (R343). -/
def eventOf (kind status queue : Nat) (tag : Word) (index : DWord) (payload : List Word) : BitVec 512 :=
  BitVec.ofNat 512
    (kind + status * 2 ^ 8 + 2 ^ 22 * queue + 2 ^ 32 * tag.toNat + 2 ^ 64 * index.toNat +
      2 ^ 128 * leNat (payload.flatMap fun w => leBytes 4 w.toNat))

/-- An event handed to the mailbox engine (R275, R434). -/
def State.post (s : State) (tenant : Nat) (e : BitVec 512) : State :=
  { s with fw := { s.fw with events := s.fw.events ++ [(tenant, e)] } }

/-- Weight returned to a graph's counter of 63 bits; at 2^62 the graph completes (R356, R422). -/
def State.returnWeight (s : State) (graph w : Nat) : State :=
  match SMap.find s.lu.graphs graph with
  | none => s
  | some g =>
    let n := (g.counter + w) % 2 ^ 63
    let fin := n = 2 ^ 62
    let s := { s with lu := { s.lu with
      graphs := SMap.put s.lu.graphs graph { g with counter := n, done := g.done || fin },
      grids := if fin || g.done then s.lu.grids.filter fun p => p.2.graph != graph || !p.2.ended else s.lu.grids } }
    if fin && g.gevt then
      s.post g.tenant (eventOf 3 0 g.queue g.tag g.index (BitVec.ofNat 32 g.root :: List.replicate 11 0))
    else s

/-- Whether a packet's EVT flag is set. -/
def Issued.evt (p : Issued) : Bool := p.flags / 4 % 2 == 1
/-- Whether a packet's ORDER flag is set. -/
def Issued.order (p : Issued) : Bool := p.flags / 2 % 2 == 1

/-- A packet whose commands have all completed leaves the list with its event (R340). -/
def State.finishPacket (s : State) (p : Issued) : State :=
  if p.cmds.all fun c => c.st == 2 then
    let s := { s with qi := { s.qi with
      issued := s.qi.issued.filter fun x => x.id != p.id } }
    match p.failed with
    | some st => s.post (p.queue / 64) (eventOf 2 st p.queue p.tag p.index (List.replicate 12 0))
    | none => if p.evt then s.post (p.queue / 64) (eventOf 1 0 p.queue p.tag p.index (List.replicate 12 0)) else s
  else s

/-- Command n of an issued packet given a status, or failing the packet, with what follows (R340). -/
def State.cmdUpdate (s : State) (id : Nat) (f : Issued → Issued) : State :=
  match s.qi.issued.find? fun x => x.id == id with
  | none => s
  | some p =>
    let p' := f p
    let s := { s with qi := { s.qi with
      issued := updFirst (fun x => x.id == id) (fun _ => p') s.qi.issued } }
    s.finishPacket p'

/-- The commands of the packet that started a grid are complete for it (R340). -/
def Issued.gridDone (p : Issued) (num : Nat) (fail : Option Nat) : Issued :=
  { p with cmds := p.cmds.map fun c => if c.grid == some num then { c with st := 2 } else c,
           failed := match p.failed with | some f => some f | none => fail }

/-- A grid ends (R340, R356): its weight returns, its packet learns of it. `fail` is the status that
its packet fails with. -/
def State.endGrid (s : State) (num : Nat) (fail : Option Nat) : State :=
  match SMap.find s.lu.grids num with
  | none => s
  | some g =>
    if g.ended then s
    else
      let s := { s with lu := { s.lu with
        grids := SMap.put s.lu.grids num { g with ended := true, weight := 0, head := [], tail := [], placed := [] },
        clBars := s.lu.clBars.filter fun p => p.1 / 2 ^ 35 != num,
        gdBars := s.lu.gdBars.filter fun p => p.1 / 4 != num,
        saved := s.lu.saved.filter fun p => p.1 / 2 ^ 32 != num,
        holds := s.lu.holds.filter fun h => h.uid / 2 ^ 32 != num } }
      let s := s.cmdUpdate g.id fun p => p.gridDone num fail
      s.returnWeight g.graph g.weight

/-! ### The crown (R190 to R193) -/

/-- The first occupied ring position after one, modulo 8. -/
def nextRing (ring : SMap Nat) (pos : Nat) : Option Nat :=
  ((List.range 8).map fun i => (pos + 1 + i) % 8).find? fun p => (SMap.find ring p).isSome

/-- The crown passed on from a position by a member that leaves: to the next other member, or free. -/
def TritArray.leave (t : TritArray) (pos : Nat) (free : Bool) : TritArray :=
  let ring := if free then SMap.del t.ring pos else t.ring
  let t := { t with ring := ring }
  if t.held && t.holder == pos then
    match nextRing (SMap.del ring pos) pos with
    | some p => { t with holder := p }
    | none => { t with held := false }
  else t

/-- The ring position of a group on its core's array. -/
def State.ringPos (s : State) (g : Group) : Option Nat :=
  (((s.core g.core).ta.ring).find? fun p => p.2 == g.uid).map Prod.fst

/-! ### Containment (R232, R193, R276) -/

/-- A core without the commands, queries and records of a group (R232); a Trit Array run of it in
progress stops with the poison mark set (R193). -/
def Core.purge (c : Core) (uid : Nat) : Core :=
  let run := match c.ta.queue with | x :: _ => x.uid == uid && !x.zero && x.st != .queued | [] => false
  { c with
    ta := { c.ta with queue := c.ta.queue.filter fun x => x.uid != uid, poison := c.ta.poison || run },
    chans := (SMap.mapv (fun _ l => l.filter fun x => x.uid != uid) c.chans).filter fun p => !p.2.isEmpty,
    fifo := c.fifo.filter fun x => x.uid != uid,
    rays := c.rays.filter fun x => x.q.uid != uid,
    splits := c.splits.filter fun x => x.uid != uid }

/-- A resident group removed, with its crown and its engine work (R232). -/
def State.dropGroup (s : State) (uid : Nat) : State :=
  match s.group? uid with
  | none => s
  | some g =>
    let c := s.core g.core
    let t := match g.ring with | some p => c.ta.leave p true | none => c.ta
    let s := (s.setCore g.core (Core.purge { c with ta := t } uid)).closeWalks (Turn.ofStream uid)
    { s with groups := SMap.del s.groups uid }

/-- A fault joins its entry, takes a place, or waits for one (R384). -/
def Die.queueFault (d : Die) (f : FaultEntry) : Die :=
  let same (x : FaultEntry) : Bool := x.asid == f.asid && x.va / 65536 == f.va / 65536
  let join (x : FaultEntry) : FaultEntry := { x with count := min 0xFFFF (x.count + f.count), uids := x.uids ++ f.uids }
  if d.faults.any same then { d with faults := updFirst same join d.faults }
  else if d.faults.length < 4096 ∧ (d.faults.filter fun x => x.tenant == f.tenant).length < 1024 ∧
      (d.late.all fun x => x.tenant != f.tenant) then { d with faults := d.faults ++ [f] }
  else { d with late := d.late ++ [f] }

/-- The late faults that find a place now, in arrival order per tenant (R384). -/
def Die.placeLate (d : Die) : Die := d.late.foldl Die.queueFault { d with late := [] }

/-- A killed grid's groups leave the queued faults, and an entry that stands for no other group's access leaves its
queue (R232, R384). -/
def Die.dropFaults (d : Die) (num : Nat) : Die :=
  let cut (l : List FaultEntry) : List FaultEntry :=
    (l.map fun f => { f with uids := f.uids.filter fun u => u / 2 ^ 32 != num }).filter fun f => !f.uids.isEmpty
  Die.placeLate { d with faults := cut d.faults, late := cut d.late }

/-- A grid stopped with every stream, command, query and queue of it (R232). -/
def State.killGrid (s : State) (num : Nat) (fail : Option Nat) : State :=
  let mine := s.groups.filter fun p => p.2.grid == num
  let s := mine.foldl (fun s p => s.dropGroup p.1) s
  let s := { s with dies := SMap.mapv (fun _ d => Die.dropFaults d num) s.dies }
  let away := s.lu.saved.filter fun p => p.2.grid == num
  let s := away.foldl (fun s p =>
    match p.2.ring with
    | some r => s.setCore p.2.core { s.core p.2.core with ta := ((s.core p.2.core).ta.leave r true) }
    | none => s) s
  s.endGrid num fail

/-- A grid fault (R232, R233, R343): slot 64 is the A context. The release at .dev precedes the event. -/
def State.gridFault (s : State) (g : Group) (slot : Nat) (code dcause : Nat) (tpc : Word) (tval : DWord)
    (nested : Bool) : State :=
  let s := s.release g.tenant g.core 3
  let (queue, tag, index) := match SMap.find s.lu.grids g.grid with
    | some r => (r.queue, r.tag, r.index)
    | none => (64 * g.tenant, 0, 0)
  let w0 := code + (if nested then 256 else 0) + (if slot = 64 then 512 else 0) + 2 ^ 16 * dcause
  let payload : List Word :=
    [BitVec.ofNat 32 w0, tpc, tval.extractLsb' 0 32, tval.extractLsb' 32 32, BitVec.ofNat 32 g.grid,
     BitVec.ofNat 32 g.gid, BitVec.ofNat 32 slot, BitVec.ofNat 32 g.side, 0, 0, 0, 0]
  (s.post g.tenant (eventOf 4 13 queue tag index payload)).killGrid g.grid (some 13)

/-! ### Side effects, semaphores (R235, R424, R426) -/

/-- A group with its side-effect count raised by 1 (R235). -/
def Group.sideUp (g : Group) : Group := { g with side := min 0xFFFF (g.side + 1) }

/-- The side-effect count of a group raised by 1, also of one that is away from its core (R235). -/
def State.sideEffect (s : State) (uid : Nat) : State :=
  match s.group? uid with
  | none => { s with lu := { s.lu with saved := SMap.mapv (fun u g => if u == uid then g.sideUp else g) s.lu.saved } }
  | some g => s.setGroup g.sideUp

/-- A group has written n bytes of a page: in the VALID word of a block of a RING page it may publish a packet (R235,
R335). -/
def State.wroteRing (s : State) (uid : Nat) (p : Page) (n : Nat) : State :=
  if p.kind = 2 ∧ 60 < p.pa % 64 + n then
    { s with qi := { s.qi with posters := SMap.put s.qi.posters (p.pa / 64) uid } }
  else s

/-- One write of a group to a page, with its side effect where that is a RING page (R235). -/
def State.wroteOne (s : State) (uid : Nat) (p : Page) (n : Nat) : State :=
  if p.kind = 2 then (s.wroteRing uid p n).sideEffect uid else s

/-- A wait tested against a value that its semaphore takes (R424). -/
def SemWait.test (x : SemWait) (idx : Nat) (v : Word) : SemWait :=
  if x.idx == idx && x.hit.isNone && decide (x.thresh.toNat ≤ v.toNat) then { x with hit := some v } else x

/-- A started WAITSEM tested against a value that its semaphore takes (R341). -/
def IssuedCmd.semTest (x : IssuedCmd) (c idx : Nat) (v : Word) : IssuedCmd :=
  let w0 := (x.cmd.body[0]?).getD 0
  if x.ty == 4 && x.st == 1 && bitsOf w0.toNat 15 8 == c && bitsOf w0.toNat 5 0 == idx &&
      decide (((x.cmd.body[1]?).getD 0).toNat ≤ v.toNat) then { x with hit := true } else x

/-- Every wait of a packet's commands tests the value. -/
def Issued.semTest (p : Issued) (c idx : Nat) (v : Word) : Issued := { p with cmds := p.cmds.map fun x => x.semTest c idx v }

/-- Every wait of a group's streams tests the value. -/
def Group.semTest (g : Group) (idx : Nat) (v : Word) : Group :=
  { g with warps := SMap.mapv (fun _ (w : Warp) => { w with semWait := w.semWait.map fun x => x.test idx v }) g.warps,
           a := { g.a with semWait := g.a.semWait.map fun x => x.test idx v } }

/-- A semaphore of a core given a value: every wait on it tests the value (R424). -/
def State.semSet (s : State) (c idx : Nat) (v : Word) : State :=
  let s := s.setCore c { s.core c with sems := SMap.set 0 (s.core c).sems idx v }
  { s with qi := { s.qi with issued := s.qi.issued.map fun p => p.semTest c idx v },
           groups := SMap.mapv (fun _ g => if g.core == c then g.semTest idx v else g) s.groups }

def State.sem (s : State) (c idx : Nat) : Word := SMap.get 0 (s.core c).sems idx

/-- SEMADD's new value (R426). -/
def semAdd (old b : Word) : Word := BitVec.ofInt 32 (max 0 (min 0xFFFFFFFF ((old.toNat : Int) + b.toInt)))

/-! ### Translation faults (R221, R384) -/

/-- A translation fault of a group's access queued for the tenant. -/
def State.queueFault (s : State) (g : Group) (va cause agent : Nat) : State :=
  let d := dieOf g.core
  let f : FaultEntry :=
    { tenant := g.tenant, asid := g.asid, va := va, cause := cause, agent := agent, count := 1, uids := [g.uid] }
  (s.setDie d ((s.die d).queueFault f)).bump g.tenant 8 d 1

/-! ### Taking an exception in a warp (R217 to R222) -/

/-- CAUSE of DFREC where it is valid (R219). -/
def dfCause (df : DWord) : Nat := if bit df 8 then bitsOf df.toNat 7 0 else 0

/-- TCAUSE (R217). -/
def tcauseOf (c : Cause) (top tmod : Nat) (astr : Bool) (dcause : Nat) : Word :=
  BitVec.ofNat 32 (c.code + dcause * 2 ^ 8 + (if astr then 2 ^ 16 else 0) + 2 ^ 20 * tmod + 2 ^ 24 * top)

/-- Thread t's value of register r of the file (key of `Regs.val`). -/
def Regs.get (r : Regs) (reg t : Nat) : Word := SMap.get 0 r.val (32 * reg + t)
def Regs.set (r : Regs) (reg t : Nat) (v : Word) : Regs := { r with val := SMap.set 0 r.val (32 * reg + t) v }
def Regs.poi (r : Regs) (reg : Nat) : BitVec 32 := SMap.get 0 r.poison reg
def Regs.setPoi (r : Regs) (reg : Nat) (m : BitVec 32) : Regs := { r with poison := SMap.set 0 r.poison reg m }
def Regs.sGet (r : Regs) (n : Nat) : Word := SMap.get 0 r.sreg n
def Regs.sSet (r : Regs) (n : Nat) (v : Word) : Regs := { r with sreg := SMap.set 0 r.sreg n v }
/-- A predicate as a mask; f7 reads 1 in every thread (R33). -/
def Regs.fGet (r : Regs) (n : Nat) : BitVec 32 := if n = 7 then BitVec.allOnes 32 else SMap.get 0 r.pred n
/-- A predicate written in the threads of a mask; a write to f7 is discarded (R33). -/
def Regs.fSet (r : Regs) (n : Nat) (act m : BitVec 32) : Regs :=
  if n = 7 then r else { r with pred := SMap.set 0 r.pred n ((r.fGet n &&& ~~~act) ||| (m &&& act)) }
/-- A v name unmapped: it holds nothing from then on (R24, R25). -/
def Regs.unmap (r : Regs) (n : Nat) : Regs :=
  { r with vmap := setBit r.vmap n false, val := r.val.filter fun p => p.1 / 32 != n, poison := SMap.del r.poison n }
/-- Mapped names (R28). -/
def Regs.mapped (r : Regs) : Nat := ((List.range 128).filter fun n => bit r.vmap n).length

/-- The words of 32 threads of a register, little-endian. -/
def Regs.column (r : Regs) (reg : Nat) : List Byte := (List.range 32).flatMap fun t => leBytes 4 (r.get reg t).toNat

/-- The 2,560 bytes of a warp's trap frame (R222). -/
def tFrameBytes (w : Warp) (tr : TrapRegs) : List Byte :=
  (((List.range 8) ++ (List.range 8).map (· + 128) ++ [136, 137]).flatMap w.regs.column) ++
  (((List.range 8) ++ (List.range 8).map (· + 128) ++ [136, 137]).flatMap fun n => leBytes 4 (w.regs.poi n).toNat) ++
  ((List.range 7).flatMap fun n => leBytes 4 (w.regs.fGet n).toNat) ++ leBytes 4 0 ++
  ((List.range 8).flatMap fun n => leBytes 4 (w.regs.sGet n).toNat) ++
  leBytes 4 tr.tcause.toNat ++ leBytes 4 tr.tpc.toNat ++ leBytes 8 tr.tinst.toNat ++ leBytes 8 tr.tinst2.toNat ++
  leBytes 4 tr.tmask.toNat ++ leBytes 4 w.safecnt.toNat ++ leBytes 8 tr.tval.toNat ++ leBytes 8 w.dfrec.toNat ++
  leBytes 4 (bitsOf w.regs.vmap.toNat 7 0) ++ leBytes 68 0

/-- The warp in its handler (R222): the run's threads at the entry, every other frozen. -/
def Warp.enter (w : Warp) (tr : TrapRegs) (entry : Nat) : Warp :=
  { w with
    trap := tr, safecnt := 0, inHandler := true, frozen := ~~~tr.tmask, held := none, keptPop := none, synced := none,
    semWait := none,
    threads := SMap.mapv (fun t x =>
      match x with
      | .live pc => .live (if bit tr.tmask t then BitVec.ofNat 32 entry else pc)
      | y => y) w.threads }

/-- A warp is in a save or restore routine (R229). -/
def RunMode.routine : RunMode → Bool
  | .running => false
  | _ => true

/-- A precise trap of a warp, taken (R221, R222): XLATE does not come here. `dcause` and the TVAL of
POISON come from DFREC (R219). -/
def State.tTrap (s : State) (g : Group) (slot : Nat) (w : Warp) (run : BitVec 32) (pc op mod : Nat)
    (w0 w1 : DWord) (cause : Cause) (tval : DWord) : State :=
  let dcause := if cause = .poison then dfCause w.dfrec else 0
  let tval := if cause = .poison then w.dfrec else tval
  let tr : TrapRegs := { tcause := tcauseOf cause op mod false dcause, tpc := BitVec.ofNat 32 pc, tinst := w0,
                         tinst2 := w1, tmask := run, tval := tval }
  let s := s.setGroup (g.setWarp slot w)
  let fault (nested : Bool) : State := s.gridFault g slot cause.code dcause tr.tpc tval nested
  let nested := w.inHandler || w.mode.routine
  if cause = .safeover || nested then fault nested
  else
    match g.kern.ttrap with
    | none => fault true
    | some entry =>
      let t := s.translate g.core g.tenant g.asid w.tframe.toNat
      match t.2 with
      | .error _ => t.1.gridFault g slot cause.code dcause tr.tpc tval true
      | .ok p =>
        if p.w then
          (t.1.gStoreList g.core g.tenant 0 p (tFrameBytes w tr)).setWarp g.uid slot (w.enter tr entry)
        else t.1.gridFault g slot cause.code dcause tr.tpc tval true

/-- Word k of a list of bytes. -/
def wordAt (bs : List Byte) (o n : Nat) : Nat := leNat ((bs.drop o).take n)

/-- Registers restored from a frame's columns (R223). -/
def Regs.reload (r : Regs) (bs : List Byte) : Regs :=
  let cols := (List.range 8) ++ (List.range 8).map (· + 128) ++ [136, 137]
  let map := wordAt bs 0x9B8 4
  let one (r : Regs) (p : Nat × Nat) : Regs :=
    let reg := p.1
    if reg < 8 ∧ (map / 2 ^ reg) % 2 = 0 then r.unmap reg
    else
      let r := (List.range 32).foldl (fun r t => r.set reg t (BitVec.ofNat 32 (wordAt bs (0x80 * p.2 + 4 * t) 4))) r
      let r := r.setPoi reg (BitVec.ofNat 32 (wordAt bs (0x900 + 4 * p.2) 4))
      if reg < 8 then { r with vmap := setBit r.vmap reg true } else r
  let r := cols.zipIdx.foldl one r
  let r := (List.range 7).foldl (fun r n => r.fSet n (BitVec.allOnes 32) (BitVec.ofNat 32 (wordAt bs (0x948 + 4 * n) 4))) r
  (List.range 8).foldl (fun r n => r.sSet n (BitVec.ofNat 32 (wordAt bs (0x968 + 4 * n) 4))) r

/-- The registers of a warp of n threads: those beyond do not exist and read 0 (R42). -/
def Regs.lanes (r : Regs) (n : Nat) : Regs :=
  if 32 ≤ n then r
  else
    let m : BitVec 32 := BitVec.ofNat 32 (2 ^ n - 1)
    { r with val := r.val.filter fun p => decide (p.1 % 32 < n), poison := SMap.mapSet 0 (· &&& m) r.poison,
             pred := SMap.mapSet 0 (· &&& m) r.pred }

/-- A warp whose registers have been read from memory, as a warp of n threads holds them (R42, R222, R228). -/
def Warp.lanes (w : Warp) (n : Nat) : Warp := { w with regs := w.regs.lanes n }

/-- The zero words and zero bits of a T trap frame are zero (R222, R6). -/
def tFrameZeros (bs : List Byte) : Bool :=
  wordAt bs 0x964 4 == 0 && wordAt bs 0x9B8 4 / 256 == 0 && wordAt bs 0x9BC 68 == 0

/-- The zero bits of an A trap frame are zero (R224, R6). -/
def aFrameZeros (bs : List Byte) : Bool := wordAt bs 0x48 4 / 16 == 0 && wordAt bs 0x6C 20 == 0

/-- The warp as TRET leaves it (R223, R219). -/
def Warp.leave (w : Warp) (bs : List Byte) : Warp :=
  let pc := BitVec.ofNat 32 (wordAt bs 0x98C 4)
  { w with
    regs := w.regs.reload bs,
    safecnt := BitVec.ofNat 32 (wordAt bs 0x9A4 4),
    dfrec := if bitsOf w.trap.tcause.toNat 7 0 = Cause.poison.code then 0 else w.dfrec,
    inHandler := false, frozen := 0,
    threads := SMap.mapv (fun t x =>
      match x with
      | .live q => .live (if bit w.trap.tmask t then pc else q)
      | y => y) w.threads }

/-! ### Taking an exception in an A context (R173, R224) -/

def ACtx.reg (a : ACtx) (n : Nat) : DWord := if n = 0 then 0 else SMap.get 0 a.a n
/-- A write to an A register; a0 discards it (R152). -/
def ACtx.setReg (a : ACtx) (n : Nat) (v : DWord) : ACtx := if n = 0 then a else { a with a := SMap.set 0 a.a n v }
def ACtx.loop (a : ACtx) (n : Nat) : Word := SMap.get 0 a.l n
def ACtx.setLoop (a : ACtx) (n : Nat) (v : Word) : ACtx := { a with l := SMap.set 0 a.l n v }

/-- The 128 bytes of an A context's trap frame (R224). -/
def aFrameBytes (a : ACtx) (tr : TrapRegs) : List Byte :=
  ((List.range 7).flatMap fun n => leBytes 8 (a.reg (n + 1)).toNat) ++
  ((List.range 4).flatMap fun n => leBytes 4 (a.loop n).toNat) ++ leBytes 4 a.p.toNat ++
  leBytes 4 tr.tcause.toNat ++ leBytes 4 tr.tpc.toNat ++ leBytes 4 a.safecnt.toNat ++ leBytes 8 tr.tval.toNat ++
  leBytes 4 (bitsOf tr.tinst.toNat 63 32) ++ leBytes 4 (bitsOf tr.tinst2.toNat 31 0) ++
  leBytes 4 (bitsOf tr.tinst.toNat 31 0) ++ leBytes 20 0

/-- A precise trap of an A context, taken (R173, R221, R224). -/
def State.aTrap (s : State) (g : Group) (a : ACtx) (op : Nat) (pre imm inst : Word) (cause : Cause) (tval : DWord) :
    State :=
  let tr : TrapRegs := { tcause := tcauseOf cause op 0 true 0, tpc := a.apc, tinst := pre ++ inst,
                         tinst2 := imm.setWidth 64, tmask := 0, tval := tval }
  let s := s.setGroup { g with a := a }
  let fault (s : State) (nested : Bool) : State := s.gridFault g 64 cause.code 0 tr.tpc tval nested
  let nested := a.inHandler || a.mode.routine
  if cause = .safeover || nested then fault s nested
  else
    match g.kern.atrap with
    | none => fault s true
    | some entry =>
      let t := s.translate g.core g.tenant g.asid a.tframe.toNat
      match t.2 with
      | .error _ => fault t.1 true
      | .ok p =>
        if p.w then
          (t.1.gStoreList g.core g.tenant 0 p (aFrameBytes a tr)).setA g.uid
            { a with trap := tr, safecnt := 0, inHandler := true, apc := BitVec.ofNat 32 entry, held := none,
                     semWait := none, crownWait := false }
        else fault t.1 true

/-- The context as ARET.T leaves it (R224). -/
def ACtx.leave (a : ACtx) (bs : List Byte) : ACtx :=
  let a := (List.range 7).foldl (fun a n => a.setReg (n + 1) (BitVec.ofNat 64 (wordAt bs (8 * n) 8))) a
  let a := (List.range 4).foldl (fun a n => a.setLoop n (BitVec.ofNat 32 (wordAt bs (0x38 + 4 * n) 4))) a
  { a with p := BitVec.ofNat 4 (wordAt bs 0x48 4), apc := BitVec.ofNat 32 (wordAt bs 0x50 4),
           safecnt := BitVec.ofNat 32 (wordAt bs 0x54 4), inHandler := false }

/-! ### Barriers (R142 to R144) -/

/-- The key of a warp in a barrier. -/
def warpKey (uid slot : Nat) : Nat := uid * 64 + slot

/-- The warp has arrived in the barrier's phase: every live thread has (R143). -/
def Barrier.arrivedBy (b : Barrier) (uid slot : Nat) (w : Warp) : Bool :=
  let m := SMap.get 0 b.arrived (warpKey uid slot)
  w.threads.all fun p => !p.2.isLive || bit m p.1

/-- Every launched warp of a group that has started, resident or saved, has arrived; `mask` limits the members. -/
def Group.arrived (g : Group) (b : Barrier) (mask : Nat) : Bool :=
  !g.warps.isEmpty && (List.range g.ln.warps).all fun k =>
    (mask / 2 ^ k) % 2 == 0 ||
    match g.warp? k with
    | none => true
    | some w =>
      let live := match w.mode with
        | .saving _ | .saved _ => { w with threads := w.stop }
        | _ => w
      b.arrivedBy g.uid k live

/-- The barrier after its phase has completed (R144). -/
def Barrier.flip (b : Barrier) : Barrier := { phase := !b.phase, arrived := [] }

/-- Member mask of a group barrier (R142, R399). -/
def Group.barMask (g : Group) (i : Nat) : Nat :=
  let m := (g.ln.barmask[i]?).getD 0
  if m = 0 then 2 ^ g.ln.warps - 1 else m

/-- A group of a grid, resident or saved. -/
def State.anyGroup (s : State) (uid : Nat) : Option Group :=
  match s.group? uid with
  | some g => some g
  | none => SMap.find s.lu.saved uid

/-- Groups of a grid. -/
def Grid.total (g : Grid) : Nat := g.gx * g.gy * g.gz

/-- A group barrier's phase completed where every member warp has arrived (R144). -/
def Group.settleBar (g : Group) (i : Nat) : Group :=
  let b := SMap.get Barrier.zero g.bars i
  if b.arrived.isEmpty then g
  else if g.arrived b (g.barMask i) then { g with bars := SMap.put g.bars i b.flip } else g

/-- A cluster barrier settled: ended groups count as arrived, groups never placed do not (R144). -/
def State.settleCl (s : State) (g : Group) (i : Nat) : State :=
  let cid := g.gid / g.ln.clg
  let key := 8 * (2 ^ 32 * g.grid + cid) + i
  let b := SMap.get Barrier.zero s.lu.clBars key
  let ok (j : Nat) : Bool :=
    match s.anyGroup (2 ^ 32 * g.grid + cid * g.ln.clg + j) with
    | some x => x.arrived b (2 ^ 32 - 1)
    | none => true
  if b.arrived.isEmpty then s
  else if (List.range g.ln.clg).all ok then
    { s with lu := { s.lu with clBars := SMap.put s.lu.clBars key b.flip } }
  else s

/-- A grid barrier settled (R144): every group of the grid has ended or its warps have arrived. -/
def State.settleGd (s : State) (num i : Nat) : State :=
  let key := 4 * num + i
  let b := SMap.get Barrier.zero s.lu.gdBars key
  match SMap.find s.lu.grids num with
  | none => s
  | some r =>
    let here := (s.groups.filter fun p => p.2.grid == num && p.2.arrived b (2 ^ 32 - 1)).length
    let away := (s.lu.saved.filter fun p => p.2.grid == num && p.2.arrived b (2 ^ 32 - 1)).length
    if b.arrived.isEmpty then s
    else if r.endedCount + here + away = r.total then
      { s with lu := { s.lu with gdBars := SMap.put s.lu.gdBars key b.flip } }
    else s

/-- Every barrier that a group belongs to, settled (R136, R144). -/
def State.settleAll (s : State) (uid : Nat) : State :=
  match s.anyGroup uid with
  | none => s
  | some g =>
    let s := match s.group? uid with
      | some g => s.setGroup ((List.range 16).foldl (fun g i => g.settleBar i) g)
      | none => s
    let s := (List.range 8).foldl (fun s i => s.settleCl g i) s
    (List.range 4).foldl (fun s i => s.settleGd g.grid i) s

end Sys2Proof.Machine
end

