-- ==== Sys2Proof/Machine/Operands.lean ====
section
/-!
DEFINITION. Operand forms of the T stream and of the A stream, destination writes, and the issue of an
instruction of either stream: what is common to every meaning (R22 to R37, R67, R73, R86, R123, R133,
R155 to R158, R220, R296).
-/

namespace Sys2Proof.Machine

/-! ### Reading T operands -/

/-- How an operand reads a short immediate (R67). -/
inductive ImmKind where
  /-- sext, and the raw pattern of packed elements -/
  | int
  | f32
  | f16
  | bf16
  deriving DecidableEq, Repr

/-- A short immediate as a 32-bit operand (R67). -/
def immWord (k : ImmKind) (b : BitVec 8) : Word :=
  let q := FVal.ofRat (b.toInt : Rat)
  match k with
  | .int => b.signExtend 32
  | .f32 => BitVec.ofNat 32 (fp32.round .rne false q)
  | .f16 => BitVec.ofNat 32 (fp16.round .rne false q)
  | .bf16 => BitVec.ofNat 32 (bf16.round .rne false q)

/-- What a T instruction sees when it issues: its group and warp after the pop, the head run and in it
the active threads and the helpers (R8, R123), the popped payload. -/
structure TEnv where
  s : State
  g : Group
  slot : Nat
  w : Warp
  pc : Nat
  run : BitVec 32
  act : BitVec 32
  hlp : BitVec 32
  q : Word
  i : TWord
  op : Nat

/-- Active threads that are not helpers. -/
def TEnv.parts (e : TEnv) : BitVec 32 := e.act &&& ~~~e.hlp

/-- The register-file key of a per-thread operand (Regs.val), none for the others. -/
def selKey : Sel → Option Nat
  | .v n => some n
  | .o n => some (128 + n)
  | .x n => some (136 + n)
  | _ => none

/-- Register j of an operand in a thread. -/
def TEnv.selReg (e : TEnv) (sel : Sel) (k : ImmKind) (j t : Nat) : Word :=
  match sel with
  | .v n => e.w.regs.get (n + j) t
  | .o n => e.w.regs.get (128 + n + j) t
  | .x n => e.w.regs.get (136 + n + j) t
  | .s n => e.w.regs.sGet (n + j)
  | .q _ => e.q
  | .imm b => immWord k b
  | .reserved => 0

/-- The selector and the IMMUSE number of a source: 1 A, 2 B, 3 C. -/
def TEnv.field (e : TEnv) : Nat → BitVec 9
  | 1 => e.i.srca
  | 2 => e.i.srcb
  | _ => e.i.srcc

/-- IMM32 replaces the source (R68). -/
def TEnv.isImm (e : TEnv) (f : Nat) : Bool := e.i.ext.immuse.toNat == f

/-- A 32-bit source of a thread. -/
def TEnv.src (e : TEnv) (f : Nat) (k : ImmKind) (t : Nat) : Word :=
  if e.isImm f then e.i.ext.imm32 else e.selReg (Sel.ofBits (e.field f)) k 0 t

/-- A 64-bit source of a thread (R37, R71). -/
def TEnv.src64 (e : TEnv) (f t : Nat) : DWord :=
  if e.isImm f then e.i.ext.imm32.signExtend 64
  else
    match Sel.ofBits (e.field f) with
    | .imm b => b.signExtend 64
    | sel => e.selReg sel .int 1 t ++ e.selReg sel .int 0 t

/-- A 128-bit source of a thread (R249). -/
def TEnv.src128 (e : TEnv) (f t : Nat) : BitVec 128 :=
  let r := fun j => e.selReg (Sel.ofBits (e.field f)) .int j t
  r 3 ++ r 2 ++ r 1 ++ r 0

/-- The warp is in a save routine, where POISON is never raised (R228). -/
def Warp.saving (w : Warp) : Bool := match w.mode with | .saving _ => true | _ => false

/-- The threads in which a source of n registers is poisoned (R35, R86). -/
def TEnv.rawPoi (e : TEnv) (f n : Nat) : BitVec 32 :=
  if e.isImm f then 0
  else
    match selKey (Sel.ofBits (e.field f)) with
    | none => 0
    | some k => (List.range n).foldl (fun m j => m ||| e.w.regs.poi (k + j)) 0

/-- The threads in which the instruction heeds the poison of a source: none in a save routine, where nothing raises
POISON, but under .SPEC, which raises nothing there either (R86, R228). -/
def TEnv.srcPoi (e : TEnv) (f n : Nat) : BitVec 32 := if e.i.spec = 0 && e.w.saving then 0 else e.rawPoi f n

/-- Registers that each source of the instruction spans: A, B, C (Shapes). -/
def TEnv.spans (e : TEnv) : List Nat :=
  match tShape e.op e.i with
  | none => [0, 0, 0]
  | some sh => [sh.a.regs, sh.b.regs, sh.c.regs]

/-- The threads that some source poisons (R86). -/
def TEnv.poisoned (e : TEnv) : BitVec 32 :=
  (e.spans.zipIdx.map fun p => if p.1 = 0 then 0 else e.srcPoi (p.2 + 1) p.1).foldl (· ||| ·) 0

/-! ### Writing T destinations -/

/-- Register `reg` written in the threads of a mask, with a poison mask (R35). -/
def Regs.write (r : Regs) (reg : Nat) (act : BitVec 32) (v : Nat → Word) (poi : BitVec 32) : Regs :=
  let r := (lanesOf act).foldl (fun r t => r.set reg t (v t)) r
  r.setPoi reg ((r.poi reg &&& ~~~act) ||| (poi &&& act))

/-- Part j of a result. -/
def partOf (v : BitVec 128) (j : Nat) : Word := v.extractLsb' (32 * j) 32

/-- The last-result file after a result of n registers (R31); the poison of the old x0 moves with it (log 60). -/
def Regs.shiftX (r : Regs) (act : BitVec 32) (n : Nat) (v : Nat → BitVec 128) (poi : BitVec 32) : Regs :=
  if n = 1 then
    let r' := r.write 137 act (fun t => r.get 136 t) (r.poi 136)
    r'.write 136 act (fun t => partOf (v t) 0) poi
  else (r.write 136 act (fun t => partOf (v t) 0) poi).write 137 act (fun t => partOf (v t) 1) poi

/-- The lowest thread of a mask. -/
def lowest (m : BitVec 32) : Option Nat := (lanesOf m).head?

/-- A result of n registers written to a destination selector and to the last-result file (R23, R30 to
R32). -/
def Regs.writeDst (r : Regs) (dst : BitVec 9) (n : Nat) (act : BitVec 32) (v : Nat → BitVec 128) (poi : BitVec 32) :
    Regs :=
  let file (r : Regs) (k : Nat) : Regs :=
    (List.range n).foldl (fun r j => r.write (k + j) act (fun t => partOf (v t) j) poi) r
  let r' :=
    match Sel.ofBits dst with
    | .v k => file { r with vmap := (List.range n).foldl (fun m j => setBit m (k + j) true) r.vmap } k
    | .o k => file r (128 + k)
    | .s k =>
      match lowest act with
      | none => r
      | some t => (List.range n).foldl (fun r j => r.sSet (k + j) (partOf (v t) j)) r
    | _ => r
  r'.shiftX act n v poi

/-- The v names that a destination selector of n registers allocates (R23). -/
def Regs.allocs (r : Regs) (dst : BitVec 9) (n : Nat) : Nat :=
  match Sel.ofBits dst with
  | .v k => ((List.range n).filter fun j => !bit r.vmap (k + j)).length
  | _ => 0

/-- The names that last-read marks unmap (R25, R26): registers of marked v sources but the
destination's, which VPUT (0x57) names by its index (R148). -/
def TEnv.marked (e : TEnv) (dstRegs : Nat) : List Nat :=
  let dst : List Nat :=
    if e.op = 0x57 then [(e.src 1 .int 0).toNat]
    else match Sel.ofBits e.i.dst with
      | .v k => (List.range dstRegs).map (k + ·)
      | _ => []
  let one (p : Nat × Nat) : List Nat :=
    if bit e.i.lr (2 - p.2) then
      (match Sel.ofBits (e.field (p.2 + 1)) with
       | .v k => (List.range p.1).map (k + ·)
       | _ => [])
    else []
  (e.spans.zipIdx.flatMap one).filter fun n => !dst.contains n

/-! ### The issue of a T instruction -/

/-- What a T meaning answers: a precise trap (of the head run, of a mask of it, or over a state that has
given a free value), a wait, an access to park, or its effect, with the
threads that it has given a new PC or state of their own; `late` leaves the push to a later step (R118). An instruction
that waits has not issued: `wait` has popped nothing, `held` has made its pop alone (R310, R331), and `begun` has arrived
at its barrier in some threads (R143). -/
inductive TRes where
  | trap (c : Cause) (tval : DWord)
  | trapIn (mask : BitVec 32) (c : Cause) (tval : DWord)
  | trapAt (s : State) (c : Cause) (tval : DWord)
  | wait (w : Warp)
  | held
  | begun (s : State) (w : Warp)
  | park (s : State) (va cause agent : Nat)
  | ok (s : State) (w : Warp) (redirected : BitVec 32)
  | late (s : State) (w : Warp)

/-- The instruction has not issued (R125). -/
def TRes.idle : TRes → Bool
  | .wait _ | .held => true
  | _ => false

/-- A result over a state that the instruction's own accesses have changed. -/
def TRes.onto (r : TRes) (s : State) : TRes :=
  match r with
  | .ok _ w red => .ok s w red
  | r => r

/-- Registers that the launch unit holds reserved for slot k of a group: a warp that has exited has released them, a
spawn slot keeps them (R28, R29, R326). -/
def Group.reserves (g : Group) (k : Nat) : Nat := if decide (k < 32) && (g.warp? k).any Warp.gone then 0 else g.kern.live

/-- Registers of the pipe that no warp reserves and none draws (R28, R29). A warp of a portable kernel draws none: its
translation keeps within LIVE, whatever names its blocks write (R396, log 9). -/
def State.poolFree (s : State) (g : Group) (slot : Nat) : Nat :=
  let pipe := (g.pipes.find? fun p => p.1 == slot).map Prod.snd
  let on (x : Group) : List Nat := (x.pipes.filter fun p => some p.2 == pipe).map Prod.fst
  let mates := (s.groups.map Prod.snd).filter fun x => x.core == g.core && x.quarter == g.quarter
  let used := mates.foldl (fun a x =>
    (on x).foldl (fun a k =>
      a + max (x.reserves k) (match x.warp? k with | some w => if x.kern.portable then 0 else w.regs.mapped | none => 0)) a) 0
  64 - used

/-- The rename stage waits (R29). -/
def State.renameStall (s : State) (g : Group) (slot : Nat) (w : Warp) (n : Nat) : Bool :=
  let now := w.regs.mapped
  n != 0 && decide (g.kern.live < now + n) && decide (s.poolFree g slot < now + n - max g.kern.live now)

/-- The words of a T instruction. -/
def tWords (op : Nat) (i : TWord) : DWord × DWord :=
  (BitVec.ofNat 64 (2 ^ 42 * i.pushq.toNat + 2 ^ 45 * i.popq.toNat + 2 ^ 48 * i.pneg.toNat + 2 ^ 49 * i.pred.toNat +
      2 ^ 52 * i.mod.toNat + 2 ^ 56 * op + 2 ^ 41 * i.spec.toNat + 2 ^ 32 * i.dst.toNat + 2 ^ 23 * i.srca.toNat +
      2 ^ 14 * i.srcb.toNat + i.srcc.toNat * 2 ^ 5 + i.lr.toNat * 4 + (if i.long.isSome then 1 else 0)),
   match i.long with
   | none => 0
   | some e => BitVec.ofNat 64 (2 ^ 32 * e.imm32.toNat + 2 ^ 30 * e.immuse.toNat + 2 ^ 26 * e.oc.toNat +
       2 ^ 23 * e.scope.toNat + 2 ^ 21 * e.sem.toNat + e.cmask.toNat * 2 ^ 5 + e.xmod.toNat * 2))

/-- The length of a T instruction in bytes (R123). -/
def tBytes (i : TWord) : Nat := if i.long.isSome then 16 else 8

/-- The live threads of the run that the instruction has not redirected advance (R123). -/
def Warp.advance (w : Warp) (run : BitVec 32) (pc len : Nat) : Warp :=
  { w with threads := SMap.mapv (fun t x =>
      match x with
      | .live q => if bit run t && q.toNat == pc then .live (BitVec.ofNat 32 (pc + len)) else x
      | y => y) w.threads }

/-- SAFECNT after an issue (R220). -/
def countIssue (n : Word) : Word := if n = BitVec.allOnes 32 then n else n + 1

/-- Opcodes that set SAFECNT themselves, so that no issue of them passes the limit (R220, R21). -/
def safeOps : List Nat := [0x45, 0x46, 0x53]

/-- Registers that the destination spans (Shapes). -/
def TEnv.dstRegs (e : TEnv) : Nat := match tShape e.op e.i with | some sh => sh.dst.regs | none => 0

/-- Every live thread and helper of the warp is in the head run, so that last-read marks act (R25). -/
def TEnv.whole (e : TEnv) : Bool := e.w.threads.all fun p => p.2 == .exited || bit e.run p.1

/-- Registers after the last-read marks of an instruction that is complete (R25, R26). -/
def TEnv.drop (e : TEnv) (r : Regs) : Regs := if e.whole then (e.marked e.dstRegs).foldl (fun r n => r.unmap n) r else r

/-- What follows a T instruction's effect: last-read marks, SAFECNT, PCs (R25, R123, R220). -/
def TEnv.complete (e : TEnv) (w : Warp) (redirected : BitVec 32) : Warp :=
  { ({ w with regs := e.drop w.regs } : Warp).advance (e.run &&& ~~~redirected) e.pc (tBytes e.i) with
    safecnt := if safeOps.contains e.op then w.safecnt else countIssue w.safecnt, held := none,
    keptPop := if e.w.mode.routine then w.keptPop else none, synced := none }

/-- A T push, made or left due (R298). That of a codebook fill that comes after its warp has exited is made as any other (R118,
log 60). -/
def State.pushDone (s : State) (uid slot q : Nat) : State :=
  if q = 0 then s
  else
    match s.group? uid with
    | none => s
    | some g =>
      match g.pushT q slot with
      | some g' => s.setGroup g'
      | none =>
        match g.warp? slot with
        | some w => s.setGroup (g.setWarp slot { w with pushDue := some q })
        | none => s

/-- The environment of a T instruction of the current warp, before its pop. -/
def State.tEnv (s : State) (op : Nat) (i : TWord) : Option TEnv :=
  match s.ctl.cur with
  | .warp uid slot =>
    match s.group? uid with
    | none => none
    | some g =>
      match g.warp? slot with
      | none => none
      | some w =>
        match w.headRun with
        | none => none
        | some (pc, run) =>
          let f := w.regs.fGet i.pred.toNat
          some { s := s, g := g, slot := slot, w := w, pc := pc, run := run,
                 act := run &&& (if i.pneg = 1 then ~~~f else f), hlp := w.helpers, q := 0, i := i, op := op }
  | _ => none

/-- The entry that the warp's next instruction has popped already: one kept by a wait or a park, or since before the latest
save (R296, log 21). -/
def Warp.popKept (w : Warp) : Option Word :=
  match w.held with
  | some v => some v
  | none => if w.mode.routine then none else w.keptPop

/-- The environment after the instruction's pop; none while the pop waits (R297). -/
def TEnv.popped (e : TEnv) : Option TEnv :=
  if e.i.popq = 0 then some e
  else
    match e.w.popKept with
    | some v => some { e with q := v }
    | none =>
      match e.g.popT e.i.popq.toNat e.slot with
      | none => none
      | some (g, v) => some { e with g := g, q := v }

/-- A precise trap of the instruction; that of an operation of a Vosis block is left for the block to take (R406). -/
def TEnv.trap (e : TEnv) (c : Cause) (tval : DWord) : State :=
  let ws := tWords e.op e.i
  if e.s.ctl.inBlock then { e.s with ctl := { e.s.ctl with blockTrap := some (c, tval) } }
  else e.s.tTrap e.g e.slot { e.w with held := none } e.run e.pc e.op e.i.mod.toNat ws.1 ws.2 c tval

/-- The kept entry of an instruction that waits or parks (R296). -/
def TEnv.keep (e : TEnv) : Option Word := if e.i.popq = 0 then none else some e.q

/-- The issue would take SAFECNT above its limit (R220). -/
def TEnv.overrun (e : TEnv) : Bool := !safeOps.contains e.op && decide (4 * e.g.kern.maxdist < e.w.safecnt.toNat + 1)

/-- The rename stage makes the instruction wait (R29). -/
def TEnv.stalls (e : TEnv) : Bool := e.s.renameStall e.g e.slot e.w (e.w.regs.allocs e.i.dst e.dstRegs)

/-- The state with the popped group in place, from which a body starts. -/
def TEnv.base (e : TEnv) : State := e.s.setGroup e.g

/-- The warp put back with the popped entry kept (R296). -/
def TEnv.kept (e : TEnv) (s : State) (w : Warp) : State := s.setWarp e.g.uid e.slot { w with held := e.keep }

/-- The state in which the instruction is complete: its warp moved on, the issue counted, the push made or left
due (R123, R220, R298). -/
def TEnv.finish (e : TEnv) (s : State) (w : Warp) (redirected : BitVec 32) : State :=
  ((s.setWarp e.g.uid e.slot (e.complete w redirected)).bump e.g.tenant 10 e.g.core 1).pushDone e.g.uid e.slot e.i.pushq.toNat

/-- What the answer of a meaning makes of the state. A translation fault parks the warp inside its handler too (R221, log 19). -/
def TEnv.conclude (e : TEnv) (r : TRes) : State :=
  match r with
  | .trap c v => e.trap c v
  | .trapIn m c v => TEnv.trap { e with run := m } c v
  | .trapAt s c v => TEnv.trap { e with s := s } c v
  | .wait w => (e.s.setWarp e.g.uid e.slot w).waits
  | .held => (e.kept e.base e.w).waits
  | .begun s w => (e.kept s w).waits
  | .park s va cause agent =>
    e.kept (s.queueFault e.g va cause agent)
      { e.w with parked := some { asid := e.g.asid, va := va, cause := cause, agent := agent } }
  | .ok s w red => e.finish s w red
  | .late s w => (s.setWarp e.g.uid e.slot (e.complete w 0)).bump e.g.tenant 10 e.g.core 1

/-- The environment of a T instruction of the current warp that has its own effect now, unless that is to wait: its pop
made, no wait for a register, no SAFEOVER. -/
def State.tReady (s : State) (op : Nat) (i : TWord) : Option TEnv :=
  match s.tEnv op i with
  | none => none
  | some e0 => e0.popped.bind fun e => if e.stalls || e.overrun then none else some e

/-- The issue of a T instruction: pop, rename, effect, completion, push. One that waits has not issued, pops nothing
and is not counted; an issue beyond the limit of SAFECNT raises SAFEOVER (R125, R220, R305). -/
def tIssue (op : Nat) (i : TWord) (s : State) (body : TEnv → TRes) : Host.Outcome State Fault Refusal :=
  match s.tEnv op i with
  | none => .fault .noWarp
  | some e0 =>
    match e0.popped with
    | none => .next s.waits
    | some e =>
      if e.stalls then .next s.waits
      else
        let r := body e
        .next (if e.overrun && !r.idle then e.trap .safeover (e.w.safecnt.setWidth 64) else e.conclude r)

/-- The poison check of R36 and R86 on a mask of poisoned threads, then a result of n registers per
active thread: a poisoned thread that does not trap receives 0 with poison set. `bad` names the threads,
with the byte, that meet a fault of their own (ILLTRIT): POISON comes before it, and DFREC holds the byte of the
lowest-numbered thread (log 60). -/
def TEnv.resultOf (e : TEnv) (pm : BitVec 32) (n : Nat) (v : Nat → BitVec 128) (bad : Nat → Option Nat) : TRes :=
  if e.i.spec = 0 && pm &&& e.parts != 0 then .trap .poison 0
  else
    let err : BitVec 32 := maskOf 32 32 fun t => bit e.act t && !bit pm t && (bad t).isSome
    if e.i.spec = 0 && err &&& e.parts != 0 then
      match lowest (err &&& e.parts) with
      | some t => .trap .illtrit (BitVec.ofNat 64 ((bad t).getD 0))
      | none => .trap .illtrit 0
    else
      let zero := pm ||| err
      let regs := e.w.regs.writeDst e.i.dst n e.act (fun t => if bit zero t then 0 else v t) zero
      let df :=
        match lowest (err &&& e.parts) with
        | some t => if bit e.w.dfrec 8 then e.w.dfrec
                    else BitVec.ofNat 64 (2 ^ 12 * (bad t).getD 0 + 2 ^ 8 + Cause.illtrit.code)
        | none => e.w.dfrec
      .ok e.base { e.w with regs := regs, dfrec := df } 0

/-- The same, with the threads that a source of their own poisons. -/
def TEnv.result (e : TEnv) (n : Nat) (v : Nat → BitVec 128) (bad : Nat → Option Nat) : TRes :=
  e.resultOf (e.poisoned &&& e.act) n v bad

/-- 0 with poison set in the active threads: what an instruction writes whose fault meets no thread that is not a helper
(R129). -/
def TEnv.lost (e : TEnv) (n : Nat) : TRes :=
  .ok e.base { e.w with regs := e.w.regs.writeDst e.i.dst n e.act (fun _ => 0) e.act } 0

/-- A T instruction whose threads each compute a 32-bit result. -/
def tAlu (op : Nat) (i : TWord) (s : State) (f : TEnv → Nat → Word) : Host.Outcome State Fault Refusal :=
  tIssue op i s fun e => e.result 1 (fun t => (f e t).setWidth 128) fun _ => none

/-- A T instruction whose threads each compute a 64-bit result. -/
def tAlu64 (op : Nat) (i : TWord) (s : State) (f : TEnv → Nat → DWord) : Host.Outcome State Fault Refusal :=
  tIssue op i s fun e => e.result 2 (fun t => (f e t).setWidth 128) fun _ => none

/-- A T instruction that writes a predicate, or under its register form all ones or 0 (R94, R106). -/
def tCond (op : Nat) (i : TWord) (s : State) (f : TEnv → Nat → Bool) : Host.Outcome State Fault Refusal :=
  tIssue op i s fun e =>
    if bit i.ext.xmod 0 then
      let pm := e.poisoned &&& e.act
      if pm &&& e.parts != 0 then .trap .poison 0
      else
        let m : BitVec 32 := maskOf 32 32 fun t => bit e.act t && !bit pm t && f e t
        .ok e.base { e.w with regs := e.w.regs.fSet (i.dst.extractLsb' 0 3).toNat e.act m } 0
    else e.result 1 (fun t => if f e t then 0xFFFFFFFF else 0) fun _ => none

/-- A T instruction of the emulation class (R77): EMUL, before any pop (R75). -/
def tEmul (op : Nat) (i : TWord) (s : State) : Host.Outcome State Fault Refusal :=
  match s.tEnv op i with
  | none => .fault .noWarp
  | some e => .next (e.trap .emul 0)

/-! ### The issue of an A instruction -/

/-- What an A instruction sees: its group and context after the pop, the popped payload, its words. -/
structure AEnv where
  s : State
  g : Group
  a : ACtx
  q : Word
  i : AWord
  p : APrefix
  long : Bool
  op : Nat

/-- The words of an A instruction: prefix, IMM32, instruction word (R156). -/
def AEnv.words (e : AEnv) : Word × Word × Word :=
  let w := BitVec.ofNat 32 (2 ^ 26 * e.op + 2 ^ 23 * e.i.popq.toNat + 2 ^ 20 * e.i.pushq.toNat + 2 ^ 15 * e.i.d.toNat +
    2 ^ 10 * e.i.s1.toNat + e.i.s2.toNat)
  if e.long then
    (BitVec.ofNat 32 (0x3F * 2 ^ 26 + 2 ^ 22 * e.p.oc.toNat + 2 ^ 19 * e.p.scope.toNat + 2 ^ 17 * e.p.sem.toNat +
       2 ^ 15 * e.p.iuse.toNat), e.p.imm32, w)
  else (0, 0, w)

/-- What an A meaning answers: a trap, a wait, an access to park, or its effect, with the context, the
result that its push carries and whether it has set APC itself. One that waits has not issued and pops nothing (R149). -/
inductive ARes where
  | trap (c : Cause) (tval : DWord)
  /-- a trap over a state that its delivery has changed -/
  | trapAt (s : State) (c : Cause) (tval : DWord)
  | wait (a : ACtx)
  | park (s : State) (va cause : Nat)
  | ok (s : State) (a : ACtx) (push : Word) (jumped : Bool)

/-- The instruction has not issued (R149). -/
def ARes.idle : ARes → Bool
  | .wait _ => true
  | _ => false

/-- The environment of an A instruction of the current context, before its pop. -/
def State.aEnv (s : State) (op : Nat) (p : Option APrefix) (i : AWord) : Option AEnv :=
  match s.ctl.cur with
  | .actx uid =>
    match s.group? uid with
    | none => none
    | some g =>
      if g.a.ended then none
      else some { s := s, g := g, a := g.a, q := 0, i := i, p := p.getD APrefix.none, long := p.isSome, op := op }
  | _ => none

/-- A precise trap of the instruction. -/
def AEnv.trap (e : AEnv) (c : Cause) (tval : DWord) : State :=
  let ws := e.words
  e.s.aTrap e.g { e.a with held := none } e.op ws.1 ws.2.1 ws.2.2 c tval

/-- The same over a state that the instruction has changed. -/
def State.aTrapOf (s : State) (uid : Nat) (e : AEnv) (c : Cause) (tval : DWord) : State :=
  match s.group? uid with
  | none => s
  | some g => AEnv.trap { e with s := s, g := g } c tval

/-- The acquire that a pop makes: that of a copy engine token, at its command's scope (R272). -/
def AEnv.acquired (e : AEnv) (v : Word) : State :=
  if e.i.popq = 7 then
    match e.g.ceScope.find? fun p => p.1 == bitsOf v.toNat 15 0 with
    | some p => e.s.acquire e.g.core p.2
    | none => e.s
  else e.s

/-- The environment after the pop; none while it waits (R299). -/
def AEnv.popped (e : AEnv) : Option AEnv :=
  if e.i.popq = 0 then some e
  else
    match e.a.held with
    | some v => some { e with q := v }
    | none =>
      match e.g.visible e.i.popq.toNat with
      | [] => none
      | v :: _ => some { e with s := e.acquired v, g := e.g.dropA e.i.popq.toNat, q := v }

/-- The group as the instruction found it, before its own pop. -/
def AEnv.found (e : AEnv) : Group := (e.s.group? e.g.uid).getD e.g

/-- TASTAT of a core (R189); HOLDER reads 0 while HELD is 0 (R459, log 27). -/
def TritArray.status (t : TritArray) : DWord :=
  (0 : BitVec 5) ++ BitVec.ofNat 22 t.faddr ++ BitVec.ofNat 13 t.fchunk ++ BitVec.ofNat 2 t.fcause ++
    BitVec.ofNat 2 t.fqtr ++ BitVec.ofNat 4 t.fctx ++ BitVec.ofBool t.poison ++ BitVec.ofBool t.fpend ++
    BitVec.ofBool t.epset ++ BitVec.ofBool t.eprs ++ BitVec.ofBool t.held ++
    BitVec.ofNat 3 (if t.held then t.holder else 0) ++ (0 : BitVec 3) ++
    BitVec.ofNat 5 t.queue.length

/-- The fault that a popped token delivers, with the array's FPEND cleared where it is that fault
(R158, R195, R282). The failing index and cause of a copy command stand in `bad`. -/
def AEnv.tokenFault (e : AEnv) : Option (State × Cause × DWord) :=
  if !bit e.q 31 || e.a.held.isSome then none
  else if e.i.popq = 6 then
    let c := e.s.core e.g.core
    let mine := c.ta.fpend && c.ta.fowner == e.g.uid && c.ta.fseq == bitsOf e.q.toNat 15 0
    let ta := { c.ta with fpend := c.ta.fpend && !mine }
    some (e.s.setCore e.g.core { c with ta := ta }, .tafault, ta.status)
  else if e.i.popq = 7 then
    let info := (e.g.ceInfo.find? fun p => p.1 == bitsOf e.q.toNat 15 0).map Prod.snd
    some (e.s, .cefault, BitVec.ofNat 64 (e.q.toNat + 2 ^ 32 * info.getD 0))
  else none

/-- Opcodes that set SAFECNT themselves: ASAFE, ARET.T. -/
def aSafeOps : List Nat := [0x16, 0x19]

/-- The A push, made or left due (R158, R297). -/
def State.aPush (s : State) (uid q : Nat) (v : Word) : State :=
  if q = 0 then s
  else
    match s.group? uid with
    | none => s
    | some g =>
      match g.pushA q v with
      | some g' => s.setGroup g'
      | none => s.setGroup { g with a := { g.a with pushDue := some (q, v) } }

/-- The issue would take SAFECNT above its limit (R172, R220). -/
def AEnv.overrun (e : AEnv) : Bool :=
  !aSafeOps.contains e.op && !e.a.restart && decide (4 * e.g.kern.maxdist < e.a.safecnt.toNat + 1)

/-- The popped payload of an instruction that waits or parks. -/
def AEnv.keep (e : AEnv) : Option Word := if e.i.popq = 0 then none else some e.q

/-- The context of an instruction that is complete: APC and SAFECNT (R156, R172, R231). -/
def AEnv.complete (e : AEnv) (a : ACtx) (jumped : Bool) : ACtx :=
  { a with
    held := none, apc := if jumped then a.apc else a.apc + BitVec.ofNat 32 (if e.long then 12 else 4),
    safecnt := if aSafeOps.contains e.op then a.safecnt else if a.restart then 0 else countIssue a.safecnt,
    restart := false }

/-- The state in which the instruction is complete, its push made or left due. -/
def AEnv.finish (e : AEnv) (s : State) (a : ACtx) (push : Word) (jumped : Bool) : State :=
  ((s.setA e.g.uid (e.complete a jumped)).bump e.g.tenant 11 e.g.core 1).aPush e.g.uid e.i.pushq.toNat push

/-- What the answer of a meaning makes of the state. A translation fault parks the context inside its handler too (R221, log 19). -/
def AEnv.conclude (e : AEnv) (r : ARes) : State :=
  match r with
  | .trap c v => e.trap c v
  | .trapAt s c v => s.aTrapOf e.g.uid e c v
  | .wait a => (e.s.setA e.g.uid a).waits
  | .park s va cause =>
    (s.queueFault e.g va cause 3).setA e.g.uid
      { e.a with held := e.keep, parked := some { asid := e.g.asid, va := va, cause := cause, agent := 3 } }
  | .ok s a v jumped => e.finish s a v jumped

/-- The environment of an A instruction of the current context that has its own effect now, unless that is to wait: its
pop made, no fault in the token that it popped, no SAFEOVER. -/
def State.aReady (s : State) (op : Nat) (p : Option APrefix) (i : AWord) : Option AEnv :=
  match s.aEnv op p i with
  | none => none
  | some e0 => e0.popped.bind fun e => if e.overrun || e.tokenFault.isSome then none else some e

/-- What the issue of an A instruction comes to once its pop is made: a wait of the environment before the pop, SAFEOVER, a
token's fault, or its effect (R149, R158, R220). -/
def AEnv.issue (e0 e : AEnv) (r : ARes) : State :=
  if r.idle then e0.conclude r
  else if e.overrun then e.trap .safeover (e.a.safecnt.setWidth 64)
  else
    match e.tokenFault with
    | some (s', c, v) => AEnv.trap { e with s := s' } c v
    | none => e.conclude r

/-- The issue of an A instruction: pop, effect, APC, push (R149, R158, R172); one that waits has not issued. -/
def aIssue (op : Nat) (p : Option APrefix) (i : AWord) (s : State) (body : AEnv → ARes) :
    Host.Outcome State Fault Refusal :=
  match s.aEnv op p i with
  | none => .fault .noContext
  | some e0 =>
    match e0.popped with
    | none => .next s.waits
    | some e => .next (e0.issue e (body e))

/-- The state with the popped group in place. -/
def AEnv.base (e : AEnv) : State := e.s.setGroup e.g

/-- The S1 value, or sext(IMM32) under IUSE 10 (R157). -/
def AEnv.s1 (e : AEnv) : DWord := if e.p.iuse = 2 then e.p.imm32.signExtend 64 else e.a.reg e.i.s1.toNat

/-- The S2 value of kind RI (R155), or sext(IMM32) under IUSE 01. -/
def AEnv.s2 (e : AEnv) : DWord :=
  if e.p.iuse = 1 then e.p.imm32.signExtend 64
  else if bit e.i.s2 9 then (e.i.s2.extractLsb' 0 9).signExtend 64
  else e.a.reg (e.i.s2bits 4 0)

/-- An A instruction that writes D, with nothing else (R158). -/
def aAlu (op : Nat) (p : Option APrefix) (i : AWord) (s : State) (f : AEnv → DWord) :
    Host.Outcome State Fault Refusal :=
  aIssue op p i s fun e =>
    let v := f e
    .ok e.base (e.a.setReg i.d.toNat v) (v.setWidth 32) false

end Sys2Proof.Machine
end

