-- ==== Sys2Proof/Machine/Start.lean ====
section
/-!
DEFINITION. How a warp and an A context begin: thread states, preloads and register files at launch
(R17, R41, R128, R230, R326).
-/

namespace Sys2Proof.Machine

/-- The threads of a warp of `width` lanes whose first n exist: lanes beyond them that share a quad with
one are helpers (R128). -/
def startThreads (width n pc : Nat) : SMap TState :=
  (List.range width).filterMap fun t =>
    if t < n then some (t, .live (BitVec.ofNat 32 pc)) else if t / 4 * 4 < n then some (t, .helper) else none

/-- A warp at PC `pc` with every register 0 and nothing mapped (R17, R230). -/
def Warp.fresh (threads : SMap TState) (tframe : Nat) : Warp :=
  { regs := Regs.zero, threads := threads, trap := TrapRegs.zero, tframe := BitVec.ofNat 64 tframe, dfrec := 0,
    safecnt := 0, inHandler := false, frozen := 0, mode := .running, stop := [], stopDue := none, lastSafe := none, cb := [],
    cbPend := [], held := none, keptPop := none, pushDue := none, synced := none, semWait := none, parked := none, queries := [],
    tags := [], spawnOf := [], block := none }

/-- An A context at an offset with every register 0 (R17). -/
def ACtx.fresh (apc tframe : Nat) : ACtx :=
  { a := [], l := [], p := 0, apc := BitVec.ofNat 32 apc, trap := TrapRegs.zero, tframe := BitVec.ofNat 64 tframe,
    safecnt := 0, restart := false, inHandler := false, ended := false, mode := .running, held := none, pushDue := none,
    crownWait := false, semWait := none, parked := none }

/-- TFRAME of slot k of a group whose context area is at `ctx` (R225). -/
def slotFrame (ctx k : Nat) : Nat := ctx + 0x8000 * k

/-- $tid, $txyz, $lane of a thread (R39). -/
def startTid (width slot t : Nat) : Nat := if slot < 32 then width * slot + t else 1024 + 32 * (slot - 32) + t
def startTxyz (l : Launch) (slot n : Nat) : Nat :=
  if 32 ≤ slot then 0 else n % l.tx + 2 ^ 10 * (n / l.tx % l.ty) + 2 ^ 20 * (n / (l.tx * l.ty) % 1024)

/-- A v name preloaded in every thread (R41). -/
def Regs.preV (r : Regs) (n : Nat) (v : Nat → Word) : Regs :=
  Regs.write { r with vmap := setBit r.vmap n true } n (BitVec.allOnes 32) v 0

/-- The preloads of a header in ascending bit order: per-thread values from v register `base` on, per-warp
values from s0 on (R41). -/
def preload (g : Group) (slot base : Nat) (r : Regs) : Regs :=
  let k := g.ln.kern
  let width := if k.legacy then 16 else 32
  let tid (t : Nat) : Nat := startTid width slot t
  let perThread : List (Nat × (Nat → Word)) :=
    [(0, fun t => BitVec.ofNat 32 (tid t)), (1, fun t => BitVec.ofNat 32 (startTxyz g.ln slot (tid t))),
     (2, fun t => BitVec.ofNat 32 t)]
  let live (t : Nat) (v : Nat → Word) : Word := if t < width then v t else 0
  let r := ((perThread.filter fun p => bit k.preload p.1).zipIdx).foldl
    (fun r p => r.preV (base + p.2) (fun t => live t p.1.2)) r
  let xyz := g.gid % g.gx + 2 ^ 32 * (g.gid / g.gx % g.gy) + 2 ^ 48 * (g.gid / (g.gx * g.gy))
  let perWarp : List (Nat × Bool × Nat) :=
    [(3, false, slot), (4, false, g.gid), (5, true, xyz), (6, false, g.gid % g.ln.clg), (7, false, g.gid / g.ln.clg),
     (8, false, g.grid)]
  ((perWarp.filter fun p => bit k.preload p.1).foldl (fun (a : Regs × Nat) p =>
    let n := a.2
    if p.2.1 then
      let n := (n + 1) / 2 * 2
      ((a.1.sSet n (BitVec.ofNat 32 p.2.2)).sSet (n + 1) (BitVec.ofNat 32 (p.2.2 / 2 ^ 32)), n + 2)
    else (a.1.sSet n (BitVec.ofNat 32 p.2.2), n + 1)) (r, 0)).1

/-- A launched warp at the T entry (R17, R41, R128). -/
def Group.startWarp (g : Group) (ctx slot : Nat) : Warp :=
  let width := if g.ln.kern.legacy then 16 else 32
  let w := Warp.fresh (startThreads width (g.ln.threads - width * slot) g.ln.kern.tentry) (slotFrame ctx slot)
  { w with regs := preload g slot 0 w.regs }

end Sys2Proof.Machine
end

