-- ==== Sys2Proof/Machine/Flags.lean ====
section
/-!
DEFINITION. The conditions that the comparing instructions of every stream compute: CMP (R94), FCMP and
FCLASS (R106), ACMP (R163), SCMP (R208) and VCMP (R210).
-/

namespace Sys2Proof.Machine

/-- A word read as R84 reads it: signed or unsigned. -/
def readInt (signed : Bool) (x : Word) : Int := if signed then x.toInt else (x.toNat : Int)

/-- A condition code on two integers: 0 EQ, 1 NE, 2 LT, 3 LE, 4 GT, 5 GE (R89, R163, R208). -/
def condInt (c : Nat) (a b : Int) : Bool :=
  match c with
  | 0 => a == b
  | 1 => a != b
  | 2 => decide (a < b)
  | 3 => decide (a ≤ b)
  | 4 => decide (b < a)
  | _ => decide (b ≤ a)

/-- The condition of CMP (R94): MOD bits 2:0 the code, bit 3 signed. -/
def condCmp (mod : BitVec 4) (a b : Word) : Bool :=
  condInt (mod.extractLsb' 0 3).toNat (readInt (bit mod 3) a) (readInt (bit mod 3) b)

/-- The condition of FCMP (R106): the codes of `condInt`, and 6 UN. -/
def condFloat (c : Nat) (a b : Word) : Bool :=
  let x := f32v a
  let y := f32v b
  match c with
  | 0 => x.eq y
  | 1 => !x.eq y
  | 2 => x.lt y
  | 3 => x.lt y || x.eq y
  | 4 => y.lt x
  | 5 => y.lt x || x.eq y
  | _ => x.isNan || y.isNan

/-- The class of an FP32 value (R106). -/
def floatClass (a : Word) : Nat :=
  let e := (a.extractLsb' 23 8).toNat
  match f32v a with
  | .nan => 8
  | .inf s => if s then 0 else 7
  | .fin s m =>
    if m = 0 then (if s then 3 else 4) else if e = 0 then (if s then 2 else 5) else (if s then 1 else 6)

/-- The condition of FCLASS (R106). -/
def condClass (a b : Word) : Bool := bit b (floatClass a)

/-- The condition of ACMP (R163): the signed codes of `condInt`, 6 LTU, 7 GEU. -/
def condA (c : Nat) (x y : DWord) : Bool :=
  match c with
  | 6 => decide (x.toNat < y.toNat)
  | 7 => decide (y.toNat ≤ x.toNat)
  | _ => condInt c x.toInt y.toInt

end Sys2Proof.Machine
end

