-- ==== Sys2Proof/WellFormed.lean ====
section
/-!
DEFINITION. Which instructions an encoding exists for: the fields obey the rules that decoding checks.
-/

namespace Sys2Proof

/-- The instruction is one that its stream's decoder gives, in the context `ctx`: its fields pass the
decode checks (R74, R158, R203, R345) and its opcode's map answers with it. A packet or an event has
no words, and every one is well formed. -/
def Instr.wf (ctx : KernelCtx) (i : Instr) : Bool :=
  match i.view with
  | .t op w => (tCheck ctx op w).isNone && decide (Instr.ofT op w = some i)
  | .a op w => (aCheck ctx.safe op none w).isNone && decide (Instr.ofA op w = some i)
  | .aLong op p w => (aCheck ctx.safe op (some p) w).isNone && decide (Instr.ofALong op p w = some i)
  | .s op w => sFieldsOk op w && decide (Instr.ofS op w = some i)
  | .v op w => vFieldsOk op w && decide (Instr.ofV op w = some i)
  | .m op w => mFieldsOk op w && decide (Instr.ofM op w = some i)
  | .q op w => qFieldsOk op w && decide (Instr.ofQ op w = some i)
  | .none => true

end Sys2Proof
end

