-- ==== Sys2Proof/Decode.lean ====
section
/-!
DEFINITION. From words to instructions and back: the decoders of the T stream (R64 to R76), the A
stream (R154 to R159), the SSP slots (R201 to R206) and the queue bytecode (R345), each total and
refusing by the trap that the part takes; then the encoder, written from the same field maps.
-/

namespace Sys2Proof

/-- Bits h:l of a 64-bit word. -/
def fld64 (w : BitVec 64) (l n : Nat) : BitVec n := w.extractLsb' l n
/-- Bits h:l of a 32-bit word. -/
def fld32 (w : BitVec 32) (l n : Nat) : BitVec n := w.extractLsb' l n
/-- Bits h:l of a 16-bit word. -/
def fld16 (w : BitVec 16) (l n : Nat) : BitVec n := w.extractLsb' l n

/-! ### The T stream -/

/-- The second word's fields (R68). -/
def TLong.ofBits (w : BitVec 64) : TLong :=
  { imm32 := fld64 w 32 32, immuse := fld64 w 30 2, oc := fld64 w 26 4, scope := fld64 w 23 3,
    sem := fld64 w 21 2, cmask := fld64 w 5 16, xmod := fld64 w 1 4 }

/-- The first word's fields (R64) with the second word's. -/
def TWord.ofBits (w : BitVec 64) (long : Option TLong) : TWord :=
  { mod := fld64 w 52 4, pred := fld64 w 49 3, pneg := fld64 w 48 1, popq := fld64 w 45 3,
    pushq := fld64 w 42 3, spec := fld64 w 41 1, dst := fld64 w 32 9, srca := fld64 w 23 9,
    srcb := fld64 w 14 9, srcc := fld64 w 5 9, lr := fld64 w 2 3, long := long }

/-- LEN of a first word (R64). -/
def tLen (w : BitVec 64) : BitVec 2 := fld64 w 0 2

/-- The trap ILLINST, whose TVAL is 0 (R218). -/
def illinst : TrapInfo := { cause := .illinst, tval := 0 }

/-- The decoder of the T stream: a first word, and the word after it where LEN is 01 (`none` where it
lies beyond the section, R76). The checks are made in the order of R74, less EMUL, which the
instruction's meaning takes. -/
def decodeT (ctx : KernelCtx) (w0 : BitVec 64) (w1 : Option (BitVec 64)) : Except TrapInfo Instr :=
  let op := (fld64 w0 56 8).toNat
  let finish (w : TWord) : Except TrapInfo Instr :=
    match tCheck ctx op w with
    | some t => .error t
    | none => match Instr.ofT op w with | some i => .ok i | none => .error illinst
  if tLen w0 = 0 then finish (TWord.ofBits w0 none)
  else if tLen w0 = 1 then
    match w1 with
    | none => .error illinst
    | some w => if fld64 w 0 1 = 0 then finish (TWord.ofBits w0 (some (TLong.ofBits w))) else .error illinst
  else .error illinst

/-! ### The A stream -/

/-- The fields of an A word (R154). -/
def AWord.ofBits (w : BitVec 32) : AWord :=
  { popq := fld32 w 23 3, pushq := fld32 w 20 3, d := fld32 w 15 5, s1 := fld32 w 10 5, s2 := fld32 w 0 10 }

/-- The fields of a prefix word with its IMM32 (R156). -/
def APrefix.ofBits (w imm : BitVec 32) : APrefix :=
  { oc := fld32 w 22 4, scope := fld32 w 19 3, sem := fld32 w 17 2, iuse := fld32 w 15 2, imm32 := imm }

/-- OP of an A word. -/
def aOp (w : BitVec 32) : Nat := (fld32 w 26 6).toNat

/-- The decoder of an A instruction without a prefix (R157, R158). -/
def decodeA (safe : List (Bool × Bool)) (w : BitVec 32) : Except TrapInfo Instr :=
  match aCheck safe (aOp w) none (AWord.ofBits w) with
  | some t => .error t
  | none => match Instr.ofA (aOp w) (AWord.ofBits w) with | some i => .ok i | none => .error illinst

/-- The decoder of an A long form: prefix word, IMM32, instruction word (R156, R157). -/
def decodeALong (safe : List (Bool × Bool)) (pre imm w : BitVec 32) : Except TrapInfo Instr :=
  if aOp pre ≠ 0x3F ∨ fld32 pre 0 15 ≠ 0 then .error illinst
  else
    match aCheck safe (aOp w) (some (APrefix.ofBits pre imm)) (AWord.ofBits w) with
    | some t => .error t
    | none =>
      match Instr.ofALong (aOp w) (APrefix.ofBits pre imm) (AWord.ofBits w) with
      | some i => .ok i
      | none => .error illinst

/-! ### The SSP -/

/-- The fields of an S slot (R204). -/
def SSlot.ofBits (w : BitVec 32) : SSlot :=
  { i := fld32 w 26 1, d := fld32 w 21 5, a := fld32 w 16 5, b := fld32 w 0 16 }

/-- The fields of a V slot (R205). -/
def VSlot.ofBits (w : BitVec 32) : VSlot :=
  { mreg := fld32 w 24 3, mke := fld32 w 23 1, ty := fld32 w 21 2, d := fld32 w 15 6, a := fld32 w 9 6,
    b := fld32 w 3 6, sub := fld32 w 0 3 }

/-- The fields of an M slot (R206). -/
def MSlot.ofBits (w : BitVec 32) : MSlot :=
  { mreg := fld32 w 24 3, mke := fld32 w 23 1, d := fld32 w 17 6, a := fld32 w 12 5, b := fld32 w 7 5,
    sub := fld32 w 0 7 }

/-- OP of a slot. -/
def slotOp (w : BitVec 32) : Nat := (fld32 w 27 5).toNat

/-- The operation in an S slot; `none` makes the bundle illegal (R203). -/
def decodeS (w : BitVec 32) : Option Instr :=
  if sFieldsOk (slotOp w) (SSlot.ofBits w) then Instr.ofS (slotOp w) (SSlot.ofBits w) else none

/-- The operation in a V slot. -/
def decodeV (w : BitVec 32) : Option Instr :=
  if vFieldsOk (slotOp w) (VSlot.ofBits w) then Instr.ofV (slotOp w) (VSlot.ofBits w) else none

/-- The operation in the M slot, less its NOP. -/
def decodeM (w : BitVec 32) : Option Instr :=
  if mFieldsOk (slotOp w) (MSlot.ofBits w) then Instr.ofM (slotOp w) (MSlot.ofBits w) else none

/-- A register that an SSP operation writes: file 0 w, 1 z, 2 e (R203). -/
def sspWrites (i : Instr) : List (Nat × Nat) :=
  match i.view with
  | .s op w =>
    let z := [(1, w.d.toNat)]
    if 1 ≤ op ∧ op ≤ 9 then z
    else if op = 0x0A then [(2, (w.d.extractLsb' 0 3).toNat)]
    else if op = 0x0D then [(1, w.a.toNat)]
    else if (op = 0x0E ∨ op = 0x0F) ∧ !w.b.getLsbD 15 then z
    else []
  | .v op w =>
    if op = 0 then [] else if op = 0x0B then [(2, (w.d.extractLsb' 0 3).toNat)] else [(0, w.d.toNat)]
  | .m op w =>
    match op with
    | 0x01 | 0x03 | 0x05 => [(0, w.d.toNat)]
    | 0x04 => [(0, w.d.toNat), (0, w.d.toNat + 1)]
    | _ => []
  | _ => []

/-- No two of the lists hold a common entry. -/
def disjointWrites : List (List (Nat × Nat)) → Bool
  | [] => true
  | l :: ls => ls.all (fun m => l.all fun x => !m.contains x) && disjointWrites ls

/-- The four slots of a bundle, in the order S, V0, V1, M (R201); `none` for an illegal bundle (R203).
The M slot is `none` where it holds its NOP. -/
def decodeBundle (b : BitVec 128) : Option (Instr × Instr × Instr × Option Instr) :=
  let sw := b.extractLsb' 96 32
  let v0 := b.extractLsb' 64 32
  let v1 := b.extractLsb' 32 32
  let mw := b.extractLsb' 0 32
  match decodeS sw, decodeV v0, decodeV v1 with
  | some s, some x, some y =>
    let m? : Option (Option Instr) :=
      if slotOp mw = 0 then (if mw = 0 then some none else none) else (decodeM mw).map some
    match m? with
    | none => none
    | some m =>
      if disjointWrites [sspWrites s, sspWrites x, sspWrites y, (m.map sspWrites).getD []]
      then some (s, x, y, m) else none
  | _, _, _ => none

/-! ### The queue bytecode -/

/-- The fields of a bytecode word (R345). -/
def QWord.ofBits (w : BitVec 16) : QWord := { r := fld16 w 8 3, x := fld16 w 0 8 }

/-- The decoder of a bytecode word; `none` for an unassigned op or a nonzero unused field. -/
def decodeQ (w : BitVec 16) : Option Instr :=
  let op := (fld16 w 11 5).toNat
  if qFieldsOk op (QWord.ofBits w) then Instr.ofQ op (QWord.ofBits w) else none

/-! ### The encoder -/

/-- The words of an instruction, by the stream that holds them. -/
inductive Words where
  | t (w0 : BitVec 64) (w1 : Option (BitVec 64))
  | a (w : BitVec 32)
  | aLong (pre imm w : BitVec 32)
  | s (w : BitVec 32)
  | v (w : BitVec 32)
  | m (w : BitVec 32)
  | q (w : BitVec 16)
  /-- a packet or an event: no words -/
  | none
  deriving DecidableEq, Repr

/-- The second word (R68). -/
def TLong.bits (e : TLong) : BitVec 64 :=
  e.imm32 ++ e.immuse ++ e.oc ++ e.scope ++ e.sem ++ e.cmask ++ e.xmod ++ 0#1

/-- The first word (R64). -/
def TWord.bits (op : BitVec 8) (w : TWord) : BitVec 64 :=
  op ++ w.mod ++ w.pred ++ w.pneg ++ w.popq ++ w.pushq ++ w.spec ++ w.dst ++ w.srca ++ w.srcb ++ w.srcc ++
    w.lr ++ (if w.long.isSome then 1#2 else 0#2)

/-- An A word (R154). -/
def AWord.bits (op : BitVec 6) (w : AWord) : BitVec 32 :=
  op ++ w.popq ++ w.pushq ++ w.d ++ w.s1 ++ w.s2

/-- A prefix word (R156). -/
def APrefix.bits (p : APrefix) : BitVec 32 :=
  0x3F#6 ++ p.oc ++ p.scope ++ p.sem ++ p.iuse ++ 0#15

/-- An S slot (R204). -/
def SSlot.bits (op : BitVec 5) (w : SSlot) : BitVec 32 := op ++ w.i ++ w.d ++ w.a ++ w.b

/-- A V slot (R205). -/
def VSlot.bits (op : BitVec 5) (w : VSlot) : BitVec 32 :=
  op ++ w.mreg ++ w.mke ++ w.ty ++ w.d ++ w.a ++ w.b ++ w.sub

/-- An M slot (R206). -/
def MSlot.bits (op : BitVec 5) (w : MSlot) : BitVec 32 :=
  op ++ w.mreg ++ w.mke ++ w.d ++ w.a ++ w.b ++ w.sub

/-- A bytecode word (R345). -/
def QWord.bits (op : BitVec 5) (w : QWord) : BitVec 16 := op ++ w.r ++ w.x

/-- The words of an instruction. -/
def encode (i : Instr) : Words :=
  match i.view with
  | .t op w => .t (w.bits (BitVec.ofNat 8 op)) (w.long.map TLong.bits)
  | .a op w => .a (w.bits (BitVec.ofNat 6 op))
  | .aLong op p w => .aLong p.bits p.imm32 (w.bits (BitVec.ofNat 6 op))
  | .s op w => .s (w.bits (BitVec.ofNat 5 op))
  | .v op w => .v (w.bits (BitVec.ofNat 5 op))
  | .m op w => .m (w.bits (BitVec.ofNat 5 op))
  | .q op w => .q (w.bits (BitVec.ofNat 5 op))
  | .none => .none

/-- The instruction that the words' stream decodes them to. -/
def decode (ctx : KernelCtx) (w : Words) : Option Instr :=
  match w with
  | .t w0 w1 => (decodeT ctx w0 w1).toOption
  | .a w => (decodeA ctx.safe w).toOption
  | .aLong p im w => (decodeALong ctx.safe p im w).toOption
  | .s w => decodeS w
  | .v w => decodeV w
  | .m w => decodeM w
  | .q w => decodeQ w
  | .none => none

/-- What the decoders read from `nbits` bits of the opcode table's numbering, the bits above them
zero: 16 bits are a bytecode word, 32 an A word, 64 a T word, 96 an A long form and 128 a T long
form. -/
def decodeTableWord (nbits w : Nat) : Option Instr :=
  let ctx := KernelCtx.full
  if nbits ≤ 16 then decodeQ (BitVec.ofNat 16 w)
  else if nbits ≤ 32 then
    (if aOp (BitVec.ofNat 32 w) = 0x3F then decodeALong ctx.safe (BitVec.ofNat 32 w) 0 0
     else decodeA ctx.safe (BitVec.ofNat 32 w)).toOption
  else if nbits ≤ 64 then (decodeT ctx (BitVec.ofNat 64 w) (some 0)).toOption
  else if nbits ≤ 96 then
    (decodeALong ctx.safe (BitVec.ofNat 32 w) (BitVec.ofNat 32 (w / 2 ^ 32)) (BitVec.ofNat 32 (w / 2 ^ 64))).toOption
  else (decodeT ctx (BitVec.ofNat 64 w) (some (BitVec.ofNat 64 (w / 2 ^ 64)))).toOption

end Sys2Proof
end

