-- ==== Sys2Proof/Machine/Fetch.lean ====
section
/-!
DEFINITION. Fetching: the instruction caches (R246), the words at a PC (R76, R159), the bundle of a
line core (R203), the word of a queue program (R345); and stopping a warp for pre-emption (R227, R228).
-/

namespace Sys2Proof.Machine

/-- What decoding depends on for a warp (R38, R226, R295). -/
def Kern.ctx (k : Kern) (slot : Nat) : KernelCtx :=
  { vregs := k.vregs, sregs := k.sregs, nbar := k.nbar,
    safe := k.safe.map fun e => (((e[0]?).getD none).isSome, ((e[2]?).getD none).isSome), spawned := decide (32 ≤ slot) }

/-- The key of an instruction line (R246). -/
def iKey (asid va : Nat) : Nat := 2 ^ 45 * asid + va / 128

/-- Why a fetch fails (R381). -/
inductive FetchErr where
  | xlate (va cause : Nat)
  | prot (va : Nat)
  deriving DecidableEq, Repr

/-- An instruction line through the L1 instruction cache and the code cache (R246). -/
def State.iLine (s : State) (c tenant asid va : Nat) : State × Except FetchErr (BitVec 1024) :=
  match SMap.find (s.core c).l1i (iKey asid va) with
  | some x => (s, .ok x)
  | none =>
    let t := s.translate c tenant asid va
    match t.2 with
    | .error k => (t.1, .error (.xlate va k))
    | .ok p =>
      if !p.x then (t.1, .error (.prot va))
      else
        let s := t.1
        let d := dieOf c
        let ln := p.pa / 128
        let r : State × CodeLine := match SMap.find (s.die d).code ln with
          | some l => (s, l)
          | none => let x := s.devLine tenant p.kind ln; (x.1, { data := x.2, cores := 0, keys := [] })
        let s := r.1
        let l := r.2
        let l := { l with cores := setBit l.cores c true, keys := if l.keys.contains (iKey asid va) then l.keys else iKey asid va :: l.keys }
        let s := s.setDie d { s.die d with code := SMap.put (s.die d).code ln l }
        (s.setCore c { s.core c with l1i := SMap.put (s.core c).l1i (iKey asid va) l.data }, .ok l.data)

/-- The word that a fetch past the instruction caches would find (R246). -/
def State.newWord (s : State) (tenant asid va n : Nat) : Option Nat :=
  match s.translateIO asid va with
  | .error _ => none
  | .ok p => if p.x then some (lineNat (s.devLine tenant p.kind (p.pa / 128)).2 (va % 128) n) else none

/-- The word of n bytes of code at a virtual address. Where memory now holds another than the caches, the word is freely the old
or the new one (R246). -/
def State.iWord (s : State) (c tenant asid va n : Nat) : State × Except FetchErr Nat :=
  let r := s.iLine c tenant asid va
  match r.2 with
  | .error e => (r.1, .error e)
  | .ok x =>
    let old := lineNat x (va % 128) n
    let new := (r.1.newWord tenant asid va n).getD old
    if new = old then (r.1, .ok old)
    else
      let f := r.1.freeNat
      (f.1, .ok (if f.2 % 2 = 0 then old else new))

/-- What a stream's turn comes to before an instruction is executed. -/
inductive Fetched where
  | run (i : Instr) (s : State)
  | done (s : State)
  /-- the head run of a kernel in portable form, at a block (R404) -/
  | block (s : State) (g : Group) (slot : Nat) (w : Warp) (pc : Nat) (run : BitVec 32)

/-- A T trap at fetch or decode (R74 to R76). -/
def State.fetchTrap (s : State) (g : Group) (slot : Nat) (w : Warp) (run : BitVec 32) (pc : Nat) (w0 w1 : DWord)
    (t : TrapInfo) : Fetched :=
  .done (s.tTrap g slot w run pc (bitsOf w0.toNat 63 56) (bitsOf w0.toNat 55 52) w0 w1 t.cause t.tval)

/-- A fetch that has no translation or no permission (R380, R381). -/
def State.fetchFail (s : State) (g : Group) (slot : Nat) (w : Warp) (run : BitVec 32) (pc : Nat) (e : FetchErr) : Fetched :=
  match e with
  | .xlate va k =>
    let s := s.queueFault g va k 2
    .done (s.setWarp g.uid slot
      { w with parked := some { asid := g.asid, va := va, cause := k, agent := 2 } })
  | .prot va => s.fetchTrap g slot w run pc 0 0 { cause := .prot, tval := BitVec.ofNat 64 va }

/-- The instruction at a warp's head run, decoded, or its trap (R76); a word of which the section holds a part only counts as
one beyond it (log 60). -/
def State.fetchT (s : State) (g : Group) (slot : Nat) (w : Warp) (pc : Nat) (run : BitVec 32) : Fetched :=
  let k := g.kern
  if k.tlen < pc + 8 then s.fetchTrap g slot w run pc 0 0 illinst
  else
    let f := s.iWord g.core g.tenant g.asid (k.tbase + pc) 8
    match f.2 with
    | .error e => f.1.fetchFail g slot w run pc e
    | .ok v =>
      let w0 : DWord := BitVec.ofNat 64 v
      if tLen w0 = 1 then
        if k.tlen < pc + 16 then f.1.fetchTrap g slot w run pc w0 0 illinst
        else
          let f2 := f.1.iWord g.core g.tenant g.asid (k.tbase + pc + 8) 8
          match f2.2 with
          | .error e => f2.1.fetchFail g slot w run pc e
          | .ok v1 =>
            match decodeT (k.ctx slot) w0 (some (BitVec.ofNat 64 v1)) with
            | .error t => f2.1.fetchTrap g slot w run pc w0 (BitVec.ofNat 64 v1) t
            | .ok i => .run i f2.1
      else
        match decodeT (k.ctx slot) w0 none with
        | .error t => f.1.fetchTrap g slot w run pc w0 0 t
        | .ok i => .run i f.1

/-- A fetch failure of an A context. -/
def State.fetchFailA (s : State) (g : Group) (e : FetchErr) : Fetched :=
  match e with
  | .xlate va k =>
    let s := s.queueFault g va k 2
    .done (s.setA g.uid { g.a with parked := some { asid := g.asid, va := va, cause := k, agent := 2 } })
  | .prot va => .done (s.aTrap g g.a 0 0 0 0 .prot (BitVec.ofNat 64 va))

/-- The instruction at an A context's APC, or its trap (R156 to R159); a kernel without an A stream
has one AEXIT (R18). The trap of a prefix that the section cuts off has the prefix's opcode in TCAUSE (log 60). -/
def State.fetchA (s : State) (g : Group) : Fetched :=
  let k := g.kern
  let apc := g.a.apc.toNat
  if k.aentry.isNone && apc == 0 then .run .aexit s
  else if k.alen < apc + 4 then .done (s.aTrap g g.a 0 0 0 0 .illinst 0)
  else
    let f := s.iWord g.core g.tenant g.asid (k.abase + apc) 4
    match f.2 with
    | .error e => f.1.fetchFailA g e
    | .ok v =>
      let w : Word := BitVec.ofNat 32 v
      if aOp w = 0x3F then
        if k.alen < apc + 12 then .done (f.1.aTrap g g.a 0x3F w 0 0 .illinst 0)
        else
          let f1 := f.1.iWord g.core g.tenant g.asid (k.abase + apc + 4) 4
          match f1.2 with
          | .error e => f1.1.fetchFailA g e
          | .ok im =>
            let f2 := f1.1.iWord g.core g.tenant g.asid (k.abase + apc + 8) 4
            match f2.2 with
            | .error e => f2.1.fetchFailA g e
            | .ok v2 =>
              let w2 : Word := BitVec.ofNat 32 v2
              match decodeALong (k.ctx 0).safe w (BitVec.ofNat 32 im) w2 with
              | .error t => .done (f2.1.aTrap g g.a (aOp w2) w (BitVec.ofNat 32 im) w2 t.cause t.tval)
              | .ok i => .run i f2.1
      else
        match decodeA (k.ctx 0).safe w with
        | .error t => .done (f.1.aTrap g g.a (aOp w) 0 0 w t.cause t.tval)
        | .ok i => .run i f.1

/-! ### Stopping a warp for pre-emption (R227 to R229) -/

/-- The poison map of a warp (R228). -/
def poisonMap (w : Warp) : List Byte :=
  ((List.range 138).flatMap fun n => leBytes 4 (w.regs.poi n).toNat) ++ leBytes 8 w.dfrec.toNat

/-- The warp in its save routine: every thread live at the routine (R228). The Milliner's routines of a portable kernel
are not a program's, and the warp is as they leave it (R407, log 9). -/
def Warp.toSave (w : Warp) (k : Kern) (entry : Nat) : Warp :=
  if k.portable then { w with mode := .saved entry, stop := w.threads, stopDue := none }
  else
  let pc := ((((k.safe[entry]?).getD [])[0]?).getD none).getD 0
  { w with
    mode := .saving entry, stop := w.threads, stopDue := none, frozen := 0, held := none, keptPop := w.popKept, synced := none, semWait := none,
    threads := (List.range k.width).map fun t => (t, .live (BitVec.ofNat 32 pc)) }

/-- A warp stopped on an entry: its poison map written, its save routine begun (R227, R228); a
translation fault of the write parks the step, a protection fault faults the grid, reported at the warp's lowest PC (R229,
log 19). -/
def State.stopWarp (s : State) (g : Group) (slot : Nat) (w : Warp) (entry : Nat) : State :=
  let a := w.tframe.toNat + 0xA00
  let t := s.translate g.core g.tenant g.asid a
  match t.2 with
  | .error k =>
    let s := t.1.queueFault g a k 1
    s.setWarp g.uid slot
      { w with stopDue := some entry, parked := some { asid := g.asid, va := a, cause := k, agent := 1 } }
  | .ok p =>
    if p.w then (t.1.gStoreList g.core g.tenant 3 p (poisonMap w)).setWarp g.uid slot (w.toSave g.kern entry)
    else t.1.gridFault g slot Cause.prot.code 0 (BitVec.ofNat 32 (w.minPc.getD 0)) (BitVec.ofNat 64 a) true

/-- A spawned warp may stop only when no ray query of its group is outstanding (R227). -/
def Group.mayStop (g : Group) (slot : Nat) : Bool :=
  slot < 32 || g.warps.all fun p => p.2.queries.all fun q => q.st == 3

/-- A warp that waited at a stopping point under a pending request stops (R227); an instruction of which some threads have
arrived at a barrier is none (log 21). -/
def State.maybeStop (s : State) (uid slot : Nat) (sync : Bool) : State :=
  match s.group? uid with
  | none => s
  | some g =>
    match g.warp? slot with
    | none => s
    | some w =>
      if s.ctl.wait && !sync && w.synced.getD 0 == 0 && g.preempt && w.safecnt == 0 && !w.inHandler && w.mode == .running && g.mayStop slot then
        match w.lastSafe with
        | some n => s.stopWarp g slot w n
        | none => s
      else s

/-- What a warp's turn comes to: nothing while it is parked or has no head run, its due stop or push, or the
instruction of its head run (R123, R221, R298). -/
def State.warpTurn (s : State) (uid slot : Nat) : Fetched :=
  match s.group? uid with
  | none => .done s
  | some g =>
    match g.warp? slot with
    | none => .done s
    | some w =>
      if !g.started || w.parked.isSome || g.frozenIO.isSome then .done s
      else
        match w.stopDue, w.pushDue with
        | some n, _ => .done (s.stopWarp g slot w n)
        | none, some q => .done ((s.setWarp uid slot { w with pushDue := none }).pushDone uid slot q)
        | none, none =>
          match w.headRun with
          | none => .done s
          | some (pc, run) => if g.kern.portable then .block s g slot w pc run else s.fetchT g slot w pc run

/-- What an A context's turn comes to. -/
def State.aTurn (s : State) (uid : Nat) : Fetched :=
  match s.group? uid with
  | none => .done s
  | some g =>
    if !g.started || g.a.parked.isSome || g.a.ended || g.frozenIO.isSome || (match g.a.mode with | .saved _ => true | _ => false) then .done s
    else
      match g.a.pushDue with
      | some (q, v) => .done ((s.setA uid { g.a with pushDue := none }).aPush uid q v)
      | none => s.fetchA g

end Sys2Proof.Machine
end

