-- ==== Sys2Proof/Machine/TInt.lean ====
section
/-!
DEFINITION. Integer, logic and address instructions of the T stream (spec 05).
-/

namespace Sys2Proof.Machine

/-- A source word of a thread in this row (R84). -/
def TEnv.int (e : TEnv) (f t : Nat) : Word := e.src f .int t
/-- MOD. -/
def TEnv.mod (e : TEnv) : Nat := e.i.mod.toNat

/-! ### What the instructions compute -/

/-- An exact result narrowed by the form of ADD and SUB (R91): 0 wrapping, 1 saturating signed, 2
saturating unsigned. -/
def narrowInt (form : Nat) (s : Int) : Word :=
  match form with
  | 0 => BitVec.ofInt 32 s
  | 1 => BitVec.ofInt 32 (satInt s (-(2 ^ 31)) (2 ^ 31 - 1))
  | _ => BitVec.ofInt 32 (satInt s 0 (2 ^ 32 - 1))

/-- The upper half of a product (R91). -/
def mulHi (signed : Bool) (a b : Word) : Word := (BitVec.ofInt 64 (readInt signed a * readInt signed b)).extractLsb' 32 32

/-- LOP3 (R93): the table's bit for the index that A, B and C make, bit by bit. -/
def lop3 (lut : BitVec 8) (a b c : Word) : Word :=
  maskOf 32 32 fun j => bit lut ((if bit a j then 1 else 0) + (if bit b j then 2 else 0) + (if bit c j then 4 else 0))

/-- Number of set bits (R93). -/
def popCount (a : Word) : Nat := (lanesOf a).length
/-- Number of zero bits above the highest set bit (R93). -/
def leadZeros (a : Word) : Nat := ((List.range 32).takeWhile fun j => !bit a (31 - j)).length
/-- Bit j moved to bit 31 − j (R93). -/
def reverseBits (a : Word) : Word := maskOf 32 32 fun j => bit a (31 - j)

/-- The amount of a shift (R96). -/
def shiftAmount (wrap : Bool) (b : Word) : Nat := if wrap then b.toNat % 32 else b.toNat

/-- FSH (R96). -/
def funnel (left : Bool) (a b c : Word) : Word :=
  let f : BitVec 64 := b ++ a
  let m := c.toNat % 32
  if left then (f <<< m).extractLsb' 32 32 else (f >>> m).extractLsb' 0 32

/-- Position and length of a bit field (R97). -/
def fieldPos (b : Word) : Nat := (b.extractLsb' 0 8).toNat
def fieldLen (b : Word) : Nat := min (b.extractLsb' 8 8).toNat 32

/-- BFX (R97). -/
def bitExtract (signed : Bool) (a b : Word) : Word :=
  let f : Int := readInt signed a / 2 ^ fieldPos b
  let n := fieldLen b
  if n = 0 then 0
  else if signed then BitVec.ofInt 32 (sextI n (f % 2 ^ n).toNat) else BitVec.ofInt 32 (f % 2 ^ n)

/-- BFI (R97). -/
def bitInsert (a b c : Word) : Word :=
  let p := fieldPos b
  maskOf 32 32 fun j => if p ≤ j ∧ j < p + fieldLen b then bit a (j - p) else bit c j

/-- LEA (R98): MOD bits 1:0 the scale, bit 2 signed. -/
def leaAddr (mod : BitVec 4) (a : DWord) (b : Word) : DWord :=
  let x : DWord := if bit mod 2 then b.signExtend 64 else b.setWidth 64
  a + x * BitVec.ofNat 64 (2 ^ (mod.toNat % 4))

/-- PACK.T5 (R99). -/
def packTrits (a : Word) : Word :=
  let c (i : Nat) : Nat := (a.extractLsb' (2 * i) 2).toNat
  if (List.range 5).any fun i => c i == 3 then 0xFF
  else BitVec.ofNat 32 ((List.range 5).foldl (fun n i => n + c i * 3 ^ i) 0)

/-- The 2-bit codes of a legal trit byte (R100). -/
def unpackTrits (v : Nat) : Word := BitVec.ofNat 32 ((List.range 5).foldl (fun n i => n + tritDigit v i * 4 ^ i) 0)

/-- Byte k of a word. -/
def byteOf (a : Word) (k : Nat) : Nat := (a.extractLsb' (8 * k) 8).toNat

/-! ### The instructions -/

def execAdd (w : TWord) (s : State) : Host.Outcome State Fault Refusal :=
  tAlu 0x01 w s fun e t => narrowInt e.mod (readInt (e.mod == 1) (e.int 1 t) + readInt (e.mod == 1) (e.int 2 t))
def execAdd3 (w : TWord) (s : State) : Host.Outcome State Fault Refusal :=
  tAlu 0x02 w s fun e t => e.int 1 t + e.int 2 t + e.int 3 t
def execSub (w : TWord) (s : State) : Host.Outcome State Fault Refusal :=
  tAlu 0x03 w s fun e t => narrowInt e.mod (readInt (e.mod == 1) (e.int 1 t) - readInt (e.mod == 1) (e.int 2 t))
def execNeg (w : TWord) (s : State) : Host.Outcome State Fault Refusal :=
  tAlu 0x04 w s fun e t => narrowInt e.mod (-(e.int 1 t).toInt)
def execAbs (w : TWord) (s : State) : Host.Outcome State Fault Refusal :=
  tAlu 0x05 w s fun e t => narrowInt e.mod ((e.int 1 t).toInt.natAbs : Int)
def execMullo (w : TWord) (s : State) : Host.Outcome State Fault Refusal :=
  tAlu 0x06 w s fun e t => e.int 1 t * e.int 2 t
def execMulhi (w : TWord) (s : State) : Host.Outcome State Fault Refusal :=
  tAlu 0x07 w s fun e t => mulHi (e.mod == 1) (e.int 1 t) (e.int 2 t)
def execMad (w : TWord) (s : State) : Host.Outcome State Fault Refusal :=
  tAlu 0x08 w s fun e t => e.int 1 t * e.int 2 t + e.int 3 t
def execMadw (w : TWord) (s : State) : Host.Outcome State Fault Refusal :=
  tAlu64 0x09 w s fun e t =>
    BitVec.ofInt 64 (readInt (e.mod == 1) (e.int 1 t) * readInt (e.mod == 1) (e.int 2 t)) + e.src64 3 t
/-- DIV and REM raise EMUL (R92). -/
def execDiv (w : TWord) (s : State) : Host.Outcome State Fault Refusal := tEmul 0x0A w s
def execRem (w : TWord) (s : State) : Host.Outcome State Fault Refusal := tEmul 0x0B w s
def execMin (w : TWord) (s : State) : Host.Outcome State Fault Refusal :=
  tAlu 0x0C w s fun e t =>
    if readInt (e.mod == 1) (e.int 2 t) < readInt (e.mod == 1) (e.int 1 t) then e.int 2 t else e.int 1 t
def execMax (w : TWord) (s : State) : Host.Outcome State Fault Refusal :=
  tAlu 0x0D w s fun e t =>
    if readInt (e.mod == 1) (e.int 1 t) < readInt (e.mod == 1) (e.int 2 t) then e.int 2 t else e.int 1 t
def execLop3 (w : TWord) (s : State) : Host.Outcome State Fault Refusal :=
  tAlu 0x0E w s fun e t => lop3 (e.i.ext.xmod ++ e.i.mod) (e.int 1 t) (e.int 2 t) (e.int 3 t)
def execShl (w : TWord) (s : State) : Host.Outcome State Fault Refusal :=
  tAlu 0x0F w s fun e t =>
    let n := shiftAmount (e.mod == 1) (e.int 2 t)
    if 32 ≤ n then 0 else e.int 1 t <<< n
def execShr (w : TWord) (s : State) : Host.Outcome State Fault Refusal :=
  tAlu 0x10 w s fun e t =>
    let n := shiftAmount (e.mod == 1) (e.int 2 t)
    if 32 ≤ n then 0 else e.int 1 t >>> n
def execSra (w : TWord) (s : State) : Host.Outcome State Fault Refusal :=
  tAlu 0x11 w s fun e t => (e.int 1 t).sshiftRight (min 32 (shiftAmount (e.mod == 1) (e.int 2 t)))
def execFsh (w : TWord) (s : State) : Host.Outcome State Fault Refusal :=
  tAlu 0x12 w s fun e t => funnel (e.mod == 1) (e.int 1 t) (e.int 2 t) (e.int 3 t)
def execBfx (w : TWord) (s : State) : Host.Outcome State Fault Refusal :=
  tAlu 0x13 w s fun e t => bitExtract (e.mod == 1) (e.int 1 t) (e.int 2 t)
def execBfi (w : TWord) (s : State) : Host.Outcome State Fault Refusal :=
  tAlu 0x14 w s fun e t => bitInsert (e.int 1 t) (e.int 2 t) (e.int 3 t)
def execPopc (w : TWord) (s : State) : Host.Outcome State Fault Refusal :=
  tAlu 0x15 w s fun e t => BitVec.ofNat 32 (popCount (e.int 1 t))
def execClz (w : TWord) (s : State) : Host.Outcome State Fault Refusal :=
  tAlu 0x16 w s fun e t => BitVec.ofNat 32 (leadZeros (e.int 1 t))
def execBrev (w : TWord) (s : State) : Host.Outcome State Fault Refusal :=
  tAlu 0x17 w s fun e t => reverseBits (e.int 1 t)
def execCmp (w : TWord) (s : State) : Host.Outcome State Fault Refusal :=
  tCond 0x18 w s fun e t => condCmp e.i.mod (e.int 1 t) (e.int 2 t)
def execSel (w : TWord) (s : State) : Host.Outcome State Fault Refusal :=
  tAlu 0x19 w s fun e t =>
    if bit (e.w.regs.fGet (e.mod % 8)) t != bit e.i.mod 3 then e.int 1 t else e.int 2 t
def execMov (w : TWord) (s : State) : Host.Outcome State Fault Refusal :=
  tIssue 0x1A w s fun e =>
    if e.mod = 1 then e.result 2 (fun t => (e.src64 1 t).setWidth 128) fun _ => none
    else e.result 1 (fun t => (e.int 1 t).setWidth 128) fun _ => none
def execMovi (w : TWord) (s : State) : Host.Outcome State Fault Refusal :=
  tAlu 0x1B w s fun e _ => e.i.ext.imm32
def execLea (w : TWord) (s : State) : Host.Outcome State Fault Refusal :=
  tAlu64 0x1C w s fun e t => leaAddr e.i.mod (e.src64 1 t) (e.int 2 t)
def execAddW (w : TWord) (s : State) : Host.Outcome State Fault Refusal :=
  tAlu64 0x1D w s fun e t => if e.mod = 1 then e.src64 1 t - e.src64 2 t else e.src64 1 t + e.src64 2 t
def execPackT5 (w : TWord) (s : State) : Host.Outcome State Fault Refusal :=
  tAlu 0x1E w s fun e t => packTrits (e.int 1 t)
/-- UNPACK.T5 (R100): under .Z an illegal byte gives 0 and makes the guard false in its thread. -/
def execUnpackT5 (w : TWord) (s : State) : Host.Outcome State Fault Refusal :=
  tIssue 0x1F w s fun e =>
    let v (t : Nat) : Nat := byteOf (e.int 1 t) e.mod
    if bit e.i.ext.xmod 0 then
      let pm := e.poisoned &&& e.act
      let bad : BitVec 32 := maskOf 32 32 fun t => bit e.act t && !bit pm t && !tritLegal (v t)
      match e.result 1 (fun t => if tritLegal (v t) then (unpackTrits (v t)).setWidth 128 else 0) fun _ => none with
      | .ok s' w' red =>
        .ok s' { w' with regs := w'.regs.fSet e.i.pred.toNat bad (if e.i.pneg = 1 then BitVec.allOnes 32 else 0) } red
      | r => r
    else
      e.result 1 (fun t => (unpackTrits (v t)).setWidth 128) fun t => if tritLegal (v t) then none else some (v t)

end Sys2Proof.Machine
end

