-- ==== Sys2Proof/Machine/TFlow.lean ====
section
/-!
DEFINITION. Program counters, lanes and barriers: rows 0x4_ and 0x5_ of the T opcode map (spec 07), and
the return from a T trap handler (R223).
-/

namespace Sys2Proof.Machine

/-! ### Thread states -/

/-- Helpers of quads without a live thread exit (R128). -/
def Warp.settleQuads (w : Warp) : Warp :=
  let alive (q : Nat) : Bool := (List.range 4).any fun i => (w.thread (4 * q + i)).isLive
  { w with threads := SMap.mapv (fun t x => if x.isHelper && !alive (t / 4) then .exited else x) w.threads }

/-- A warp without a live thread has exited (R123): its registers are freed (R27), a save routine has ended (R228), and a
warp that does so in its restore routine is in no routine any more (R18). -/
def Warp.ifExited (w : Warp) : Warp :=
  if !w.exited then w
  else
    { w with
      regs := Regs.zero,
      mode := match w.mode with | .saving n => .saved n | .restoring _ => .running | m => m }

/-- The group after a warp's threads have changed state: queue entries, barriers (R136, R144, R297). -/
def State.afterThreads (s : State) (uid slot : Nat) (w : Warp) : State :=
  let s := s.setWarp uid slot w
  match s.group? uid with
  | none => s
  | some g => (s.setGroup { g with queues := g.queues.retire g.liveSet }).settleAll uid

/-- Threads of a mask live at a target. -/
def Warp.redirect (w : Warp) (m : BitVec 32) (target : Nat → Word) : Warp :=
  { w with threads := SMap.mapv (fun t x => if bit m t then .live (target t) else x) w.threads }

/-- The check of computed targets (R135, R251): poison, then alignment; a trap or none. -/
def TEnv.badTarget (e : TEnv) (target : Nat → Word) : Option TRes :=
  if e.poisoned &&& e.parts != 0 then some (.trap .poison 0)
  else ((lanesOf e.parts).find? fun t => (target t).toNat % 8 != 0).map fun t => .trap .align ((target t).setWidth 64)

/-- A branch of the active live threads (R134). -/
def TEnv.branch (e : TEnv) (target : Nat → Word) : TRes := .ok e.base (e.w.redirect e.parts target) e.parts

/-- PC + 8 d of a displacement in SRCA (R134). -/
def TEnv.dispTarget (e : TEnv) : Word := BitVec.ofNat 32 e.pc + 8 * e.src 1 .int 0

/-! ### Branches, calls and exit -/

def execBra (w : TWord) (s : State) : Host.Outcome State Fault Refusal :=
  tIssue 0x40 w s fun e => e.branch fun _ => e.dispTarget

def execBrx (w : TWord) (s : State) : Host.Outcome State Fault Refusal :=
  tIssue 0x41 w s fun e =>
    let target (t : Nat) : Word := e.int 1 t + e.int 2 t
    (e.badTarget target).getD (e.branch target)

/-- CALL and CALL.X (R134): the return address as a register result, then the branch. -/
def callBody (e : TEnv) (target : Nat → Word) : TRes :=
  match e.result 1 (fun _ => BitVec.ofNat 128 (e.pc + tBytes e.i)) fun _ => none with
  | .ok s w _ => .ok s (w.redirect e.parts target) e.parts
  | r => r

def execCall (w : TWord) (s : State) : Host.Outcome State Fault Refusal :=
  tIssue 0x42 w s fun e => callBody e fun _ => e.dispTarget

def execCallX (w : TWord) (s : State) : Host.Outcome State Fault Refusal :=
  tIssue 0x42 w s fun e =>
    let target (t : Nat) : Word := e.int 1 t + e.int 2 t
    (e.badTarget target).getD (callBody e target)

def execRet (w : TWord) (s : State) : Host.Outcome State Fault Refusal :=
  tIssue 0x43 w s fun e => (e.badTarget fun t => e.int 1 t).getD (e.branch fun t => e.int 1 t)

/-- The warp after the threads of a mask have executed EXIT: helpers where their quad lives on, exited elsewhere (R136). -/
def Warp.exiting (w : Warp) (m : BitVec 32) : Warp :=
  Warp.settleQuads { w with threads := SMap.mapv (fun t x => if bit m t then .helper else x) w.threads }

/-- The same, with what follows for a warp that has no live thread left. -/
def Warp.exitThreads (w : Warp) (m : BitVec 32) : Warp := (w.exiting m).ifExited

/-! ### Safe points and SETPC -/

/-- The warp that has just passed SAFEPT n stops there under a pending request (R137, R227). -/
def State.stopAt (s : State) (uid slot n : Nat) : State :=
  match s.group? uid with
  | none => s
  | some g =>
    match g.warp? slot with
    | none => s
    | some w =>
      if g.preempt && w.mode == .running && !w.inHandler && w.lastSafe == some n && w.safecnt == 0 && g.mayStop slot
      then s.stopWarp g slot w n else s

/-- SAFEPT (R137). -/
def execSafept (w : TWord) (s : State) : Host.Outcome State Fault Refusal :=
  let n := codeOf w.srca
  match tIssue 0x45 w s fun e =>
    if e.w.inHandler then .trap .illinst 0
    else .ok e.base { e.w with safecnt := 0, lastSafe := if e.w.mode.routine then e.w.lastSafe else some n } 0 with
  | .next s' =>
    (match s.ctl.cur with
     | .warp uid slot => .next (s'.stopAt uid slot n)
     | _ => .next s')
  | o => o

/-- The state that SETPC gives a thread (R138); none for a value that raises ALIGN. -/
def setpcState (a : Word) : Option TState :=
  if a = 0xFFFFFFFE then some .helper
  else if a = 0xFFFFFFFF then some .exited
  else if a.toNat % 8 = 0 then some (.live a)
  else none

/-- Registers with poison and DFREC from the 560 bytes of a poison map (R228, R230). -/
def Warp.fromMap (w : Warp) (bs : List Byte) : Warp :=
  let m (n : Nat) : BitVec 32 := BitVec.ofNat 32 (wordAt bs (4 * n) 4)
  let one (r : Regs) (n : Nat) : Regs := if n < 128 && !bit r.vmap n then r else r.setPoi n (m n)
  { w with regs := (List.range 138).foldl one w.regs, dfrec := BitVec.ofNat 64 (wordAt bs 552 8) }

/-- The end of a restore routine; a nonzero zero bit of the map's DFREC fails it as a page without R does, for no outcome is
named (R6, R229, log 60). It comes once every thread has executed SETPC (R230) or has ended: `stop` holds the threads that
have not. A warp without a live thread has no registers whose poison the map could give. -/
def TEnv.endRestore (e : TEnv) (w : Warp) (mask : BitVec 32) : TRes :=
  let answer (s : State) (w : Warp) : TRes := .ok (s.afterThreads e.g.uid e.slot w) w mask
  let left := w.stop.filter fun p => !bit mask p.1 && (w.thread p.1).isLive
  if w.exited then answer e.base { w with stop := [] }.ifExited
  else if !left.isEmpty then answer e.base { w with stop := left }
  else
    let a := w.tframe.toNat + 0xA00
    let t := e.base.translate e.g.core e.g.tenant e.g.asid a
    match t.2 with
    | .error k => .park t.1 a k 0
    | .ok p =>
      if !p.r then .trap .prot (BitVec.ofNat 64 a)
      else
        let r := t.1.gLoadList e.g.core e.g.tenant 3 p 560
        if bitsOf (wordAt r.2 552 8) 11 9 ≠ 0 then .trap .prot (BitVec.ofNat 64 (a + 552))
        else answer r.1 (({ w with mode := .running, stop := [] }.fromMap r.2).lanes e.g.kern.width)

/-- The threads of a mask have left the code that they ran: a restore routine ends with the last of them (R230), and a
warp with no live thread has exited (R136). -/
def TEnv.moved (e : TEnv) (w : Warp) (mask : BitVec 32) : TRes :=
  match e.w.mode with
  | .restoring _ => e.endRestore w mask
  | _ => .ok (e.base.afterThreads e.g.uid e.slot w.ifExited) w.ifExited mask

/-- EXIT (R136); in a handler it is a nested trap (R222). -/
def execExit (w : TWord) (s : State) : Host.Outcome State Fault Refusal :=
  tIssue 0x44 w s fun e => if e.w.inHandler then .trap .illinst 0 else e.moved (e.w.exiting e.parts) e.parts

/-- SETPC (R138); in a handler it is a nested trap (R222). -/
def execSetpc (w : TWord) (s : State) : Host.Outcome State Fault Refusal :=
  tIssue 0x46 w s fun e =>
    if e.w.inHandler then .trap .illinst 0
    else if e.poisoned &&& e.parts != 0 then .trap .poison 0
    else
      match (lanesOf e.parts).find? fun t => (setpcState (e.int 1 t)).isNone with
      | some t => .trap .align ((e.int 1 t).setWidth 64)
      | none =>
        let new (t : Nat) (x : TState) : TState :=
          if bit e.act t && !bit e.poisoned t then (setpcState (e.int 1 t)).getD x else x
        e.moved (Warp.settleQuads { e.w with safecnt := 0, threads := SMap.mapv new e.w.threads }) e.act

/-! ### Selection, votes, shuffles and quad operations -/

/-- SELC (R131): a value with its poison bit. -/
def execSelc (w : TWord) (s : State) : Host.Outcome State Fault Refusal :=
  tIssue 0x47 w s fun e =>
    let p (t : Nat) : Bool := bit (e.w.regs.fGet (e.mod % 8)) t != bit e.i.mod 3
    let poi : BitVec 32 := maskOf 32 32 fun t => bit (if p t then e.rawPoi 1 1 else e.rawPoi 2 1) t
    let v (t : Nat) : BitVec 128 := (if p t then e.int 1 t else e.int 2 t).setWidth 128
    .ok e.base { e.w with regs := e.w.regs.writeDst e.i.dst 1 e.act v poi } 0

/-- A predicate written in the active threads (R94, R139). -/
def TEnv.setPred (e : TEnv) (m : BitVec 32) : TRes :=
  .ok e.base { e.w with regs := e.w.regs.fSet (e.i.dst.extractLsb' 0 3).toNat e.act m } 0

/-- VOTE (R139). -/
def execVote (w : TWord) (s : State) : Host.Outcome State Fault Refusal :=
  tIssue 0x48 w s fun e =>
    let f := e.w.regs.fGet (e.i.srca.extractLsb' 0 3).toNat
    let v := (if bit e.i.srca 3 then ~~~f else f) &&& e.parts
    let all (b : Bool) : BitVec 32 := if b then BitVec.allOnes 32 else 0
    match e.mod with
    | 0 => e.setPred (all (v == e.parts))
    | 1 => e.setPred (all (v != 0))
    | 2 => e.setPred (all (v == e.parts || v == 0))
    | _ => e.result 1 (fun _ => v.setWidth 128) fun _ => none

/-- ELECT (R139). -/
def execElect (w : TWord) (s : State) : Host.Outcome State Fault Refusal :=
  tIssue 0x49 w s fun e => e.setPred (match lowest e.parts with | some t => setBit 0 t true | none => 0)

/-- The source lane of SHFL for a thread (R140). -/
def shflLane (mod n l : Nat) (b : Word) : Nat :=
  let k := b.toNat % 32
  match mod with
  | 0 => k % n
  | 1 => let d := (l : Int) + b.toInt; if d < 0 ∨ (n : Int) ≤ d then l else d.toNat
  | 2 => (l + k) % n
  | _ => l ^^^ (k % n)

/-- A result that a thread takes from other threads' SRCA (R140, R141): `own` adds the thread's own
poison of the other sources. -/
def TEnv.fromLanes (e : TEnv) (own : BitVec 32) (src : Nat → List Nat) (v : Nat → Word) : TRes :=
  let pa := e.srcPoi 1 1
  let pm : BitVec 32 := maskOf 32 32 fun t => bit e.act t && (bit own t || (src t).any fun l => bit pa l)
  e.resultOf pm 1 (fun t => (v t).setWidth 128) fun _ => none

/-- SHFL (R140). -/
def execShfl (w : TWord) (s : State) : Host.Outcome State Fault Refusal :=
  tIssue 0x4A w s fun e =>
    let l (t : Nat) : Nat := shflLane e.mod e.g.kern.width t (e.int 2 t)
    e.fromLanes (e.srcPoi 2 1) (fun t => [l t]) fun t => e.int 1 (l t)

/-- Lane k of thread t's quad. -/
def quadLane (t k : Nat) : Nat := t / 4 * 4 + k % 4

/-- QSWP (R141). -/
def execQswp (w : TWord) (s : State) : Host.Outcome State Fault Refusal :=
  tIssue 0x4B w s fun e =>
    let l (t : Nat) : Nat := quadLane t ((t % 4) ^^^ (e.mod + 1))
    e.fromLanes 0 (fun t => [l t]) fun t => e.int 1 (l t)

/-- QBC (R141). -/
def execQbc (w : TWord) (s : State) : Host.Outcome State Fault Refusal :=
  tIssue 0x4C w s fun e => e.fromLanes 0 (fun t => [quadLane t e.mod]) fun t => e.int 1 (quadLane t e.mod)

/-- The two quad lanes of QDD (R141). -/
def qddLanes (mod j : Nat) : Nat × Nat :=
  match mod with
  | 0 => (j ||| 1, j &&& 2)
  | 1 => (j ||| 2, j &&& 1)
  | 2 => (1, 0)
  | _ => (2, 0)

/-- QDD (R141). -/
def execQdd (w : TWord) (s : State) : Host.Outcome State Fault Refusal :=
  tIssue 0x4D w s fun e =>
    let l (t : Nat) : Nat × Nat := qddLanes e.mod (t % 4)
    let hi (t : Nat) : Nat := quadLane t (l t).1
    let lo (t : Nat) : Nat := quadLane t (l t).2
    e.fromLanes 0 (fun t => [hi t, lo t]) fun t => fsub .rne (e.src 1 .f32 (hi t)) (e.src 1 .f32 (lo t))

/-! ### Barriers (R142 to R145) -/

/-- The barrier of a kind and an index for a group. -/
def State.barrier (s : State) (g : Group) (kind i : Nat) : Barrier :=
  match kind with
  | 0 => SMap.get Barrier.zero g.bars i
  | 1 => SMap.get Barrier.zero s.lu.clBars (8 * (2 ^ 32 * g.grid + g.gid / g.ln.clg) + i)
  | _ => SMap.get Barrier.zero s.lu.gdBars (4 * g.grid + i)

/-- The state with that barrier given. -/
def State.setBarrier (s : State) (g : Group) (kind i : Nat) (b : Barrier) : State :=
  match kind with
  | 0 => s.setGroup { g with bars := SMap.put g.bars i b }
  | 1 => { s with lu := { s.lu with clBars := SMap.put s.lu.clBars (8 * (2 ^ 32 * g.grid + g.gid / g.ln.clg) + i) b } }
  | _ => { s with lu := { s.lu with gdBars := SMap.put s.lu.gdBars (4 * g.grid + i) b } }

/-- The scope of a barrier's release and acquire (R145). -/
def barScope (kind : Nat) : Nat := match kind with | 0 => 0 | 1 => 1 | _ => 3

/-- The warp belongs to the barrier (R142). -/
def Group.barMember (g : Group) (slot kind i : Nat) : Bool :=
  decide (slot < 32) && (kind != 0 || (g.barMask i / 2 ^ slot) % 2 == 1)

/-- The threads of the warp whose arrival at the barrier is pending (R143). -/
def TEnv.pending (e : TEnv) (s : State) (kind i : Nat) : BitVec 32 :=
  match s.group? e.g.uid with
  | none => 0
  | some g => SMap.get 0 (s.barrier g kind i).arrived (warpKey g.uid e.slot)

/-- The arrival of the threads of a mask (R143 to R145): a release, the count, and the phase where it completes. -/
def TEnv.arrive (e : TEnv) (m : BitVec 32) (kind i : Nat) : State :=
  let s := e.base.release e.g.tenant e.g.core (barScope kind)
  match s.group? e.g.uid with
  | none => s
  | some g =>
    let b := s.barrier g kind i
    let k := warpKey g.uid e.slot
    let s := s.setBarrier g kind i { b with arrived := SMap.put b.arrived k (SMap.get 0 b.arrived k ||| m) }
    let s := if kind = 0 then s else s.sideEffect g.uid
    s.settleAll g.uid

/-- A BAR instruction of a member warp, or PROT. -/
def barIssue (op : Nat) (w : TWord) (s : State) (body : TEnv → Nat → Nat → TRes) : Host.Outcome State Fault Refusal :=
  tIssue op w s fun e =>
    let i := codeOf e.i.srca
    if e.g.barMember e.slot e.mod i then body e e.mod i else .trap .prot 0

/-- The threads that have arrived in the BAR.ARV or BAR.SYNC under way (R143). -/
def Warp.arrivals (w : Warp) : BitVec 32 := w.synced.getD 0

/-- The threads that arrive now: those of the run that have not, where no arrival of theirs is pending (R143). -/
def TEnv.arriving (e : TEnv) (kind i : Nat) : BitVec 32 := e.parts &&& ~~~e.w.arrivals &&& ~~~e.pending e.base kind i

/-- BAR.ARV, and BAR.SYNC with `sync` (R143): each thread arrives once no arrival of its own is pending; the instruction
ends when all have arrived, and BAR.SYNC when the phase in which they did has completed. -/
def arriveBody (sync : Bool) (e : TEnv) (kind i : Nat) : TRes :=
  let now := e.arriving kind i
  let s := if now = 0 then e.base else e.arrive now kind i
  let all := e.w.arrivals ||| now
  if e.parts &&& ~~~all = 0 ∧ (!sync ∨ e.pending s kind i &&& e.parts = 0) then
    .ok (if sync || e.w.synced.isSome then s.acquire e.g.core (barScope kind) else s) e.w 0
  else if all = 0 then .wait { e.w with synced := some 0 }
  else .begun s { e.w with synced := some all }

/-- BAR.ARV (R143). -/
def execBarArv (w : TWord) (s : State) : Host.Outcome State Fault Refusal := barIssue 0x4E w s (arriveBody false)

/-- BAR.WT (R143). -/
def execBarWt (w : TWord) (s : State) : Host.Outcome State Fault Refusal :=
  barIssue 0x4F w s fun e kind i =>
    if e.pending e.base kind i &&& e.parts ≠ 0 then .wait e.w else .ok (e.base.acquire e.g.core (barScope kind)) e.w 0

/-- BAR.SYNC (R143). -/
def execBarSync (w : TWord) (s : State) : Host.Outcome State Fault Refusal := barIssue 0x50 w s (arriveBody true)

/-! ### Traps, no-operation and register access -/

def execNop (w : TWord) (s : State) : Host.Outcome State Fault Refusal :=
  tIssue 0x51 w s fun e => .ok e.base e.w 0

/-- TRAP and BRK (R146): TMASK holds the active threads. -/
def softTrap (c : Cause) (e : TEnv) : TRes :=
  if e.parts = 0 then .ok e.base e.w 0 else .trapIn e.act c (BitVec.ofNat 64 (codeOf e.i.srca))

def execTrap (w : TWord) (s : State) : Host.Outcome State Fault Refusal := tIssue 0x52 w s (softTrap .trap)
def execBrk (w : TWord) (s : State) : Host.Outcome State Fault Refusal := tIssue 0x54 w s (softTrap .brk)

/-- TRET (R223): outside a handler ILLINST; a frame whose TPC is misaligned, ALIGN as a nested trap, and so one with a
nonzero reserved field, which R6 fails and for which no other trap is named (log 60). It waits where the names that it
maps find no register (R29). -/
def execTret (w : TWord) (s : State) : Host.Outcome State Fault Refusal :=
  tIssue 0x53 w s fun e =>
    if !e.w.inHandler then .trap .illinst 0
    else
      let a := e.w.tframe.toNat
      let t := e.base.translate e.g.core e.g.tenant e.g.asid a
      match t.2 with
      | .error k => .park t.1 a k 0
      | .ok p =>
        if !p.r then .trap .prot (BitVec.ofNat 64 a)
        else
          let r := t.1.gLoadList e.g.core e.g.tenant 0 p 2560
          let pc := wordAt r.2 0x98C 4
          let w := (e.w.leave r.2).lanes e.g.kern.width
          if pc % 8 ≠ 0 || !tFrameZeros r.2 then .trap .align (BitVec.ofNat 64 pc)
          else if e.s.renameStall e.g e.slot e.w (w.regs.mapped - e.w.regs.mapped) then .held
          else .ok r.1 w (BitVec.allOnes 32)

/-- The group's coordinates, and a thread's (R39). -/
def Group.gxyz (g : Group) : DWord :=
  BitVec.ofNat 64 (g.gid % g.gx + 2 ^ 32 * (g.gid / g.gx % g.gy) + 2 ^ 48 * (g.gid / (g.gx * g.gy)))
def Group.tid (g : Group) (slot t : Nat) : Nat := if slot < 32 then g.kern.width * slot + t else 1024 + 32 * (slot - 32) + t
def Group.txyz (g : Group) (slot t : Nat) : Nat :=
  if 32 ≤ slot then 0
  else
    let n := g.tid slot t
    n % g.ln.tx + 2 ^ 10 * (n / g.ln.tx % g.ln.ty) + 2 ^ 20 * (n / (g.ln.tx * g.ln.ty) % 1024)

/-- $ver (R39). -/
def Kern.ver (k : Kern) : Nat := 4 + k.vver * 2 ^ 8 + (if k.legacy then 2 ^ 16 else 0)

/-- The state of a thread that $tpc and $helper read: in a save routine that of the stop (R228). -/
def Warp.seen (w : Warp) (t : Nat) : TState :=
  match w.mode with
  | .saving _ => SMap.get .exited w.stop t
  | _ => w.thread t

/-- $tpc (R39, R122). -/
def TState.tpc : TState → Word
  | .live pc => pc
  | .helper => 0xFFFFFFFE
  | .exited => 0xFFFFFFFF

/-- The special registers of R39. -/
def TEnv.special (e : TEnv) (n t : Nat) : DWord :=
  let g := e.g
  match n with
  | 0 => BitVec.ofNat 64 (g.tid e.slot t)
  | 1 => BitVec.ofNat 64 (g.txyz e.slot t)
  | 2 => BitVec.ofNat 64 t
  | 3 => BitVec.ofNat 64 (t / 4)
  | 4 => BitVec.ofNat 64 e.slot
  | 5 => BitVec.ofNat 64 g.gid
  | 6 => g.gxyz
  | 7 => BitVec.ofNat 64 (g.gid % g.ln.clg)
  | 8 => BitVec.ofNat 64 (g.gid / g.ln.clg)
  | 9 => BitVec.ofNat 64 g.grid
  | 10 => (e.s.core g.core).clk
  | 11 => (e.w.seen t).tpc.setWidth 64
  | 12 => if (e.w.thread t).isHelper then 1 else 0
  | 13 => BitVec.ofNat 64 g.kern.ver
  | 32 => e.w.trap.tcause.setWidth 64
  | 33 => e.w.trap.tpc.setWidth 64
  | 34 => e.w.trap.tinst
  | 35 => e.w.trap.tmask.setWidth 64
  | 36 => e.w.trap.tval
  | 37 => e.w.tframe
  | 38 => e.w.dfrec
  | 39 => e.w.safecnt.setWidth 64
  | _ => (g.ln.kregs[n - 16]?).getD 0

/-- S2V (R147). -/
def execS2v (w : TWord) (s : State) : Host.Outcome State Fault Refusal :=
  tIssue 0x55 w s fun e =>
    let n := codeOf e.i.srca
    e.result (if s2vIs64 n then 2 else 1) (fun t => (e.special n t).setWidth 128) fun _ => none

/-- The v register that VGET or VPUT names does not exist (R148). -/
def TEnv.indexBad (e : TEnv) (k : Nat) : Bool := decide (128 ≤ k) || decide (e.g.kern.vregs ≤ k)

/-- VGET (R148). A register that does not exist raises REGRANGE where a thread that is not a helper is active (R33, R129). -/
def execVget (w : TWord) (s : State) : Host.Outcome State Fault Refusal :=
  tIssue 0x56 w s fun e =>
    let k := (e.int 1 0).toNat
    if e.indexBad k then (if e.parts = 0 then e.lost 1 else .trap .regrange (BitVec.ofNat 64 k))
    else
      .ok e.base
        { e.w with regs := e.w.regs.writeDst e.i.dst 1 e.act (fun t => (e.w.regs.get k t).setWidth 128) (e.w.regs.poi k) } 0

/-- VPUT (R148), with the same check. -/
def execVput (w : TWord) (s : State) : Host.Outcome State Fault Refusal :=
  tIssue 0x57 w s fun e =>
    let k := (e.int 1 0).toNat
    if e.indexBad k then (if e.parts = 0 then .ok e.base e.w 0 else .trap .regrange (BitVec.ofNat 64 k))
    else if e.base.renameStall e.g e.slot e.w (if bit e.w.regs.vmap k then 0 else 1) then .wait e.w
    else
      let r := { e.w.regs with vmap := setBit e.w.regs.vmap k true }
      .ok e.base { e.w with regs := r.write k e.act (fun t => e.int 2 t) (e.rawPoi 2 1) } 0

end Sys2Proof.Machine
end

