-- ==== Sys2Proof/Machine/TMem.lean ====
section
/-!
DEFINITION. The T instructions that reach memory (spec 12, 13): loads, stores, atomics, hints, FENCE and
CBLD (R118).
-/

namespace Sys2Proof.Machine

/-! ### Addresses and checks (R250, R251) -/

/-- A failed check: its order, its cause, its TVAL, and the cause of a translation fault. -/
structure Bad where
  ord : Nat
  cause : Cause
  tval : DWord
  xl : Nat
  deriving DecidableEq, Repr

/-- Where an access falls. -/
inductive Place where
  | glob (p : Page)
  /-- a group's scratchpad space -/
  | pad (uid a : Nat)
  /-- the allocation of a cluster member that is not resident or has not started -/
  | away
  deriving DecidableEq, Repr

/-- A global address of a thread. -/
def TEnv.globalAddr (e : TEnv) (t : Nat) : DWord := e.src64 1 t + (e.src 2 .int t).signExtend 64
/-- A scratchpad or cluster address of a thread. -/
def TEnv.padAddr (e : TEnv) (t : Nat) : Word := e.src 1 .int t + e.src 2 .int t

/-- Checks 2 to 4 of R251 on a global access of n bytes. -/
def State.checkGlobal (s : State) (g : Group) (a : DWord) (n : Nat) (need : Need) : State × Except Bad Place :=
  if a.toNat % n ≠ 0 then (s, .error { ord := 2, cause := .align, tval := a, xl := 0 })
  else if 2 ^ 52 ≤ a.toNat then (s, .error { ord := 4, cause := .prot, tval := a, xl := 0 })
  else
    let r := s.translate g.core g.tenant g.asid a.toNat
    (r.1, match r.2 with
      | .error k => .error { ord := 3, cause := .xlate, tval := a, xl := k }
      | .ok p => if p.allows need then .ok (.glob p) else .error { ord := 4, cause := .prot, tval := a, xl := 0 })

/-- The checks of a scratchpad access. -/
def Group.checkPad (g : Group) (a : Word) (n : Nat) : Except Bad Place :=
  if a.toNat % n ≠ 0 then .error { ord := 2, cause := .align, tval := a.setWidth 64, xl := 0 }
  else if (g.spPlace a.toNat n).isSome then .ok (.pad g.uid a.toNat)
  else .error { ord := 4, cause := .prot, tval := a.setWidth 64, xl := 0 }

/-- The checks of a cluster access (R240). It waits for a member that is saved, or placed and not started, whose allocation
is zeroed before its start (R239, log 25). -/
def State.checkCluster (s : State) (g : Group) (x : Word) (n : Nat) : Except Bad Place :=
  let rank := x.toNat / 2 ^ 28
  let a := x.toNat % 2 ^ 28
  let uid := 2 ^ 32 * g.grid + g.gid / g.ln.clg * g.ln.clg + rank
  let prot : Except Bad Place := .error { ord := 4, cause := .prot, tval := x.setWidth 64, xl := 0 }
  if a % n ≠ 0 then .error { ord := 2, cause := .align, tval := x.setWidth 64, xl := 0 }
  else if g.ln.clg ≤ rank then prot
  else
    match s.group? uid with
    | some m => if m.kern.smem < a + n then prot else if m.started then .ok (.pad uid a) else .ok .away
    | none =>
      match s.anyGroup uid with
      | some m => if m.kern.smem < a + n then prot else .ok .away
      | none => prot

/-- The space that a memory instruction reaches. -/
inductive Space where
  | global | pad | cluster
  deriving DecidableEq, Repr

/-- Checks 2 to 4 for a thread. -/
def TEnv.checkOne (e : TEnv) (s : State) (sp : Space) (n : Nat) (need : Need) (t : Nat) : State × Except Bad Place :=
  match sp with
  | .global => s.checkGlobal e.g (e.globalAddr t) n need
  | .pad => (s, e.g.checkPad (e.padAddr t) n)
  | .cluster => (s, s.checkCluster e.g (e.padAddr t) n)

/-- Checks 2 to 4 over threads, in ascending order. -/
def TEnv.checkAll (e : TEnv) (s : State) (sp : Space) (n : Nat) (need : Need) (ts : List Nat) :
    State × List (Nat × Except Bad Place) :=
  ts.foldl (fun a t => let r := e.checkOne a.1 sp n need t; (r.1, a.2 ++ [(t, r.2)])) (s, [])

/-- The failing check that comes first in R251's order, of the lowest-numbered thread that fails it. -/
def firstBad (l : List (Nat × Except Bad Place)) : Option (Nat × Bad) :=
  let bad := l.filterMap fun p => match p.2 with | .error b => some (p.1, b) | .ok _ => none
  [2, 3, 4].findSome? fun o => bad.find? fun p => p.2.ord == o

/-- The trap of a failed check: a translation fault parks the instruction (R221). -/
def Bad.res (b : Bad) (s : State) (agent : Nat) : TRes :=
  if b.cause = .xlate then .park s b.tval.toNat b.xl agent else .trap b.cause b.tval

/-- n bytes read at a place, at a scope. -/
def State.placeRead (s : State) (g : Group) (sc n : Nat) : Place → State × Nat
  | .glob p => s.gLoad g.core g.tenant sc p n
  | .pad uid a => (s, match s.group? uid with | some m => s.spNat m a n | none => 0)
  | .away => (s, 0)

/-- n bytes written at a place, at a scope. -/
def State.placeWrite (s : State) (g : Group) (sc n v : Nat) : Place → State
  | .glob p => s.gStore g.core g.tenant sc p n v
  | .pad uid a => s.spPuts uid a (leBytes n v)
  | .away => s

/-- Scope and semantics of the second word (R70). -/
def TEnv.scope (e : TEnv) : Nat := e.i.ext.scope.toNat
def TEnv.isAcq (e : TEnv) : Bool := bit e.i.ext.sem 0
def TEnv.isRel (e : TEnv) : Bool := bit e.i.ext.sem 1

/-- A release before the instruction's own access, an acquire after it (R266, R267). -/
def TEnv.pre (e : TEnv) (s : State) : State := if e.isRel then s.release e.g.tenant e.g.core e.scope else s
def TEnv.post (e : TEnv) (s : State) : State := if e.isAcq then s.acquire e.g.core e.scope else s

/-! ### Loads and stores (R248, R252, R253) -/

/-- Bytes of an access size. -/
def accessBytes (mod : Nat) : Nat :=
  match mod with | 1 | 2 => 1 | 3 | 4 => 2 | 5 => 8 | 6 => 16 | _ => 4
/-- Registers of an access size. -/
def accessRegs (mod : Nat) : Nat := match mod with | 5 => 2 | 6 => 4 | _ => 1
/-- A loaded value as the destination receives it. -/
def loadValue (mod v : Nat) : BitVec 128 :=
  match mod with
  | 2 => (BitVec.ofInt 32 (sextI 8 v)).setWidth 128
  | 4 => (BitVec.ofInt 32 (sextI 16 v)).setWidth 128
  | _ => BitVec.ofNat 128 v

/-- DFREC with a fault recorded while none is held (R219). -/
def Warp.record (w : Warp) (b : Option (Nat × Bad)) : Warp :=
  match b with
  | none => w
  | some (_, b) =>
    if bit w.dfrec 8 then w
    else { w with dfrec := BitVec.ofNat 64 (2 ^ 12 * (b.tval.toNat % 2 ^ 52) + 2 ^ 8 + b.cause.code) }

/-- The failing thread of the lowest number, with its own first failing check (R252). -/
def lowestBad (l : List (Nat × Except Bad Place)) : Option (Nat × Bad) :=
  (l.filterMap fun p => match p.2 with | .error b => some (p.1, b) | .ok _ => none).head?

/-- The reads of threads at their places, in ascending order, with the values (R253). -/
def TEnv.readAll (e : TEnv) (n : Nat) (s : State) (l : List (Nat × Except Bad Place)) : State × SMap Nat :=
  l.foldl (fun (a : State × SMap Nat) p =>
    match p.2 with
    | .ok pl => let x := a.1.placeRead e.g e.scope n pl; (x.1, SMap.put a.2 p.1 x.2)
    | .error _ => a) (s, [])

/-- Some place is in a cluster member that is not resident. -/
def anyAway (l : List (Nat × Except Bad Place)) : Bool := l.any fun p => match p.2 with | .ok .away => true | _ => false

/-- A load of any space. -/
def loadBody (sp : Space) (e : TEnv) : TRes :=
  let pm := e.poisoned &&& e.act
  if e.i.spec = 0 && pm &&& e.parts != 0 then .trap .poison 0
  else
    let n := accessBytes e.mod
    let c := e.checkAll e.base sp n .read (lanesOf (e.act &&& ~~~pm))
    let mine := c.2.filter fun p => bit e.parts p.1
    match (if e.i.spec = 0 then firstBad mine else none) with
    | some (_, b) => b.res c.1 0
    | none =>
      if anyAway c.2 then .wait e.w
      else
        let r := e.readAll n c.1 c.2
        let zero : BitVec 32 := maskOf 32 32 fun t => bit e.act t && (SMap.find r.2 t).isNone
        let v (t : Nat) : BitVec 128 := match SMap.find r.2 t with | some x => loadValue e.mod x | none => 0
        let w := if e.i.spec = 0 then e.w else e.w.record (lowestBad mine)
        .ok (if e.act = 0 then r.1 else e.post r.1)
          { w with regs := w.regs.writeDst e.i.dst (accessRegs e.mod) e.act v zero } 0

/-- Data of a store or an atomic in a thread. -/
def TEnv.data (e : TEnv) (regs t : Nat) : Nat :=
  match regs with
  | 1 => (e.src 3 .int t).toNat
  | 2 => (e.src64 3 t).toNat
  | _ => (e.src128 3 t).toNat

/-- The writes of threads at their places, in ascending order: where two write a byte, the highest-numbered
thread's value stays (R254). -/
def TEnv.writeAll (e : TEnv) (n : Nat) (s : State) (l : List (Nat × Except Bad Place)) : State :=
  l.foldl (fun s p =>
    match p.2 with
    | .ok pl => s.placeWrite e.g e.scope n (e.data (accessRegs e.mod) p.1 % 2 ^ (8 * n)) pl
    | .error _ => s) s

/-- Some place is on a RING page (R235). -/
def onRing (l : List (Nat × Except Bad Place)) : Bool :=
  l.any fun p => match p.2 with | .ok (.glob q) => q.kind == 2 | _ => false

/-- The packets that an instruction's writes of n bytes to RING pages may publish, and their side effect, one for the
instruction (R235); `more` says that it has one whatever its pages. -/
def TEnv.ringWrites (e : TEnv) (more : Bool) (n : Nat) (s : State) (l : List (Nat × Except Bad Place)) : State :=
  let s := l.foldl (fun s p => match p.2 with | .ok (.glob q) => s.wroteRing e.g.uid q n | _ => s) s
  if more || onRing l then s.sideEffect e.g.uid else s

/-- A store of any space; helpers store nothing (R129, R254). -/
def storeBody (sp : Space) (e : TEnv) : TRes :=
  if e.poisoned &&& e.parts != 0 then .trap .poison 0
  else
    let n := accessBytes e.mod
    let c := e.checkAll e.base sp n .write (lanesOf e.parts)
    match firstBad c.2 with
    | some (_, b) => b.res c.1 1
    | none =>
      if anyAway c.2 then .wait e.w
      else if e.parts = 0 then .ok e.base e.w 0
      else
        let s := e.writeAll n (e.pre c.1) c.2
        .ok (e.ringWrites false n s c.2) e.w 0

def execLd (w : TWord) (s : State) : Host.Outcome State Fault Refusal := tIssue 0x60 w s (loadBody .global)
def execSt (w : TWord) (s : State) : Host.Outcome State Fault Refusal := tIssue 0x61 w s (storeBody .global)
def execLds (w : TWord) (s : State) : Host.Outcome State Fault Refusal := tIssue 0x62 w s (loadBody .pad)
def execSts (w : TWord) (s : State) : Host.Outcome State Fault Refusal := tIssue 0x63 w s (storeBody .pad)
def execLdx (w : TWord) (s : State) : Host.Outcome State Fault Refusal := tIssue 0x64 w s (loadBody .cluster)
def execStx (w : TWord) (s : State) : Host.Outcome State Fault Refusal := tIssue 0x65 w s (storeBody .cluster)

/-! ### Atomics (R255 to R258) -/

/-- Operand width of an operation in bytes. -/
def atomBytes (mod : Nat) : Nat := if atomIs64 mod then 8 else 4

/-- Two 16-bit elements each combined. -/
def pairwise (f : Nat → Nat → Nat) (a b : Nat) : Nat := f (a % 2 ^ 16) (b % 2 ^ 16) + 2 ^ 16 * f (a / 2 ^ 16) (b / 2 ^ 16)

/-- old ⊕ v of R255. -/
def atomOp (mod old v : Nat) : Nat :=
  let sg (x : Nat) : Int := (BitVec.ofNat 32 x).toInt
  let fp (x : Nat) : Word := BitVec.ofNat 32 x
  match mod with
  | 0x0 => (old + v) % 2 ^ 32
  | 0x1 => (old + v) % 2 ^ 64
  | 0x2 => min old v
  | 0x3 => if sg v < sg old then v else old
  | 0x4 => max old v
  | 0x5 => if sg old < sg v then v else old
  | 0x6 => old &&& v
  | 0x7 => old ||| v
  | 0x8 => old ^^^ v
  | 0xB => (fadd .rne (fp old) (fp v)).toNat
  | 0xC => pairwise (fun a b => bf16.round .rne false (FVal.sum .rne [bf16.decode a, bf16.decode b])) old v
  | 0xD => (fminmax false false (fp old) (fp v)).toNat
  | 0xE => (fminmax true false (fp old) (fp v)).toNat
  | _ => v

/-- The lanes of one request (R256): equal addresses, in ascending lane order, by the first lane. -/
def requests (l : List (Nat × DWord)) : List (List Nat) :=
  let firsts := l.filter fun p => (l.find? fun q => q.2 == p.2) == some p
  firsts.map fun p => (l.filter fun q => q.2 == p.2).map Prod.fst

/-- One request of ATOM or RED: the memory's new value, and each lane's old value (R256). -/
def aggregate (mod : Nat) (vs : List Nat) (m : Nat) : Nat × List Nat :=
  match vs with
  | [] => (m, [])
  | v :: rest =>
    let r := rest.foldl (fun (a : Nat × List Nat) x => (atomOp mod a.1 x, a.2 ++ [atomOp mod m a.1])) (v, [m])
    (atomOp mod m r.1, r.2)

/-- One request of CAS: lanes in ascending order (R257). -/
def casLanes (vs : List (Nat × Nat)) (m : Nat) : Nat × List Nat :=
  vs.foldl (fun (a : Nat × List Nat) p => (if a.1 = p.1 then p.2 else a.1, a.2 ++ [a.1])) (m, [])

/-- The page of a thread's checked global access. -/
def pageFor (l : List (Nat × Except Bad Place)) (t : Nat) : Option Page :=
  (l.find? fun p => p.1 == t).bind fun p => match p.2 with | .ok (.glob q) => some q | _ => none

/-- The requests of an atomic instruction, one per address, each performed as one atomic access: the threads' old values
(R256, R258). -/
def TEnv.atomAll (e : TEnv) (n : Nat) (run : TEnv → List Nat → Nat → Nat × List Nat) (s : State)
    (l : List (Nat × Except Bad Place)) : State × SMap Nat :=
  (requests ((lanesOf e.parts).map fun t => (t, e.globalAddr t))).foldl (fun (a : State × SMap Nat) ls =>
    match ls.head?.bind (pageFor l) with
    | none => a
    | some p =>
      let r := a.1.gAtomic e.g.core e.g.tenant e.scope p n fun m => (run e ls m).1
      (r.1, (ls.zip (run e ls r.2).2).foldl (fun o q => SMap.put o q.1 q.2) a.2)) (s, [])

/-- ATOM, CAS and RED: `n` the operand width, `run` what a request of lanes does to a value. -/
def atomBody (n : Nat) (dst : Bool) (run : TEnv → List Nat → Nat → Nat × List Nat) (e : TEnv) : TRes :=
  if e.poisoned &&& e.parts != 0 then .trap .poison 0
  else
    let c := e.checkAll e.base .global n .atomic (lanesOf e.parts)
    match firstBad c.2 with
    | some (_, b) => b.res c.1 1
    | none =>
      let r := e.atomAll n run (if e.parts = 0 then c.1 else e.pre c.1) c.2
      let s := if e.parts = 0 then r.1 else e.post r.1
      let s := if e.parts = 0 then s else e.ringWrites (e.scope != 0) n s c.2
      if dst then
        let v (t : Nat) : BitVec 128 := BitVec.ofNat 128 ((SMap.find r.2 t).getD 0)
        (e.resultOf 0 (n / 4) v fun _ => none).onto s
      else .ok s e.w 0

/-- The operand of ATOM or RED in a thread: an FP32 operand for .FADD.f32, .FMIN.f32 and .FMAX.f32 (R67). -/
def TEnv.atomData (e : TEnv) (t : Nat) : Nat :=
  if e.mod = 0xB ∨ e.mod = 0xD ∨ e.mod = 0xE then (e.src 3 .f32 t).toNat else e.data (atomBytes e.mod / 4) t

/-- What a request of ATOM or RED does. -/
def atomRun (e : TEnv) (ls : List Nat) (m : Nat) : Nat × List Nat := aggregate e.mod (ls.map e.atomData) m

/-- What a request of CAS does. -/
def casRun (e : TEnv) (ls : List Nat) (m : Nat) : Nat × List Nat :=
  casLanes (ls.map fun t =>
    if e.mod = 0 then ((e.src64 3 t).toNat % 2 ^ 32, (e.src64 3 t).toNat / 2 ^ 32)
    else ((e.src128 3 t).toNat % 2 ^ 64, (e.src128 3 t).toNat / 2 ^ 64)) m

def execAtom (w : TWord) (s : State) : Host.Outcome State Fault Refusal :=
  tIssue 0x66 w s (atomBody (atomBytes w.mod.toNat) true atomRun)
def execCas (w : TWord) (s : State) : Host.Outcome State Fault Refusal :=
  tIssue 0x67 w s (atomBody (if w.mod = 0 then 4 else 8) true casRun)
def execRed (w : TWord) (s : State) : Host.Outcome State Fault Refusal :=
  tIssue 0x68 w s (atomBody (atomBytes w.mod.toNat) false atomRun)

/-! ### Hints and FENCE -/

/-- The page of a hint, with the state after its translation; none where the hint is dropped (R259). -/
def State.hintPage (s : State) (g : Group) (a : Nat) : State × Option Page :=
  if 2 ^ 52 ≤ a then (s, none)
  else
    let r := s.translate g.core g.tenant g.asid a
    (r.1, match r.2 with | .ok p => if p.r then some p else none | .error _ => none)

/-- PFH for a thread (R259). The fill reads no byte for the program, so that no soft error strikes by it. -/
def TEnv.prefetch (e : TEnv) (s : State) (t : Nat) : State :=
  let g := e.g
  let r := s.hintPage g (e.globalAddr t).toNat
  match r.2 with
  | none => r.1.hintDrop g.tenant 1
  | some p =>
    let ln := p.pa / 128
    if e.mod = 0 then
      if (r.1.l1Line g.core ln).valid = BitVec.allOnes 128 then r.1
      else
        let s' := (r.1.gLoad g.core g.tenant 0 { p with pa := 128 * ln } 128).1
        { s' with ctl := { s'.ctl with struck := s.ctl.struck } }
    else if p.kind = 0 then (r.1.fillDie g.tenant (dieOf g.core) ln p.comp).1
    else r.1

def execPfh (w : TWord) (s : State) : Host.Outcome State Fault Refusal :=
  tIssue 0x69 w s fun e =>
    if e.poisoned &&& e.parts != 0 then .trap .poison 0
    else .ok ((lanesOf e.parts).foldl e.prefetch e.base) e.w 0

/-- Lines that a die cache may mark (R260). -/
def keepLimit : Nat := 524288

/-- RESIDE on the pages of a thread's range: what has been done, whether a line was skipped or found
the limit, and the regions touched. -/
structure Reside where
  s : State
  skipped : Bool
  full : Bool
  regions : List Nat

/-- RESIDE on the lines of one 64 KiB page of the range (R260). A die cache marks no line of a FRAME or RING page, which it
never holds (R244). -/
def resideChunk (g : Group) (mod : Nat) (a : Reside) (va lines : Nat) : Reside :=
  let r := a.s.hintPage g va
  match r.2 with
  | none => { a with s := r.1, skipped := true }
  | some p =>
    let d := dieOf g.core
    let ls := (List.range lines).map fun i => p.pa / 128 + i
    match mod with
    | 0 =>
      let die := r.1.die d
      let new := if p.kind = 0 then ls.filter fun l => !die.keep.contains l else []
      let kept := new.take (keepLimit - die.keep.length)
      { a with
        s := r.1.setDie d { die with keep := die.keep ++ kept, first := die.first.filter fun l => !kept.contains l },
        full := a.full || decide (kept.length < new.length) }
    | 1 =>
      let die := r.1.die d
      let new := if p.kind = 0 then ls.filter fun l => !die.first.contains l else []
      { a with s := r.1.setDie d { die with keep := die.keep.filter fun l => !ls.contains l, first := die.first ++ new } }
    | _ => { a with s := r.1, regions := if a.regions.contains (p.pa / 2 ^ 21) then a.regions else (p.pa / 2 ^ 21) :: a.regions }

/-- RESIDE for a thread (R260). -/
def TEnv.resideOne (e : TEnv) (s : State) (t : Nat) : State :=
  let a := (e.globalAddr t).toNat
  let n := (e.src 3 .int t).toNat
  if n = 0 then s
  else
    let l0 := a / 128
    let l1 := (a + min n (2 ^ 21) - 1) / 128
    let r := (List.range (l1 / 512 + 1 - l0 / 512)).foldl
      (fun r i =>
        let pg := l0 / 512 + i
        let lo := max l0 (512 * pg)
        resideChunk e.g e.mod r (128 * lo) (min l1 (512 * pg + 511) + 1 - lo))
      { s := s, skipped := false, full := false, regions := [] }
    let s := r.regions.foldl (fun s k => s.heat e.g.tenant (2 ^ 21 * k)) r.s
    let s := if r.skipped then s.hintDrop e.g.tenant 1 else s
    if r.full then s.hintDrop e.g.tenant 1 else s

def execReside (w : TWord) (s : State) : Host.Outcome State Fault Refusal :=
  tIssue 0x6A w s fun e =>
    if e.poisoned &&& e.parts != 0 then .trap .poison 0
    else .ok ((lanesOf e.parts).foldl e.resideOne e.base) e.w 0

/-- FENCE (R270, R271). -/
def execFence (w : TWord) (s : State) : Host.Outcome State Fault Refusal :=
  tIssue 0x6B w s fun e => .ok (if e.act = 0 then e.base else e.post (e.pre e.base)) e.w 0

/-! ### CBLD (R118) -/

/-- CBLD: the 16 bytes are read at issue; the slot is filled, and the push made, by CBLD_FILL. -/
def execCbld (w : TWord) (s : State) : Host.Outcome State Fault Refusal :=
  tIssue 0x38 w s fun e =>
    if e.w.cbPend.any fun p => p.1 == e.mod then .wait e.w
    else
      match lowest e.act with
      | none => .ok e.base e.w 0
      | some t =>
        let a := (e.padAddr t).toNat
        let stop (c : Cause) (v : DWord) : TRes := if bit e.hlp t then .ok e.base e.w 0 else .trap c v
        if bit e.poisoned t then stop .poison 0
        else if a % 16 ≠ 0 then stop .align (BitVec.ofNat 64 a)
        else if e.g.kern.smem < a + 16 then stop .prot (BitVec.ofNat 64 a)
        else
          let x := BitVec.ofNat 128 (e.s.spNat e.g a 16)
          .late e.base { e.w with cbPend := e.w.cbPend ++ [(e.mod, e.i.pushq.toNat, x)] }

/-- The fill of the codebook slot `arg.ch` of warp `arg.slot` arrives: its entries, then its push (R118). A full queue
leaves the push due, and holds the warp's next turn and its later fills until it is made (R298, log 60). -/
def execCbldFill (s : State) : Host.Outcome State Fault Refusal :=
  let a := s.ctl.arg
  match s.group? a.uid with
  | none => s.notDue
  | some g =>
    match g.warp? a.slot with
    | none => s.notDue
    | some w =>
      match w.cbPend.find? fun p => p.1 == a.ch with
      | none => s.notDue
      | some (k, q, x) =>
        if w.pushDue.isSome then .next s
        else
          let cb := SMap.setList 0 w.cb (8 * k) ((List.range 8).map fun e => x.extractLsb' (16 * e) 16)
          let w' := { w with cb := cb, cbPend := w.cbPend.filter fun p => p.1 != k }
          .next ((s.setWarp a.uid a.slot w').pushDone a.uid a.slot q)

end Sys2Proof.Machine
end

