-- ==== Sys2Proof/Machine/TSem.lean ====
section
/-!
DEFINITION. The T semaphore instructions (R423 to R426).
-/

namespace Sys2Proof.Machine

/-- Semaphore i of a core belongs to the tenant (R423). -/
def semOwned (tenant i : Nat) : Bool := decide (i < 64) && i / 4 == tenant

/-- A semaphore instruction of a warp (R426): the chosen thread, its checks, then `body` on the index and
operand B. A chosen helper that fails a check raises nothing, and 0 with poison set is written (R129, log 26). -/
def semIssue (op : Nat) (w : TWord) (s : State) (choose : TEnv → Option Nat) (body : TEnv → Nat → Word → TRes) :
    Host.Outcome State Fault Refusal :=
  tIssue op w s fun e =>
    match choose e with
    | none => e.resultOf 0 1 (fun _ => 0) fun _ => none
    | some t =>
      let i := (e.int 1 t).toNat
      let helper := bit e.hlp t
      if bit e.poisoned t then (if helper then e.lost 1 else .trap .poison 0)
      else if !semOwned e.g.tenant i then (if helper then e.lost 1 else .trap .prot (BitVec.ofNat 64 i))
      else body e i (e.int 2 t)

/-- SEMADD and SEMSET (R426): a release, the update, the old value. -/
def semUpdate (f : Word → Word → Word) (e : TEnv) (i : Nat) (b : Word) : TRes :=
  let s := e.pre e.base
  let old := s.sem e.g.core i
  let s := (s.semSet e.g.core i (f old b)).sideEffect e.g.uid
  (e.resultOf 0 1 (fun _ => old.setWidth 128) fun _ => none).onto s

def execSemadd (w : TWord) (s : State) : Host.Outcome State Fault Refusal :=
  semIssue 0x75 w s (fun e => lowest e.parts) (semUpdate semAdd)
def execSemset (w : TWord) (s : State) : Host.Outcome State Fault Refusal :=
  semIssue 0x76 w s (fun e => lowest e.parts) (semUpdate fun _ b => b)

/-- The value that ends a wait on semaphore i with threshold b, where one has been seen (R424, R426). -/
def State.semHit (s : State) (x : Option SemWait) (c i : Nat) (b : Word) : Option Word :=
  match x with
  | some x => x.hit
  | none => if b.toNat ≤ (s.sem c i).toNat then some (s.sem c i) else none

def execSemwait (w : TWord) (s : State) : Host.Outcome State Fault Refusal :=
  semIssue 0x77 w s (fun e => lowest e.act) fun e i b =>
    match e.base.semHit e.w.semWait e.g.core i b with
    | none => .wait { e.w with semWait := some (e.w.semWait.getD { idx := i, thresh := b, hit := none }) }
    | some v =>
      match e.resultOf 0 1 (fun _ => v.setWidth 128) fun _ => none with
      | .ok s w' red => .ok (e.post s) { w' with semWait := none } red
      | r => r

end Sys2Proof.Machine
end

