-- ==== Sys2Proof/Machine/AStream.lean ====
section
/-!
DEFINITION. The access stream's own instructions (spec 08), its queue instructions (15), its semaphore
instructions (22) and its trap return (R224).
-/

namespace Sys2Proof.Machine

/-! ### Arithmetic, comparison and moves (R162 to R165) -/

/-- The amount of a shift (R162): bits 5:0 of an immediate, all of a register or of IMM32. -/
def AEnv.shift (e : AEnv) : Nat :=
  if e.p.iuse = 1 then (e.p.imm32.signExtend 64).toNat
  else if bit e.i.s2 9 then e.i.s2bits 5 0
  else (e.a.reg (e.i.s2bits 4 0)).toNat

/-- .S of ASHR (R162): bit 6 of S2 with an immediate or IMM32, XS bit 5 with a register. -/
def AEnv.shiftSigned (e : AEnv) : Bool :=
  if e.p.iuse = 1 || bit e.i.s2 9 then bit e.i.s2 6 else bit e.i.s2 5

def aShl (e : AEnv) : DWord := if 64 ≤ e.shift then 0 else e.s1 <<< e.shift
def aShr (e : AEnv) : DWord :=
  if e.shiftSigned then e.s1.sshiftRight (min 64 e.shift) else if 64 ≤ e.shift then 0 else e.s1 >>> e.shift

/-- ASEL (R163). -/
def aSel (e : AEnv) : DWord :=
  if bit e.a.p (e.i.s2bits 6 5) != bit e.i.s2 7 then e.s1 else e.a.reg (e.i.s2bits 4 0)

/-- ACMP (R163). -/
def aCmp (e : AEnv) : ARes :=
  let n := (e.i.d.extractLsb' 0 2).toNat
  .ok e.base { e.a with p := setBit e.a.p n (condA (e.i.d.extractLsb' 2 3).toNat e.s1 e.s2) } 0 false

def execAadd (w : AWord) (s : State) : Host.Outcome State Fault Refusal := aAlu 0x01 none w s fun e => e.s1 + e.s2
def execAaddLong (p : APrefix) (w : AWord) (s : State) : Host.Outcome State Fault Refusal :=
  aAlu 0x01 (some p) w s fun e => e.s1 + e.s2
def execAsub (w : AWord) (s : State) : Host.Outcome State Fault Refusal := aAlu 0x02 none w s fun e => e.s1 - e.s2
def execAsubLong (p : APrefix) (w : AWord) (s : State) : Host.Outcome State Fault Refusal :=
  aAlu 0x02 (some p) w s fun e => e.s1 - e.s2
def execAmul (w : AWord) (s : State) : Host.Outcome State Fault Refusal := aAlu 0x03 none w s fun e => e.s1 * e.s2
def execAmulLong (p : APrefix) (w : AWord) (s : State) : Host.Outcome State Fault Refusal :=
  aAlu 0x03 (some p) w s fun e => e.s1 * e.s2
def execAand (w : AWord) (s : State) : Host.Outcome State Fault Refusal := aAlu 0x04 none w s fun e => e.s1 &&& e.s2
def execAandLong (p : APrefix) (w : AWord) (s : State) : Host.Outcome State Fault Refusal :=
  aAlu 0x04 (some p) w s fun e => e.s1 &&& e.s2
def execAor (w : AWord) (s : State) : Host.Outcome State Fault Refusal := aAlu 0x05 none w s fun e => e.s1 ||| e.s2
def execAorLong (p : APrefix) (w : AWord) (s : State) : Host.Outcome State Fault Refusal :=
  aAlu 0x05 (some p) w s fun e => e.s1 ||| e.s2
def execAxor (w : AWord) (s : State) : Host.Outcome State Fault Refusal := aAlu 0x06 none w s fun e => e.s1 ^^^ e.s2
def execAxorLong (p : APrefix) (w : AWord) (s : State) : Host.Outcome State Fault Refusal :=
  aAlu 0x06 (some p) w s fun e => e.s1 ^^^ e.s2
def execAshl (w : AWord) (s : State) : Host.Outcome State Fault Refusal := aAlu 0x07 none w s aShl
def execAshlLong (p : APrefix) (w : AWord) (s : State) : Host.Outcome State Fault Refusal := aAlu 0x07 (some p) w s aShl
def execAshr (w : AWord) (s : State) : Host.Outcome State Fault Refusal := aAlu 0x08 none w s aShr
def execAshrLong (p : APrefix) (w : AWord) (s : State) : Host.Outcome State Fault Refusal := aAlu 0x08 (some p) w s aShr

/-- AMOV (R164): XS 0 to a register, 1 to a loop counter, 2 from a loop counter. D of a write to a loop counter is taken to be
no D of R158, so that its push carries 0 (log 60). -/
def execAmov (w : AWord) (s : State) : Host.Outcome State Fault Refusal :=
  aIssue 0x09 none w s fun e =>
    let y := e.a.reg (e.i.s2bits 4 0)
    match e.i.s2bits 9 5 with
    | 0 => .ok e.base (e.a.setReg e.i.d.toNat y) (y.setWidth 32) false
    | 1 => .ok e.base (e.a.setLoop (e.i.d.extractLsb' 0 2).toNat (y.setWidth 32)) 0 false
    | _ =>
      let v := e.a.loop (e.i.s2bits 1 0)
      .ok e.base (e.a.setReg e.i.d.toNat (v.setWidth 64)) v false

def execAmovi (w : AWord) (s : State) : Host.Outcome State Fault Refusal :=
  aAlu 0x0A none w s fun e => e.i.s2.signExtend 64
def execAmoviLong (p : APrefix) (w : AWord) (s : State) : Host.Outcome State Fault Refusal :=
  aAlu 0x0A (some p) w s fun e => e.p.imm32.signExtend 64
/-- AMOVI.H (R164). -/
def execAmoviH (p : APrefix) (w : AWord) (s : State) : Host.Outcome State Fault Refusal :=
  aAlu 0x0A (some p) w s fun e => e.p.imm32 ++ (e.a.reg e.i.d.toNat).extractLsb' 0 32

def execAcmp (w : AWord) (s : State) : Host.Outcome State Fault Refusal := aIssue 0x0B none w s aCmp
def execAcmpLong (p : APrefix) (w : AWord) (s : State) : Host.Outcome State Fault Refusal := aIssue 0x0B (some p) w s aCmp
def execAsel (w : AWord) (s : State) : Host.Outcome State Fault Refusal := aAlu 0x0C none w s aSel
def execAselLong (p : APrefix) (w : AWord) (s : State) : Host.Outcome State Fault Refusal := aAlu 0x0C (some p) w s aSel

/-- The values that AS2A reads (R165). -/
def AEnv.special (e : AEnv) (n : Nat) : DWord :=
  let g := e.g
  match n with
  | 5 => BitVec.ofNat 64 g.gid
  | 6 => g.gxyz
  | 7 => BitVec.ofNat 64 (g.gid % g.ln.clg)
  | 8 => BitVec.ofNat 64 (g.gid / g.ln.clg)
  | 9 => BitVec.ofNat 64 g.grid
  | 10 => (e.s.core g.core).clk
  | 13 => BitVec.ofNat 64 g.kern.ver
  | 32 => e.a.trap.tcause.setWidth 64
  | 33 => e.a.trap.tpc.setWidth 64
  | 34 => e.a.trap.tinst
  | 35 => 0
  | 36 => e.a.trap.tval
  | 37 => e.a.tframe
  | 38 => 0
  | 39 => e.a.safecnt.setWidth 64
  | 48 => BitVec.ofNat 64 (lanesOf g.liveSet).length
  | 49 => BitVec.ofNat 64 g.actx
  | 50 => e.a.apc.setWidth 64
  | _ => (g.ln.kregs[n - 16]?).getD 0

def execAs2a (w : AWord) (s : State) : Host.Outcome State Fault Refusal :=
  aAlu 0x0D none w s fun e => e.special (e.i.s2bits 9 0)
def execAnop (w : AWord) (s : State) : Host.Outcome State Fault Refusal :=
  aIssue 0x0E none w s fun e => .ok e.base e.a 0 false

/-! ### Branches and loops (R166, R167) -/

/-- APC + 4 × the 15-bit displacement in S1 and S2. -/
def AEnv.target15 (e : AEnv) : Word := e.a.apc + 4 * (e.i.s1 ++ e.i.s2).signExtend 32
/-- APC + 4 × the 20-bit displacement in D, S1 and S2. -/
def AEnv.target20 (e : AEnv) : Word := e.a.apc + 4 * (e.i.d ++ e.i.s1 ++ e.i.s2).signExtend 32

def execAbr (w : AWord) (s : State) : Host.Outcome State Fault Refusal :=
  aIssue 0x10 none w s fun e =>
    if bit e.a.p (e.i.d.extractLsb' 0 2).toNat != bit e.i.d 2 then .ok e.base { e.a with apc := e.target15 } 0 true
    else .ok e.base e.a 0 false

/-- AJMP (R166); the first taken one ends an A restore routine (R230). -/
def execAjmp (w : AWord) (s : State) : Host.Outcome State Fault Refusal :=
  aIssue 0x11 none w s fun e =>
    .ok e.base { e.a with apc := e.target20, mode := match e.a.mode with | .restoring _ => .running | m => m } 0 true

def execAcall (w : AWord) (s : State) : Host.Outcome State Fault Refusal :=
  aIssue 0x12 none w s fun e =>
    let r := e.a.apc + 4
    .ok e.base ({ e.a with apc := e.target15 }.setReg e.i.d.toNat (r.setWidth 64)) r true

def execAret (w : AWord) (s : State) : Host.Outcome State Fault Refusal :=
  aIssue 0x13 none w s fun e =>
    let t := (e.a.reg e.i.s1.toNat).setWidth 32
    if t.toNat % 4 ≠ 0 then .trap .align (t.setWidth 64) else .ok e.base { e.a with apc := t } 0 true

/-- ALOOP (R167). -/
def execAloop (w : AWord) (s : State) : Host.Outcome State Fault Refusal :=
  aIssue 0x14 none w s fun e =>
    let n := (e.i.d.extractLsb' 0 2).toNat
    let c := if e.a.loop n = 0 then 0 else e.a.loop n - 1
    let a := e.a.setLoop n c
    if c = 0 then .ok e.base a 0 false else .ok e.base { a with apc := e.target15 } 0 true

/-! ### Ending, safe points and traps (R170 to R173) -/

/-- The group has no command of the kinds in a mask outstanding (R170). -/
def State.drained (s : State) (g : Group) (mask : Nat) : Bool :=
  let m := if mask = 0 then 7 else mask
  let c := s.core g.core
  (m % 2 == 0 || c.ta.queue.all fun x => x.uid != g.uid) &&
  (m / 2 % 2 == 0 || c.chans.all fun p => p.2.all fun x => x.uid != g.uid)

def execAend (w : AWord) (s : State) : Host.Outcome State Fault Refusal :=
  aIssue 0x15 none w s fun e =>
    if e.s.drained e.g (e.i.s2bits 2 0) then .ok e.base e.a 0 false else .wait e.a

/-- ASAFE (R172): under a pending request the context stops here and runs its save routine (R227, R228). -/
def execAsafe (w : AWord) (s : State) : Host.Outcome State Fault Refusal :=
  aIssue 0x16 none w s fun e =>
    let n := e.i.s2bits 7 0
    let a := { e.a with safecnt := 0 }
    if e.g.preempt && a.mode == .running && !a.inHandler then
      let pc := ((((e.g.kern.safe[n]?).getD [])[2]?).getD none).getD 0
      .ok e.base { a with mode := .saving n, apc := BitVec.ofNat 32 pc } 0 true
    else .ok e.base a 0 false

/-- A token with its ERR bit clear. -/
def clearErr (w : Word) : Word := w &&& 0x7FFFFFFF

/-- A Trit Array fault of a token delivered (R195): ERR clear in it, FPEND clear where it is that fault. -/
def State.deliverTa (s : State) (g : Group) (tok : Word) : State :=
  let c := s.core g.core
  let mine := c.ta.fpend && c.ta.fowner == g.uid && c.ta.fseq == bitsOf tok.toNat 15 0
  let s := s.setCore g.core { c with ta := { c.ta with fpend := c.ta.fpend && !mine } }
  s.setGroup { g with queues := { g.queues with t6 := updFirst (· == tok) clearErr g.queues.t6 } }

/-- AEXIT (R171, R195, R282): the waits, the faults not yet delivered, the crown, and the end of the
stream. At the end of a save routine it only waits and passes the crown: a fault stays with its token
(R228, R229). -/
def execAexit (s : State) : Host.Outcome State Fault Refusal :=
  aIssue 0x17 none AWord.zero s fun e =>
    let saving := match e.a.mode with | .saving _ => true | _ => false
    if !e.s.drained e.g 0 then .wait e.a
    else
      match (if saving then none else e.g.queues.t6.find? fun t => bit t 31) with
      | some tok =>
        let s := e.base.deliverTa e.g tok
        .trapAt s .tafault (s.core e.g.core).ta.status
      | none =>
        match (if saving then none else e.g.queues.t7.find? fun t => bit t 31) with
        | some tok =>
          let g := { e.g with queues := { e.g.queues with t7 := updFirst (· == tok) clearErr e.g.queues.t7 } }
          let info := (e.g.ceInfo.find? fun p => p.1 == bitsOf tok.toNat 15 0).map Prod.snd
          .trapAt (e.s.setGroup g) .cefault (BitVec.ofNat 64 (tok.toNat + 2 ^ 32 * info.getD 0))
        | none =>
          let c := e.s.core e.g.core
          let held := c.ta.held && e.g.ring == some c.ta.holder
          let s := if held then e.base.setCore e.g.core { c with ta := c.ta.leave c.ta.holder false } else e.base
          match e.a.mode with
          | .saving n => .ok (s.setGroup { e.g with heldAtSave := held }) { e.a with mode := .saved n } 0 true
          | _ => .ok s { e.a with ended := true, mode := .running } 0 true

def execAtrap (w : AWord) (s : State) : Host.Outcome State Fault Refusal :=
  aIssue 0x18 none w s fun e => .trap .trap (BitVec.ofNat 64 (e.i.s2bits 7 0))

/-- ARET.T (R173, R224); a nonzero reserved field of the frame fails as a misaligned TPC does (R6, log 60). -/
def execAretT (s : State) : Host.Outcome State Fault Refusal :=
  aIssue 0x19 none AWord.zero s fun e =>
    if !e.a.inHandler then .trap .illinst 0
    else
      let a := e.a.tframe.toNat
      let t := e.base.translate e.g.core e.g.tenant e.g.asid a
      match t.2 with
      | .error k => .park t.1 a k
      | .ok p =>
        if !p.r then .trap .prot (BitVec.ofNat 64 a)
        else
          let r := t.1.gLoadList e.g.core e.g.tenant 0 p 128
          let pc := wordAt r.2 0x50 4
          if pc % 4 ≠ 0 || !aFrameZeros r.2 then .trap .align (BitVec.ofNat 64 pc) else .ok r.1 (e.a.leave r.2) 0 true

/-! ### Memory and fences (R168, R169) -/

/-- Bytes of an access. -/
def AEnv.size (e : AEnv) : Nat := 2 ^ e.i.s2bits 9 8

/-- The address of an access (R168). -/
def AEnv.addr (e : AEnv) : DWord :=
  let off : DWord :=
    if e.p.iuse = 1 then e.p.imm32.signExtend 64
    else if bit e.i.s2 7 then e.a.reg (e.i.s2bits 4 0) * BitVec.ofNat 64 (2 ^ e.i.s2bits 6 5)
    else (e.i.s2.extractLsb' 0 7).signExtend 64 * BitVec.ofNat 64 e.size
  e.a.reg e.i.s1.toNat + off

/-- A release or an acquire of the prefix's SEM at a scope. -/
def AEnv.pre (e : AEnv) (s : State) (sem : BitVec 2) (sc : Nat) : State :=
  if bit sem 1 then s.release e.g.tenant e.g.core sc else s
def AEnv.post (e : AEnv) (s : State) (sem : BitVec 2) (sc : Nat) : State := if bit sem 0 then s.acquire e.g.core sc else s

/-- The place of an access, or its trap or park (R168). -/
def AEnv.place (e : AEnv) (pad : Bool) (need : Need) : Except ARes (State × Place) :=
  let a := e.addr
  if a.toNat % e.size ≠ 0 then .error (.trap .align a)
  else if pad then
    (match e.g.spPlace a.toNat e.size with
     | some _ => .ok (e.base, .pad e.g.uid a.toNat)
     | none => .error (.trap .prot a))
  else
    let r := e.base.checkGlobal e.g a e.size need
    match r.2 with
    | .ok p => .ok (r.1, p)
    | .error b => .error (if b.cause = .xlate then .park r.1 a.toNat b.xl else .trap b.cause a)

/-- ALD and ALDS. -/
def aLoad (pad : Bool) (e : AEnv) : ARes :=
  match e.place pad .read with
  | .error r => r
  | .ok (s, pl) =>
    let sc := e.p.scope.toNat
    let r := s.placeRead e.g sc e.size pl
    let v : DWord := BitVec.ofNat 64 r.2
    .ok (e.post r.1 e.p.sem sc) (e.a.setReg e.i.d.toNat v) (v.setWidth 32) false

/-- AST and ASTS. -/
def aStore (pad : Bool) (e : AEnv) : ARes :=
  match e.place pad .write with
  | .error r => r
  | .ok (s, pl) =>
    let sc := e.p.scope.toNat
    let s := (e.pre s e.p.sem sc).placeWrite e.g sc e.size ((e.a.reg e.i.d.toNat).toNat % 2 ^ (8 * e.size)) pl
    .ok (match pl with | .glob p => s.wroteOne e.g.uid p e.size | _ => s) e.a 0 false

def execAld (w : AWord) (s : State) : Host.Outcome State Fault Refusal := aIssue 0x20 none w s (aLoad false)
def execAldLong (p : APrefix) (w : AWord) (s : State) : Host.Outcome State Fault Refusal := aIssue 0x20 (some p) w s (aLoad false)
def execAst (w : AWord) (s : State) : Host.Outcome State Fault Refusal := aIssue 0x21 none w s (aStore false)
def execAstLong (p : APrefix) (w : AWord) (s : State) : Host.Outcome State Fault Refusal := aIssue 0x21 (some p) w s (aStore false)
def execAlds (w : AWord) (s : State) : Host.Outcome State Fault Refusal := aIssue 0x22 none w s (aLoad true)
def execAldsLong (p : APrefix) (w : AWord) (s : State) : Host.Outcome State Fault Refusal := aIssue 0x22 (some p) w s (aLoad true)
def execAsts (w : AWord) (s : State) : Host.Outcome State Fault Refusal := aIssue 0x23 none w s (aStore true)
def execAstsLong (p : APrefix) (w : AWord) (s : State) : Host.Outcome State Fault Refusal := aIssue 0x23 (some p) w s (aStore true)

/-- AFENCE (R169): scope in S2 bits 2:0, SEM in bits 4:3. -/
def aFence (e : AEnv) : ARes :=
  let sem := e.i.s2.extractLsb' 3 2
  let sc := e.i.s2bits 2 0
  .ok (e.post (e.pre e.base sem sc) sem sc) e.a 0 false

def execAfence (w : AWord) (s : State) : Host.Outcome State Fault Refusal := aIssue 0x1A none w s aFence
def execAfenceLong (p : APrefix) (w : AWord) (s : State) : Host.Outcome State Fault Refusal := aIssue 0x1A (some p) w s aFence

/-! ### QPUSH, QPOP, AWAITQ (R301 to R304) -/

def aQpush (e : AEnv) : ARes := .ok e.base e.a ((e.a.reg e.i.s1.toNat + e.s2).setWidth 32) false

def execQpush (w : AWord) (s : State) : Host.Outcome State Fault Refusal := aIssue 0x24 none w s aQpush
def execQpushLong (p : APrefix) (w : AWord) (s : State) : Host.Outcome State Fault Refusal := aIssue 0x24 (some p) w s aQpush
def execQpop (w : AWord) (s : State) : Host.Outcome State Fault Refusal := aAlu 0x25 none w s fun e => e.q.setWidth 64

/-- The condition of AWAITQ (R304). -/
def Group.queueReady (g : Group) (free : Bool) (q n : Nat) : Bool :=
  if free then
    (if q = 0 then decide (n + g.queues.fmt.length ≤ 8) else decide (n + (g.queues.bcast q).length ≤ 16))
  else decide (n ≤ (g.visible q).length)

/-- AWAITQ (R304): the condition is one on the queues as they stand at the issue, before a pop of the instruction's own. -/
def execAwaitq (w : AWord) (s : State) : Host.Outcome State Fault Refusal :=
  aIssue 0x26 none w s fun e =>
    if e.found.queueReady (bit e.i.d 3) (e.i.d.extractLsb' 0 3).toNat (e.i.s2bits 9 0) then .ok e.base e.a 0 false
    else .wait e.a

/-! ### Semaphores (R425, R426) -/

/-- SEMADD and SEMSET of an A context. -/
def aSemUpdate (f : Word → Word → Word) (e : AEnv) : ARes :=
  let i := e.i.s2bits 5 0
  if !semOwned e.g.tenant i then .trap .prot (BitVec.ofNat 64 i)
  else
    let s := e.pre e.base e.p.sem e.p.scope.toNat
    let old := s.sem e.g.core i
    let s := (s.semSet e.g.core i (f old (e.s1.setWidth 32))).sideEffect e.g.uid
    .ok s (e.a.setReg e.i.d.toNat (old.setWidth 64)) old false

/-- SEMWAIT of an A context. -/
def aSemWait (e : AEnv) : ARes :=
  let i := e.i.s2bits 5 0
  let b : Word := e.s1.setWidth 32
  if !semOwned e.g.tenant i then .trap .prot (BitVec.ofNat 64 i)
  else
    match e.base.semHit e.a.semWait e.g.core i b with
    | none => .wait { e.a with semWait := some (e.a.semWait.getD { idx := i, thresh := b, hit := none }) }
    | some v =>
      .ok (e.post e.base e.p.sem e.p.scope.toNat) ({ e.a with semWait := none }.setReg e.i.d.toNat (v.setWidth 64)) v false

def execSemaddA (w : AWord) (s : State) : Host.Outcome State Fault Refusal := aIssue 0x27 none w s (aSemUpdate semAdd)
def execSemaddALong (p : APrefix) (w : AWord) (s : State) : Host.Outcome State Fault Refusal :=
  aIssue 0x27 (some p) w s (aSemUpdate semAdd)
def execSemsetA (w : AWord) (s : State) : Host.Outcome State Fault Refusal := aIssue 0x28 none w s (aSemUpdate fun _ b => b)
def execSemsetALong (p : APrefix) (w : AWord) (s : State) : Host.Outcome State Fault Refusal :=
  aIssue 0x28 (some p) w s (aSemUpdate fun _ b => b)
def execSemwaitA (w : AWord) (s : State) : Host.Outcome State Fault Refusal := aIssue 0x29 none w s aSemWait
def execSemwaitALong (p : APrefix) (w : AWord) (s : State) : Host.Outcome State Fault Refusal := aIssue 0x29 (some p) w s aSemWait

end Sys2Proof.Machine
end

