-- ==== Sys2Proof/Machine/Cmd.lean ====
section
/-!
DEFINITION. Commands of packets: their body words, and how the current one starts, completes or fails its
packet (R335, R340, R343).
-/

namespace Sys2Proof.Machine

/-! ### Fields -/

/-- Body word i (R341). -/
def Command.word (c : Command) (i : Nat) : Nat := ((c.body[i]?).getD 0).toNat
/-- Bits h:l of body word i. -/
def Command.bits (c : Command) (i h l : Nat) : Nat := bitsOf (Command.word c i) h l
/-- Body words i and i + 1 as an address. -/
def Command.addr (c : Command) (i : Nat) : Nat := Command.word c i + 2 ^ 32 * Command.word c (i + 1)
/-- The tenant of a command. -/
def Command.tenant (c : Command) : Nat := c.queue / 64
/-- Body words that are zero from the i-th on. -/
def Command.zeroFrom (c : Command) (i : Nat) : Bool := (List.range 8).all fun k => decide (k < i) || Command.word c k == 0

/-- The statuses of R343. -/
inductive Status where
  | badtype | resv | priv | budget | notres | bounds | progfail | badgraph | weight | prot | badprog | badobj | gridfault
  deriving DecidableEq, Repr

def Status.code : Status → Nat
  | .badtype => 1 | .resv => 2 | .priv => 3 | .budget => 4 | .notres => 5 | .bounds => 6 | .progfail => 7
  | .badgraph => 8 | .weight => 9 | .prot => 10 | .badprog => 11 | .badobj => 12 | .gridfault => 13

/-! ### The current command -/

/-- Command n of a packet changed. -/
def Issued.upd (p : Issued) (n : Nat) (f : IssuedCmd → IssuedCmd) : Issued :=
  { p with cmds := p.cmds.zipIdx.map fun x => if x.2 == n then f x.1 else x.1 }

/-- Command n of an issued packet changed, its packet finished where this completes it. -/
def State.cmdPut (s : State) (id n : Nat) (f : IssuedCmd → IssuedCmd) : State := s.cmdUpdate id fun p => p.upd n f

/-- A packet as it fails: the first status stands. -/
def Issued.fail (p : Issued) (st : Status) : Issued := { p with failed := some (p.failed.getD st.code) }

/-- The current command, changed. -/
def State.cmdSet (s : State) (f : IssuedCmd → IssuedCmd) : State := s.cmdPut s.ctl.cmd.id s.ctl.arg.ch f
/-- The current command is complete. -/
def State.cmdDone (s : State) : State := s.cmdSet fun c => { c with st := 2 }
/-- The current command has started. -/
def State.cmdStart (s : State) : State := s.cmdSet fun c => { c with st := max 1 c.st }
/-- The current command fails its packet. -/
def State.cmdFail (s : State) (st : Status) : State :=
  s.cmdUpdate s.ctl.cmd.id fun p => (p.upd s.ctl.arg.ch fun c => { c with st := 2 }).fail st

/-- The packet of the current command. -/
def State.thisPacket (s : State) : Option Issued := s.qi.issued.find? fun x => x.id == s.ctl.cmd.id

/-- The record of the current command. -/
def State.thisCmd (s : State) : Option IssuedCmd := s.thisPacket.bind fun p => p.cmds[s.ctl.arg.ch]?

/-- A command that is not ready. -/
def State.cmdWaits (s : State) : State := { s with ctl := { s.ctl with wait := true } }

/-- The result of a command that either fails its packet or has its effect. -/
def cmdResult (s : State) (r : Except Status State) : Host.Outcome State Fault Refusal :=
  match r with
  | .error st => .next (s.cmdFail st)
  | .ok s' => .next s'.cmdDone

/-- How many units of the current command are done. -/
def State.unitsDone (s : State) : Nat := match s.thisCmd with | some x => x.next | none => 0

/-- The next of n units of the current command, each a turn of its own; the last completes it. -/
def State.cmdUnit (s : State) (n : Nat) (f : State → Nat → State) : Host.Outcome State Fault Refusal :=
  let i := s.unitsDone
  let t := if i < n then f s i else s
  .next (if i + 1 < n then t.cmdSet fun k => { k with st := max 1 k.st, next := i + 1 } else t.cmdDone)

end Sys2Proof.Machine
end

