-- ==== Sys2Proof/Machine/Elem.lean ====
section
/-!
DEFINITION. The correctly rounded functions of R108 and R109, and the PQ curve of R370. Quotients and
roots are rounded from exact quantities. FEXP2, FLOG2, FSINT, FCOST and the PQ curve are rounded from
a fixed-point value of 400 fraction bits, whose error (below 2^-380) is far below the distance of any
FP32 argument's value from a rounding boundary (assumption log 10).
-/

namespace Sys2Proof

/-- Fraction bits of the fixed-point evaluations. -/
def fxBits : Nat := 400
/-- 1.0 in fixed point. -/
def fxOne : Int := 2 ^ 400

/-- Product of fixed-point numbers, rounded down. -/
def fxMul (a b : Int) : Int := (a * b) / fxOne

/-- A rational in fixed point, rounded down. -/
def fxOfRat (q : Rat) : Int := (q.num * fxOne) / (q.den : Int)

/-- A fixed-point number as a rational. -/
def fxToRat (a : Int) : Rat := (a : Rat) / (fxOne : Rat)

/-- Σ of a Taylor series with terms t_0 = x0 and t_(k+1) = t_k · y / d_k. -/
def fxSeries (y : Int) (d : Nat → Int) : Nat → Int → Int → Nat → Int
  | 0, _, acc, _ => acc
  | n + 1, t, acc, k => fxSeries y d n (fxMul t y / d k) (acc + fxMul t y / d k) (k + 1)

/-- exp of a fixed-point number in [0, 1). -/
def fxExp (x : Int) : Int := fxSeries x (fun k => (k : Int) + 1) 90 fxOne fxOne 0

/-- Σ y^(2k+1)/(2k+1) from the power y^(2k+1). -/
def fxAtanhGo (y2 : Int) : Nat → Int → Int → Nat → Int
  | 0, _, acc, _ => acc
  | n + 1, p, acc, k => fxAtanhGo y2 n (fxMul p y2) (acc + p / (2 * (k : Int) + 1)) (k + 1)

/-- atanh of a fixed-point number of magnitude at most 1/3. -/
def fxAtanh (y : Int) : Int := fxAtanhGo (fxMul y y) 135 y 0 0

/-- ln of a rational in [1, 2). -/
def fxLn (m : Rat) : Int := 2 * fxAtanh (fxOfRat ((m - 1) / (m + 1)))

/-- ln 2. -/
def fxLn2 : Int := 2 * fxAtanh (fxOfRat (1 / 3))

/-- log2 of a positive rational. -/
def log2Fx (q : Rat) : Rat :=
  let e := log2Floor q
  (e : Rat) + (fxLn (q * pow2 (-e)) : Rat) / (fxLn2 : Rat)

/-- 2^q. -/
def exp2Fx (q : Rat) : Rat :=
  let n := q.floor
  fxToRat (fxExp (fxMul (fxOfRat (q - n)) fxLn2)) * pow2 n

/-- π in fixed point, by Machin's formula 16 atan(1/5) − 4 atan(1/239). -/
def fxPi : Int :=
  let atan (d : Nat) : Int := fxAtanhGo (-(fxOne / ((d : Int) * d))) 190 (fxOne / (d : Int)) 0 0
  16 * atan 5 - 4 * atan 239

/-- sin x and cos x of a fixed-point number of magnitude below 1. -/
def fxSin (x : Int) : Int :=
  fxSeries (-(fxMul x x)) (fun k => (2 * (k : Int) + 2) * (2 * (k : Int) + 3)) 60 x x 0
def fxCos (x : Int) : Int :=
  fxSeries (-(fxMul x x)) (fun k => (2 * (k : Int) + 1) * (2 * (k : Int) + 2)) 60 fxOne fxOne 0

/-- sin(2πa), or cos(2πa) with `c`, of an exact rational; exact at multiples of 1/4 (R109). -/
def sinTurns (c : Bool) (a : Rat) : Rat :=
  let a' := if c then a + 1 / 4 else a
  let r := a' - a'.floor
  let k := (r * 4 + 1 / 2).floor
  let d := r - k / 4
  let x := fxMul (2 * fxPi) (fxOfRat d)
  let v : Rat :=
    if d = 0 then (match k.toNat % 4 with | 0 => 0 | 1 => 1 | 2 => 0 | _ => -1)
    else
      match k.toNat % 4 with
      | 0 => fxToRat (fxSin x)
      | 1 => fxToRat (fxCos x)
      | 2 => -fxToRat (fxSin x)
      | _ => -fxToRat (fxCos x)
  v

/-- √q as a rational that rounds as √q does on any grid coarser than 2^-160: the exact root where it
is one at that scale, otherwise a point strictly between the neighbouring multiples of 2^-160. -/
def sqrtSticky (q : Rat) : Rat :=
  let n := q.num.natAbs * 4 ^ 160
  let s := (n / q.den).sqrt
  let exact := s * s * q.den = n
  (2 * s + (if exact then 0 else 1) : Nat) / ((2 * 2 ^ 160 : Nat) : Rat)

/-! ### The instructions of R108 -/

/-- FDIV (R108). -/
def fdiv (a b : Word) : Word :=
  let x := f32v a
  let y := f32v b
  let sg := x.neg != y.neg
  match x, y with
  | .nan, _ | _, .nan => qnan
  | .inf _, .inf _ => qnan
  | .inf _, .fin _ _ => f32r .rne (.inf sg)
  | .fin _ _, .inf _ => f32r .rne (.fin sg 0)
  | .fin _ m, .fin _ n =>
    if n = 0 then (if m = 0 then qnan else f32r .rne (.inf sg))
    else f32r .rne (.fin sg (m / n))

/-- FRCP (R108). -/
def frcp (a : Word) : Word := fdiv 0x3F800000 a

/-- FRSQ (R108). -/
def frsq (a : Word) : Word :=
  match f32v a with
  | .nan => qnan
  | .inf s => if s then qnan else 0
  | .fin s m =>
    if m = 0 then f32r .rne (.inf s)
    else if s then qnan
    else f32r .rne (.fin false (sqrtSticky (1 / m)))

/-- FSQRT (R108). -/
def fsqrt (a : Word) : Word :=
  match f32v a with
  | .nan => qnan
  | .inf s => if s then qnan else a
  | .fin s m => if m = 0 then a else if s then qnan else f32r .rne (.fin false (sqrtSticky m))

/-- FEXP2 (R108). -/
def fexp2 (a : Word) : Word :=
  match f32v a with
  | .nan => qnan
  | .inf s => if s then 0 else a
  | .fin s m =>
    let q := (FVal.fin s m).toRat
    if 128 ≤ q then f32r .rne (.inf false)
    else if q < -200 then 0
    else if q.den = 1 then f32r .rne (.fin false (pow2 q.num))
    else f32r .rne (.fin false (exp2Fx q))

/-- FLOG2 (R108). -/
def flog2 (a : Word) : Word :=
  match f32v a with
  | .nan => qnan
  | .inf s => if s then qnan else a
  | .fin s m =>
    if m = 0 then f32r .rne (.inf true)
    else if s then qnan
    else if m = pow2 (log2Floor m) then f32r .rne (FVal.ofRat (log2Floor m))
    else f32r .rne (FVal.ofRat (log2Fx m))

/-- FSINT (R108, R109): a zero result takes the sign of a. -/
def fsint (a : Word) : Word :=
  match f32v a with
  | .fin s m =>
    let v := sinTurns false (FVal.fin s m).toRat
    if v = 0 then f32r .rne (.fin s 0) else f32r .rne (FVal.ofRat v)
  | _ => qnan

/-- FCOST (R108, R109): a zero result is +0. -/
def fcost (a : Word) : Word :=
  match f32v a with
  | .fin s m => f32r .rne (FVal.ofRat (sinTurns true (FVal.fin s m).toRat))
  | _ => qnan

/-- pq of R370, the inverse EOTF of SMPTE ST 2084, whose constants come from that standard
(assumption log 10). -/
def pq (y : Rat) : Rat :=
  let m1 : Rat := 2610 / 16384
  let m2 : Rat := 2523 / 4096 * 128
  let c1 : Rat := 3424 / 4096
  let c2 : Rat := 2413 / 4096 * 32
  let c3 : Rat := 2392 / 4096 * 32
  let p := if y ≤ 0 then 0 else exp2Fx (m1 * log2Fx y)
  let b := (c1 + c2 * p) / (1 + c3 * p)
  exp2Fx (m2 * log2Fx b)

/-- The link code of an FP16 channel for `bits` bits per channel (R370). -/
def linkCode (bits : Nat) (c : Nat) : Nat :=
  match fp16.decode c with
  | .nan => 0
  | v =>
    let y : Rat := match v with
      | .inf s => if s then 0 else 1
      | w => max 0 (min 1 (w.toRat / 100))
    roundMag .rne false ((2 ^ bits - 1 : Nat) * pq y)

end Sys2Proof
end

