-- ==== Sys2Proof/Machine/HeadRec.lean ====
section
/-!
DEFINITION. The head record, a head's bands and points, and the footprint by which the SSP and the Virga
fallback sample a texture (R212, R359, R362).
-/

namespace Sys2Proof.Machine

/-! ### The head record (R359) -/

def recBits (r : BitVec 1024) (h l : Nat) : Nat := bitsOf r.toNat h l
def recPixclk (r : BitVec 1024) : Nat := recBits r 31 0
def recWidth (r : BitVec 1024) : Nat := recBits r 47 32
def recHeight (r : BitVec 1024) : Nat := recBits r 63 48
def recHtotal (r : BitVec 1024) : Nat := recBits r 79 64
def recVtotal (r : BitVec 1024) : Nat := recBits r 95 80
def recLatch (r : BitVec 1024) : Nat := recBits r 111 96
def recResv (r : BitVec 1024) : Nat := recBits r 119 112
def recBpc (r : BitVec 1024) : Nat := recBits r 121 120
def recProg (r : BitVec 1024) : Nat := recBits r 191 128
def recProgsize (r : BitVec 1024) : Nat := recBits r 223 192
def recAsid (r : BitVec 1024) : Nat := recBits r 235 224
def recRstab (r : BitVec 1024) : Nat := recBits r 319 256
def recMailbox (r : BitVec 1024) : Nat := recBits r 383 320
def recStatus (r : BitVec 1024) : Nat := recBits r 447 384
def recFx (r : BitVec 1024) : Word := r.extractLsb' 448 32
def recFy (r : BitVec 1024) : Word := r.extractLsb' 480 32
def recCx (r : BitVec 1024) : Word := r.extractLsb' 512 32
def recCy (r : BitVec 1024) : Word := r.extractLsb' 544 32
def recPresent (r : BitVec 1024) : Nat := recBits r 639 576
def recLcmask (r : BitVec 1024) : BitVec 32 := r.extractLsb' 640 32

/-! ### Heads, bands, line cores -/

def State.head (s : State) (h : Nat) : Head := SMap.get Head.zero s.heads h
def State.setHead (s : State) (h : Nat) (x : Head) : State := { s with heads := SMap.set Head.zero s.heads h x }
def State.line (s : State) (n : Nat) : LineCore := SMap.get LineCore.zero s.lines n
def State.setLine (s : State) (n : Nat) (x : LineCore) : State := { s with lines := SMap.set LineCore.zero s.lines n x }

/-- Bands of a frame (R362). -/
def Head.bands (h : Head) : Nat := (recHeight h.record + 15) / 16
/-- Absolute line of point S of a band (R362). -/
def Head.pointS (h : Head) (f b : Nat) : Int := ((f * recVtotal h.record + 16 * b : Nat) : Int)
/-- Point D. -/
def Head.pointD (h : Head) (f b : Nat) : Int := h.pointS f b - 8
/-- Point P. -/
def Head.pointP (h : Head) (f b : Nat) : Int := h.pointD f b - (recLatch h.record : Int)

/-- Lines of a band (R200). -/
def Head.bandLines (h : Head) (b : Nat) : Nat := min 16 (recHeight h.record - 16 * b)

/-- BANDID (R200). -/
def bandId (h f b : Nat) : Word := BitVec.ofNat 32 (2 ^ 30 * h + f % 2 ^ 21 * 2 ^ 9 + b)

/-- A band of the head's that is live. -/
def Head.band? (h : Head) (f b : Nat) : Option Band := h.live.find? fun x => x.frame == f && x.band == b

/-- A live band changed. -/
def Head.updBand (h : Head) (f b : Nat) (g : Band → Band) : Head :=
  { h with live := h.live.map fun x => if x.frame == f && x.band == b then g x else x }

/-- A counter of a head raised (R372): 0 SYNTH, 1 MISS, 2 POSEKEPT, 3 RSKEPT, 4 LATEEMIT. -/
def Head.count (h : Head) (k : Nat) : Head := { h with counters := SMap.set 0 h.counters k (SMap.get 0 h.counters k + 1) }

/-! ### Sampling (R212) -/

/-- An integer as an FP32 word. -/
def intWord (i : Int) : Word := f32r .rne (FVal.ofRat i)

/-- sat of R9 on FP32 words. -/
def satWord (v lo hi : Word) : Word :=
  if (f32v v).lt (f32v lo) then lo else if (f32v hi).lt (f32v v) then hi else v

/-- A NaN made canonical (R46). -/
def canonNan (v : Word) : Word := if (f32v v).isNan then qnan else v

/-- lerp with an exact weight (R210, R212). -/
def lerpExact (a b : Word) (t : Rat) : Word :=
  f32r .rne (FVal.sum .rne [(f32v (fsub .rne b a)).mul (FVal.ofRat t), f32v a])

/-- floor of a finite word. -/
def floorWord (v : Word) : Int := (f32v v).toRat.floor

/-- i0 and fx of a coordinate on an axis of size n. -/
def footAxis (u : Word) (n : Nat) : Int × Rat :=
  let x := satWord (fsub .rne u 0x3F000000) (intWord (-1)) (intWord n)
  (floorWord x, (f32v x).toRat - floorWord x)

/-- t(i, j): the indices clamped into a plane of w × h. -/
def clampIdx (i : Int) (n : Nat) : Nat := (satInt i 0 ((n : Int) - 1)).toNat

/-- The four texels of a footprint, in the order of R212. -/
def footIdx (u v : Word) (w h : Nat) : List (Nat × Nat) :=
  let i := (footAxis u w).1
  let j := (footAxis v h).1
  [(clampIdx i w, clampIdx j h), (clampIdx (i + 1) w, clampIdx j h),
   (clampIdx i w, clampIdx (j + 1) h), (clampIdx (i + 1) w, clampIdx (j + 1) h)]

/-- The blend of one channel of the four texels. -/
def footBlend (u v : Word) (w h : Nat) (t : Nat → Word) : Word :=
  let fx := (footAxis u w).2
  let fy := (footAxis v h).2
  lerpExact (lerpExact (t 0) (t 1) fx) (lerpExact (t 2) (t 3) fx) fy

/-- Channel k of a texel whose channels are FP16 (R51). -/
def halfChan (v k : Nat) : Word := f32r .rne (fp16.decode (v / 2 ^ (16 * k) % 2 ^ 16))

/-- A word rounded to FP16, as a code (R212). -/
def toHalf (v : Word) : Nat := fp16.round .rne false (f32v v)

end Sys2Proof.Machine
end

