-- ==== Sys2Proof/Machine/Ssp.lean ====
section
/-!
DEFINITION. The operations of the Scan Synthesis Processor's line cores and of its matrix engines (spec
10). Each operation of a bundle reads the registers as they were at the bundle's issue (R202).
-/

namespace Sys2Proof.Machine

/-! ### What an operation sees and answers -/

/-- A line core's registers as an operation reads them: those latched at the bundle's issue, or its own. -/
structure LEnv where
  s : State
  n : Nat
  lc : LineCore
  w : SMap Word
  z : SMap Word
  e : SMap (BitVec 16)
  /-- the line core's matrix operations that are earlier than the bundle and incomplete -/
  mx : List MxOp

/-- Matrix operations of a line core under way (R213). -/
def State.mxOf (s : State) (n : Nat) : List MxOp := s.mx.filter fun x => x.line == n

/-- The environment of an operation of the current line core. -/
def State.lEnv (s : State) : Option LEnv :=
  match s.ctl.cur with
  | .line n =>
    let c := s.line n
    if c.st = .running then
      let l := s.ctl.latch
      some (if l.on then { s := s, n := n, lc := c, w := l.w, z := l.z, e := l.e, mx := l.mx }
            else { s := s, n := n, lc := c, w := c.w, z := c.z, e := c.e, mx := s.mxOf n })
    else none
  | _ => none

def LEnv.wr (e : LEnv) (r l : Nat) : Word := SMap.get 0 e.w (16 * r + l)
def LEnv.zr (e : LEnv) (r : Nat) : Word := SMap.get 0 e.z r
def LEnv.er (e : LEnv) (r : Nat) : BitVec 16 := SMap.get 0 e.e r

/-- What an operation answers: the line core with its writes and a branch target, another state, a wait at
issue, or a band fault. -/
inductive LRes where
  | ok (lc : LineCore) (target : Option Word)
  | act (s : State)
  | wait
  | fault (cause : Nat)

/-- What the answer of an operation makes of the state. A band fault is noted for the bundle, and the first noted
stands (R215). -/
def LEnv.conclude (e : LEnv) (r : LRes) : State :=
  match r with
  | .ok lc t =>
    let s := e.s.setLine e.n lc
    match t with
    | none => s
    | some _ => { s with ctl := { s.ctl with latch := { s.ctl.latch with target := t } } }
  | .act s => s
  | .wait => { e.s with ctl := { e.s.ctl with wait := true } }
  | .fault c => { e.s with ctl := { e.s.ctl with bandFault := some (e.s.ctl.bandFault.getD c) } }

/-- The meaning of an operation over its body. -/
def lIssue (s : State) (body : LEnv → LRes) : Host.Outcome State Fault Refusal :=
  match s.lEnv with
  | none => .fault .noLineCore
  | some e => .next (e.conclude (body e))

def LineCore.setZ (c : LineCore) (r : Nat) (v : Word) : LineCore := { c with z := SMap.set 0 c.z r v }
def LineCore.setE (c : LineCore) (r : Nat) (v : BitVec 16) : LineCore := { c with e := SMap.set 0 c.e r v }
/-- A w register written in the lanes of a mask. -/
def LineCore.setW (c : LineCore) (r : Nat) (on : Nat → Bool) (v : Nat → Word) : LineCore :=
  { c with w := ((List.range 16).filter on).foldl (fun m l => SMap.set 0 m (16 * r + l) (v l)) c.w }

/-! ### The S slot (R204, R208) -/

/-- y of R208: z[B] or the immediate. -/
def LEnv.y (e : LEnv) (w : SSlot) : Word := if w.i = 1 then w.b.signExtend 32 else e.zr (w.b.extractLsb' 0 5).toNat

/-- An S operation that writes z[D]. -/
def sAlu (w : SSlot) (s : State) (f : Word → Word → Word) : Host.Outcome State Fault Refusal :=
  lIssue s fun e => .ok (e.lc.setZ w.d.toNat (f (e.zr w.a.toNat) (e.y w))) none

def sshl (x y : Word) : Word := if 32 ≤ y.toNat then 0 else x <<< y.toNat
def sshr (x y : Word) : Word := if 32 ≤ y.toNat then 0 else x >>> y.toNat

def execSnop (s : State) : Host.Outcome State Fault Refusal := lIssue s fun e => .ok e.lc none
def execSadd (w : SSlot) (s : State) : Host.Outcome State Fault Refusal := sAlu w s fun x y => x + y
def execSsub (w : SSlot) (s : State) : Host.Outcome State Fault Refusal := sAlu w s fun x y => x - y
def execSmul (w : SSlot) (s : State) : Host.Outcome State Fault Refusal := sAlu w s fun x y => x * y
def execSand (w : SSlot) (s : State) : Host.Outcome State Fault Refusal := sAlu w s fun x y => x &&& y
def execSor (w : SSlot) (s : State) : Host.Outcome State Fault Refusal := sAlu w s fun x y => x ||| y
def execSshl (w : SSlot) (s : State) : Host.Outcome State Fault Refusal := sAlu w s sshl
def execSshr (w : SSlot) (s : State) : Host.Outcome State Fault Refusal := sAlu w s sshr
def execSmov (w : SSlot) (s : State) : Host.Outcome State Fault Refusal := sAlu w s fun _ y => y

def execSmovh (w : SSlot) (s : State) : Host.Outcome State Fault Refusal :=
  lIssue s fun e => .ok (e.lc.setZ w.d.toNat (w.b ++ (e.zr w.d.toNat).extractLsb' 0 16)) none

/-- The condition of SCMP (R208): the signed codes of `condInt`, 6 LTU, 7 GEU. -/
def condS (c : Nat) (x y : Word) : Bool :=
  match c with
  | 6 => decide (x.toNat < y.toNat)
  | 7 => decide (y.toNat ≤ x.toNat)
  | _ => condInt c x.toInt y.toInt

def execScmp (w : SSlot) (s : State) : Host.Outcome State Fault Refusal :=
  lIssue s fun e =>
    let y := if w.i = 1 then (w.b.extractLsb' 0 13).signExtend 32 else e.zr (w.b.extractLsb' 0 5).toNat
    let c := condS (w.b.extractLsb' 13 3).toNat (e.zr w.a.toNat) y
    .ok (e.lc.setE (w.d.extractLsb' 0 3).toNat (if c then 0xFFFF else 0)) none

/-- SPC + 16 × the displacement. -/
def LEnv.target (e : LEnv) (w : SSlot) : Word := e.lc.spc + 16 * w.b.signExtend 32

def execBr (w : SSlot) (s : State) : Host.Outcome State Fault Refusal := lIssue s fun e => .ok e.lc (some (e.target w))

def execBrc (w : SSlot) (s : State) : Host.Outcome State Fault Refusal :=
  lIssue s fun e =>
    let m := e.er (w.d.extractLsb' 0 3).toNat
    let t := match (w.d.extractLsb' 3 2).toNat with | 0 => m != 0 | 1 => m == 0xFFFF | _ => m == 0
    .ok e.lc (if t then some (e.target w) else none)

def execLoop (w : SSlot) (s : State) : Host.Outcome State Fault Refusal :=
  lIssue s fun e =>
    let n := e.zr w.a.toNat
    let m := if n = 0 then 0 else n - 1
    .ok (e.lc.setZ w.a.toNat m) (if m = 0 then none else some (e.target w))

def execPoseR (w : SSlot) (s : State) : Host.Outcome State Fault Refusal :=
  lIssue s fun e => .ok (e.lc.setZ w.d.toNat (SMap.get 0 e.lc.pose (w.b.extractLsb' 0 3).toNat)) none
def execPoseW (w : SSlot) (s : State) : Host.Outcome State Fault Refusal :=
  lIssue s fun e =>
    .ok { e.lc with pose := SMap.set 0 e.lc.pose (w.b.extractLsb' 0 3).toNat (e.zr w.a.toNat) } none

/-- The band that a line core runs. -/
def LEnv.band (e : LEnv) : Option Band := (e.s.head e.lc.head).band? e.lc.frame e.lc.band

/-- The render set latched for the band's frame. -/
def LEnv.rs (e : LEnv) : RenderSet := match e.band with | some b => b.rs | none => RenderSet.first

/-- Item k of the band context (R208). -/
def LEnv.item (e : LEnv) (k : Nat) : Word :=
  let h := e.s.head e.lc.head
  match k with
  | 0 => e.lc.bandid
  | 1 => e.lc.line0
  | 2 => BitVec.ofNat 32 (recWidth h.record)
  | 3 => BitVec.ofNat 32 (recHeight h.record)
  | 4 => BitVec.ofNat 32 e.rs.w
  | 5 => BitVec.ofNat 32 e.rs.h
  | 6 => e.rs.seq
  | _ => BitVec.ofNat 32 e.n

def execBandiRd (w : SSlot) (s : State) : Host.Outcome State Fault Refusal :=
  lIssue s fun e => .ok (e.lc.setZ w.d.toNat (e.item (w.b.extractLsb' 0 3).toNat)) none

/-- The end of the current band (R209): UNEMIT where a pixel was never emitted. A band whose outcome the deadline has
settled stays the Virga fallback's (R368). An operation of the bundle's own M slot is not an earlier one that HALT waits
for, and an EMIT there counts (log 60). -/
def LEnv.endBand (e : LEnv) (after : LineSt) : LRes :=
  let h := e.s.head e.lc.head
  if !e.mx.isEmpty then .wait
  else if e.lc.emitted.length ≠ recWidth h.record * h.bandLines e.lc.band then .fault 6
  else
    let done (b : Band) : Band :=
      if b.outcome.isSome then b else { b with doneAt := some h.line, pixels := e.lc.emitted }
    .act ((e.s.setHead e.lc.head (h.updBand e.lc.frame e.lc.band done)).setLine e.n
      { e.lc with st := after, emitted := [] })

/-- BANDI.NEXT (R209). -/
def execBandiNext (_w : SSlot) (s : State) : Host.Outcome State Fault Refusal := lIssue s fun e => e.endBand .waitNext
/-- HALT (R209). -/
def execHalt (s : State) : Host.Outcome State Fault Refusal := lIssue s fun e => e.endBand .idle
/-- SYNCM (R208). -/
def execSyncm (s : State) : Host.Outcome State Fault Refusal :=
  lIssue s fun e => if e.mx.isEmpty then .ok e.lc none else .wait

/-! ### The V slots (R205, R210) -/

/-- The lanes that an operation writes (R205, R206). -/
def LEnv.on (e : LEnv) (mke : BitVec 1) (mk : BitVec 3) (l : Nat) : Bool := mke == 0 || bit (e.er mk.toNat) l

/-- A V operation that writes w[D] by lane, from a, b and the old value. -/
def vAlu (w : VSlot) (s : State) (f : Word → Word → Word → Word) : Host.Outcome State Fault Refusal :=
  lIssue s fun e =>
    .ok (e.lc.setW w.d.toNat (e.on w.mke w.mreg) fun l => f (e.wr w.a.toNat l) (e.wr w.b.toNat l) (e.wr w.d.toNat l)) none

/-- By TY: the FP32 form, or the integer form with its signedness. -/
def byType (w : VSlot) (fp : Word → Word → Word) (int : Bool → Word → Word → Word) (a b _d : Word) : Word :=
  if w.ty = 0 then fp a b else int (w.ty == 1) a b

def execVnop (s : State) : Host.Outcome State Fault Refusal := lIssue s fun e => .ok e.lc none
def execVadd (w : VSlot) (s : State) : Host.Outcome State Fault Refusal :=
  vAlu w s (byType w (fadd .rne) fun _ a b => a + b)
def execVsub (w : VSlot) (s : State) : Host.Outcome State Fault Refusal :=
  vAlu w s (byType w (fsub .rne) fun _ a b => a - b)
def execVmul (w : VSlot) (s : State) : Host.Outcome State Fault Refusal :=
  vAlu w s (byType w (fmul .rne) fun _ a b => a * b)
def execVfma (w : VSlot) (s : State) : Host.Outcome State Fault Refusal := vAlu w s fun a b d => ffma .rne a b d
def execVmin (w : VSlot) (s : State) : Host.Outcome State Fault Refusal :=
  vAlu w s (byType w (fminmax false false) fun sg a b => if readInt sg b < readInt sg a then b else a)
def execVmax (w : VSlot) (s : State) : Host.Outcome State Fault Refusal :=
  vAlu w s (byType w (fminmax true false) fun sg a b => if readInt sg a < readInt sg b then b else a)
def execVrcp (w : VSlot) (s : State) : Host.Outcome State Fault Refusal := vAlu w s fun a _ _ => frcp a
def execVrsq (w : VSlot) (s : State) : Host.Outcome State Fault Refusal := vAlu w s fun a _ _ => frsq a
def execVflr (w : VSlot) (s : State) : Host.Outcome State Fault Refusal := vAlu w s fun a _ _ => frnd .rd a

/-- VCVT (R210). -/
def vcvt (sub : Nat) (a : Word) : Word :=
  let lo := a.toNat % 2 ^ 16
  let hi := a.toNat / 2 ^ 16
  match sub with
  | 0 => cvtEncode 12 .rne false (f32v a)
  | 1 => cvtEncode 12 .rtz false (f32v a)
  | 2 => cvtEncode 13 .rne false (f32v a)
  | 3 => f32r .rne (FVal.ofRat a.toInt)
  | 4 => f32r .rne (fp16.decode lo)
  | 5 => f32r .rne (fp16.decode hi)
  | 6 => f32r .rne (bf16.decode lo)
  | _ => f32r .rne (bf16.decode hi)

def execVcvt (w : VSlot) (s : State) : Host.Outcome State Fault Refusal := vAlu w s fun a _ _ => vcvt w.sub.toNat a

/-- The condition of VCMP (R210). -/
def condV (w : VSlot) (a b : Word) : Bool :=
  if w.ty = 0 then condFloat w.sub.toNat a b
  else condInt w.sub.toNat (readInt (w.ty == 1) a) (readInt (w.ty == 1) b)

def execVcmp (w : VSlot) (s : State) : Host.Outcome State Fault Refusal :=
  lIssue s fun e =>
    let d := (w.d.extractLsb' 0 3).toNat
    let m : BitVec 16 := maskOf 16 16 fun l =>
      if e.on w.mke w.mreg l then condV w (e.wr w.a.toNat l) (e.wr w.b.toNat l) else bit (e.er d) l
    .ok (e.lc.setE d m) none

def execVsel (w : VSlot) (s : State) : Host.Outcome State Fault Refusal :=
  lIssue s fun e =>
    .ok (e.lc.setW w.d.toNat (fun _ => true) fun l =>
      if bit (e.er w.mreg.toNat) l then e.wr w.a.toNat l else e.wr w.b.toNat l) none

def execVlerp (w : VSlot) (s : State) : Host.Outcome State Fault Refusal := vAlu w s fun a b d => flerp a b d

def execVperm (w : VSlot) (s : State) : Host.Outcome State Fault Refusal :=
  lIssue s fun e =>
    .ok (e.lc.setW w.d.toNat (e.on w.mke w.mreg) fun l => e.wr w.a.toNat ((e.wr w.b.toNat l).toNat % 16)) none

def execVbcast (w : VSlot) (s : State) : Host.Outcome State Fault Refusal :=
  lIssue s fun e =>
    .ok (e.lc.setW w.d.toNat (e.on w.mke w.mreg) fun l =>
      match w.sub.toNat with
      | 0 => e.zr (w.a.extractLsb' 0 5).toNat
      | 1 => e.wr w.a.toNat (w.b.extractLsb' 0 4).toNat
      | _ => BitVec.ofNat 32 l) none

def execVpack (w : VSlot) (s : State) : Host.Outcome State Fault Refusal :=
  let f := if w.sub = 0 then fp16 else bf16
  vAlu w s fun a b _ => BitVec.ofNat 32 (2 ^ 16 * f.round .rne false (f32v b) + f.round .rne false (f32v a))

/-! ### The M slot: line buffer and global loads (R211) -/

/-- The line-buffer address of LBLD and LBST. -/
def LEnv.lbAddr (e : LEnv) (w : MSlot) : Word :=
  e.zr w.a.toNat + (if w.b = 0 then 0 else e.zr w.b.toNat) + 64 * w.sub.signExtend 32

/-- A word of the line buffer. -/
def LineCore.lbNat (c : LineCore) (a n : Nat) : Nat := leNat ((List.range n).map fun i => SMap.get 0 c.lb (a + i))
def LineCore.lbPut (c : LineCore) (a n v : Nat) : LineCore := { c with lb := SMap.setList 0 c.lb a (leBytes n v) }

/-- Bytes of the line buffer that a matrix operation reads or writes, from its address: kind 0 MXLD,
1 MXRUN, 2 MXST. -/
def MxOp.span (x : MxOp) : Nat :=
  match x.kind with
  | 0 => if bit (BitVec.ofNat 8 x.flags) 1 then 4096 else 8192
  | 2 => if bit (BitVec.ofNat 8 x.flags) 0 then 8192 else 16384
  | _ => 0

/-- An incomplete matrix operation of the line core, of one of some kinds, overlaps 64 bytes (R213). -/
def LEnv.locked (e : LEnv) (kinds : List Nat) (a : Nat) : Bool :=
  e.mx.any fun x => kinds.contains x.kind && decide (x.addr < a + 64) && decide (a < x.addr + x.span)

/-- An address that LBLD and LBST may not name. -/
def lbBad (a : Nat) : Bool := a % 64 != 0 || decide (0xFFFC0 < a)

def execLbld (w : MSlot) (s : State) : Host.Outcome State Fault Refusal :=
  lIssue s fun e =>
    let a := (e.lbAddr w).toNat
    if lbBad a then .fault 3
    else if e.locked [2] a then .wait
    else .ok (e.lc.setW w.d.toNat (e.on w.mke w.mreg) fun l => BitVec.ofNat 32 (e.lc.lbNat (a + 4 * l) 4)) none

def execLbst (w : MSlot) (s : State) : Host.Outcome State Fault Refusal :=
  lIssue s fun e =>
    let a := (e.lbAddr w).toNat
    if lbBad a then .fault 3
    else if e.locked [0, 2] a then .wait
    else
      .ok (((List.range 16).filter (e.on w.mke w.mreg)).foldl
        (fun c l => c.lbPut (a + 4 * l) 4 (e.wr w.d.toNat l).toNat) e.lc) none

/-- n aligned bytes read in the head's address space (R211); none for a fault, as of an address of 2^64 or above, which
no page holds. -/
def LEnv.read (e : LEnv) (s : State) (va n : Nat) : State × Option Nat :=
  let h := s.head e.lc.head
  if 2 ^ 64 ≤ va then (s, none)
  else
    match s.pageIO (recAsid h.record) va .read with
    | none => (s, none)
    | some p => let r := s.devRead h.tenant p n; (r.1, some r.2)

/-- Values read one after another; none where one fails. -/
def LEnv.reads (e : LEnv) (s : State) (n : Nat) : List Nat → State × Option (List Nat)
  | [] => (s, some [])
  | a :: as =>
    let r := e.read s a n
    match r.2 with
    | none => (r.1, none)
    | some v => let t := e.reads r.1 n as; (t.1, t.2.map fun l => v :: l)

/-- GLD (R211). -/
def execGld (w : MSlot) (s : State) : Host.Outcome State Fault Refusal :=
  lIssue s fun e =>
    let base := (e.zr (w.a.toNat + 1) ++ e.zr w.a.toNat).toNat
    let lanes := (List.range 16).filter (e.on w.mke w.mreg)
    let addr (l : Nat) : Nat := base + (e.wr (w.sub.extractLsb' 0 6).toNat l).toNat
    if lanes.any fun l => addr l % 4 != 0 then .fault 4
    else
      let r := e.reads e.s 4 (lanes.map addr)
      match r.2 with
      | none => .fault 4
      | some vs =>
        let v (l : Nat) : Word := match (lanes.zip vs).find? fun p => p.1 == l with | some p => BitVec.ofNat 32 p.2 | none => 0
        .act (r.1.setLine e.n (e.lc.setW w.d.toNat (e.on w.mke w.mreg) v))

/-! ### Sampling render sets (R212) -/

/-- Base, pitch and texel bytes of a plane: 0 colour, 1 motion, 2 depth (R51, R363). -/
def RenderSet.plane (r : RenderSet) (k : Nat) : Nat × Nat × Nat :=
  match k with
  | 0 => (r.cbase.toNat, r.cpitch, 8)
  | 1 => (r.mbase.toNat, r.mpitch, 4)
  | _ => (r.zbase.toNat, r.zpitch, 4)

/-- The texels of a plane at positions; zeros before the first adoption (R364). -/
def LEnv.texels (e : LEnv) (s : State) (k : Nat) (ps : List (Nat × Nat)) : State × Option (List Nat) :=
  let r := e.rs
  let p := r.plane k
  if r.zero then (s, some (ps.map fun _ => 0))
  else e.reads s p.2.2 (ps.map fun q => p.1 + q.2 * p.2.1 + p.2.2 * q.1)

/-- A lane's coordinates. -/
def LEnv.uv (e : LEnv) (w : MSlot) (l : Nat) : Word × Word :=
  let c := (w.sub.extractLsb' 0 6).toNat
  (e.wr c l, e.wr (c + 1) l)

/-- Either coordinate is a NaN. -/
def uvNan (p : Word × Word) : Bool := (f32v p.1).isNan || (f32v p.2).isNan

/-- The texels of every lane, lane by lane. -/
def LEnv.lanes (e : LEnv) (k : Nat) (pos : Nat → List (Nat × Nat)) : State × Option (List (List Nat)) :=
  (List.range 16).foldl (fun a l =>
    match a.2 with
    | none => a
    | some ls =>
      let r := e.texels a.1 k (pos l)
      (r.1, r.2.map fun t => ls ++ [t])) (e.s, some [])

/-- WSAMP (R212). -/
def execWsamp (w : MSlot) (s : State) : Host.Outcome State Fault Refusal :=
  lIssue s fun e =>
    let motion := bit w.sub 6
    let rs := e.rs
    let pos (l : Nat) : List (Nat × Nat) := if uvNan (e.uv w l) then [] else footIdx (e.uv w l).1 (e.uv w l).2 rs.w rs.h
    let r := e.lanes (if motion then 1 else 0) pos
    match r.2 with
    | none => .fault 4
    | some ts =>
      let chan (l k : Nat) : Word :=
        if uvNan (e.uv w l) then qnan
        else footBlend (e.uv w l).1 (e.uv w l).2 rs.w rs.h fun i => halfChan ((((ts[l]?).getD [])[i]?).getD 0) k
      let two (l a b : Nat) : Word := BitVec.ofNat 32 (2 ^ 16 * toHalf (chan l b) + toHalf (chan l a))
      let lc := e.lc.setW w.d.toNat (fun _ => true) fun l => if motion then chan l 0 else two l 0 1
      let lc := lc.setW (w.d.toNat + 1) (fun _ => true) fun l => if motion then chan l 1 else two l 2 3
      .act (r.1.setLine e.n lc)

/-- DSAMP (R212). -/
def execDsamp (w : MSlot) (s : State) : Host.Outcome State Fault Refusal :=
  lIssue s fun e =>
    let mode := (w.b.extractLsb' 0 2).toNat
    let rs := e.rs
    let near (v : Word) (n : Nat) : Nat := clampIdx (floorWord (satWord v (intWord (-1)) (intWord n))) n
    let pos (l : Nat) : List (Nat × Nat) :=
      let p := e.uv w l
      if uvNan p then [] else if mode = 0 then [(near p.1 rs.w, near p.2 rs.h)] else footIdx p.1 p.2 rs.w rs.h
    let r := e.lanes 2 pos
    match r.2 with
    | none => .fault 4
    | some ts =>
      let v (l : Nat) : Word :=
        match ((ts[l]?).getD []).map (BitVec.ofNat 32) with
        | [] => qnan
        | t :: rest => if mode = 0 then canonNan t else rest.foldl (fun a b => fminmax (mode == 2) false a b) t
      .act (r.1.setLine e.n (e.lc.setW w.d.toNat (fun _ => true) v))

/-! ### Matrix operations (R213) -/

/-- A matrix operation handed to its engine. -/
def LEnv.hand (e : LEnv) (kind addr flags : Nat) : LRes :=
  .act { e.s with mx := e.s.mx ++ [{ line := e.n, kind := kind, addr := addr, flags := flags }] }

/-- An address of a matrix operation, checked. -/
def LEnv.handTile (e : LEnv) (kind : Nat) (w : MSlot) : LRes :=
  let a := (e.zr w.a.toNat).toNat
  let x : MxOp := { line := e.n, kind := kind, addr := a, flags := w.sub.toNat }
  if a % 64 ≠ 0 ∨ 0x100000 < a + x.span then .fault 3 else e.hand kind a w.sub.toNat

def execMxld (w : MSlot) (s : State) : Host.Outcome State Fault Refusal := lIssue s fun e => e.handTile 0 w
def execMxst (w : MSlot) (s : State) : Host.Outcome State Fault Refusal := lIssue s fun e => e.handTile 2 w
def execMxrun (w : MSlot) (s : State) : Host.Outcome State Fault Refusal :=
  lIssue s fun e =>
    let k := (e.zr w.a.toNat).toNat
    if k = 0 ∨ 64 < k then .fault 7 else e.hand 1 k w.sub.toNat

/-- MXLD performed: a tile of exact values, kept as FP32 words. -/
def LineCore.mxLoad (c : LineCore) (addr : Nat) (toW e4 : Bool) : LineCore :=
  let v (k : Nat) : Word :=
    if e4 then f32r .rne (e4m3.decode (c.lbNat (addr + k) 1)) else f32r .rne (bf16.decode (c.lbNat (addr + 2 * k) 2))
  let m := SMap.setList (0 : Word) [] 0 ((List.range 4096).map v)
  if toW then { c with mxW := m } else { c with mxX := m }

/-- MXRUN performed over K terms (R61). -/
def LineCore.mxRun (c : LineCore) (k : Nat) (acc : Bool) : LineCore :=
  let x (p i : Nat) : FVal := f32v (SMap.get 0 c.mxX (64 * p + i))
  let w (i n : Nat) : FVal := f32v (SMap.get 0 c.mxW (64 * i + n))
  let o (j : Nat) : Word :=
    let a := if acc then f32v (SMap.get 0 c.mxO j) else .fin false 0
    fdot .rne ((List.range k).map fun i => (x (j / 64) i, w i (j % 64))) a
  { c with mxO := SMap.setList (0 : Word) [] 0 ((List.range 4096).map o) }

/-- A value under .RELU: +0 for every negative value and for −0. -/
def relu (v : Word) : Word := if (f32v v).isNan then qnan else if (f32v v).neg then 0 else v

/-- MXST performed. -/
def LineCore.mxStore (c : LineCore) (addr : Nat) (bf useRelu : Bool) : LineCore :=
  (List.range 4096).foldl (fun d j =>
    let v := SMap.get 0 c.mxO j
    let v := if useRelu then relu v else v
    if bf then d.lbPut (addr + 2 * j) 2 (bf16.round .rne false (f32v v)) else d.lbPut (addr + 4 * j) 4 v.toNat) c

/-- A matrix operation performed on its line core's context. -/
def MxOp.perform (x : MxOp) (c : LineCore) : LineCore :=
  let f := BitVec.ofNat 8 x.flags
  match x.kind with
  | 0 => c.mxLoad x.addr (bit f 0) (bit f 1)
  | 1 => c.mxRun x.addr (bit f 0)
  | _ => c.mxStore x.addr (bit f 0) (bit f 1)

/-- The matrix operations of a line core performed in their order, where its context or its line buffer is about to be cleared:
an operation of HALT's own bundle may be left then, and comes before what clears (R197, R198, log 60). -/
def State.settleMx (s : State) (n : Nat) : State :=
  { s with mx := s.mx.filter fun x => x.line != n }.setLine n ((s.mxOf n).foldl (fun c (x : MxOp) => x.perform c) (s.line n))

/-- MATRIX_OPERATION_COMPLETE (R196, R213): the oldest operation of engine `arg.ch`. -/
def execMatrixOperationComplete (s : State) : Host.Outcome State Fault Refusal :=
  match s.mx.find? fun x => x.line / 8 == s.ctl.arg.ch with
  | none => s.notDue
  | some x => .next ({ s with mx := s.mx.erase x }.setLine x.line (x.perform (s.line x.line)))

/-! ### EMIT (R214) -/

/-- EMIT (R214). At or after the deadline it counts in LATEEMIT; its pixels still count as emitted for R209, and are
dropped as those of a band that is the Virga fallback's (R368, log 33). -/
def execEmit (w : MSlot) (s : State) : Host.Outcome State Fault Refusal :=
  lIssue s fun e =>
    let h := e.s.head e.lc.head
    let y := (e.zr w.b.toNat).toNat
    let x0 := (e.zr w.a.toNat).toNat
    if h.bandLines e.lc.band ≤ y then .fault 5
    else
      let put (m : List (Nat × BitVec 48)) (l : Nat) : List (Nat × BitVec 48) :=
        if recWidth h.record ≤ x0 + l then m
        else SMap.put m (8192 * y + x0 + l) ((e.wr (w.d.toNat + 1) l).extractLsb' 0 16 ++ e.wr w.d.toNat l)
      let lc := { e.lc with emitted := ((List.range 16).filter (e.on w.mke w.mreg)).foldl put e.lc.emitted }
      let s := e.s.setLine e.n lc
      .act (if h.pointD e.lc.frame e.lc.band ≤ h.line then s.setHead e.lc.head (h.count 4) else s)

/-! ### Band faults (R215) -/

/-- A line core stopped: idle, its pending matrix operations cancelled. -/
def State.stopLine (s : State) (n : Nat) : State :=
  { s with mx := s.mx.filter fun x => x.line != n }.setLine n { s.line n with st := .idle, emitted := [] }

/-- A band fault with its cause recorded. A band that runs at its deadline has OUTCOME 1 whatever stops it then, so that one
stopped at D or later counts as ended there (R368). -/
def State.bandFaultOf (s : State) (n cause : Nat) : State :=
  let c := s.line n
  let h := s.head c.head
  let late (b : Band) : Option Int := if h.pointD c.frame c.band ≤ h.line then some (b.doneAt.getD h.line) else b.doneAt
  (s.setHead c.head (h.updBand c.frame c.band fun b => { b with cause := cause, doneAt := late b })).stopLine n

end Sys2Proof.Machine
end

