-- ==== Sys2Proof/Machine/Headcfg.lean ====
section
/-!
DEFINITION. HEADCFG: the checks made as its packet is taken, and its effect on a head (R357 to R361, R437).
-/

namespace Sys2Proof.Machine

/-! ### The limits of a mode (R359, R437) -/

/-- A finite value above 0. -/
def finPos (v : Word) : Bool := match f32v v with | .fin false m => m != 0 | _ => false

/-- The link configurations in the order in which they are tried: rate in Mbit/s, lanes, and the code's
payload share. -/
def linkConfigs : List (Nat × Nat × Nat × Nat) :=
  ([1620, 2700, 5400, 8100].flatMap fun r => [(r, 1, 8, 10), (r, 2, 8, 10), (r, 4, 8, 10)]) ++
  ([10000, 13500, 20000].flatMap fun r => [(r, 1, 128, 132), (r, 2, 128, 132), (r, 4, 128, 132)])

/-- Bits per second of a mode. -/
def modeRate (r : BitVec 1024) : Nat := 3 * (8 + 2 * recBpc r) * 1000 * recPixclk r

/-- The first configuration whose payload covers a mode. -/
def linkFor (r : BitVec 1024) : Option (Nat × Nat) :=
  (linkConfigs.find? fun c => decide (modeRate r * c.2.2.2 ≤ c.2.1 * c.1 * 1000000 * c.2.2.1)).map fun c => (c.1, c.2.1)

/-- Reserved fields of a head record. -/
def recZero (r : BitVec 1024) : Bool :=
  recBits r 1023 672 == 0 && recBits r 255 236 == 0 && recBits r 127 122 == 0

/-- Every field of a head record in its range, and the mode within the limits that do not depend on other
heads (R359). -/
def recRange (r : BitVec 1024) : Bool :=
  let hv := recHtotal r * recVtotal r
  recPresent r % 128 == 0 && recStatus r % 16 == 0 && recMailbox r % 64 == 0 && recRstab r % 64 == 0 &&
  recProg r % 16 == 0 && recProgsize r % 16 == 0 && decide (16 ≤ recProgsize r) && decide (recProgsize r ≤ 524288) &&
  finPos (recFx r) && finPos (recFy r) && decide (recBpc r ≤ 1) && decide (recResv r ≤ 32) &&
  decide (8 ≤ recLatch r) && decide (recLatch r ≤ 2048) && decide (recHeight r < recVtotal r) &&
  decide (recWidth r < recHtotal r) && decide (1 ≤ recHeight r) && decide (recHeight r ≤ 4320) &&
  decide (1 ≤ recWidth r) && decide (recWidth r ≤ 7680) && decide (1 ≤ recPixclk r) && decide (recPixclk r ≤ 2400000) &&
  decide (1000 * recPixclk r ≤ 480 * hv) &&
  decide (recWidth r * recHeight r * 1000 * recPixclk r ≤ 2000000000 * hv) && (linkFor r).isSome

/-- The limits that a record meets beside the other enabled heads (R359). -/
def State.recFits (s : State) (h : Nat) (r : BitVec 1024) : Bool :=
  let others := (List.range 4).filter fun k => k != h && (s.head k).on
  let sum := (others.map fun k => recResv (s.head k).record).foldl (· + ·) (recResv r)
  decide (sum ≤ 32) && recLcmask r != 0 && others.all fun k => recLcmask (s.head k).record &&& recLcmask r == 0

/-- Every page of a range is a FRAME page. -/
def State.framePages (s : State) (asid va n : Nat) : Bool :=
  (List.range ((va + n + 65535) / 65536 - va / 65536)).all fun i =>
    match s.translateIO asid (max va (65536 * (va / 65536 + i))) with | .ok p => p.kind == 1 | .error _ => false

/-- The addresses of a head record are usable (R359). -/
def State.recPages (s : State) (tenant : Nat) (r : BitVec 1024) : Bool :=
  let a := recAsid r
  let frames := 16 * recWidth r * recHeight r
  s.asidOk tenant a && s.rangeOk a (recProg r) (recProgsize r) .read &&
  s.rangeOk a (recRstab r) 576 .read && s.framePages a (recRstab r) 576 &&
  s.rangeOk a (recMailbox r) 64 .read && s.framePages a (recMailbox r) 64 &&
  s.rangeOk a (recPresent r) frames .read && s.rangeOk a (recPresent r) frames .write &&
  s.framePages a (recPresent r) frames &&
  s.rangeOk a (recStatus r) 8640 .read && s.rangeOk a (recStatus r) 8640 .write

/-! ### The packet (R357, R358) -/

/-- A head that another tenant has enabled. -/
def State.otherEnabled (s : State) (tenant : Nat) : Bool :=
  (List.range 4).any fun k => (s.head k).on && !bit (BitVec.ofNat 4 (s.tenantField tenant 7 4)) k

/-- The fields of a HEADCFG (R357, R358). -/
def headFields (c : Command) : Bool :=
  let w0 := Command.word c 0
  let mb := Command.word c 1
  decide (w0 / 4 % 64 = 0) && decide (w0 / 512 = 0) && (mb == 0xFF || (mb % 16 == 0 && decide (mb ≤ 192))) &&
  Command.zeroFrom c 4 && (Command.bits c 0 8 8 == 0 || Command.addr c 2 % 64 == 0)

/-- A HEADCFG checked as its packet is taken: what it is to do, or the status that fails it (R357 to R359). -/
def State.headTake (s : State) (c : Command) (n : Nat) : State × Except Status HeadChange :=
  let t := Command.tenant c
  let h := Command.bits c 0 1 0
  let mb := Command.word c 1
  let change : HeadChange :=
    { record := 0, prog := [], fcpmb := mb, link := (0, 0), queue := c.queue, id := c.id, n := n }
  if !headFields c then (s, .error .resv)
  else if !bit (BitVec.ofNat 4 (s.tenantField t 7 4)) h then (s, .error .priv)
  else if mb ≠ 0xFF ∧ s.otherEnabled t then (s, .error .priv)
  else if Command.bits c 0 8 8 = 0 then (s, .ok change)
  else
    let r := s.vaNat t (s.abase t) (Command.addr c 2) 128 .read
    match r.2 with
    | none => (r.1, .error .prot)
    | some v =>
      let rec_ : BitVec 1024 := BitVec.ofNat 1024 v
      if !recZero rec_ then (r.1, .error .resv)
      else if !recRange rec_ || !r.1.recFits h rec_ then (r.1, .error .bounds)
      else if !r.1.recPages t rec_ then (r.1, .error .prot)
      else
        match linkFor rec_ with
        | none => (r.1, .error .bounds)
        | some k =>
          if !Config.sinkTrains h k.2 k.1 then (r.1, .error .bounds)
          else
            let p := r.1.vaRead t (recAsid rec_) (recProg rec_) (recProgsize rec_) .read
            match p.2 with
            | none => (p.1, .error .prot)
            | some bs => (p.1, .ok { change with record := rec_, prog := bs, link := k })

/-! ### The effect (R360, R361, R358) -/

/-- Every dirty line of the frame cache partition written back; a new size takes effect, and lines beyond
it are evicted (R358, R360). -/
def State.resizeFrame (s : State) (mb : Nat) : State :=
  if mb = 0xFF then s
  else
    let s' := s.frame.foldl (fun s p => if p.2.dirty = 0 then s else s.homeWrite p.1 p.2.dirty p.2.data) s
    { s' with frame := (s.frame.map fun p => (p.1, { p.2 with dirty := 0 })).take (mb * 8192),
              fw := { s'.fw with fcpmb := mb } }

/-- The line cores of a head released: running ones stopped, all idle (R361). -/
def State.releaseLines (s : State) (h : Nat) : State :=
  (List.range 32).foldl
    (fun s n => if (s.line n).st ≠ .idle ∧ (s.line n).head = h then s.stopLine n else s) s

/-- The points of the absolute line that a head stands at, in their order (R362, R369, R371). -/
def Head.pointsAt (h : Head) (line : Int) : List Point :=
  let v := recVtotal h.record
  let band (x : Int) : Option (Nat × Nat) :=
    let f := (x.toNat) / v
    let n := (x.toNat) % v
    if x < 0 ∨ v = 0 ∨ n % 16 ≠ 0 ∨ h.bands ≤ n / 16 then none else some (f, n / 16)
  let at_ (x : Int) (g : Nat × Nat → List Point) : List Point := match band x with | some p => g p | none => []
  at_ line (fun p => [.scan p.1 p.2]) ++ at_ (line + 8) (fun p => [.deadline p.1 p.2]) ++
  at_ (line + 8 + (recLatch h.record : Int)) (fun p => (if p.2 = 0 then [.renderSet p.1] else []) ++ [.pose p.1 p.2])

/-- The bands whose point P lies before a line, in order (R361): those of the frames that can reach back so
far. -/
def Head.pastBands (h : Head) (line : Int) : List (Nat × Nat) :=
  let v := recVtotal h.record
  if v = 0 then []
  else
    ((List.range ((line + 8 + (recLatch h.record : Int)).toNat / v + 1)).flatMap fun f =>
      (List.range h.bands).map fun b => (f, b)).filter fun p => decide (h.pointP p.1 p.2 < line)

/-- A band that enters the head's list. -/
def Head.newBand (h : Head) (f b : Nat) (kept : Bool) : Band :=
  { frame := f, band := b, pose := h.pose, poseseq := h.poseseq, kept := kept, rs := h.rs, rskept := h.rskept,
    lcore := none, doneAt := none, cause := 0, outcome := none, pixels := [] }

/-- A band whose point P fell before the change (R361): never dispatched, its pose kept; settled at once
where its deadline fell before the change too. -/
def Head.missedBand (h : Head) (f b : Nat) : Head :=
  let h := { h with live := h.live ++ [h.newBand f b true] }.count 2
  if h.pointD f b < h.line then
    let h := h.count 1
    { h.updBand f b fun x => { x with outcome := some 3 } with prevPose := SMap.put h.prevPose b h.pose }
  else h

/-- The head's line buffers brought into its mask are zeroed, after what was still to be stored there (R198). -/
def State.zeroLines (s : State) (m : BitVec 32) : State :=
  (lanesOf m).foldl (fun s n => let s := s.settleMx n; s.setLine n { s.line n with lb := [] }) s

end Sys2Proof.Machine
end

