-- ==== Sys2Proof/Machine/Bands.lean ====
section
/-!
DEFINITION. A head's points: the effect of a HEADCFG, the latches of render sets and poses, the band queue,
deadlines with the Virga fallback, and scan-out (R360 to R372).
-/

namespace Sys2Proof.Machine

/-! ### Latches (R364 to R366) -/

/-- A descriptor of the render-set table, where every field is in range (R363). -/
def rsOf (d : BitVec 1024) : Option RenderSet :=
  let w := recBits d 47 32
  let h := recBits d 63 48
  let cp := recBits d 287 256
  let zp := recBits d 319 288
  let mp := recBits d 351 320
  if recBits d 1023 768 = 0 ∧ recBits d 511 352 = 0 ∧ 1 ≤ w ∧ w ≤ 8192 ∧ 1 ≤ h ∧ h ≤ 8192 ∧
      recBits d 127 64 % 8 = 0 ∧ recBits d 191 128 % 4 = 0 ∧ recBits d 255 192 % 4 = 0 ∧
      cp % 8 = 0 ∧ 8 * w ≤ cp ∧ zp % 4 = 0 ∧ 4 * w ≤ zp ∧ mp % 4 = 0 ∧ 4 * w ≤ mp then
    some { seq := d.extractLsb' 0 32, w := w, h := h, cbase := d.extractLsb' 64 64, zbase := d.extractLsb' 128 64,
           mbase := d.extractLsb' 192 64, cpitch := cp, zpitch := zp, mpitch := mp, zero := false }
  else none

/-- The render set that the head would adopt now; none keeps the one it has (R364). -/
def State.readRs (s : State) (h : Nat) : State × Option RenderSet :=
  let x := s.head h
  let a := recAsid x.record
  let t := s.vaNat x.tenant a (recRstab x.record) 64 .read
  match t.2 with
  | none => (t.1, none)
  | some v =>
    if v / 2 ^ 32 ≠ 0 then (t.1, none)
    else
      let d := t.1.vaNat x.tenant a (recRstab x.record + 64 + 128 * (v % 4)) 128 .read
      (d.1, d.2.bind fun n => if n % 2 ^ 32 = v then rsOf (BitVec.ofNat 1024 n) else none)

/-- The render-set latch (R364, R372). -/
def State.latchRs (s : State) (h : Nat) : State :=
  let r := s.readRs h
  let x := r.1.head h
  match r.2 with
  | some rs => r.1.setHead h { x with rs := rs, rskept := false }
  | none => r.1.setHead h (Head.count { x with rskept := true } 3)

/-- The pose latch of a band, which enters the band queue (R366, R367, R372). -/
def State.latchPose (s : State) (h f b : Nat) : State :=
  let x := s.head h
  let r := s.vaNat x.tenant (recAsid x.record) (recMailbox x.record) 64 .read
  let x := r.1.head h
  let good : Option Nat := r.2.bind fun v => if v % 2 = 0 ∧ bitsOf v 127 32 = 0 then some v else none
  let x := match good with
    | some v =>
      { x with poseseq := BitVec.ofNat 32 v, pose := (List.range 8).map fun i => BitVec.ofNat 32 (v / 2 ^ (128 + 32 * i)) }
    | none => x.count 2
  r.1.setHead h { x with live := x.live ++ [x.newBand f b good.isNone], queue := x.queue ++ [(f, b)] }

/-! ### HEADCFG in effect (R360, R361) -/

/-- The command of a change complete. -/
def State.changeDone (s : State) (c : HeadChange) : State := s.cmdPut c.id c.n fun k => { k with st := 2 }

/-- A change takes effect: the head starts at a line of its new frame count. -/
def State.applyHead (s : State) (h : Nat) (c : HeadChange) (line : Int) : State :=
  let was := s.head h
  let s := (s.releaseLines h).resizeFrame c.fcpmb
  let fresh := !was.on
  let s := s.zeroLines (if fresh then recLcmask c.record else recLcmask c.record &&& ~~~recLcmask was.record)
  let s := s.setHead h
    { was with
      on := true, tenant := c.queue / 64, record := c.record, prog := c.prog, pending := [], line := line, due := [],
      queue := [], live := [], counters := [], prevPose := [], link := true, linkCfg := c.link,
      pose := if fresh then List.replicate 8 0 else was.pose, poseseq := if fresh then 0 else was.poseseq,
      rs := if fresh then RenderSet.first else was.rs, rskept := if fresh then false else was.rskept }
  let s := ((s.head h).pastBands line).foldl
    (fun s p =>
      let s := if p.2 = 0 then s.latchRs h else s
      s.setHead h ((s.head h).missedBand p.1 p.2)) s
  let x := s.head h
  (s.setHead h { x with due := x.pointsAt line }).changeDone c

/-- A head disabled, or left disabled (R360, R361). It keeps its record, whose mode its black video has. Changes that
waited for the end of the frame have no frame to end: they complete with the disabling one (log 36). -/
def State.disableHead (s : State) (h : Nat) (c : HeadChange) : State :=
  let s := (s.releaseLines h).resizeFrame c.fcpmb
  let x := s.head h
  (x.pending ++ [c]).foldl State.changeDone
    (s.setHead h { x with on := false, pending := [], due := [], queue := [], live := [], counters := [],
                          prevPose := [], prog := [] })

/-- What the current HEADCFG is to do, and its head. -/
def State.thisChange (s : State) : Option (Nat × HeadChange) :=
  s.thisCmd.bind fun c => c.change.map fun x => (Command.bits c.cmd 0 1 0, x)

/-- A HEADCFG acts. -/
def State.headcfg (s : State) (f : Nat → HeadChange → State) : Host.Outcome State Fault Refusal :=
  match s.thisChange with
  | none => s.notDue
  | some (h, c) => .next (f h c)

/-- HEADCFG with ENABLE (R357, R360): of an enabled head it waits for the end of the frame, behind others that do. -/
def execHeadcfgEnable (s : State) : Host.Outcome State Fault Refusal :=
  s.headcfg fun h c =>
    if (s.head h).on then (s.setHead h { s.head h with pending := (s.head h).pending ++ [c] }).cmdStart
    else s.applyHead h c (-(2 * (recVtotal c.record : Int)))

/-- HEADCFG without ENABLE (R357, R360). -/
def execHeadcfgDisable (s : State) : Host.Outcome State Fault Refusal := s.headcfg fun h c => s.disableHead h c

/-! ### Lines and points -/

/-- The next line of a head begins (R360, R362). -/
def State.nextLine (s : State) (h : Nat) : State :=
  let x := s.head h
  let n := x.line + 1
  let change := !x.pending.isEmpty && n % (recVtotal x.record : Int) == 0
  s.setHead h { x with line := n, due := if change then [.effect] else x.pointsAt n }

/-- The link codes of a line of a band, red, green and blue by pixel (R370). -/
def lineCodes (r : BitVec 1024) (y : Nat) (px : List (Nat × BitVec 48)) : List Nat :=
  (px.filter fun p => p.1 / 8192 == y).flatMap fun p =>
    (List.range 3).map fun k => linkCode (8 + 2 * recBpc r) (p.2.extractLsb' (16 * k) 16).toNat

/-- The next line of a disabled head: black video of its last mode, where it has had one (R360). -/
def State.blackLine (s : State) (h : Nat) : State :=
  let x := s.head h
  let n := x.line + 1
  let y := (n % (recVtotal x.record : Int)).toNat
  if recVtotal x.record = 0 then s
  else
    let s := s.setHead h { x with line := n }
    if x.link ∧ y < recHeight x.record then
      let px := (List.range (recWidth x.record)).map fun i => (i, (0 : BitVec 48))
      { s with ctl := { s.ctl with out := s.ctl.out ++ [.video h y (lineCodes x.record 0 px)] } }
    else s

/-- n lines of a head pass, up to the first with a point (R360, R362). -/
def State.tickLine (s : State) (h : Nat) : Nat → State
  | 0 => s
  | n + 1 =>
    if !(s.head h).on then State.tickLine (s.blackLine h) h n
    else if (s.head h).due.isEmpty then State.tickLine (s.nextLine h) h n
    else s

/-- The head's next point, passed. -/
def State.passPoint (s : State) (h : Nat) : State := s.setHead h { s.head h with due := (s.head h).due.tail }

/-- HEADCFG_EFFECT (R360): the end of line VTOTAL - 1 with changes pending on head `arg.head`, which take
effect in their order. -/
def execHeadcfgEffect (s : State) : Host.Outcome State Fault Refusal :=
  let h := s.ctl.arg.head
  match (s.head h).due.head?, (s.head h).pending with
  | some .effect, c :: cs => .next ((c :: cs).foldl (fun s c => s.applyHead h c 0) s)
  | _, _ => s.notDue

/-- RENDER_SET_LATCH (R362, R364). -/
def execRenderSetLatch (s : State) : Host.Outcome State Fault Refusal :=
  let h := s.ctl.arg.head
  match (s.head h).due.head? with
  | some (.renderSet _) => .next ((s.passPoint h).latchRs h)
  | _ => s.notDue

/-- POSE_LATCH (R362, R366, R367). -/
def execPoseLatch (s : State) : Host.Outcome State Fault Refusal :=
  let h := s.ctl.arg.head
  match (s.head h).due.head? with
  | some (.pose f b) => .next ((s.passPoint h).latchPose h f b)
  | _ => s.notDue

/-! ### Dispatch (R197, R367) -/

/-- The line core that the oldest band of a head goes to. -/
def State.freeLine (s : State) (h : Nat) : Option Nat :=
  (lanesOf (recLcmask (s.head h).record)).find? fun n => (s.line n).st != .running

/-- A line core given a band (R197, R200). -/
def LineCore.take (c : LineCore) (h f : Nat) (b : Band) : LineCore :=
  let c := if c.st = .waitNext then c else { LineCore.zero with lb := c.lb }
  { c with
    st := .running, head := h, band := b.band, frame := f, bandid := bandId h f b.band,
    line0 := BitVec.ofNat 32 (16 * b.band), pose := SMap.setList 0 [] 0 b.pose, emitted := [] }

/-- BAND_DISPATCH (R197, R367): no band at or past its deadline is dispatched. -/
def execBandDispatch (s : State) : Host.Outcome State Fault Refusal :=
  let h := s.ctl.arg.head
  let x := s.head h
  match x.queue with
  | [] => s.notDue
  | (f, b) :: rest =>
    match s.freeLine h, x.band? f b with
    | some n, some d =>
      if x.pointD f b ≤ x.line then s.notDue
      else
      let s := if (s.line n).st = .waitNext then s else s.settleMx n
      let x := { x.updBand f b fun d => { d with lcore := some n } with queue := rest }
      .next ((s.setHead h x).setLine n ((s.line n).take h f d))
    | _, _ => s.notDue

/-! ### The Virga fallback (R369) -/

/-- An exact sum, rounded once (R61). -/
def roundSum (l : List FVal) : Word := f32r .rne (FVal.sum .rne l)

/-- rot(q), by rows. -/
def rot (q : List Word) : List (List Word) :=
  let v (i : Nat) : FVal := f32v ((q[i]?).getD 0)
  let two : FVal := .fin false 2
  let m2 : FVal := .fin true 2
  let one : FVal := .fin false 1
  let x := v 0
  let y := v 1
  let z := v 2
  let w := v 3
  let p (k a b : FVal) : FVal := k.mul (a.mul b)
  [[roundSum [one, p m2 y y, p m2 z z], roundSum [p two x y, p m2 w z], roundSum [p two x z, p two w y]],
   [roundSum [p two x y, p two w z], roundSum [one, p m2 x x, p m2 z z], roundSum [p two y z, p m2 w x]],
   [roundSum [p two x z, p m2 w y], roundSum [p two y z, p two w x], roundSum [one, p m2 x x, p m2 y y]]]

/-- A quaternion that makes the matrix the identity. -/
def badQuat (q : List Word) : Bool :=
  let q := q.take 4
  (q.any fun w => !(f32v w).isFin) || q.all fun w => (f32v w).isZero

/-- M of R369. -/
def virgaM (qs qd : List Word) : List (List Word) :=
  if badQuat qs || badQuat qd then [[0x3F800000, 0, 0], [0, 0x3F800000, 0], [0, 0, 0x3F800000]]
  else
    let e (m : List (List Word)) (i j : Nat) : FVal := f32v ((((m[i]?).getD [])[j]?).getD 0)
    let a := rot qs
    let b := rot qd
    (List.range 3).map fun i => (List.range 3).map fun j =>
      roundSum ((List.range 3).map fun k => (e a k i).mul (e b k j))

/-- Where the pixel (x, y) reads frame f - 1; none for black. -/
def virgaUv (r : BitVec 1024) (m : List (List Word)) (x y : Nat) : Option (Word × Word) :=
  let half (n : Nat) : Word := f32r .rne (.fin false ((n : Rat) + 1 / 2))
  let a := fdiv (fsub .rne (half x) (recCx r)) (recFx r)
  let b := fdiv (fsub .rne (half y) (recCy r)) (recFy r)
  let row (i : Nat) : Word :=
    let e (j : Nat) : FVal := f32v ((((m[i]?).getD [])[j]?).getD 0)
    roundSum [(e 0).mul (f32v a), (e 1).mul (f32v b), e 2]
  let z := f32v (row 2)
  if z.isNan || !((FVal.fin false 0).lt z) then none
  else some (ffma .rne (recFx r) (fdiv (row 0) (row 2)) (recCx r), ffma .rne (recFy r) (fdiv (row 1) (row 2)) (recCy r))

/-- A texel of the presentation buffer of a frame; a page that fails gives a free value (log 11). -/
def State.presented (s : State) (h f x y : Nat) : State × Nat :=
  let d := s.head h
  let r := d.record
  let va := recPresent r + 8 * (f % 2) * recWidth r * recHeight r + 8 * (y * recWidth r + x)
  match s.pageIO (recAsid r) va .read with
  | some p => s.devRead d.tenant p 8
  | none => s.freeNat

/-- One pixel of the fallback: 48 bits. -/
def State.virgaPixel (s : State) (h f : Nat) (m : List (List Word)) (x y : Nat) : State × BitVec 48 :=
  let r := (s.head h).record
  match virgaUv r m x y with
  | none => (s, 0)
  | some (u, v) =>
    if uvNan (u, v) then (s, BitVec.ofNat 48 (0x7E00 * (1 + 2 ^ 16 + 2 ^ 32)))
    else
      let t := (footIdx u v (recWidth r) (recHeight r)).foldl
        (fun a p => let q := a.1.presented h (f - 1) p.1 p.2; (q.1, a.2 ++ [q.2])) (s, [])
      let chan (k : Nat) : Nat :=
        toHalf (footBlend u v (recWidth r) (recHeight r) fun i => halfChan ((t.2[i]?).getD 0) k)
      (t.1, BitVec.ofNat 48 (chan 0 + 2 ^ 16 * chan 1 + 2 ^ 32 * chan 2))

/-- The pixels of band b of frame f by the fallback; frame 0 follows black. -/
def State.virga (s : State) (h f b : Nat) (qd : List Word) : State × List (Nat × BitVec 48) :=
  let x := s.head h
  let w := recWidth x.record
  let places := (List.range (x.bandLines b)).flatMap fun y => (List.range w).map fun i => (i, y)
  if f = 0 then (s, places.map fun p => (8192 * p.2 + p.1, 0))
  else
    let m := virgaM (SMap.get [] x.prevPose b) qd
    places.foldl
      (fun a p => let q := a.1.virgaPixel h f m p.1 (16 * b + p.2); (q.1, a.2 ++ [(8192 * p.2 + p.1, q.2)])) (s, [])

/-! ### Deadlines and scan-out (R368, R370, R371) -/

/-- The outcome of a band at its deadline (R368). -/
def Band.settle (b : Band) (d : Int) : Nat :=
  match b.doneAt with
  | some n => if n < d then 0 else 1
  | none => if b.lcore.isNone then 3 else if b.cause ≠ 0 then 2 else 1

/-- BAND_DEADLINE (R368): a band already settled stays as it is. -/
def execBandDeadline (s : State) : Host.Outcome State Fault Refusal :=
  let h := s.ctl.arg.head
  match (s.head h).due.head? with
  | some (.deadline f b) =>
    let s := s.passPoint h
    match (s.head h).band? f b with
    | none => .next s
    | some d =>
      if d.outcome.isSome then .next s
      else
        let o := d.settle ((s.head h).pointD f b)
        let r := if o = 0 then (s, d.pixels) else s.virga h f b d.pose
        let x := r.1.head h
        let x := Head.count { x with queue := x.queue.filter fun q => q != (f, b), prevPose := SMap.put x.prevPose b d.pose }
          (if o = 0 then 0 else 1)
        .next (r.1.setHead h (x.updBand f b fun d => { d with outcome := some o, pixels := r.2 }))
  | _ => s.notDue

/-- The 16 bytes of a status entry (R371). -/
def Head.statusEntry (x : Head) (h f b : Nat) (d : Band) : Nat :=
  let o := d.outcome.getD 3
  let slack : Nat := match d.doneAt with
    | some n => if o = 0 then min 0xFFFF (x.pointD f b - n).toNat else 0
    | none => 0
  (bandId h f b).toNat + 2 ^ 32 * o + 2 ^ 35 * d.lcore.getD 0 + (if d.kept then 2 ^ 40 else 0) +
    (if d.rskept then 2 ^ 41 else 0) + 2 ^ 44 * d.cause + 2 ^ 48 * slack + 2 ^ 64 * d.rs.seq.toNat + 2 ^ 96 * d.poseseq.toNat

/-- A write of the head's; one that meets no page with W writes nothing. -/
def State.headWrite (s : State) (asid va n v : Nat) : State :=
  match s.pageIO asid va .write with
  | some p => s.devWrite p n v
  | none => s

/-- The pixels of a band written to the presentation buffer (R371). -/
def State.present (s : State) (h f b : Nat) (px : List (Nat × BitVec 48)) : State :=
  let r := (s.head h).record
  let base := recPresent r + 8 * (f % 2) * recWidth r * recHeight r
  px.foldl
    (fun s p => s.headWrite (recAsid r) (base + 8 * ((16 * b + p.1 / 8192) * recWidth r + p.1 % 8192)) 8 p.2.toNat) s

/-- A band sent to its sink while the link is up (R370, R437). -/
def State.scan (s : State) (h b : Nat) (px : List (Nat × BitVec 48)) : State :=
  let x := s.head h
  if x.link then
    { s with ctl := { s.ctl with out := s.ctl.out ++
        (List.range (x.bandLines b)).map fun y => .video h (16 * b + y) (lineCodes x.record y px) } }
  else s

/-- A line core that still runs a band is stopped at its point S (R368). -/
def State.stopBand (s : State) (h f b : Nat) : State :=
  (List.range 32).foldl
    (fun s n =>
      let c := s.line n
      if c.st = .running ∧ c.head = h ∧ c.frame = f ∧ c.band = b then s.stopLine n else s) s

/-- BAND_SCAN_OUT (R368, R370, R371). -/
def execBandScanOut (s : State) : Host.Outcome State Fault Refusal :=
  let h := s.ctl.arg.head
  match (s.head h).due.head? with
  | some (.scan f b) =>
    let s := (s.passPoint h).stopBand h f b
    let x := s.head h
    match x.band? f b with
    | none => .next s
    | some d =>
      let v := if d.outcome = some 3 ∧ d.pixels = [] then s.virga h f b d.pose else (s, d.pixels)
      let px := v.2
      let s := v.1.headWrite (recAsid x.record) (recStatus x.record + 16 * (f % 2 * 270 + b)) 16 (x.statusEntry h f b d)
      let s := (s.present h f b px).scan h b px
      .next (s.setHead h { s.head h with live := (s.head h).live.filter fun k => !(k.frame == f && k.band == b) })
  | _ => s.notDue

end Sys2Proof.Machine
end

