-- ==== Sys2Proof/Machine/Trit.lean ====
section
/-!
DEFINITION. The Trit Array: its A instructions and the steps of its commands (spec 09).
-/

namespace Sys2Proof.Machine

/-! ### The format word and the parameter block (R178, R180) -/

/-- ROWSC of a format word. -/
def fmtRowsc (f : Word) : Bool := bit f 16
/-- Trits of a scale group (R178). -/
def fmtGroup (f : Word) : Nat := if bitsOf f.toNat 11 8 = 1 then 240 else 120
/-- The chunk-masked form. -/
def fmtSparse (f : Word) : Bool := bitsOf f.toNat 7 6 == 1

/-- The lowest bit of the lowest reserved field of a format word (R186, check 5). -/
def fmtReserved (f : Word) : Option Nat :=
  let v := f.toNat
  if 1 < bitsOf v 3 0 then some 0
  else if bitsOf v 5 4 ≠ 0 then some 4
  else if 1 < bitsOf v 7 6 then some 6
  else if 1 < bitsOf v 11 8 then some 8
  else if bitsOf v 15 12 ≠ 0 then some 12
  else if bitsOf v 31 17 ≠ 0 then some 17
  else none

/-- Fields of a parameter block. -/
def blkM (b : BitVec 512) : Nat := bitsOf b.toNat 15 0
def blkN (b : BitVec 512) : Nat := bitsOf b.toNat 31 16
def blkK (b : BitVec 512) : Nat := bitsOf b.toNat 63 32
def blkABase (b : BitVec 512) : Nat := bitsOf b.toNat 95 64
def blkAStride (b : BitVec 512) : Nat := bitsOf b.toNat 127 96
def blkWBase (b : BitVec 512) : Nat := bitsOf b.toNat 159 128
def blkWStride (b : BitVec 512) : Nat := bitsOf b.toNat 191 160
def blkSBase (b : BitVec 512) : Nat := bitsOf b.toNat 223 192
def blkMBase (b : BitVec 512) : Nat := bitsOf b.toNat 255 224
def blkRBase (b : BitVec 512) : Nat := bitsOf b.toNat 287 256
def blkFlags (b : BitVec 512) : Nat := bitsOf b.toNat 319 288

/-- The lowest bit of the lowest field of a block outside its range (R180; R186, check 6). -/
def blkBad (f : Word) (b : BitVec 512) : Option Nat :=
  let g := fmtGroup f
  if blkM b = 0 ∨ 128 < blkM b then some 0
  else if blkN b = 0 ∨ 128 < blkN b then some 16
  else if blkK b % g ≠ 0 ∨ blkK b < g ∨ 30720 < blkK b then some 32
  else if blkAStride b < 5 * blkM b then some 96
  else if blkWStride b < blkN b then some 160
  else if !fmtSparse f ∧ blkMBase b ≠ 0 then some 224
  else if !fmtRowsc f ∧ blkRBase b ≠ 0 then some 256
  else if 2 ≤ blkFlags b then some 288
  else if bitsOf b.toNat 511 320 ≠ 0 then some 320
  else none

/-- Chunks of a run (R181). -/
def blkChunks (b : BitVec 512) : Nat := blkK b / 5

/-- The byte ranges that a run can read (R186, check 9). -/
def runRanges (f : Word) (b : BitVec 512) : List (Nat × Nat) :=
  let cs := List.range (blkChunks b)
  (cs.map fun c => (blkABase b + c * blkAStride b, 5 * blkM b)) ++
  (cs.map fun c => (blkWBase b / 5 + c * blkWStride b, blkN b)) ++
  ((List.range (blkK b / fmtGroup f)).map fun g => (blkSBase b + 256 * g, 2 * blkN b)) ++
  (if fmtSparse f then [(blkMBase b, 4 * ((blkChunks b + 23) / 24))] else []) ++
  (if fmtRowsc f then [(blkRBase b, 4 * blkM b)] else [])

/-- The first byte of a range that lies neither in the group's allocation nor in its window. -/
def Group.outside (g : Group) (r : Nat × Nat) : Option Nat :=
  let lim := g.kern.smem
  let win (a : Nat) : Bool := g.ring.isSome && decide (0x200000 ≤ a) && decide (a < 0x210000)
  let last := r.1 + r.2 - 1
  if r.2 = 0 then none
  else if r.1 < lim then
    (if last < lim then none else if win lim && win last then none else if win lim then some 0x210000 else some lim)
  else if win r.1 then (if win last then none else some 0x210000)
  else some r.1

/-- A trap whose TVAL names one of several offenders, which the spec leaves open (log 11). -/
def AEnv.trapAmong (e : AEnv) (c : Cause) (x : Nat) (xs : List Nat) : ARes :=
  let r := e.base.freeNat
  .trapAt r.1 c (BitVec.ofNat 64 (((x :: xs)[r.2 % (xs.length + 1)]?).getD x))

/-! ### Checks at issue (R186) -/

/-- Checks 1 to 3 and the waits before them; the format word at the head. -/
def AEnv.tile (e : AEnv) : Except ARes Word :=
  let c := e.s.core e.g.core
  let mine := (c.ta.queue.filter fun x => x.uid == e.g.uid).length + e.g.queues.t6.length
  if 16 ≤ c.ta.queue.length ∨ 8 ≤ mine then .error (.wait e.a)
  else if e.g.ring.isNone then .error (.trap .prot 0)
  else if !(c.ta.held && e.g.ring == some c.ta.holder) then .error (.trap .nocrown 0)
  else
    match e.g.queues.fmt with
    | [] => .error (.trap .fmtunder 0)
    | f :: _ => .ok f

/-- An accepted tile command (R176, R179, R186): its format word popped, its sequence number taken, its
epoch. -/
def AEnv.enqueue (e : AEnv) (f : Word) (zero : Bool) (blk : BitVec 512) : ARes :=
  let c := e.s.core e.g.core
  let ta := c.ta
  let opens := zero || !ta.epset
  let cmd : TaCmd := { uid := e.g.uid, seq := e.g.taSeq, zero := zero, fmt := f, block := blk, smem := e.g.smem, win := ta.visible, st := .queued }
  let ta := { ta with queue := ta.queue ++ [cmd], epset := true, eprs := if opens then fmtRowsc f else ta.eprs }
  let g := { e.g with taSeq := (e.g.taSeq + 1) % 65536, queues := { e.g.queues with fmt := e.g.queues.fmt.tail } }
  .ok ((e.s.setCore e.g.core { c with ta := ta }).setGroup g) e.a 0 false

/-- The addresses of a run's block that are misaligned (check 8 of R186). -/
def runMisaligned (f : Word) (blk : BitVec 512) : List Nat :=
  [(true, blkSBase blk, 2), (fmtSparse f, blkMBase blk, 4), (fmtRowsc f, blkRBase blk, 4)].filterMap fun x =>
    if x.1 && x.2.1 % x.2.2 != 0 then some x.2.1 else none

/-- Checks 4 to 9 of TA.RUN; of several addresses or ranges that fail one check, TVAL names any (log 11). -/
def AEnv.runChecks (e : AEnv) (f : Word) : ARes :=
  let a := e.s1.toNat
  if a % 64 ≠ 0 then .trap .align e.s1
  else if (e.g.spPlace a 64).isNone then .trap .prot e.s1
  else
    let blk := BitVec.ofNat 512 (e.s.spNat e.g a 64)
    let c := e.s.core e.g.core
    match fmtReserved f with
    | some b => .trap .tafmt (BitVec.ofNat 64 b)
    | none =>
      if c.ta.epset && fmtRowsc f != c.ta.eprs then .trap .tafmt 16
      else
        match blkBad f blk with
        | some b => .trap .tafmt (BitVec.ofNat 64 (0x100 + b))
        | none =>
          if blkWBase blk % 5 ≠ 0 then .trap .descalign (BitVec.ofNat 64 (blkWBase blk))
          else
            match runMisaligned f blk with
            | x :: xs => e.trapAmong .align x xs
            | [] =>
              match (runRanges f blk).filterMap e.g.outside with
              | [] => e.enqueue f false blk
              | x :: xs => e.trapAmong .prot x xs

/-! ### FMTQ, TA.RUN, TA.ZERO, TA.SWAP, TASTAT -/

/-- FMTQ (R185). -/
def aFmtq (e : AEnv) : ARes :=
  if 8 ≤ e.g.queues.fmt.length then .wait e.a
  else .ok (e.s.setGroup { e.g with queues := { e.g.queues with fmt := e.g.queues.fmt ++ [e.s1.setWidth 32] } }) e.a 0 false

def execFmtq (w : AWord) (s : State) : Host.Outcome State Fault Refusal := aIssue 0x35 none w s aFmtq
def execFmtqLong (p : APrefix) (w : AWord) (s : State) : Host.Outcome State Fault Refusal := aIssue 0x35 (some p) w s aFmtq

/-- TA.RUN (R186). -/
def aTaRun (e : AEnv) : ARes :=
  match e.tile with
  | .error r => r
  | .ok f => e.runChecks f

def execTaRun (w : AWord) (s : State) : Host.Outcome State Fault Refusal := aIssue 0x36 none w s aTaRun
def execTaRunLong (p : APrefix) (w : AWord) (s : State) : Host.Outcome State Fault Refusal := aIssue 0x36 (some p) w s aTaRun

/-- TA.ZERO (R187). -/
def execTaZero (w : AWord) (s : State) : Host.Outcome State Fault Refusal :=
  aIssue 0x37 none w s fun e =>
    match e.tile with
    | .error r => r
    | .ok f =>
      match fmtReserved f with
      | some b => .trap .tafmt (BitVec.ofNat 64 b)
      | none => e.enqueue f true 0

/-- The banks exchanged, with the epoch's row scales applied (R188). -/
def TritArray.swap (t : TritArray) : TritArray :=
  let scaled : SMap Word :=
    if t.eprs then
      (List.range 16384).foldl (fun m k =>
        SMap.set 0 m k (fmul .rne (SMap.get 0 t.working k) (SMap.get 0x3F800000 t.rowsc (k / 128)))) []
    else t.working
  { t with working := t.visible, visible := scaled, epset := false, rowsc := [] }

/-- TA.SWAP (R188). -/
def execTaSwap (w : AWord) (s : State) : Host.Outcome State Fault Refusal :=
  aIssue 0x38 none w s fun e =>
    let c := e.s.core e.g.core
    let t := c.ta
    if e.g.ring.isNone then .trap .prot 0
    else if !(t.held && e.g.ring == some t.holder) then .trap .nocrown 0
    else if !t.queue.isEmpty then .wait e.a
    else if t.poison then
      if t.fpend && t.fowner == e.g.uid then
        let t' := { t with fpend := false }
        let t6 := updFirst (fun x => bitsOf x.toNat 15 0 == t.fseq) clearErr e.g.queues.t6
        .trapAt ((e.s.setCore e.g.core { c with ta := t' }).setGroup { e.g with queues := { e.g.queues with t6 := t6 } })
          .tafault t'.status
      else .trap .tafault t.status
    else .ok (e.base.setCore e.g.core { c with ta := t.swap }) e.a 0 false

/-- TASTAT (R189). -/
def execTastat (w : AWord) (s : State) : Host.Outcome State Fault Refusal :=
  aAlu 0x39 none w s fun e => (e.s.core e.g.core).ta.status

/-! ### The crown (R191) -/

def execCrownTake (w : AWord) (s : State) : Host.Outcome State Fault Refusal :=
  aIssue 0x3A none w s fun e =>
    match e.g.ring with
    | none => .trap .prot 0
    | some p =>
      let c := e.s.core e.g.core
      if c.ta.held then
        (if c.ta.holder = p then .ok e.base { e.a with crownWait := false } 0 false
         else .wait { e.a with crownWait := true })
      else
        .ok (e.base.setCore e.g.core { c with ta := { c.ta with held := true, holder := p } }) { e.a with crownWait := false } 0 false

def execCrownPass (w : AWord) (s : State) : Host.Outcome State Fault Refusal :=
  aIssue 0x3B none w s fun e =>
    match e.g.ring with
    | none => .trap .prot 0
    | some p =>
      let c := e.s.core e.g.core
      let give (q : Nat) : ARes := .ok (e.base.setCore e.g.core { c with ta := { c.ta with holder := q } }) e.a 0 false
      if !(c.ta.held && c.ta.holder == p) then .trap .nocrown 0
      else if bit e.i.s2 8 then give ((nextRing c.ta.ring p).getD p)
      else
        let q := e.i.s2bits 2 0
        if (SMap.find c.ta.ring q).isNone then .trap .prot 0 else give q

/-! ### Runs (R182, R194) -/

/-- The value of activation i of row m in chunk c (R181). -/
def runAct (rd : Nat → Nat) (f : Word) (b : BitVec 512) (m c i : Nat) : Int :=
  let v := rd (blkABase b + c * blkAStride b + 5 * m + i)
  if bitsOf f.toNat 3 0 = 1 then (v : Int) else sextI 8 v

/-- A run as far as it has come: the bank, the partials of the group, the fault that stops it, and the chunk at
which an uncorrectable error strikes the bank, with its FADDR (R194). -/
structure RunAcc where
  bank : SMap Word
  part : SMap Int
  present : Nat
  fault : Option (Nat × Nat × Nat)
  soft : Option (Nat × Nat)

/-- One chunk of a run (R182). -/
def runChunk (rd : Nat → Nat) (f : Word) (b : BitVec 512) (r : RunAcc) (c : Nat) : RunAcc :=
  if r.fault.isSome then r
  else if (r.soft.map Prod.fst) = some c then { r with fault := some (2, (r.soft.map Prod.snd).getD 0, c) }
  else
    let ma := blkMBase b + 4 * (c / 24)
    let mw := leNat ((List.range 4).map fun i => BitVec.ofNat 8 (rd (ma + i)))
    if fmtSparse f && bitsOf mw 31 24 != 0 then { r with fault := some (1, ma, c) }
    else if fmtSparse f && (mw / 2 ^ (c % 24)) % 2 == 0 then r
    else
      let wa := blkWBase b / 5 + c * blkWStride b
      let wb := (List.range (blkN b)).map fun n => rd (wa + n)
      match wb.findIdx? fun x => 243 ≤ x with
      | some n => { r with fault := some (0, wa + n, c) }
      | none =>
        if !fmtSparse f && wb.all (· == 0) then r
        else
          let add (p : SMap Int) (m n x : Nat) : SMap Int :=
            let v := (List.range 5).foldl (fun s i => s + runAct rd f b m c i * tritOf x i) (0 : Int)
            SMap.put p (128 * m + n) (SMap.get 0 p (128 * m + n) + v)
          let part := (List.range (blkM b)).foldl (fun p m => wb.zipIdx.foldl (fun p x => add p m x.2 x.1) p) r.part
          { r with part := part, present := r.present + 1 }

/-- One scale group of a run: its chunks, then the update of every cell (R182, R63). -/
def runGroup (rd : Nat → Nat) (f : Word) (b : BitVec 512) (r : RunAcc) (g : Nat) : RunAcc :=
  let n := fmtGroup f / 5
  let r := (List.range n).foldl (fun r c => runChunk rd f b r (g * n + c)) { r with part := [] }
  if r.fault.isSome then r
  else
    let scale (j : Nat) : FVal :=
      bf16.decode (rd (blkSBase b + 256 * g + 2 * j) + 256 * rd (blkSBase b + 256 * g + 2 * j + 1))
    let cell (bank : SMap Word) (m j : Nat) : SMap Word :=
      let k := 128 * m + j
      let p : Rat := (SMap.get 0 r.part k : Int)
      let v := f32r .rne (FVal.sum .rne [(FVal.ofRat p).mul (scale j), f32v (SMap.get 0 bank k)])
      SMap.set 0 bank k v
    { r with bank := (List.range (blkM b)).foldl (fun k m => (List.range (blkN b)).foldl (fun k j => cell k m j) k) r.bank }

/-- A run as a whole (R182). -/
def runBlock (rd : Nat → Nat) (f : Word) (b : BitVec 512) (bank : SMap Word) (soft : Option (Nat × Nat)) : RunAcc :=
  let bank :=
    if bit b 288 then
      (List.range (blkM b)).foldl (fun k m => (List.range (blkN b)).foldl (fun k j => SMap.del k (128 * m + j)) k) bank
    else bank
  (List.range (blkK b / fmtGroup f)).foldl (runGroup rd f b) { bank := bank, part := [], present := 0, fault := none, soft := soft }

/-- A byte as it stood when a command was accepted. -/
def TaCmd.was (x : TaCmd) (g : Group) (a : Nat) : Byte :=
  match g.spPlace a 1 with
  | some .alloc => SMap.get 0 x.smem a
  | some (.window o) => TritArray.winByte { TritArray.zero with visible := x.win } o
  | none => 0

/-- A byte that a run reads: where it has been written since the run was accepted, freely the old value or the new
(R186). -/
def State.taByte (s : State) (g : Group) (x : TaCmd) (free a : Nat) : Nat :=
  let new := s.spByte g a
  let old := x.was g a
  if new = old then new.toNat else if free / 2 ^ a % 2 = 0 then new.toNat else old.toNat

/-- The head of core n's array queue starts, with the error that strikes it, if one does. -/
def State.taStart (s : State) (n : Nat) (soft : Option (Nat × Nat)) : Host.Outcome State Fault Refusal :=
  let c := s.core n
  match c.ta.queue with
  | [] => s.notDue
  | x :: rest =>
    if x.st ≠ .queued ∨ (x.zero ∧ soft.isSome) then s.notDue
    else if x.zero then
      .next (s.setCore n { c with ta := { c.ta with
        working := [], poison := false, rowsc := [], queue := { x with st := .ran } :: rest } })
    else
      match s.group? x.uid with
      | none => s.notDue
      | some g =>
        let fr := s.freeNat
        let rd := s.taByte g x fr.2
        let r := runBlock rd x.fmt x.block c.ta.working soft
        let word (a : Nat) : Word := BitVec.ofNat 32 (leNat ((List.range 4).map fun i => BitVec.ofNat 8 (rd (a + i))))
        let rowsc :=
          if fmtRowsc x.fmt then
            (List.range (blkM x.block)).foldl (fun m k => SMap.put m k (word (blkRBase x.block + 4 * k))) c.ta.rowsc
          else c.ta.rowsc
        let st : TaSt := match r.fault with | some (k, a, ch) => .faulted k a ch | none => .ran
        let s := fr.1.setCore n { c with ta := { c.ta with working := r.bank, rowsc := rowsc, queue := { x with st := st } :: rest } }
        .next (s.bump g.tenant 12 n r.present)

/-- The head of core `arg.core`'s array queue starts (R182, R183, R187): a run reads its operands and
updates the working bank; TA.ZERO clears it with its mark. -/
def execTaCommandStart (s : State) : Host.Outcome State Fault Refusal := s.taStart s.ctl.arg.core none

/-- The run fault of the head of core `arg.core`'s array queue strikes (R194). -/
def execTaRunFault (s : State) : Host.Outcome State Fault Refusal :=
  let n := s.ctl.arg.core
  let c := s.core n
  match c.ta.queue with
  | [] => s.notDue
  | x :: rest =>
    match x.st with
    | .faulted k a ch =>
      let g := s.group? x.uid
      .next (s.setCore n { c with ta := { c.ta with
        poison := true, faddr := a, fchunk := ch, fcause := k, fqtr := (g.map Group.quarter).getD 0,
        fctx := (g.map Group.actx).getD 0, fpend := true, fowner := x.uid, fseq := x.seq,
        queue := { x with st := .struck } :: rest } })
    | _ => s.notDue

/-- The head of core `arg.core`'s array queue completes: its token goes to its group's queue 6 (R176,
R177). -/
def execTaCommandComplete (s : State) : Host.Outcome State Fault Refusal :=
  let n := s.ctl.arg.core
  let c := s.core n
  match c.ta.queue with
  | [] => s.notDue
  | x :: rest =>
    if x.st ≠ .ran ∧ x.st ≠ .struck then s.notDue
    else
      let s := s.setCore n { c with ta := { c.ta with queue := rest } }
      match s.group? x.uid with
      | none => .next s
      | some g =>
        let tok := BitVec.ofNat 32 (x.seq + 2 ^ 28 * (if x.zero then 2 else 1) + (if x.st = .struck then 3 * 2 ^ 30 else 0))
        .next (s.setGroup { g with queues := { g.queues with t6 := g.queues.t6 ++ [tok] } })

end Sys2Proof.Machine
end

