-- ==== Sys2Proof/Machine/Copy.lean ====
section
/-!
DEFINITION. The copy engine: its A instructions with their checks, and the steps of its commands
(spec 14).
-/

namespace Sys2Proof.Machine

/-! ### Descriptors (R283, R287, R289) -/

/-- Bits h:l of a descriptor. -/
def dbits (d : BitVec 512) (h l : Nat) : Nat := bitsOf d.toNat h l

def dSrc (d : BitVec 512) : Nat := dbits d 63 0
def dDst (d : BitVec 512) : Nat := dbits d 127 64
def dAux (d : BitVec 512) : Nat := dbits d 189 128
def dSpitch (d : BitVec 512) : Nat := dbits d 221 190
def dDpitch (d : BitVec 512) : Nat := dbits d 253 222
def dCols (d : BitVec 512) : Nat := dbits d 269 254
def dRows (d : BitVec 512) : Nat := dbits d 285 270
def dSfmt (d : BitVec 512) : Nat := dbits d 290 286
def dDfmt (d : BitVec 512) : Nat := dbits d 295 291
def dSSP (d : BitVec 512) : Bool := bit d 296
def dDSP (d : BitVec 512) : Bool := bit d 297
def dASP (d : BitVec 512) : Bool := bit d 298
def dSoff (d : BitVec 512) : Nat := dbits d 299 299
def dDoff (d : BitVec 512) : Nat := dbits d 300 300
def dRM (d : BitVec 512) : Nat := dbits d 302 301
def dNS (d : BitVec 512) : Bool := bit d 303
def dQrow (d : BitVec 512) : Bool := bit d 304
def dTrans (d : BitVec 512) : Bool := bit d 305

/-- Bits of an element of a copy format, or of the unit that its rows are counted in: code 16 is a trit byte, 7 the bytes of E2M1X blocks. -/
def ceWidth (f : Nat) : Nat := if f = 16 ∨ f = 7 then 8 else cvtWidth f

/-- Whether a format has 4-bit elements that start at any nibble (R283). -/
def ceNibble (f : Nat) : Bool := f == 5 || f == 14 || f == 15

/-- The lowest of the failing fields. -/
def lowestField (l : List (Bool × Nat)) : Option Nat :=
  (l.filter fun p => p.1).foldl (fun a p => match a with | none => some p.2 | some m => some (min m p.2)) none

/-- Check 3 of R281 for CPY and CPYX (R283, R284). -/
def cpyFields (x : Bool) (d : BitVec 512) : Option Nat :=
  let sf := dSfmt d
  let df := dDfmt d
  lowestField
    [(!dQrow d && dAux d != 0, 128), (dCols d == 0, 254), (dRows d == 0, 270), (decide (16 < sf), 286), (decide (16 < df), 291),
     (dbits d 511 306 != 0, 306),
     (!x && sf != df, 286), (!x && dRM d != 0, 301), (!x && dNS d, 303), (!x && dQrow d, 304), (!x && dTrans d, 305),
     (x && (sf == 16) != (df == 16), 286), (x && sf == 7 && df == 7, 286),
     (x && dTrans d && !(sf == 16 && df == 16), 286), (x && sf == 16 && df == 16 && !dTrans d, 286),
     (x && dQrow d && !(sf ≤ 2), 286), (x && dQrow d && df != 8, 291), (x && dNS d && !(df == 3 || df == 4), 291)]

/-- Check 3 for CPYLV (R287). -/
def lvFields (d : BitVec 512) : Option Nat :=
  lowestField
    [(dSpitch d != 0, 190), (dDpitch d != 0, 222), (dCols d != 0, 254), (dRows d == 0, 270), (dSfmt d != 0, 286), (dDfmt d != 0, 291),
     (dSoff d != 0, 299), (dDoff d != 0, 300), (dRM d != 0, 301), (dNS d, 303), (dQrow d, 304), (dTrans d, 305),
     (dbits d 511 306 != 0, 306)]

def kKsrc (d : BitVec 512) : Nat := dbits d 63 0
def kVsrc (d : BitVec 512) : Nat := dbits d 127 64
def kPtab (d : BitVec 512) : Nat := dbits d 191 128
def kCnt (d : BitVec 512) : Nat := dbits d 255 192
def kD (d : BitVec 512) : Nat := dbits d 271 256
def kMaxpg (d : BitVec 512) : Nat := dbits d 287 272
def kSp (d : BitVec 512) : Bool := bit d 288

/-- Check 3 for KVAPP (R289). -/
def kvFields (d : BitVec 512) : Option Nat :=
  lowestField
    [(decide (kD d < 8 ∨ 1024 < kD d ∨ kD d % 8 ≠ 0), 256), (kMaxpg d == 0, 272), (dbits d 511 289 != 0, 289)]

/-! ### The layout of the operands (R283, R286) -/

/-- Chunk rows, bytes per row and pitch of the source or the destination, as (rows, bytes). -/
def srcShape (d : BitVec 512) : Nat × Nat :=
  if dTrans d then ((dRows d + 4) / 5, dCols d)
  else if dSfmt d = 7 then (dRows d, 14 * ((dCols d + 23) / 24))
  else (dRows d, (ceWidth (dSfmt d) * (dCols d + dSoff d) + 7) / 8)
def dstShape (d : BitVec 512) : Nat × Nat :=
  if dTrans d then ((dCols d + 4) / 5, dRows d)
  else if dDfmt d = 7 then (dRows d, 14 * ((dCols d + 23) / 24))
  else (dRows d, (ceWidth (dDfmt d) * (dCols d + dDoff d) + 7) / 8)

/-- The scratchpad ranges that issue can compute (R281, check 6), of a kind: 0 CPY, 1 CPYX, 2 CPYLV, 3 KVAPP. -/
def padRanges (kind : Nat) (d : BitVec 512) : List (Nat × Nat) :=
  let rows (a p : Nat) (sh : Nat × Nat) : List (Nat × Nat) := (List.range sh.1).map fun r => (a + r * p, sh.2)
  match kind with
  | 0 | 1 =>
    (if dSSP d then rows (dSrc d) (dSpitch d) (srcShape d) else []) ++
    (if dDSP d then rows (dDst d) (dDpitch d) (dstShape d) else []) ++
    (if dQrow d && dASP d then [(dAux d, 4 * dRows d)] else [])
  | 2 =>
    (if dSSP d then [(dSrc d, 64 * dRows d)] else []) ++ (if dASP d && dAux d != 0 then [(dAux d, 4)] else [])
  | _ => if kSp d then [(kKsrc d, 2 * kD d), (kVsrc d, 2 * kD d)] else []

/-- The global start addresses of a command. -/
def globalStarts (kind : Nat) (d : BitVec 512) : List Nat :=
  match kind with
  | 0 | 1 | 2 =>
    (if dSSP d then [] else [dSrc d]) ++ (if dDSP d then [] else [dDst d]) ++ (if dASP d then [] else [dAux d])
  | _ => [kPtab d, kCnt d] ++ (if kSp d then [] else [kKsrc d, kVsrc d])

/-- Check 4 (R283): the element addresses of the starts that break a rule. -/
def offBad (kind : Nat) (d : BitVec 512) : List Nat :=
  if 2 ≤ kind then []
  else
    (if dSoff d = 1 && !ceNibble (dSfmt d) then [dSrc d + 1] else []) ++
    (if dDoff d = 1 && !ceNibble (dDfmt d) then [dDst d + 1] else [])

/-- Check 5: a misaligned address, or a misaligned pitch, for which TVAL is open (none). -/
def alignBad (kind : Nat) (d : BitVec 512) : Option (Option Nat) :=
  let a (l : List (Nat × Nat)) : Option (Option Nat) := (l.find? fun p => p.1 % p.2 != 0).map fun p => some p.1
  match kind with
  | 0 | 1 =>
    let sn := max 1 (ceWidth (dSfmt d) / 8)
    let dn := max 1 (ceWidth (dDfmt d) / 8)
    (a [(dSrc d, sn), (dDst d, dn)]) <|>
    (if dSpitch d % sn ≠ 0 || dDpitch d % dn ≠ 0 then some none else none) <|>
    (if dQrow d then a [(dAux d, 4)] else none)
  | 2 => a [(dSrc d, 64), (dDst d, 4), (dAux d, 4)]
  | _ => a [(kKsrc d, 16), (kVsrc d, 16), (kPtab d, 8), (kCnt d, 4)]

/-! ### Issue (R277 to R281) -/

/-- Fields of the completion operand (R278). -/
def ceCh (w : AWord) : Nat := w.s2bits 1 0
def ceTok (w : AWord) : Bool := bit w.s2 2
def ceSem (w : AWord) : Option Nat := if bit w.s2 3 then some (w.s2bits 9 4) else none

/-- The group's commands that are not complete, or whose tokens are not popped (R277). -/
def State.ceOutstanding (s : State) (g : Group) : Nat :=
  ((s.core g.core).chans.map fun p => (p.2.filter fun x => x.uid == g.uid).length).sum + g.queues.t7.length

def State.chan (s : State) (c n : Nat) : List CeCmd := SMap.get [] (s.core c).chans n
def State.setChan (s : State) (c n : Nat) (l : List CeCmd) : State :=
  s.setCore c { s.core c with chans := SMap.set [] (s.core c).chans n l }

/-- A command enters its channel, after the check of its semaphore (R423). -/
def AEnv.ceEnter (e : AEnv) (kind : Nat) (d : BitVec 512) : ARes :=
  let n := ceCh e.i
  let bad := match ceSem e.i with | some i => !semOwned e.g.tenant i | none => false
  if bad then .trap .prot (BitVec.ofNat 64 ((ceSem e.i).getD 0))
  else
    let x : CeCmd := { uid := e.g.uid, seq := e.g.ceSeq, kind := kind, scope := e.p.scope.toNat, sem := ceSem e.i,
                       tok := ceTok e.i, desc := d, st := .queued, next := 0, park := none, old := [], puts := [] }
    let s := e.s.setChan e.g.core n (e.s.chan e.g.core n ++ [x])
    .ok (s.setGroup { e.g with ceSeq := (e.g.ceSeq + 1) % 65536 }) e.a 0 false

/-- The waits of R277. -/
def AEnv.ceFull (e : AEnv) : Bool :=
  decide (16 ≤ (e.s.chan e.g.core (ceCh e.i)).length) || decide (16 ≤ e.s.ceOutstanding e.g)

/-- CPY, CPYX, CPYLV and KVAPP: the checks of R281 in order. Which of several failing starts or ranges TVAL names is open
(log 11, log 29). -/
def ceIssue (kind : Nat) (e : AEnv) : ARes :=
  let a := e.a.reg e.i.s1.toNat
  if e.ceFull then .wait e.a
  else if a.toNat % 64 ≠ 0 then .trap .align a
  else if (e.g.spPlace a.toNat 64).isNone then .trap .prot a
  else
    let d := BitVec.ofNat 512 (e.s.spNat e.g a.toNat 64)
    let fields := match kind with | 0 => cpyFields false d | 1 => cpyFields true d | 2 => lvFields d | _ => kvFields d
    match fields with
    | some b => .trap .tafmt (BitVec.ofNat 64 (0x200 + b))
    | none =>
      match offBad kind d with
      | x :: xs => e.trapAmong .descalign x xs
      | [] =>
        match alignBad kind d with
        | some (some x) => .trap .align (BitVec.ofNat 64 x)
        | some none => let r := e.base.freeNat; .trapAt r.1 .align (BitVec.ofNat 64 r.2)
        | none =>
          match (padRanges kind d).filterMap e.g.outside ++ (globalStarts kind d).filter fun x => 2 ^ 52 ≤ x with
          | x :: xs => e.trapAmong .prot x xs
          | [] => e.ceEnter kind d

/-- CPYW (R291): the address and the value stand in the command. -/
def cpywIssue (e : AEnv) : ARes :=
  let a := e.a.reg e.i.s1.toNat
  if e.ceFull then .wait e.a
  else if a.toNat % 8 ≠ 0 then .trap .align a
  else if 2 ^ 52 ≤ a.toNat then .trap .prot a
  else e.ceEnter 4 (BitVec.ofNat 512 (a.toNat + 2 ^ 64 * (e.a.reg e.i.d.toNat).toNat))

def execCpy (w : AWord) (s : State) : Host.Outcome State Fault Refusal := aIssue 0x30 none w s (ceIssue 0)
def execCpyLong (p : APrefix) (w : AWord) (s : State) : Host.Outcome State Fault Refusal := aIssue 0x30 (some p) w s (ceIssue 0)
def execCpyx (w : AWord) (s : State) : Host.Outcome State Fault Refusal := aIssue 0x31 none w s (ceIssue 1)
def execCpyxLong (p : APrefix) (w : AWord) (s : State) : Host.Outcome State Fault Refusal := aIssue 0x31 (some p) w s (ceIssue 1)
def execCpylv (w : AWord) (s : State) : Host.Outcome State Fault Refusal := aIssue 0x32 none w s (ceIssue 2)
def execCpylvLong (p : APrefix) (w : AWord) (s : State) : Host.Outcome State Fault Refusal := aIssue 0x32 (some p) w s (ceIssue 2)
def execKvapp (w : AWord) (s : State) : Host.Outcome State Fault Refusal := aIssue 0x33 none w s (ceIssue 3)
def execKvappLong (p : APrefix) (w : AWord) (s : State) : Host.Outcome State Fault Refusal := aIssue 0x33 (some p) w s (ceIssue 3)
def execCpyw (w : AWord) (s : State) : Host.Outcome State Fault Refusal := aIssue 0x34 none w s cpywIssue
def execCpywLong (p : APrefix) (w : AWord) (s : State) : Host.Outcome State Fault Refusal := aIssue 0x34 (some p) w s cpywIssue

/-! ### Execution: accesses and their stops (R280, R282) -/

/-- Why a command stops: a translation fault, which parks it, or a fault with its cause. -/
inductive CeStop where
  | xlate (va k : Nat)
  | fault (cause : Nat)
  deriving DecidableEq, Repr

/-- One access after another, until one stops. -/
def ceThen {α β : Type} (r : State × Except CeStop α) (f : State → α → State × Except CeStop β) :
    State × Except CeStop β :=
  match r.2 with
  | .error e => (r.1, .error e)
  | .ok a => f r.1 a

/-- A fold of accesses over a list. -/
def ceFold {α β : Type} (f : State → β → α → State × Except CeStop β) (s : State) (b : β) :
    List α → State × Except CeStop β
  | [] => (s, .ok b)
  | x :: xs => ceThen (f s b x) fun s b => ceFold f s b xs

/-- Who accesses: the group, the scope, whether the operand is in scratchpad, and the source's bytes that the command
has overwritten. -/
structure CeAgent where
  uid : Nat
  sc : Nat
  pad : Bool
  old : SMap Byte

/-- What an element of n bytes reads whose bytes now hold v, where the command itself may have overwritten them: freely the
value from before the command or the one that it has written there, and the one from before where it has overwritten
only some of the bytes (R280). -/
def State.ceOld (s : State) (old : SMap Byte) (a n v : Nat) : State × Nat :=
  let was := leNat ((List.range n).map fun i => (SMap.find old (a + i)).getD (BitVec.ofNat 8 (v / 2 ^ (8 * i))))
  if (List.range n).all fun i => (SMap.find old (a + i)).isSome then
    let r := s.freeNat
    (r.1, if r.2 % 2 = 0 then v else was)
  else (s, was)

/-- n bytes read, in one aligned access. -/
def State.ceRead (s : State) (x : CeAgent) (a n : Nat) : State × Except CeStop Nat :=
  match s.group? x.uid with
  | none => (s, .error (.fault 1))
  | some g =>
    if x.pad then
      (if (g.outside (a, n)).isSome then (s, .error (.fault 1))
       else let r := s.ceOld x.old a n (s.spNat g a n); (r.1, .ok r.2))
    else if 2 ^ 52 ≤ a then (s, .error (.fault 1))
    else
      let t := s.translate g.core g.tenant g.asid a
      match t.2 with
      | .error k => (t.1, .error (.xlate a k))
      | .ok p =>
        if !p.r then (t.1, .error (.fault 1))
        else
          let v := t.1.gLoad g.core g.tenant x.sc p n
          let r := v.1.ceOld x.old a n v.2
          (r.1, .ok r.2)

/-- n bytes written, in one aligned access; with a mask of bits that keep their value (a nibble). -/
def State.ceWrite (s : State) (x : CeAgent) (a n v keep : Nat) : State × Except CeStop Unit :=
  let mix (old : Nat) : Nat := (old &&& keep) ||| (v % 2 ^ (8 * n) &&& (2 ^ (8 * n) - 1 - keep))
  match s.group? x.uid with
  | none => (s, .error (.fault 1))
  | some g =>
    if x.pad then
      (if (g.outside (a, n)).isSome then (s, .error (.fault 1))
       else (s.spPuts x.uid a (leBytes n (mix (s.spNat g a n))), .ok ()))
    else if 2 ^ 52 ≤ a then (s, .error (.fault 1))
    else
      let t := s.translate g.core g.tenant g.asid a
      match t.2 with
      | .error k => (t.1, .error (.xlate a k))
      | .ok p =>
        if !p.w then (t.1, .error (.fault 1))
        else
          let r := if keep = 0 then (t.1, 0) else t.1.gLoad g.core g.tenant x.sc p n
          let s := r.1.gStore g.core g.tenant x.sc p n (mix r.2)
          (s.wroteOne x.uid p n, .ok ())

/-- The bytes of one element read one by one. -/
def State.ceBytes (s : State) (x : CeAgent) (a n : Nat) : State × Except CeStop Nat :=
  ceThen (ceFold (fun s (v : Nat) i =>
      ceThen (s.ceRead { x with old := [] } (a + i) 1) fun s b => (s, .ok (v + b * 2 ^ (8 * i)))) s 0 (List.range n))
    fun s v => let r := s.ceOld x.old a n v; (r.1, .ok r.2)

/-- A byte may be written; nothing is. -/
def State.ceMay (s : State) (x : CeAgent) (a : Nat) : State × Except CeStop Unit :=
  match s.group? x.uid with
  | none => (s, .error (.fault 1))
  | some g =>
    if x.pad then (s, if (g.outside (a, 1)).isSome then .error (.fault 1) else .ok ())
    else if 2 ^ 52 ≤ a then (s, .error (.fault 1))
    else
      let t := s.translate g.core g.tenant g.asid a
      (t.1, match t.2 with
        | .error k => .error (.xlate a k)
        | .ok p => if p.w then .ok () else .error (.fault 1))

/-- The 14 bytes of a block of E2M1X, planned: all of them or, where one may not be written, none, since every element of the
block needs its scale (R52, R282). -/
def State.ceBlock (s : State) (x : CeAgent) (a v i : Nat) : State × Except CeStop (List CePut) :=
  ceThen (s.ceMay x a) fun s _ => ceThen (s.ceMay x (a + 13)) fun s _ =>
    (s, .ok ((List.range 14).map fun k => { pad := x.pad, a := a + k, n := 1, v := v / 2 ^ (8 * k), keep := 0, index := i }))

/-- Element c of a row in a format (R48, R283): its code. -/
def State.ceElem (s : State) (x : CeAgent) (fmt row off c : Nat) : State × Except CeStop Nat :=
  if ceNibble fmt then
    ceThen (s.ceRead x (row + (off + c) / 2) 1) fun s b => (s, .ok (b / 2 ^ (4 * ((off + c) % 2)) % 16))
  else s.ceRead x (row + c * (ceWidth fmt / 8)) (ceWidth fmt / 8)

/-- The write of element c of a row, that reports index i. -/
def cePutElem (x : CeAgent) (fmt row off c v i : Nat) : CePut :=
  if ceNibble fmt then
    let h := (off + c) % 2
    { pad := x.pad, a := row + (off + c) / 2, n := 1, v := v % 16 * 2 ^ (4 * h), keep := if h = 0 then 0xF0 else 0x0F, index := i }
  else { pad := x.pad, a := row + c * (ceWidth fmt / 8), n := ceWidth fmt / 8, v := v, keep := 0, index := i }

/-- The exact value of a source element (R284). -/
def State.ceValue (s : State) (x : CeAgent) (d : BitVec 512) (r c : Nat) : State × Except CeStop FVal :=
  let row := dSrc d + r * dSpitch d
  if dSfmt d = 7 then
    ceThen (s.ceBytes x (row + 14 * (c / 24)) 14) fun s b => (s, .ok (decodeE2m1x b (c % 24)))
  else ceThen (s.ceElem x (dSfmt d) row (dSoff d) c) fun s v => (s, .ok (cvtDecode (dSfmt d) v))

/-! ### The units of a command -/

/-- Accesses of a unit, whose stop carries the index that it reports. -/
abbrev CeUnit := State × Except (CeStop × Nat) Unit

/-- A unit's reads, and the writes that it has to make, in their order. -/
abbrev CePlan := State × Except (CeStop × Nat) (List CePut)

/-- An access of a unit whose stop reports index i. -/
def ceAt {α : Type} (i : Nat) (r : State × Except CeStop α) : State × Except (CeStop × Nat) α :=
  (r.1, match r.2 with | .ok a => .ok a | .error e => .error (e, i))

/-- The source and destination agents of a command. -/
def ceSrc (x : CeCmd) : CeAgent := { uid := x.uid, sc := x.scope, pad := dSSP x.desc, old := x.old }
def ceDst (x : CeCmd) : CeAgent := { uid := x.uid, sc := x.scope, pad := dDSP x.desc, old := [] }
def ceAux (x : CeCmd) : CeAgent := { uid := x.uid, sc := x.scope, pad := dASP x.desc, old := [] }

/-- Units of a CPY or CPYX: elements, blocks of E2M1X, rows under QROW, destination bytes under TRANS. -/
def cpyUnits (d : BitVec 512) : Nat :=
  if dTrans d then (dCols d + 4) / 5 * dRows d
  else if dQrow d then dRows d
  else if dDfmt d = 7 then dRows d * ((dCols d + 23) / 24)
  else dRows d * dCols d

/-- A unit of a trit transpose (R286). -/
def transUnit (x : CeCmd) (s : State) (i : Nat) : CePlan :=
  let d := x.desc
  let dr := i / dRows d
  let k := i % dRows d
  let one (s : State) (v : Nat) (j : Nat) : State × Except CeStop Nat :=
    if dCols d ≤ 5 * dr + j then (s, .ok v)
    else
      ceThen (s.ceRead (ceSrc x) (dSrc d + k / 5 * dSpitch d + (5 * dr + j)) 1) fun s b =>
        if tritLegal b then (s, .ok (v + tritDigit b (k % 5) * 3 ^ j)) else (s, .error (.fault 2))
  ceAt i (ceThen (ceFold one s 0 (List.range 5)) fun s v =>
    (s, .ok [{ pad := dDSP d, a := dDst d + dr * dDpitch d + k, n := 1, v := v, keep := 0, index := i }]))

/-- The values of the n elements of row r from the c-th on. -/
def State.ceValues (s : State) (x : CeCmd) (r c n : Nat) : State × Except CeStop (List FVal) :=
  ceFold (fun s l k => ceThen (s.ceValue (ceSrc x) x.desc r (c + k)) fun s v => (s, .ok (l ++ [v]))) s [] (List.range n)

/-- The scale of a row under QROW and its codes (R285). -/
def quantRow (xs : List FVal) : Word × List Nat :=
  if xs.any fun v => !v.isFin then (qnan, xs.map fun _ => 0)
  else
    let sc := f32r .rne (.fin false (xs.foldl (fun a v => max a v.mag) (0 : Rat) / 127))
    let sv := (f32v sc).toRat
    (sc, xs.map fun v => if sv = 0 then 0 else ((toIntSat .rne (-128) 127 (FVal.ofRat (v.toRat / sv))) % 256).toNat)

/-- A row of a QROW command, then its scale (R285): each of its elements takes the whole row, so a fault of a source element is
its first element's. -/
def qrowUnit (x : CeCmd) (s : State) (r : Nat) : CePlan :=
  let d := x.desc
  ceAt (r * dCols d) (ceThen (s.ceValues x r 0 (dCols d)) fun s xs =>
    let q := quantRow xs
    (s, .ok ((q.2.zipIdx.map fun p =>
        cePutElem (ceDst x) (dDfmt d) (dDst d + r * dDpitch d) (dDoff d) p.2 p.1 (r * dCols d + p.2)) ++
      [{ pad := dASP d, a := dAux d + 4 * r, n := 4, v := q.1.toNat, keep := 0, index := r * dCols d + dCols d - 1 }])))

/-- A block of E2M1X formed (R284), or copied (R283): its elements are encoded together, so a fault is its first element's. -/
def blockUnit (x : CeCmd) (s : State) (i : Nat) : CePlan :=
  let d := x.desc
  let nb := (dCols d + 23) / 24
  let r := i / nb
  let b := i % nb
  let first := r * dCols d + 24 * b
  let out := dDst d + r * dDpitch d + 14 * b
  ceAt first (
    if x.kind = 0 then
      ceThen (s.ceBytes (ceSrc x) (dSrc d + r * dSpitch d + 14 * b) 14) fun s v => s.ceBlock (ceDst x) out v first
    else
      ceThen (s.ceValues x r (24 * b) (min 24 (dCols d - 24 * b))) fun s xs =>
        s.ceBlock (ceDst x) out (encodeE2m1x xs) first)

/-- An element copied (R283) or converted (R284). -/
def elemUnit (x : CeCmd) (s : State) (i : Nat) : CePlan :=
  let d := x.desc
  let r := i / dCols d
  let c := i % dCols d
  let put (v : Nat) : List CePut := [cePutElem (ceDst x) (dDfmt d) (dDst d + r * dDpitch d) (dDoff d) c v i]
  ceAt i (
    if x.kind = 0 then
      ceThen (s.ceElem (ceSrc x) (dSfmt d) (dSrc d + r * dSpitch d) (dSoff d) c) fun s v => (s, .ok (put v))
    else
      ceThen (s.ceValue (ceSrc x) d r c) fun s v =>
        (s, .ok (put ((cvtEncode (dDfmt d) (RMode.ofBits (dRM d)) (dNS d) v).toNat % 2 ^ ceWidth (dDfmt d)))))

/-- Unit i of a CPY or CPYX. -/
def cpyUnit (x : CeCmd) (s : State) (i : Nat) : CePlan :=
  if dTrans x.desc then transUnit x s i
  else if dQrow x.desc then qrowUnit x s i
  else if dDfmt x.desc = 7 then blockUnit x s i
  else elemUnit x s i

/-! ### CPYLV (R287, R288) -/

/-- The position after the one bits from `pos` on, and their number; none past bit 511. -/
def riceOnes (line pos : Nat) : Nat → Option (Nat × Nat)
  | 0 => none
  | fuel + 1 =>
    if 512 ≤ pos then none
    else if (line / 2 ^ pos) % 2 = 0 then some (pos, 0)
    else (riceOnes line (pos + 1) fuel).map fun p => (p.1, p.2 + 1)

/-- The results of a line; none for a malformed one (R288). -/
def riceLine (line : Nat) : Option (List Word) :=
  let count := bitsOf line 9 0
  let k := bitsOf line 14 10
  let delta := (line / 2 ^ 15) % 2 = 1
  let base := bitsOf line 47 16
  if 464 < count then none
  else
    let one (a : Option (Nat × Int × List Word)) (_ : Nat) : Option (Nat × Int × List Word) :=
      match a with
      | none => none
      | some (pos, prev, l) =>
        match riceOnes line pos 512 with
        | none => none
        | some (p, q) =>
          if 512 < p + 1 + k then none
          else
            let u := q * 2 ^ k + (line / 2 ^ (p + 1)) % 2 ^ k
            let sg : Int := if u % 2 = 0 then (u / 2 : Nat) else -(((u + 1) / 2 : Nat) : Int)
            let v : Int := (if delta then prev else (base : Int)) + sg
            some (p + 1 + k, v, l ++ [BitVec.ofInt 32 v])
    ((List.range count).foldl one (some (48, (base : Int), []))).map fun r => r.2.2

/-- Line j of a CPYLV whose earlier lines gave n results. -/
def lvLine (x : CeCmd) (s : State) (j n : Nat) : CePlan :=
  ceAt j (ceThen (s.ceRead (ceSrc x) (dSrc x.desc + 64 * j) 64) fun s v =>
    match riceLine v with
    | none => (s, .error (.fault 3))
    | some l => (s, .ok (l.zipIdx.map fun p =>
        { pad := dDSP x.desc, a := dDst x.desc + 4 * (n + p.2), n := 4, v := p.1.toNat, keep := 0, index := j })))

/-! ### KVAPP (R290) -/

/-- The agents of a KVAPP: its vectors, and global memory. -/
def kvSrc (x : CeCmd) : CeAgent := { uid := x.uid, sc := x.scope, pad := kSp x.desc, old := x.old }
def kvMem (x : CeCmd) : CeAgent := { uid := x.uid, sc := x.scope, pad := false, old := [] }

/-- The scale and codes of a channel over 128 tokens. -/
def sealChannel (xs : List Nat) : Nat × List Nat :=
  let vs := xs.map bf16.decode
  if vs.any fun v => !v.isFin then (0x7FC0, vs.map fun _ => 0)
  else
    let sc := bf16.round .ru false (.fin false (vs.foldl (fun a v => max a v.mag) (0 : Rat) / 7))
    let sv := (bf16.decode sc).toRat
    (sc, vs.map fun v => if sv = 0 then 0 else ((toIntSat .rne (-8) 7 (FVal.ofRat (v.toRat / sv))) % 16).toNat)

/-- A page sealed in place (R290): every open token is read before any sealed byte is written. -/
def sealPage (x : CeCmd) (s : State) (n pg : Nat) : State × Except CeStop (List CePut) :=
  let dn := kD x.desc
  let m := kvMem x
  let read (s : State) (base : Nat) : State × Except CeStop (List Nat) :=
    ceFold (fun s (l : List Nat) i => ceThen (s.ceRead m (base + 2 * i) 2) fun s v => (s, .ok (l ++ [v]))) s []
      (List.range (128 * dn))
  let half (codes scales : Nat) (xs : List Nat) : List CePut :=
    let ch := (List.range dn).map fun c => sealChannel ((List.range 128).map fun t => (xs[t * dn + c]?).getD 0)
    let code (i : Nat) : Nat := (((ch[i % dn]?).getD (0, [])).2[i / dn]?).getD 0
    ((List.range (64 * dn)).map fun b =>
      { pad := false, a := codes + b, n := 1, v := code (2 * b) + 16 * code (2 * b + 1), keep := 0, index := n }) ++
    ch.zipIdx.map fun c => { pad := false, a := scales + 2 * c.2, n := 2, v := c.1.1, keep := 0, index := n }
  ceThen (read s pg) fun s ks =>
    ceThen (read s (pg + 256 * dn)) fun s vs =>
      (s, .ok (half pg (pg + 64 * dn) ks ++ half (pg + 66 * dn) (pg + 130 * dn) vs))

/-- The source bytes of a KVAPP as they stand before it writes, where it could overwrite them (R280). -/
def kvKeep (x : CeCmd) (s : State) : State × CeCmd :=
  if kSp x.desc then (s, x)
  else
    let l := (List.range (2 * kD x.desc)).flatMap fun i => [kKsrc x.desc + i, kVsrc x.desc + i]
    let r := l.foldl (fun (a : State × SMap Byte) b =>
      let v := a.1.ceRead (kvMem x) b 1
      (v.1, match v.2 with | .ok n => SMap.put a.2 b (BitVec.ofNat 8 n) | .error _ => a.2)) (s, x.old)
    (r.1, { x with old := r.2 })

/-- The count of a KVAPP read. -/
def kvCount (x : CeCmd) (s : State) : State × Except (CeStop × Nat) Nat :=
  let c := s.ceRead (kvMem x) (kCnt x.desc) 4
  match c.2 with
  | .error e => let r := c.1.freeNat; (r.1, .error (e, r.2))
  | .ok n => (c.1, .ok n)

/-- The seal of the page before, by the first token of a page. -/
def kvSeal (x : CeCmd) (s : State) (n : Nat) : CePlan :=
  if n % 128 ≠ 0 ∨ n = 0 then (s, .ok [])
  else
    ceAt n (ceThen (s.ceRead (kvMem x) (kPtab x.desc + 8 * (n / 128 - 1)) 8) fun s pg =>
      if pg = 0 then (s, .error (.fault 4)) else sealPage x s n pg)

/-- The token's vectors, and their place in its page. -/
def kvVectors (x : CeCmd) (s : State) (n : Nat) : CePlan :=
  let dn := kD x.desc
  let p := n / 128
  let t := n % 128
  let read (s : State) (src : Nat) : State × Except CeStop (List Nat) :=
    ceFold (fun s l c => ceThen (s.ceRead (kvSrc x) (src + 2 * c) 2) fun s v => (s, .ok (l ++ [v]))) s [] (List.range dn)
  let puts (dst : Nat) (l : List Nat) : List CePut :=
    l.zipIdx.map fun v => { pad := false, a := dst + 2 * (t * dn + v.2), n := 2, v := v.1, keep := 0, index := n }
  if kMaxpg x.desc ≤ p then (s, .error (.fault 4, n))
  else
    ceAt n (ceThen (s.ceRead (kvMem x) (kPtab x.desc + 8 * p) 8) fun s pg =>
      if pg = 0 then (s, .error (.fault 4))
      else
        ceThen (read s (kKsrc x.desc)) fun s ks => ceThen (read s (kVsrc x.desc)) fun s vs =>
          (s, .ok (puts pg ks ++ puts (pg + 256 * dn) vs)))

/-- The count written, last. -/
def kvEnd (x : CeCmd) (s : State) (n : Nat) : CeUnit := ceAt n (s.ceWrite (kvMem x) (kCnt x.desc) 4 ((n + 1) % 2 ^ 32) 0)

/-! ### The steps of a command -/

/-- What a command comes to in a turn. -/
inductive CeTurn where
  | done
  | more (next : Nat)
  | stop (next : Nat) (e : CeStop) (index : Nat)

/-- The source of a command and a bound of its destination, as first byte and end. -/
def CeCmd.spans (x : CeCmd) : (Nat × Nat) × (Nat × Nat) :=
  let d := x.desc
  if x.kind = 2 then ((dSrc d, dSrc d + 64 * dRows d), (dDst d, dDst d + 1856 * dRows d))
  else
    let f := srcShape d
    let t := dstShape d
    ((dSrc d, dSrc d + (f.1 - 1) * dSpitch d + f.2), (dDst d, dDst d + (t.1 - 1) * dDpitch d + t.2))

/-- The source and the destination of a CPY, CPYX or CPYLV overlap (R280). -/
def CeCmd.overlaps (x : CeCmd) : Bool :=
  let p := x.spans
  decide (x.kind ≤ 2) && dSSP x.desc == dDSP x.desc && decide (p.1.1 < p.2.2) && decide (p.2.1 < p.1.2)

/-- A byte of a command's destination as it stands; none where it cannot be read. -/
def State.ceByte (s : State) (g : Group) (x : CeCmd) (a : Nat) : Option Byte :=
  if dDSP x.desc then some (BitVec.ofNat 8 (s.spNat g a 1))
  else match (s.translate g.core g.tenant g.asid a).2 with
    | .ok p => some (BitVec.ofNat 8 (s.gLoad g.core g.tenant x.scope p 1).2)
    | .error _ => none

/-- The command about to make a unit's writes: it keeps those of their bytes that are its source's as they stand. -/
def CeCmd.keep (x : CeCmd) (s : State) (g : Group) (l : List CePut) : CeCmd :=
  if x.overlaps then
    { x with puts := l, old := (l.filter fun p => p.pad == dDSP x.desc).foldl (fun m p => (List.range p.n).foldl (fun m i =>
        let a := p.a + i
        if (SMap.find m a).isSome || decide (a < x.spans.1.1) || decide (x.spans.1.2 ≤ a) then m
        else match s.ceByte g x a with | some b => SMap.put m a b | none => m) m) x.old }
  else { x with puts := l }

/-- A unit's plan; of a unit that a write has parked it is what was still to write (R282). -/
def CeCmd.planned (x : CeCmd) (s : State) (g : Group) (plan : State → CePlan) : State × Except (CeStop × Nat) CeCmd :=
  match x.puts with
  | [] => let r := plan s; (r.1, r.2.map (x.keep r.1 g))
  | _ :: _ => (s, .ok x)

/-- The writes of a unit made in order, until one stops: it and those after it stay in the command (R282). -/
def CeCmd.drain (x : CeCmd) (s : State) : List CePut → State × CeCmd × Except (CeStop × Nat) Unit
  | [] => (s, { x with puts := [] }, .ok ())
  | p :: ps =>
    let r := s.ceWrite { uid := x.uid, sc := x.scope, pad := p.pad, old := [] } p.a p.n p.v p.keep
    match r.2 with
    | .ok _ => x.drain r.1 ps
    | .error e => (r.1, { x with puts := p :: ps }, .error (e, p.index))

/-- A unit: its reads, then its writes. -/
def CeCmd.unit (x : CeCmd) (s : State) (g : Group) (plan : State → CePlan) : State × CeCmd × Except (CeStop × Nat) Unit :=
  let r := x.planned s g plan
  match r.2 with
  | .error e => (r.1, x, .error e)
  | .ok y => y.drain r.1 y.puts

/-- Up to `fuel` units of a CPY or CPYX, from the i-th on; `back` takes them from the last one back. -/
def ceUnits (g : Group) (back : Bool) : Nat → CeCmd → State → Nat → State × CeCmd × CeTurn
  | 0, x, s, i => (s, x, if cpyUnits x.desc ≤ i then .done else .more i)
  | f + 1, x, s, i =>
    if cpyUnits x.desc ≤ i then (s, x, .done)
    else
      let k := if back then cpyUnits x.desc - 1 - i else i
      let r := x.unit s g fun s => cpyUnit x s k
      match r.2.2 with
      | .ok _ => ceUnits g back f r.2.1 r.1 (i + 1)
      | .error e => (r.1, r.2.1, .stop i e.1 e.2)

/-- Units of a CPY or CPYX in a turn. The order of the elements shows only where source and destination overlap: there
a command that no element stops may as well take them from the last one back (R280, R282). -/
def cpyTurn (x : CeCmd) (s : State) (g : Group) (fuel : Nat) : State × CeCmd × CeTurn :=
  if x.next = 0 ∧ x.puts = [] ∧ x.overlaps then
    let r := s.freeNat
    let back := ceUnits g true (cpyUnits x.desc) x r.1 0
    match r.2 % 2, back.2.2 with
    | 1, .done => back
    | _, _ => ceUnits g false fuel x r.1 0
  else ceUnits g false fuel x s x.next

/-- The lines of a CPYLV: `next` holds the line, and 2^20 × the results before it; then the count. -/
def lvUnits (g : Group) : Nat → CeCmd → State → Nat → State × CeCmd × CeTurn
  | 0, x, s, i => (s, x, .more i)
  | f + 1, x, s, i =>
    let j := i % 2 ^ 20
    let n := i / 2 ^ 20
    if dRows x.desc ≤ j then
      if dAux x.desc = 0 then (s, x, .done)
      else
        let r := s.ceWrite (ceAux x) (dAux x.desc) 4 (n % 2 ^ 32) 0
        (r.1, x, match r.2 with | .ok _ => .done | .error e => .stop i e j)
    else
      let r := x.planned s g fun s => lvLine x s j n
      match r.2 with
      | .error e => (r.1, x, .stop i e.1 e.2)
      | .ok y =>
        let w := y.drain r.1 y.puts
        match w.2.2 with
        | .ok _ => lvUnits g f w.2.1 w.1 (j + 1 + 2 ^ 20 * (match y.puts.getLast? with | some p => (p.a - dDst x.desc) / 4 + 1 | none => n))
        | .error e => (w.1, w.2.1, .stop i e.1 e.2)

/-- KVAPP in parts between which other agents may act (R290): `next` is 0 before the count is read, and then 4 × the count
and 1 before the seal, 2 before the vectors, 3 before the count is written. -/
def kvUnits (g : Group) : Nat → CeCmd → State → Nat → State × CeCmd × CeTurn
  | 0, x, s, i => (s, x, .more i)
  | f + 1, x, s, i =>
    let n := i / 4
    let part (r : State × CeCmd × Except (CeStop × Nat) Unit) : State × CeCmd × CeTurn :=
      match r.2.2 with
      | .ok _ => if i % 4 = 3 then (r.1, r.2.1, .done) else kvUnits g f r.2.1 r.1 (i + 1)
      | .error e => (r.1, r.2.1, .stop i e.1 e.2)
    match i % 4 with
    | 0 =>
      let k := kvKeep x s
      let r := kvCount k.2 k.1
      match r.2 with
      | .ok n => kvUnits g f k.2 r.1 (4 * n + 1)
      | .error e => (r.1, k.2, .stop 0 e.1 e.2)
    | 1 => part (x.unit s g fun s => kvSeal x s n)
    | 2 => part (x.unit s g fun s => kvVectors x s n)
    | _ => let r := kvEnd x s n; part (r.1, x, r.2)

/-- CPYW (R291): its write is one side effect, also where it goes to a ring page (R235). -/
def cpywUnit (x : CeCmd) (s : State) (g : Group) : State × CeTurn :=
  let s := s.release g.tenant g.core x.scope
  let r := s.ceWrite (kvMem x) (dSrc x.desc) 8 (dDst x.desc) 0
  let ring := match (s.translate g.core g.tenant g.asid (dSrc x.desc)).2 with | .ok p => p.kind == 2 | .error _ => false
  match r.2 with
  | .ok _ => (if ring then r.1 else r.1.sideEffect x.uid, .done)
  | .error e => (r.1, .stop 0 e 0)

/-- The accesses that a command makes in a turn of at most `fuel` units. -/
def ceRun (x : CeCmd) (s : State) (g : Group) (fuel : Nat) : State × CeCmd × CeTurn :=
  match x.kind with
  | 0 | 1 => cpyTurn x s g fuel
  | 2 => lvUnits g (fuel + 1) x s x.next
  | 3 => kvUnits g fuel x s x.next
  | _ => let r := cpywUnit x s g; (r.1, x, r.2)

/-- The head of channel `arg.ch` of core `arg.core` starts or goes on (R277, R280, R282): it makes
`arg.len` units' accesses, or all that are left where that is 0; a translation fault parks it. -/
def execCeCommandStart (s : State) : Host.Outcome State Fault Refusal :=
  let a := s.ctl.arg
  match s.chan a.core a.ch with
  | [] => s.notDue
  | x :: rest =>
    match s.group? x.uid with
    | none => s.notDue
    | some g =>
      if x.st ≠ .queued || x.park.isSome then s.notDue
      else
        let fuel := if a.len = 0 then max 4 (max (cpyUnits x.desc) (dRows x.desc) + 1) else a.len
        let r := ceRun x s g fuel
        let put (s : State) (y : CeCmd) : Host.Outcome State Fault Refusal := .next (s.setChan a.core a.ch (y :: rest))
        let x := r.2.1
        match r.2.2 with
        | .done => put r.1 { x with st := .performed, old := [] }
        | .more i => put r.1 { x with next := i }
        | .stop i (.xlate va k) _ =>
          put (r.1.queueFault g va k 4)
            { x with next := i, park := some { asid := g.asid, va := va, cause := k, agent := 4 } }
        | .stop i (.fault c) idx => put r.1 { x with next := i, st := .faulted c idx, old := [], puts := [] }

/-- The head of channel `arg.ch` of core `arg.core` completes: the write-backs of its scope, its
semaphore, its token (R279, R282). -/
def execCeCommandComplete (s : State) : Host.Outcome State Fault Refusal :=
  let a := s.ctl.arg
  match s.chan a.core a.ch with
  | [] => s.notDue
  | x :: rest =>
    match s.group? x.uid with
    | none => s.notDue
    | some g =>
      let finish (info : Option Nat) : Host.Outcome State Fault Refusal :=
        let s := (s.release g.tenant a.core x.scope).setChan a.core a.ch rest
        let s := match x.sem, info with
          | some i, none => (s.semSet a.core i (semAdd (s.sem a.core i) 1)).sideEffect x.uid
          | _, _ => s
        if !x.tok && info.isNone then .next s
        else
          let tok := BitVec.ofNat 32 (x.seq + 2 ^ 16 * a.ch + 2 ^ 27 * x.kind + (if info.isSome then 3 * 2 ^ 30 else 0))
          match s.group? x.uid with
          | none => .next s
          | some g =>
            .next (s.setGroup { g with
              queues := { g.queues with t7 := g.queues.t7 ++ [tok] },
              ceScope := (x.seq, x.scope) :: g.ceScope.filter fun p => p.1 != x.seq,
              ceInfo := (match info with | some n => [(x.seq, n)] | none => []) ++ g.ceInfo.filter fun p => p.1 != x.seq })
      match x.st with
      | .queued => s.notDue
      | .performed => finish none
      | .faulted c i => finish (some (2 ^ 28 * c + i % 2 ^ 28))

end Sys2Proof.Machine
end

