-- ==== Sys2Proof/Machine/RayGeom.lean ====
section
/-!
DEFINITION. The numbers of the ray engine: the record's fields, ray directions, the classification of a
child box, and the triangle test (R312 to R322).
-/

namespace Sys2Proof.Machine

/-! ### The record (R312, R314) -/

/-- Word k of a query's record. -/
def RayQuery.word (q : RayQuery) (k : Nat) : Word := q.record.extractLsb' (32 * k) 32
/-- Three words from word k on. -/
def RayQuery.vec (q : RayQuery) (k : Nat) (c : Nat) : Word := q.word (k + c)

def RayQuery.org (q : RayQuery) : Nat → Word := q.vec 0
def RayQuery.tmin (q : RayQuery) : Word := q.word 3
def RayQuery.d00 (q : RayQuery) : Nat → Word := q.vec 4
def RayQuery.tmax (q : RayQuery) : Word := q.word 7
def RayQuery.d10 (q : RayQuery) : Nat → Word := q.vec 8
def RayQuery.grid (q : RayQuery) : Nat := (q.word 11).toNat
def RayQuery.d01 (q : RayQuery) : Nat → Word := q.vec 12
def RayQuery.spill (q : RayQuery) : Nat := (q.word 15).toNat
def RayQuery.d11 (q : RayQuery) : Nat → Word := q.vec 16
/-- TANH of a cone. -/
def RayQuery.tanh (q : RayQuery) : Word := q.word 16
def RayQuery.budget (q : RayQuery) : Nat := if q.spawned || q.kind == 1 then 0 else (q.word 19).toNat / 2 ^ 21
def RayQuery.entry (q : RayQuery) : Nat := (q.word 19).toNat % 2 ^ 21
def RayQuery.root (q : RayQuery) : Nat := (q.word 21 ++ q.word 20).toNat
def RayQuery.result (q : RayQuery) : Nat := (q.word 23 ++ q.word 22).toNat
def RayQuery.pitch (q : RayQuery) : Nat := (q.word 24).toNat
def RayQuery.rsp (q : RayQuery) : Bool := bit (q.word 25) 0
def RayQuery.mask (q : RayQuery) : Nat := q.grid / 2 ^ 6 % 256
def RayQuery.cols (q : RayQuery) : Nat := if q.kind = 1 then 1 else 2 ^ (q.grid % 8)
def RayQuery.rows (q : RayQuery) : Nat := if q.kind = 1 then 1 else 2 ^ (q.grid / 8 % 8)
/-- Every ray of a query. -/
def RayQuery.all (q : RayQuery) : Rect := { i0 := 0, j0 := 0, w := q.cols, h := q.rows }
/-- ORIGIN of its split records (R324). -/
def RayQuery.origin (q : RayQuery) : Nat := 2 ^ 21 * q.slot + 2 ^ 16 * q.lane + q.tag

/-- The query's numbers are unusable (R315). -/
def RayQuery.inval (q : RayQuery) : Bool :=
  let nums : List Word :=
    [0, 1, 2, 4, 5, 6].map q.word ++
    (match q.kind with
     | 1 => []
     | 2 => [8, 9, 10, 12, 13, 14, 16, 17, 18].map q.word
     | _ => [8, 9, 10, 12, 13, 14, 16].map q.word)
  nums.any (fun w => !(f32v w).isFin) || (f32v q.tmin).isNan || (f32v q.tmin).lt (.fin false 0) ||
    (f32v q.tmax).isNan || (f32v q.tmax).lt (f32v q.tmin)

/-! ### Directions (R316, R317) -/

/-- The FP32 word of a rational, rounded to nearest even. -/
def wordOfRat (r : Rat) : Word := f32r .rne (FVal.ofRat r)

/-- Direction of ray (i, j) of a beam. -/
def beamDir (q : RayQuery) (i j c : Nat) : Word :=
  let u := wordOfRat (((2 * i + 1 : Nat) : Rat) / ((2 * q.cols : Nat) : Rat))
  let v := wordOfRat (((2 * j + 1 : Nat) : Rat) / ((2 * q.rows : Nat) : Rat))
  flerp (flerp (q.d00 c) (q.d10 c) u) (flerp (q.d01 c) (q.d11 c) u) v

/-- The map of R317 from the square to the disc. -/
def discMap (a b : Rat) : Word × Word :=
  let r : Rat × Word :=
    if |b| < |a| then (a, wordOfRat (b / (8 * a)))
    else if b ≠ 0 then (b, wordOfRat (1 / 4 - a / (8 * b)))
    else (0, 0)
  let rad := wordOfRat r.1
  (fmul .rne rad (fcost r.2), fmul .rne rad (fsint r.2))

/-- Direction of point (i, j) of a cone. -/
def coneDir (q : RayQuery) (i j c : Nat) : Word :=
  let n : Rat := (q.cols : Rat)
  let p := discMap (((2 * i + 1 : Nat) : Rat) / n - 1) (((2 * j + 1 : Nat) : Rat) / n - 1)
  let s := ffma .rne p.2 (q.d01 c) (fmul .rne p.1 (q.d10 c))
  ffma .rne q.tanh s (q.d00 c)

/-- Direction of a ray of a query. -/
def RayQuery.dir (q : RayQuery) (i j c : Nat) : Word :=
  match q.kind with
  | 1 => q.d00 c
  | 2 => beamDir q i j c
  | _ => coneDir q i j c

/-! ### Bounds (R318) -/

/-- The exact value of a finite word. -/
def ratOf (w : Word) : Rat := (f32v w).toRat

/-- The corner rays of a rectangle, in the order of R318. -/
def Rect.corners (r : Rect) : List (Nat × Nat) :=
  [(r.i0, r.j0), (r.i0 + r.w - 1, r.j0), (r.i0, r.j0 + r.h - 1), (r.i0 + r.w - 1, r.j0 + r.h - 1)]

/-- An interval widened by 2^-20 of a magnitude and rounded outward. -/
def widen (lo hi m : Rat) : FVal × FVal :=
  (f32v (f32r .rd (FVal.ofRat (lo - m / 2 ^ 20))), f32v (f32r .ru (FVal.ofRat (hi + m / 2 ^ 20))))

/-- Smallest and largest of four numbers. -/
def minOf (l : List Rat) : Rat := l.tail.foldl min (l.headD 0)
def maxOf (l : List Rat) : Rat := l.tail.foldl max (l.headD 0)

/-- [dlo, dhi] of an axis. -/
def RayQuery.bounds (q : RayQuery) (r : Rect) (c : Nat) : FVal × FVal :=
  if q.kind = 3 then
    let n : Rat := (q.cols : Rat)
    let p := discMap (((2 * r.i0 + r.w : Nat) : Rat) / n - 1) (((2 * r.j0 + r.h : Nat) : Rat) / n - 1)
    let centre := ratOf (q.d00 c) + ratOf q.tanh * (ratOf p.1 * ratOf (q.d10 c) + ratOf p.2 * ratOf (q.d01 c))
    let e := |ratOf q.tanh| * (4 * (r.w : Rat) / n) * (|ratOf (q.d10 c)| + |ratOf (q.d01 c)|)
    widen (centre - e) (centre + e) (max |centre - e| |centre + e|)
  else
    let d := r.corners.map fun p => ratOf (q.dir p.1 p.2 c)
    widen (minOf d) (maxOf d) (maxOf (d.map fun x => |x|))

/-- The directions that bound the rectangle are finite; where they are not, the spec gives no outcome. -/
def RayQuery.finite (q : RayQuery) (r : Rect) : Bool :=
  [0, 1, 2].all fun c =>
    if q.kind = 3 ∧ 1 < r.w * r.h then (q.bounds r c).1.isFin && (q.bounds r c).2.isFin
    else
      r.corners.all (fun p => (f32v (q.dir p.1 p.2 c)).isFin) &&
      (r.w * r.h == 1 || ((q.bounds r c).1.isFin && (q.bounds r c).2.isFin))

/-! ### Classification (R319, R320) -/

def fvMin (a b : FVal) : FVal := if b.lt a then b else a
def fvMax (a b : FVal) : FVal := if a.lt b then b else a

/-- (x − o)/d with x finite or infinite and d not zero. -/
def slabT (x : FVal) (o d : Rat) : FVal :=
  match x with
  | .inf s => .inf (s != decide (d < 0))
  | .fin _ _ => FVal.ofRat ((x.toRat - o) / d)
  | .nan => .nan

/-- What an axis gives: smallest and largest entry, smallest and largest exit; none where it straddles. -/
def slabOf (lo hi : FVal) (o d1 d2 : Rat) : FVal × FVal × FVal × FVal :=
  let near := if 0 < d1 then lo else hi
  let far := if 0 < d1 then hi else lo
  (fvMin (slabT near o d1) (slabT near o d2), fvMax (slabT near o d1) (slabT near o d2),
   fvMin (slabT far o d1) (slabT far o d2), fvMax (slabT far o d1) (slabT far o d2))

/-- A child box: lo and hi of each axis. -/
structure Box where
  lo : Nat → FVal
  hi : Nat → FVal

/-- The outcome of R319: 0 ALL-MISS, 1 ALL-HIT, 2 MIXED, with lowEntry and highExit. -/
structure Class where
  cls : Nat
  entry : FVal
  exit : FVal
  deriving DecidableEq, Repr

/-- A sub-beam of one ray (R319). -/
def classifyOne (q : RayQuery) (r : Rect) (b : Box) : Class :=
  let d (c : Nat) : Rat := ratOf (q.dir r.i0 r.j0 c)
  let o (c : Nat) : Rat := ratOf (q.org c)
  let slab (c : Nat) : FVal × FVal :=
    if d c = 0 then
      (if !(FVal.ofRat (o c)).lt (b.lo c) && !(b.hi c).lt (FVal.ofRat (o c)) then (.inf true, .inf false)
       else (.inf false, .inf true))
    else
      let s := slabOf (b.lo c) (b.hi c) (o c) (d c) (d c)
      (s.1, s.2.2.1)
  let e := [0, 1, 2].foldl (fun a c => fvMax a (slab c).1) (f32v q.tmin)
  let x := [0, 1, 2].foldl (fun a c => fvMin a (slab c).2) (f32v q.tmax)
  { cls := if !x.lt e then 1 else 0, entry := e, exit := x }

/-- Cross product and dot product. -/
def crossR (a b : Nat → Rat) (c : Nat) : Rat :=
  a ((c + 1) % 3) * b ((c + 2) % 3) - a ((c + 2) % 3) * b ((c + 1) % 3)
def dotR (a b : Nat → Rat) : Rat := a 0 * b 0 + a 1 * b 1 + a 2 * b 2
def norm1 (a : Nat → Rat) : Rat := |a 0| + |a 1| + |a 2|

/-- Some side plane excludes the box (R320). A plane excludes no box with an infinite corner, for which the
comparison has no exact value (log 16). -/
def planesExclude (q : RayQuery) (r : Rect) (b : Box) : Bool :=
  let cr (p : Nat × Nat) (c : Nat) : Rat := ratOf (q.dir p.1 p.2 c)
  let c00 := cr (r.i0, r.j0)
  let c10 := cr (r.i0 + r.w - 1, r.j0)
  let c01 := cr (r.i0, r.j0 + r.h - 1)
  let c11 := cr (r.i0 + r.w - 1, r.j0 + r.h - 1)
  let o (c : Nat) : Rat := ratOf (q.org c)
  let sum (c : Nat) : Rat := c00 c + c10 c + c11 c + c01 c
  let finite := [0, 1, 2].all fun c => (b.lo c).isFin && (b.hi c).isFin
  let corner (k c : Nat) : Rat := if k / 2 ^ c % 2 = 0 then (b.lo c).toRat else (b.hi c).toRat
  let plane (u v : Nat → Rat) : Bool :=
    let n0 := crossR u v
    let n : Nat → Rat := if dotR n0 sum < 0 then fun c => -n0 c else n0
    let used := norm1 n != 0 && decide (0 ≤ dotR n c00) && decide (0 ≤ dotR n c10) && decide (0 ≤ dotR n c11) &&
      decide (0 ≤ dotR n c01)
    used && (List.range 8).all fun k =>
      let p (c : Nat) : Rat := corner k c - o c
      decide (dotR n p < -(norm1 n * norm1 p / 2 ^ 18))
  finite && (plane c00 c10 || plane c10 c11 || plane c11 c01 || plane c01 c00)

/-- A child box against a sub-beam (R319). -/
def classify (q : RayQuery) (r : Rect) (b : Box) : Class :=
  if r.w * r.h = 1 then classifyOne q r b
  else
    let dl (c : Nat) : Rat := (q.bounds r c).1.toRat
    let dh (c : Nat) : Rat := (q.bounds r c).2.toRat
    let straddle (c : Nat) : Bool := decide (dl c ≤ 0) && decide (0 ≤ dh c)
    let s (c : Nat) : FVal × FVal × FVal × FVal := slabOf (b.lo c) (b.hi c) (ratOf (q.org c)) (dl c) (dh c)
    let axes := [0, 1, 2].filter fun c => !straddle c
    let tmin := f32v q.tmin
    let tmax := f32v q.tmax
    let e := axes.foldl (fun a c => fvMax a (s c).1) tmin
    let x := axes.foldl (fun a c => fvMin a (s c).2.2.2) tmax
    let planes := q.kind == 2 && decide (1 < r.w) && decide (1 < r.h) && planesExclude q r b
    if x.lt e || planes then { cls := 0, entry := e, exit := x }
    else
      let e2 := axes.foldl (fun a c => fvMax a (s c).2.1) tmin
      let x2 := axes.foldl (fun a c => fvMin a (s c).2.2.1) tmax
      { cls := if axes.length = 3 && !x2.lt e2 then 1 else 2, entry := e, exit := x }

/-- The quadrants of a rectangle, in order (R321). -/
def Rect.quadrants (r : Rect) : List Rect :=
  let xs := if r.w ≤ 1 then [(r.i0, r.w)] else [(r.i0, r.w / 2), (r.i0 + r.w / 2, r.w - r.w / 2)]
  let ys := if r.h ≤ 1 then [(r.j0, r.h)] else [(r.j0, r.h / 2), (r.j0 + r.h / 2, r.h - r.h / 2)]
  ys.flatMap fun y => xs.map fun x => { i0 := x.1, j0 := y.1, w := x.2, h := y.2 }

/-- A rectangle cut until each part has at most n rays (R324). -/
def Rect.cut (n : Nat) : Nat → Rect → List Rect
  | 0, r => [r]
  | k + 1, r => if r.w * r.h ≤ n then [r] else r.quadrants.flatMap (Rect.cut n k)

/-! ### Triangles (R322) -/

/-- The sign of a rational. -/
def signOf (q : Rat) : Int := if q < 0 then -1 else if q = 0 then 0 else 1

/-- The hit of a ray against a triangle; none for no hit. -/
def triTest (q : RayQuery) (d : Nat → Word) (A B C : Nat → Word) : Option Word :=
  let above (a b : Nat) : Bool := (f32v (d b &&& 0x7FFFFFFF#32)).lt (f32v (d a &&& 0x7FFFFFFF#32))
  let kz := if !above 1 0 && !above 2 0 then 0 else if !above 2 1 then 1 else 2
  let swap := (f32v (d kz)).lt (.fin false 0)
  let kx := if swap then (kz + 2) % 3 else (kz + 1) % 3
  let ky := if swap then (kz + 1) % 3 else (kz + 2) % 3
  let sx := fdiv (d kx) (d kz)
  let sy := fdiv (d ky) (d kz)
  let sz := fdiv 0x3F800000 (d kz)
  let neg (w : Word) : Word := w ^^^ 0x80000000#32
  let sh (p : Nat → Word) (c : Nat) : Word := fsub .rne (p c) (q.org c)
  let px (p : Nat → Word) : Word := ffma .rne (neg sx) (sh p kz) (sh p kx)
  let py (p : Nat → Word) : Word := ffma .rne (neg sy) (sh p kz) (sh p ky)
  let pz (p : Nat → Word) : Word := fmul .rne sz (sh p kz)
  let edge (p r : Nat → Word) : List Word × Rat :=
    let a := fmul .rne (px p) (py r)
    let b := fmul .rne (py p) (px r)
    ([a, b, fsub .rne a b], ratOf (px p) * ratOf (py r) - ratOf (py p) * ratOf (px r))
  let eu := edge C B
  let ev := edge A C
  let ew := edge B A
  let val (e : List Word × Rat) : Int × Word :=
    let v := (e.1[2]?).getD 0
    if ratOf v = 0 then (signOf e.2, wordOfRat e.2) else (signOf (ratOf v), v)
  let u := val eu
  let v := val ev
  let w := val ew
  let det := f32r .rne (FVal.sum .rne [f32v u.2, f32v v.2, f32v w.2])
  let t := wordOfRat ((ratOf u.2 * ratOf (pz A) + ratOf v.2 * ratOf (pz B) + ratOf w.2 * ratOf (pz C)) / ratOf det)
  let steps : List Word :=
    [sx, sy, sz] ++ ([A, B, C].flatMap fun p => [sh p 0, sh p 1, sh p 2, px p, py p, pz p]) ++
    eu.1 ++ ev.1 ++ ew.1 ++ [u.2, v.2, w.2, det, t]
  let ss := [u.1, v.1, w.1]
  if steps.all (fun x => (f32v x).isFin) && (ss.all (0 ≤ ·) || ss.all (· ≤ 0)) && ss.any (· ≠ 0) && ratOf det != 0 &&
      !(f32v t).lt (f32v q.tmin) && !(f32v q.tmax).lt (f32v t) then some t
  else none

/-- The closer of two hits: smaller t, then smaller primitive index. -/
def Hit.closer (a b : Hit) : Bool :=
  (f32v a.t).lt (f32v b.t) || ((f32v a.t).eq (f32v b.t) && decide (a.prim.toNat < b.prim.toNat))

end Sys2Proof.Machine
end

