-- ==== Sys2Proof/Machine/Ray.lean ====
section
/-!
DEFINITION. The ray instructions (R306 to R315, R331, R332), the engine's traversal (R321 to R330) and the
spawn unit (R326).
-/

namespace Sys2Proof.Machine

/-! ### Issue (R310) -/

/-- A trap whose TVAL is one of several addresses that fail one check: a free choice (log 11). -/
def TEnv.trapAmong (e : TEnv) (c : Cause) (x : Nat) (xs : List Nat) : TRes :=
  if xs.isEmpty then .trap c (BitVec.ofNat 64 x)
  else
    let r := e.s.freeNat
    .trapAt r.1 c (BitVec.ofNat 64 (((x :: xs)[r.2 % (xs.length + 1)]?).getD x))

/-- A failing check of a query: its order in R310, its cause and the values that TVAL may take; with none,
TVAL is a free value. -/
structure RayBad where
  ord : Nat
  cause : Cause
  vals : List Nat
  deriving DecidableEq, Repr

/-- A trap of the failing check. -/
def TEnv.rayTrap (e : TEnv) (b : RayBad) : TRes :=
  match b.vals with
  | [] => let r := e.s.freeNat; .trapAt r.1 b.cause (BitVec.ofNat 64 r.2)
  | x :: xs => e.trapAmong b.cause x xs

/-- n bytes at a scratchpad address lie outside the group's allocation. -/
def Group.beyond (g : Group) (a n : Nat) : Bool := decide (g.kern.smem < a + n)

/-- The first failing group of checks, in order. -/
def firstRayBad (l : List (Nat × Cause × List (Bool × Nat))) : Option RayBad :=
  l.findSome? fun p =>
    let bad := (p.2.2.filter fun x => x.1).map Prod.snd
    if bad.isEmpty then none else some { ord := p.1, cause := p.2.1, vals := bad }

/-- The query of an RQ.RAY in a thread, in the beam layout (R311). -/
def TEnv.rayRecord (e : TEnv) (t : Nat) : BitVec 1024 :=
  let c := e.src128 3 t
  BitVec.ofNat 1024
    ((e.src128 1 t).toNat + 2 ^ 128 * (e.src128 2 t).toNat +
      (partOf c 2).toNat % 256 * 2 ^ (11 * 32 + 6) + (partOf c 3).toNat * 2 ^ (15 * 32) +
      (c.toNat % 2 ^ 64) * 2 ^ (20 * 32))

/-- The checks of RQ.RAY in a thread. -/
def TEnv.rayChecks (e : TEnv) (t : Nat) : Option RayBad :=
  let c := e.src128 3 t
  let root := c.toNat % 2 ^ 64
  let spill := (partOf c 3).toNat
  firstRayBad
    [(2, .align, [(root % 128 != 0, root), (spill % 16 != 0, spill)]),
     (3, .prot, [(e.g.beyond spill 2048, spill), (decide (2 ^ 52 ≤ root), root)]),
     (6, .tafmt, [(decide (256 ≤ (partOf c 2).toNat), 0x308)])]

/-- The record that an RQ.BEAM or RQ.CONE of a thread names. -/
def TEnv.beamRecord (e : TEnv) (t : Nat) : BitVec 1024 :=
  BitVec.ofNat 1024 (e.s.spNat e.g (e.padAddr t).toNat 128)

/-- The result rows of a query. -/
def RayQuery.rowAddrs (q : RayQuery) : List Nat := (List.range q.rows).map fun j => q.result + j * q.pitch

/-- The failing fields of a beam or cone record, lowest first (R313, R314). -/
def recordBad (q : RayQuery) (spawnSlots : Nat) : Option Nat :=
  let lw := q.grid % 8
  let lh := q.grid / 8 % 8
  let cone := q.kind == 3
  let budget := (q.word 19).toNat / 2 ^ 21
  let bad : List (Bool × Nat) :=
    [(decide (6 < lw) || decide (6 < lh) || q.grid / 2 ^ 14 != 0 || (cone && lw != lh), 352),
     (cone && (q.word 17 != 0 || q.word 18 != 0), 544),
     (!q.spawned && (decide (1024 < budget) || (budget != 0 && spawnSlots == 0)), 608),
     (decide (q.pitch < 8 * q.cols), 768), ((q.word 25).toNat / 2 != 0, 800),
     (q.record.toNat / 2 ^ 832 != 0, 832)]
  (bad.find? fun p => p.1).map Prod.snd

/-- The checks of RQ.BEAM and RQ.CONE in a thread. -/
def TEnv.beamChecks (e : TEnv) (q : RayQuery) (a : Nat) : Option RayBad :=
  let g := e.g
  match firstRayBad [(2, .align, [(a % 128 != 0, a)]), (3, .prot, [(g.beyond a 128, a)])] with
  | some b => some b
  | none =>
    let addrs := [(q.root % 128 != 0, q.root), (q.spill % 16 != 0, q.spill), (q.result % 8 != 0, q.result)]
    if (addrs.all fun p => !p.1) && q.pitch % 8 != 0 then some { ord := 4, cause := .align, vals := [] }
    else
      let rows := if q.rsp then q.rowAddrs.filter fun x => g.beyond x (8 * q.cols) else []
      firstRayBad
        [(4, .align, addrs),
         (5, .prot, [(g.beyond q.spill 2048, q.spill), (!q.rsp && decide (2 ^ 52 ≤ q.result), q.result),
            (decide (2 ^ 52 ≤ q.root), q.root)] ++ rows.map fun x => (true, x)),
         (6, .tafmt, match recordBad q g.kern.spawn with | some b => [(true, 0x300 + b)] | none => [])]

/-- The query of a thread, accepted with a tag, as the core's query `id`. -/
def TEnv.rayQuery (e : TEnv) (kind t tag id : Nat) : RayQuery :=
  { id := id, uid := e.g.uid, slot := e.slot, lane := t, tag := tag, kind := kind,
    record := if kind = 1 then e.rayRecord t else e.beamRecord t, spawned := decide (32 ≤ e.slot) }

/-- The failing check that comes first in R310, of the lowest-numbered thread that fails it. -/
def firstRay (l : List (Option RayBad)) : Option RayBad :=
  [2, 3, 4, 5, 6].findSome? fun o => (l.filterMap id).find? fun b => b.ord == o

/-- Outstanding queries of a thread (R307). -/
def Warp.outstanding (w : Warp) (t : Nat) : List QueryRef := w.queries.filter fun q => q.lane == t

/-- RQ.RAY, RQ.BEAM and RQ.CONE (R309, R310). -/
def rqBody (kind : Nat) (e : TEnv) : TRes :=
  let ts := lanesOf e.parts
  let c := e.s.core e.g.core
  if decide (256 < c.fifo.length + ts.length) || ts.any fun t => decide (8 ≤ (e.w.outstanding t).length) then
    .held
  else if e.poisoned &&& e.parts != 0 then .trap .poison 0
  else
    let tag (t : Nat) : Nat := SMap.get 0 e.w.tags t
    match firstRay (ts.map fun t =>
      if kind = 1 then e.rayChecks t else e.beamChecks (e.rayQuery kind t 0 0) (e.padAddr t).toNat) with
    | some b => e.rayTrap b
    | none =>
      let qs := ts.zipIdx.map fun p => e.rayQuery kind p.1 (tag p.1) (c.rayNext + p.2)
      let s := e.base.setCore e.g.core { c with fifo := c.fifo ++ qs, rayNext := c.rayNext + qs.length }
      let w := { e.w with
        queries := e.w.queries ++ qs.map fun (q : RayQuery) => QueryRef.mk q.id q.lane q.tag 1 [],
        tags := ts.foldl (fun m t => SMap.set 0 m t ((tag t + 1) % 65536)) e.w.tags }
      let v (t : Nat) : BitVec 128 := if bit e.hlp t then 0xFFFFFFFF else BitVec.ofNat 128 (tag t)
      .ok s { w with regs := w.regs.writeDst e.i.dst 1 e.act v 0 } 0

def execRqRay (w : TWord) (s : State) : Host.Outcome State Fault Refusal := tIssue 0x70 w s (rqBody 1)
def execRqBeam (w : TWord) (s : State) : Host.Outcome State Fault Refusal := tIssue 0x71 w s (rqBody 2)
def execRqCone (w : TWord) (s : State) : Host.Outcome State Fault Refusal := tIssue 0x72 w s (rqBody 3)

/-- A completion record as a register quadruple. -/
def recordWords (ws : List Word) : BitVec 128 :=
  (ws[3]?).getD 0 ++ (ws[2]?).getD 0 ++ (ws[1]?).getD 0 ++ (ws[0]?).getD 0

/-- RPOP (R331): a thread without an outstanding query, and a helper, receives zero at once. -/
def rpopBody (e : TEnv) : TRes :=
  let first (t : Nat) : Option QueryRef := (e.w.outstanding t).head?
  if (lanesOf e.parts).any fun t => match first t with | some q => q.st != 3 | none => false then .held
  else
    let v (t : Nat) : BitVec 128 :=
      if bit e.hlp t then 0 else match first t with | some q => recordWords q.words | none => 0
    let gone := (lanesOf e.parts).filterMap first
    let w := { e.w with queries := e.w.queries.filter fun q => !gone.contains q }
    .ok (e.base.acquire e.g.core 0) { w with regs := w.regs.writeDst e.i.dst 4 e.act v 0 } 0

def execRpop (w : TWord) (s : State) : Host.Outcome State Fault Refusal := tIssue 0x73 w s rpopBody

/-- RSTAT (R332). -/
def execRstat (w : TWord) (s : State) : Host.Outcome State Fault Refusal :=
  tIssue 0x74 w s fun e =>
    let q (t : Nat) : Nat :=
      match (e.w.outstanding t).find? fun q => q.tag == (e.int 1 t).toNat % 65536 with
      | some q => q.st
      | none => 0
    let n (t : Nat) : Nat :=
      (e.w.outstanding t).length + ((e.w.outstanding t).filter fun q => q.st == 3).length * 2 ^ 4 +
        (e.s.core e.g.core).fifo.length * 2 ^ 8
    e.result 1 (fun t => BitVec.ofNat 128 (if e.mod = 0 then q t else n t)) fun _ => none

/-! ### Taking a query (R306) -/

/-- The issuing warp's reference to a query changed; a spawned warp that has exited has left none (R328). -/
def State.updQuery (s : State) (q : RayQuery) (f : QueryRef → QueryRef) : State :=
  match s.group? q.uid with
  | none => s
  | some g =>
    match g.warp? q.slot with
    | none => s
    | some w => s.setGroup (g.setWarp q.slot
        { w with queries := updFirst (fun x => x.id == q.id) f w.queries })

/-- Traversal contexts of a core (R306). -/
def rayContexts : Nat := 64
/-- Entries of its split-record queue (R306). -/
def splitRoom : Nat := 4096

def RayCtx.ofQuery (q : RayQuery) : RayCtx :=
  { q := q, started := false, stack := [], spilled := 0, emits := [], hits := [], records := 0, begun := 0,
    cause := none, buf := [], back := none, left := none, written := false, park := none }

/-- Queries of a core that hold a context: those whose traversal has not ended (R306). -/
def Core.traversing (c : Core) : Nat := (c.rays.filter fun x => x.cause.isNone).length

/-- RAY_QUERY_TAKE (R306): the oldest query of a core's FIFO takes a free context. -/
def execRayQueryTake (s : State) : Host.Outcome State Fault Refusal :=
  let n := s.ctl.arg.core
  let c := s.core n
  match c.fifo with
  | [] => s.notDue
  | q :: rest =>
    if rayContexts ≤ c.traversing then .next s.waits
    else
      .next ((s.setCore n { c with fifo := rest, rays := c.rays ++ [RayCtx.ofQuery q] }).updQuery q fun x => { x with st := 2 })

/-! ### Reading nodes and leaves (R411 to R414) -/

/-- Why a traversal stops: a translation fault, or a CAUSE of R329. -/
inductive RayStop where
  | xlate (va k : Nat)
  | cause (n : Nat)
  deriving DecidableEq, Repr

/-- What a step that reads comes to: a stop, the bytes read so far, or what it has made of all of them. -/
inductive RayGot (α : Type) where
  | stop (e : RayStop)
  | more (buf : List Byte)
  | got (x : α)

/-- The next of n 16-byte units at a multiple of 16 read at .grp, each an access of its own (R333). -/
def State.rayUnit (s : State) (g : Group) (buf : List Byte) (a n : Nat) : State × RayGot (List Byte) :=
  let va := a + buf.length
  if 16 * n ≤ buf.length then (s, .got buf)
  else if 2 ^ 52 ≤ va then (s, .stop (.cause 2))
  else
    let t := s.translate g.core g.tenant g.asid va
    match t.2 with
    | .error k => (t.1, .stop (.xlate va k))
    | .ok p =>
      if !p.r then (t.1, .stop (.cause 2))
      else
        let r := t.1.gLoad g.core g.tenant 0 p 16
        let all := buf ++ leBytes 16 r.2
        (r.1, if 16 * n ≤ all.length then .got all else .more all)

/-- Fields of child k of a node (R411). -/
def nodeBits (d : BitVec 1024) (h l : Nat) : Nat := bitsOf d.toNat h l
def nodeKind (d : BitVec 1024) (k : Nat) : Nat := nodeBits d (64 + 2 * k + 1) (64 + 2 * k)
def nodeMask (d : BitVec 1024) (k : Nat) : Nat := nodeBits d (72 + 8 * k + 7) (72 + 8 * k)
def nodeCnt (d : BitVec 1024) (k : Nat) : Nat := nodeBits d (104 + 6 * k + 5) (104 + 6 * k)
def nodeRef (d : BitVec 1024) (k : Nat) : Nat := nodeBits d (896 + 32 * k + 31) (896 + 32 * k)
def nodeBoxBits (d : BitVec 1024) (k : Nat) : Nat := nodeBits d (128 + 192 * k + 191) (128 + 192 * k)
def nodeBase (d : BitVec 1024) : Nat := nodeBits d 63 0
def nodeAddr (d : BitVec 1024) (k : Nat) : Nat := nodeBase d + 16 * nodeRef d k
def nodeBoxWord (d : BitVec 1024) (k i : Nat) : Word := BitVec.ofNat 32 (nodeBoxBits d k / 2 ^ (32 * i))
def nodeBox (d : BitVec 1024) (k : Nat) : Box :=
  { lo := fun c => f32v (nodeBoxWord d k c), hi := fun c => f32v (nodeBoxWord d k (3 + c)) }

/-- A node is malformed (R412). -/
def nodeBad (d : BitVec 1024) : Bool :=
  nodeBase d % 16 != 0 ||
  (List.range 4).any fun k =>
    let kind := nodeKind d k
    let b := nodeBox d k
    if kind = 0 then nodeMask d k != 0 || nodeCnt d k != 0 || nodeBoxBits d k != 0 || nodeRef d k != 0
    else
      ([0, 1, 2].any fun c => (b.lo c).isNan || (b.hi c).isNan || (b.hi c).lt (b.lo c)) ||
      (kind != 2 && nodeCnt d k != 0) || (kind != 3 && decide (2 ^ 52 ≤ nodeAddr d k)) ||
      (kind == 1 && nodeAddr d k % 128 != 0)

/-- The classes of a node's children for a rectangle (R321); where the spec gives no outcome (log 16) they
are free. -/
def State.classes (s : State) (q : RayQuery) (d : BitVec 1024) (r : Rect) : State × List Nat :=
  (List.range 4).foldl (fun a k =>
    if nodeKind d k = 0 ∨ nodeMask d k &&& q.mask = 0 then (a.1, a.2 ++ [0])
    else if q.finite r then (a.1, a.2 ++ [(classify q r (nodeBox d k)).cls])
    else
      let f := a.1.freeNat
      (f.1, a.2 ++ [if r.w * r.h = 1 then f.2 % 2 else f.2 % 3])) (s, [])

/-- traverse(rect, node) of R321 opened: its frame, once the node has been read. -/
def State.openNode (s : State) (g : Group) (x : RayCtx) (node : Nat) (r : Rect) : State × RayGot RayFrame :=
  let b := s.rayUnit g x.buf node 8
  match b.2 with
  | .stop e => (b.1, .stop e)
  | .more l => (b.1, .more l)
  | .got l =>
    let d := BitVec.ofNat 1024 (leNat l)
    if nodeBad d then (b.1, .stop (.cause 3))
    else
      let c := b.1.classes x.q d r
      let split := r.w * r.h != 1 && c.2.contains 2
      (c.1, .got { node := node, rect := r, call := if split then 1 else 0, next := 0, slot := 0, data := d, cls := c.2 })

/-- A triangle's vertices and index from a record's 48 bytes; none where it is malformed (R414). -/
def triOf (l : List Byte) : Option ((Nat → Word) × (Nat → Word) × (Nat → Word) × Word) :=
  let w (i : Nat) : Word := BitVec.ofNat 32 (wordAt l (4 * i) 4)
  if w 10 ≠ 0 ∨ w 11 ≠ 0 ∨ w 9 = 0xFFFFFFFF then none
  else some (fun c => w c, fun c => w (3 + c), fun c => w (6 + c), w 9)

/-- A rectangle's rays tested against triangles (R322). -/
def testTriangles (q : RayQuery) (r : Rect) (tris : List ((Nat → Word) × (Nat → Word) × (Nat → Word) × Word))
    (hits : SMap Hit) : SMap Hit :=
  let rays := (List.range r.h).flatMap fun j => (List.range r.w).map fun i => (r.i0 + i, r.j0 + j)
  rays.foldl (fun hits p =>
    tris.foldl (fun hits t =>
      match triTest q (q.dir p.1 p.2) t.1 t.2.1 t.2.2.1 with
      | none => hits
      | some v =>
        let h : Hit := { t := v, prim := t.2.2.2 }
        let key := 64 * p.2 + p.1
        (match SMap.find hits key with
         | some old => if h.closer old then SMap.put hits key h else hits
         | none => SMap.put hits key h)) hits) hits

/-- leaf(rect, child) where the rectangle is small (R321): every triangle read, every ray tested. -/
def State.leafTest (s : State) (g : Group) (x : RayCtx) (d : BitVec 1024) (slot : Nat) (r : Rect) :
    State × RayGot (SMap Hit) :=
  let b := s.rayUnit g x.buf (nodeAddr d slot) (3 * (nodeCnt d slot + 1))
  match b.2 with
  | .stop e => (b.1, .stop e)
  | .more l => (b.1, .more l)
  | .got l =>
    let recs := (List.range (nodeCnt d slot + 1)).map fun i => triOf ((l.drop (48 * i)).take 48)
    (b.1, if recs.any fun t => t.isNone then .stop (.cause 3) else .got (testTriangles x.q r (recs.filterMap id) x.hits))

/-! ### The stack and the spill area (R323) -/

/-- RECT of R324. -/
def Rect.word (r : Rect) : Nat := 2 ^ 24 * r.h + 2 ^ 16 * r.w + r.j0 * 2 ^ 8 + r.i0
def Rect.ofWord (n : Nat) : Rect :=
  { i0 := n % 256, j0 := n / 2 ^ 8 % 256, w := n / 2 ^ 16 % 256, h := n / 2 ^ 24 % 256 }
/-- Not empty and inside the query's rays. -/
def Rect.inside (r : Rect) (q : RayQuery) : Bool :=
  decide (0 < r.w) && decide (0 < r.h) && decide (r.i0 + r.w ≤ q.cols) && decide (r.j0 + r.h ≤ q.rows)

/-- The 16 bytes of a spill entry. -/
def RayFrame.bytes (f : RayFrame) : List Byte :=
  leBytes 8 (f.node / 4 * 4 + f.next % 4) ++ leBytes 4 f.rect.word ++
  leBytes 1 (f.call + if f.next = 4 then 4 else 0) ++ leBytes 1 (if f.call = 2 then f.slot else 0) ++ leBytes 2 0

/-- A spill entry as read back: the frame, without its node; none where the layout is broken. -/
def frameOf (q : RayQuery) (l : List Byte) : Option RayFrame :=
  let a := wordAt l 0 8
  let r := Rect.ofWord (wordAt l 8 4)
  let b12 := wordAt l 12 1
  let b13 := wordAt l 13 1
  let call := b12 % 4
  let fin := b12 / 4 % 2 = 1
  if a / 4 % 32 ≠ 0 ∨ b12 / 8 ≠ 0 ∨ wordAt l 14 2 ≠ 0 ∨ (if call = 2 then 4 ≤ b13 else b13 ≠ 0) ∨ call = 3 ∨
      (fin ∧ a % 4 ≠ 0) ∨ !r.inside q then none
  else some { node := a / 4 * 4, rect := r, call := call, next := if fin then 4 else a % 4, slot := b13,
              data := 0, cls := [] }

/-- A frame pushed on a context; a ninth entry moves the oldest to the spill area. -/
def State.pushFrame (s : State) (x : RayCtx) (f : RayFrame) : State × RayCtx :=
  if x.stack.length < 8 then (s, { x with stack := f :: x.stack })
  else
    match x.stack.getLast? with
    | none => (s, { x with stack := [f] })
    | some old =>
      (s.spPuts x.q.uid (x.q.spill + 16 * x.spilled) old.bytes,
       { x with stack := f :: x.stack.dropLast, spilled := x.spilled + 1 })

/-! ### Split records (R324) -/

/-- The records of emit(rect, box leaf): words 0 to 6 of each part, in order. -/
def State.emitWords (s : State) (q : RayQuery) (d : BitVec 1024) (node slot : Nat) (r : Rect) :
    State × List (List Word) :=
  if q.budget = 0 then (s, [])
  else
    (r.cut q.budget 14).foldl (fun a p =>
      let b := a.1
      let f := if q.finite p then (b, (0 : Nat), (0 : Nat)) else
        (let f1 := b.freeNat; let f2 := f1.1.freeNat; (f2.1, f1.2, f2.2))
      let c := classify q p (nodeBox d slot)
      let t1 : Word := if q.finite p then f32r .rd c.entry else BitVec.ofNat 32 f.2.1
      let t2 : Word := if q.finite p then f32r .ru c.exit else BitVec.ofNat 32 f.2.2
      (f.1, a.2 ++ [[BitVec.ofNat 32 p.word, BitVec.ofNat 32 q.origin, t1, t2, BitVec.ofNat 32 node,
        BitVec.ofNat 32 (node / 2 ^ 32), BitVec.ofNat 32 (nodeRef d slot)]])) (s, [])

/-! ### A step of a traversal -/

/-- What a step of the traversal comes to: the context changed, or a stop. -/
abbrev RayStep := State × Except RayStop RayCtx

/-- What a step that reads makes of its context: no more than the bytes read, or what `f` makes of all of them. -/
def RayCtx.onRead {α : Type} (x : RayCtx) (r : State × RayGot α) (f : State → α → State × RayCtx) : RayStep :=
  match r.2 with
  | .stop e => (r.1, .error e)
  | .more b => (r.1, .ok { x with buf := b })
  | .got v => let p := f r.1 v; (p.1, .ok { p.2 with buf := [] })

/-- traverse(rect, node) called: `x` the context, `up` what it is but for the call. -/
def State.callNode (s : State) (g : Group) (x up : RayCtx) (node : Nat) (r : Rect) : RayStep :=
  if 128 ≤ x.spilled + x.stack.length then (s, .error (.cause 4))
  else x.onRead (s.openNode g x node r) fun s f => s.pushFrame up f

/-- leaf(rect, slot) called from a frame: a call that works through quadrants, or one that tests (R321, R323). -/
def State.callLeaf (s : State) (x : RayCtx) (f : RayFrame) (slot : Nat) (r : Rect) : RayStep :=
  if 128 ≤ x.spilled + x.stack.length then (s, .error (.cause 4))
  else
    let p := s.pushFrame x { f with rect := r, call := if 8 < r.w ∨ 8 < r.h then 2 else 3, next := 0, slot := slot }
    (p.1, .ok p.2)

/-- The next item of the deepest call (R321). -/
def State.rayItem (s : State) (g : Group) (x : RayCtx) (f : RayFrame) (rest : List RayFrame) : RayStep :=
  let up : RayCtx := { x with stack := { f with next := f.next + 1 } :: rest }
  let pop : RayStep := (s, .ok { x with stack := rest })
  let parts := f.rect.quadrants
  match f.call with
  | 0 =>
    if 4 ≤ f.next then pop
    else if (f.cls[f.next]?).getD 0 ≠ 1 then (s, .ok up)
    else
      (match nodeKind f.data f.next with
       | 1 => s.callNode g x up (nodeAddr f.data f.next) f.rect
       | 2 => s.callLeaf up f f.next f.rect
       | _ =>
         let e := s.emitWords x.q f.data f.node f.next f.rect
         (e.1, .ok { up with emits := e.2 }))
  | 1 =>
    (match parts[f.next]? with
     | none => pop
     | some r => s.callNode g x up f.node r)
  | 2 =>
    (match parts[f.next]? with
     | none => pop
     | some r => s.callLeaf up f f.slot r)
  | _ =>
    x.onRead (s.leafTest g x f.data f.slot f.rect) fun s h => (s, { x with stack := rest, hits := h })

/-- The spilled entry of greatest depth read back, once, and then its node (R323). -/
def State.rayReload (s : State) (g : Group) (x : RayCtx) : RayStep :=
  match x.back with
  | none =>
    let a := x.q.spill + 16 * (x.spilled - 1)
    (match frameOf x.q ((List.range 16).map fun i => s.spByte g (a + i)) with
     | none => (s, .error (.cause 3))
     | some f => (s, .ok { x with back := some f }))
  | some f =>
    x.onRead (s.openNode g x f.node f.rect) fun s n =>
      (s, { x with stack := [{ f with data := n.data, cls := n.cls }], spilled := x.spilled - 1, back := none })

/-- One step of a traversal: its start, an entry read back, an item, or its end. -/
def State.rayStep (s : State) (g : Group) (x : RayCtx) : RayStep :=
  if !x.started then
    if x.q.inval then (s, .ok { x with started := true, cause := some 1, written := true })
    else s.callNode g x { x with started := true } x.q.root x.q.all
  else
    match x.stack with
    | [] => if x.spilled = 0 then (s, .ok { x with cause := some 0 }) else s.rayReload g x
    | f :: rest => s.rayItem g x f rest

/-! ### Results (R327, R330) -/

/-- A result entry of ray (i, j): t, then the primitive index. -/
def RayCtx.entry (x : RayCtx) (i j : Nat) : Nat :=
  match SMap.find x.hits (64 * j + i) with
  | some h => h.t.toNat + 2 ^ 32 * h.prim.toNat
  | none => 0xFFFFFFFF7F800000

/-- The page of a result entry, or the stop that it meets. -/
def State.resultPage (s : State) (g : Group) (a : Nat) : State × Except RayStop Page :=
  if 2 ^ 52 ≤ a then (s, .error (.cause 2))
  else
    let t := s.translate g.core g.tenant g.asid a
    (t.1, match t.2 with
      | .error k => .error (.xlate a k)
      | .ok p => if p.w then .ok p else .error (.cause 2))

/-- The pages of the result entries, each of which may be written, or the stop that one of them meets. -/
def State.resultPages (s : State) (g : Group) : List Nat → State × Except RayStop (List Page)
  | [] => (s, .ok [])
  | a :: rest =>
    let r := s.resultPage g a
    match r.2 with
    | .error e => (r.1, .error e)
    | .ok p => let t := State.resultPages r.1 g rest; (t.1, t.2.map fun l => p :: l)

/-- The address of result entry k. -/
def RayCtx.place (x : RayCtx) (k : Nat) : Nat := x.q.result + k / x.q.cols * x.q.pitch + 8 * (k % x.q.cols)

/-- A result entry written at .grp, on the page that it was found to have (R327). -/
def State.putEntry (s : State) (g : Group) (x : RayCtx) (e : Nat × Option Page) : State :=
  let v := x.entry (e.1 % x.q.cols) (e.1 / x.q.cols)
  match e.2 with
  | none => s.spPuts g.uid (x.place e.1) (leBytes 8 v)
  | some p => (s.gStore g.core g.tenant 0 p 8 v).wroteOne g.uid p 8

/-- The result writes of a traversal that has ended (R327, R330): none where it stopped on a fault or an entry's page may
not be written. The pages of all entries are found first, so that no entry is written before another one's fails; then one
entry is written in each turn, in an order that is free (R333). -/
def State.rayResults (s : State) (g : Group) (x : RayCtx) : RayStep :=
  let all := List.range (x.q.rows * x.q.cols)
  if x.q.kind = 1 ∨ x.cause ≠ some 0 then (s, .ok { x with written := true })
  else
    match x.left with
    | none =>
      if x.q.rsp then (s, .ok { x with left := some (all.map fun k => (k, none)) })
      else
        let r := s.resultPages g (all.map x.place)
        (r.1, match r.2 with | .error e => .error e | .ok ps => .ok { x with left := some (all.zip (ps.map some)) })
    | some l =>
      let f := s.freeNat
      match l[f.2 % l.length]? with
      | none => (s, .ok { x with written := true })
      | some e => (f.1.putEntry g x e, .ok { x with left := some (l.erase e), written := (l.erase e).isEmpty })

/-- Context n of a core changed. -/
def State.setRay (s : State) (core n : Nat) (x : RayCtx) : State :=
  let c := s.core core
  s.setCore core { c with rays := c.rays.set n x }

/-- A turn of a traversal: nothing while it is parked, waits to emit, or has ended with its results
written. -/
def State.rayTurn (s : State) (core n : Nat) : State :=
  match (s.core core).rays[n]? with
  | none => s
  | some x =>
    match s.group? x.q.uid with
    | none => s
    | some g =>
      if x.park.isSome || (x.cause.isNone && !x.emits.isEmpty) || x.written then s
      else
        let r := if x.cause.isSome then s.rayResults g x else s.rayStep g x
        match r.2 with
        | .ok y => r.1.setRay core n y
        | .error (.cause k) => r.1.setRay core n { x with started := true, cause := some k, emits := [], buf := [], written := true }
        | .error (.xlate va k) =>
          (r.1.queueFault g va k 5).setRay core n
            { x with park := some { asid := g.asid, va := va, cause := k, agent := 5 } }

/-! ### Split records, spawned warps and completion -/

/-- The live threads of a group's spawned warps that belong to a query. -/
def Group.spawnedLive (g : Group) (id : Nat) : Nat :=
  (g.warps.map fun p =>
    if p.1 < 32 then 0
    else (p.2.spawnOf.filter fun t => t.2 == id && (p.2.thread t.1).isLive).length).sum

/-- A split record of a query. -/
def SplitRec.of (r : SplitRec) (q : RayQuery) : Bool :=
  r.uid == q.uid && r.id == q.id

/-- Threads of a query counted against its budget (R325). -/
def State.rayThreads (s : State) (core : Nat) (q : RayQuery) : Nat :=
  (((s.core core).splits.filter fun r => r.of q).map fun r => r.rays.length).sum +
  (match s.group? q.uid with | some g => g.spawnedLive q.id | none => 0)

/-- The rays of a rectangle in row-major order. -/
def Rect.rays (r : Rect) : List (Nat × Nat) :=
  (List.range r.h).flatMap fun j => (List.range r.w).map fun i => (r.i0 + i, r.j0 + j)

/-- The record of words `ws` of a context may be emitted: the split-record queue has room, and the query's budget (R306,
R325). -/
def State.emitMay (s : State) (core : Nat) (x : RayCtx) (ws : List Word) : Bool :=
  let r := Rect.ofWord ((ws[0]?).getD 0).toNat
  decide ((s.core core).splits.length < splitRoom) && decide (s.rayThreads core x.q + r.w * r.h ≤ x.q.budget)

/-- SPLIT_RECORD_EMIT (R324, R325): the next record of a context, once the limits allow it. -/
def execSplitRecordEmit (s : State) : Host.Outcome State Fault Refusal :=
  let n := s.ctl.arg.core
  let c := s.core n
  match c.rays[s.ctl.arg.ch]? with
  | none => s.notDue
  | some x =>
    match x.emits with
    | [] => s.notDue
    | ws :: rest =>
      let r := Rect.ofWord ((ws[0]?).getD 0).toNat
      if !s.emitMay n x ws then .next s.waits
      else
        let rec_ : SplitRec := { uid := x.q.uid, id := x.q.id, words := ws,
                                 rays := r.rays, entry := x.q.entry }
        .next ((s.setCore n { c with splits := c.splits ++ [rec_] }).setRay n s.ctl.arg.ch
          { x with emits := rest, records := x.records + 1 })

/-- Up to n threads taken from a query's records in order: each its record's words and its ray. -/
def takeRays (q : RayQuery) : Nat → List SplitRec → List (List Word × Nat × Nat) × List SplitRec
  | _, [] => ([], [])
  | n, r :: rs =>
    if r.of q then
      let t := takeRays q (n - r.rays.length) rs
      let mine := (r.rays.take n).map fun p => (r.words, p.1, p.2)
      let left := r.rays.drop n
      (mine ++ t.1, if left.isEmpty then t.2 else { r with rays := left } :: t.2)
    else
      let t := takeRays q n rs
      (t.1, r :: t.2)

/-- A spawn slot is free: no warp stands there, or the one that did has exited. -/
def Group.slotFree (g : Group) (slot : Nat) : Bool :=
  decide (32 ≤ slot) && decide (slot < 32 + g.kern.spawn) &&
  (match g.warp? slot with | none => true | some w => w.exited)

/-- A spawned warp at its start (R326, R41). -/
def Group.spawnWarp (g : Group) (slot : Nat) (ts : List (List Word × Nat × Nat)) (entry id : Nat) : Warp :=
  let ctx := g.ln.ctxbase.toNat + 0x411000 * g.gid
  let w := Warp.fresh (startThreads g.kern.width ts.length (8 * entry)) (slotFrame ctx slot)
  let word (k t : Nat) : Word :=
    match ts[t]? with
    | none => 0
    | some (ws, i, j) => if k = 7 then BitVec.ofNat 32 (j * 2 ^ 8 + i) else (ws[k]?).getD 0
  let regs := (List.range 8).foldl (fun r k => r.preV k (word k)) w.regs
  { w with regs := preload g slot 8 regs, spawnOf := (List.range ts.length).map fun t => (t, id) }

/-- A warp of a group's split records is to start: a record is queued and a spawn slot is free; or a record of the group is
to be emitted first (R325, R326). -/
def State.spawnDue (s : State) (g : Group) : Bool :=
  ((s.core g.core).splits.any fun r => r.uid == g.uid) && ((List.range g.kern.spawn).any fun k => g.slotFree (32 + k)) ||
  (s.core g.core).rays.any fun x => x.q.uid == g.uid && (match x.emits with | ws :: _ => s.emitMay g.core x ws | [] => false)

/-- SPAWN_WARP_START (R326): a warp of a context's query in a free spawn slot. The completion record counts the threads
started before a fault of the query (R330). -/
def execSpawnWarpStart (s : State) : Host.Outcome State Fault Refusal :=
  let a := s.ctl.arg
  let c := s.core a.core
  match c.rays[a.ch]? with
  | none => s.notDue
  | some x =>
    match s.group? x.q.uid with
    | none => s.notDue
    | some g =>
      if !g.slotFree a.slot then .next s.waits
      else
        let r := takeRays x.q g.kern.width c.splits
        if r.1.isEmpty then s.notDue
        else
          let n := if x.cause.getD 0 = 0 then x.begun + r.1.length else x.begun
          let s := (s.setCore a.core { c with splits := r.2 }).setRay a.core a.ch { x with begun := n }
          .next (s.setGroup (g.setWarp a.slot (g.spawnWarp a.slot r.1 x.q.entry x.q.id)))

/-- The completion record of a context (R329, R330). -/
def RayCtx.completion (x : RayCtx) : List Word :=
  let cause := x.cause.getD 0
  let st := BitVec.ofNat 32 (2 ^ 30 * x.q.kind + 2 ^ 24 * cause + x.q.tag)
  if x.q.kind = 1 then
    match SMap.find x.hits 0 with
    | some h => if cause = 0 then [st, h.t, h.prim, 0] else [st, 0x7F800000, 0xFFFFFFFF, 0]
    | none => [st, 0x7F800000, 0xFFFFFFFF, 0]
  else [st, BitVec.ofNat 32 (if cause = 0 then x.hits.length else 0), BitVec.ofNat 32 x.records, BitVec.ofNat 32 x.begun]

/-- Everything that R328 asks of a context's completion. -/
def State.rayDone (s : State) (core : Nat) (x : RayCtx) : Bool :=
  x.cause.isSome && x.written && s.rayThreads core x.q == 0

/-- RAY_QUERY_COMPLETE (R328): the record placed at the issuing thread, the context freed. -/
def execRayQueryComplete (s : State) : Host.Outcome State Fault Refusal :=
  let a := s.ctl.arg
  let c := s.core a.core
  match c.rays[a.ch]? with
  | none => s.notDue
  | some x =>
    if !s.rayDone a.core x then .next s.waits
    else
      .next ((s.setCore a.core { c with rays := c.rays.eraseIdx a.ch }).updQuery x.q fun y =>
        { y with st := 3, words := x.completion })

end Sys2Proof.Machine
end

