-- ==== Sys2Proof/Machine/Paging.lean ====
section
/-!
DEFINITION. What changes page tables, TLBs and caches: MAPUPD, TLBINV, CODEINV (R385 to R387), walks
(R380, R382), evictions (R242, R243, R246, R382), and the fault queues and logs (R384).
-/

namespace Sys2Proof.Machine

/-! ### Writing page tables (R377, R378, R385) -/

/-- Bytes of a table of a level. -/
def tableSize (lvl : Nat) : Nat := match lvl with | 0 => 65536 | 1 => 4096 | 2 => 4096 | _ => 256

/-- A page-table entry written (R385). -/
def State.putPte (s : State) (a : Nat) (e : DWord) : State := { s with mem := memPuts s.mem a (leBytes 8 e.toNat) }
def State.getPte (s : State) (a : Nat) : DWord := BitVec.ofNat 64 (memNat s.mem a 8)

/-- Memory with n bytes zero. -/
def memZero (m : List Host.Cell) (a n : Nat) : List Host.Cell := m.filter fun c => decide (c.1 < a) || decide (a + n ≤ c.1)

/-- A new table of a level, all zero, as the address of its first byte (log 6). -/
def State.newTable (s : State) (lvl : Nat) : Option (State × Nat) :=
  let n := tableSize lvl
  let a := (s.fw.tblNext + n - 1) / n * n
  match s.fw.freeTables.find? fun f => f.1 == n with
  | some f =>
    some ({ s with mem := memZero s.mem f.2 n, fw := { s.fw with freeTables := s.fw.freeTables.erase f } }, f.2)
  | none =>
    if 2 ^ 32 < a + n then none else some ({ s with mem := memZero s.mem a n, fw := { s.fw with tblNext := a + n } }, a)

/-- The tables under an entry that points to one, with their bytes: those that a leaf written over it frees (R385). -/
def State.tablesBelow (s : State) (e : DWord) : List (Nat × Nat × Nat) → List (Nat × Nat)
  | [] => []
  | (_, n, _) :: ls =>
    (8 * n, ptePA e) :: (List.range n).flatMap fun i =>
      let x := s.getPte (ptePA e + 8 * i)
      if bit x 0 && !bit x 1 then s.tablesBelow x ls else []

/-- The PTE that points to a table. -/
def tableEntry (a : Nat) : DWord := BitVec.ofNat 64 (1 + 2 ^ 16 * (a / 256))

/-- A leaf written at a level below a table, with the tables it needs on the way. -/
def State.putLeaf (s : State) (va target : Nat) (pte : DWord) : List (Nat × Nat × Nat) → Nat → Nat → State
  | [], _, _ => s
  | (lo, n, _) :: ls, table, lvl =>
    let a := table + 8 * ((va / 2 ^ lo) % n)
    if lvl = target then
      let e := s.getPte a
      let freed := if bit e 0 && !bit e 1 then s.tablesBelow e ls else []
      ({ s with fw := { s.fw with freeTables := s.fw.freeTables ++ freed } }).putPte a pte
    else
      let e := s.getPte a
      if bit e 0 && !bit e 1 then State.putLeaf s va target pte ls (ptePA e) (lvl + 1)
      else
        match s.newTable (lvl + 1) with
        | none => s
        | some t => State.putLeaf (t.1.putPte a (tableEntry t.2)) va target pte ls t.2 (lvl + 1)

/-- A leaf of an ASID written at a level. -/
def State.mapLeaf (s : State) (asid va lvl : Nat) (pte : DWord) : State :=
  let root := SMap.get 0 s.fw.roots asid
  if bit root 0 then s.putLeaf va lvl pte walkLevels (ptePA root) 0
  else
    match s.newTable 0 with
    | none => s
    | some t =>
      let s := { t.1 with fw := { t.1.fw with roots := SMap.set 0 t.1.fw.roots asid (tableEntry t.2) } }
      s.putLeaf va lvl pte walkLevels t.2 0

/-- An entry, or one of the tables below it, holds a pinned leaf. -/
def State.pinnedBelow (s : State) (e : DWord) : List (Nat × Nat × Nat) → Bool
  | [] => false
  | (_, n, _) :: ls =>
    (List.range n).any fun i =>
      let x := s.getPte (ptePA e + 8 * i)
      bit x 0 && (if bit x 1 then bit x 9 else s.pinnedBelow x ls)

/-- Writing a leaf at a level would change or free a pinned entry (R385). -/
def State.pinned (s : State) (va target : Nat) : List (Nat × Nat × Nat) → Nat → Nat → Bool
  | [], _, _ => false
  | (lo, n, _) :: ls, table, lvl =>
    let e := s.getPte (table + 8 * ((va / 2 ^ lo) % n))
    if !bit e 0 then false
    else if bit e 1 then bit e 9
    else if lvl = target then s.pinnedBelow e ls
    else State.pinned s va target ls (ptePA e) (lvl + 1)

def State.pinnedAt (s : State) (asid va lvl : Nat) : Bool :=
  let root := SMap.get 0 s.fw.roots asid
  bit root 0 && s.pinned va lvl walkLevels (ptePA root) 0

/-- The leaf that maps an address, changed (PIN, R347). -/
def State.editLeaf (s : State) (va : Nat) (f : DWord → DWord) : List (Nat × Nat × Nat) → Nat → State
  | [], _ => s
  | (lo, n, _) :: ls, table =>
    let a := table + 8 * ((va / 2 ^ lo) % n)
    let e := s.getPte a
    if !bit e 0 then s else if bit e 1 then s.putPte a (f e) else State.editLeaf s va f ls (ptePA e)

def State.editPage (s : State) (asid va : Nat) (f : DWord → DWord) : State :=
  let root := SMap.get 0 s.fw.roots asid
  if bit root 0 then s.editLeaf va f walkLevels (ptePA root) else s

/-- Bytes of a tenant record's control ring (R482). -/
def ctlRingSpan (d : Nat) : Nat := 64 + 64 * 2 ^ (bitsOf d 483 480 + 4)
/-- Its 64 KiB pages. -/
def ctlRingPages (d : Nat) : Nat := (ctlRingSpan d + 65535) / 65536

/-- Physical bytes that lie in one of a tenant's allotments (R375). -/
def State.inAllotment (s : State) (t pa n : Nat) : Bool :=
  let hb := 2 ^ 30 * s.tenantField t 111 96
  let lb := lpddrBase + 2 ^ 30 * s.tenantField t 79 64
  (decide (hb ≤ pa) && decide (pa + n ≤ hb + 2 ^ 30 * s.tenantField t 127 112)) ||
  (decide (lb ≤ pa) && decide (pa + n ≤ lb + 2 ^ 30 * s.tenantField t 95 80))

/-! ### MAPUPD (R385) -/

/-- The page size that SIZE names, and the level of its leaves. -/
def mapSize (c : Command) : Nat := match Command.bits c 0 17 16 with | 0 => 2 ^ 16 | 1 => 2 ^ 21 | _ => 2 ^ 30
def mapLevel (c : Command) : Nat := match Command.bits c 0 17 16 with | 0 => 3 | 1 => 2 | _ => 1

/-- The fields of a MAPUPD hold no reserved value. -/
def mapFields (c : Command) : Bool :=
  let w0 := Command.word c 0
  let t := Command.addr c 3
  if bitsOf w0 25 25 = 1 then w0 == 2 ^ 25 && Command.zeroFrom c 1
  else
    bitsOf w0 15 12 == 0 && bitsOf w0 23 18 == 0 && bitsOf w0 31 26 == 0 && bitsOf w0 17 16 != 3 &&
    Command.zeroFrom c 6 &&
    (if bitsOf w0 24 24 = 1 then t == 0
     else bitsOf t 1 0 == 3 && bitsOf t 9 9 == 0 && bitsOf t 15 10 == 0 && bitsOf t 63 56 == 0 && bitsOf t 7 6 != 3)

/-- What MAPUPD checks before it writes. -/
def State.mapCheck (s : State) (c : Command) : Option Status :=
  let t := Command.tenant c
  let asid := Command.bits c 0 11 0
  let size := mapSize c
  let va := Command.addr c 1
  let n := Command.word c 5
  let pa := ptePA (BitVec.ofNat 64 (Command.addr c 3))
  let unmap := Command.bits c 0 24 24 = 1
  if !mapFields c then some .resv
  else if va % size ≠ 0 ∨ n = 0 ∨ 65536 < n ∨ 2 ^ 52 < va + n * size ∨ (¬unmap ∧ pa % size ≠ 0) then some .bounds
  else if !s.asidOk t asid then some .prot
  else if ¬unmap ∧ !s.inAllotment t pa (n * size) then some .prot
  else if (List.range n).any fun i => s.pinnedAt asid (va + i * size) (mapLevel c) then some .priv
  else none

/-- Entry i of a MAPUPD written. -/
def State.mapEntry (s : State) (i : Nat) : State :=
  let c := s.ctl.cmd
  let size := mapSize c
  let pte : DWord :=
    if Command.bits c 0 24 24 = 1 then 0 else BitVec.ofNat 64 (Command.addr c 3 + 2 ^ 16 * (i * size / 256))
  s.mapLeaf (Command.bits c 0 11 0) (Command.addr c 1 + i * size) (mapLevel c) pte

/-- A MAPUPD of pages: its checks as it starts, then its entries in ascending order, one in each turn, so that a walk may
come between two of them. -/
def State.mapupd (s : State) : Host.Outcome State Fault Refusal :=
  let c := s.ctl.cmd
  match (if s.unitsDone = 0 then s.mapCheck c else none) with
  | some st => .next (s.cmdFail st)
  | none => s.cmdUnit (Command.word c 5) State.mapEntry

/-- MAPUPD (R385). -/
def execMapupd (s : State) : Host.Outcome State Fault Refusal := s.mapupd
/-- MAPUPD with UNMAP (R385). -/
def execMapupdUnmap (s : State) : Host.Outcome State Fault Refusal := s.mapupd

/-- Counters of a tenant's hotness table (R388). -/
def State.hotCount (s : State) (t : Nat) : Nat := (s.tenantField t 127 112 + s.tenantField t 95 80) * 512

/-- Counter i of the current command's tenant halved (R385). -/
def State.decay (s : State) (i : Nat) : State :=
  let a := s.hotAddr (Command.tenant s.ctl.cmd) i
  { s with mem := memPuts s.mem a (leBytes 2 (memNat s.mem a 2 / 2)) }

/-- MAPUPD with DECAY (R385): one counter in each turn. -/
def execMapupdDecay (s : State) : Host.Outcome State Fault Refusal :=
  let c := s.ctl.cmd
  if mapFields c then s.cmdUnit (s.hotCount (Command.tenant c)) State.decay else .next (s.cmdFail .resv)

/-! ### TLBINV (R386) -/

/-- The ASIDs and the range that a TLBINV acts on. -/
structure InvRange where
  all : Bool
  tenantBase : Nat
  tenantCount : Nat
  asid : Nat
  start : Nat
  len : Nat

def InvRange.asids (r : InvRange) (a : Nat) : Bool :=
  if r.all then decide (r.tenantBase ≤ a) && decide (a < r.tenantBase + r.tenantCount) else a == r.asid

/-- n bytes of an ASID from an address meet the range. -/
def InvRange.meets (r : InvRange) (asid va n : Nat) : Bool :=
  r.asids asid && (r.len == 0 || (decide (va < r.start + r.len) && decide (r.start < va + n)))

/-- A parked access that the range retries: cleared (R384, R386). -/
def InvRange.retry (r : InvRange) (p : Option Park) : Option Park :=
  p.filter fun x => !r.meets x.asid (65536 * (x.va / 65536)) 65536

/-- A group's parked streams retried. -/
def Group.retry (g : Group) (r : InvRange) : Group :=
  { g with
    warps := SMap.mapv (fun _ (w : Warp) => { w with parked := r.retry w.parked }) g.warps,
    a := { g.a with parked := r.retry g.a.parked }, frozenIO := r.retry g.frozenIO }

/-- A core without the matching TLB entries; with `re`, its parked commands retried. -/
def Core.inv (c : Core) (r : InvRange) (re : Bool) : Core :=
  let c := { c with tlb := c.tlb.filter fun e => !r.meets e.asid e.va e.size.bytes }
  if re then
    { c with
      chans := SMap.mapv (fun _ l => l.map fun (x : CeCmd) => { x with park := r.retry x.park }) c.chans,
      rays := c.rays.map fun x => { x with park := r.retry x.park } }
  else c

/-- The range meets what a completed walk found for the accesses that asked for it: a leaf of any size, or a fault (R382). -/
def InvRange.meetsWalk (r : InvRange) (w : Walk) : Bool :=
  match w.result with
  | none => false
  | some (.fault _) => r.meets w.asid (65536 * w.page) 65536
  | some (.leaf _ size) => r.meets w.asid (65536 * w.page / size.bytes * size.bytes) size.bytes

/-- Result entries of a context that are still to be written on pages of the range. -/
def InvRange.meetsResults (r : InvRange) (g : Group) (x : RayCtx) : Bool :=
  (x.left.getD []).any fun e => e.2.isSome && r.meets g.asid (x.place e.1) 8

/-- The result writes of context n of a core that the range meets, performed: an access that has its translation comes before the
removal (R386). -/
def State.settleRay (r : InvRange) (k : Nat) (s : State) (n : Nat) : State :=
  match (s.core k).rays[n]? with
  | none => s
  | some x =>
    match s.group? x.q.uid with
    | none => s
    | some g =>
      if r.meetsResults g x then
        ((x.left.getD []).foldl (fun s e => s.putEntry g x e) s).setRay k n { x with left := some [], written := true }
      else s

/-- The same for every context. -/
def State.settleResults (s : State) (r : InvRange) : State :=
  s.cores.foldl (fun s p => (List.range p.2.rays.length).foldl (State.settleRay r p.1) s) s

/-- Entries removed from every TLB, and parked accesses retried under RETRY. -/
def State.tlbInv (s : State) (r : InvRange) (re : Bool) : State :=
  { s with
    cores := SMap.mapv (fun _ c => c.inv r re) s.cores,
    walks := SMap.mapSet [] (fun l => l.filter fun w => !r.meetsWalk w) s.walks,
    dies := SMap.mapv (fun _ d => { d with tlb := d.tlb.filter fun e => !r.meets e.asid e.va e.size.bytes }) s.dies,
    groups := if re then SMap.mapv (fun _ g => g.retry r) s.groups else s.groups }

/-- TLBINV (R386, R376). -/
def execTlbinv (s : State) : Host.Outcome State Fault Refusal :=
  let c := s.ctl.cmd
  let t := Command.tenant c
  let w0 := Command.word c 0
  let all := bitsOf w0 16 16 == 1
  let r : InvRange :=
    { all := all, tenantBase := s.abase t, tenantCount := s.tenantField t 159 144, asid := bitsOf w0 11 0,
      start := Command.addr c 1, len := Command.addr c 3 }
  cmdResult s
    (if bitsOf w0 15 12 ≠ 0 ∨ bitsOf w0 31 18 ≠ 0 ∨ !Command.zeroFrom c 5 ∨ (all ∧ r.asid ≠ 0) then .error .resv
     else if r.start % 65536 ≠ 0 ∨ r.len % 65536 ≠ 0 ∨ 2 ^ 52 < r.start + r.len then .error .bounds
     else if !all && !s.asidOk t r.asid then .error .prot
     else .ok ((s.settleResults r).tlbInv r (bitsOf w0 17 17 == 1)))

/-! ### CODEINV (R246, R387) -/

/-- Instruction lines of some keys dropped from the cores of a mask. -/
def State.dropL1i (s : State) (p : Nat → Nat → Bool) : State :=
  { s with cores := SMap.mapv (fun k c => { c with l1i := c.l1i.filter fun e => !p k e.1 }) s.cores }

/-- A code-cache line of a die invalidated, with its copies (R246). -/
def State.dropCode (s : State) (d ln : Nat) : State :=
  match SMap.find (s.die d).code ln with
  | none => s
  | some l =>
    let s := s.dropL1i fun k key => dieOf k == d && bit l.cores k && l.keys.contains key
    s.setDie d { s.die d with code := SMap.del (s.die d).code ln }

/-- The code of a range of virtual addresses invalidated (R387). -/
def State.codeInvRange (s : State) (asid va n : Nat) : State :=
  let pages := (List.range (n / 65536)).filterMap fun i =>
    match s.translateIO asid (va + 65536 * i) with | .ok p => some p.pa | .error _ => none
  let hit (ln : Nat) : Bool := pages.any fun p => decide (p ≤ 128 * ln) && decide (128 * ln < p + 65536)
  (List.range 4).foldl
    (fun s d => (((s.die d).code.map Prod.fst).filter hit).foldl (fun s ln => s.dropCode d ln) s) s

/-- The code of an address space invalidated (R246): its lines in every L1 instruction cache. A fetch after it reads
memory as it then stands, so every line of a code cache is evicted with it (log 47). -/
def State.codeInvAsid (s : State) (asid : Nat) : State :=
  (List.range 4).foldl (fun s d => ((s.die d).code.map Prod.fst).foldl (fun s ln => s.dropCode d ln) s)
    (s.dropL1i fun _ key => key / 2 ^ 45 == asid)

/-- CODEINV (R387). -/
def execCodeinv (s : State) : Host.Outcome State Fault Refusal :=
  let c := s.ctl.cmd
  let w0 := Command.word c 0
  let asid := bitsOf w0 11 0
  let va := Command.addr c 1
  let n := Command.addr c 3
  let range := bitsOf w0 16 16 = 1
  cmdResult s
    (if bitsOf w0 15 12 ≠ 0 ∨ bitsOf w0 31 17 ≠ 0 ∨ !Command.zeroFrom c 5 ∨ (¬range ∧ (va ≠ 0 ∨ n ≠ 0)) then .error .resv
     else if va % 65536 ≠ 0 ∨ n % 65536 ≠ 0 ∨ 2 ^ 52 < va + n then .error .bounds
     else if !s.asidOk (Command.tenant c) asid then .error .prot
     else .ok (if range then s.codeInvRange asid va n else s.codeInvAsid asid))

/-! ### Walks and evictions -/

/-- Walkers of a die (R11, R383). -/
def walkers : Nat := 64

/-- The walk is for an ASID and bits 51:16 of an address. -/
def Walk.isFor (w : Walk) (asid page : Nat) : Bool := w.asid == asid && w.page == page

/-- The walks of a die in progress: those that hold a walker, the oldest that have no result (R383). -/
def State.inProgress (s : State) (d : Nat) : List Walk := ((s.walksOf d).filter fun w => w.result.isNone).take walkers

/-- A walk completed with what it finds. -/
def completeWalk (asid page : Nat) (r : WalkResult) : List Walk → List Walk
  | [] => []
  | w :: l => if w.isFor asid page && w.result.isNone then { w with result := some r } :: l else w :: completeWalk asid page r l

/-- PAGE_WALK (R380, R382, R383): the walk in progress on the die of core `arg.core` for ASID `arg.asid` and address
`arg.va` completes. It reads the tables as they stand; a leaf fills the die TLB, and the accesses that asked for the
walk fill their L1 TLB as they go on. -/
def execPageWalk (s : State) : Host.Outcome State Fault Refusal :=
  let a := s.ctl.arg
  let d := dieOf a.core
  let page := a.va / 65536
  match (s.inProgress d).find? fun w => w.isFor a.asid page with
  | none => s.notDue
  | some w =>
    let r := s.walkResult a.asid a.va
    let s := (s.bump w.tenant 5 d 1).setWalks d (completeWalk a.asid page r (s.walksOf d))
    match r with
    | .fault _ => .next s
    | .leaf pte size =>
      let e : TlbEntry := { asid := a.asid, va := a.va / size.bytes * size.bytes, size := size, pte := pte }
      .next (s.setDie d { s.die d with tlb := e :: (s.die d).tlb })

/-- A turn's die-TLB miss asks for its walk: it joins one in progress, or is the last of those that take a walker in
their order; where it has asked already, it waits on (R383). -/
def State.askWalk (s : State) (t : Turn) (m : Miss) : State :=
  let l := s.walksOf m.die
  if l.any fun w => w.isFor m.asid m.page && w.who.contains t then s
  else
    let s := s.bump m.tenant 4 m.die 1
    if (s.inProgress m.die).any fun w => w.isFor m.asid m.page then
      s.setWalks m.die (l.map fun w =>
        if w.isFor m.asid m.page && (s.inProgress m.die).contains w then { w with who := w.who ++ [t] } else w)
    else s.setWalks m.die (l ++ [{ tenant := m.tenant, asid := m.asid, page := m.page, who := [t], result := none }])

/-- The completed walks that a turn has asked for. -/
def State.served (s : State) (t : Turn) : List Served :=
  s.walks.flatMap fun p => p.2.filterMap fun w =>
    if w.who.contains t then w.result.map fun r => { die := p.1, asid := w.asid, page := w.page, result := r } else none

/-- The tenant in whose allotment a byte lies. -/
def State.ownerOf (s : State) (pa : Nat) : Nat := ((List.range 16).find? fun t => s.inAllotment t pa 1).getD 0

/-- A clean or dirty line evicted, its dirty bytes written back (R242, R243, R246, R382). -/
def State.evict (s : State) (c : CacheLine) : State :=
  match c with
  | .l1 k ln => let s := s.flushL1Line (s.ownerOf (128 * ln)) k ln 2; s.setL1Line k ln Line.none
  | .l1i k asid ln => s.dropL1i fun j key => j == k && key == 2 ^ 45 * asid + ln
  | .codeCache d ln => s.dropCode d ln
  | .dieCache d ln => let s := s.flushDieLine d ln; s.setDieLine d ln Line.none
  | .frame ln =>
    let l := s.partLine 1 ln
    (if l.dirty = 0 then s else s.homeWrite ln l.dirty l.data).setPartLine 1 ln Line.none
  | .ring ln =>
    let l := s.partLine 2 ln
    (if l.dirty = 0 then s else s.homeWrite ln l.dirty l.data).setPartLine 2 ln Line.none
  | .l1Tlb k n => s.setCore k { s.core k with tlb := (s.core k).tlb.eraseIdx n }
  | .dieTlb d n => s.setDie d { s.die d with tlb := (s.die d).tlb.eraseIdx n }

/-! ### Capacities (R11, R237, R382) -/

/-- Lines and entries that a part's caches and TLBs hold (R11): L1 data, L1 instruction, code and die cache in lines of 128
bytes, L1 and die TLB in entries. -/
def capL1 : Nat := 2048
def capL1i : Nat := 1024
def capL1Tlb : Nat := 256
def capCode : Nat := 65536
def capDie : Nat := 1048576
def capDieTlb : Nat := 16384
/-- Lines of an I/O-die partition: kind 1 frame, 2 ring, of 256 MiB together (R237, R358). -/
def State.capPart (s : State) (kind : Nat) : Nat := if kind = 1 then 8192 * s.fw.fcpmb else 8192 * (256 - s.fw.fcpmb)

/-- One of the lines at some keys, taken freely; which line of a cache an allocation evicts is not given (log 18). -/
def State.pickKey (s : State) (l : List Nat) (f : Nat → CacheLine) : State × Option CacheLine :=
  let r := s.freeNat
  (r.1, (l[r.2 % l.length]?).map f)

/-- The die-cache lines among which the next one to go is: those marked to go first, else those not marked to stay, else
any (R260). -/
def Die.leaving (d : Die) : List Nat :=
  let l := d.dcache.map Prod.fst
  let a := l.filter d.first.contains
  let b := l.filter fun n => !d.keep.contains n
  if !a.isEmpty then a else if !b.isEmpty then b else l

/-- n lines or entries evicted, each as chosen. -/
def State.shrink (choose : State → State × Option CacheLine) : Nat → State → State
  | 0, s => s
  | n + 1, s =>
    let r := choose s
    match r.2 with
    | none => r.1
    | some c => State.shrink choose n (r.1.evict c)

/-- The caches and the TLB of a core brought within their sizes. -/
def State.fitCore (s : State) (k : Nat) : State :=
  let s := State.shrink (fun s => s.pickKey ((s.core k).l1.map Prod.fst) (.l1 k)) ((s.core k).l1.length - capL1) s
  let s := State.shrink (fun s => s.pickKey ((s.core k).l1i.map Prod.fst) fun key => .l1i k (key / 2 ^ 45) (key % 2 ^ 45))
    ((s.core k).l1i.length - capL1i) s
  State.shrink (fun s => s.pickKey (List.range (s.core k).tlb.length) (.l1Tlb k)) ((s.core k).tlb.length - capL1Tlb) s

/-- The caches and the TLB of a die brought within their sizes. -/
def State.fitDie (s : State) (d : Nat) : State :=
  let s := State.shrink (fun s => s.pickKey ((s.die d).code.map Prod.fst) (.codeCache d)) ((s.die d).code.length - capCode) s
  let s := State.shrink (fun s => s.pickKey (s.die d).leaving (.dieCache d)) ((s.die d).dcache.length - capDie) s
  State.shrink (fun s => s.pickKey (List.range (s.die d).tlb.length) (.dieTlb d)) ((s.die d).tlb.length - capDieTlb) s

/-- Every cache and TLB of the module brought within its size, as it always is in the part (R11, R237, R382). What the
allocations of a turn evict leaves at the turn's end (log 18). -/
def State.fitCaches (s : State) : State :=
  let s := (s.cores.map Prod.fst).foldl State.fitCore s
  let s := (s.dies.map Prod.fst).foldl State.fitDie s
  let s := State.shrink (fun s => s.pickKey (s.frame.map Prod.fst) .frame) (s.frame.length - s.capPart 1) s
  State.shrink (fun s => s.pickKey (s.ringp.map Prod.fst) .ring) (s.ringp.length - s.capPart 2) s

/-- CACHE_EVICTION. -/
def execCacheEviction (s : State) : Host.Outcome State Fault Refusal := .next (s.evict s.ctl.arg.cline)

/-! ### Fault logs (R384) -/

/-- An entry of the fault log. -/
def faultEntry (f : FaultEntry) (die seq : Nat) : Nat :=
  seq % 2 ^ 16 + 2 ^ 16 * f.count + 2 ^ 43 * die + 2 ^ 45 * f.agent + 2 ^ 48 * f.cause + 2 ^ 52 * f.asid + 2 ^ 64 * (f.va % 2 ^ 64)

/-- A byte at a physical address as an I/O-die agent sees it: an I/O-die partition that holds it answers (R244). -/
def State.physByte (s : State) (a : Nat) : Byte :=
  let r := SMap.get Line.none s.ringp (a / 128)
  let f := SMap.get Line.none s.frame (a / 128)
  if bit r.valid (a % 128) then lineByte r.data (a % 128)
  else if bit f.valid (a % 128) then lineByte f.data (a % 128)
  else memByte s.mem a
def State.physNat (s : State) (a n : Nat) : Nat := leNat ((List.range n).map fun i => s.physByte (a + i))

/-- A byte written by an I/O-die agent at a physical address. -/
def State.physPut (s : State) (a : Nat) (b : Byte) : State :=
  let ln := a / 128
  let m := byteMask (a % 128) 1
  let x := natLine b.toNat (a % 128)
  let r := s.partLine 2 ln
  let f := s.partLine 1 ln
  if bit r.valid (a % 128) then s.setPartLine 2 ln (r.write m x true)
  else if bit f.valid (a % 128) then s.setPartLine 1 ln (f.write m x true)
  else s.homeWrite ln m x
def State.physPuts (s : State) (a : Nat) (bs : List Byte) : State :=
  bs.zipIdx.foldl (fun s p => s.physPut (a + p.2) p.1) s

/-- Whether a tenant's log takes an entry: its write and read counts. -/
def State.logCounts (s : State) (t : Nat) : Nat × Nat :=
  let base := s.tenantField t 319 256
  (s.physNat base 4, s.physNat (base + 8) 4)
def State.logRoom (s : State) (t : Nat) : Bool :=
  let c := s.logCounts t
  decide ((c.1 + 2 ^ 32 - c.2) % 2 ^ 32 < 2 ^ s.tenantField t 191 184)

/-- The first queued fault of a die whose log has room; none when every one waits. -/
def State.drainable (s : State) (d : Nat) : Option FaultEntry :=
  (s.die d).faults.find? fun f => (SMap.find s.fw.tenants f.tenant).isSome && s.logRoom f.tenant

/-- A fault moved into its tenant's log, the write count published. -/
def State.drain (s : State) (d : Nat) (f : FaultEntry) : State :=
  let t := f.tenant
  let base := s.tenantField t 319 256
  let n := (s.logCounts t).1
  let seq := SMap.get 0 s.fw.logSeq t
  let at_ := base + 16 + 16 * (n % 2 ^ s.tenantField t 191 184)
  let s := (s.physPuts at_ (leBytes 16 (faultEntry f d seq))).physPuts base (leBytes 4 ((n + 1) % 2 ^ 32))
  let s := { s with fw := { s.fw with logSeq := SMap.set 0 s.fw.logSeq t ((seq + 1) % 2 ^ 16) } }
  s.setDie d ({ s.die d with faults := (s.die d).faults.erase f }.placeLate)

/-- FAULT_LOG_DRAIN (R384): die `arg.die`. -/
def execFaultLogDrain (s : State) : Host.Outcome State Fault Refusal :=
  match s.drainable s.ctl.arg.die with
  | none => s.notDue
  | some f => .next (s.drain s.ctl.arg.die f)

/-- Every entry of a die's queue that its log can take, drained in order. -/
def State.drainAll (s : State) (d : Nat) : Nat → State
  | 0 => s
  | n + 1 => match s.drainable d with | none => s | some f => State.drainAll (s.drain d f) d n

/-- FAULT_LOG_RETEST (R384): the firmware tests every log again. -/
def execFaultLogRetest (s : State) : Host.Outcome State Fault Refusal :=
  .next ((List.range 4).foldl
    (fun s d => s.drainAll d ((s.die d).faults.length + (s.die d).late.length)) s)

end Sys2Proof.Machine
end

