-- ==== Sys2Proof/Machine/Vosis.lean ====
section
/-!
DEFINITION. The VOSIS section and the rules by which a block is malformed (R400 to R405).
-/

namespace Sys2Proof.Machine

/-- A Vosis operation (R401): the 128 bits. -/
abbrev VosisOp := BitVec 128

def vOp (o : VosisOp) : Nat := bitsOf o.toNat 95 88
def vMod (o : VosisOp) : Nat := bitsOf o.toNat 87 84
def vXmod (o : VosisOp) : Nat := bitsOf o.toNat 83 80
def vTgt (o : VosisOp) (k : Nat) : Nat := if k = 0 then bitsOf o.toNat 69 60 else bitsOf o.toNat 79 70
def vLsid (o : VosisOp) : Nat := bitsOf o.toNat 59 55
def vImmuse (o : VosisOp) : Nat := bitsOf o.toNat 54 53
def vOc (o : VosisOp) : Nat := bitsOf o.toNat 52 49
def vScope (o : VosisOp) : Nat := bitsOf o.toNat 48 46
def vSem (o : VosisOp) : Nat := bitsOf o.toNat 45 44
def vCmask (o : VosisOp) : Nat := bitsOf o.toNat 43 28
def vGuard (o : VosisOp) : Bool := bit o 27
def vGneg (o : VosisOp) : Bool := bit o 26
def vReg (o : VosisOp) : Nat := bitsOf o.toNat 25 17
def vImm (o : VosisOp) : Nat := bitsOf o.toNat 127 96

/-- The operation as a T word, for the rules of its T form; a code operand stands in REG (R410). -/
def vWord (o : VosisOp) : TWord :=
  { mod := BitVec.ofNat 4 (vMod o), pred := 7, pneg := 0, popq := 0, pushq := 0, spec := 0, dst := 0,
    srca := BitVec.ofNat 9 (256 + vReg o % 256), srcb := 0, srcc := 0, lr := 0,
    long := some { imm32 := 0, immuse := 0, oc := BitVec.ofNat 4 (vOc o), scope := BitVec.ofNat 3 (vScope o),
                   sem := BitVec.ofNat 2 (vSem o), cmask := BitVec.ofNat 16 (vCmask o), xmod := BitVec.ofNat 4 (vXmod o) } }

/-- What a value is: its width in registers, or a predicate. -/
inductive VKind where
  | none | regs (n : Nat) | pred
  deriving DecidableEq, Repr

/-- The registers that READ and WRITE move by MOD. -/
def vWidth (o : VosisOp) : Nat := match vMod o with | 0 => 1 | 1 => 2 | 2 => 4 | _ => 0

/-- REG of a READ or WRITE names a register (R401). -/
def vRegOk (o : VosisOp) : Bool :=
  let r := vReg o
  let n := vWidth o
  (0xD0 ≤ r && r < 0xD7 && n == 1) || (0 < n && r < 0xC8 && r % n == 0)

/-- The operations of R403 that are T operations. -/
def vListed (op mod : Nat) (reg : Nat) : Bool :=
  decide (op < 0x40) || [0x48, 0x49, 0x4A, 0x4B, 0x4C, 0x4D, 0x4E, 0x4F, 0x50, 0x51, 0x52, 0x54].contains op ||
  (op == 0x55 && (decide (reg ≤ 10) || (decide (12 ≤ reg) && decide (reg ≤ 31)))) ||
  (decide (0x60 ≤ op) && decide (op < 0x78) && decide (mod < 16))

/-- The kinds of a form's destination and sources; none for an operation outside R403. -/
def vShape (o : VosisOp) : Option (VKind × List SrcKind) :=
  if 0x80 ≤ vOp o ∧ !(vOc o == 0 && vScope o == 0 && vSem o == 0 && vCmask o == 0 && vXmod o == 0) then none
  else
  match vOp o with
  | 0x80 => if vRegOk o then some (if 0xD0 ≤ vReg o then .pred else .regs (vWidth o), [.none, .none, .none]) else none
  | 0x81 =>
    if vRegOk o then
      some (.none, [if 0xD0 ≤ vReg o then .predSel else if vWidth o = 1 then .r32 else if vWidth o = 2 then .r64 else .r128,
                    .none, .none])
    else none
  | 0x82 => if vMod o = 1 then some (.none, [.r32, .none, .none]) else if vMod o ≤ 2 then some (.none, [.none, .none, .none]) else none
  | op =>
    if !vListed op (vMod o) (vReg o) then none
    else
      match tShape op (vWord o) with
      | none => none
      | some sh =>
        let e := (vWord o).ext
        let memOk :=
          if sh.mem.used then sh.mem.scopes.contains e.scope.toNat && sh.mem.sems.contains e.sem.toNat && (sh.mem.oc || e.oc == 0)
          else vOc o == 0 && vScope o == 0 && vSem o == 0 && vCmask o == 0
        if !memOk || (e.xmod &&& ~~~sh.xmod != 0) then none
        else
          some (match sh.dst with | .none => .none | .pred => .pred | .r32 => .regs 1 | .r64 => .regs 2 | .r128 => .regs 4,
                [sh.a, sh.b, sh.c])

/-- What a source slot takes: none where the operation does not read it. -/
def slotKind (k : SrcKind) : VKind :=
  match k with
  | .r32 | .sreg | .immOnly => .regs 1
  | .r64 | .vs64 => .regs 2
  | .r128 => .regs 4
  | .predSel => .pred
  | .none | .code | .cvt | .disp => .none

/-- A memory operation of a block, which has an LSID (R401). -/
def vMemory (o : VosisOp) : Bool := decide (0x60 ≤ vOp o) && decide (vOp o ≤ 0x6C)

/-- A boundary operation (R405). -/
def vBoundary (o : VosisOp) : Bool :=
  [0x38, 0x4E, 0x4F, 0x50, 0x52, 0x54, 0x6D, 0x70, 0x71, 0x72, 0x73, 0x74, 0x75, 0x76, 0x77].contains (vOp o)

/-- REG where it has a use: a register of READ and WRITE, checked by their shape, or a code of eight bits (R401, R410);
elsewhere it is zero. -/
def vRegField (o : VosisOp) : Bool :=
  if [0x80, 0x81].contains (vOp o) then true
  else if [0x4E, 0x4F, 0x50, 0x52, 0x54, 0x55].contains (vOp o) then decide (vReg o < 256)
  else vReg o == 0

/-- No two members of a list are equal. -/
def distinct : List Nat → Bool
  | [] => true
  | x :: xs => !xs.contains x && distinct xs

/-- The registers that a WRITE names. -/
def vWrites (o : VosisOp) : List Nat := if vOp o = 0x81 then (List.range (vWidth o)).map (vReg o + ·) else []

/-- The fields of one operation (R401). -/
def vFields (o : VosisOp) : Bool :=
  bitsOf o.toNat 16 0 == 0 && (!vGneg o || vGuard o) && vRegField o && (vMemory o || vLsid o == 0) &&
  (List.range 2).all fun k => decide (512 ≤ vTgt o k) || vTgt o k == 0

/-- How often a slot (0 A, 1 B, 2 C, 3 P) of operation i is supplied by the targets before it. -/
def vSupplies (ops : List VosisOp) (i slot : Nat) : List VKind :=
  ops.zipIdx.flatMap fun p =>
    (List.range 2).filterMap fun k =>
      if vTgt p.1 k = 512 + 4 * i + slot then (vShape p.1).map Prod.fst else none

/-- Operation i of a block is well made (R402). -/
def vOpOk (ops : List VosisOp) (blocks : List Nat) (i : Nat) (o : VosisOp) : Bool :=
  match vShape o with
  | none => false
  | some (dst, srcs) =>
    vFields o &&
    ((List.range 2).all fun k =>
      let t := vTgt o k
      t == 0 || (dst != .none && decide (i < t / 4 % 128) && decide (t / 4 % 128 < ops.length))) &&
    ((List.range 3).all fun j =>
      let k := slotKind ((srcs[j]?).getD .none)
      let got := vSupplies ops i j
      let imm := vImmuse o == j + 1
      match k with
      | .none => got.isEmpty && (!imm || (srcs[j]?).getD .none == .cvt)
      | _ => if imm then got.isEmpty && k != .pred else got == [k] && (srcs[j]?).getD .none != .immOnly) &&
    (if vGuard o then vSupplies ops i 3 == [.pred] else (vSupplies ops i 3).isEmpty) &&
    (vOp o != 0x82 || vMod o != 0 || blocks.contains (vImm o))

/-- A block is well made (R402). -/
def vBlockOk (ops : List VosisOp) (blocks : List Nat) : Bool :=
  (ops.zipIdx.all fun p => vOpOk ops blocks p.2 p.1) &&
  distinct ((ops.filter vMemory).map vLsid) && distinct (ops.flatMap vWrites) &&
  decide ((ops.filter vBoundary).length ≤ 1) && ops.any fun o => vOp o == 0x82

/-- A number read from bytes. -/
def bytesAt (bs : List Byte) (o n : Nat) : Nat := leNat ((bs.drop o).take n)

/-- The blocks of a section from an offset on: their offsets and operations; none where a block header is
wrong or the section ends within a block. -/
def vBlocks (bs : List Byte) : Nat → Nat → Option (List (Nat × List VosisOp))
  | 0, _ => none
  | fuel + 1, off =>
    if off = bs.length then some []
    else
      let h := bytesAt bs off 16
      let n := h % 128 + 1
      if 128 ≤ h ∨ bs.length < off + 16 + 16 * n then none
      else
        (vBlocks bs fuel (off + 16 + 16 * n)).map fun l =>
          (off, (List.range n).map fun i => BitVec.ofNat 128 (bytesAt bs (off + 16 + 16 * i) 16)) :: l

/-- The blocks of a VOSIS section whose header and blocks are well made (R400, R402), by offset; none for a malformed
one. -/
def vosisBlocks (bs : List Byte) (vver : Nat) : Option (List (Nat × List VosisOp)) :=
  if bs.length < 16 ∨ bytesAt bs 0 16 ≠ vver then none
  else
    match vBlocks bs (bs.length / 16 + 1) 16 with
    | none => none
    | some l =>
      let offs := l.map Prod.fst
      if l.all fun b => vBlockOk b.2 offs then some l else none

end Sys2Proof.Machine
end

