-- ==== Sys2Proof/Machine/Verify.lean ====
section
/-!
DEFINITION. Code objects: the container, verification, kernel headers, translation and the table of verified
objects (R390 to R397, R407 to R409).
-/

namespace Sys2Proof.Machine

/-! ### The container (R390 to R392) -/

/-- Bits h:l of the record that starts at an offset. -/
def recAt (bs : List Byte) (o h l : Nat) : Nat := bitsOf (bytesAt bs (o + l / 8) ((h - l) / 8 + 2)) (h - l + l % 8) (l % 8)

/-- A section entry: kind, offset, length. -/
structure Sect where
  kind : Nat
  off : Nat
  len : Nat
  deriving DecidableEq, Repr

/-- The section entries of an object. -/
def sections (bs : List Byte) (n : Nat) : List Sect :=
  (List.range n).map fun i =>
    { kind := bytesAt bs (128 + 32 * i) 1, off := bytesAt bs (132 + 32 * i) 4, len := bytesAt bs (136 + 32 * i) 4 }

/-- The alignment of a section by kind (R391). -/
def sectAlign (k : Nat) : Nat := match k with | 1 => 128 | 2 => 16 | 3 => 16 | 5 => 16 | _ => 1

def objSize (bs : List Byte) : Nat := bytesAt bs 24 4
def objSigoff (bs : List Byte) : Nat := bytesAt bs 20 4
def objNkern (bs : List Byte) : Nat := bytesAt bs 18 2
def objNsect (bs : List Byte) : Nat := bytesAt bs 16 2
def objMinrev (bs : List Byte) : Nat := bytesAt bs 7 1
def objMaxrev (bs : List Byte) : Nat := bytesAt bs 8 1
def objVver (bs : List Byte) : Nat := bytesAt bs 6 1
def objTroff (bs : List Byte) : Nat := bytesAt bs 32 4
def objTrsize (bs : List Byte) : Nat := bytesAt bs 36 4
def objKeyid (bs : List Byte) : Nat := bytesAt bs 28 4

/-- The object header (R390). -/
def headerOk (bs : List Byte) : Bool :=
  bytesAt bs 0 4 == 0x53564F43 && bytesAt bs 4 1 == 1 && bytesAt bs 5 1 == 0 && bytesAt bs 9 7 == 0 && bytesAt bs 40 88 == 0 &&
  decide (2 ≤ objNsect bs) && decide (objNsect bs ≤ 64) && decide (1 ≤ objNkern bs) && decide (objNkern bs ≤ 4096) &&
  decide (1 ≤ objVver bs) && objSigoff bs % 64 == 0 && objSize bs == objSigoff bs + 1900 &&
  objTrsize bs % 65536 == 0 && objTroff bs % 65536 == 0 && (objTrsize bs == 0 || decide (objSize bs ≤ objTroff bs)) &&
  decide (objMinrev bs ≤ objMaxrev bs) && (objMinrev bs != 0 || objMaxrev bs == 0)

/-- The section rules (R391). -/
def sectionsOk (bs : List Byte) : Bool :=
  let l := sections bs (objNsect bs)
  let low := 128 + 32 * objNsect bs
  let count (k : Nat) : Nat := (l.filter fun x => x.kind == k).length
  ((List.range (objNsect bs)).all fun i => bytesAt bs (129 + 32 * i) 3 == 0 && bytesAt bs (140 + 32 * i) 20 == 0) &&
  (l.all fun x => decide (1 ≤ x.kind) && decide (x.kind ≤ 7) && x.off % sectAlign x.kind == 0 && decide (low ≤ x.off) &&
    decide (x.off + x.len ≤ objSigoff bs)) &&
  (l.zipIdx.all fun x => l.zipIdx.all fun y =>
    x.2 == y.2 || decide (x.1.off + x.1.len ≤ y.1.off) || decide (y.1.off + y.1.len ≤ x.1.off)) &&
  count 3 == 1 && count 5 == 1 &&
  (if objMinrev bs = 0 then count 1 == 0 && count 2 == 0 && count 4 == 0
   else decide (count 1 ≤ 1) && decide (count 2 ≤ 1) && decide (count 4 ≤ 1)) &&
  decide (low ≤ objSigoff bs)

/-- The section of a kind; an absent one is empty. -/
def sect (bs : List Byte) (k : Nat) : Sect :=
  ((sections bs (objNsect bs)).find? fun x => x.kind == k).getD { kind := k, off := 0, len := 0 }

def sectBytes (bs : List Byte) (k : Nat) : List Byte := (bs.drop (sect bs k).off).take (sect bs k).len

/-- A key pair of the configuration record (R439): the ECDSA and the LMS public key. -/
def configKey (cfg : List Byte) (j : Nat) : List Byte × List Byte :=
  ((cfg.drop (64 + 152 * j)).take 96, (cfg.drop (160 + 152 * j)).take 56)
def configNkeys (cfg : List Byte) : Nat := bytesAt cfg 12 1

/-- The signatures over the signed bytes (R392, R393). -/
def State.signed (s : State) (bs : List Byte) : Bool :=
  let cfg := s.fw.config
  let k := objKeyid bs
  let sg := bs.drop (objSigoff bs)
  let msg := bs.take (objSigoff bs)
  decide (k < configNkeys cfg) && decide (k < 16) && bytesAt sg 96 32 == 0 &&
  Config.ecdsaVerify (configKey cfg k).1 msg (sg.take 96) &&
  Config.lmsVerify (configKey cfg k).2 msg ((sg.drop 128).take 1772)

/-! ### Kernel headers (R396, R397, R41, R226) -/

/-- Preloaded v names, and the s registers that the preloads end at (R41). -/
def preV (p : Nat) : Nat := ((List.range 3).filter fun i => p / 2 ^ i % 2 == 1).length
def preS (p : Nat) : Nat :=
  ((List.range 6).filter fun i => p / 2 ^ (3 + i) % 2 == 1).foldl (fun n i => if i = 2 then (n + 1) / 2 * 2 + 2 else n + 1) 0

/-- An offset of a header: none for 0xFFFFFFFF. -/
def offOpt (n : Nat) : Option Nat := if n = 0xFFFFFFFF then none else some n
/-- An offset, if any, lies inside a section with an alignment. -/
def offOk (o : Option Nat) (align len : Nat) : Bool := match o with | none => true | some n => n % align == 0 && decide (n < len)

/-- The zero bits of a native header (R396). -/
def headerZeros (h : List Byte) : Bool :=
  let f (hi lo : Nat) : Nat := recAt h 0 hi lo
  f 511 268 == 0 && f 239 239 == 0 && f 231 225 == 0 && f 215 214 == 0 && f 207 205 == 0 && f 199 199 == 0 &&
  f 191 191 == 0 && f 175 169 == 0

/-- A native header with its sections, as a kernel (R396): none where it breaks a rule. `t`, `a` are the
virtual addresses and lengths of the T and A sections, `safe` the bytes of SAFETAB. The preloads of a spawned warp, v0 to v8, are not held against VREGS and LIVE: the check of R41
counts those of a launched warp (log 60). -/
def kernOf (h : List Byte) (t a : Nat × Nat) (safe : List Byte) : Option Kern :=
  let f (hi lo : Nat) : Nat := recAt h 0 hi lo
  let nsafe := f 168 160
  let off := f 159 128
  let entry (i : Nat) : List (Option Nat) := (List.range 4).map fun j => offOpt (bytesAt safe (off + 16 * i + 4 * j) 4)
  let tab := (List.range nsafe).map entry
  let aentry := offOpt (f 63 32)
  let ttrap := offOpt (f 95 64)
  let atrap := offOpt (f 127 96)
  let k : Kern :=
    { tbase := t.1, tlen := t.2, abase := a.1, alen := a.2, tentry := f 31 0, aentry := aentry, ttrap := ttrap,
      atrap := atrap, safe := tab, vregs := f 183 176, sregs := f 190 184, live := f 198 192, nbar := f 204 200,
      spawn := f 213 208, preload := BitVec.ofNat 9 (f 224 216), maxdist := f 255 240 + 1, smem := 1024 * f 267 256,
      quantum := f 236 232, crown := f 237 237 == 1, legacy := f 238 238 == 1, vver := 0, blocks := [] }
  let ranges := decide (1 ≤ k.vregs) && decide (k.vregs ≤ 128) && decide (k.sregs ≤ 64) && decide (1 ≤ k.live) &&
    decide (k.live ≤ 64) && decide (k.nbar ≤ 16) && decide (k.spawn ≤ 32) && decide (k.smem ≤ 2097152) &&
    decide (16 ≤ k.quantum) && decide (k.quantum ≤ 26) && decide (nsafe ≤ 256)
  let pre := decide (preV k.preload.toNat ≤ k.live) && decide (preV k.preload.toNat ≤ k.vregs) &&
    decide (preS k.preload.toNat ≤ k.sregs)
  let offs := k.tentry % 8 == 0 && decide (k.tentry < t.2) && offOk aentry 4 a.2 && offOk ttrap 8 t.2 && offOk atrap 4 a.2 &&
    off % 16 == 0 && decide (nsafe = 0 ∨ off + 16 * nsafe ≤ safe.length) &&
    tab.all fun e => offOk (e.getD 0 none) 8 t.2 && offOk (e.getD 1 none) 8 t.2 && offOk (e.getD 2 none) 4 a.2 &&
      offOk (e.getD 3 none) 4 a.2
  if headerZeros h && ranges && pre && offs then some k else none

/-- The zero bits and the ranges of a Vosis descriptor (R6, R397), on the 128 bytes of its entry. -/
def vosisDescOk (e : List Byte) : Bool :=
  let f (hi lo : Nat) : Nat := recAt e 0 hi lo
  f 1023 664 == 0 && f 610 576 == 0 && decide (f 663 652 ≤ 2048) && decide (16 ≤ f 651 647) && decide (f 651 647 ≤ 26) &&
  decide (f 636 631 ≤ 32) && decide (f 630 626 ≤ 16) && decide (f 625 619 ≤ 64) && decide (1 ≤ f 618 611) &&
  decide (f 618 611 ≤ 128) && decide (preV (f 645 637) ≤ f 618 611) && decide (preS (f 645 637) ≤ f 625 619)

/-- ENTRYBLK and TRAPBLK of a Vosis descriptor name blocks of the section (R397). -/
def vosisEntriesOk (e : List Byte) (blocks : List Nat) : Bool :=
  let trap := recAt e 0 575 544
  (trap == 0xFFFFFFFF || blocks.contains trap) && blocks.contains (recAt e 0 543 512)

/-- Entry i of the kernel table. -/
def ktabEntry (bs : List Byte) (i : Nat) : List Byte := (bs.drop ((sect bs 3).off + 128 * i)).take 128

/-- A native header that marks no native form (R396). -/
def noNative (e : List Byte) : Bool := recAt e 0 183 176 == 0

/-- The kernels of the native form, one per entry; none where an entry breaks a rule. -/
def nativeKerns (bs : List Byte) (addr : Nat) : Option (List Kern) :=
  let t := sect bs 1
  let a := sect bs 2
  (List.range (objNkern bs)).foldl
    (fun acc i => acc.bind fun l =>
      (kernOf (ktabEntry bs i) (addr + t.off, t.len) (addr + a.off, a.len) (sectBytes bs 4)).map fun k => l ++ [k]) (some [])

/-- Every kernel table entry passes R396 (R393, order 4), with the descriptor that every kernel has (R397). -/
def ktabOk (bs : List Byte) (addr : Nat) : Bool :=
  decide (128 * objNkern bs ≤ (sect bs 3).len) &&
  (if objMinrev bs = 0 then (List.range (objNkern bs)).all fun i => noNative (ktabEntry bs i) && headerZeros (ktabEntry bs i)
   else (nativeKerns bs addr).isSome) &&
  (List.range (objNkern bs)).all fun i => vosisDescOk (ktabEntry bs i)

/-- The entry and trap blocks of every Vosis descriptor stand in the section; asked of an object whose Vosis form is to be
used (R393, order 5; log 46). -/
def descsOk (bs : List Byte) (blocks : List Nat) : Bool :=
  (List.range (objNkern bs)).all fun i => vosisEntriesOk (ktabEntry bs i) blocks

/-! ### Translation (R407, R408) -/

/-- A translation: T section, A section, SAFETAB and native headers. -/
abbrev Translation := List Byte × List Byte × List Byte × List Byte

/-- The cached translations, less the least recently used that no slot pins where there are 1,024 (R408). -/
def State.keptTranslations (s : State) : List (List Byte × Translation) :=
  let pinned (d : List Byte) : Bool := s.fw.objs.any fun o => o.digest == d && !o.pins.isEmpty
  if s.fw.trans.length < 1024 then s.fw.trans
  else match s.fw.trans.reverse.find? fun t => !pinned t.1 with
    | some t => s.fw.trans.erase t
    | none => s.fw.trans

/-- The translation of an object with a digest, through the cache of 1,024 (R408). -/
def State.translation (s : State) (digest : List Byte) (bs : List Byte) : State × Option Translation :=
  match s.fw.trans.find? fun t => t.1 == digest with
  | some t => ({ s with fw := { s.fw with trans := t :: s.fw.trans.erase t } }, some t.2)
  | none =>
    match Config.milliner (sectBytes bs 5) (sectBytes bs 3) with
    | none => (s, none)
    | some t => ({ s with fw := { s.fw with trans := (digest, t) :: s.keptTranslations } }, some t)

/-- Where the sections of a translation stand in the translation area: T first, then A, then SAFETAB, each
at a multiple of 128 (log 9). -/
def trPlaces (t : Translation) : Nat × Nat × Nat :=
  let up (n : Nat) : Nat := (n + 127) / 128 * 128
  (up t.1.length, up t.1.length + up t.2.1.length, up t.1.length + up t.2.1.length + t.2.2.1.length)

/-- A kernel of a translation as it runs: what its Vosis descriptor gives, in place of what the Milliner's header says, and
the blocks (R397, R404, R409). The A stream that the Milliner makes holds no state of the program (R407). -/
def Kern.asVosis (k : Kern) (e : List Byte) (vver : Nat) (blocks : List (Nat × List VosisOp)) : Kern :=
  let f (hi lo : Nat) : Nat := recAt e 0 hi lo
  { k with
    tentry := f 543 512, ttrap := offOpt (f 575 544), aentry := none, atrap := none, safe := [], vregs := f 618 611,
    sregs := f 625 619, nbar := f 630 626, spawn := f 636 631, preload := BitVec.ofNat 9 (f 645 637), crown := f 646 646 == 1,
    quantum := f 651 647, smem := 1024 * f 663 652, legacy := decide (vver ≤ 4), vver := vver, blocks := blocks }

/-- The kernels of a translation; R409 gives the legacy width and $ver. -/
def trKerns (bs : List Byte) (addr : Nat) (t : Translation) (blocks : List (Nat × List VosisOp)) : Option (List Kern) :=
  let p := trPlaces t
  let base := addr + objTroff bs
  (List.range (objNkern bs)).foldl
    (fun acc i => acc.bind fun l =>
      (kernOf ((t.2.2.2.drop (64 * i)).take 64) (base, t.1.length) (base + p.1, t.2.1.length) t.2.2.1).map fun k =>
        l ++ [k.asVosis (ktabEntry bs i) (objVver bs) blocks]) (some [])

/-! ### Verification (R393, R394, R399) -/

/-- The bytes of an object in its address space; none where a page fails or it wraps. -/
def State.objBytes (s : State) (t asid addr : Nat) : State × Option (List Byte) :=
  if addr % 65536 ≠ 0 then (s, none)
  else
    let h := s.vaRead t asid addr 128 .read
    match h.2 with
    | none => (h.1, none)
    | some bs => if headerOk bs then h.1.vaRead t asid addr (objSize bs) .read else (h.1, none)

/-- A translation written into the object's translation area, with the invalidation of R408. -/
def State.putTranslation (s : State) (asid addr : Nat) (bs : List Byte) (t : Translation) : Option State :=
  let p := trPlaces t
  let base := addr + objTroff bs
  if objTrsize bs < p.2.2 then none
  else
    (((s.vaWrite asid base .write t.1).bind fun s => s.vaWrite asid (base + p.1) .write t.2.1).bind fun s =>
      s.vaWrite asid (base + p.2.1) .write t.2.2.1).map fun s => s.codeInvRange asid base (objTrsize bs)

/-- An object verified in its address space (R393, R399): its entry, or the failing status. -/
def State.verify (s : State) (t asid addr : Nat) : State × Except Status ObjEntry :=
  let r := s.objBytes t asid addr
  match r.2 with
  | none => (r.1, .error .badobj)
  | some bs =>
    let s := r.1
    if !sectionsOk bs || !s.signed bs then (s, .error .badobj)
    else
      let digest := Config.sha384 (bs.take (objSigoff bs))
      let entry (native : Bool) (ks : List Kern) : ObjEntry :=
        { tenant := t, addr := BitVec.ofNat 64 addr, asid := asid, digest := digest, native := native, kerns := ks, pins := [] }
      match vosisBlocks (sectBytes bs 5) (objVver bs) with
      | none => (s, .error .badobj)
      | some blocks =>
        if !ktabOk bs addr then (s, .error .badobj)
        else if decide (objMinrev bs ≤ 4) && decide (4 ≤ objMaxrev bs) && objMinrev bs != 0 then
          match nativeKerns bs addr with
          | none => (s, .error .badobj)
          | some ks => (s, .ok (entry true ks))
        else if objVver bs < 3 ∨ 7 < objVver bs ∨ !descsOk bs (blocks.map Prod.fst) then (s, .error .badobj)
        else
          let tr := s.translation digest bs
          match tr.2.bind fun x => (trKerns bs addr x blocks).map fun ks => (x, ks) with
          | none => (tr.1, .error .badobj)
          | some (x, ks) =>
            match tr.1.putTranslation asid addr bs x with
            | none => (tr.1, .error .badobj)
            | some s => (s, .ok (entry false ks))

/-- The entry of an object in its tenant's table. -/
def State.objEntry (s : State) (t asid addr : Nat) : Option ObjEntry :=
  s.fw.objs.find? fun o => o.tenant == t && o.asid == asid && o.addr.toNat == addr

/-- An entry that a launch names stands before the others, one that a SLOTLOAD alone has named after them (R394). -/
def nameObj (launch : Bool) (l : List ObjEntry) (e : ObjEntry) : List ObjEntry := if launch then e :: l else l ++ [e]

/-- An entry added; where the tenant's table of 256 is full, the one least recently named by a launch that no slot pins
leaves it (R394). -/
def addObj (launch : Bool) (l : List ObjEntry) (e : ObjEntry) : Option (List ObjEntry) :=
  let mine := l.filter fun o => o.tenant == e.tenant
  if mine.length < 256 then some (nameObj launch l e)
  else (mine.reverse.find? fun o => o.pins.isEmpty).map fun o => nameObj launch (l.erase o) e

/-- The entry of an object that a launch or a slot names, verified where there is none (R394). -/
def State.useObj (s : State) (launch : Bool) (t asid addr : Nat) : State × Except Status ObjEntry :=
  match s.objEntry t asid addr with
  | some e => (if launch then { s with fw := { s.fw with objs := e :: s.fw.objs.erase e } } else s, .ok e)
  | none =>
    let r := s.verify t asid addr
    match r.2 with
    | .error st => (r.1, .error st)
    | .ok e =>
      match addObj launch r.1.fw.objs e with
      | none => (r.1, .error .badobj)
      | some l => ({ r.1 with fw := { r.1.fw with objs := l } }, .ok e)

end Sys2Proof.Machine
end

