-- ==== Sys2Proof/Machine/LaunchRec.lean ====
section
/-!
DEFINITION. A launch checked as its packet is taken (R398, R399), and the check of resident slots (R348).
-/

namespace Sys2Proof.Machine

/-! ### The launch record (R398) -/

/-- A launch record. -/
abbrev LaunchBits := BitVec 2048

def lrBits (r : LaunchBits) (h l : Nat) : Nat := bitsOf r.toNat h l
def lrWarps (r : LaunchBits) : Nat := lrBits r 149 144
def lrThreads (r : LaunchBits) : Nat := lrBits r 162 152
def lrClg (r : LaunchBits) : Nat := lrBits r 180 176
def lrClc (r : LaunchBits) : Nat := lrBits r 183 181
def lrQuantum (r : LaunchBits) : Nat := lrBits r 172 168
def lrBarmask (r : LaunchBits) (i : Nat) : Nat := lrBits r (287 + 32 * i) (256 + 32 * i)
def lrKreg (r : LaunchBits) (j : Nat) : DWord := r.extractLsb' (768 + 64 * j) 64

/-- The address space of a record: 0 names the tenant's first ASID. -/
def State.lrAsid (s : State) (t : Nat) (r : LaunchBits) : Nat :=
  if lrBits r 236 225 = 0 then s.abase t else lrBits r 236 225

/-- Reserved fields, and BARMASK bits at or above WARPS (R399, order 1). -/
def lrReserved (r : LaunchBits) : Bool :=
  lrBits r 2047 1792 == 0 && lrBits r 255 237 == 0 && lrBits r 191 184 == 0 && lrBits r 175 174 == 0 &&
  lrBits r 167 163 == 0 && lrBits r 151 150 == 0 && (List.range 16).all fun i => decide (lrBarmask r i < 2 ^ lrWarps r)

/-- The ranges of R399, order 6. -/
def lrRanges (r : LaunchBits) (k : Kern) : Bool :=
  let width := if k.legacy then 16 else 32
  let w := lrWarps r
  let n := lrThreads r
  decide (1 ≤ w) && decide (w ≤ 32) && decide (1 ≤ n) && decide (n ≤ 1024) && decide (1 ≤ lrClg r) && decide (lrClg r ≤ 16) &&
  decide (1 ≤ lrClc r) && decide (lrClc r ≤ 4) &&
  (lrQuantum r == 0 || (decide (16 ≤ lrQuantum r) && decide (lrQuantum r ≤ 26))) &&
  lrBits r 202 192 * lrBits r 213 203 * lrBits r 224 214 == n && decide (n ≤ width * w) && decide (width * (w - 1) < n) &&
  decide (lrClg r ≤ 16 * lrClc r)

/-- The context area of a group, in bytes (R225). -/
def ctxSpan : Nat := 0x411000

/-- A read-and-write span of an address space. -/
def State.rwSpan (s : State) (asid va n : Nat) : Bool := s.rangeOk asid va n .read && s.rangeOk asid va n .write

/-- What a record gives every group, with a kernel. -/
def launchOf (r : LaunchBits) (asid t : Nat) (k : Kern) : Launch :=
  { asid := asid, tenant := t, obj := r.extractLsb' 0 64, ctxbase := r.extractLsb' 64 64, tx := lrBits r 202 192,
    ty := lrBits r 213 203, tz := lrBits r 224 214, threads := lrThreads r, warps := lrWarps r, clg := lrClg r,
    clc := lrClc r, quantum := if lrQuantum r = 0 then k.quantum else lrQuantum r, crown := bit r 173 || k.crown,
    barmask := (List.range 16).map (lrBarmask r), kregs := (List.range 16).map (lrKreg r), kern := k }

/-- The record of a LAUNCH or INVOKE, read at its address. -/
def State.lrRead (s : State) (t va : Nat) : State × Option LaunchBits :=
  let v := s.vaNat t (s.abase t) va 256 .read
  (v.1, v.2.map (BitVec.ofNat 2048))

/-- The record at an address, read once for its packet: one that CHKRES has read is not read again (R398). -/
def State.lrOnce (s : State) (t va : Nat) (known : Option (Nat × LaunchBits)) : State × Option LaunchBits :=
  match known with
  | some (a, r) => if a = va then (s, some r) else s.lrRead t va
  | none => s.lrRead t va

/-- The checks of R399 on a launch, with `staged` the slot and k registers of a successful CHKRES. -/
def State.launchTake (s : State) (t va : Nat) (invoke : Bool) (staged : Option (Nat × List DWord))
    (known : Option (Nat × LaunchBits)) : State × Except Status Launch :=
  let v := s.lrOnce t va known
  match v.2 with
  | none => (v.1, .error .prot)
  | some r =>
    let asid := v.1.lrAsid t r
    if !lrReserved r then (v.1, .error .resv)
    else if !v.1.asidOk t asid then (v.1, .error .prot)
    else
      let o := v.1.useObj true t asid (lrBits r 63 0)
      match o.2 with
      | .error st => (o.1, .error st)
      | .ok e =>
        match e.kerns[lrBits r 143 128]? with
        | none => (o.1, .error .bounds)
        | some k =>
          let ctx := lrBits r 127 64
          let slotObj : Option Slot := staged.bind fun p => SMap.find o.1.fw.slots p.1
          if (List.range 16).any fun i => decide (k.nbar ≤ i) && lrBarmask r i != 0 then (o.1, .error .resv)
          else if !lrRanges r k then (o.1, .error .bounds)
          else if ctx % 4096 ≠ 0 || !o.1.rwSpan asid ctx ctxSpan then (o.1, .error .prot)
          else
            match invoke, slotObj, staged with
            | false, _, _ => (o.1, .ok (launchOf r asid t k))
            | true, some sl, some (_, ks) =>
              if sl.obj = r.extractLsb' 0 64 ∧ sl.asid = asid then
                (o.1, .ok { launchOf r asid t k with kregs := ks })
              else (o.1, .error .notres)
            | true, _, _ => (o.1, .error .notres)

/-! ### Resident slots (R347, R348) -/

/-- The pages of a slot's ranges. -/
def slotPages (l : List (Nat × Nat × Nat)) : List (Nat × Nat) :=
  l.flatMap fun x => (List.range ((x.2.1 + 65535) / 65536)).map fun i => (x.1 + 65536 * i, x.2.2)

/-- A page mapped, pinned and in its declared tier (R348). -/
def State.pageResident (s : State) (asid va tier : Nat) : Bool :=
  match s.walk asid va with
  | .error _ => false
  | .ok (e, size) => bit e 9 && decide (((pageOf e size va).pa < lpddrBase) = (tier = 0))

/-- The slot is loaded for a tenant and resident (R348). -/
def State.slotReady (s : State) (t n : Nat) : Bool :=
  match SMap.find s.fw.slots n with
  | none => false
  | some sl => sl.tenant == t && (slotPages sl.ranges).all fun p => s.pageResident sl.asid p.1 p.2

/-- Words read as 64-bit addresses. -/
def dwords (n : Nat) (bs : List Byte) : List DWord := (List.range n).map fun i => BitVec.ofNat 64 (bytesAt bs (8 * i) 8)

/-- CHKRES (R348): k0 to k15 as staged and the launch record, or the failing status. -/
def State.chkres (s : State) (t slot rec_ args narg : Nat) (known : Option (Nat × LaunchBits)) :
    State × Except Status (List DWord × LaunchBits) :=
  if !s.slotReady t slot then (s, .error .notres)
  else
    let v := s.lrOnce t rec_ known
    let a := v.1.vaRead t (s.abase t) args (8 * narg) .read
    match v.2, a.2 with
    | some r, some bs =>
      let ks := dwords narg bs
      let asid := a.1.lrAsid t r
      let ok (x : DWord) : Bool :=
        decide (x.toNat < 2 ^ 52) && (match a.1.translateIO asid x.toNat with | .ok _ => true | .error _ => false)
      if a.1.asidOk t asid && ks.all ok then (a.1, .ok (ks ++ List.replicate (16 - narg) 0, r)) else (a.1, .error .notres)
    | _, _ => (a.1, .error .prot)

end Sys2Proof.Machine
end

