-- ==== Sys2Proof/Machine/Queue.lean ====
section
/-!
DEFINITION. The queue interpreter: rings and packets, the programs that run on them, and the commands that they
issue (R334 to R345, R356).
-/

namespace Sys2Proof.Machine

/-! ### A packet's fields (R335) -/

def pkWord (p : List Word) (i : Nat) : Nat := ((p[i]?).getD 0).toNat
def pkType (p : List Word) : Nat := pkWord p 0 % 256
def pkFlags (p : List Word) : Nat := bitsOf (pkWord p 0) 15 8
def pkAux (p : List Word) : Nat := bitsOf (pkWord p 0) 31 16
def pkDep (p : List Word) : Nat := pkWord p 2
def pkWeight (p : List Word) : Nat := pkWord p 12 + 2 ^ 32 * pkWord p 13
def pkParent (p : List Word) : Nat := pkWord p 14
def pkBody (p : List Word) : List Word := (p.drop 4).take 8
/-- NARG of an INVOKE. -/
def pkNarg (p : List Word) : Nat := bitsOf (pkAux p) 12 8

/-- A command with a body and no other field of interest, for the checks of its body. -/
def bodyCmd (body : List Word) : Command := { Command.zero with body := body }

/-- The body words of a type that the ROM program handles (R341): every unnamed word zero, every named one in
its form. -/
def bodyOk (ty : Nat) (body : List Word) : Option Status :=
  let c := bodyCmd body
  let w := Command.word c
  let resv (ok : Bool) : Option Status := if ok then none else some .resv
  match ty with
  | 0 => resv (Command.zeroFrom c 0)
  | 1 => resv (w 0 % 64 == 0 && w 4 % 4 == 0 && Command.zeroFrom c 6)
  | 2 => resv (w 0 % 64 == 0 && w 4 % 4 == 0 && w 6 % 8 == 0)
  | 3 => if w 5 / 4096 ≠ 0 ∨ !Command.zeroFrom c 6 then some .resv else if w 4 = 0 then some .bounds else none
  | 4 => resv (bitsOf (w 0) 7 6 == 0 && bitsOf (w 0) 31 16 == 0 && Command.zeroFrom c 2)
  | 5 => resv (bitsOf (w 0) 7 6 == 0 && bitsOf (w 0) 31 16 == 0 && decide (w 2 < 2) && Command.zeroFrom c 3)
  | 6 => resv ((w 0 == 3 || w 0 == 4) && Command.zeroFrom c 1)
  | 7 => none
  | 8 =>
    if w 1 / 4096 ≠ 0 ∨ !Command.zeroFrom c 7 then some .resv
    else if 256 ≤ w 0 ∨ w 6 = 0 ∨ 64 < w 6 then some .bounds else none
  | 9 => if !Command.zeroFrom c 1 then some .resv else if 256 ≤ w 0 then some .bounds else none
  | 10 =>
    if !Command.zeroFrom c 7 then some .resv
    else if w 2 = 0 ∨ 1024 < w 2 ∨ 64 ≤ w 3 ∨ 4 < w 6 then some .bounds else none
  | 11 => resv (mapFields c)
  | 15 =>
    resv (bitsOf (w 0) 7 6 == 0 && bitsOf (w 0) 31 10 == 0 && bitsOf (w 0) 9 8 != 3 && Command.zeroFrom c 4 &&
      (if bitsOf (w 0) 9 8 = 0 then bitsOf (w 1) 7 4 == 0 && bitsOf (w 1) 31 12 == 0 && decide (bitsOf (w 1) 11 8 ≤ 12)
       else Command.zeroFrom c 1))
  | _ => none

/-- The checks made as a packet is copied (R335, R340, R341); `rom` says that the ROM program handles it. -/
def packetCheck (queue : Nat) (rom : Bool) (p : List Word) : Option Status :=
  let ty := pkType p
  let dep := pkDep p
  if 15 < ty then some .badtype
  else if 8 ≤ ty ∧ queue % 64 ≠ 0 then some .priv
  else if pkFlags p / 16 ≠ 0 ∨ bitsOf dep 30 19 ≠ 0 ∨ bitsOf dep 7 6 ≠ 0 then some .resv
  else if bitsOf dep 31 31 = 0 ∧ (bitsOf dep 15 8 ≠ 0 ∨ bitsOf dep 5 0 ≠ 0 ∨ pkWord p 3 ≠ 0) then some .resv
  else if rom then
    if (if ty = 2 then pkAux p % 256 ≠ 0 ∨ pkAux p / 8192 ≠ 0 ∨ 16 < pkNarg p else pkAux p ≠ 0) then some .resv
    else if ty ≠ 1 ∧ ty ≠ 2 ∧ (bitsOf dep 18 16 ≠ 0 ∨ pkWeight p ≠ 0 ∨ pkParent p ≠ 0) then some .resv
    else bodyOk ty (pkBody p)
  else none

/-! ### Rings (R334, R336 to R338) -/

/-- The slot at a ring's read index (R334), in the tenant's first address space (R481). -/
def Ring.slotAddr (r : Ring) : Nat := r.addr + 64 + 64 * (r.rd.toNat % 2 ^ r.logsize)

/-- The packet that stands at a ring's read index, when its VALID says so (R337). -/
def State.peek (s : State) (r : Ring) : State × Option (List Word) :=
  let v := s.vaRead r.tenant (s.abase r.tenant) r.slotAddr 64 .read
  (v.1, v.2.bind fun bs =>
    let p := (List.range 16).map fun i => BitVec.ofNat 32 (bytesAt bs (4 * i) 4)
    if pkWord p 15 = (r.rd.toNat + 1) % 2 ^ 32 then some p else none)

/-- A WAITSEM of the queue is not complete (R341). -/
def State.ringWaits (s : State) (q : Nat) : Bool :=
  s.qi.issued.any fun p => p.queue == q && p.cmds.any fun c => c.ty == 4 && c.st != 2

/-- The earlier packets of a packet's ring let a command of it start: every command of theirs has started, no WAITSEM of
theirs waits, and none is left where the command is to wait for them all (R340, R341). -/
def State.clearFor (s : State) (p : Issued) (all : Bool) : Bool :=
  (s.qi.issued.takeWhile fun x => x.id != p.id).all fun x =>
    x.queue != p.queue || (!all && x.cmds.all fun c => c.st != 0 && (c.ty != 4 || c.st == 2))

/-- Command n of a packet may have a turn: not started and in its order, where a command of an ORDER packet and every
FENCE wait for the earlier packets of the ring; or under way with work of its own (R340). -/
def State.cmdMay (s : State) (p : Issued) (n : Nat) : Bool :=
  match p.cmds[n]? with
  | none => false
  | some c =>
    (c.st == 0 && s.clearFor p (p.order || c.ty == 6) && (p.cmds.take n).all fun x => x.st != 0) ||
    (c.st == 1 && (c.ty == 3 || c.ty == 4 || c.ty == 8 || c.ty == 9 || c.ty == 11))

/-- A launch that is to start waits for a grid record (R349). -/
def State.heldByGrids (s : State) : Bool :=
  decide (65536 ≤ s.lu.grids.length) &&
  s.qi.issued.any fun p => p.cmds.zipIdx.any fun c => (c.1.ty == 1 || c.1.ty == 2) && c.1.st == 0 && s.cmdMay p c.2

/-- The priority and PRE of a queue (R351, R352): its ring's, or the latest ring's while it has none (log 43). -/
def State.level (s : State) (q : Nat) : Nat × Bool :=
  match SMap.find s.qi.rings q with
  | some r => (r.prio, r.pre)
  | none => SMap.get (0, false) s.qi.levels q

/-- The rings of a level that have a packet ready. -/
def State.readyRings (s : State) (level : Nat) : List Nat :=
  s.qi.rings.filterMap fun p =>
    if p.2.prio == level && !s.ringWaits p.1 && (s.peek p.2).2.isSome then some p.1 else none

/-- The first of some queues at or after a pointer, in index order modulo 1,024 (R351). -/
def firstFrom (ptr : Nat) (l : List Nat) : Option Nat :=
  match l.find? fun q => decide (ptr ≤ q) with
  | some q => some q
  | none => l.head?

/-- The ring whose packet is taken next, with its level (R337). -/
def State.nextRing? (s : State) : Option (Nat × Nat) :=
  (List.range 8).foldl
    (fun a i =>
      match a with
      | some x => some x
      | none => (firstFrom (SMap.get 0 s.qi.ptrs (7 - i)) (s.readyRings (7 - i))).map fun q => (q, 7 - i)) none

/-! ### Failing (R340, R343, R356) -/

/-- A packet fails before its commands are issued: the event, and what becomes of its weight. -/
def State.failPacket (s : State) (queue : Nat) (index : DWord) (p : List Word) (launches : Bool) (st : Status)
    (code : Nat) : State :=
  let t := queue / 64
  let tag := BitVec.ofNat 32 (pkWord p 1)
  let s := { s with qi := { s.qi with run := none } }
  let s := s.post t (eventOf 2 st.code queue tag index (BitVec.ofNat 32 code :: List.replicate 11 0))
  if pkParent p ≠ 0 then
    match SMap.find s.lu.grids (pkParent p) with
    | some g => if g.ln.tenant = t then s.returnWeight g.graph (pkWeight p) else s
    | none => s
  else if launches && pkWeight p == 0 && bitsOf (pkFlags p) 3 3 == 1 then
    s.post t (eventOf 3 0 queue tag index (List.replicate 12 0))
  else s

/-- The packet of the running program fails. -/
def State.failRun (s : State) (r : QRun) (st : Status) (code : Nat) : State :=
  let launches := r.cmds.any (fun c => c.1 == 1 || c.1 == 2) ||
    (r.prog.isNone && (pkType r.packet == 1 || pkType r.packet == 2))
  s.failPacket r.queue r.index r.packet launches st code

/-! ### Taking a packet (R337, R338, R340, R344) -/

/-- A word of bytecode (R345). -/
def qEnc (op r x : Nat) : BitVec 16 := BitVec.ofNat 16 (2 ^ 11 * op + r % 8 * 2 ^ 8 + x % 256)

/-- The ROM program on a packet (R344). -/
def romWords (p : List Word) : List (BitVec 16) :=
  let ty := pkType p
  if ty = 0 then [qEnc 0x11 0 0]
  else
    ((List.range 8).map fun i => qEnc 0 i (4 + i)) ++
    (if ty = 2 then
      qEnc 0x0E (Config.romReg 0) 0 :: ((List.range (pkNarg p)).map fun n => qEnc 0x0F (Config.romReg (n + 1)) n)
     else []) ++
    [qEnc 0x10 0 ty, qEnc 0x11 0 0]

/-- The words of the program that runs. -/
def QRun.words (r : QRun) : List (BitVec 16) := match r.prog with | some p => p.words | none => romWords r.packet

/-- The program that a queue's packets run; none for the ROM program (R344, R346). -/
def State.progOf (s : State) (q : Nat) : Option QProg := if q % 64 = 0 then none else SMap.find s.qi.progs q

/-- RDPUB written (R338); none where its page has no translation or may not be written (R481). -/
def State.publish (s : State) (r : Ring) (rd : DWord) : Option State :=
  s.vaWrite (s.abase r.tenant) (r.addr + 8) .write (leBytes 8 rd.toNat)

/-- The group that published the packet at a ring's read index, and the state in which that is read. -/
def State.takeCause (s : State) (r : Ring) : State × Option Nat :=
  match s.translateIO (s.abase r.tenant) r.slotAddr with
  | .ok p => ({ s with qi := { s.qi with posters := SMap.del s.qi.posters (p.pa / 64) } }, SMap.find s.qi.posters (p.pa / 64))
  | .error _ => (s, none)

/-- A packet of a ring taken: the read index moves, and its program begins or it fails. -/
def State.takePacket (s : State) (q : Nat) (r : Ring) (p : List Word) : State :=
  let rd := r.rd + 1
  let c := s.takeCause r
  let s := { c.1 with qi := { c.1.qi with rings := SMap.put c.1.qi.rings q { r with rd := rd } } }
  let out := if rd.toNat % r.npub = 0 ∨ pkFlags p % 2 = 1 then s.publish r rd else some s
  let s := out.getD s
  let prog := s.progOf q
  match (packetCheck q prog.isNone p).or (if out.isNone then some .prot else none) with
  | some st => s.failPacket q r.rd p (prog.isNone && (pkType p == 1 || pkType p == 2)) st 0
  | none =>
    let run : QRun :=
      { cause := c.2, queue := q, index := r.rd, packet := p, prog := prog, b := [], flag := false, loops := [], pc := 0, count := 0,
        cmds := [], staged := none, record := none }
    { s with qi := { s.qi with run := some run } }

/-- QI_TAKE_PACKET (R337). -/
def execQiTakePacket (s : State) : Host.Outcome State Fault Refusal :=
  if s.qi.run.isSome || s.heldByGrids then s.notDue
  else
    match s.nextRing? with
    | none => s.notDue
    | some (q, level) =>
      match SMap.find s.qi.rings q with
      | none => s.notDue
      | some r =>
        let v := s.peek r
        match v.2 with
        | none => s.notDue
        | some p =>
          let s := { v.1 with qi := { v.1.qi with ptrs := SMap.put v.1.qi.ptrs level ((q + 1) % 1024) } }
          .next (s.takePacket q r p)

/-! ### Issuing commands (R340, R356) -/

/-- Weights of k launches out of what a packet carries (R356): none for a share of 0. -/
def shares : Nat → Nat → Option (List Nat)
  | 0, _ => some []
  | 1, w => if w = 0 then none else some [w]
  | k + 2, w => if w / 2 = 0 then none else (shares (k + 1) (w - w / 2)).map fun l => w / 2 :: l

/-- A semaphore of a core that a packet names (R341, R423). -/
def State.semCheck (s : State) (t core idx : Nat) : Option Status :=
  if 160 ≤ core || !bit s.fw.cores core then some .bounds else if idx / 4 ≠ t then some .prot else none

/-- What is checked and read for a command as its packet is taken. -/
def State.takeCmd (s : State) (ty : Nat) (c : Command) (n : Nat) (graph : Nat)
    (known : Option (Nat × LaunchBits)) : State × Except Status IssuedCmd :=
  let x := { IssuedCmd.fresh ty c with graph := graph }
  match ty with
  | 1 | 2 =>
    let dep := c.dep.toNat
    let sem := if bitsOf dep 31 31 = 1 then s.semCheck (Command.tenant c) (bitsOf dep 15 8) (bitsOf dep 5 0) else none
    match sem with
    | some st => (s, .error st)
    | none =>
      if Command.word c 0 % 64 ≠ 0 ∨ Command.word c 4 % 4 ≠ 0 then (s, .error .resv)
      else
        let r := s.launchTake (Command.tenant c) (Command.addr c 0) (ty == 2) c.staged known
        match r.2 with
        | .error st => (r.1, .error st)
        | .ok ln => (r.1, .ok { x with launch := some ln })
  | 4 | 5 =>
    match s.semCheck (Command.tenant c) (Command.bits c 0 15 8) (Command.bits c 0 5 0) with
    | some st => (s, .error st)
    | none => (s, .ok x)
  | 14 =>
    let r := s.headTake c n
    match r.2 with
    | .error st => (r.1, .error st)
    | .ok ch => (r.1, .ok { x with change := some ch })
  | _ => (s, .ok x)

/-- The commands of a packet, checked one after another. -/
def State.takeCmds (s : State) (graph : Nat) (known : Option (Nat × LaunchBits)) : List (Nat × Command) → Nat → State × Except Status (List IssuedCmd)
  | [], _ => (s, .ok [])
  | (ty, c) :: rest, n =>
    let r := s.takeCmd ty c n graph known
    match r.2 with
    | .error st => (r.1, .error st)
    | .ok x =>
      let t := State.takeCmds r.1 graph known rest (n + 1)
      (t.1, match t.2 with | .error st => .error st | .ok l => .ok (x :: l))

/-- Launches among the staged commands, and the weight of each command: 0 for those that launch nothing. -/
def spread (cmds : List (Nat × List Word × Option (Nat × List DWord))) (l : List Nat) : List Nat :=
  match cmds, l with
  | [], _ => []
  | c :: cs, w :: ws => if c.1 = 1 ∨ c.1 = 2 then w :: spread cs ws else 0 :: spread cs (w :: ws)
  | _ :: cs, [] => 0 :: spread cs []

/-- The task graph that a packet's launches join or open, 0 where there is none (R356). -/
def State.packetGraph (s : State) (t : Nat) (p : List Word) : Nat :=
  if pkParent p = 0 then s.lu.nextGraph
  else match SMap.find s.lu.grids (pkParent p) with | some g => if g.ln.tenant = t then g.graph else 0 | none => 0

/-- The NOPs of a packet that waits for no other are complete as it is taken (R341). -/
def Issued.nopsDone (p : Issued) : Issued :=
  if p.order then p else { p with cmds := p.cmds.map fun c => if c.ty = 0 then { c with st := 2 } else c }

/-- DONE (R340, R345): the staged commands are checked and issued together, or the packet fails. -/
def State.qiDone (s : State) (r : QRun) : State :=
  let p := r.packet
  let k := (r.cmds.filter fun c => c.1 == 1 || c.1 == 2).length
  let w := pkWeight p
  if k = 0 ∧ (bitsOf (pkDep p) 18 16 ≠ 0 ∨ w ≠ 0 ∨ pkParent p ≠ 0) then s.failRun r .resv 0
  else if 2 ^ 62 < w ∨ (k ≠ 0 ∧ (w = 0) ≠ (pkParent p = 0)) then s.failRun r .weight 0
  else
    match shares k (if w = 0 then 2 ^ 62 else w) with
    | none => s.failRun r .weight 0
    | some l =>
      let graph := if k = 0 then 0 else s.packetGraph (r.queue / 64) p
      let cmds := if r.cmds.isEmpty then [(0, [], none)] else r.cmds
      let cs : List (Nat × Command) := (cmds.zip (spread cmds l)).map fun x =>
        (x.1.1,
         { id := s.qi.nextId, queue := r.queue, index := r.index, tag := BitVec.ofNat 32 (pkWord p 1), aux := BitVec.ofNat 16 (pkAux p),
           dep := BitVec.ofNat 32 (pkDep p), thresh := BitVec.ofNat 32 (pkWord p 3), weight := BitVec.ofNat 64 x.2,
           parent := BitVec.ofNat 32 (pkParent p), body := x.1.2.1, staged := x.1.2.2.or r.staged })
      let t := s.takeCmds graph r.record cs 0
      match t.2 with
      | .error st => t.1.failRun r st 0
      | .ok is =>
        let s := t.1
        let lu := if k ≠ 0 ∧ pkParent p = 0 then
            { s.lu with
              nextGraph := graph + 1,
              graphs := SMap.put s.lu.graphs graph
                { tenant := r.queue / 64, counter := 0, queue := r.queue, index := r.index, tag := BitVec.ofNat 32 (pkWord p 1),
                  gevt := bitsOf (pkFlags p) 3 3 == 1, root := 0, done := false } }
          else s.lu
        let entry : Issued :=
          { id := s.qi.nextId, cause := r.cause, queue := r.queue, index := r.index, tag := BitVec.ofNat 32 (pkWord p 1),
            flags := pkFlags p, cmds := is, failed := none, killed := false }
        ({ s with lu := lu, qi := { s.qi with
            run := none, nextId := s.qi.nextId + 1, issued := s.qi.issued ++ [entry.nopsDone] } }).finishPacket entry.nopsDone

/-! ### Bytecode (R345) -/

/-- What a bytecode instruction comes to. -/
inductive QRes where
  | go (r : QRun)
  | fail (st : Status) (code : Nat)
  | goWith (s : State) (r : QRun)
  | failWith (s : State) (st : Status)
  | act (s : State)

/-- The program that runs, past the instruction that it issues now; none where none runs or its budget is spent. -/
def State.qReady (s : State) : Option QRun :=
  match s.ctl.cur, s.qi.run with
  | .qi, some r => if 256 ≤ r.count then none else some { r with pc := r.pc + 1, count := r.count + 1 }
  | _, _ => none

/-- What the answer of a bytecode instruction of the program r makes of the state. -/
def State.qConclude (s : State) (r : QRun) (x : QRes) : State :=
  match x with
  | .go r' => { s with qi := { s.qi with run := some r' } }
  | .goWith s' r' => { s' with qi := { s'.qi with run := some r' } }
  | .fail st code => s.failRun r st code
  | .failWith s' st => s'.failRun r st 0
  | .act s' => s'

/-- The meaning of a bytecode instruction over its body, which sees the run past the instruction. -/
def qIssue (s : State) (body : QRun → QRes) : Host.Outcome State Fault Refusal :=
  match s.ctl.cur, s.qi.run with
  | .qi, some r =>
    match s.qReady with
    | none => .next (s.failRun r .budget 0)
    | some r' => .next (s.qConclude r (body r'))
  | _, _ => .fault .noProgram

def QRun.reg (r : QRun) (n : Nat) : Word := SMap.get 0 r.b n
def QRun.setReg (r : QRun) (n : Nat) (v : Word) : QRun := { r with b := SMap.set 0 r.b n v }

/-- A SRC operand (R345). -/
def QRun.src (r : QRun) (w : QWord) : Word :=
  if bit w.x 7 then (w.x.extractLsb' 0 7).setWidth 32 else r.reg (w.x.extractLsb' 0 3).toNat

/-- bR := f(bR, src). -/
def qAlu (w : QWord) (s : State) (f : Word → Word → Word) : Host.Outcome State Fault Refusal :=
  qIssue s fun r => .go (r.setReg w.r.toNat (f (r.reg w.r.toNat) (r.src w)))

def execLdp (w : QWord) (s : State) : Host.Outcome State Fault Refusal :=
  qIssue s fun r => .go (r.setReg w.r.toNat (BitVec.ofNat 32 (pkWord r.packet (w.x.extractLsb' 0 4).toNat)))

/-- LDM (R345, R346): the word of a window, read at .dev. -/
def execLdm (w : QWord) (s : State) : Host.Outcome State Fault Refusal :=
  qIssue s fun r =>
    let off := (r.reg (w.x.extractLsb' 0 3).toNat).toNat
    match r.prog.bind fun p => p.windows[(w.x.extractLsb' 6 2).toNat]? with
    | none => .fail .bounds 0
    | some (base, size) =>
      if off % 4 ≠ 0 ∨ size < off + 4 then .fail .bounds 0
      else
        let v := s.vaNat (r.queue / 64) (s.abase (r.queue / 64)) (base + off) 4 .read
        match v.2 with
        | none => .failWith v.1 .prot
        | some x => .goWith v.1 (r.setReg w.r.toNat (BitVec.ofNat 32 x))

def execMovb (w : QWord) (s : State) : Host.Outcome State Fault Refusal := qAlu w s fun _ y => y
def execAddb (w : QWord) (s : State) : Host.Outcome State Fault Refusal := qAlu w s fun x y => x + y
def execSubb (w : QWord) (s : State) : Host.Outcome State Fault Refusal := qAlu w s fun x y => x - y
def execAndb (w : QWord) (s : State) : Host.Outcome State Fault Refusal := qAlu w s fun x y => x &&& y
def execOrb (w : QWord) (s : State) : Host.Outcome State Fault Refusal := qAlu w s fun x y => x ||| y
def execShlb (w : QWord) (s : State) : Host.Outcome State Fault Refusal := qAlu w s sshl
def execShrb (w : QWord) (s : State) : Host.Outcome State Fault Refusal := qAlu w s sshr

/-- CMPB (R345). -/
def execCmpb (w : QWord) (s : State) : Host.Outcome State Fault Refusal :=
  qIssue s fun r =>
    let y : Word := if bit w.x 7 then (w.x.extractLsb' 0 6).setWidth 32 else r.reg (w.x.extractLsb' 0 3).toNat
    let x := r.reg w.r.toNat
    .go { r with flag := if bit w.x 6 then decide (x.toNat < y.toNat) else x == y }

/-- The target of JF and JFC: the instruction's own place and the displacement. -/
def QRun.jump (r : QRun) (w : QWord) : QRun := { r with pc := r.pc - 1 + w.x.toNat }

def execJf (w : QWord) (s : State) : Host.Outcome State Fault Refusal :=
  qIssue s fun r => .go (if r.flag then r.jump w else r)
def execJfc (w : QWord) (s : State) : Host.Outcome State Fault Refusal :=
  qIssue s fun r => .go (if r.flag then r else r.jump w)

/-- LOOPB (R345). -/
def execLoopb (w : QWord) (s : State) : Host.Outcome State Fault Refusal :=
  qIssue s fun r =>
    .go { r.setReg w.r.toNat 0 with
          loops := { reg := w.r.toNat, count := w.x.toNat + 1, i := 0, start := r.pc - 1 } :: r.loops }

/-- ENDB (R345). -/
def execEndb (s : State) : Host.Outcome State Fault Refusal :=
  qIssue s fun r =>
    match r.loops with
    | [] => .go r
    | l :: ls =>
      if l.i + 1 < l.count then
        .go { r.setReg l.reg (BitVec.ofNat 32 (l.i + 1)) with loops := { l with i := l.i + 1 } :: ls, pc := l.start + 1 }
      else .go { r with loops := ls }

/-- CHKRES (R348). -/
def execChkres (w : QWord) (s : State) : Host.Outcome State Fault Refusal :=
  qIssue s fun r =>
    let slot := (r.reg w.r.toNat).toNat % 256
    let c := bodyCmd (pkBody r.packet)
    let k := s.chkres (r.queue / 64) slot (Command.addr c 0) (Command.addr c 6) (min 16 (pkNarg r.packet)) r.record
    match k.2 with
    | .error st => .failWith k.1 st
    | .ok x => .goWith k.1 { r with staged := some (slot, x.1), record := some (Command.addr c 0, x.2) }

/-- RELOC (R345). -/
def execReloc (w : QWord) (s : State) : Host.Outcome State Fault Refusal :=
  qIssue s fun r =>
    let n := (w.x.extractLsb' 0 4).toNat
    .go { r with staged := r.staged.map fun p =>
      (p.1, p.2.zipIdx.map fun k => if k.2 == n then k.1 + (r.reg w.r.toNat).signExtend 64 else k.1) }

/-- EMIT.C (R345). -/
def execEmitC (w : QWord) (s : State) : Host.Outcome State Fault Refusal :=
  qIssue s fun r =>
    if 16 ≤ r.cmds.length then .fail .budget 0
    else .go { r with cmds := r.cmds ++ [((w.x.extractLsb' 0 4).toNat, (List.range 8).map r.reg, r.staged)] }

/-- DONE (R345). -/
def execDone (s : State) : Host.Outcome State Fault Refusal := qIssue s fun r => .act (s.qiDone r)
/-- FAIL (R345). -/
def execFail (w : QWord) (s : State) : Host.Outcome State Fault Refusal := qIssue s fun _ => .fail .progfail w.x.toNat

end Sys2Proof.Machine
end

