-- ==== Sys2Proof/Machine/Grids.lean ====
section
/-!
DEFINITION. The launch unit: grid records, readiness, placement, and the start, end, pre-emption and resumption of
groups (R17, R18, R225 to R230, R239, R349 to R353, R356).
-/

namespace Sys2Proof.Machine

/-! ### LAUNCH and INVOKE (R341, R349, R356) -/

/-- The next nonzero 32-bit grid number. -/
def nextNum (n : Nat) : Nat := if (n + 1) % 2 ^ 32 = 0 then 1 else (n + 1) % 2 ^ 32

/-- The grid record of a launch. -/
def gridOf (s : State) (num : Nat) (x : IssuedCmd) (ln : Launch) : Grid :=
  let c := x.cmd
  { num := num, id := c.id, seq := s.lu.launched, queue := c.queue, index := c.index, tag := c.tag, dep := c.dep, thresh := c.thresh, parent := c.parent.toNat,
    graph := x.graph, weight := c.weight.toNat, indaddr := BitVec.ofNat 64 (Command.addr c 4), gx := Command.word c 2,
    gy := Command.bits c 3 15 0, gz := Command.bits c 3 31 16, ln := ln,
    slot := if x.ty = 2 then c.staged.map Prod.fst else none, ready := false, head := [], nextGid := 0, tail := [],
    placed := [], endedCount := 0, ended := false, asked := none }

/-- The root grid's number given to its graph. -/
def Graph.rooted (g : Graph) (num : Nat) : Graph := if g.root = 0 then { g with root := num } else g

/-- A launch becomes a grid record; it waits while none is free (R349). -/
def State.launch (s : State) : Host.Outcome State Fault Refusal :=
  match s.thisCmd with
  | none => s.notDue
  | some x =>
    match x.launch with
    | none => s.notDue
    | some ln =>
      if 65536 ≤ s.lu.grids.length then .next s.cmdWaits
      else
        let num := s.lu.next
        let s := { s with lu := { s.lu with
          next := nextNum num, launched := s.lu.launched + 1, grids := SMap.put s.lu.grids num (gridOf s num x ln),
          graphs := match SMap.find s.lu.graphs x.graph with
            | some g => SMap.put s.lu.graphs x.graph (g.rooted num)
            | none => s.lu.graphs } }
        .next (s.cmdSet fun c => { c with st := 1, grid := some num })

/-- LAUNCH (R341). -/
def execLaunch (s : State) : Host.Outcome State Fault Refusal := s.launch
/-- INVOKE (R341). -/
def execInvoke (s : State) : Host.Outcome State Fault Refusal := s.launch

/-! ### Readiness (R349) -/

/-- A grid's group count with its bounds read where IND says so: the status that fails it, or the record. -/
def State.bounds (s : State) (g : Grid) : State × Except Status Grid :=
  let t := g.ln.tenant
  let one (a : State × Except Status (List Nat)) (f : Nat) : State × Except Status (List Nat) :=
    match a.2 with
    | .error st => (a.1, .error st)
    | .ok l =>
      if bit g.dep (16 + f) then
        let v := a.1.vaNat t (s.abase t) (g.indaddr.toNat + 4 * f) 4 .read
        match v.2 with
        | none => (v.1, .error .prot)
        | some n => (v.1, .ok (l ++ [n]))
      else (a.1, .ok (l ++ [match f with | 0 => g.gx | 1 => g.gy | _ => g.gz]))
  let r := (List.range 3).foldl one (s, .ok [])
  match r.2 with
  | .error st => (r.1, .error st)
  | .ok l =>
    let x := l.getD 0 0
    let y := l.getD 1 0
    let z := l.getD 2 0
    if 0x10000 ≤ y ∨ 0x10000 ≤ z ∨ 2 ^ 32 < x * y * z then (r.1, .error .bounds)
    else (r.1, .ok { g with gx := x, gy := y, gz := z })

/-- The conditions of R349 that a grid waits for: its parent has ended, its semaphore has reached the threshold. -/
def State.gridMay (s : State) (g : Grid) : Except Status Bool :=
  let parent : Except Status Bool :=
    if g.parent = 0 then .ok true
    else
      match SMap.find s.lu.grids g.parent with
      | some p => if p.ln.tenant = g.ln.tenant then .ok p.ended else .error .badgraph
      | none => .error .badgraph
  let dep := g.dep.toNat
  match parent with
  | .error st => .error st
  | .ok false => .ok false
  | .ok true => .ok (bitsOf dep 31 31 == 0 || decide (g.thresh.toNat ≤ (s.sem (bitsOf dep 15 8) (bitsOf dep 5 0)).toNat))

/-- GRID_READY (R349, R399): grid `arg.uid`. -/
def execGridReady (s : State) : Host.Outcome State Fault Refusal :=
  match SMap.find s.lu.grids s.ctl.arg.uid with
  | none => s.notDue
  | some g =>
    if g.ready || g.ended then s.notDue
    else
      match s.gridMay g with
      | .error st => .next (s.endGrid g.num (some st.code))
      | .ok false => s.notDue
      | .ok true =>
        let r := s.bounds g
        match r.2 with
        | .error st => .next (r.1.endGrid g.num (some st.code))
        | .ok g =>
          if g.total = 0 then .next (r.1.endGrid g.num none)
          else if g.total % g.ln.clg ≠ 0 then .next (r.1.endGrid g.num (some Status.bounds.code))
          else if !r.1.rwSpan g.ln.asid g.ln.ctxbase.toNat (ctxSpan * g.total) then
            .next (r.1.endGrid g.num (some Status.prot.code))
          else .next { r.1 with lu := { r.1.lu with grids := SMap.put r.1.lu.grids g.num { g with ready := true } } }

/-! ### Room on a core (R12, R17, R190, R350) -/

/-- Groups resident on a core. -/
def State.onCore (s : State) (c : Nat) : List Group := (s.groups.map Prod.snd).filter fun g => g.core == c

/-- Resident warps and reserved registers of lane pipe p of a quarter (R350). What warps have drawn above their P does not count, so
that a warp placed later may have its P reserved out of registers already drawn (R28, log 60). -/
def pipeLoad (gs : List Group) (q p : Nat) : Nat × Nat :=
  (gs.filter fun g => g.quarter == q).foldl
    (fun a g =>
      let on := g.pipes.filter fun x => x.2 == p
      (a.1 + on.length, a.2 + (on.map fun x => g.reserves x.1).sum)) (0, 0)

/-- The pipe that a warp goes on: the fewest warps among those that can take it, the lowest on a tie. -/
def pickPipe (live : Nat) (loads : List (Nat × Nat)) : Option Nat :=
  (loads.zipIdx.filter fun x => decide (x.1.1 ≤ 7) && decide (x.1.2 + live ≤ 64)).foldl
    (fun a x => match a with
      | none => some (x.1.1, x.2)
      | some b => if x.1.1 < b.1 then some (x.1.1, x.2) else a) none |>.map Prod.snd

/-- Pipes for warps in order. -/
def pickPipes (live : Nat) : List Nat → List (Nat × Nat) → Option (List (Nat × Nat))
  | [], _ => some []
  | k :: ks, loads =>
    (pickPipe live loads).bind fun p =>
      (pickPipes live ks (loads.zipIdx.map fun x => if x.2 == p then (x.1.1 + 1, x.1.2 + live) else x.1)).map fun l =>
        (k, p) :: l

/-- The slots of a group: its warps, then its spawn slots. -/
def Group.slots (g : Group) : List Nat := List.range g.ln.warps ++ (List.range g.kern.spawn).map (32 + ·)

/-- A group's pipes in a quarter, where the quarter fits it. -/
def fitQuarter (gs : List Group) (g : Group) (q : Nat) : Option (List (Nat × Nat)) :=
  if 16 ≤ (gs.filter fun x => x.quarter == q).length then none
  else pickPipes g.kern.live g.slots ((List.range 64).map (pipeLoad gs q))

/-- Indices in the order of rising value, the lowest first on a tie. -/
def byCount (n bound : Nat) (f : Nat → Nat) : List Nat :=
  (List.range (bound + 1)).flatMap fun k => (List.range n).filter fun i => f i == k

/-- A group allocated in a quarter of a core beside the groups there, if every resource it declares is free (R17):
the group with its quarter, pipes, context and ring position. -/
def State.fitAt (s : State) (gs : List Group) (g : Group) (c q : Nat) : Option Group :=
  let smem := (gs.map fun x => x.kern.smem).foldl (· + ·) 0
  let ring := (s.core c).ta.ring
  let pos : Option (Option Nat) :=
    if !g.ln.crown then some none
    else match g.ring with
      | some p => some (some p)
      | none => ((List.range 8).find? fun p => (SMap.find ring p).isNone).map some
  if !bit s.fw.cores c || decide (2097152 < smem + g.kern.smem) then none
  else
    pos.bind fun r => (fitQuarter gs g q).map fun pipes =>
      let used := (gs.filter fun x => x.quarter == q).map fun x => x.actx
      { g with core := c, quarter := q, pipes := pipes, ring := r,
               actx := ((List.range 16).find? fun i => !used.contains i).getD 0 }

/-- The quarters of a core by the groups in them (R350). -/
def quarters (gs : List Group) : List Nat := byCount 4 64 fun q => (gs.filter fun x => x.quarter == q).length

/-- A group allocated on a core, in the first quarter that fits it. -/
def State.fit (s : State) (gs : List Group) (g : Group) (c : Nat) : Option Group := (quarters gs).findSome? (s.fitAt gs g c)

/-- A group that takes its place. -/
def State.seat (s : State) (g : Group) : State :=
  let s := match g.ring with
    | some p =>
      let c := s.core g.core
      s.setCore g.core { c with ta := { c.ta with ring := SMap.put c.ta.ring p g.uid } }
    | none => s
  s.setGroup g

/-- A group placed on a core. -/
def State.placeOn (s : State) (g : Group) (c : Nat) : Option State := (s.fit (s.onCore c) g c).map s.seat

/-! ### Candidates (R350) -/

/-- A group of a grid that has never started. -/
def freshGroup (r : Grid) (gid : Nat) : Group :=
  { uid := 2 ^ 32 * r.num + gid, grid := r.num, gid := gid, gx := r.gx, gy := r.gy, ln := r.ln, core := 0, quarter := 0,
    actx := 0, pipes := [], warps := [], a := ACtx.fresh 0 0, queues := Queues.empty, bars := [], smem := [], taSeq := 0,
    ceSeq := 0, ceInfo := [], ceScope := [], side := 0, started := false, preempt := false, toHead := false, timer := 0,
    replayed := false, image := false, savedAs := none, ring := none, heldAtSave := false, frozenIO := none }

/-- The waiting group at the head of a grid's wait list. -/
def Grid.waiting (r : Grid) : Option Nat :=
  match r.head with
  | g :: _ => some g
  | [] => if r.nextGid < r.total then some r.nextGid else r.tail.head?

/-- The grid after its first waiting group, or cluster, has been placed. -/
def Grid.took (r : Grid) (n : Nat) : Grid :=
  match r.head with
  | g :: gs => { r with head := gs, placed := g :: r.placed }
  | [] =>
    if r.nextGid < r.total then
      { r with nextGid := r.nextGid + n, placed := (List.range n).map (r.nextGid + ·) ++ r.placed }
    else { r with tail := r.tail.tail, placed := r.tail.take 1 ++ r.placed }

/-- The grid that gives a queue its candidate: the oldest that has a waiting group; the launches of a queue start in packet
order (R340, R349). -/
def State.candGrid (s : State) (q : Nat) : Option Grid :=
  ((s.lu.grids.map Prod.snd).filter fun r => r.queue == q && r.ready && !r.ended && r.waiting.isSome).foldl
    (fun a r => match a with
      | none => some r
      | some b => if r.seq < b.seq then some r else some b) none

/-- The groups that a candidate stands for: one that waits for resumption or restart, one alone, or a whole
cluster. -/
def State.candGroups (s : State) (r : Grid) (gid : Nat) : List Group :=
  match SMap.find s.lu.saved (2 ^ 32 * r.num + gid) with
  | some g => [g]
  | none => (List.range r.ln.clg).map fun k => freshGroup r (gid + k)

/-- The cores on which a candidate may stand, each a list by rank modulo its length, in the order of R350;
a group that left a core it must return to has one (R230, R236). -/
def State.places (s : State) (gs : List Group) : List (List Nat) :=
  match gs with
  | [g] =>
    if (SMap.find s.lu.saved g.uid).isSome && (g.ring.isSome || decide (1 < g.ln.clg)) then [[g.core]]
    else (byCount 160 64 fun c => (s.onCore c).length).map fun c => [c]
  | g :: _ =>
    (List.range 40).flatMap fun q => (List.range (5 - g.ln.clc)).map fun k => (List.range g.ln.clc).map fun i => 4 * q + k + i
  | [] => []

/-- Groups placed by rank on some cores, each with the earlier ones in place. -/
def State.placeAll (s : State) (gs : List Group) (cores : List Nat) : Option State :=
  gs.zipIdx.foldl
    (fun a x => a.bind fun s => (cores[x.2 % cores.length]?).bind fun c => s.placeOn x.1 c) (some s)

/-- The grid and the wait lists once the groups of a candidate have been seated. -/
def State.tookCand (t : State) (r : Grid) (gs : List Group) : State :=
  { t with lu := { t.lu with
      grids := SMap.put t.lu.grids r.num (r.took gs.length),
      saved := gs.foldl (fun m g => SMap.del m g.uid) t.lu.saved } }

/-- A candidate seated at the cores and quarters of a list, by rank. -/
def State.seatAt (s : State) (gs : List Group) (l : List (Nat × Nat)) : Option State :=
  (gs.zip l).foldl
    (fun a x => a.bind fun s => (s.fitAt (s.onCore x.2.1) x.1 x.2.1 x.2.2).map s.seat) (some s)

/-- The groups of a waiting candidate, by its uid. -/
def State.candidate (s : State) (uid : Nat) : Option (Grid × List Group) :=
  (SMap.find s.lu.grids (uid / 2 ^ 32)).bind fun r =>
    if r.waiting = some (uid % 2 ^ 32) then some (r, s.candGroups r (uid % 2 ^ 32)) else none

/-- A held placement has room once the groups that were asked to leave it have left (R352). -/
def State.keepsHold (s : State) (h : Hold) : Bool :=
  match s.candidate h.uid with
  | none => true
  | some (_, gs) => (({ s with groups := s.groups.filter fun p => !h.gone.contains p.1 }).seatAt gs h.places).isSome

/-- The placements held for other candidates have their room (R352). -/
def State.keepsHolds (s : State) (uid : Nat) : Bool := s.lu.holds.all fun h => h.uid == uid || s.keepsHold h

/-- A candidate placed at the first place that takes no room held for another: the state after it. -/
def State.tryPlace (s : State) (r : Grid) (gid : Nat) : Option State :=
  let gs := s.candGroups r gid
  (s.places gs).findSome? fun cores =>
    if !cores.all fun c => bit s.fw.cores c then none
    else ((s.placeAll gs cores).map fun t => t.tookCand r gs).filter fun t => t.keepsHolds (2 ^ 32 * r.num + gid)

/-- A held placement made, where its groups now fit (R352). -/
def State.placeHeld (s : State) (uid : Nat) : Option State :=
  (s.lu.holds.find? fun h => h.uid == uid).bind fun h => (s.candidate uid).bind fun c =>
    ((s.seatAt c.2 h.places).map fun t => t.tookCand c.1 c.2).map fun t =>
      { t with lu := { t.lu with holds := t.lu.holds.filter fun x => x.uid != uid } }

/-- The queues of the launch unit. -/
def State.luQueues (s : State) : List Nat := (List.range 1024).filter fun q => (s.candGrid q).isSome

/-- A grid's candidate placed: where a placement is held for it and has room, there, or else by R350. -/
def State.placeGrid (s : State) (r : Grid) : Option State :=
  r.waiting.bind fun gid => (s.placeHeld (2 ^ 32 * r.num + gid)).or (s.tryPlace r gid)

/-- A queue's candidate placed. -/
def State.placeCand (s : State) (q : Nat) : Option State := (s.candGrid q).bind s.placeGrid

/-- place_one of R351: the highest level with a ready queue, the first at or after its pointer. -/
def State.placeOne (s : State) : Option State :=
  (List.range 8).findSome? fun i =>
    let level := 7 - i
    let ready := s.luQueues.filter fun q => (s.level q).1 == level && (s.placeCand q).isSome
    (firstFrom (SMap.get 0 s.lu.ptrs level) ready).bind fun q => (s.placeCand q).map fun t =>
      { t with lu := { t.lu with ptrs := SMap.put t.lu.ptrs level ((q + 1) % 1024) } }

/-- The priority of a resident group: its queue's. -/
def State.prioOf (s : State) (g : Group) : Nat := match SMap.find s.lu.grids g.grid with | some r => (s.level r.queue).1 | none => 0

/-- The first place on a core that fits a group once the lower groups of its quarter are gone, or, where there is none,
once those of the core are: the group in its place, and those that go (R352, R458). -/
def State.clearing (s : State) (lower : Group → Bool) (g : Group) (c : Nat) : Option (Group × List Nat) :=
  let gs := s.onCore c
  let without (gone : Group → Bool) (q : Nat) : Option (Group × List Nat) :=
    (s.fitAt (gs.filter fun x => !gone x) g c q).map fun g => (g, (gs.filter gone).map fun x => x.uid)
  ((quarters gs).findSome? fun q => without (fun x => lower x && x.quarter == q) q).or ((quarters gs).findSome? (without lower))

/-- The groups of a candidate on some cores by rank, each in the room that lower groups clear for it. -/
def State.clearAll (s : State) (lower : Group → Bool) (gs : List Group) (cores : List Nat) : Option (State × List (Nat × Nat) × List Nat) :=
  gs.zipIdx.foldl
    (fun a x => a.bind fun (s, l, gone) => (cores[x.2 % cores.length]?).bind fun c => (s.clearing lower x.1 c).map fun r =>
      (({ s with groups := s.groups.filter fun p => !r.2.contains p.1 } : State).seat r.1, l ++ [(c, r.1.quarter)], gone ++ r.2))
    (some (s, [], []))

/-- A group asked to stop and to wait at the head of its grid's list (R227, R352). -/
def Group.askedToHead (g : Group) : Group := { g with preempt := true, toHead := true }

/-- A pre-empting grid whose candidate has no place (R352): the first placement that fits without the groups of
lower priority there, held, and those groups asked to stop. -/
def State.preemptFor (s : State) (r : Grid) (gid : Nat) : Option State :=
  let gs := s.candGroups r gid
  let uid := 2 ^ 32 * r.num + gid
  (s.places gs).findSome? fun cores =>
    if !cores.all fun c => bit s.fw.cores c then none
    else (s.clearAll (fun g => decide (s.prioOf g < (s.level r.queue).1)) gs cores).bind fun (t, places, gone) =>
      if gone.isEmpty || !t.keepsHolds uid then none
      else some { s with
        groups := SMap.mapv (fun u g => if gone.contains u then g.askedToHead else g) s.groups,
        lu := { s.lu with holds := s.lu.holds ++ [{ uid := uid, places := places, gone := gone }] } }

/-- The pre-emptions that the PRE queues ask for, the highest level first: of each whose candidate has no place and holds
none. -/
def State.preempts (s : State) : State :=
  (List.range 8).foldl (fun s i =>
    (s.luQueues.filter fun q => s.level q == (7 - i, true)).foldl (fun s q =>
      match (s.candGrid q).bind fun r => r.waiting.map fun gid => (r, gid) with
      | none => s
      | some (r, gid) =>
        if s.lu.holds.any (fun h => h.uid == 2 ^ 32 * r.num + gid) || (s.placeGrid r).isSome then s
        else (s.preemptFor r gid).getD s) s) s

/-- Held placements whose candidates wait no longer are dropped. -/
def State.tidyHolds (s : State) : State :=
  { s with lu := { s.lu with holds := s.lu.holds.filter fun h => (s.candidate h.uid).isSome } }

/-- GROUP_PLACEMENT (R350 to R352): at most one placement, and the pre-emptions that PRE queues without a place ask for. -/
def execGroupPlacement (s : State) : Host.Outcome State Fault Refusal :=
  let s := s.tidyHolds
  let t := (s.placeOne.getD s).preempts
  if s.placeOne.isNone && t.lu.holds == s.lu.holds then s.notDue else .next t

/-! ### Start and end (R17, R18, R225, R239) -/

/-- The context area of a group. -/
def Group.ctx (g : Group) : Nat := g.ln.ctxbase.toNat + ctxSpan * g.gid

/-- A group as it starts. -/
def Group.begin (g : Group) : Group :=
  { g with
    started := true, smem := [], bars := [], queues := Queues.empty, taSeq := 0, ceSeq := 0, ceInfo := [], ceScope := [], side := 0, timer := 0,
    warps := (List.range g.ln.warps).map fun k => (k, g.startWarp g.ctx k),
    a := ACtx.fresh (g.kern.aentry.getD 0) (g.ctx + 0x200000) }

/-- GROUP_START (R17, R239, R272): group `arg.uid`. -/
def execGroupStart (s : State) : Host.Outcome State Fault Refusal :=
  match s.group? s.ctl.arg.uid with
  | none => s.notDue
  | some g => if g.started || g.image then s.notDue else .next ((s.acquire g.core 3).setGroup g.begin)

/-- Every Trit Array, copy engine and ray engine command of a group has completed (R18). -/
def Core.quiet (c : Core) (uid : Nat) : Bool :=
  (c.ta.queue.all fun x => x.uid != uid) && (c.chans.all fun p => p.2.all fun x => x.uid != uid) &&
  (c.fifo.all fun x => x.uid != uid) && (c.rays.all fun x => x.q.uid != uid) && c.splits.all fun x => x.uid != uid

/-- A group has finished (R18). -/
def State.finished (s : State) (g : Group) : Bool :=
  g.started && g.a.ended && (g.warps.all fun p => p.2.exited && p.2.mode == .running && p.2.pushDue.isNone) &&
  (s.core g.core).quiet g.uid

/-- A finished group ends: its resources are free, and its grid may end with it. -/
def State.endGroup (s : State) (g : Group) : State :=
  let s := (s.release g.tenant g.core 3).dropGroup g.uid
  match SMap.find s.lu.grids g.grid with
  | none => s
  | some r =>
    let r := { r with placed := r.placed.erase g.gid, endedCount := r.endedCount + 1, asked := r.asked.filter (· != g.gid) }
    let s := { s with lu := { s.lu with grids := SMap.put s.lu.grids r.num r } }
    if r.endedCount = r.total then s.endGrid r.num none
    else
      let s := (List.range 8).foldl (fun s i => s.settleCl g i) s
      (List.range 4).foldl (fun s i => s.settleGd g.grid i) s

/-- GROUP_END (R18): group `arg.uid`. -/
def execGroupEnd (s : State) : Host.Outcome State Fault Refusal :=
  match s.group? s.ctl.arg.uid with
  | none => s.notDue
  | some g => if s.finished g then .next (s.endGroup g) else s.notDue

/-! ### Pre-emption (R228, R230, R353) -/

/-- The resident group of a grid with the largest run timer, the lowest $gid on a tie. -/
def State.oldest (s : State) (num : Nat) : Option Group :=
  ((s.groups.map Prod.snd).filter fun g => g.grid == num && g.started).foldl
    (fun a g => match a with
      | none => some g
      | some b => if b.timer < g.timer ∨ (b.timer = g.timer ∧ g.gid < b.gid) then some g else some b) none

/-- QUANTUM_EXPIRY (R353): grid `arg.uid`. -/
def execQuantumExpiry (s : State) : Host.Outcome State Fault Refusal :=
  match SMap.find s.lu.grids s.ctl.arg.uid with
  | none => s.notDue
  | some r =>
    match s.oldest r.num, r.waiting with
    | some g, some _ =>
      if r.asked.isSome || !r.ready || g.preempt || decide (g.timer < 2 ^ r.ln.quantum) || (s.placeGrid r).isSome then
        s.notDue
      else
        .next ({ s with lu := { s.lu with grids := SMap.put s.lu.grids r.num { r with asked := some g.gid } } }.setGroup
          { g with preempt := true, toHead := false })
    | _, _ => s.notDue

/-- Every routine of a stopping group has ended (R228), with the fills and the pushes that are due (R118, R296). -/
def State.routinesEnded (s : State) (g : Group) : Bool :=
  let stopped (m : RunMode) : Bool := match m with | .saved _ => true | _ => false
  g.started && g.preempt && g.frozenIO.isNone &&
  (g.warps.all fun p => (stopped p.2.mode || (p.2.exited && p.2.mode == .running)) && p.2.cbPend.isEmpty && p.2.pushDue.isNone) &&
  (stopped g.a.mode || g.a.ended) && (stopped g.a.mode || g.warps.any fun p => stopped p.2.mode) && (s.core g.core).quiet g.uid

/-- A queue in the group image (R228): a count, zero, and 16 entries of payload and mask. -/
def queueImage (l : List (Nat × Nat)) : List Byte :=
  leBytes 4 l.length ++ leBytes 4 0 ++
  (List.range 16).flatMap fun i => leBytes 4 (l.getD i (0, 0)).1 ++ leBytes 4 (l.getD i (0, 0)).2

/-- The 1,096 bytes of the group image (R228). -/
def Group.imageBytes (g : Group) : List Byte :=
  let q := g.queues
  let words (l : List Word) : List (Nat × Nat) := l.map fun w => (w.toNat, 0)
  let bc (l : List BEntry) : List (Nat × Nat) := l.map fun e => (e.payload.toNat, e.pops.toNat)
  let ga (l : List (BitVec 32)) : List (Nat × Nat) := l.map fun m => (m.toNat, m.toNat)
  leBytes 8 ((if g.heldAtSave then 1 else 0) + 2 * g.ring.getD 0) ++ queueImage (words q.fmt) ++ queueImage (bc q.b1) ++
  queueImage (bc q.b2) ++ queueImage (bc q.b3) ++ queueImage (ga q.g4) ++ queueImage (ga q.g5) ++ queueImage (words q.t6) ++
  queueImage (words q.t7)

/-- A context-area step of a group that meets no translation or no permission (R229); the report of a protection fault names the A
context and its PC (log 19). -/
def State.ctxFault (s : State) (g : Group) (va agent : Nat) (xl : Option Nat) : State :=
  match xl with
  | some k =>
    let s := s.queueFault g va k agent
    s.setGroup { g with frozenIO := some { asid := g.asid, va := va, cause := k, agent := agent } }
  | none => s.gridFault g 64 Cause.prot.code 0 g.a.apc (BitVec.ofNat 64 va) true

/-- The entries on which a group's streams stopped. -/
def Group.saveRec (g : Group) : SaveRec :=
  { warps := g.warps.filterMap fun p => match p.2.mode with | .saved n => some (p.1, n) | _ => none,
    held := g.warps.filterMap fun p => p.2.keptPop.map fun v => (p.1, v),
    counts := g.warps.map fun p => (p.1, p.2.safecnt), kept := if g.kern.portable then g.warps else [],
    aEntry := match g.a.mode with | .saved n => some n | _ => none, bars := g.bars }

/-- The group away from its core, with its completed save (R228, R235). -/
def Group.parted (g : Group) : Group :=
  { g with
    started := false, preempt := false, timer := 0, side := 0, replayed := false, image := true, savedAs := some g.saveRec,
    pipes := [], warps := SMap.mapv (fun _ (w : Warp) => { w with queries := [] }) g.warps }

/-- The saved group joins its grid's wait list (R352, R353). -/
def Grid.giveBack (r : Grid) (gid : Nat) (toHead : Bool) : Grid :=
  { r with
    placed := r.placed.erase gid, asked := r.asked.filter (· != gid),
    head := if toHead then gid :: r.head else r.head, tail := if toHead then r.tail else r.tail ++ [gid] }

/-- A group that leaves its core for the wait list. -/
def State.putAway (s : State) (g : Group) (toHead : Bool) : State :=
  let grids := match SMap.find s.lu.grids g.grid with
    | some r => SMap.put s.lu.grids r.num (r.giveBack g.gid toHead)
    | none => s.lu.grids
  { s with groups := SMap.del s.groups g.uid, lu := { s.lu with grids := grids, saved := SMap.put s.lu.saved g.uid g } }

/-- GROUP_SAVE_COMPLETE (R228): group `arg.uid`. -/
def execGroupSaveComplete (s : State) : Host.Outcome State Fault Refusal :=
  match s.group? s.ctl.arg.uid with
  | none => s.notDue
  | some g =>
    if !s.routinesEnded g then s.notDue
    else
      let va := g.ctx + 0x200080
      let t := s.translate g.core g.tenant g.asid va
      match t.2 with
      | .error k => .next (t.1.ctxFault g va 1 (some k))
      | .ok p =>
        if !p.w then .next (t.1.ctxFault g va 1 none)
        else
          let s := (t.1.gStoreList g.core g.tenant 3 p g.imageBytes).release g.tenant g.core 3
          .next (s.putAway g.parted g.toHead)

/-- A queue read from a group image: payloads and masks. -/
def imageQueue (bs : List Byte) (k : Nat) : List (Word × BitVec 32) :=
  let o := 8 + 136 * k
  (List.range (min 16 (wordAt bs o 4))).map fun i =>
    (BitVec.ofNat 32 (wordAt bs (o + 8 + 8 * i) 4), BitVec.ofNat 32 (wordAt bs (o + 12 + 8 * i) 4))

/-- The fields of a group image that have one value do: the bits above the ring position, the zero words, counts up to 16, and
the masks of queues 0, 6 and 7 (R228, R6). -/
def imageZeros (bs : List Byte) : Bool :=
  wordAt bs 0 8 / 16 == 0 && (List.range 8).all fun k =>
    let o := 8 + 136 * k
    decide (wordAt bs o 4 ≤ 16) && wordAt bs (o + 4) 4 == 0 &&
    ((decide (1 ≤ k) && decide (k ≤ 5)) || (List.range (wordAt bs o 4)).all fun i => wordAt bs (o + 12 + 8 * i) 4 == 0)

/-- The queues of a group image (R230). -/
def imageQueues (bs : List Byte) : Queues :=
  let w (k : Nat) : List Word := (imageQueue bs k).map Prod.fst
  let b (k : Nat) : List BEntry := (imageQueue bs k).map fun x => { payload := x.1, pops := x.2 }
  let m (k : Nat) : List (BitVec 32) := (imageQueue bs k).map Prod.snd
  { fmt := w 0, b1 := b 1, b2 := b 2, b3 := b 3, g4 := m 4, g5 := m 5, t6 := w 6, t7 := w 7 }

/-- The offset of a routine of an entry: 0 T save, 1 T restore, 2 A save, 3 A restore. -/
def Kern.routine (k : Kern) (entry j : Nat) : Nat := ((((k.safe[entry]?).getD []).getD j none)).getD 0

/-- A warp at the restore routine of the entry on which it stopped, its latest safe point again (R227, R230). -/
def Warp.toRestore (w : Warp) (k : Kern) (entry : Nat) : Warp :=
  let width := if k.legacy then 16 else 32
  let threads := (List.range width).map fun t => (t, TState.live (BitVec.ofNat 32 (k.routine entry 1)))
  { Warp.fresh threads w.tframe.toNat with
    trap := w.trap, dfrec := w.dfrec, mode := .restoring entry, stop := threads, lastSafe := some entry, tags := w.tags }

/-- A group as it resumes with its queues (R230). -/
def Group.resume (g : Group) (bs : List Byte) : Group :=
  let r := g.savedAs.getD { warps := [], held := [], counts := [], kept := [], aEntry := none, bars := [] }
  let k := g.kern
  { g with
    started := true, image := false, smem := [], queues := imageQueues bs, timer := 0,
    warps := SMap.mapv (fun slot (w : Warp) =>
      match SMap.find r.warps slot, SMap.find r.kept slot with
      | some _, some v => { v with mode := .running, stop := [], parked := none, queries := [], tags := w.tags }
      | some n, none => { w.toRestore k n with safecnt := SMap.get 0 r.counts slot, keptPop := SMap.find r.held slot }
      | none, _ => { w with threads := SMap.mapv (fun _ _ => TState.exited) w.threads, mode := .running }) g.warps,
    a := match r.aEntry with
      | some n => { g.a with mode := .restoring n, apc := BitVec.ofNat 32 (k.routine n 3), restart := true, inHandler := false,
                             ended := false, held := none, pushDue := none, crownWait := false, semWait := none, parked := none }
      | none => { g.a with ended := true, mode := .running } }

/-- GROUP_RESUMPTION (R230): group `arg.uid`, placed and with its image. A nonzero reserved field of the image fails it as a
page without R does, for no outcome is named (R6, R229, log 60). -/
def execGroupResumption (s : State) : Host.Outcome State Fault Refusal :=
  match s.group? s.ctl.arg.uid with
  | none => s.notDue
  | some g =>
    if g.started || !g.image || g.frozenIO.isSome then s.notDue
    else
      let va := g.ctx + 0x200080
      let t := (s.acquire g.core 3).translate g.core g.tenant g.asid va
      match t.2 with
      | .error k => .next (t.1.ctxFault g va 0 (some k))
      | .ok p =>
        if !p.r then .next (t.1.ctxFault g va 0 none)
        else
          let r := t.1.gLoadList g.core g.tenant 3 p 1096
          if !imageZeros r.2 then .next (r.1.ctxFault g va 0 none)
          else .next (r.1.setGroup (g.resume r.2))

/-! ### Soft errors that strike a group (R234 to R236) -/

/-- A struck group: its dirty bytes written back, it is replayed once where it has had no side effect, and
otherwise its grid faults (R234, R236). -/
def State.strike (s : State) (uid loc : Nat) : State :=
  match s.group? uid with
  | none => s
  | some g =>
    let s := s.release g.tenant g.core 3
    if g.side = 0 ∧ !g.replayed then
      let c := s.core g.core
      let ta := match g.ring with | some p => c.ta.leave p false | none => c.ta
      let s := s.setCore g.core (Core.purge { c with ta := ta } uid)
      let bars := match g.savedAs with | some r => r.bars | none => []
      s.putAway
        { g with
          started := false, preempt := false, timer := 0, replayed := true, image := g.savedAs.isSome, pipes := [], bars := bars,
          frozenIO := none, queues := Queues.empty, smem := [],
          warps := if g.savedAs.isSome then SMap.mapv (fun _ (w : Warp) => { w with queries := [], parked := none }) g.warps else [] }
        true
    else
      let f := s.freeNat
      let k := f.1.freeNat
      k.1.gridFault g (k.2 % 65) Cause.softerr.code 0 (BitVec.ofNat 32 f.2) (BitVec.ofNat 64 (loc % 16)) false

end Sys2Proof.Machine
end

