-- ==== Sys2Proof/Machine/Packets.lean ====
section
/-!
DEFINITION. The packets that are not launches, head or paging packets (R341, R342, R346, R347, R352).
-/

namespace Sys2Proof.Machine

/-- NOP (R341): complete. -/
def execNopPacket (s : State) : Host.Outcome State Fault Refusal := .next s.cmdDone

/-! ### COPY (R342) -/

/-- Unit k of a copy: its first byte's offset from DST, and its length. -/
def copyUnit (dst n k : Nat) : Nat × Nat :=
  let first := min n (16 - dst % 16)
  if k = 0 then (0, first) else let o := first + 16 * (k - 1); (o, min 16 (n - o))

/-- Units of a copy. -/
def copyUnits (dst n : Nat) : Nat := if n ≤ 16 - dst % 16 then 1 else 1 + (n - (16 - dst % 16) + 15) / 16

/-- Unit k of a copy performed, its source bytes read old or new where the copy has overwritten some (R342); none where
a page fails. -/
def State.copyOne (s : State) (t asid src dst n k : Nat) (old : SMap Byte) : State × Option (SMap Byte) :=
  let u := copyUnit dst n k
  let r := s.vaRead t asid (src + u.1) u.2 .read
  match r.2 with
  | none => (r.1, none)
  | some bs =>
    let v := r.1.oldOrNew old (src + u.1) u.2 (leNat bs)
    let kept : SMap Byte :=
      if src < dst + n ∧ dst < src + n then
        let now := (s.vaRead t asid (dst + u.1) u.2 .write).2.getD []
        now.zipIdx.foldl (fun m p =>
          let a := dst + u.1 + p.2
          if (SMap.find m a).isSome || decide (a < src) || decide (src + n ≤ a) then m else SMap.put m a p.1) old
      else old
    match v.1.vaWrite asid (dst + u.1) .write (leBytes u.2 v.2) with
    | some s => (s, some kept)
    | none => (v.1, none)

/-- Units from the k-th on performed, at most `fuel`: the count done and the bytes kept, or none where one fails. -/
def State.copyRun (s : State) (t asid src dst n : Nat) : Nat → Nat → SMap Byte → State × Option (Nat × SMap Byte)
  | 0, k, old => (s, some (k, old))
  | fuel + 1, k, old =>
    if copyUnits dst n ≤ k then (s, some (k, old))
    else
      let r := s.copyOne t asid src dst n k old
      match r.2 with
      | some old => State.copyRun r.1 t asid src dst n fuel (k + 1) old
      | none => (r.1, none)

/-- COPY (R342): checked at its first turn; each turn performs `arg.len` units, at least one. -/
def execCopy (s : State) : Host.Outcome State Fault Refusal :=
  let c := s.ctl.cmd
  let t := Command.tenant c
  let asid := Command.bits c 5 11 0
  let src := Command.addr c 0
  let dst := Command.addr c 2
  let n := Command.word c 4
  let done := (s.thisCmd.map fun x => x.next).getD 0
  let old := (s.thisCmd.map fun x => x.old).getD []
  if done = 0 ∧ !s.asidOk t asid then .next (s.cmdFail .prot)
  else if done = 0 ∧ (n = 0 ∨ 2 ^ 52 < src + n ∨ 2 ^ 52 < dst + n) then .next (s.cmdFail .bounds)
  else if done = 0 ∧ !(s.rangeOk asid src n .read && s.rangeOk asid dst n .write) then .next (s.cmdFail .prot)
  else
    let r := s.copyRun t asid src dst n (max 1 s.ctl.arg.len) done old
    match r.2 with
    | none => .next (r.1.cmdFail .prot)
    | some (k, old) =>
      .next (r.1.cmdSet fun x =>
        if copyUnits dst n ≤ k then { x with st := 2, next := k, old := [] } else { x with st := 1, next := k, old := old })

/-! ### Semaphores, fences, events (R341) -/

/-- WAITSEM (R341, R424): complete once a value the semaphore has taken since its start reached the threshold. -/
def execWaitsem (s : State) : Host.Outcome State Fault Refusal :=
  let c := s.ctl.cmd
  let now := decide (Command.word c 1 ≤ (s.sem (Command.bits c 0 15 8) (Command.bits c 0 5 0)).toNat)
  let hit := (s.thisCmd.map fun x => x.hit).getD false
  if now || hit then .next s.cmdDone else .next s.cmdStart.cmdWaits

/-- SIGNALSEM (R341, R426). -/
def execSignalsem (s : State) : Host.Outcome State Fault Refusal :=
  let c := s.ctl.cmd
  let core := Command.bits c 0 15 8
  let idx := Command.bits c 0 5 0
  let v := BitVec.ofNat 32 (Command.word c 1)
  .next (s.semSet core idx (if Command.bits c 2 0 0 = 1 then v else semAdd (s.sem core idx) v)).cmdDone

/-- FENCE (R341): every agent that acts for packets writes through, so its release has nothing left to do. -/
def execFencePacket (s : State) : Host.Outcome State Fault Refusal := .next s.cmdDone

/-- The KIND 5 record of an EVENT (R341, R343). -/
def State.eventPacket (s : State) (c : Command) : State :=
  s.post (Command.tenant c) (eventOf 5 0 c.queue c.tag c.index (c.body.take 8 ++ List.replicate (12 - min 8 c.body.length) 0))

/-- The group that published the current command's packet causes its event: one side effect (R235). -/
def State.causedEvent (s : State) : State :=
  match s.thisPacket.bind fun p => p.cause with | some uid => s.sideEffect uid | none => s

/-! ### Resident slots (R347) -/

/-- A grid invoked from a slot has not ended, or an INVOKE that passed its CHKRES, and that does not itself come after
the current command in its ring, has not become a grid. -/
def State.slotBusy (s : State) (n : Nat) : Bool :=
  (s.lu.grids.any fun p => p.2.slot == some n && !p.2.ended) ||
  s.qi.issued.any fun p => (p.queue != s.ctl.cmd.queue || decide (p.id < s.ctl.cmd.id)) && p.cmds.any fun c => c.st == 0 && c.launch.isSome && c.ty == 2 && c.cmd.staged.map Prod.fst == some n

/-- The leaf that maps a page of a slot is pinned by another slot too, through any page of it, or by a control ring (R378,
R482). -/
def State.pinnedElse (s : State) (n asid va : Nat) : Bool :=
  let size := match s.walk asid va with | .ok w => w.2.bytes | .error _ => 65536
  (s.fw.slots.any fun q => q.1 != n && q.2.asid == asid && (slotPages q.2.ranges).any fun x => x.1 / size == va / size) ||
  s.fw.tenants.any fun p =>
    let d := p.2.toNat
    bitsOf d 143 128 == asid && decide (bitsOf d 447 384 ≤ va) && decide (va < bitsOf d 447 384 + 65536 * ctlRingPages d)

/-- The pages of a slot's ranges whose leaves nothing else pins. -/
def State.unshared (s : State) (n : Nat) (asid : Nat) (ps : List (Nat × Nat)) : List (Nat × Nat) :=
  ps.filter fun p => !s.pinnedElse n asid p.1

/-- Pages pinned or unpinned. -/
def State.setPins (s : State) (asid : Nat) (ps : List (Nat × Nat)) (on : Bool) : State :=
  ps.foldl (fun s p => s.editPage asid p.1 fun e => setBit e 9 on) s

/-- A slot's hold on a verified object. -/
def ObjEntry.pin (o : ObjEntry) (n : Nat) (on : Bool) : ObjEntry :=
  { o with pins := if on then n :: o.pins.erase n else o.pins.erase n }

/-- A slot freed: its ranges unpinned, its object released. -/
def State.freeSlot (s : State) (n : Nat) : State :=
  match SMap.find s.fw.slots n with
  | none => s
  | some sl =>
    let s := s.setPins sl.asid (s.unshared n sl.asid (slotPages sl.ranges)) false
    { s with fw := { s.fw with slots := SMap.del s.fw.slots n, objs := s.fw.objs.map fun o => o.pin n false } }

/-- The range table of a SLOTLOAD, well formed. -/
def rangeTable (n : Nat) (bs : List Byte) : Option (List (Nat × Nat × Nat)) :=
  let l := (List.range n).map fun i => (bytesAt bs (16 * i) 8, bytesAt bs (16 * i + 8) 4, bytesAt bs (16 * i + 12) 4)
  if l.all fun x => x.1 % 65536 == 0 && decide (x.2.2 ≤ 1) && decide (x.1 + x.2.1 ≤ 2 ^ 52) then some l else none

/-- SLOTLOAD (R347). -/
def execSlotload (s : State) : Host.Outcome State Fault Refusal :=
  let c := s.ctl.cmd
  let t := Command.tenant c
  let n := Command.word c 0
  let asid := if Command.bits c 1 11 0 = 0 then s.abase t else Command.bits c 1 11 0
  let owner := (SMap.find s.fw.slots n).map fun x => x.tenant
  if owner.any (· != t) then .next (s.cmdFail .priv)
  else if s.slotBusy n then .next s.cmdStart.cmdWaits
  else if !s.asidOk t asid then .next (s.cmdFail .prot)
  else
    let o := s.useObj false t asid (Command.addr c 2)
    match o.2 with
    | .error st => .next (o.1.cmdFail st)
    | .ok e =>
      let v := o.1.vaRead t (o.1.abase t) (Command.addr c 4) (16 * Command.word c 6) .read
      match v.2 with
      | none => .next (v.1.cmdFail .prot)
      | some bs =>
        match rangeTable (Command.word c 6) bs with
        | none => .next (v.1.cmdFail .bounds)
        | some l =>
          let ps := slotPages l
          let inTierOf (p : Nat × Nat) : Bool :=
            match v.1.translateIO asid p.1 with | .ok g => decide ((g.pa < lpddrBase) = (p.2 = 0)) | .error _ => false
          if !ps.all inTierOf then .next (v.1.cmdFail .prot)
          else
            let s := (v.1.freeSlot n).setPins asid ps true
            let sl : Slot := { tenant := t, asid := asid, obj := e.addr, ranges := l }
            .next { s with fw := { s.fw with
              slots := SMap.put s.fw.slots n sl,
              objs := s.fw.objs.map fun (x : ObjEntry) => if x.addr == e.addr && x.asid == asid && x.tenant == t then x.pin n true else x } }.cmdDone

/-- SLOTFREE (R347). -/
def execSlotfree (s : State) : Host.Outcome State Fault Refusal :=
  let c := s.ctl.cmd
  let n := Command.word c 0
  match SMap.find s.fw.slots n with
  | none => .next s.cmdDone
  | some sl =>
    if sl.tenant ≠ Command.tenant c then .next (s.cmdFail .priv)
    else if s.slotBusy n then .next s.cmdStart.cmdWaits
    else .next (s.freeSlot n).cmdDone

/-! ### Queue programs (R346) -/

/-- The op, the register field and the operand of a bytecode word. -/
def qOpOf (w : BitVec 16) : Nat := (w.extractLsb' 11 5).toNat
def qWordOf (w : BitVec 16) : QWord := QWord.ofBits w

/-- LOOPB and ENDB nest, no deeper than 4, from a depth on. -/
def loopsOk : List (BitVec 16) → Nat → Bool
  | [], d => d == 0
  | w :: ws, d =>
    if qOpOf w = 0x0C then decide (d < 4) && loopsOk ws (d + 1)
    else if qOpOf w = 0x0D then decide (0 < d) && loopsOk ws (d - 1)
    else loopsOk ws d

/-- One word of a queue program at its place. -/
def qWordOk (len wins : Nat) (i : Nat) (w : BitVec 16) : Bool :=
  let x := qWordOf w
  (decodeQ w).isSome &&
  (match qOpOf w with
   | 0x0A | 0x0B => decide (1 ≤ x.x.toNat) && decide (i + x.x.toNat < len)
   | 0x01 => decide ((x.x.extractLsb' 6 2).toNat < wins)
   | 0x10 => decide ((x.x.extractLsb' 0 4).toNat ≤ 7)
   | _ => true)

/-- A queue program is well formed (R346). -/
def qprogOk (ws : List (BitVec 16)) (wins : Nat) : Bool :=
  (ws.zipIdx.all fun p => qWordOk ws.length wins p.2 p.1) && loopsOk ws 0 &&
  (match ws.getLast? with | some w => qOpOf w == 0x11 || qOpOf w == 0x12 | none => false)

/-- QPROG (R346). -/
def execQprog (s : State) : Host.Outcome State Fault Refusal :=
  let c := s.ctl.cmd
  let t := Command.tenant c
  let a := s.abase t
  let n := Command.word c 2
  let q := Command.word c 3
  let p := s.vaRead t a (Command.addr c 0) (2 * n) .read
  let w := p.1.vaRead t a (Command.addr c 4) (16 * Command.word c 6) .read
  match p.2, w.2 with
  | some pb, some wb =>
    let s := w.1
    let words := (List.range n).map fun i => BitVec.ofNat 16 (bytesAt pb (2 * i) 2)
    let wins := (List.range (Command.word c 6)).map fun i => (bytesAt wb (16 * i) 8, bytesAt wb (16 * i + 8) 4)
    let zero := (List.range (Command.word c 6)).all fun i => bytesAt wb (16 * i + 12) 4 == 0
    let named (k : Nat) : Bool := words.any fun v => qOpOf v == 0x01 && ((qWordOf v).x.extractLsb' 6 2).toNat == k
    let mapped := wins.zipIdx.all fun x => !named x.2 || (x.1.1 % 4 == 0 && (x.1.2 == 0 || s.rangeOk a x.1.1 x.1.2 .read))
    if !zero then .next (s.cmdFail .resv)
    else if q % 64 = 0 || !mapped || !qprogOk words wins.length then .next (s.cmdFail .badprog)
    else
      .next { s with qi := { s.qi with
        progs := SMap.put s.qi.progs (64 * t + q % 64) { words := words, windows := wins } } }.cmdDone
  | _, _ => .next (w.1.cmdFail .prot)

/-! ### RSETUP (R352) -/

/-- Every page of a range is a RING page with R and W. -/
def State.ringPages (s : State) (asid va n : Nat) : Bool :=
  s.rwSpan asid va n &&
  (List.range ((va + n + 65535) / 65536 - va / 65536)).all fun i =>
    match s.translateIO asid (max va (65536 * (va / 65536 + i))) with | .ok p => p.kind == 2 | .error _ => false

/-- RSETUP with OP 0 (R352). -/
def execRsetupRegister (s : State) : Host.Outcome State Fault Refusal :=
  let c := s.ctl.cmd
  let t := Command.tenant c
  let a := s.abase t
  let q := 64 * t + Command.bits c 0 5 0
  let va := Command.addr c 2
  let logsize := Command.bits c 1 11 8 + 4
  if q % 64 = 0 then .next (s.cmdFail .priv)
  else if (SMap.find s.qi.rings q).isSome || va % 64 != 0 || decide (16 < logsize) then .next (s.cmdFail .resv)
  else if !s.ringPages a va (64 + 64 * 2 ^ logsize) then .next (s.cmdFail .prot)
  else
    let h := s.vaNat t a va 64 .read
    match h.2 with
    | none => .next (h.1.cmdFail .prot)
    | some v =>
      let npub := bitsOf v 143 128
      if bitsOf v 511 144 ≠ 0 ∨ bitsOf v 63 0 ≠ bitsOf v 127 64 ∨ npub = 0 ∨ 2 ^ logsize < npub then .next (h.1.cmdFail .resv)
      else
        let r : Ring :=
          { tenant := t, addr := va, logsize := logsize, npub := npub, rd := BitVec.ofNat 64 (bitsOf v 127 64),
            prio := Command.bits c 1 2 0, pre := Command.bits c 1 3 3 == 1 }
        .next { h.1 with qi := { h.1.qi with rings := SMap.put h.1.qi.rings q r } }.cmdDone

/-- RSETUP with OP 1 (R339, R352); the queue's grids keep its level until a ring is registered anew (log 43). -/
def execRsetupUnregister (s : State) : Host.Outcome State Fault Refusal :=
  let c := s.ctl.cmd
  let q := 64 * Command.tenant c + Command.bits c 0 5 0
  if q % 64 = 0 then .next (s.cmdFail .priv)
  else .next { s with qi := { s.qi with rings := SMap.del s.qi.rings q, levels := SMap.put s.qi.levels q (s.level q) } }.cmdDone

/-- RSETUP with OP 2 (R232, R341): every grid from the queue is killed. -/
def execRsetupKill (s : State) : Host.Outcome State Fault Refusal :=
  let c := s.ctl.cmd
  let q := 64 * Command.tenant c + Command.bits c 0 5 0
  let mine := (s.lu.grids.filter fun p => p.2.queue == q && !p.2.ended).map Prod.fst
  .next (mine.foldl (fun s n => s.killGrid n none) s).cmdDone

end Sys2Proof.Machine
end

