-- ==== Sys2Proof/Machine/Counters.lean ====
section
/-!
DEFINITION. The counter block and its snapshots (R427, R428), and EVENT, whose event a snapshot precedes (R341).
-/

namespace Sys2Proof.Machine

/-- The physical address of a tenant's counter block (R427). -/
def State.counterBlock (s : State) (t : Nat) : Nat :=
  (s.tenantField t 319 256 + 16 + 16 * 2 ^ s.tenantField t 191 184 + 63) / 64 * 64

/-- A count of a tenant's, as its 8 bytes. -/
def State.countBytes (s : State) (t kind unit : Nat) : List Byte :=
  leBytes 8 (SMap.get 0 s.fw.counts (countKey t kind unit)).toNat

/-- The row of a head: zero where it is not the tenant's. -/
def State.headRow (s : State) (t h : Nat) : List Byte :=
  if s.tenantField t (4 + h) (4 + h) = 1 then
    ((List.range 5).flatMap fun k => leBytes 4 (SMap.get 0 (s.head h).counters k).toNat) ++ leBytes 12 0
  else leBytes 32 0

/-- The row of a die. -/
def State.dieRow (s : State) (t d : Nat) : List Byte :=
  leBytes 8 s.fw.fabricClk.toNat ++ ((List.range 4).flatMap fun k => s.countBytes t k d) ++
  ((List.range 5).flatMap fun k => leBytes 4 (SMap.get 0 (s.die d).corrected k).toNat) ++ leBytes 4 0 ++
  ((List.range 6).flatMap fun k => s.countBytes t (4 + k) d) ++ leBytes 16 0

/-- The row of a core: zero where it is disabled (R440). -/
def State.coreRow (s : State) (t c : Nat) : List Byte :=
  if bit s.fw.cores c then
    leBytes 8 (s.core c).clk.toNat ++ ((List.range 3).flatMap fun k => s.countBytes t (10 + k) c)
  else leBytes 32 0

/-- The content of a tenant's counter block after SNAPSEQ (R427), from offset 8. -/
def State.blockBytes (s : State) (t : Nat) : List Byte :=
  leBytes 8 (SMap.get 0 s.fw.hintdrop t).toNat ++ leBytes 16 0 ++
  ((List.range 4).flatMap fun h => s.headRow t h) ++ leBytes 96 0 ++
  ((List.range 4).flatMap fun d => s.dieRow t d) ++ leBytes 256 0 ++
  ((List.range 160).flatMap fun c => s.coreRow t c) ++
  leBytes 8 s.fw.sspClk.toNat ++ leBytes 8 s.fw.mgmtClk.toNat ++ s.countBytes t 13 0 ++ leBytes 2024 0

/-- A snapshot of a tenant's counts (R427): SNAPSEQ odd, the counts, SNAPSEQ even. Count kind 14 is the
number of the tenant's snapshots. -/
def State.snapshot (s : State) (t : Nat) : State :=
  let a := s.counterBlock t
  let n := (SMap.get 0 s.fw.counts (countKey t 14 0)).toNat
  let s := s.physPuts a (leBytes 8 (2 * n + 1))
  let s := s.physPuts (a + 8) (s.blockBytes t)
  (s.physPuts a (leBytes 8 (2 * n + 2))).bump t 14 0 1

/-- COUNTER_SNAPSHOT (R427): for tenant `arg.queue`. -/
def execCounterSnapshot (s : State) : Host.Outcome State Fault Refusal :=
  let t := s.ctl.arg.queue
  if (SMap.find s.fw.tenants t).isSome then .next (s.snapshot t) else s.notDue

/-- EVENT (R341, R427): a snapshot, then its KIND 5 event. -/
def execEvent (s : State) : Host.Outcome State Fault Refusal :=
  let c := s.ctl.cmd
  let t := Command.tenant c
  .next (((if (SMap.find s.fw.tenants t).isSome then s.snapshot t else s).eventPacket c).causedEvent.cmdDone)

end Sys2Proof.Machine
end

