-- ==== Sys2Proof/Machine/Lnch.lean ====
section
/-!
DEFINITION. LNCH (R354, R355): a thread posts a packet with a share of its grid's weight.
-/

namespace Sys2Proof.Machine

/-- A page that is not a RING page fails LNCH (R355). -/
def needRing (t : DWord) (r : Except Bad Place) : Except Bad Place :=
  match r with
  | .ok (.glob p) => if p.kind = 2 then r else .error { ord := 4, cause := .prot, tval := t, xl := 0 }
  | r => r

/-- The shares that n lanes take of a weight, in lane order, and what is left; none where some lane meets
the weight 1. -/
def takeShares : Nat → Nat → Option (List Nat × Nat)
  | 0, w => some ([], w)
  | n + 1, w => if w = 1 then none else (takeShares n (w - w / 2)).map fun r => (w / 2 :: r.1, r.2)

/-- WEIGHT, PARENT and VALID of a packet: its bytes 48 to 63 (R335, R355). -/
def lnchWord (take grid : Nat) (r : Word) : Nat := take % 2 ^ 64 + 2 ^ 64 * (grid % 2 ^ 32) + 2 ^ 96 * (r + 1).toNat

/-- A grid's weight. -/
def State.weight (s : State) (grid : Nat) : Nat := match SMap.find s.lu.grids grid with | some g => g.weight | none => 0
def State.setWeight (s : State) (grid w : Nat) : State :=
  match SMap.find s.lu.grids grid with
  | some g => { s with lu := { s.lu with grids := SMap.put s.lu.grids grid { g with weight := w } } }
  | none => s

/-- The last 16 bytes of the threads' packets stored, with their shares (R335, R355). -/
def TEnv.lnchStores (e : TEnv) (s : State) (l : List ((Nat × Except Bad Place) × Nat)) : State :=
  l.foldl (fun s q =>
    match q.1.2 with
    | .ok (.glob p) =>
      (s.gStore e.g.core e.g.tenant e.scope (p.at 48) 16 (lnchWord q.2 e.g.grid (e.int 3 q.1.1))).wroteRing e.g.uid (p.at 48) 16
    | _ => s) s

/-- LNCH (R355). -/
def lnchBody (e : TEnv) : TRes :=
  if e.poisoned &&& e.parts != 0 then .trap .poison 0
  else
    let c := e.checkAll e.base .global 64 .write (lanesOf e.parts)
    let l := c.2.map fun p => (p.1, needRing (e.globalAddr p.1) p.2)
    match firstBad l with
    | some (_, b) => b.res c.1 1
    | none =>
      match takeShares l.length (e.base.weight e.g.grid) with
      | none => .trap .weightexh 0
      | some (shares, left) =>
        if e.parts = 0 then .ok e.base e.w 0
        else
          let s := (c.1.setWeight e.g.grid left).release e.g.tenant e.g.core e.scope
          .ok ((e.lnchStores s (l.zip shares)).sideEffect e.g.uid) e.w 0

def execLnch (w : TWord) (s : State) : Host.Outcome State Fault Refusal := tIssue 0x6D w s lnchBody

end Sys2Proof.Machine
end

