-- ==== Sys2Proof/Machine/Outside.lean ====
section
/-!
DEFINITION. Where the module meets the world: host and peer requests and events (R431 to R434), operator
messages (R435, R442), bring-up (R438 to R441), power and heat (R443, R444), links (R437) and errors (R234).
-/

namespace Sys2Proof.Machine

/-! ### Requests of queue pairs (R273, R274, R431, R432) -/

/-- A message that the module sends. -/
def State.send (s : State) (x : Sent) : State := { s with ctl := { s.ctl with out := s.ctl.out ++ [x] } }

/-- A step of a module that is up. -/
def State.whenUp (s : State) (r : Host.Outcome State Fault Refusal) : Host.Outcome State Fault Refusal :=
  if s.fw.up then r else .fault .down

/-- A step on queue pair `arg.qp`, bound; one in the error state drops its requests (log 15). -/
def State.onPair (s : State) (f : QPair → Host.Outcome State Fault Refusal) : Host.Outcome State Fault Refusal :=
  match SMap.find s.fw.qps s.ctl.arg.qp with
  | none => s.notDue
  | some q => s.whenUp (if q.err then .next s else f q)

/-- The R_Key of a request matches its queue pair's tenant (R432); none matches the operator's, which has no tenant. -/
def QPair.keyOk (q : QPair) (rkey : Nat) : Bool := rkey == q.tenant && decide (rkey < 16)

/-- A NAK with invalid request puts the queue pair into its error state (R431, R432). -/
def State.nakInvalid (s : State) (n : Nat) (q : QPair) : State :=
  { s with fw := { s.fw with qps := SMap.put s.fw.qps n { q with err := true } } }.send (.nakInvalid n)

/-- Blocks whose VALID word the host has written: no group has published what they hold now (R235). -/
def State.unposted (s : State) (asid va n : Nat) : State :=
  let at60 (k : Nat) : Bool := (List.range n).any fun i =>
    match s.translateIO asid (va + i) with | .ok p => p.pa / 64 == k && decide (60 ≤ p.pa % 64) | .error _ => false
  { s with qi := { s.qi with posters := s.qi.posters.filter fun p => !at60 p.1 } }

/-- The firmware's test of a tenant's log after a host write of the bytes at a virtual address (R384). -/
def State.logWritten (s : State) (t asid va n : Nat) : State :=
  let s := s.unposted asid va n
  let base := s.tenantField t 319 256
  let hit := (List.range n).any fun i =>
    match s.translateIO asid (va + i) with | .ok p => decide (base ≤ p.pa) && decide (p.pa < base + 16) | .error _ => false
  if hit then
    (List.range 4).foldl (fun s d => s.drainAll d ((s.die d).faults.length + (s.die d).late.length)) s
  else s

/-- RDMA_WRITE (R273, R432): `arg.bytes` at `arg.va`, on queue pair `arg.qp`. -/
def execRdmaWrite (s : State) : Host.Outcome State Fault Refusal :=
  let a := s.ctl.arg
  s.onPair fun q =>
    let asid := s.abase q.tenant
    if !(q.keyOk a.rkey && s.rangeOk asid a.va a.bytes.length .hostWrite) then .next (s.send (.nakAccess a.qp))
    else
      match s.vaWrite asid a.va .hostWrite a.bytes with
      | none => .next (s.send (.nakAccess a.qp))
      | some s => .next ((s.logWritten q.tenant asid a.va a.bytes.length).send (.ack a.qp))

/-- RDMA_READ (R274, R432): `arg.len` bytes at `arg.va`. -/
def execRdmaRead (s : State) : Host.Outcome State Fault Refusal :=
  let a := s.ctl.arg
  s.onPair fun q =>
    let asid := s.abase q.tenant
    if !(q.keyOk a.rkey && s.rangeOk asid a.va a.len .hostRead) then .next (s.send (.nakAccess a.qp))
    else
      let r := s.vaRead q.tenant asid a.va a.len .hostRead
      match r.2 with
      | none => .next (r.1.send (.nakAccess a.qp))
      | some bs => .next (r.1.send (.readAnswer a.qp bs))

/-- An 8-byte atomic of a queue pair, performed at .sys and counted where that is at a home agent; its answer holds the
old value (R427, R432). -/
def State.hostAtomic (s : State) (f : Nat → Nat) : Host.Outcome State Fault Refusal :=
  let a := s.ctl.arg
  s.onPair fun q =>
    let asid := s.abase q.tenant
    if a.va % 8 ≠ 0 then .next (s.nakInvalid a.qp q)
    else
      match s.pageIO asid a.va .hostRead, s.pageIO asid a.va .hostWrite, q.keyOk a.rkey with
      | some p, some _, true =>
        let s := if p.kind = 0 then s.bump q.tenant 9 (homeDie p.pa) 1 else s
        let r := s.devRead q.tenant p 8
        .next (((r.1.devWrite p 8 (f r.2)).logWritten q.tenant asid a.va 8).send (.readAnswer a.qp (leBytes 8 r.2)))
      | _, _, _ => .next (s.send (.nakAccess a.qp))

/-- RDMA_FETCH_ADD (R432): `arg.val` added to the 8 bytes at `arg.va`. -/
def execRdmaFetchAdd (s : State) : Host.Outcome State Fault Refusal :=
  s.hostAtomic fun old => (old + s.ctl.arg.val.toNat) % 2 ^ 64

/-- RDMA_COMPARE_SWAP (R432): `arg.val` written where the 8 bytes equal `arg.cmp`. -/
def execRdmaCompareSwap (s : State) : Host.Outcome State Fault Refusal :=
  s.hostAtomic fun old => if old = s.ctl.arg.cmp.toNat then s.ctl.arg.val.toNat else old

/-- RDMA_INVALID_REQUEST (R431): a request outside the subset. -/
def execRdmaInvalidRequest (s : State) : Host.Outcome State Fault Refusal :=
  s.onPair fun q => .next (s.nakInvalid s.ctl.arg.qp q)

/-- CONGESTION_NOTIFICATION (R431): an ECN mark on a queue pair's packet. -/
def execCongestionNotification (s : State) : Host.Outcome State Fault Refusal :=
  s.onPair fun _ => .next (s.send (.cnp s.ctl.arg.qp))

/-! ### Events to the host (R433, R434) -/

/-- The first waiting event of a tenant, and the list without it. -/
def takeEvent (t : Nat) : List (Nat × BitVec 512) → Option (BitVec 512 × List (Nat × BitVec 512))
  | [] => none
  | x :: l => if x.1 = t then some (x.2, l) else (takeEvent t l).map fun r => (r.1, x :: r.2)

/-- The zero fields of an event target record, as a 64-byte number (R433). -/
def targetZeros (v : Nat) : Bool := bitsOf v 511 256 == 0 && bitsOf v 135 129 == 0

/-- EVENT_SEND (R434): the oldest event of tenant `arg.queue`, where its ring has room. While a zero field of the target record is
not 0 the record fails and its events wait: R433 names no status for it (R6, log 60). -/
def execEventSend (s : State) : Host.Outcome State Fault Refusal :=
  let t := s.ctl.arg.queue
  let rec_ := s.tenantField t 255 192
  let n := s.physNat rec_ 8
  let raddr := s.physNat (rec_ + 8) 8
  let hostrd := s.physNat (rec_ + 24) 8
  let size := 2 ^ s.tenantField t 183 176
  let target (h l : Nat) : Nat := bitsOf (s.physNat rec_ 32) h l
  match (SMap.find s.fw.tenants t).bind fun _ => takeEvent t s.fw.events with
  | none => s.notDue
  | some (e, l) =>
    s.whenUp
      (if !targetZeros (s.physNat rec_ 64) || decide (hostrd + size ≤ n) then .next { s with ctl := { s.ctl with wait := true } }
       else
         let s := { s with fw := { s.fw with events := l } }.physPuts rec_ (leBytes 8 ((n + 1) % 2 ^ 64))
         .next (s.send (.event t (target 128 128) (target 159 136) (target 191 160) (BitVec.ofNat 64 (raddr + 64 * (n % size))) e)))

/-! ### Operator messages (R435, R442) -/

/-- A list of exactly n bytes. -/
def padTo (n : Nat) (l : List Byte) : List Byte := (l ++ List.replicate n 0).take n

/-- Bytes 0 to 927 of an attestation report (R442). -/
def State.reportBody (s : State) (nonce : List Byte) : List Byte :=
  let f := s.fw
  let present := maskOf 16 16 fun t => (SMap.find s.fw.tenants t).isSome
  padTo 48 nonce ++ padTo 48 (Config.sha384 f.running) ++ padTo 48 (Config.sha384 f.config) ++
  leBytes 4 (bytesAt f.config 8 4) ++ leBytes 4 f.flash.rollback.toNat ++ leBytes 2 present.toNat ++ leBytes 6 0 ++
  (List.range 16).flatMap fun t =>
    match SMap.find s.fw.tenants t with
    | some r => padTo 48 (Config.sha384 (leBytes 64 r.toNat))
    | none => leBytes 48 0

/-- The report: the body and the two signatures over it (R442). -/
def State.report (s : State) (nonce : List Byte) : List Byte :=
  let b := s.reportBody nonce
  b ++ padTo 96 (Config.ecdsaSign b) ++ padTo 3604 (Config.hssSign s.fw.flash.leaf b)

/-- The next leaf index in flash, with the monotonic counter advanced or not (R441). -/
def Flash.nextLeaf (f : Flash) (adv : Bool) : Flash :=
  { f with leaf := f.leaf + 1, mono := if adv then f.mono + 1 else f.mono }

/-- A message on the operator queue pair, which its error state drops (R431, R435). -/
def State.onOperator (s : State) (r : Host.Outcome State Fault Refusal) : Host.Outcome State Fault Refusal :=
  s.whenUp (if (SMap.find s.fw.qps 0).any fun q => q.err then .next s else r)

/-- ATTEST (R442): the nonce is `arg.bytes`. With every one of the 2^40 signatures spent it is refused (R441, log 52). -/
def execAttest (s : State) : Host.Outcome State Fault Refusal :=
  if s.ctl.arg.bytes.length ≠ 48 then s.notDue
  else if 2 ^ 40 ≤ s.fw.flash.leaf then s.onOperator (.next (s.send .refused))
  else
    s.onOperator (.next ({ s with fw := { s.fw with flash := s.fw.flash.nextLeaf true } }.send
      (.answer (s.report s.ctl.arg.bytes))))

/-- A signed message of the operator passes its check (R435): kind 1 PROVISION, 2 UPDATE, 3 RESET. -/
def State.opSigned (s : State) (kind : Nat) : Bool :=
  let a := s.ctl.arg
  let key := configKey s.fw.config 16
  let msg := BitVec.ofNat 8 kind :: BitVec.ofNat 8 a.ch :: (a.bytes ++ leBytes 8 a.signed.counter.toNat)
  decide (s.fw.flash.opctr.toNat < a.signed.counter.toNat) &&
  Config.ecdsaVerify key.1 msg a.signed.ecdsa && Config.lmsVerify key.2 msg a.signed.lms

/-- An operator message of a kind, refused or with its effect (R435). -/
def State.operator (s : State) (kind : Nat) (f : State → Option State) : Host.Outcome State Fault Refusal :=
  s.onOperator
    (if !s.opSigned kind then .next (s.send .refused)
     else
       let s := { s with fw := { s.fw with flash := { s.fw.flash with opctr := s.ctl.arg.signed.counter } } }
       match f s with
       | none => .next (s.send .refused)
       | some s => .next s)

/-- Bytes that lie in the HBM allotment of a tenant record (R375). -/
def inHbmOf (d a n : Nat) : Bool :=
  decide (2 ^ 30 * bitsOf d 111 96 ≤ a) && decide (a + n ≤ 2 ^ 30 * (bitsOf d 111 96 + bitsOf d 127 112))

/-- The fields of a tenant record hold values that R375 allows: the hotness table (R388), the fault log (R384) and the event
target record (R433) lie in its HBM allotment. -/
def recordOk (d : Nat) : Bool :=
  let f (h l : Nat) : Nat := bitsOf d h l
  inHbmOf d (f 383 320) (1024 * (f 127 112 + f 95 80)) && inHbmOf d (f 319 256) (16 + 16 * 2 ^ f 191 184) &&
  inHbmOf d (f 255 192) 64 &&
  f 511 484 == 0 && f 175 160 == 0 && f 63 8 == 0 && decide (f 483 480 ≤ 12) &&
  decide (4 ≤ f 191 184) && decide (f 191 184 ≤ 16) && decide (4 ≤ f 183 176) && decide (f 183 176 ≤ 16) &&
  f 159 144 % 16 == 0 && decide (16 ≤ f 159 144) && decide (f 159 144 ≤ 4080) &&
  f 143 128 % 16 == 0 && decide (16 ≤ f 143 128) && decide (f 143 128 + f 159 144 ≤ 4096) &&
  decide (4 ≤ f 111 96) && decide (2 ^ 30 * (f 111 96 + f 127 112) ≤ hbmEnd) &&
  decide (lpddrBase + 2 ^ 30 * (f 79 64 + f 95 80) ≤ lpddrEnd) &&
  f 383 320 % 128 == 0 && f 319 256 % 64 == 0

/-- Two runs of numbers do not meet. -/
def apart (a n b m : Nat) : Bool := n == 0 || m == 0 || decide (a + n ≤ b) || decide (b + m ≤ a)

/-- Two tenant records share no ASID, no byte and no head (R375, R435). -/
def recordsApart (d e : Nat) : Bool :=
  let f (x h l : Nat) : Nat := bitsOf x h l
  apart (f d 143 128) (f d 159 144) (f e 143 128) (f e 159 144) &&
  apart (f d 111 96) (f d 127 112) (f e 111 96) (f e 127 112) &&
  apart (f d 79 64) (f d 95 80) (f e 79 64) (f e 95 80) && f d 7 4 &&& f e 7 4 == 0

/-- The control ring of a record keeps R482. -/
def State.ctlRingOk (s : State) (d : Nat) : Bool :=
  let pa := 65536 * bitsOf d 479 448
  let va := bitsOf d 447 384
  inHbmOf d pa (ctlRingSpan d) && va % 65536 == 0 &&
  decide (va + ctlRingSpan d ≤ 2 ^ 52) &&
  (List.range (ctlRingPages d)).all fun i =>
    match s.walk (bitsOf d 143 128) (va + 65536 * i) with | .ok _ => false | .error _ => true

/-- A tenant has a grid, a ring, or a head allotted to it that is enabled (R435). -/
def State.tenantBusy (s : State) (t : Nat) : Bool :=
  (s.qi.rings.any fun p => p.2.tenant == t) ||
  (s.lu.grids.any fun p => p.2.queue / 64 == t && !p.2.ended) ||
  (List.range 4).any fun h => (s.head h).on && (s.tenantField t (4 + h) (4 + h) == 1)

/-- The queue pairs that a provisioning binds (R431, log 15): each three bytes, its number and its port. -/
def pairsOf (t : Nat) : List Byte → List (Nat × QPair)
  | a :: b :: p :: l =>
    let n := a.toNat + 256 * b.toNat
    if 1 ≤ n ∧ n < 1024 ∧ p.toNat ≤ 1 then (n, { tenant := t, port := p.toNat, err := false }) :: pairsOf t l
    else pairsOf t l
  | _ => []

/-- The tenant record written, its counts cleared and its queue pairs bound (R428, R431, R435). -/
def State.putTenant (s : State) (t d : Nat) (pairs : List (Nat × QPair)) : State :=
  { s with fw := { s.fw with
      tenants := SMap.put s.fw.tenants t (BitVec.ofNat 512 d),
      hintdrop := SMap.del s.fw.hintdrop t,
      counts := s.fw.counts.filter fun p => p.1 / 4096 != t,
      qps := pairs.foldl (fun m p => if (SMap.find m p.1).isSome then m else SMap.put m p.1 p.2) s.fw.qps } }

/-- The control ring mapped, its header written and the ring registered (R482). -/
def State.putCtlRing (s : State) (t d : Nat) : State :=
  let asid := bitsOf d 143 128
  let pa := 65536 * bitsOf d 479 448
  let va := bitsOf d 447 384
  let pte (i : Nat) : DWord := BitVec.ofNat 64 (2 ^ 24 * (pa / 65536 + i) + 0x2AF)
  let s := (List.range (ctlRingPages d)).foldl (fun s i => s.mapLeaf asid (va + 65536 * i) 3 (pte i)) s
  let hdr := leBytes 16 0 ++ leBytes 2 1 ++ leBytes 46 0
  let s := hdr.zipIdx.foldl
    (fun s b => s.devStore 2 ((pa + b.2) / 128) (byteMask ((pa + b.2) % 128) 1) (natLine b.1.toNat ((pa + b.2) % 128))) s
  let r : Ring := { tenant := t, addr := va, logsize := bitsOf d 483 480 + 4, npub := 1, rd := 0, prio := 7, pre := false }
  { s with qi := { s.qi with rings := SMap.put s.qi.rings (64 * t) r } }

/-- SENT, HOSTRD and the zero fields of a tenant's event target record at their reset value; PORT stays (R433). -/
def State.zeroTarget (s : State) (d : Nat) : State :=
  let a := bitsOf d 255 192
  ((s.physPuts a (leBytes 8 0)).physPuts (a + 16) (leBytes 1 (s.physNat (a + 16) 1 % 2))).physPuts (a + 24) (leBytes 40 0)

/-- What PROVISION does with a record (R375, R428, R435, R482); none where it is refused. -/
def State.provision (s : State) (bs : List Byte) : Option State :=
  let d := bytesAt bs 0 64
  let t := bitsOf d 3 0
  if !recordOk d || s.tenantBusy t || s.fw.tenants.any (fun p => p.1 != t && !recordsApart d p.2.toNat) ||
      !s.ctlRingOk d then none
  else some (((s.putTenant t d (pairsOf t (bs.drop 64))).putCtlRing t d).zeroTarget d)

/-- PROVISION (R435): the record is the first 64 bytes of `arg.bytes`. -/
def execProvision (s : State) : Host.Outcome State Fault Refusal :=
  s.operator 1 fun s => (s.provision s.ctl.arg.bytes).map fun x => x.send (.answer [])

/-- Module flash with an image or the configuration record replaced. -/
def Flash.update (f : Flash) (n : Nat) (bs : List Byte) : Flash :=
  match n with | 0 => { f with imageA := bs } | 1 => { f with imageB := bs } | _ => { f with config := bs }

/-- UPDATE (R435): `arg.ch` says what `arg.bytes` replaces, 0 image A, 1 image B, 2 the configuration record. -/
def execUpdate (s : State) : Host.Outcome State Fault Refusal :=
  s.operator 2 fun s =>
    some ({ s with fw := { s.fw with flash := s.fw.flash.update s.ctl.arg.ch s.ctl.arg.bytes } }.send (.answer []))

/-! ### Bring-up (R438 to R441) -/

/-- An image that the ROM accepts (R438, step 2; R439, ROLLMIN). -/
def Flash.imageOk (f : Flash) (img : List Byte) : Bool :=
  Config.imageVerify img && decide (f.rollback.toNat ≤ Config.imageVersion img)

/-- The fields of a configuration record (R439): MAGIC, the zero fields, and NKEYS and PWRCAP in their ranges. -/
def configFields (c : List Byte) : Bool :=
  bytesAt c 0 4 == 0x43464753 && bytesAt c 13 3 == 0 && bitsOf (bytesAt c 38 2) 15 2 == 0 && bytesAt c 52 12 == 0 &&
  bytesAt c 2648 40 == 0 && decide (1 ≤ configNkeys c) && decide (configNkeys c ≤ 16) &&
  decide (500 ≤ bytesAt c 36 2) && decide (bytesAt c 36 2 ≤ 2000)

/-- The configuration record passes step 3 of R438: its fields (R6, R439) and the zero bytes of its signature block (R392),
VERSION is not below the counter, and ROLLMIN is not above the running image's version. -/
def Flash.configOk (f : Flash) (img : List Byte) : Bool :=
  let sg := f.config.drop 2688
  configFields f.config && bytesAt sg 96 32 == 0 &&
  let msg := f.config.take 2688
  Config.ecdsaVerify Config.vendorKeys.1 msg (sg.take 96) && Config.lmsVerify Config.vendorKeys.2 msg ((sg.drop 128).take 1772) &&
  decide (f.rollback.toNat ≤ bytesAt f.config 4 4) && decide (bytesAt f.config 8 4 ≤ Config.imageVersion img)

/-- The module without power, or whose bring-up has failed: only flash holds. -/
def State.dead (s : State) (f : Flash) : State :=
  { State.reset with
    fw := { Firmware.reset with up := false, flash := f },
    ctl := { s.ctl with cur := .none, wait := false, bandFault := none, struck := none, latch := Latch.off } }

/-- The two ports as a configuration record sets them (R438, step 4; R439). -/
def configPorts (c : List Byte) : List Port :=
  (List.range 2).map fun p => { fast := bit (BitVec.ofNat 2 (bytesAt c 38 1)) p, mac := BitVec.ofNat 48 (bytesAt c (40 + 6 * p) 6) }

/-- Bring-up (R438) over a memory: the module up with the image that verifies, or dead. -/
def State.bringUp (s : State) (f : Flash) (mem : List Host.Cell) : State :=
  let pick : Option Nat := if f.imageOk f.imageA then some 0 else if f.imageOk f.imageB then some 1 else none
  match pick with
  | none => s.dead f
  | some n =>
    let img := if n = 0 then f.imageA else f.imageB
    if !f.configOk img then s.dead f
    else
      let f := { f with rollback := BitVec.ofNat 32 (max f.rollback.toNat (Config.imageVersion img)) }
      let s := s.dead f
      { s with mem := mem,
               fw := { s.fw with
                 up := true, image := n, running := img, config := f.config, ports := configPorts f.config,
                 cores := BitVec.ofNat 160 (bytesAt f.config 16 20) } }

/-- RESET (R435, R438): an accepted one answers, then brings the module up; memory keeps its bytes. -/
def execReset (s : State) : Host.Outcome State Fault Refusal :=
  s.operator 3 fun s => some ((s.send (.answer [])).bringUp s.fw.flash s.mem)

/-- POWER_ON (R438). -/
def execPowerOn (s : State) : Host.Outcome State Fault Refusal := .next (s.bringUp s.fw.flash [])

/-- INPUT_POWER_REMOVED (R441, R445): only flash keeps its contents; `arg.ch` 1 says that it came between the
write of a leaf index and the counter's advance. -/
def execInputPowerRemoved (s : State) : Host.Outcome State Fault Refusal :=
  let f := if s.ctl.arg.ch = 1 ∧ s.fw.up then s.fw.flash.nextLeaf false else s.fw.flash
  let d := s.dead f
  .next { d with fw := { d.fw with removed := true } }

/-! ### Power and heat (R443, R444) -/

/-- POWER_MEASURE (R443): `arg.val` is the measured power in mW. -/
def execPowerMeasure (s : State) : Host.Outcome State Fault Refusal :=
  let p := s.ctl.arg.val.toNat
  let cap := bytesAt s.fw.config 36 2 * 1000
  let k := s.fw.gate
  let k := if cap < p then min 15 (k + 1) else if p * 100 < 95 * cap then k - 1 else k
  s.whenUp (.next { s with fw := { s.fw with gate := k } })

/-- THERMAL_STOP (R444): the core clk of every core stops. -/
def execThermalStop (s : State) : Host.Outcome State Fault Refusal := s.whenUp (.next { s with fw := { s.fw with stopped := true } })

/-- THERMAL_RESTART (R444). -/
def execThermalRestart (s : State) : Host.Outcome State Fault Refusal := s.whenUp (.next { s with fw := { s.fw with stopped := false } })

/-- THERMAL_SHUTDOWN (R444): power is removed from all dies, until the next power-on. -/
def execThermalShutdown (s : State) : Host.Outcome State Fault Refusal := s.whenUp (.next (s.dead s.fw.flash))

/-! ### Display links (R437) -/

/-- LINK_LOSS (R437): head `arg.head`. -/
def execLinkLoss (s : State) : Host.Outcome State Fault Refusal :=
  s.whenUp (.next (s.setHead s.ctl.arg.head { s.head s.ctl.arg.head with link := false }))

/-- LINK_RETRAIN (R437): at the same rate. -/
def execLinkRetrain (s : State) : Host.Outcome State Fault Refusal :=
  s.whenUp (.next (s.setHead s.ctl.arg.head { s.head s.ctl.arg.head with link := true }))

/-! ### Errors (R234, R194, R216) -/

/-- CORRECTABLE_ERROR (R234, R427, R428): die `arg.die`, in `arg.ch`: 0 register files, 1 scratchpad, 2 L1, 3
die cache, 4 memory. -/
def execCorrectableError (s : State) : Host.Outcome State Fault Refusal :=
  let d := s.ctl.arg.die
  let n := (SMap.get 0 (s.die d).corrected s.ctl.arg.ch).toNat
  if 4 ≤ d ∨ 5 ≤ s.ctl.arg.ch then s.notDue
  else
    s.whenUp (.next (s.setDie d { s.die d with
      corrected := SMap.set 0 (s.die d).corrected s.ctl.arg.ch (BitVec.ofNat 32 (min 0xFFFFFFFF (n + 1))) }))

/-- Bytes of a core's L1 destroyed by an error. -/
def State.destroyL1 (s : State) (c pa n : Nat) : State :=
  (List.range n).foldl
    (fun s i =>
      let ln := (pa + i) / 128
      let l := s.l1Line c ln
      let m := ~~~byteMask ((pa + i) % 128) 1
      s.setL1Line c ln (if l.valid &&& m = 0 then Line.none else { l with valid := l.valid &&& m, dirty := l.dirty &&& m })) s

/-- Bytes marked (R234). -/
def State.mark (s : State) (mem : Bool) (pa n : Nat) : State :=
  { s with fw := { s.fw with marked := (List.range n).foldl (fun m i => SMap.put m (pa + i) mem) s.fw.marked } }

/-- UNCORRECTABLE_ERROR (R234, R194, R216): where `arg.soft` says; in an L1 the bytes destroyed are those from
`arg.va`, `arg.len` of them; in a working bank the head of the array
queue runs as far as chunk `arg.len`. One in a line core that waits in BANDI.NEXT marks the band that it has ended, and one
in an idle line core nothing (log 60). -/
def execUncorrectableError (s : State) : Host.Outcome State Fault Refusal :=
  let a := s.ctl.arg
  match a.soft with
  | .group uid loc =>
    match s.group? uid with
    | none => s.notDue
    | some g =>
      if 3 ≤ loc then s.notDue
      else .next ((if loc = 2 then s.destroyL1 g.core a.va a.len else s).strike uid loc)
  | .clean c => s.whenUp (.next (s.evict c))
  | .marked loc pa n => if loc = 3 ∨ loc = 4 then s.whenUp (.next (s.mark (loc == 4) pa n)) else s.notDue
  | .workingBank core =>
    let r := s.freeNat
    r.1.taStart core (some (a.len, r.2 % 2 ^ 22))
  | .lineCore n => if (s.line n).st = .idle then s.notDue else .next (s.bandFaultOf n 8)

end Sys2Proof.Machine
end

