-- ==== Sys2Proof/Machine/Sample.lean ====
section
/-!
DEFINITION. SAMPLE and texture descriptors (R415 to R421).
-/

namespace Sys2Proof.Machine

/-! ### Texture descriptors (R415, R416) -/

/-- A texture descriptor's fields. -/
structure Tex where
  base : Nat
  row : Nat
  slice : Nat
  size : List Nat
  levels : Nat
  fmt : Nat
  is3d : Bool
  addr : List Nat
  lin : Bool
  miplin : Bool
  border : List Word
  deriving DecidableEq, Repr

/-- The fields of a descriptor's 512 bits. -/
def texOf (d : Nat) : Tex :=
  { base := bitsOf d 63 0, row := bitsOf d 95 64, slice := bitsOf d 127 96,
    size := [bitsOf d 141 128 + 1, bitsOf d 155 142 + 1, bitsOf d 169 156 + 1],
    levels := bitsOf d 173 170, fmt := bitsOf d 177 174, is3d := bitsOf d 178 178 == 1,
    addr := [bitsOf d 180 179, bitsOf d 182 181, bitsOf d 184 183],
    lin := bitsOf d 185 185 == 1, miplin := bitsOf d 186 186 == 1,
    border := (List.range 4).map fun i => BitVec.ofNat 32 (bitsOf d (256 + 32 * i + 31) (256 + 32 * i)) }

/-- Bytes of a texel; 1 for a reserved format, which constrains nothing. -/
def Tex.bytes (x : Tex) : Nat := match x.fmt with | 0 | 3 => 4 | 1 => 16 | 2 => 8 | _ => 1

/-- The size of axis c at level l (R416). -/
def Tex.dim (x : Tex) (c l : Nat) : Nat := max 1 ((x.size[c]?).getD 1 / 2 ^ l)

/-- The lowest bit of the lowest field that breaks R415 or R416. -/
def texBad (d : Nat) : Option Nat :=
  let x := texOf d
  let n := x.bytes
  let w := x.dim 0 0
  let h := x.dim 1 0
  let bad : List (Bool × Nat) :=
    [(x.base % n != 0, 0),
     (x.row % n != 0 || (decide (x.fmt < 4) && (decide (x.row < w * n) || (x.levels != 0 && x.row != w * n))), 64),
     (if x.is3d then x.slice % n != 0 || decide (x.slice < x.row * h) || (x.levels != 0 && x.slice != x.row * h)
      else x.slice != 0, 96),
     (!x.is3d && bitsOf d 169 156 != 0, 156), (x.levels == 15, 170), (decide (4 ≤ x.fmt), 174),
     (!x.is3d && bitsOf d 184 183 != 0, 183), (bitsOf d 255 187 != 0, 187), (bitsOf d 511 384 != 0, 384)]
  (bad.find? fun p => p.1).map Prod.snd

/-- Start, row pitch and slice pitch of level l (R416). -/
def Tex.level (x : Tex) : Nat → Nat × Nat × Nat
  | 0 => (x.base, x.row, x.slice)
  | l + 1 =>
    let p := x.level l
    let len := if x.is3d then p.2.2 * x.dim 2 l else p.2.1 * x.dim 1 l
    let row := x.dim 0 (l + 1) * x.bytes
    ((p.1 + len + 127) / 128 * 128, row, row * x.dim 1 (l + 1))

/-- The texel of an axis that an index maps to (R419); none is the border. -/
def texIndex (mode : Nat) (i : Int) (n : Nat) : Option Nat :=
  match mode with
  | 0 => some (satInt i 0 ((n : Int) - 1)).toNat
  | 1 => some (i % (n : Int)).toNat
  | 2 => let m := (i % (2 * (n : Int))).toNat; some (if m < n then m else 2 * n - 1 - m)
  | _ => if i < 0 ∨ (n : Int) ≤ i then none else some i.toNat

/-- The address of a texel of level l; none for the border texel. -/
def Tex.texel (x : Tex) (l : Nat) (i j k : Int) : Option Nat :=
  let p := x.level l
  let mode (c : Nat) : Nat := (x.addr[c]?).getD 0
  match texIndex (mode 0) i (x.dim 0 l), texIndex (mode 1) j (x.dim 1 l),
      (if x.is3d then texIndex (mode 2) k (x.dim 2 l) else some 0) with
  | some i, some j, some k => some ((p.1 + k * p.2.2 + j * p.2.1 + x.bytes * i) % 2 ^ 64)
  | _, _, _ => none

/-- A texel's four channels (R416). -/
def Tex.decode (x : Tex) (v : Nat) : List Word :=
  let half (f : Fmt) (i : Nat) : Word := f32r .rne (f.decode (v / 2 ^ (16 * i) % 2 ^ 16))
  match x.fmt with
  | 0 => [BitVec.ofNat 32 v, 0, 0, 0x3F800000]
  | 1 => (List.range 4).map fun i => BitVec.ofNat 32 (v / 2 ^ (32 * i))
  | 2 => (List.range 4).map (half fp16)
  | _ => [half bf16 0, half bf16 1, 0, 0x3F800000]

/-! ### The computation of R418 -/

/-- Axes that a texture uses. -/
def Tex.axes (x : Tex) : List Nat := if x.is3d then [0, 1, 2] else [0, 1]

/-- The index and the exact fraction on axis c at level l; the fraction is 0 without LIN. -/
def Tex.place (x : Tex) (coord : Nat → Word) (l c : Nat) : Int × Rat :=
  let t := satWord (fmul .rne (coord c) (intWord (x.dim c l))) (intWord (-(2 ^ 24))) (intWord (2 ^ 24))
  if x.lin then
    let v := fsub .rne t 0x3F000000
    (floorWord v, (f32v v).toRat - floorWord v)
  else (floorWord t, 0)

/-- The texels that a level's fetch uses: offsets along u first, then v, then w. -/
def Tex.corners (x : Tex) : List (Int × Int × Int) :=
  if !x.lin then [(0, 0, 0)]
  else
    let two := [(0, 0, 0), (1, 0, 0), (0, 1, 0), (1, 1, 0)]
    if x.is3d then two ++ [(0, 0, 1), (1, 0, 1), (0, 1, 1), (1, 1, 1)] else two

/-- The texels of a fetch at level l, none for the border. -/
def Tex.footprint (x : Tex) (coord : Nat → Word) (l : Nat) : List (Option Nat) :=
  let i := (x.place coord l 0).1
  let j := (x.place coord l 1).1
  let k := if x.is3d then (x.place coord l 2).1 else 0
  x.corners.map fun o => x.texel l (i + o.1) (j + o.2.1) (k + o.2.2)

/-- fetch(l), from the footprint's texels as read. -/
def Tex.blend (x : Tex) (coord : Nat → Word) (l : Nat) (ts : List (List Word)) : List Word :=
  let fu := (x.place coord l 0).2
  let fv := (x.place coord l 1).2
  (List.range 4).map fun ch =>
    let t (i : Nat) : Word := (((ts[i]?).getD [])[ch]?).getD 0
    let plane (b : Nat) : Word := lerpExact (lerpExact (t b) (t (b + 1)) fu) (lerpExact (t (b + 2)) (t (b + 3)) fu) fv
    if !x.lin then t 0 else if x.is3d then lerpExact (plane 0) (plane 4) (x.place coord l 2).2 else plane 0

/-- The level of R418, from the derivatives of the used axes or from an explicit level. -/
def Tex.lambda (x : Tex) (explicit : Bool) (fourth : Word) (dx dy : List Word) : Word :=
  let sq (l : List Word) : Word := f32r .rne (FVal.sum .rne (l.map fun d => (f32v d).mul (f32v d)))
  let lam :=
    if explicit then fourth else ffma .rne 0x3F000000 (flog2 (fminmax true false (sq dx) (sq dy))) fourth
  let lam := if (f32v lam).isNan then 0 else lam
  satWord lam 0 (intWord x.levels)

/-- The levels that a sample fetches, and the exact weight of the second. -/
def Tex.levelsOf (x : Tex) (lam : Word) : List Nat × Rat :=
  if x.miplin then
    let l0 := (floorWord lam).toNat
    ([l0, min (l0 + 1) x.levels], (f32v lam).toRat - l0)
  else ([(floorWord (frnd .rne lam)).toNat], 0)

/-! ### The instruction -/

/-- Component c of a thread's SRCB. -/
def TEnv.coord (e : TEnv) (t c : Nat) : Word := partOf (e.src128 2 t) c

/-- t0 of lane l on axis c (R418), by its own descriptor where it has read one, else by the reader's. -/
def TEnv.t0 (e : TEnv) (tex : SMap Nat) (own : Tex) (c l : Nat) : Word :=
  let x := match SMap.find tex l with | some d => texOf d | none => own
  fmul .rne (e.coord l c) (intWord (x.dim c 0))

/-- The derivatives of a thread along a direction of the quad (R141, R418). -/
def TEnv.deriv (e : TEnv) (tex : SMap Nat) (x : Tex) (mod t : Nat) : List Word :=
  let p := qddLanes mod (t % 4)
  x.axes.map fun c => fsub .rne (e.t0 tex x c (quadLane t p.1)) (e.t0 tex x c (quadLane t p.2))

/-- What a thread fetches: none where a used coordinate is a NaN. -/
def TEnv.levels (e : TEnv) (tex : SMap Nat) (x : Tex) (t : Nat) : Option (List Nat × Rat) :=
  if x.axes.any fun c => (f32v (e.coord t c)).isNan then none
  else some (x.levelsOf (x.lambda (e.mod == 1) (e.coord t 3) (e.deriv tex x 0 t) (e.deriv tex x 1 t)))

/-- A thread's texels, level by level. -/
def TEnv.texels (e : TEnv) (tex : SMap Nat) (x : Tex) (t : Nat) : List (List (Option Nat)) :=
  match e.levels tex x t with
  | none => []
  | some p => p.1.map (x.footprint (e.coord t))

/-- A thread's result from the texels as read. -/
def TEnv.sampled (e : TEnv) (tex : SMap Nat) (x : Tex) (t : Nat) (vals : SMap Nat) : BitVec 128 :=
  let chan (l : List Word) : BitVec 128 :=
    let l := l.map canonNan
    (l[3]?).getD 0 ++ (l[2]?).getD 0 ++ (l[1]?).getD 0 ++ (l[0]?).getD 0
  match e.levels tex x t with
  | none => qnan ++ qnan ++ qnan ++ qnan
  | some (ls, f) =>
    let fetch (l : Nat) : List Word :=
      x.blend (e.coord t) l ((x.footprint (e.coord t) l).map fun a =>
        match a with | none => x.border | some a => x.decode ((SMap.find vals a).getD 0))
    match ls with
    | [l0, l1] => chan ((List.range 4).map fun i => lerpExact (((fetch l0)[i]?).getD 0) (((fetch l1)[i]?).getD 0) f)
    | l0 :: _ => chan (fetch l0)
    | [] => 0

/-- The threads that poison an operand of SAMPLE: their own, and of .IMP the coordinates of the quad lanes
whose differences they take (R86, R141). -/
def TEnv.samplePoison (e : TEnv) : BitVec 32 :=
  let near := e.srcPoi 2 3
  let used (t : Nat) : List Nat := [0, 1].flatMap fun m => let p := qddLanes m (t % 4); [quadLane t p.1, quadLane t p.2]
  maskOf 32 32 fun t => bit e.act t && (bit e.poisoned t || (e.mod == 0 && (used t).any fun l => bit near l))

/-- SAMPLE's checks of one thread's descriptor, and its bits. -/
def TEnv.descriptor (e : TEnv) (s : State) (t : Nat) : State × Except Bad Nat :=
  let c := s.checkGlobal e.g (e.src64 1 t) 64 .read
  match c.2 with
  | .error b => (c.1, .error b)
  | .ok (.glob p) =>
    let r := c.1.gLoadList e.g.core e.g.tenant 0 p 64
    let d := leNat r.2
    (match texBad d with
     | some f => (r.1, .error { ord := 5, cause := .tafmt, tval := BitVec.ofNat 64 (0x400 + f), xl := 0 })
     | none => (r.1, .ok d))
  | .ok _ => (c.1, .ok 0)

/-- The pages of a thread's texels, or the first that fails in the order of its fetches: one check (R420, log 31). -/
def TEnv.texelPages (e : TEnv) (s : State) (n : Nat) : List Nat → State × Except Bad (List (Nat × Page))
  | [] => (s, .ok [])
  | a :: as =>
    let c := s.checkGlobal e.g (BitVec.ofNat 64 a) n .read
    match c.2 with
    | .ok (.glob p) =>
      let r := e.texelPages c.1 n as
      (r.1, match r.2 with | .ok l => .ok ((a, p) :: l) | .error b => .error b)
    | .error b => (c.1, .error { b with ord := 6 })
    | .ok _ => e.texelPages c.1 n as

/-- The failing check that comes first in R420's order, of the lowest-numbered thread that fails it. -/
def firstBadSample {α : Type} (l : List (Nat × Except Bad α)) : Option (Nat × Bad) :=
  let bad := l.filterMap fun p => match p.2 with | .error b => some (p.1, b) | .ok _ => none
  [2, 3, 4, 5, 6].findSome? fun o => bad.find? fun p => p.2.ord == o

/-- The threads that read descriptors. -/
def TEnv.samplers (e : TEnv) : List Nat := lanesOf (e.act &&& ~~~e.samplePoison)

/-- Their descriptors, in ascending order. -/
def TEnv.sampleDescs (e : TEnv) : State × List (Nat × Except Bad Nat) :=
  e.samplers.foldl (fun (a : State × List (Nat × Except Bad Nat)) t =>
    let r := e.descriptor a.1 t; (r.1, a.2 ++ [(t, r.2)])) (e.base, [])

/-- The descriptors that pass, by thread. -/
def TEnv.sampleTex (e : TEnv) : SMap Nat :=
  e.sampleDescs.2.filterMap fun p => match p.2 with | .ok v => some (p.1, v) | .error _ => none

/-- The texels' pages of every thread whose descriptor passes. -/
def TEnv.samplePages (e : TEnv) : State × List (Nat × Except Bad (List (Nat × Page))) :=
  e.sampleDescs.2.foldl (fun (a : State × List (Nat × Except Bad (List (Nat × Page)))) p =>
    match p.2 with
    | .error b => (a.1, a.2 ++ [(p.1, .error b)])
    | .ok v =>
      let x := texOf v
      let r := e.texelPages a.1 x.bytes ((e.texels e.sampleTex x p.1).flatMap fun l => l.filterMap id)
      (r.1, a.2 ++ [(p.1, r.2)])) (e.sampleDescs.1, [])

/-- The texels read, and the result of every thread whose checks pass. -/
def TEnv.sampleReads (e : TEnv) : State × SMap (BitVec 128) :=
  e.samplePages.2.foldl (fun (a : State × SMap (BitVec 128)) p =>
    match p.2, SMap.find e.sampleTex p.1 with
    | .ok l, some v =>
      let x := texOf v
      let rd := l.foldl (fun (b : State × SMap Nat) q =>
        let y := b.1.gLoad e.g.core e.g.tenant 0 q.2 x.bytes; (y.1, SMap.put b.2 q.1 y.2)) (a.1, [])
      (rd.1, SMap.put a.2 p.1 (e.sampled e.sampleTex x p.1 rd.2))
    | _, _ => a) (e.samplePages.1, [])

/-- SAMPLE (R417 to R421). -/
def sampleBody (e : TEnv) : TRes :=
  if e.i.spec = 0 && e.samplePoison &&& e.parts != 0 then .trap .poison 0
  else
    let mine := e.samplePages.2.filter fun p => bit e.parts p.1
    match (if e.i.spec = 0 then firstBadSample mine else none) with
    | some (_, b) => b.res e.samplePages.1 6
    | none =>
      let r := e.sampleReads
      let zero : BitVec 32 := maskOf 32 32 fun t => bit e.act t && (SMap.find r.2 t).isNone
      let w := if e.i.spec = 0 then e.w
        else e.w.record ((mine.filterMap fun p => match p.2 with | .error b => some (p.1, b) | .ok _ => none).head?)
      .ok r.1 { w with regs := w.regs.writeDst e.i.dst 4 e.act (fun t => (SMap.find r.2 t).getD 0) zero } 0

def execSample (w : TWord) (s : State) : Host.Outcome State Fault Refusal := tIssue 0x6C w s sampleBody

end Sys2Proof.Machine
end

