-- ==== Sys2Proof/Machine/TFloat.lean ====
section
/-!
DEFINITION. Floating-point, conversion, dot-product and codebook instructions of the T stream (spec 06).
-/

namespace Sys2Proof.Machine

/-- An FP32 source of a thread (R67). -/
def TEnv.fp (e : TEnv) (f t : Nat) : Word := e.src f .f32 t
/-- The rounding mode in XMOD bits 1:0 (R102). -/
def TEnv.rmode (e : TEnv) : RMode := RMode.ofBits (e.i.ext.xmod.toNat)

/-- The sign bit inverted where asked (.NB, .NC of R104). -/
def flipSign (c : Bool) (x : Word) : Word := if c then x ^^^ 0x80000000#32 else x

/-! ### What the instructions compute -/

/-- Element i of a packed word, w bits each. -/
def elemOf (w : Nat) (x : Word) (i : Nat) : Nat := (x.toNat / 2 ^ (w * i)) % 2 ^ w

/-- FFMA of R104 on codes of a format. -/
def fmaCode (f : Fmt) (m : RMode) (a b c : Nat) : Nat :=
  f.round m false (FVal.sum m [(f.decode a).mul (f.decode b), f.decode c])

/-- HFMA2 (R113). -/
def hfma2 (f : Fmt) (m : RMode) (a b c : Word) : Word :=
  let x (i : Nat) : Nat := fmaCode f m (elemOf 16 a i) (elemOf 16 b i) (elemOf 16 c i)
  BitVec.ofNat 32 (x 0 + 2 ^ 16 * x 1)

/-- DOT2 and DOT4 (R114): n elements of formats fa and fb. -/
def dotPacked (n : Nat) (fa fb : Fmt) (m : RMode) (a b c : Word) : Word :=
  fdot m ((List.range n).map fun i => (fa.decode (elemOf fa.width a i), fb.decode (elemOf fb.width b i))) (f32v c)

/-- The E2M1X block that a DOT8 lane carries (R114). -/
def dot8Block (p : DWord) : Nat :=
  (p.extractLsb' 0 32).toNat + 2 ^ 96 * (p.extractLsb' 32 8).toNat + 2 ^ 104 * (p.extractLsb' 40 8).toNat

/-- DOT8 (R114). -/
def dot8 (m : RMode) (a b : DWord) (c : Word) : Word :=
  fdot m ((List.range 8).map fun i => (decodeE2m1x (dot8Block a) i, decodeE2m1x (dot8Block b) i)) (f32v c)

/-- A byte of a number, read signed or unsigned. -/
def readByte (signed : Bool) (v i : Nat) : Int :=
  let b := (v / 2 ^ (8 * i)) % 256
  if signed then sextI 8 b else (b : Int)

/-- IDOT4 (R115): MOD bit 1 A signed, bit 0 B signed, bit 2 saturating. -/
def idot4 (mod : BitVec 4) (a b c : Word) : Word :=
  narrowInt (if bit mod 2 then 1 else 0)
    ((List.range 4).foldl (fun s i => s + readByte (bit mod 1) a.toNat i * readByte (bit mod 0) b.toNat i) c.toInt)

/-- DOT.T5 (R116) on a legal trit byte. -/
def dotTrits (unsigned : Bool) (a : DWord) (t : Nat) (c : Word) : Word :=
  BitVec.ofInt 32 ((List.range 5).foldl (fun s i => s + tritOf t i * readByte (!unsigned) a.toNat i) c.toInt)

/-- CVT of an element (R111). -/
def cvtElement (fs fd : Nat) (m : RMode) (ns : Bool) (a : Word) (j : Nat) : Word :=
  cvtEncode fd m ns (cvtDecode fs (elemOf (cvtWidth fs) a j))

/-- The value of an element as an E2M1X input: E8M0 has no sign and its NaN code is a NaN (R112). -/
def cvtInput (fs : Nat) (a : Word) (j : Nat) : FVal := cvtDecode fs (elemOf (cvtWidth fs) a j)

/-- CBX (R119): the two entries of a slot that an index stream's bits select. -/
def cbxPair (slot : BitVec 128) (a b c : Word) : Word :=
  let f : BitVec 64 := b ++ a
  let o := c.toNat % 32
  let entry (i : Nat) : BitVec 16 := slot.extractLsb' (16 * i) 16
  entry (f.extractLsb' (o + 3) 3).toNat ++ entry (f.extractLsb' o 3).toNat

/-- Codebook slot k: entry e at key 8 k + e. -/
def Warp.slotBits (w : Warp) (k : Nat) : BitVec 128 :=
  BitVec.ofNat 128 ((List.range 8).foldl (fun n e => n + (SMap.get 0 w.cb (8 * k + e)).toNat * 2 ^ (16 * e)) 0)

/-- The slot's fill has not arrived (R117). -/
def Warp.slotPending (w : Warp) (k : Nat) : Bool := w.cbPend.any fun p => p.1 == k

/-! ### The instructions -/

def execFadd (w : TWord) (s : State) : Host.Outcome State Fault Refusal :=
  tAlu 0x20 w s fun e t => fadd e.rmode (e.fp 1 t) (flipSign (bit e.i.mod 0) (e.fp 2 t))
def execFmul (w : TWord) (s : State) : Host.Outcome State Fault Refusal :=
  tAlu 0x21 w s fun e t => fmul e.rmode (e.fp 1 t) (e.fp 2 t)
def execFfma (w : TWord) (s : State) : Host.Outcome State Fault Refusal :=
  tAlu 0x22 w s fun e t =>
    ffma e.rmode (e.fp 1 t) (flipSign (bit e.i.mod 0) (e.fp 2 t)) (flipSign (bit e.i.mod 1) (e.fp 3 t))
def execFmin (w : TWord) (s : State) : Host.Outcome State Fault Refusal :=
  tAlu 0x23 w s fun e t => fminmax false (bit e.i.mod 0) (e.fp 1 t) (e.fp 2 t)
def execFmax (w : TWord) (s : State) : Host.Outcome State Fault Refusal :=
  tAlu 0x24 w s fun e t => fminmax true (bit e.i.mod 0) (e.fp 1 t) (e.fp 2 t)
def execFcmp (w : TWord) (s : State) : Host.Outcome State Fault Refusal :=
  tCond 0x25 w s fun e t => condFloat e.mod (e.fp 1 t) (e.fp 2 t)
def execFclass (w : TWord) (s : State) : Host.Outcome State Fault Refusal :=
  tCond 0x26 w s fun e t => condClass (e.fp 1 t) (e.int 2 t)
def execFrnd (w : TWord) (s : State) : Host.Outcome State Fault Refusal :=
  tAlu 0x27 w s fun e t => frnd (RMode.ofBits e.mod) (e.fp 1 t)
def execFrcp (w : TWord) (s : State) : Host.Outcome State Fault Refusal :=
  tAlu 0x28 w s fun e t => frcp (e.fp 1 t)
def execFrsq (w : TWord) (s : State) : Host.Outcome State Fault Refusal :=
  tAlu 0x29 w s fun e t => frsq (e.fp 1 t)
def execFsqrt (w : TWord) (s : State) : Host.Outcome State Fault Refusal :=
  tAlu 0x2A w s fun e t => fsqrt (e.fp 1 t)
def execFdiv (w : TWord) (s : State) : Host.Outcome State Fault Refusal :=
  tAlu 0x2B w s fun e t => fdiv (e.fp 1 t) (e.fp 2 t)
def execFexp2 (w : TWord) (s : State) : Host.Outcome State Fault Refusal :=
  tAlu 0x2C w s fun e t => fexp2 (e.fp 1 t)
def execFlog2 (w : TWord) (s : State) : Host.Outcome State Fault Refusal :=
  tAlu 0x2D w s fun e t => flog2 (e.fp 1 t)
def execFsint (w : TWord) (s : State) : Host.Outcome State Fault Refusal :=
  tAlu 0x2E w s fun e t => fsint (e.fp 1 t)
def execFcost (w : TWord) (s : State) : Host.Outcome State Fault Refusal :=
  tAlu 0x2F w s fun e t => fcost (e.fp 1 t)

/-- How CVT reads a short immediate source: converted to the format of its source, so that a 16-bit one stands in the low
element (R67, log 60). -/
def cvtKind (fs : Nat) : ImmKind :=
  match fs with | 0 => .f32 | 1 => .f16 | 2 => .bf16 | _ => .int

/-- CVT (R111, R112). -/
def execCvt (w : TWord) (s : State) : Host.Outcome State Fault Refusal :=
  tIssue 0x30 w s fun e =>
    let fs := cvtFs e.i.srcb
    let fd := e.mod
    let j := cvtElem e.i.srcb
    let ns := bit e.i.ext.xmod 2
    let a (t : Nat) : Word := e.src 1 (cvtKind fs) t
    let p := e.srcPoi 1 1
    if fd = 7 then
      let blk := encodeE2m1x ((List.range 24).map fun t => if bit e.act t then cvtInput fs (a t) j else .fin false 0)
      let pm : BitVec 32 := if p &&& e.act &&& 0xFFFFFF = 0 then 0 else e.act
      e.resultOf pm 1 (fun t => if t < 4 then BitVec.ofNat 128 ((blk / 2 ^ (32 * t)) % 2 ^ 32) else 0) fun _ => none
    else if fs = 7 then
      let blk := (a 0).toNat + 2 ^ 32 * (a 1).toNat + 2 ^ 64 * (a 2).toNat + 2 ^ 96 * (a 3).toNat
      let pm : BitVec 32 := if p &&& 0xF = 0 then 0 else e.act
      e.resultOf pm 1 (fun t => (cvtEncode fd e.rmode ns (if t < 24 then decodeE2m1x blk t else .fin false 0)).setWidth 128)
        fun _ => none
    else e.result 1 (fun t => (cvtElement fs fd e.rmode ns (a t) j).setWidth 128) fun _ => none

def execHfma2 (w : TWord) (s : State) : Host.Outcome State Fault Refusal :=
  tAlu 0x31 w s fun e t => hfma2 (if e.mod = 0 then fp16 else bf16) e.rmode (e.int 1 t) (e.int 2 t) (e.int 3 t)
def execDot2 (w : TWord) (s : State) : Host.Outcome State Fault Refusal :=
  tAlu 0x32 w s fun e t =>
    let f := if e.mod = 0 then bf16 else fp16
    dotPacked 2 f f e.rmode (e.int 1 t) (e.int 2 t) (e.fp 3 t)
def execDot4 (w : TWord) (s : State) : Host.Outcome State Fault Refusal :=
  tAlu 0x33 w s fun e t =>
    dotPacked 4 (if bit e.i.mod 0 then e5m2 else e4m3) (if bit e.i.mod 1 then e5m2 else e4m3) e.rmode
      (e.int 1 t) (e.int 2 t) (e.fp 3 t)
def execDot8 (w : TWord) (s : State) : Host.Outcome State Fault Refusal :=
  tAlu 0x34 w s fun e t => dot8 e.rmode (e.src64 1 t) (e.src64 2 t) (e.fp 3 t)
def execIdot4 (w : TWord) (s : State) : Host.Outcome State Fault Refusal :=
  tAlu 0x35 w s fun e t => idot4 e.i.mod (e.int 1 t) (e.int 2 t) (e.int 3 t)
/-- DOT.T5 (R116). -/
def execDotT5 (w : TWord) (s : State) : Host.Outcome State Fault Refusal :=
  tIssue 0x36 w s fun e =>
    let v (t : Nat) : Nat := byteOf (e.int 2 t) (e.mod % 4)
    e.result 1 (fun t => (dotTrits (bit e.i.mod 2) (e.src64 1 t) (v t) (e.int 3 t)).setWidth 128) fun t =>
      if tritLegal (v t) then none else some (v t)
/-- CBX (R119): a pending slot makes it wait. -/
def execCbx (w : TWord) (s : State) : Host.Outcome State Fault Refusal :=
  tIssue 0x37 w s fun e =>
    if e.w.slotPending e.mod then .wait e.w
    else e.result 1 (fun t => (cbxPair (e.w.slotBits e.mod) (e.int 1 t) (e.int 2 t) (e.int 3 t)).setWidth 128) fun _ => none

/-- The FP64 instructions raise EMUL (R121). -/
def execDadd (w : TWord) (s : State) : Host.Outcome State Fault Refusal := tEmul 0x39 w s
def execDmul (w : TWord) (s : State) : Host.Outcome State Fault Refusal := tEmul 0x3A w s
def execDfma (w : TWord) (s : State) : Host.Outcome State Fault Refusal := tEmul 0x3B w s

end Sys2Proof.Machine
end

