-- ==== Sys2Proof/Machine/Dispatch.lean ====
section
/-!
DEFINITION. The dispatch of every instruction and step to its meaning.
-/

namespace Sys2Proof.Machine

/-- The meaning of an instruction or step, for the agent `s.ctl.cur`, on `s.ctl.cmd` and `s.ctl.arg`. -/
def exec (i : Instr) (s : State) : Host.Outcome State Fault Refusal :=
  match i with
  | .add w => Sys2Proof.Machine.execAdd w s
  | .add3 w => Sys2Proof.Machine.execAdd3 w s
  | .sub w => Sys2Proof.Machine.execSub w s
  | .neg w => Sys2Proof.Machine.execNeg w s
  | .abs w => Sys2Proof.Machine.execAbs w s
  | .mullo w => Sys2Proof.Machine.execMullo w s
  | .mulhi w => Sys2Proof.Machine.execMulhi w s
  | .mad w => Sys2Proof.Machine.execMad w s
  | .madw w => Sys2Proof.Machine.execMadw w s
  | .div w => Sys2Proof.Machine.execDiv w s
  | .rem w => Sys2Proof.Machine.execRem w s
  | .min w => Sys2Proof.Machine.execMin w s
  | .max w => Sys2Proof.Machine.execMax w s
  | .lop3 w => Sys2Proof.Machine.execLop3 w s
  | .shl w => Sys2Proof.Machine.execShl w s
  | .shr w => Sys2Proof.Machine.execShr w s
  | .sra w => Sys2Proof.Machine.execSra w s
  | .fsh w => Sys2Proof.Machine.execFsh w s
  | .bfx w => Sys2Proof.Machine.execBfx w s
  | .bfi w => Sys2Proof.Machine.execBfi w s
  | .popc w => Sys2Proof.Machine.execPopc w s
  | .clz w => Sys2Proof.Machine.execClz w s
  | .brev w => Sys2Proof.Machine.execBrev w s
  | .cmp w => Sys2Proof.Machine.execCmp w s
  | .sel w => Sys2Proof.Machine.execSel w s
  | .mov w => Sys2Proof.Machine.execMov w s
  | .movi w => Sys2Proof.Machine.execMovi w s
  | .lea w => Sys2Proof.Machine.execLea w s
  | .addW w => Sys2Proof.Machine.execAddW w s
  | .packT5 w => Sys2Proof.Machine.execPackT5 w s
  | .unpackT5 w => Sys2Proof.Machine.execUnpackT5 w s
  | .fadd w => Sys2Proof.Machine.execFadd w s
  | .fmul w => Sys2Proof.Machine.execFmul w s
  | .ffma w => Sys2Proof.Machine.execFfma w s
  | .fmin w => Sys2Proof.Machine.execFmin w s
  | .fmax w => Sys2Proof.Machine.execFmax w s
  | .fcmp w => Sys2Proof.Machine.execFcmp w s
  | .fclass w => Sys2Proof.Machine.execFclass w s
  | .frnd w => Sys2Proof.Machine.execFrnd w s
  | .frcp w => Sys2Proof.Machine.execFrcp w s
  | .frsq w => Sys2Proof.Machine.execFrsq w s
  | .fsqrt w => Sys2Proof.Machine.execFsqrt w s
  | .fdiv w => Sys2Proof.Machine.execFdiv w s
  | .fexp2 w => Sys2Proof.Machine.execFexp2 w s
  | .flog2 w => Sys2Proof.Machine.execFlog2 w s
  | .fsint w => Sys2Proof.Machine.execFsint w s
  | .fcost w => Sys2Proof.Machine.execFcost w s
  | .cvt w => Sys2Proof.Machine.execCvt w s
  | .hfma2 w => Sys2Proof.Machine.execHfma2 w s
  | .dot2 w => Sys2Proof.Machine.execDot2 w s
  | .dot4 w => Sys2Proof.Machine.execDot4 w s
  | .dot8 w => Sys2Proof.Machine.execDot8 w s
  | .idot4 w => Sys2Proof.Machine.execIdot4 w s
  | .dotT5 w => Sys2Proof.Machine.execDotT5 w s
  | .cbx w => Sys2Proof.Machine.execCbx w s
  | .cbld w => Sys2Proof.Machine.execCbld w s
  | .cbldFill => Sys2Proof.Machine.execCbldFill s
  | .dadd w => Sys2Proof.Machine.execDadd w s
  | .dmul w => Sys2Proof.Machine.execDmul w s
  | .dfma w => Sys2Proof.Machine.execDfma w s
  | .bra w => Sys2Proof.Machine.execBra w s
  | .brx w => Sys2Proof.Machine.execBrx w s
  | .call w => Sys2Proof.Machine.execCall w s
  | .callX w => Sys2Proof.Machine.execCallX w s
  | .ret w => Sys2Proof.Machine.execRet w s
  | .exit w => Sys2Proof.Machine.execExit w s
  | .safept w => Sys2Proof.Machine.execSafept w s
  | .setpc w => Sys2Proof.Machine.execSetpc w s
  | .selc w => Sys2Proof.Machine.execSelc w s
  | .vote w => Sys2Proof.Machine.execVote w s
  | .elect w => Sys2Proof.Machine.execElect w s
  | .shfl w => Sys2Proof.Machine.execShfl w s
  | .qswp w => Sys2Proof.Machine.execQswp w s
  | .qbc w => Sys2Proof.Machine.execQbc w s
  | .qdd w => Sys2Proof.Machine.execQdd w s
  | .barArv w => Sys2Proof.Machine.execBarArv w s
  | .barWt w => Sys2Proof.Machine.execBarWt w s
  | .barSync w => Sys2Proof.Machine.execBarSync w s
  | .nop w => Sys2Proof.Machine.execNop w s
  | .trap w => Sys2Proof.Machine.execTrap w s
  | .brk w => Sys2Proof.Machine.execBrk w s
  | .tret w => Sys2Proof.Machine.execTret w s
  | .s2v w => Sys2Proof.Machine.execS2v w s
  | .vget w => Sys2Proof.Machine.execVget w s
  | .vput w => Sys2Proof.Machine.execVput w s
  | .ld w => Sys2Proof.Machine.execLd w s
  | .st w => Sys2Proof.Machine.execSt w s
  | .lds w => Sys2Proof.Machine.execLds w s
  | .sts w => Sys2Proof.Machine.execSts w s
  | .ldx w => Sys2Proof.Machine.execLdx w s
  | .stx w => Sys2Proof.Machine.execStx w s
  | .atom w => Sys2Proof.Machine.execAtom w s
  | .cas w => Sys2Proof.Machine.execCas w s
  | .red w => Sys2Proof.Machine.execRed w s
  | .pfh w => Sys2Proof.Machine.execPfh w s
  | .reside w => Sys2Proof.Machine.execReside w s
  | .fence w => Sys2Proof.Machine.execFence w s
  | .sample w => Sys2Proof.Machine.execSample w s
  | .lnch w => Sys2Proof.Machine.execLnch w s
  | .rqRay w => Sys2Proof.Machine.execRqRay w s
  | .rqBeam w => Sys2Proof.Machine.execRqBeam w s
  | .rqCone w => Sys2Proof.Machine.execRqCone w s
  | .rpop w => Sys2Proof.Machine.execRpop w s
  | .rstat w => Sys2Proof.Machine.execRstat w s
  | .semadd w => Sys2Proof.Machine.execSemadd w s
  | .semset w => Sys2Proof.Machine.execSemset w s
  | .semwait w => Sys2Proof.Machine.execSemwait w s
  | .aadd w => Sys2Proof.Machine.execAadd w s
  | .aaddLong p w => Sys2Proof.Machine.execAaddLong p w s
  | .asub w => Sys2Proof.Machine.execAsub w s
  | .asubLong p w => Sys2Proof.Machine.execAsubLong p w s
  | .amul w => Sys2Proof.Machine.execAmul w s
  | .amulLong p w => Sys2Proof.Machine.execAmulLong p w s
  | .aand w => Sys2Proof.Machine.execAand w s
  | .aandLong p w => Sys2Proof.Machine.execAandLong p w s
  | .aor w => Sys2Proof.Machine.execAor w s
  | .aorLong p w => Sys2Proof.Machine.execAorLong p w s
  | .axor w => Sys2Proof.Machine.execAxor w s
  | .axorLong p w => Sys2Proof.Machine.execAxorLong p w s
  | .ashl w => Sys2Proof.Machine.execAshl w s
  | .ashlLong p w => Sys2Proof.Machine.execAshlLong p w s
  | .ashr w => Sys2Proof.Machine.execAshr w s
  | .ashrLong p w => Sys2Proof.Machine.execAshrLong p w s
  | .amov w => Sys2Proof.Machine.execAmov w s
  | .amovi w => Sys2Proof.Machine.execAmovi w s
  | .amoviLong p w => Sys2Proof.Machine.execAmoviLong p w s
  | .amoviH p w => Sys2Proof.Machine.execAmoviH p w s
  | .acmp w => Sys2Proof.Machine.execAcmp w s
  | .acmpLong p w => Sys2Proof.Machine.execAcmpLong p w s
  | .asel w => Sys2Proof.Machine.execAsel w s
  | .aselLong p w => Sys2Proof.Machine.execAselLong p w s
  | .as2a w => Sys2Proof.Machine.execAs2a w s
  | .anop w => Sys2Proof.Machine.execAnop w s
  | .abr w => Sys2Proof.Machine.execAbr w s
  | .ajmp w => Sys2Proof.Machine.execAjmp w s
  | .acall w => Sys2Proof.Machine.execAcall w s
  | .aret w => Sys2Proof.Machine.execAret w s
  | .aloop w => Sys2Proof.Machine.execAloop w s
  | .aend w => Sys2Proof.Machine.execAend w s
  | .asafe w => Sys2Proof.Machine.execAsafe w s
  | .aexit => Sys2Proof.Machine.execAexit s
  | .atrap w => Sys2Proof.Machine.execAtrap w s
  | .aretT => Sys2Proof.Machine.execAretT s
  | .afence w => Sys2Proof.Machine.execAfence w s
  | .afenceLong p w => Sys2Proof.Machine.execAfenceLong p w s
  | .ald w => Sys2Proof.Machine.execAld w s
  | .aldLong p w => Sys2Proof.Machine.execAldLong p w s
  | .ast w => Sys2Proof.Machine.execAst w s
  | .astLong p w => Sys2Proof.Machine.execAstLong p w s
  | .alds w => Sys2Proof.Machine.execAlds w s
  | .aldsLong p w => Sys2Proof.Machine.execAldsLong p w s
  | .asts w => Sys2Proof.Machine.execAsts w s
  | .astsLong p w => Sys2Proof.Machine.execAstsLong p w s
  | .qpush w => Sys2Proof.Machine.execQpush w s
  | .qpushLong p w => Sys2Proof.Machine.execQpushLong p w s
  | .qpop w => Sys2Proof.Machine.execQpop w s
  | .awaitq w => Sys2Proof.Machine.execAwaitq w s
  | .semaddA w => Sys2Proof.Machine.execSemaddA w s
  | .semaddALong p w => Sys2Proof.Machine.execSemaddALong p w s
  | .semsetA w => Sys2Proof.Machine.execSemsetA w s
  | .semsetALong p w => Sys2Proof.Machine.execSemsetALong p w s
  | .semwaitA w => Sys2Proof.Machine.execSemwaitA w s
  | .semwaitALong p w => Sys2Proof.Machine.execSemwaitALong p w s
  | .cpy w => Sys2Proof.Machine.execCpy w s
  | .cpyLong p w => Sys2Proof.Machine.execCpyLong p w s
  | .cpyx w => Sys2Proof.Machine.execCpyx w s
  | .cpyxLong p w => Sys2Proof.Machine.execCpyxLong p w s
  | .cpylv w => Sys2Proof.Machine.execCpylv w s
  | .cpylvLong p w => Sys2Proof.Machine.execCpylvLong p w s
  | .kvapp w => Sys2Proof.Machine.execKvapp w s
  | .kvappLong p w => Sys2Proof.Machine.execKvappLong p w s
  | .cpyw w => Sys2Proof.Machine.execCpyw w s
  | .cpywLong p w => Sys2Proof.Machine.execCpywLong p w s
  | .ceCommandStart => Sys2Proof.Machine.execCeCommandStart s
  | .ceCommandComplete => Sys2Proof.Machine.execCeCommandComplete s
  | .fmtq w => Sys2Proof.Machine.execFmtq w s
  | .fmtqLong p w => Sys2Proof.Machine.execFmtqLong p w s
  | .taRun w => Sys2Proof.Machine.execTaRun w s
  | .taRunLong p w => Sys2Proof.Machine.execTaRunLong p w s
  | .taZero w => Sys2Proof.Machine.execTaZero w s
  | .taSwap w => Sys2Proof.Machine.execTaSwap w s
  | .tastat w => Sys2Proof.Machine.execTastat w s
  | .crownTake w => Sys2Proof.Machine.execCrownTake w s
  | .crownPass w => Sys2Proof.Machine.execCrownPass w s
  | .taCommandStart => Sys2Proof.Machine.execTaCommandStart s
  | .taCommandComplete => Sys2Proof.Machine.execTaCommandComplete s
  | .taRunFault => Sys2Proof.Machine.execTaRunFault s
  | .snop => Sys2Proof.Machine.execSnop s
  | .sadd w => Sys2Proof.Machine.execSadd w s
  | .ssub w => Sys2Proof.Machine.execSsub w s
  | .smul w => Sys2Proof.Machine.execSmul w s
  | .sand w => Sys2Proof.Machine.execSand w s
  | .sor w => Sys2Proof.Machine.execSor w s
  | .sshl w => Sys2Proof.Machine.execSshl w s
  | .sshr w => Sys2Proof.Machine.execSshr w s
  | .smov w => Sys2Proof.Machine.execSmov w s
  | .smovh w => Sys2Proof.Machine.execSmovh w s
  | .scmp w => Sys2Proof.Machine.execScmp w s
  | .br w => Sys2Proof.Machine.execBr w s
  | .brc w => Sys2Proof.Machine.execBrc w s
  | .loop w => Sys2Proof.Machine.execLoop w s
  | .poseR w => Sys2Proof.Machine.execPoseR w s
  | .poseW w => Sys2Proof.Machine.execPoseW w s
  | .bandiRd w => Sys2Proof.Machine.execBandiRd w s
  | .bandiNext w => Sys2Proof.Machine.execBandiNext w s
  | .syncm => Sys2Proof.Machine.execSyncm s
  | .halt => Sys2Proof.Machine.execHalt s
  | .vnop => Sys2Proof.Machine.execVnop s
  | .vadd w => Sys2Proof.Machine.execVadd w s
  | .vsub w => Sys2Proof.Machine.execVsub w s
  | .vmul w => Sys2Proof.Machine.execVmul w s
  | .vfma w => Sys2Proof.Machine.execVfma w s
  | .vmin w => Sys2Proof.Machine.execVmin w s
  | .vmax w => Sys2Proof.Machine.execVmax w s
  | .vrcp w => Sys2Proof.Machine.execVrcp w s
  | .vrsq w => Sys2Proof.Machine.execVrsq w s
  | .vflr w => Sys2Proof.Machine.execVflr w s
  | .vcvt w => Sys2Proof.Machine.execVcvt w s
  | .vcmp w => Sys2Proof.Machine.execVcmp w s
  | .vsel w => Sys2Proof.Machine.execVsel w s
  | .vlerp w => Sys2Proof.Machine.execVlerp w s
  | .vperm w => Sys2Proof.Machine.execVperm w s
  | .vbcast w => Sys2Proof.Machine.execVbcast w s
  | .vpack w => Sys2Proof.Machine.execVpack w s
  | .lbld w => Sys2Proof.Machine.execLbld w s
  | .lbst w => Sys2Proof.Machine.execLbst w s
  | .gld w => Sys2Proof.Machine.execGld w s
  | .wsamp w => Sys2Proof.Machine.execWsamp w s
  | .dsamp w => Sys2Proof.Machine.execDsamp w s
  | .mxld w => Sys2Proof.Machine.execMxld w s
  | .mxrun w => Sys2Proof.Machine.execMxrun w s
  | .mxst w => Sys2Proof.Machine.execMxst w s
  | .emit w => Sys2Proof.Machine.execEmit w s
  | .ldp w => Sys2Proof.Machine.execLdp w s
  | .ldm w => Sys2Proof.Machine.execLdm w s
  | .movb w => Sys2Proof.Machine.execMovb w s
  | .addb w => Sys2Proof.Machine.execAddb w s
  | .subb w => Sys2Proof.Machine.execSubb w s
  | .andb w => Sys2Proof.Machine.execAndb w s
  | .orb w => Sys2Proof.Machine.execOrb w s
  | .shlb w => Sys2Proof.Machine.execShlb w s
  | .shrb w => Sys2Proof.Machine.execShrb w s
  | .cmpb w => Sys2Proof.Machine.execCmpb w s
  | .jf w => Sys2Proof.Machine.execJf w s
  | .jfc w => Sys2Proof.Machine.execJfc w s
  | .loopb w => Sys2Proof.Machine.execLoopb w s
  | .endb => Sys2Proof.Machine.execEndb s
  | .chkres w => Sys2Proof.Machine.execChkres w s
  | .reloc w => Sys2Proof.Machine.execReloc w s
  | .emitC w => Sys2Proof.Machine.execEmitC w s
  | .done => Sys2Proof.Machine.execDone s
  | .fail w => Sys2Proof.Machine.execFail w s
  | .qiTakePacket => Sys2Proof.Machine.execQiTakePacket s
  | .nopPacket => Sys2Proof.Machine.execNopPacket s
  | .launch => Sys2Proof.Machine.execLaunch s
  | .invoke => Sys2Proof.Machine.execInvoke s
  | .copy => Sys2Proof.Machine.execCopy s
  | .waitsem => Sys2Proof.Machine.execWaitsem s
  | .signalsem => Sys2Proof.Machine.execSignalsem s
  | .fencePacket => Sys2Proof.Machine.execFencePacket s
  | .event => Sys2Proof.Machine.execEvent s
  | .slotload => Sys2Proof.Machine.execSlotload s
  | .slotfree => Sys2Proof.Machine.execSlotfree s
  | .qprog => Sys2Proof.Machine.execQprog s
  | .mapupd => Sys2Proof.Machine.execMapupd s
  | .mapupdUnmap => Sys2Proof.Machine.execMapupdUnmap s
  | .mapupdDecay => Sys2Proof.Machine.execMapupdDecay s
  | .tlbinv => Sys2Proof.Machine.execTlbinv s
  | .codeinv => Sys2Proof.Machine.execCodeinv s
  | .headcfgEnable => Sys2Proof.Machine.execHeadcfgEnable s
  | .headcfgDisable => Sys2Proof.Machine.execHeadcfgDisable s
  | .headcfgEffect => Sys2Proof.Machine.execHeadcfgEffect s
  | .rsetupRegister => Sys2Proof.Machine.execRsetupRegister s
  | .rsetupUnregister => Sys2Proof.Machine.execRsetupUnregister s
  | .rsetupKill => Sys2Proof.Machine.execRsetupKill s
  | .gridReady => Sys2Proof.Machine.execGridReady s
  | .groupPlacement => Sys2Proof.Machine.execGroupPlacement s
  | .groupStart => Sys2Proof.Machine.execGroupStart s
  | .groupEnd => Sys2Proof.Machine.execGroupEnd s
  | .quantumExpiry => Sys2Proof.Machine.execQuantumExpiry s
  | .groupSaveComplete => Sys2Proof.Machine.execGroupSaveComplete s
  | .groupResumption => Sys2Proof.Machine.execGroupResumption s
  | .rayQueryTake => Sys2Proof.Machine.execRayQueryTake s
  | .splitRecordEmit => Sys2Proof.Machine.execSplitRecordEmit s
  | .spawnWarpStart => Sys2Proof.Machine.execSpawnWarpStart s
  | .rayQueryComplete => Sys2Proof.Machine.execRayQueryComplete s
  | .pageWalk => Sys2Proof.Machine.execPageWalk s
  | .cacheEviction => Sys2Proof.Machine.execCacheEviction s
  | .faultLogDrain => Sys2Proof.Machine.execFaultLogDrain s
  | .faultLogRetest => Sys2Proof.Machine.execFaultLogRetest s
  | .counterSnapshot => Sys2Proof.Machine.execCounterSnapshot s
  | .eventSend => Sys2Proof.Machine.execEventSend s
  | .renderSetLatch => Sys2Proof.Machine.execRenderSetLatch s
  | .poseLatch => Sys2Proof.Machine.execPoseLatch s
  | .bandDispatch => Sys2Proof.Machine.execBandDispatch s
  | .bandDeadline => Sys2Proof.Machine.execBandDeadline s
  | .bandScanOut => Sys2Proof.Machine.execBandScanOut s
  | .rdmaWrite => Sys2Proof.Machine.execRdmaWrite s
  | .rdmaRead => Sys2Proof.Machine.execRdmaRead s
  | .rdmaFetchAdd => Sys2Proof.Machine.execRdmaFetchAdd s
  | .rdmaCompareSwap => Sys2Proof.Machine.execRdmaCompareSwap s
  | .attest => Sys2Proof.Machine.execAttest s
  | .provision => Sys2Proof.Machine.execProvision s
  | .update => Sys2Proof.Machine.execUpdate s
  | .reset => Sys2Proof.Machine.execReset s
  | .powerOn => Sys2Proof.Machine.execPowerOn s
  | .powerMeasure => Sys2Proof.Machine.execPowerMeasure s
  | .thermalStop => Sys2Proof.Machine.execThermalStop s
  | .thermalRestart => Sys2Proof.Machine.execThermalRestart s
  | .thermalShutdown => Sys2Proof.Machine.execThermalShutdown s
  | .linkLoss => Sys2Proof.Machine.execLinkLoss s
  | .linkRetrain => Sys2Proof.Machine.execLinkRetrain s
  | .correctableError => Sys2Proof.Machine.execCorrectableError s
  | .uncorrectableError => Sys2Proof.Machine.execUncorrectableError s
  | .matrixOperationComplete => Sys2Proof.Machine.execMatrixOperationComplete s
  | .inputPowerRemoved => Sys2Proof.Machine.execInputPowerRemoved s
  | .rdmaInvalidRequest => Sys2Proof.Machine.execRdmaInvalidRequest s
  | .congestionNotification => Sys2Proof.Machine.execCongestionNotification s

end Sys2Proof.Machine
end

