-- ==== Sys2Proof/Machine/Blocks.lean ====
section
/-!
DEFINITION. Executing the Vosis blocks of a kernel in portable form (R403 to R406), with the results that the Milliner's
native sequences have for the emulation class (R92, R121, R407).
-/

namespace Sys2Proof.Machine

/-! ### Values -/

def BlockVal.word (v : BlockVal) (t j : Nat) : Word := SMap.get 0 v.val (4 * t + j)

/-- Words of n registers in every thread, with their poison. -/
def BlockVal.ofRegs (n : Nat) (f : Nat → Nat → Word) (poison : BitVec 32) : BlockVal :=
  { val := (List.range 32).flatMap fun t => (List.range n).map fun j => (4 * t + j, f t j), poison := poison, pred := 0 }

/-- A value in the threads of a mask, another in the rest. -/
def BlockVal.mix (m : BitVec 32) (a b : BlockVal) : BlockVal :=
  { val := (List.range 32).flatMap fun t => (List.range 4).map fun j => (4 * t + j, if bit m t then a.word t j else b.word t j),
    poison := (a.poison &&& m) ||| (b.poison &&& ~~~m), pred := (a.pred &&& m) ||| (b.pred &&& ~~~m) }

/-- What READ delivers: a register of the warp in every lane (R404). -/
def Regs.blockRead (r : Regs) (o : VosisOp) : BlockVal :=
  let n := vWidth o
  let poi (k : Nat) : BitVec 32 := (List.range n).foldl (fun m j => m ||| r.poi (k + j)) 0
  if 0xD0 ≤ vReg o then { BlockVal.zero with pred := r.fGet (vReg o - 0xD0) }
  else
    match Sel.ofBits (BitVec.ofNat 9 (vReg o)) with
    | .v k => BlockVal.ofRegs n (fun t j => r.get (k + j) t) (poi k)
    | .o k => BlockVal.ofRegs n (fun t j => r.get (128 + k + j) t) (poi (128 + k))
    | .s k => BlockVal.ofRegs n (fun _ j => r.sGet (k + j)) 0
    | _ => BlockVal.zero

/-! ### An operation as a T instruction on registers of its own -/

/-- The registers on which an operation acts: its inputs in v0, v4 and v8, its predicate in f1, the threads in which it is
not guarded off in f0, the predicate that SEL selects by in f2; its result goes to v12 or f5. -/
def blockRegs (a b c : BlockVal) (fires sel : BitVec 32) : Regs :=
  let file (k : Nat) (v : BlockVal) : SMap Word :=
    (List.range 4).flatMap fun j => (List.range 32).map fun t => (32 * (k + j) + t, v.word t j)
  { val := file 0 a ++ file 4 b ++ file 8 c,
    poison := ((List.range 12).map fun k => (k, if k < 4 then a.poison else if k < 8 then b.poison else c.poison)),
    vmap := 0xFFFF, sreg := [], pred := [(0, fires), (1, a.pred), (2, sel)] }

/-- The selector of a source: v register `base`, the code of REG, the predicate, or CVT's format from IMM32 (log 46). -/
def blockSel (o : VosisOp) (k : SrcKind) (base : Nat) : BitVec 9 :=
  match k with
  | .none | .disp => 0
  | .code => BitVec.ofNat 9 (256 + vReg o % 256)
  | .predSel => 1
  | .cvt => BitVec.ofNat 9 (vImm o)
  | _ => BitVec.ofNat 9 base

/-- The operation as a T word, guarded by f0; SEL's MOD names f2 in place of the warp's predicate. -/
def blockWord (o : VosisOp) (sh : TShape) : TWord :=
  let noImm := vImmuse o == 0 || (sh.b == .cvt && vImmuse o == 2)
  { vWord o with
    mod := if vOp o = 0x19 then BitVec.ofNat 4 (2 + 8 * (vMod o / 8)) else BitVec.ofNat 4 (vMod o),
    pred := 0, dst := match sh.dst with | .none => 0 | .pred => 5 | _ => 12,
    srca := blockSel o sh.a 0, srcb := blockSel o sh.b 4, srcc := blockSel o sh.c 8,
    long := some { (vWord o).ext with
      imm32 := if noImm then 0 else BitVec.ofNat 32 (vImm o), immuse := if noImm then 0 else BitVec.ofNat 2 (vImmuse o),
      cmask := if sh.mem.used then (vWord o).ext.cmask else 0xFFFF } }

/-- DIV and REM of R92. -/
def divRem (signed rem : Bool) (a b : Word) : Word :=
  if signed then
    let x := a.toInt
    let y := b.toInt
    if y = 0 then (if rem then a else -1)
    else BitVec.ofInt 32 (if rem then x.tmod y else x.tdiv y)
  else if b = 0 then (if rem then a else BitVec.allOnes 32)
  else if rem then a % b else a / b

/-- DADD, DMUL and DFMA of R104 in FP64 (R121). -/
def fp64Op (op : Nat) (m : RMode) (a b c : DWord) : DWord :=
  let v (x : DWord) : FVal := fp64.decode x.toNat
  BitVec.ofNat 64 (fp64.round m false
    (match op with
     | 0x39 => FVal.sum m [v a, v b]
     | 0x3A => (v a).mul (v b)
     | _ => FVal.sum m [(v a).mul (v b), v c]))

/-- The words of sext(IMM32) above its lowest (R71). -/
def immHigh (imm : Word) : Word := if bit imm 31 then BitVec.allOnes 32 else 0

/-- The result of an operation of the emulation class in a thread. -/
def emulated (o : VosisOp) (a b c : BlockVal) (t j : Nat) : Word :=
  let imm (k : Nat) (v : BlockVal) (j : Nat) : Word :=
    if vImmuse o = k then (if j = 0 then BitVec.ofNat 32 (vImm o) else immHigh (BitVec.ofNat 32 (vImm o)))
    else v.word t j
  if vOp o = 0x0A ∨ vOp o = 0x0B then divRem (vMod o == 1) (vOp o == 0x0B) (imm 1 a 0) (imm 2 b 0)
  else
    let d := fp64Op (vOp o) (RMode.ofBits (vXmod o)) (imm 1 a 1 ++ imm 1 a 0) (imm 2 b 1 ++ imm 2 b 0) (imm 3 c 1 ++ imm 3 c 0)
    d.extractLsb' (32 * (j % 2)) 32

/-! ### The operations of a block -/

/-- A block under way: the warp, its head run, the operations, and who the group is. -/
structure BlockEnv where
  uid : Nat
  slot : Nat
  run : BitVec 32
  parts : BitVec 32
  ops : List VosisOp
  ctx : KernelCtx

/-- How an operation stops its block: a trap of operation i, a parked access, or a wait. -/
inductive BlockStop where
  | trap (i : Nat) (c : Cause) (tval : DWord)
  | park (p : Park)
  | wait
  deriving DecidableEq, Repr

/-- A block's state: the machine with the accesses made so far, the values delivered, and why it has stopped. -/
structure BlockRun where
  s : State
  vals : SMap BlockVal
  stop : Option BlockStop

/-- Operation i. -/
def BlockEnv.op (x : BlockEnv) (i : Nat) : VosisOp := (x.ops[i]?).getD 0

/-- The operations that supply operation i's slots, by slot (R402). -/
def BlockEnv.supplier (x : BlockEnv) (i slot : Nat) : Option Nat :=
  (x.ops.zipIdx.find? fun p => vTgt p.1 0 == 512 + 4 * i + slot || vTgt p.1 1 == 512 + 4 * i + slot).map Prod.snd

/-- The value delivered to a slot. -/
def BlockEnv.input (x : BlockEnv) (k : BlockRun) (i slot : Nat) : BlockVal :=
  match x.supplier i slot with
  | some j => (SMap.find k.vals j).getD BlockVal.zero
  | none => BlockVal.zero

/-- The threads of the head run in which operation i is not guarded off (R404). -/
def BlockEnv.fires (x : BlockEnv) (k : BlockRun) (i : Nat) : BitVec 32 :=
  let o := x.op i
  let p := (x.input k i 3).pred
  x.run &&& (if vGuard o then (if vGneg o then ~~~p else p) else BitVec.allOnes 32)

/-- Operations that take values from other lanes (R140, R141, R418). -/
def crossesLanes (op : Nat) : Bool := [0x4A, 0x4B, 0x4C, 0x4D, 0x6C].contains op

/-- An input of an operation that takes values from other lanes: what another operation has not computed in a lane
outside the head run is open (log 11). -/
def BlockEnv.laneInput (x : BlockEnv) (k : BlockRun) (i slot : Nat) : BlockRun × BlockVal :=
  let v := x.input k i slot
  match x.supplier i slot with
  | none => (k, v)
  | some j =>
    if !crossesLanes (vOp (x.op i)) || vOp (x.op j) == 0x80 then (k, v)
    else
      let r := k.s.freeNat
      ({ k with s := r.1 },
       BlockVal.mix x.run v (BlockVal.ofRegs 4 (fun t j => BitVec.ofNat 32 (r.2 / 2 ^ (32 * (4 * t + j)))) 0))

/-- What an instruction that an operation is leaves: its stop, or its warp. -/
def State.blockOutcome (s : State) (x : BlockEnv) (i : Nat) : Except BlockStop Warp :=
  match s.ctl.blockTrap, (s.group? x.uid).bind fun g => g.warp? x.slot with
  | some (c, v), _ => .error (.trap i c v)
  | none, none => .error .wait
  | none, some w =>
    match w.parked with
    | some p => .error (.park p)
    | none => if s.ctl.wait then .error .wait else .ok w

/-- The warp with the registers, the threads and the count of the block's start: what an operation has changed of the rest
stays. -/
def Warp.between (w w0 : Warp) : Warp := { w with regs := w0.regs, threads := w0.threads, safecnt := 0 }

/-- Operation i performed on the values delivered to it (R404). -/
def BlockEnv.perform (x : BlockEnv) (k : BlockRun) (i : Nat) : BlockRun :=
  let o := x.op i
  match (k.s.group? x.uid).bind fun g => (g.warp? x.slot).map fun w => (g, w) with
  | none => k
  | some (g, w) =>
    if vOp o = 0x80 then { k with vals := SMap.put k.vals i (w.regs.blockRead o) }
    else if vOp o = 0x81 ∨ vOp o = 0x82 then k
    else
      match tShape (vOp o) (vWord o) with
      | none => { k with stop := some (.trap i .illinst 0) }
      | some sh =>
        let imm := BitVec.ofNat 32 (vImm o)
        let fires := x.fires k i
        let ka := x.laneInput k i 0
        let kb := x.laneInput ka.1 i 1
        let a := ka.2
        let b := kb.2
        let c := x.input k i 2
        let k := kb.1
        let off : BlockVal := match slotKind sh.a with
          | .none => BlockVal.zero
          | .pred => a
          | .regs n => if vImmuse o = 1 then BlockVal.ofRegs n (fun _ j => if j = 0 then imm else immHigh imm) 0 else a
        let poisoned := (a.poison ||| b.poison ||| c.poison) &&& fires
        if sh.emul then
          if poisoned &&& x.parts ≠ 0 then { k with stop := some (.trap i .poison 0) }
          else
            let v := BlockVal.ofRegs sh.dst.regs (fun t j => if bit poisoned t then 0 else emulated o a b c t j) poisoned
            { k with vals := SMap.put k.vals i (BlockVal.mix fires v off) }
        else
          let word := blockWord o sh
          match tCheck x.ctx (vOp o) { word with pred := 7 }, Instr.ofT (vOp o) word with
          | some t, _ => { k with stop := some (.trap i t.cause t.tval) }
          | none, none => { k with stop := some (.trap i .illinst 0) }
          | none, some ins =>
            let s := k.s.setGroup (g.setWarp x.slot { w with regs := blockRegs a b c fires (w.regs.fGet (vMod o % 8)), safecnt := 0 })
            match exec ins { s with ctl := { s.ctl with inBlock := true, wait := false, blockTrap := none } } with
            | .fault _ | .refused _ => { k with stop := some (.trap i .illinst 0) }
            | .next s =>
              match s.blockOutcome x i with
              | .error st =>
                let w2 := ((s.group? x.uid).bind fun g => g.warp? x.slot).getD w
                { k with s := s.setWarp x.uid x.slot (w2.between w), stop := some st }
              | .ok w2 =>
                let v : BlockVal :=
                  match sh.dst with
                  | .none => BlockVal.zero
                  | .pred => { BlockVal.zero with pred := w2.regs.fGet 5 }
                  | d => BlockVal.ofRegs d.regs (fun t j => w2.regs.get (12 + j) t) (w2.regs.poi 12)
                { k with s := s.setWarp x.uid x.slot (w2.between w), vals := SMap.put k.vals i (BlockVal.mix fires v off) }

/-- Operation i performed once, after those that supply it. -/
def BlockEnv.need (x : BlockEnv) : Nat → BlockRun → Nat → BlockRun
  | 0, k, _ => k
  | f + 1, k, i =>
    if k.stop.isSome || (SMap.find k.vals i).isSome then k
    else
      let k := ((List.range 4).filterMap (x.supplier i)).foldl (x.need f) k
      if k.stop.isSome then k else x.perform k i

/-- The order in which the operations of a block are performed: memory operations by LSID, the boundary operation, then
the rest by index, each after those that supply it (R404, R405). -/
def BlockEnv.order (x : BlockEnv) : List Nat :=
  let idx := List.range x.ops.length
  ((List.range 32).flatMap fun l => idx.filter fun i => vMemory (x.op i) && vLsid (x.op i) == l) ++
  (idx.filter fun i => vBoundary (x.op i)) ++ idx

/-- Every operation performed, from the values of an earlier wait on. -/
def BlockEnv.all (x : BlockEnv) (s : State) (vals : SMap BlockVal) : BlockRun :=
  x.order.foldl (x.need 128) { s := s, vals := vals, stop := none }

/-! ### The end of a block (R404) -/

/-- The operations with an opcode. -/
def BlockEnv.ofOp (x : BlockEnv) (op : Nat) : List Nat := (List.range x.ops.length).filter fun i => vOp (x.op i) == op

/-- Where a thread's block exits to: none for BEXIT.EXIT. -/
def BlockEnv.target (x : BlockEnv) (k : BlockRun) (i t : Nat) : Option Nat :=
  match vMod (x.op i) with
  | 0 => some (vImm (x.op i))
  | 1 => some (if vImmuse (x.op i) = 1 then vImm (x.op i) else ((x.input k i 0).word t 0).toNat)
  | _ => none

/-- The trap of the checks at a block's end, if any: exactly one BEXIT for each thread, no poison committed, a block at
each computed target, and no exit in a handler. -/
def BlockEnv.endBad (x : BlockEnv) (k : BlockRun) (inHandler : Bool) (isBlock : Nat → Bool) : Option BlockStop :=
  let exits := x.ofOp 0x82
  let mine (t : Nat) : List Nat := exits.filter fun i => bit (x.fires k i) t
  let count := (lanesOf x.parts).any fun t => (mine t).length != 1
  let poison := (x.ofOp 0x81 ++ exits.filter fun i => vMod (x.op i) == 1).find? fun i =>
    (x.input k i 0).poison &&& x.fires k i &&& x.parts != 0
  let away := (lanesOf x.parts).findSome? fun t =>
    (mine t).findSome? fun i => if vMod (x.op i) ≠ 1 then none else
      (x.target k i t).bind fun a => if isBlock a then none else some (i, a)
  let leaves := exits.find? fun i => vMod (x.op i) == 2 && x.fires k i &&& x.parts != 0
  if count then some (.trap ((exits.head?).getD 0) .illinst 0)
  else match poison with
    | some i => some (.trap i .poison 0)
    | none =>
      match away with
      | some (i, a) => some (.trap i .align (BitVec.ofNat 64 a))
      | none => if inHandler then leaves.map fun i => .trap i .illinst 0 else none

/-- The registers after the block's WRITEs. -/
def BlockEnv.writes (x : BlockEnv) (k : BlockRun) (r : Regs) : Regs :=
  (x.ofOp 0x81).foldl (fun r i =>
    let o := x.op i
    let v := x.input k i 0
    let m := x.fires k i
    let imm := BitVec.ofNat 32 (vImm o)
    let word (t j : Nat) : Word :=
      if vImmuse o = 1 then (if j = 0 then imm else immHigh imm) else v.word t j
    if 0xD0 ≤ vReg o then r.fSet (vReg o - 0xD0) m v.pred
    else r.writeDst (BitVec.ofNat 9 (vReg o)) (vWidth o) m (fun t => word t 3 ++ word t 2 ++ word t 1 ++ word t 0) v.poison) r

/-- The block committed: the WRITEs, then the PCs and the exits. -/
def BlockEnv.commit (x : BlockEnv) (k : BlockRun) : State :=
  match (k.s.group? x.uid).bind fun g => g.warp? x.slot with
  | none => k.s
  | some w =>
    let exits := x.ofOp 0x82
    let goesTo (t : Nat) : Option Nat := (exits.find? fun i => bit (x.fires k i) t).bind fun i => x.target k i t
    let stay : BitVec 32 := maskOf 32 32 fun t => bit x.parts t && (goesTo t).isSome
    let w := { w with regs := x.writes k w.regs, safecnt := 0, block := none, held := none, synced := none }
    let w := (w.redirect stay fun t => BitVec.ofNat 32 ((goesTo t).getD 0)).exitThreads (x.parts &&& ~~~stay)
    if x.parts &&& ~~~stay = 0 then k.s.setWarp x.uid x.slot w else k.s.afterThreads x.uid x.slot w

/-! ### A wait (R405, R406) -/

/-- The operations that take a value of operation b, directly or through others. -/
def BlockEnv.after (x : BlockEnv) (b : Nat) : List Nat :=
  (List.range x.ops.length).foldl
    (fun l i => if (List.range 4).any fun j => (x.supplier i j).any fun p => p == b || l.contains p then l ++ [i] else l) []

/-- Operations that may trap by a value that they take: UNPACK.T5, the memory operations and BEXIT. -/
def trapsOnValue (op : Nat) : Bool := op == 0x1F || (decide (0x60 ≤ op) && decide (op ≤ 0x6C)) || op == 0x82

/-- The boundary operations whose own checks follow their wait: CBLD and the ray queries (R118, R310). -/
def checksAfterWait (op : Nat) : Bool := [0x38, 0x70, 0x71, 0x72].contains op

/-- The boundary operation b may yet trap once its wait is over, or one that takes its value may: by the value, or by a
poisoned input beside it. -/
def BlockEnv.mayTrapAfter (x : BlockEnv) (k : BlockRun) (b : Nat) : Bool :=
  checksAfterWait (vOp (x.op b)) || (x.after b).any fun i => trapsOnValue (vOp (x.op i)) || (List.range 3).any fun j => (x.input k i j).poison != 0

/-- What a block that waits has settled: every operation that needs nothing of the boundary operation, with the checks at
the block's end, or nothing where a memory operation waits or a trap may yet arise, so that no trap follows a memory
operation that stands (R406, log 46). -/
inductive BlockWait where
  | trap (i : Nat) (c : Cause) (tval : DWord)
  | whole
  | stands (k : BlockRun)

def BlockEnv.waiting (x : BlockEnv) (k : BlockRun) (inHandler : Bool) (isBlock : Nat → Bool) : BlockWait :=
  let idx := List.range x.ops.length
  match idx.find? fun i => vBoundary (x.op i) with
  | none => .whole
  | some b =>
    if idx.any fun i => vMemory (x.op i) && (SMap.find k.vals i).isNone then .whole
    else
      let late := x.after b
      let k := (idx.filter fun i => i != b && !late.contains i).foldl (x.need 128) { k with stop := none }
      match k.stop with
      | some (.trap i c v) => .trap i c v
      | some _ => .whole
      | none =>
        if x.mayTrapAfter k b then .whole
        else match x.endBad k inHandler isBlock with
          | some (.trap i c v) => .trap i c v
          | _ => .stands k

/-! ### A block's turn -/

/-- The trap of a block (R406): over the machine as the block found it, with TPC the block's offset, TMASK the head run
and TINST the operation. -/
def State.blockTrap (s : State) (g : Group) (slot : Nat) (w : Warp) (run : BitVec 32) (pc : Nat) (o : VosisOp) (c : Cause)
    (tval : DWord) : State :=
  s.tTrap g slot { w with block := none } run pc (vOp o) (vMod o) (o.extractLsb' 0 64) (o.extractLsb' 64 64) c tval

/-- A warp of a kernel in portable form stops here under a pending request: only between blocks (R227, R406). -/
def Group.stopsHere (g : Group) (slot : Nat) (w : Warp) : Bool :=
  g.preempt && w.mode == .running && !w.inHandler && w.block.isNone && g.mayStop slot

/-- The turn of a head run at a block (R404 to R406): the whole block or nothing of it; where its boundary operation
waits and no trap can follow, what comes before it is done once. -/
def State.runBlock (s : State) (g : Group) (slot : Nat) (w : Warp) (pc : Nat) (run : BitVec 32) : State :=
  let off (s : State) : State := { s with ctl := { s.ctl with inBlock := false, blockTrap := none } }
  if (match w.mode with | .saved _ => true | _ => false) then s
  else if g.stopsHere slot w then s.stopWarp g slot w 0
  else
    match SMap.find g.kern.blocks pc with
    | none => s.blockTrap g slot w run pc 0 .illinst 0
    | some ops =>
      let x : BlockEnv :=
        { uid := g.uid, slot := slot, run := run, parts := run &&& ~~~w.helpers, ops := ops,
          ctx := { g.kern.ctx slot with vregs := 128, sregs := 64 } }
      let k := x.all s (w.block.getD [])
      let isBlock (a : Nat) : Bool := (SMap.find g.kern.blocks a).isSome
      let stop : Option BlockStop := if k.stop.isSome then k.stop else x.endBad k w.inHandler isBlock
      let s := { s with ctl := { s.ctl with struck := k.s.ctl.struck } }
      match stop with
      | none => off (x.commit k)
      | some (.trap i c v) => s.blockTrap g slot w run pc (x.op i) c v
      | some (.park p) =>
        (s.queueFault g p.va p.cause p.agent).setWarp g.uid slot { w with parked := some p }
      | some .wait =>
        let w2 := ((k.s.group? g.uid).bind fun g => g.warp? slot).getD w
        match x.waiting k w.inHandler isBlock with
        | .trap i c v => s.blockTrap g slot w run pc (x.op i) c v
        | .whole => off ((s.setWarp g.uid slot { w with semWait := w2.semWait }).waits)
        | .stands k => off ((k.s.setWarp g.uid slot { w2 with block := some k.vals }).waits)

end Sys2Proof.Machine
end

