-- ==== Sys2Proof/Machine/Turns.lean ====
section
/-!
DEFINITION. The turns of the machine: how each agent issues, how a packet's command starts, how time passes, and
which turns there are to choose from when none has been asked for (log 1, log 3).
-/

namespace Sys2Proof.Machine

/-- A next state changed; a stop stays as it is. -/
def onNext (r : Host.Outcome State Fault Refusal) (f : State → Host.Outcome State Fault Refusal) :
    Host.Outcome State Fault Refusal :=
  match r with
  | .next s => f s
  | .fault x => .fault x
  | .refused x => .refused x

/-- The machine with an agent about to act, and what comes with its turn. -/
def State.actFor (s : State) (a : Agent) (arg : EventArg) : State :=
  { s with ctl := { s.ctl with cur := a, arg := arg, latch := Latch.off, wait := false, bandFault := none, struck := none } }

/-- After a turn of a group's: the group is struck where the turn read a marked byte (R234). -/
def State.afterRead (s : State) (uid : Option Nat) : State :=
  match s.ctl.struck, uid with
  | some loc, some u => { s with ctl := { s.ctl with struck := none } }.strike u loc
  | some _, none => { s with ctl := { s.ctl with struck := none } }
  | none, _ => s

/-! ### Streams -/

/-- BAR.SYNC, whose wait is no stopping point (R227). -/
def isBarSync (i : Instr) : Bool := match i with | .barSync _ => true | _ => false

/-- A spawned warp that an emission or a start comes before: a record is emitted, and a warp started with the records queued
then, in the core clk in which it can be (R325, R326), so that no spawned thread of the group exits first and lets a further
record in (R471, log 34). -/
def State.startFirst (s : State) (uid slot : Nat) : Bool :=
  decide (32 ≤ slot) && (match s.group? uid with | some g => s.spawnDue g | none => false)

/-- A warp's turn (R123 to R125, R227). -/
def State.runWarp (s : State) (uid slot : Nat) : Host.Outcome State Fault Refusal :=
  if s.startFirst uid slot then s.notDue
  else
  match (s.actFor (.warp uid slot) EventArg.zero).warpTurn uid slot with
  | .done s => .next (s.afterRead (some uid))
  | .run i s => onNext (exec i s) fun t => .next ((t.afterRead (some uid)).maybeStop uid slot (isBarSync i))
  | .block s g slot w pc run => .next ((s.runBlock g slot w pc run).afterRead (some uid))

/-- An A context's turn (R149, R150). -/
def State.runActx (s : State) (uid : Nat) : Host.Outcome State Fault Refusal :=
  match (s.actFor (.actx uid) EventArg.zero).aTurn uid with
  | .done s | .block s _ _ _ _ _ => .next (s.afterRead (some uid))
  | .run i s => onNext (exec i s) fun t => .next (t.afterRead (some uid))

/-! ### Line cores (R201 to R203, R215) -/

/-- The 16 bytes of a band program at SPC; none at or beyond its end. -/
def State.bundleAt (s : State) (n : Nat) : Option (BitVec 128) :=
  let c := s.line n
  let p := (s.head c.head).prog
  if p.length < c.spc.toNat + 16 then none else some (BitVec.ofNat 128 (leNat ((p.drop c.spc.toNat).take 16)))

/-- The operations of a bundle over a state, in order, each on the registers latched at the issue. -/
def execAll : List Instr → State → Host.Outcome State Fault Refusal
  | [], s => .next s
  | i :: l, s => onNext (exec i s) (execAll l)

/-- A line core after a bundle that neither waited nor faulted: SPC moves, and the bundle is counted. -/
def State.bundleDone (s : State) (n : Nat) : State :=
  let c := s.line n
  let spc := s.ctl.latch.target.getD (c.spc + 16)
  (s.setLine n { c with spc := spc }).bump (s.head c.head).tenant 13 0 1

/-- The registers of a line core as a bundle reads them (R202). -/
def LineCore.latch (c : LineCore) (mx : List MxOp) : Latch :=
  { w := c.w, z := c.z, e := c.e, mx := mx, on := true, target := none }

/-- A bundle: V0, V1, M, then S; a bundle that waits or faults has no effect of its own (R202, R215, log 13). -/
def State.runBundle (s : State) (n : Nat) (sl v0 v1 : Instr) (m : Option Instr) : Host.Outcome State Fault Refusal :=
  let s1 := { s with ctl := { s.ctl with latch := (s.line n).latch (s.mxOf n) } }
  onNext (execAll (v0 :: v1 :: (m.toList ++ [sl])) s1) fun t =>
    if t.ctl.wait then .next { s with ctl := { s.ctl with wait := true } }
    else match t.ctl.bandFault with
      | some k => .next (s.bandFaultOf n k)
      | none =>
        let t := t.bundleDone n
        .next { t with ctl := { t.ctl with latch := Latch.off } }

/-- A line core's turn: the bundle at SPC, or the band fault of its fetch or decode (R203, R216). -/
def State.runLine (s : State) (n : Nat) : Host.Outcome State Fault Refusal :=
  let s := s.actFor (.line n) EventArg.zero
  if (s.line n).st ≠ .running then .next s
  else
    match s.bundleAt n with
    | none => .next (s.bandFaultOf n 2)
    | some b =>
      match decodeBundle b with
      | none => .next (s.bandFaultOf n 1)
      | some (sl, v0, v1, m) => s.runBundle n sl v0 v1 m

/-! ### The queue interpreter (R340, R345) -/

/-- A turn of the program that runs: the word at its place; a place beyond the program or an undecodable word fails
the packet. -/
def State.runQi (s : State) : Host.Outcome State Fault Refusal :=
  let s := s.actFor .qi EventArg.zero
  match s.qi.run with
  | none => .next s
  | some r =>
    match (r.words[r.pc]?).bind decodeQ with
    | none => .next (s.failRun r .badprog 0)
    | some i => exec i s

/-- The step that a command is, by its type and body (R341). -/
def cmdInstr (ty : Nat) (c : Command) : Instr :=
  match ty with
  | 0 => .nopPacket
  | 1 => .launch
  | 2 => .invoke
  | 3 => .copy
  | 4 => .waitsem
  | 5 => .signalsem
  | 6 => .fencePacket
  | 7 => .event
  | 8 => .slotload
  | 9 => .slotfree
  | 10 => .qprog
  | 11 => if Command.bits c 0 25 25 = 1 then .mapupdDecay else if Command.bits c 0 24 24 = 1 then .mapupdUnmap else .mapupd
  | 12 => .tlbinv
  | 13 => .codeinv
  | 14 => if Command.bits c 0 8 8 = 1 then .headcfgEnable else .headcfgDisable
  | _ =>
    match Command.bits c 0 9 8 with
    | 0 => .rsetupRegister
    | 1 => .rsetupUnregister
    | _ => .rsetupKill

/-- A turn of a packet's command. -/
def State.runCommand (s : State) (id n : Nat) : Host.Outcome State Fault Refusal :=
  match s.qi.issued.find? fun x => x.id == id with
  | none => .next s
  | some p =>
    match p.cmds[n]?, s.cmdMay p n with
    | some c, true =>
      let s := s.actFor .none { EventArg.zero with ch := n }
      exec (cmdInstr c.ty c.cmd) { s with ctl := { s.ctl with cmd := c.cmd } }
    | _, _ => .next s

/-! ### Time (R14, R427, log 3) -/

/-- A group's run timer advances while it runs (R353). -/
def Group.tick (g : Group) (c n : Nat) : Group := if g.core == c && g.started then { g with timer := g.timer + n } else g

/-- One management clk: every 2^16th the logs are tested, every 2^20th each tenant's counts are written (R384, R427). -/
def State.tickMgmt (s : State) : State :=
  let c := s.fw.mgmtClk + 1
  let s := { s with fw := { s.fw with mgmtClk := c } }
  let s :=
    if c.toNat % 2 ^ 16 = 0 then
      (List.range 4).foldl (fun s d => s.drainAll d ((s.die d).faults.length + (s.die d).late.length)) s
    else s
  if c.toNat % 2 ^ 20 = 0 then (s.fw.tenants.map Prod.fst).foldl (fun s t => s.snapshot t) s else s

/-- Time passes in a domain: n clk, or n lines of a head. The clk of a core that is disabled or stopped does not
(R14, R440, R444). -/
def State.tick (s : State) (d : Domain) (n : Nat) : State :=
  match d with
  | .core c =>
    if bit s.fw.cores c && !s.fw.stopped then
      let s := s.setCore c { s.core c with clk := (s.core c).clk + BitVec.ofNat 64 n }
      { s with groups := SMap.mapv (fun _ g => Group.tick g c n) s.groups }
    else s
  | .fabric => { s with fw := { s.fw with fabricClk := s.fw.fabricClk + BitVec.ofNat 64 n } }
  | .ssp => { s with fw := { s.fw with sspClk := s.fw.sspClk + BitVec.ofNat 64 n } }
  | .mgmt => (List.range n).foldl (fun s _ => s.tickMgmt) s
  | .line h => s.tickLine h n

/-! ### A turn -/

/-- The group whose read an engine step is. -/
def State.readerOf (s : State) (i : Instr) (a : EventArg) : Option Nat :=
  match i with
  | .ceCommandStart => ((SMap.get [] (s.core a.core).chans a.ch).head?).map fun x => x.uid
  | .cbldFill | .groupResumption => some a.uid
  | _ => none

/-- A line of a core's own caches or TLB (R11). -/
def cacheOfCore (c : CacheLine) : Bool := match c with | .l1 _ _ | .l1i _ _ _ | .l1Tlb _ _ => true | _ => false

/-- A turn that core clk drives: none happens while it is stopped (R444). -/
def Turn.byCoreClk (t : Turn) : Bool :=
  match t with
  | .warp _ _ | .actx _ | .ray _ _ => true
  | .event i a =>
    match i with
    | .ceCommandStart | .ceCommandComplete | .taCommandStart | .taCommandComplete | .taRunFault | .cbldFill
    | .rayQueryTake | .splitRecordEmit | .spawnWarpStart | .rayQueryComplete
    | .groupStart | .groupEnd | .groupSaveComplete | .groupResumption => true
    | .cacheEviction => cacheOfCore a.cline
    | .uncorrectableError => match a.soft with | .workingBank _ => true | _ => false
    | _ => false
  | _ => false

/-- Events of a tenant that wait for its ring (R434). -/
def State.waiting (s : State) (t : Nat) : Nat := (s.fw.events.filter fun e => e.1 == t).length

/-- A turn whose release would post an event beyond the 4,096 of its tenant that may wait is not taken: its agent
waits (R434, log 15). -/
def State.gate (s : State) (r : Host.Outcome State Fault Refusal) : Host.Outcome State Fault Refusal :=
  onNext r fun t =>
    if (List.range 16).any fun k => decide (4096 < t.waiting k) && decide (s.waiting k < t.waiting k) then
      .next { s with ctl := { s.ctl with wait := true } }
    else .next t

/-- What a turn does. -/
def State.takeTurn (s : State) (t : Turn) : Host.Outcome State Fault Refusal :=
  if t.byCoreClk && s.fw.stopped then .next s
  else
    match t with
    | .warp uid slot => s.runWarp uid slot
    | .actx uid => s.runActx uid
    | .line n => s.runLine n
    | .qi => s.runQi
    | .command id n => s.runCommand id n
    | .ray c n =>
      let s := s.actFor .none EventArg.zero
      .next ((s.rayTurn c n).afterRead (((s.core c).rays[n]?).map fun x => x.q.uid))
    | .event i a => onNext (exec i (s.actFor .none a)) fun t => .next (t.afterRead (s.readerOf i a))
    | .tick d n => .next (s.tick d n)

/-- A turn with the walks that it has asked for. Where an access of it misses the die TLB beyond those, the turn is not
taken: its agent asks for the walk and waits (R383, log 58). -/
def State.walkTurn (s : State) (t : Turn) : Host.Outcome State Fault Refusal :=
  onNext ({ s with ctl := { s.ctl with served := s.served t, missed := none } }.takeTurn t) fun u =>
    match u.ctl.missed with
    | some m => .next (s.askWalk t m).waits
    | none => .next ({ u with ctl := { u.ctl with served := [] } }.closeWalks fun x => x == t)

/-- What a turn comes to. -/
def State.runTurn (s : State) (t : Turn) : Host.Outcome State Fault Refusal :=
  s.gate (onNext (s.walkTurn t) fun u => .next u.fitCaches)

/-! ### The turns there are to choose from (log 1) -/

/-- A step that no stream issues, as a turn. -/
def eventTurn (i : Instr) (f : EventArg → EventArg) : Turn := .event i (f EventArg.zero)

/-- The turns of a group: its streams, its fills, and its start, end, save and resumption. -/
def Group.turns (g : Group) : List Turn :=
  let ev (i : Instr) : Turn := eventTurn i fun a => { a with uid := g.uid }
  [.actx g.uid, ev .groupStart, ev .groupEnd, ev .groupSaveComplete, ev .groupResumption] ++
  g.warps.flatMap fun p =>
    Turn.warp g.uid p.1 :: p.2.cbPend.map fun f => eventTurn .cbldFill fun a => { a with uid := g.uid, slot := p.1, ch := f.1 }

/-- The turns of a core's engines. -/
def Core.turns (c : Core) (n : Nat) : List Turn :=
  let ev (i : Instr) (ch : Nat) : Turn := eventTurn i fun a => { a with core := n, ch := ch }
  (if c.ta.queue.isEmpty then [] else [ev .taCommandStart 0, ev .taRunFault 0, ev .taCommandComplete 0]) ++
  (c.chans.flatMap fun p =>
    [eventTurn .ceCommandStart fun a => { a with core := n, ch := p.1, len := 1 }, ev .ceCommandComplete p.1]) ++
  (if c.fifo.isEmpty then [] else [ev .rayQueryTake 0]) ++
  (List.range c.rays.length).flatMap fun k =>
    [.ray n k, ev .splitRecordEmit k, ev .rayQueryComplete k] ++
    if c.splits.isEmpty then []
    else (List.range 32).map fun i => eventTurn .spawnWarpStart fun a => { a with core := n, ch := k, slot := 32 + i }

/-- The turns of a head: its next line, or the point that it has come to. -/
def Head.turns (x : Head) (h : Nat) : List Turn :=
  let ev (i : Instr) : Turn := eventTurn i fun a => { a with head := h }
  .tick (.line h) 1 :: (if x.on then [ev .bandDispatch] else []) ++
  match x.due with
  | [] => if x.pending.isEmpty then [] else [ev .headcfgEffect]
  | .effect :: _ => [ev .headcfgEffect]
  | .scan _ _ :: _ => [ev .bandScanOut]
  | .deadline _ _ :: _ => [ev .bandDeadline]
  | .renderSet _ :: _ => [ev .renderSetLatch]
  | .pose _ _ :: _ => [ev .poseLatch]

/-- What the caches and TLBs may evict (R242, R243, R246, R382). -/
def State.evictions (s : State) : List Turn :=
  let ev (c : CacheLine) : Turn := eventTurn .cacheEviction fun a => { a with cline := c }
  (s.cores.flatMap fun p =>
    (p.2.l1.map fun l => ev (.l1 p.1 l.1)) ++ (p.2.l1i.map fun l => ev (.l1i p.1 (l.1 / 2 ^ 45) (l.1 % 2 ^ 45))) ++
    (List.range p.2.tlb.length).map fun k => ev (.l1Tlb p.1 k)) ++
  (s.dies.flatMap fun p =>
    (p.2.code.map fun l => ev (.codeCache p.1 l.1)) ++ (p.2.dcache.map fun l => ev (.dieCache p.1 l.1)) ++
    (List.range p.2.tlb.length).map fun k => ev (.dieTlb p.1 k)) ++
  (s.frame.map fun l => ev (.frame l.1)) ++ s.ringp.map fun l => ev (.ring l.1)

/-- The commands that may have a turn. -/
def State.cmdTurns (s : State) : List Turn :=
  s.qi.issued.flatMap fun p =>
    ((List.range p.cmds.length).filter fun n => s.cmdMay p n).map fun n => Turn.command p.id n

/-- Every turn that the machine may take of itself. -/
def State.turns (s : State) : List Turn :=
  (s.groups.flatMap fun p => p.2.turns) ++ (s.cores.flatMap fun p => p.2.turns p.1) ++
  (s.lines.map fun p => Turn.line p.1) ++
  (s.mx.map fun x => eventTurn .matrixOperationComplete fun a => { a with ch := x.line / 8 }) ++
  (s.heads.flatMap fun p => p.2.turns p.1) ++ [.qi, eventTurn .qiTakePacket id, eventTurn .groupPlacement id] ++ s.cmdTurns ++
  (s.lu.grids.flatMap fun p =>
    [eventTurn .gridReady fun a => { a with uid := p.1 }, eventTurn .quantumExpiry fun a => { a with uid := p.1 }]) ++
  ((List.range 4).map fun d => eventTurn .faultLogDrain fun a => { a with die := d }) ++
  ((List.range 4).flatMap fun d => (s.inProgress d).map fun w =>
    eventTurn .pageWalk fun a => { a with core := 40 * d, asid := w.asid, va := 65536 * w.page }) ++
  (s.fw.tenants.map fun p => eventTurn .eventSend fun a => { a with queue := p.1 }) ++
  ((List.range 160).map fun c => Turn.tick (.core c) 1) ++ [.tick .fabric 1, .tick .ssp 1, .tick .mgmt 1] ++ s.evictions

/-- The turn that the machine takes of itself: one of those it may take, or nothing where that one is not due. -/
def State.ownTurn (s : State) : Host.Outcome State Fault Refusal :=
  let l := if s.fw.up then s.turns else []
  let s' := { s with ctl := { s.ctl with turns := s.ctl.turns + 1 } }
  match l[Config.turnAt s.ctl.turns % l.length]? with
  | none => .next s'
  | some t =>
    match s'.runTurn t with
    | .next x => .next x
    | .fault _ => .next s'
    | .refused r => .refused r

end Sys2Proof.Machine
end

