-- ==== Sys2Proof/Machine/Step.lean ====
section
/-!
DEFINITION. The step: the first turn of the agenda, or one that the machine takes of itself; and the state in which
the next step fetches a given instruction (log 12).
-/

namespace Sys2Proof.Machine

/-- One step of the module. -/
def step (s : State) : Host.Outcome State Fault Refusal :=
  match s.ctl.agenda with
  | t :: rest => { s with ctl := { s.ctl with agenda := rest } }.runTurn t
  | [] => s.ownTurn

/-! ### An instruction placed where the next step fetches it -/

/-- A kernel of one instruction: its T or A section is the line at virtual address 0. -/
def placedKern (t a : Nat) : Kern :=
  { tbase := 0, tlen := t, abase := 0, alen := a, tentry := 0, aentry := some 0, ttrap := none, atrap := none,
    safe := List.replicate 256 [some 0, some 0, some 0, some 0], vregs := 128, sregs := 64, live := 64, nbar := 16, spawn := 0,
    preload := 0, maxdist := 65536, smem := 2097152, quantum := 16, crown := false, legacy := false, vver := 0,
    blocks := [] }

/-- A launch of one group of one warp. -/
def placedLaunch (k : Kern) : Launch :=
  { asid := 0, tenant := 0, obj := 0, ctxbase := 0, tx := 32, ty := 1, tz := 1, threads := 32, warps := 1, clg := 1, clc := 1,
    quantum := 16, crown := false, barmask := [], kregs := [], kern := k }

/-- The group that runs it: group 0 of no grid, on core 0, started, with every register 0. -/
def placedGroup (k : Kern) : Group :=
  { uid := 0, grid := 0, gid := 0, gx := 1, gy := 1, ln := placedLaunch k, core := 0, quarter := 0, actx := 0, pipes := [(0, 0)],
    warps := [(0, Warp.fresh (startThreads 32 32 0) 0)], a := ACtx.fresh 0 0x7FFF80, queues := Queues.empty, bars := [],
    smem := [], taSeq := 0, ceSeq := 0, ceInfo := [], ceScope := [], side := 0, started := true, preempt := false, toHead := false, timer := 0,
    replayed := false, image := false, savedAs := none, ring := none, heldAtSave := false, frozenIO := none }

/-- The state with a stream's instruction in core 0's instruction cache and its turn next. -/
def State.placeCode (s : State) (k : Kern) (w : Nat) (t : Turn) : State :=
  let c := s.core 0
  let s := s.setCore 0 { c with l1i := SMap.put c.l1i 0 (BitVec.ofNat 1024 w) }
  { s with groups := SMap.put s.groups 0 (placedGroup k), ctl := { s.ctl with agenda := t :: s.ctl.agenda } }

/-- The state with a queue program of one word running and its turn next. -/
def State.placeWord (s : State) (w : Nat) : State :=
  let r : QRun :=
    { cause := none, queue := 1, index := 0, packet := List.replicate 16 0, prog := some { words := [BitVec.ofNat 16 w], windows := [] }, b := [],
      flag := false, loops := [], pc := 0, count := 0, cmds := [], staged := none, record := none }
  { s with qi := { s.qi with run := some r }, ctl := { s.ctl with agenda := .qi :: s.ctl.agenda } }

/-- The state whose next step fetches and runs the instruction with these bits, the bits above them zero. -/
def State.withFetchWord (s : State) (nbits w : Nat) : State :=
  if nbits ≤ 16 then s.placeWord w
  else if nbits ≤ 32 ∨ (64 < nbits ∧ nbits ≤ 96) then s.placeCode (placedKern 0 12) (w % 2 ^ nbits) (.actx 0)
  else s.placeCode (placedKern 16 0) (w % 2 ^ nbits) (.warp 0 0)

end Sys2Proof.Machine
end

