-- ==== Sys2Proof/Safety.lean ====
section
/-!
DEFINITION. The terms in which claims about the machine are stated: the canonical form of memory, the bytes that each
level of the memory system holds, what an instruction that is complete leaves unchanged, and the tables of results
that the rules give the arithmetic instructions.
-/

namespace Sys2Proof.Machine

/-! ### Memory -/

/-- Physical memory is in its canonical form: every address rises, and no listed byte reads as an unlisted one. -/
def State.canonical (s : State) : Prop := Memory.wf s.mem = true

/-- The machine's records stand under their own keys: a group, resident or saved, under its number, a grid under its number; these
tables, the rings and the lines of the two partitions are sorted; every scratchpad is in its canonical form. -/
structure State.keyed (s : State) : Prop where
  groups : SMap.sorted s.groups = true
  uid : ∀ u g, s.group? u = some g → g.uid = u ∧ SMap.wf 0 g.smem = true
  grids : SMap.sorted s.lu.grids = true
  num : ∀ n r, SMap.find s.lu.grids n = some r → r.num = n
  saved : SMap.sorted s.lu.saved = true
  savedUid : ∀ u g, SMap.find s.lu.saved u = some g → g.uid = u ∧ SMap.wf 0 g.smem = true
  rings : SMap.sorted s.qi.rings = true
  frame : SMap.sorted s.frame = true
  ringp : SMap.sorted s.ringp = true

/-- Where a byte of global memory can stand (R242 to R244). -/
inductive Level where
  | l1 (core : Nat)
  | die (d : Nat)
  /-- 1 the frame partition, any other number the ring partition -/
  | part (kind : Nat)
  | home
  deriving DecidableEq, Repr

/-- Byte i of a line with its valid and its dirty bit. -/
def Line.byteAt (l : Line) (i : Nat) : Bool × Bool × Byte := (bit l.valid i, bit l.dirty i, lineByte l.data i)

/-- The byte that a level holds at a physical address, with its valid and its dirty bit. -/
def State.levelByte (s : State) (v : Level) (a : Nat) : Bool × Bool × Byte :=
  match v with
  | .l1 c => (s.l1Line c (a / 128)).byteAt (a % 128)
  | .die d => (s.dieLine d (a / 128)).byteAt (a % 128)
  | .part k => (s.partLine k (a / 128)).byteAt (a % 128)
  | .home => (true, false, memByte s.mem a)

/-- Every level holds the same byte, with the same bits, at every address outside a set. -/
def SameBytes (s t : State) (stored : Nat → Prop) : Prop :=
  ∀ (v : Level) (a : Nat), ¬ stored a → t.levelByte v a = s.levelByte v a

/-- The counters of a tenant's hotness table hold the address (R388): a home agent's misses and RESIDE.HOT move them. -/
def State.hotByte (s : State) (a : Nat) : Prop :=
  ∃ t pa i, s.hotIndex t pa = some i ∧ (a = s.hotAddr t i ∨ a = s.hotAddr t i + 1)

/-- A level holds the byte, valid or dirty. -/
def Held (b : Bool × Bool × Byte) : Prop := b.1 = true ∨ b.2.1 = true

/-- Reads and translations alone lie between the states: only caches, TLBs, counts, the hotness counters and the notes of
a marked byte and of a die-TLB miss have moved, and every byte that a level holds afterwards is one that a level held
before. -/
structure Warmed (s t : State) : Prop where
  rest : t = { s with cores := t.cores, dies := t.dies, frame := t.frame, ringp := t.ringp, mem := t.mem,
                      ctl := { s.ctl with struck := t.ctl.struck, missed := t.ctl.missed },
                      fw := { s.fw with counts := t.fw.counts, misses := t.fw.misses, marked := t.fw.marked } }
  bytes : ∀ v a, ¬ s.hotByte a → Held (t.levelByte v a) →
    ∃ v', Held (s.levelByte v' a) ∧ (t.levelByte v a).2.2 = (s.levelByte v' a).2.2

/-! ### A T instruction that is complete -/

/-- What completing a T instruction does to the state s1 that its own effect leaves, the group g1 and the warp w1 in
it and the threads `red` that it has redirected: the warp w' that it leaves differs from w1 in the last-read marks'
registers, its PCs, SAFECNT and a push left due; the group's queues change only by the push; nothing else moves but the
count of the tenant's issues (R25, R123, R220, R298, R427). -/
structure TEnv.Done (e : TEnv) (s1 : State) (g1 : Group) (w1 : Warp) (red : BitVec 32) (t : State) (g' : Group)
    (w' : Warp) : Prop where
  rest : t = { s1 with groups := t.groups, fw := { s1.fw with counts := t.fw.counts } }
  count : ∀ k, SMap.get 0 t.fw.counts k =
    if k = countKey e.g.tenant 10 e.g.core then SMap.get 0 s1.fw.counts k + 1 else SMap.get 0 s1.fw.counts k
  others : ∀ uid, uid ≠ e.g.uid → t.group? uid = s1.group? uid
  here : t.group? e.g.uid = some g'
  group : g' = { g1 with warps := g'.warps, queues := g'.queues }
  slot : g'.warp? e.slot = some w'
  mates : ∀ k, k ≠ e.slot → g'.warp? k = g1.warp? k
  warp : w' = { w1 with regs := e.drop w1.regs, threads := w'.threads, safecnt := w'.safecnt, held := none,
                        keptPop := if e.w.mode.routine then w1.keptPop else none, synced := none, pushDue := w'.pushDue }
  safecnt : w'.safecnt = if safeOps.contains e.op then w1.safecnt else countIssue w1.safecnt
  pcs : ∀ th, w'.thread th =
    match w1.thread th with
    | .live q => if bit e.run th && !bit red th && q.toNat == e.pc then .live (BitVec.ofNat 32 (e.pc + tBytes e.i)) else .live q
    | x => x
  push :
    if e.i.pushq = 0 then g'.queues = g1.queues ∧ w'.pushDue = w1.pushDue
    else
      match g1.pushT e.i.pushq.toNat e.slot with
      | some gp => g'.queues = gp.queues ∧ w'.pushDue = w1.pushDue
      | none => g'.queues = g1.queues ∧ w'.pushDue = some e.i.pushq.toNat

/-- The T instruction in environment e answers a state in which it has completed with the effect s1, g1, w1. -/
def TEnv.Completes (e : TEnv) (o : Host.Outcome State Fault Refusal) (s1 : State) (g1 : Group) (w1 : Warp)
    (red : BitVec 32) : Prop :=
  ∃ t g' w', o = .next t ∧ e.Done s1 g1 w1 red t g' w'

/-- What completing an A instruction does to the state s1 that its own effect leaves, the group g1 and the context a1
in it: APC past the instruction unless it has jumped, SAFECNT, and the push of the payload v; nothing else moves but
the count of the tenant's issues (R152, R156, R158, R172, R427). -/
structure AEnv.Done (e : AEnv) (s1 : State) (g1 : Group) (a1 : ACtx) (v : Word) (jumped : Bool) (t : State) (g' : Group)
    (a' : ACtx) : Prop where
  rest : t = { s1 with groups := t.groups, fw := { s1.fw with counts := t.fw.counts } }
  count : ∀ k, SMap.get 0 t.fw.counts k =
    if k = countKey e.g.tenant 11 e.g.core then SMap.get 0 s1.fw.counts k + 1 else SMap.get 0 s1.fw.counts k
  others : ∀ uid, uid ≠ e.g.uid → t.group? uid = s1.group? uid
  here : t.group? e.g.uid = some g'
  group : g' = { g1 with a := a', queues := g'.queues }
  ctx : a' = { a1 with held := none, apc := a'.apc, safecnt := a'.safecnt, restart := false, pushDue := a'.pushDue }
  apc : a'.apc = if jumped then a1.apc else a1.apc + (if e.long then 12 else 4)
  safecnt : a'.safecnt = if aSafeOps.contains e.op then a1.safecnt else if a1.restart then 0 else countIssue a1.safecnt
  push :
    if e.i.pushq = 0 then g'.queues = g1.queues ∧ a'.pushDue = a1.pushDue
    else
      match g1.pushA e.i.pushq.toNat v with
      | some gp => g'.queues = gp.queues ∧ a'.pushDue = a1.pushDue
      | none => g'.queues = g1.queues ∧ a'.pushDue = some (e.i.pushq.toNat, v)

/-- The A instruction in environment e answers a state in which it has completed with the effect s1, g1, a1. -/
def AEnv.Completes (e : AEnv) (o : Host.Outcome State Fault Refusal) (s1 : State) (g1 : Group) (a1 : ACtx) (v : Word)
    (jumped : Bool) : Prop :=
  ∃ t g' a', o = .next t ∧ e.Done s1 g1 a1 v jumped t g' a'

/-- The warp with its destination written (R23, R30 to R32, R35). -/
def TEnv.wrote (e : TEnv) (n : Nat) (v : Nat → BitVec 128) (poi : BitVec 32) : Warp :=
  { e.w with regs := e.w.regs.writeDst e.i.dst n e.act v poi }

/-- No active thread that is not a helper makes POISON be raised (R36, R86). -/
def TEnv.unpoisoned (e : TEnv) : Prop := e.i.spec = 1 ∨ e.poisoned &&& e.parts = 0

/-- A row of results: a constructor, its opcode, the registers of its result, the result of a thread, the threads that
are poisoned for the instruction, and the condition under which it does not wait. -/
structure TRow where
  ins : TWord → Instr
  op : Nat
  regs : TWord → Nat
  val : TEnv → Nat → BitVec 128
  pm : TEnv → BitVec 32 := fun e => e.poisoned &&& e.act
  ready : TEnv → Prop := fun _ => True

/-- The row's instruction completes with the row's result in every active thread, a poisoned thread's being 0 with
poison set, unless it raises POISON (R31, R35, R36, R86); nothing else of its warp changes but what `TEnv.Done` says. -/
def TRow.Gives (r : TRow) : Prop :=
  ∀ (i : TWord) (s : State) (e : TEnv), s.tReady r.op i = some e → r.ready e → (e.i.spec = 1 ∨ r.pm e &&& e.parts = 0) →
    e.Completes (exec (r.ins i) s) e.s e.g (e.wrote (r.regs i) (fun t => if bit (r.pm e) t then 0 else r.val e t) (r.pm e)) 0

/-- Without .SPEC, a poisoned thread that is not a helper makes the row's instruction raise POISON (R36). -/
def TRow.Traps (r : TRow) : Prop :=
  ∀ (i : TWord) (s : State) (e : TEnv), s.tReady r.op i = some e → r.ready e → e.i.spec = 0 → r.pm e &&& e.parts ≠ 0 →
    exec (r.ins i) s = .next (e.trap .poison 0)

/-- A row whose result is a word that the instruction's fields and a thread's A, B and C give. -/
def TRow.word (ins : TWord → Instr) (op : Nat) (f : TWord → Word → Word → Word → Word) : TRow :=
  { ins := ins, op := op, regs := fun _ => 1,
    val := fun e t => (f e.i (e.src 1 .int t) (e.src 2 .int t) (e.src 3 .int t)).setWidth 128 }

/-- The same with the sources read as FP32 (R67). -/
def TRow.fp (ins : TWord → Instr) (op : Nat) (f : TWord → Word → Word → Word → Word) : TRow :=
  { ins := ins, op := op, regs := fun _ => 1,
    val := fun e t => (f e.i (e.src 1 .f32 t) (e.src 2 .f32 t) (e.src 3 .f32 t)).setWidth 128 }

/-- The same with packed sources A and B and an FP32 source C. -/
def TRow.packed (ins : TWord → Instr) (op : Nat) (f : TWord → Word → Word → Word → Word) : TRow :=
  { ins := ins, op := op, regs := fun _ => 1,
    val := fun e t => (f e.i (e.src 1 .int t) (e.src 2 .int t) (e.src 3 .f32 t)).setWidth 128 }

/-- A row whose result is a pair that the fields, a thread's A, B and C and their 64-bit readings give. -/
def TRow.pair (ins : TWord → Instr) (op : Nat) (f : TWord → Word → Word → DWord → DWord → DWord → DWord) : TRow :=
  { ins := ins, op := op, regs := fun _ => 2,
    val := fun e t =>
      (f e.i (e.src 1 .int t) (e.src 2 .int t) (e.src64 1 t) (e.src64 2 t) (e.src64 3 t)).setWidth 128 }

/-- An exact integer brought between two bounds. -/
def clampInt (lo hi x : Int) : Int := max lo (min hi x)

/-- An exact result by the form of R91: wrapping, saturating signed, saturating unsigned. -/
def byForm (mod : BitVec 4) (wrap : Word) (s u : Int) : Word :=
  if mod = 0 then wrap
  else if mod = 1 then BitVec.ofInt 32 (clampInt (-2147483648) 2147483647 s)
  else BitVec.ofInt 32 (clampInt 0 4294967295 u)

/-- A word read with or without a sign (R84). -/
def asInt (signed : Prop) [Decidable signed] (x : Word) : Int := if signed then x.toInt else (x.toNat : Int)

/-- Code i of a packed word of 2-bit codes, as a number. -/
def code2 (a : Word) (i : Nat) : Nat := (a >>> (2 * i)).toNat % 4

/-- Integer, logic, shift and move instructions with the results of R91, R93 and R95 to R99. -/
def intRows : List TRow :=
  [ .word .add 0x01 fun i a b _ => byForm i.mod (a + b) (a.toInt + b.toInt) (a.toNat + b.toNat),
    .word .add3 0x02 fun _ a b c => a + b + c,
    .word .sub 0x03 fun i a b _ => byForm i.mod (a - b) (a.toInt - b.toInt) ((a.toNat : Int) - b.toNat),
    .word .neg 0x04 fun i a _ _ => byForm i.mod (-a) (-a.toInt) (-a.toInt),
    .word .abs 0x05 fun i a _ _ => byForm i.mod (if a.msb then -a else a) |a.toInt| |a.toInt|,
    .word .mullo 0x06 fun _ a b _ => a * b,
    .word .mulhi 0x07 fun i a b _ =>
      if i.mod = 1 then (a.signExtend 64 * b.signExtend 64).extractLsb' 32 32
      else (a.setWidth 64 * b.setWidth 64).extractLsb' 32 32,
    .word .mad 0x08 fun _ a b c => a * b + c,
    .pair .madw 0x09 fun i a b _ _ c64 =>
      (if i.mod = 1 then a.signExtend 64 * b.signExtend 64 else a.setWidth 64 * b.setWidth 64) + c64,
    .word .min 0x0C fun i a b _ => if asInt (i.mod = 1) a ≤ asInt (i.mod = 1) b then a else b,
    .word .max 0x0D fun i a b _ => if asInt (i.mod = 1) b ≤ asInt (i.mod = 1) a then a else b,
    .word .lop3 0x0E fun i a b c =>
      maskOf 32 32 fun j => bit (i.ext.xmod ++ i.mod) ((bit a j).toNat + 2 * (bit b j).toNat + 4 * (bit c j).toNat),
    .word .shl 0x0F fun i a b _ => if i.mod = 1 then a <<< (b.toNat % 32) else if 32 ≤ b.toNat then 0 else a <<< b.toNat,
    .word .shr 0x10 fun i a b _ => if i.mod = 1 then a >>> (b.toNat % 32) else if 32 ≤ b.toNat then 0 else a >>> b.toNat,
    .word .sra 0x11 fun i a b _ =>
      if i.mod = 1 then a.sshiftRight (b.toNat % 32)
      else if 32 ≤ b.toNat then (if a.msb then 0xFFFFFFFF else 0) else a.sshiftRight b.toNat,
    .word .fsh 0x12 fun i a b c =>
      if i.mod = 1 then ((b ++ a) <<< (c.toNat % 32)).extractLsb' 32 32 else ((b ++ a) >>> (c.toNat % 32)).extractLsb' 0 32,
    .word .bfx 0x13 fun i a b _ =>
      let len := min (b.toNat / 256 % 256) 32
      if i.mod = 1 then ((a.sshiftRight (b.toNat % 256)).setWidth len).signExtend 32
      else ((a >>> (b.toNat % 256)).setWidth len).setWidth 32,
    .word .bfi 0x14 fun _ a b c =>
      let pos := b.toNat % 256
      let field := BitVec.setWidth 32 (BitVec.allOnes (min (b.toNat / 256 % 256) 32))
      ((a &&& field) <<< pos) ||| (c &&& ~~~(field <<< pos)),
    .word .popc 0x15 fun _ a _ _ => BitVec.ofNat 32 ((List.range 32).filter fun j => a.getLsbD j).length,
    .word .clz 0x16 fun _ a _ _ => BitVec.ofNat 32 ((List.range 32).takeWhile fun j => !a.getMsbD j).length,
    .word .brev 0x17 fun _ a _ _ => a.reverse,
    { ins := .sel, op := 0x19, regs := fun _ => 1,
      val := fun e t =>
        (if bit (e.w.regs.fGet (e.i.mod.toNat % 8)) t = bit e.i.mod 3 then e.src 2 .int t else e.src 1 .int t).setWidth 128 },
    { ins := .mov, op := 0x1A, regs := fun i => if i.mod = 1 then 2 else 1,
      val := fun e t => if e.i.mod = 1 then (e.src64 1 t).setWidth 128 else (e.src 1 .int t).setWidth 128 },
    .word .movi 0x1B fun i _ _ _ => i.ext.imm32,
    .pair .lea 0x1C fun i _ b a64 _ _ =>
      a64 + (if bit i.mod 2 then b.signExtend 64 else b.setWidth 64) <<< (i.mod.toNat % 4),
    .pair .addW 0x1D fun i _ _ a64 b64 _ => if i.mod = 1 then a64 - b64 else a64 + b64,
    .word .packT5 0x1E fun _ a _ _ =>
      if code2 a 0 = 3 ∨ code2 a 1 = 3 ∨ code2 a 2 = 3 ∨ code2 a 3 = 3 ∨ code2 a 4 = 3 then 0xFF
      else BitVec.ofNat 32 (code2 a 0 + 3 * code2 a 1 + 9 * code2 a 2 + 27 * code2 a 3 + 81 * code2 a 4) ]

/-- The rounding mode of a word (R102). -/
def TWord.mode (i : TWord) : RMode := RMode.ofBits i.ext.xmod.toNat

/-- A float with its sign bit inverted where asked (R104). -/
def negIf (c : Bool) (x : Word) : Word := if c then x ^^^ 0x80000000 else x

/-- Element k of a packed word, w bits each. -/
def packedElem (w : Nat) (x : Word) (k : Nat) : Nat := (x >>> (w * k)).toNat % 2 ^ w

/-- Byte k of a word as a number of IDOT4, signed or not (R115). -/
def dotByte (signed : Bool) (x : Word) (k : Nat) : Int :=
  if signed then (x.extractLsb' (8 * k) 8).toInt else ((x.extractLsb' (8 * k) 8).toNat : Int)

/-- The E2M1X block of a DOT8 lane (R114): eight codes, the scale and the special value. -/
def laneBlock (x : DWord) : Nat := x.toNat % 2 ^ 32 + 2 ^ 96 * (x.toNat / 2 ^ 32 % 256) + 2 ^ 104 * (x.toNat / 2 ^ 40 % 256)

/-- The exact sum of two values, rounded once (R104). -/
def addRound (m : RMode) (a b : Word) : Word := f32r m (FVal.sum m [f32v a, f32v b])

/-- The exact products of pairs of values and an addend, summed exactly and rounded once (R60, R61). -/
def dotRound (m : RMode) (l : List (FVal × FVal)) (c : Word) : Word :=
  f32r m (FVal.sum m (f32v c :: l.map fun p => p.1.mul p.2))

/-- Floating-point and dot-product instructions with the results of R104, R105, R107, R108 and R113 to R115. -/
def floatRows : List TRow :=
  [ .fp .fadd 0x20 fun i a b _ => addRound (TWord.mode i) a (negIf (bit i.mod 0) b),
    .fp .fmul 0x21 fun i a b _ => f32r (TWord.mode i) ((f32v a).mul (f32v b)),
    .fp .ffma 0x22 fun i a b c =>
      f32r (TWord.mode i) (FVal.sum (TWord.mode i)
        [(f32v a).mul (f32v (negIf (bit i.mod 0) b)), f32v (negIf (bit i.mod 1) c)]),
    .fp .fmin 0x23 fun i a b _ => fminmax false (bit i.mod 0) a b,
    .fp .fmax 0x24 fun i a b _ => fminmax true (bit i.mod 0) a b,
    .fp .frnd 0x27 fun i a _ _ => frnd (RMode.ofBits i.mod.toNat) a,
    .fp .frcp 0x28 fun _ a _ _ => frcp a,
    .fp .frsq 0x29 fun _ a _ _ => frsq a,
    .fp .fsqrt 0x2A fun _ a _ _ => fsqrt a,
    .fp .fdiv 0x2B fun _ a b _ => fdiv a b,
    .fp .fexp2 0x2C fun _ a _ _ => fexp2 a,
    .fp .flog2 0x2D fun _ a _ _ => flog2 a,
    .fp .fsint 0x2E fun _ a _ _ => fsint a,
    .fp .fcost 0x2F fun _ a _ _ => fcost a,
    .word .hfma2 0x31 fun i a b c =>
      let f := if i.mod = 0 then fp16 else bf16
      let one (k : Nat) : BitVec 16 :=
        BitVec.ofNat 16 (f.round (TWord.mode i) false (FVal.sum (TWord.mode i)
          [(f.decode (packedElem 16 a k)).mul (f.decode (packedElem 16 b k)), f.decode (packedElem 16 c k)]))
      one 1 ++ one 0,
    .packed .dot2 0x32 fun i a b c =>
      let f := if i.mod = 0 then bf16 else fp16
      dotRound (TWord.mode i) ([0, 1].map fun k => (f.decode (packedElem 16 a k), f.decode (packedElem 16 b k))) c,
    .packed .dot4 0x33 fun i a b c =>
      let fa := if bit i.mod 0 then e5m2 else e4m3
      let fb := if bit i.mod 1 then e5m2 else e4m3
      dotRound (TWord.mode i) ([0, 1, 2, 3].map fun k => (fa.decode (packedElem 8 a k), fb.decode (packedElem 8 b k))) c,
    { ins := .dot8, op := 0x34, regs := fun _ => 1,
      val := fun e t =>
        (dotRound (TWord.mode e.i) ([0, 1, 2, 3, 4, 5, 6, 7].map fun k =>
          (decodeE2m1x (laneBlock (e.src64 1 t)) k, decodeE2m1x (laneBlock (e.src64 2 t)) k)) (e.src 3 .f32 t)).setWidth 128 },
    .word .idot4 0x35 fun i a b c =>
      let n := c.toInt + dotByte (bit i.mod 1) a 0 * dotByte (bit i.mod 0) b 0 + dotByte (bit i.mod 1) a 1 * dotByte (bit i.mod 0) b 1 +
        dotByte (bit i.mod 1) a 2 * dotByte (bit i.mod 0) b 2 + dotByte (bit i.mod 1) a 3 * dotByte (bit i.mod 0) b 3
      BitVec.ofInt 32 (if bit i.mod 2 then clampInt (-2147483648) 2147483647 n else n) ]

/-! ### Conditions (R94, R106) -/

/-- The predicate that the destination field names, written in the active threads (R94). -/
def TEnv.predicated (e : TEnv) (m : BitVec 32) : Warp :=
  { e.w with regs := e.w.regs.fSet (e.i.dst.extractLsb' 0 3).toNat e.act m }

/-- A row of conditions: a constructor, its opcode and the condition of a thread. -/
structure CRow where
  ins : TWord → Instr
  op : Nat
  cond : TEnv → Nat → Bool

/-- The row's instruction completes: without .P with all ones or 0 as a register result, with .P with the condition in the
predicate, false in a poisoned thread (R94, R106). -/
def CRow.Gives (r : CRow) : Prop :=
  ∀ (i : TWord) (s : State) (e : TEnv), s.tReady r.op i = some e →
    (bit i.ext.xmod 0 = false → e.unpoisoned →
      e.Completes (exec (r.ins i) s) e.s e.g
        (e.wrote 1 (fun t => if r.cond e t && !bit (e.poisoned &&& e.act) t then 0xFFFFFFFF else 0) (e.poisoned &&& e.act)) 0) ∧
    (bit i.ext.xmod 0 = true → e.poisoned &&& e.parts = 0 →
      e.Completes (exec (r.ins i) s) e.s e.g
        (e.predicated (maskOf 32 32 fun t => bit e.act t && (r.cond e t && !bit e.poisoned t))) 0)

/-- A comparison by its code: 0 EQ, 1 NE, 2 LT, 3 LE, 4 GT, and GE. -/
def byCode (code : Nat) (eq lt gt : Bool) : Bool :=
  if code = 0 then eq else if code = 1 then !eq else if code = 2 then lt else if code = 3 then lt || eq
  else if code = 4 then gt else gt || eq

/-- The class of an FP32 pattern, from its fields (R106). -/
def classOf (a : Word) : Nat :=
  let e := a.toNat / 2 ^ 23 % 256
  let f := a.toNat % 2 ^ 23
  if e = 255 ∧ f ≠ 0 then 8
  else if e = 255 then (if a.msb then 0 else 7)
  else if e ≠ 0 then (if a.msb then 1 else 6)
  else if f ≠ 0 then (if a.msb then 2 else 5)
  else (if a.msb then 3 else 4)

/-- CMP, FCMP and FCLASS (R94, R106). -/
def condRows : List CRow :=
  [ { ins := .cmp, op := 0x18,
      cond := fun e t =>
        let a := asInt (bit e.i.mod 3 = true) (e.src 1 .int t)
        let b := asInt (bit e.i.mod 3 = true) (e.src 2 .int t)
        byCode (e.i.mod.toNat % 8) (decide (a = b)) (decide (a < b)) (decide (b < a)) },
    { ins := .fcmp, op := 0x25,
      cond := fun e t =>
        let a := f32v (e.src 1 .f32 t)
        let b := f32v (e.src 2 .f32 t)
        if 6 ≤ e.i.mod.toNat then a.isNan || b.isNan else byCode e.i.mod.toNat (a.eq b) (a.lt b) (b.lt a) },
    { ins := .fclass, op := 0x26,
      cond := fun e t => (e.src 2 .int t).getLsbD (classOf (e.src 1 .f32 t)) } ]

/-! ### Lanes, conversions and special registers (R111, R112, R117 to R119, R140, R141, R147) -/

/-- The source lane of SHFL in lane l of a warp of n lanes (R140). -/
def shuffleFrom (form n l : Nat) (b : Word) : Nat :=
  let d := (l : Int) + b.toInt
  if form = 0 then b.toNat % 32 % n
  else if form = 1 then (if 0 ≤ d ∧ d < n then d.toNat else l)
  else if form = 2 then (l + b.toNat % 32) % n
  else l ^^^ (b.toNat % 32 % n)

/-- The lanes in which A is poisoned. -/
def TEnv.aPoison (e : TEnv) : BitVec 32 := e.srcPoi 1 1

/-- A quad operation whose thread reads A in the lanes `from`. -/
def TRow.quad (ins : TWord → Instr) (op : Nat) (lanes : TWord → Nat → List Nat) (val : TEnv → Nat → Word) : TRow :=
  { ins := ins, op := op, regs := fun _ => 1, val := fun e t => (val e t).setWidth 128,
    pm := fun e => maskOf 32 32 fun t => bit e.act t && (lanes e.i t).any fun l => bit e.aPoison l }

/-- The lanes of QDD (R141): the minuend's and the subtrahend's quad lane. -/
def diffLanes (form j : Nat) : Nat × Nat :=
  if form = 0 then (j ||| 1, j &&& 2) else if form = 1 then (j ||| 2, j &&& 1) else if form = 2 then (1, 0) else (2, 0)

/-- The value that CVT decodes in a thread (R110, R111). -/
def TEnv.cvtValue (e : TEnv) (t : Nat) : FVal :=
  let fs := e.i.srcb.toNat % 16
  let a := e.src 1 (if fs = 0 then .f32 else if fs = 1 then .f16 else if fs = 2 then .bf16 else .int) t
  cvtDecode fs ((a >>> (cvtWidth fs * (e.i.srcb.toNat / 16 % 8))).toNat % 2 ^ cvtWidth fs)

/-- The block that the A registers of threads 0 to 3 hold (R112). -/
def TEnv.cvtBlock (e : TEnv) : Nat :=
  let a (t : Nat) : Nat := (e.src 1 .int t).toNat
  a 0 + 2 ^ 32 * a 1 + 2 ^ 64 * a 2 + 2 ^ 96 * a 3

/-- The destination and source formats of CVT. -/
def TEnv.cvtTo (e : TEnv) : Nat := e.i.mod.toNat
def TEnv.cvtFrom (e : TEnv) : Nat := e.i.srcb.toNat % 16

/-- The result of CVT in a thread (R111, R112). -/
def TEnv.cvtResult (e : TEnv) (t : Nat) : BitVec 128 :=
  let out (v : FVal) : BitVec 128 := (cvtEncode e.cvtTo (TWord.mode e.i) (bit e.i.ext.xmod 2) v).setWidth 128
  if e.cvtTo = 7 then
    let x := encodeE2m1x ((List.range 24).map fun u => if bit e.act u then e.cvtValue u else .fin false 0)
    if t < 4 then BitVec.ofNat 128 (x / 2 ^ (32 * t) % 2 ^ 32) else 0
  else if e.cvtFrom = 7 then out (if t < 24 then decodeE2m1x e.cvtBlock t else .fin false 0)
  else out (e.cvtValue t)

/-- The threads that are poisoned for CVT (R112): all active ones where a thread read for a block is poisoned. -/
def TEnv.cvtPoison (e : TEnv) : BitVec 32 :=
  if e.cvtTo = 7 then (if e.aPoison &&& e.act &&& 0xFFFFFF = 0 then 0 else e.act)
  else if e.cvtFrom = 7 then (if e.aPoison &&& 0xF = 0 then 0 else e.act)
  else e.poisoned &&& e.act

/-- SHFL, QSWP, QBC, QDD, CVT, S2V and CBX. -/
def laneRows : List TRow :=
  [ { ins := .shfl, op := 0x4A, regs := fun _ => 1,
      val := fun e t =>
        (e.src 1 .int (shuffleFrom e.i.mod.toNat (if e.g.kern.legacy then 16 else 32) t (e.src 2 .int t))).setWidth 128,
      pm := fun e => maskOf 32 32 fun t =>
        bit e.act t && (bit (e.srcPoi 2 1) t ||
          bit e.aPoison (shuffleFrom e.i.mod.toNat (if e.g.kern.legacy then 16 else 32) t (e.src 2 .int t))) },
    .quad .qswp 0x4B (fun i t => [4 * (t / 4) + (t % 4 ^^^ (i.mod.toNat + 1)) % 4]) fun e t =>
      e.src 1 .int (4 * (t / 4) + (t % 4 ^^^ (e.i.mod.toNat + 1)) % 4),
    .quad .qbc 0x4C (fun i t => [4 * (t / 4) + i.mod.toNat % 4]) fun e t => e.src 1 .int (4 * (t / 4) + e.i.mod.toNat % 4),
    .quad .qdd 0x4D
      (fun i t => [4 * (t / 4) + (diffLanes i.mod.toNat (t % 4)).1, 4 * (t / 4) + (diffLanes i.mod.toNat (t % 4)).2]) fun e t =>
      addRound .rne (e.src 1 .f32 (4 * (t / 4) + (diffLanes e.i.mod.toNat (t % 4)).1))
        (negIf true (e.src 1 .f32 (4 * (t / 4) + (diffLanes e.i.mod.toNat (t % 4)).2))),
    { ins := .cvt, op := 0x30, regs := fun _ => 1, val := TEnv.cvtResult, pm := TEnv.cvtPoison },
    { ins := .s2v, op := 0x55, regs := fun i => if s2vIs64 (i.srca.toNat % 256) then 2 else 1,
      val := fun e t => (e.special (e.i.srca.toNat % 256) t).setWidth 128 },
    { ins := .cbx, op := 0x37, regs := fun _ => 1, ready := fun e => ∀ p ∈ e.w.cbPend, p.1 ≠ e.i.mod.toNat,
      val := fun e t =>
        let x : BitVec 64 := (e.src 2 .int t ++ e.src 1 .int t) >>> ((e.src 3 .int t).toNat % 32)
        let entry (k : Nat) : BitVec 16 := SMap.get 0 e.w.cb (8 * e.i.mod.toNat + k % 8)
        (entry (x.toNat / 8) ++ entry x.toNat).setWidth 128 } ]

/-! ### Trit bytes (R100, R116) -/

/-- Digit k of a trit byte. -/
def digit3 (b k : Nat) : Nat := b / 3 ^ k % 3

/-- A row of an instruction that reads a trit byte: the byte of a thread, and the result of a legal one. -/
structure XRow where
  ins : TWord → Instr
  op : Nat
  byte : TEnv → Nat → Nat
  val : TEnv → Nat → Word

/-- The active, unpoisoned threads whose byte is illegal. -/
def XRow.bad (r : XRow) (e : TEnv) : BitVec 32 :=
  maskOf 32 32 fun t => bit e.act t && !bit e.poisoned t && decide (243 ≤ r.byte e t)

/-- DFREC after an instruction whose lowest faulting thread met a cause with a value, where one did (R219). -/
def deferred (df : DWord) (cause : Nat) (v : Option Nat) : DWord :=
  match v with
  | some x => if bit df 8 then df else BitVec.ofNat 64 (cause + 2 ^ 8 + 2 ^ 12 * x)
  | none => df

/-- The row's instruction outside the .Z form: legal bytes complete; under .SPEC, and in helpers, an illegal byte gives 0 with
poison set; without .SPEC it raises ILLTRIT with the byte of the lowest thread that is not a helper. -/
def XRow.Gives (r : XRow) : Prop :=
  ∀ (i : TWord) (s : State) (e : TEnv), s.tReady r.op i = some e → (r.op = 0x1F → bit i.ext.xmod 0 = false) → e.unpoisoned →
    (e.i.spec = 1 ∨ r.bad e &&& e.parts = 0 →
      let zero := (e.poisoned &&& e.act) ||| r.bad e
      e.Completes (exec (r.ins i) s) e.s e.g
        { e.wrote 1 (fun t => if bit zero t then 0 else (r.val e t).setWidth 128) zero with
          dfrec := deferred e.w.dfrec 0x07 ((lowest (r.bad e &&& e.parts)).map (r.byte e)) } 0) ∧
    (e.i.spec = 0 → ∀ t, lowest (r.bad e &&& e.parts) = some t →
      exec (r.ins i) s = .next (e.trap .illtrit (BitVec.ofNat 64 (r.byte e t))))

/-- UNPACK.T5 and DOT.T5. -/
def tritRows : List XRow :=
  [ { ins := .unpackT5, op := 0x1F,
      byte := fun e t => (e.src 1 .int t >>> (8 * e.i.mod.toNat)).toNat % 256,
      val := fun e t =>
        let b := (e.src 1 .int t >>> (8 * e.i.mod.toNat)).toNat % 256
        BitVec.ofNat 32 (digit3 b 0 + 4 * digit3 b 1 + 16 * digit3 b 2 + 64 * digit3 b 3 + 256 * digit3 b 4) },
    { ins := .dotT5, op := 0x36,
      byte := fun e t => (e.src 2 .int t >>> (8 * (e.i.mod.toNat % 4))).toNat % 256,
      val := fun e t =>
        let b := (e.src 2 .int t >>> (8 * (e.i.mod.toNat % 4))).toNat % 256
        let trit (k : Nat) : Int := if digit3 b k = 2 then -1 else (digit3 b k : Int)
        let act (k : Nat) : Int :=
          let x := (e.src64 1 t).extractLsb' (8 * k) 8
          if bit e.i.mod 2 then (x.toNat : Int) else x.toInt
        BitVec.ofInt 32 ((e.src 3 .int t).toInt + trit 0 * act 0 + trit 1 * act 1 + trit 2 * act 2 + trit 3 * act 3 +
          trit 4 * act 4) } ]

/-! ### Program counters, exits and safe points (R123, R128, R134 to R138) -/

/-- The warp with the active live threads at targets of their own. -/
def TEnv.jumped (e : TEnv) (regs : Regs) (target : Nat → Word) : Warp :=
  { e.w with regs := regs, threads := SMap.mapv (fun t x => if bit e.parts t then .live (target t) else x) e.w.threads }

/-- Every active thread that is not a helper has a target that is a multiple of 8. -/
def TEnv.aligned (e : TEnv) (target : Nat → Word) : Prop := ∀ t, bit e.parts t = true → (target t).toNat % 8 = 0

/-- The thread of the lowest number, active and not a helper, whose target is misaligned. -/
def TEnv.firstMisaligned (e : TEnv) (target : Nat → Word) (t : Nat) : Prop :=
  (bit e.parts t = true ∧ (target t).toNat % 8 ≠ 0) ∧
  ∀ u, u < t → bit e.parts u = true → (target u).toNat % 8 = 0

/-- Some thread of a quad is live under a table of thread states. -/
def quadAlive (f : Nat → TState) (th : Nat) : Prop := ∃ k < 4, (f (4 * (th / 4) + k)).isLive = true

/-- A thread's state once its quad is settled: a helper without a live thread beside it has exited (R128). -/
def Settled (f : Nat → TState) (th : Nat) (x : TState) : Prop :=
  (f th = .helper → quadAlive f th → x = .helper) ∧ (f th = .helper → ¬ quadAlive f th → x = .exited) ∧
  (f th ≠ .helper → x = f th)

/-- A thread of the head run that an instruction has not redirected moves on (R123). -/
def TEnv.moveOn (e : TEnv) (red : BitVec 32) (th : Nat) (x : TState) : TState :=
  match x with
  | .live q => if bit e.run th && !bit red th && q.toNat == e.pc then .live (BitVec.ofNat 32 (e.pc + tBytes e.i)) else .live q
  | y => y

/-- A group's queues after some of its warps may have exited: the broadcast entries that every warp of the live set has
popped are gone, and the others stay (R297). -/
def Retired (g g' : Group) : Prop :=
  (∀ n x, x ∈ g'.queues.bcast n ↔ x ∈ g.queues.bcast n ∧ g'.liveSet &&& ~~~x.pops ≠ 0) ∧
  g'.queues.fmt = g.queues.fmt ∧ g'.queues.t6 = g.queues.t6 ∧ g'.queues.t7 = g.queues.t7

/-- A group's own barriers after some of its threads may have gone: a phase completes where every member warp has then
arrived (R144). -/
def BarsSettled (g g' : Group) : Prop :=
  ∀ k, let b := SMap.get Barrier.zero g.bars k
    SMap.get Barrier.zero g'.bars k =
      if k < 16 ∧ b.arrived ≠ [] ∧ g'.arrived b (g.barMask k) = true then { phase := !b.phase, arrived := [] } else b

/-- A table of barriers in which phases have completed and nothing else has changed (R144). -/
def OnlyFlips (m m' : SMap Barrier) : Prop :=
  ∀ k, let b := SMap.get Barrier.zero m k
    SMap.get Barrier.zero m' k = b ∨ b.arrived ≠ [] ∧ SMap.get Barrier.zero m' k = { phase := !b.phase, arrived := [] }

/-- A translation fault of a group at an address waits in its die's queue, under an entry that names the group (R221, R384). -/
def State.FaultWaits (s : State) (g : Group) (va : Nat) : Prop :=
  ∃ f ∈ (s.die (dieOf g.core)).faults ++ (s.die (dieOf g.core)).late,
    f.asid = g.asid ∧ f.va / 65536 = va / 65536 ∧ g.uid ∈ f.uids

/-- The answer of an instruction that a translation fault has parked (R221): its warp waits with its popped entry kept, and
the fault is queued. -/
def TEnv.Parks (e : TEnv) (o : Host.Outcome State Fault Refusal) (va xl agent : Nat) : Prop :=
  ∃ u g' w', o = .next u ∧ u.group? e.g.uid = some g' ∧ g'.warp? e.slot = some w' ∧ g' = e.g.setWarp e.slot w' ∧
    w' = { e.w with held := if e.i.popq = 0 then none else some e.q, parked := some (Park.mk e.g.asid va xl agent) } ∧
    u.FaultWaits e.g va

/-- From the state s1 and the warp w1 the instruction gives the threads `red` new states `f`, of itself: quads settle, the others
of the run move on, and a warp without a live thread has exited, its registers free, its routine ended (R18, R27, R128, R136,
R138, R228). Broadcast entries that no live warp waits for retire, and barriers complete that waited for the threads alone (R144,
R297). Memory, caches, cores and other groups stay as in s1. -/
def TEnv.Rethreads (e : TEnv) (o : Host.Outcome State Fault Refusal) (s1 : State) (w1 : Warp) (red : BitVec 32) (f : Nat → TState) :
    Prop :=
  ∃ t g' w', o = .next t ∧
    t = { s1 with groups := t.groups, lu := { s1.lu with clBars := t.lu.clBars, gdBars := t.lu.gdBars },
                  fw := { s1.fw with counts := t.fw.counts } } ∧
    (∀ uid, uid ≠ e.g.uid → t.group? uid = e.s.group? uid) ∧
    t.group? e.g.uid = some g' ∧ g' = { e.g with warps := g'.warps, queues := g'.queues, bars := g'.bars } ∧
    g'.warp? e.slot = some w' ∧ (∀ k, k ≠ e.slot → g'.warp? k = e.g.warp? k) ∧
    (∀ th, ∃ x, Settled f th x ∧ w'.thread th = e.moveOn red th x) ∧
    w' = { w1 with regs := if w'.exited then Regs.zero else e.drop w1.regs, threads := w'.threads, held := none,
                   keptPop := if e.w.mode.routine then w1.keptPop else none, synced := none,
                   safecnt := if e.op = 0x46 then 0 else countIssue e.w.safecnt,
                   mode := if w'.exited then (match e.w.mode with | .saving n => .saved n | .restoring _ => .running | m => m)
                     else w1.mode,
                   stop := if w'.exited then (match e.w.mode with | .restoring _ => [] | _ => w1.stop) else w1.stop,
                   pushDue := w'.pushDue } ∧
    Retired e.g g' ∧ BarsSettled e.g g' ∧ OnlyFlips e.s.lu.clBars t.lu.clBars ∧ OnlyFlips e.s.lu.gdBars t.lu.gdBars ∧
    (e.i.pushq = 0 → g'.queues.g4 = e.g.queues.g4 ∧ g'.queues.g5 = e.g.queues.g5 ∧ w'.pushDue = e.w.pushDue)

/-- The threads of a restore routine that have to execute SETPC still, once those of a mask have left it (R230). -/
def TEnv.toRestore (e : TEnv) (red : BitVec 32) : List (Nat × TState) :=
  e.w.stop.filter fun p => !bit red p.1 && (e.w.thread p.1).isLive

/-- The warp with the poison bits of its mapped names and of its other registers, and DFREC, from the bytes of a poison map, in
the lanes that it has, out of its restore routine (R228, R230, R42). -/
structure TEnv.Remapped (e : TEnv) (bs : List Byte) (w1 : Warp) : Prop where
  rest : w1 = { e.w with regs := w1.regs, dfrec := BitVec.ofNat 64 (wordAt bs 552 8), mode := .running, stop := [] }
  poison : ∀ n < 138, ∀ t < e.g.kern.width, bit (w1.regs.poi n) t =
    bit (if n < 128 ∧ bit e.w.regs.vmap n = false then e.w.regs.poi n else BitVec.ofNat 32 (wordAt bs (4 * n) 4)) t
  values : ∀ n, ∀ t < e.g.kern.width, w1.regs.get n t = e.w.regs.get n t
  names : w1.regs.vmap = e.w.regs.vmap
  scalars : ∀ n, w1.regs.sGet n = e.w.regs.sGet n
  preds : ∀ n, ∀ t < e.g.kern.width, bit (w1.regs.fGet n) t = bit (e.w.regs.fGet n) t

/-- The threads `red` of the head run take new states by `f`. A restore routine goes on until every thread that has to has
left it; with the last, and a live thread in the warp, the poison map at TFRAME + 0xA00 is read: without a translation the
warp parks there, a page without R raises PROT, and so does a map whose DFREC has a nonzero zero bit, and else the map's bits stand in the warp, which runs its program (R136, R138, R230,
R221). -/
def TEnv.Leaves (e : TEnv) (o : Host.Outcome State Fault Refusal) (red : BitVec 32) (f : Nat → TState → TState) : Prop :=
  let after (th : Nat) : TState := f th (e.w.thread th)
  ((∀ n, e.w.mode = .restoring n → (∀ p ∈ e.w.threads, (f p.1 p.2).isLive = false) ∨ e.toRestore red ≠ []) →
    e.Rethreads o e.s
      { e.w with stop := match e.w.mode with | .restoring _ => e.toRestore red | _ => e.w.stop } red after) ∧
  (∀ n, e.w.mode = .restoring n → (∃ th, (after th).isLive = true) → e.toRestore red = [] →
    let a := e.w.tframe.toNat + 0xA00
    let u := e.base.translate e.g.core e.g.tenant e.g.asid a
    (∀ k, u.2 = .error k → e.Parks o a k 0) ∧
    (∀ p, u.2 = .ok p → p.r = false → o = .next (e.trap .prot (BitVec.ofNat 64 a))) ∧
    (∀ p, u.2 = .ok p → p.r = true →
      let m := u.1.gLoadList e.g.core e.g.tenant 3 p 560
      let dfrec := wordAt m.2 552 8
      Warmed e.base m.1 ∧ m.2.length = 560 ∧
      (dfrec / 512 % 8 ≠ 0 → o = .next (e.trap .prot (BitVec.ofNat 64 (a + 552)))) ∧
      (dfrec / 512 % 8 = 0 → ∃ w1, e.Remapped m.2 w1 ∧ e.Rethreads o m.1 w1 red after)))

/-- The state that SETPC gives a thread (R138). -/
def setTo (a : Word) : TState := if a = 0xFFFFFFFE then .helper else if a = 0xFFFFFFFF then .exited else .live a

/-- A value that SETPC takes (R138). -/
abbrev setTakes (a : Word) : Prop := a = 0xFFFFFFFE ∨ a = 0xFFFFFFFF ∨ a.toNat % 8 = 0

/-- The warp with B written, with its poison, in the v name k of the active threads, which that allocates (R23, R148). -/
def TEnv.putReg (e : TEnv) (k : Nat) : Warp :=
  let r := { e.w.regs with vmap := setBit e.w.regs.vmap k true }
  { e.w with regs := r.write k e.act (fun t => e.src 2 .int t) (e.rawPoi 2 1) }

/-! ### Accesses to memory (R248 to R271) -/

/-- The bytes of physical memory that checked accesses of n bytes name. -/
def globBytes (l : List (Nat × Except Bad Place)) (n a : Nat) : Prop :=
  ∃ t q, (t, Except.ok (Place.glob q)) ∈ l ∧ q.pa ≤ a ∧ a < q.pa + n

/-- The bytes of a group's scratchpad space that checked accesses of n bytes name. -/
def padBytes (l : List (Nat × Except Bad Place)) (n uid a : Nat) : Prop :=
  ∃ t b, (t, Except.ok (Place.pad uid b)) ∈ l ∧ b ≤ a ∧ a < b + n

/-- Every check of a list passes, at a place that is resident. -/
def AllPlaced (l : List (Nat × Except Bad Place)) : Prop := ∀ p ∈ l, ∃ pl, p.2 = .ok pl ∧ pl ≠ .away

/-- As `Warmed`, but for bytes that have been stored to. -/
structure Updated (s t : State) (stored : Nat → Prop) : Prop where
  rest : t = { s with cores := t.cores, dies := t.dies, frame := t.frame, ringp := t.ringp, mem := t.mem,
                      ctl := { s.ctl with struck := t.ctl.struck, missed := t.ctl.missed },
                      fw := { s.fw with counts := t.fw.counts, misses := t.fw.misses, marked := t.fw.marked } }
  bytes : ∀ v a, ¬ s.hotByte a → ¬ stored a → Held (t.levelByte v a) →
    ∃ v', Held (s.levelByte v' a) ∧ (t.levelByte v a).2.2 = (s.levelByte v' a).2.2

/-- Groups differ in their scratchpads and side-effect counts alone. -/
def SameGroups (s t : State) : Prop :=
  ∀ uid, match s.group? uid, t.group? uid with
    | none, none => True
    | some g, some g' => g' = { g with smem := g'.smem, side := g'.side }
    | _, _ => False

/-- The write of an ordinary store: nothing but the caches, memory, scratchpads, windows and marks has changed, at the named
bytes alone, and the note of who last wrote a block of a ring (R235). -/
structure StoredOnly (s t : State) (glob : Nat → Prop) (pad : Nat → Nat → Prop) : Prop where
  rest : t = { s with groups := t.groups, cores := t.cores, dies := t.dies, frame := t.frame, ringp := t.ringp,
                      mem := t.mem, qi := { s.qi with posters := t.qi.posters }, fw := { s.fw with marked := t.fw.marked } }
  bytes : SameBytes s t glob
  posters : ∀ k, (∀ a, glob a → a / 64 ≠ k) → SMap.find t.qi.posters k = SMap.find s.qi.posters k
  groups : SameGroups s t
  pads : ∀ uid g g', s.group? uid = some g → t.group? uid = some g' → ∀ a, ¬ pad uid a →
    SMap.get 0 g'.smem a = SMap.get 0 g.smem a
  cores : ∀ c, t.core c = { s.core c with l1 := (t.core c).l1, ta := { (s.core c).ta with visible := (t.core c).ta.visible } }
  window : ∀ c o, (∀ uid g, s.group? uid = some g → g.core = c → ¬ pad uid (0x200000 + o)) →
    (t.core c).ta.winByte o = (s.core c).ta.winByte o

/-- The last thread of a list whose global access covers a byte, with its page. -/
def LastStore (l : List (Nat × Except Bad Place)) (n a t : Nat) (q : Page) : Prop :=
  ∃ l1 l2, l = l1 ++ (t, .ok (.glob q)) :: l2 ∧ q.pa ≤ a ∧ a < q.pa + n ∧ ¬ globBytes l2 n a

/-- The same for a scratchpad access. -/
def LastPadStore (l : List (Nat × Except Bad Place)) (n uid a t b : Nat) : Prop :=
  ∃ l1 l2, l = l1 ++ (t, .ok (.pad uid b)) :: l2 ∧ b ≤ a ∧ a < b + n ∧ ¬ padBytes l2 n uid a

/-- The checks of a T access of a space, over the threads that make it. -/
def TEnv.checks (e : TEnv) (sp : Space) (n : Nat) (need : Need) (m : BitVec 32) : State × List (Nat × Except Bad Place) :=
  e.checkAll e.base sp n need (lanesOf m)

/-- A load's checked accesses pass in every thread that may trap. -/
def TEnv.loadsPass (e : TEnv) (l : List (Nat × Except Bad Place)) : Prop :=
  (∀ p ∈ l, p.2 ≠ .ok .away) ∧ (e.i.spec = 0 → ∀ p ∈ l, bit e.parts p.1 = true → ∃ pl, p.2 = .ok pl)

/-- Where the access of n bytes of a thread falls when its checks 2 to 4 pass (R250, R251): the address is A + sext(B), in 64 bits
for global memory and in 32 for the other spaces, of which a cluster address holds the rank in its bits 31:28 (R240). The page
is that of a translation made after the pop. -/
def TEnv.PlaceOf (e : TEnv) (sp : Space) (n : Nat) (need : Need) (t : Nat) (pl : Place) : Prop :=
  match sp with
  | .global =>
    let a := e.src64 1 t + (e.src 2 .int t).signExtend 64
    a.toNat % n = 0 ∧ a.toNat < 2 ^ 52 ∧ ∃ s' : State, ∃ q, Warmed e.base s' ∧
      (s'.translate e.g.core e.g.tenant e.g.asid a.toNat).2 = .ok q ∧ q.allows need = true ∧ pl = .glob q
  | .pad =>
    let a := (e.src 1 .int t + e.src 2 .int t).toNat
    a % n = 0 ∧ (e.g.spPlace a n).isSome = true ∧ pl = .pad e.g.uid a
  | .cluster =>
    let x := (e.src 1 .int t + e.src 2 .int t).toNat
    x % 2 ^ 28 % n = 0 ∧ x / 2 ^ 28 < e.g.ln.clg ∧
      (∀ uid a, pl = .pad uid a → uid = 2 ^ 32 * e.g.grid + e.g.gid / e.g.ln.clg * e.g.ln.clg + x / 2 ^ 28 ∧ a = x % 2 ^ 28 ∧
        ∃ m, e.base.group? uid = some m ∧ m.started = true ∧ a + n ≤ m.kern.smem) ∧ ∀ q, pl ≠ .glob q

/-- What a failing check of a thread's access says (R251): its order, its cause and its address. -/
def TEnv.FaultOf (e : TEnv) (sp : Space) (n : Nat) (need : Need) (t : Nat) (b : Bad) : Prop :=
  let x := e.src 1 .int t + e.src 2 .int t
  let a := if sp = .global then e.src64 1 t + (e.src 2 .int t).signExtend 64 else x.setWidth 64
  let o := if sp = .cluster then x.toNat % 2 ^ 28 else a.toNat
  b.tval = a ∧
  ((b.ord = 2 ∧ b.cause = .align ∧ o % n ≠ 0) ∨
   (b.ord = 3 ∧ b.cause = .xlate ∧ sp = .global ∧ o % n = 0 ∧ ∃ s' : State, Warmed e.base s' ∧
     (s'.translate e.g.core e.g.tenant e.g.asid a.toNat).2 = .error b.xl) ∨
   (b.ord = 4 ∧ b.cause = .prot ∧ o % n = 0 ∧
     (sp = .global → 2 ^ 52 ≤ a.toNat ∨ ∃ s' : State, ∃ q, Warmed e.base s' ∧
       (s'.translate e.g.core e.g.tenant e.g.asid a.toNat).2 = .ok q ∧ q.allows need = false) ∧
     (sp = .pad → e.g.spPlace a.toNat n = none)))

/-- The checked accesses are those of the threads of a mask, in ascending order, each at its place or with its fault. -/
def TEnv.Places (e : TEnv) (sp : Space) (n : Nat) (need : Need) (m : BitVec 32) (l : List (Nat × Except Bad Place)) : Prop :=
  l.map Prod.fst = lanesOf m ∧
  (∀ t pl, (t, Except.ok pl) ∈ l → pl ≠ .away → e.PlaceOf sp n need t pl) ∧
  ∀ t b, (t, Except.error b) ∈ l → e.FaultOf sp n need t b

/-- The value of n bytes at a scratchpad address of a group. -/
def State.PadValue (s : State) (uid a n v : Nat) : Prop :=
  v < 256 ^ n ∧ ∀ m, s.group? uid = some m → ∀ k < n, BitVec.ofNat 8 (v / 256 ^ k) = s.spByte m (a + k)

/-- The values of a load's threads (R253): a thread at a global place has the value that a load at the instruction's scope
gives in a state that only the reads of the threads before it have moved; one at a scratchpad place has the bytes there. -/
def TEnv.ReadsAll (e : TEnv) (n : Nat) (c : State × List (Nat × Except Bad Place)) (vals : SMap Nat) : Prop :=
  (∀ t, (∀ pl, (t, Except.ok pl) ∉ c.2) → SMap.find vals t = none) ∧
  ∀ l1 t pl l2, c.2 = l1 ++ (t, .ok pl) :: l2 → ∃ v, SMap.find vals t = some v ∧
    match pl with
    | .glob q => let u := (e.readAll n c.1 l1).1
      Warmed e.base u ∧ v = (u.gLoad e.g.core e.g.tenant e.i.ext.scope.toNat q n).2
    | .pad uid a => e.base.PadValue uid a n v
    | .away => True

/-- A loaded value as the destination receives it (R248): bytes and halves are extended by their form. -/
def extended (mod v : Nat) : BitVec 128 :=
  if mod = 2 then ((BitVec.ofNat 8 v).signExtend 32).setWidth 128
  else if mod = 4 then ((BitVec.ofNat 16 v).signExtend 32).setWidth 128
  else BitVec.ofNat 128 v

/-- The warp after a load (R253): a thread that has read receives its value, every other active one 0 with poison set; under
.SPEC the first fault of a thread that is not a helper is recorded (R219, R252). -/
def TEnv.loaded (e : TEnv) (vals : SMap Nat) (bad : Option (Nat × Bad)) : Warp :=
  let w := e.wrote (accessRegs e.i.mod.toNat)
    (fun t => match SMap.find vals t with | some x => extended e.i.mod.toNat x | none => 0)
    (maskOf 32 32 fun t => bit e.act t && (SMap.find vals t).isNone)
  { w with dfrec := if e.i.spec = 0 then e.w.dfrec
      else match bad with
        | some b => if bit e.w.dfrec 8 then e.w.dfrec
                    else BitVec.ofNat 64 (b.2.cause.code + 2 ^ 8 + 2 ^ 12 * (b.2.tval.toNat % 2 ^ 52))
        | none => e.w.dfrec }

/-! ### Atomics (R255 to R258) -/

/-- The threads of an atomic instruction in requests: every participant in one, ascending, those of one address together (R256). -/
def TEnv.Grouped (e : TEnv) (rs : List (List Nat)) : Prop :=
  rs.flatten.Perm (lanesOf e.parts) ∧ (∀ ls ∈ rs, ls ≠ [] ∧ ls.Pairwise (· < ·)) ∧
  ∀ ls ∈ rs, ∀ t ∈ ls, ∀ u, u ∈ ls ↔ bit e.parts u = true ∧
    e.src64 1 u + (e.src 2 .int u).signExtend 64 = e.src64 1 t + (e.src 2 .int t).signExtend 64

/-- The requests performed one after another, each as one atomic access at its threads' address: what a request does to the value
it finds is `op`, which gives the new value and the threads' results (R256 to R258). -/
def TEnv.Performs (e : TEnv) (n : Nat) (l : List (Nat × Except Bad Place)) (op : List Nat → Nat → Nat × List Nat)
    (out : Nat → Nat) : List (List Nat) → State → State → Prop
  | [], s, t => t = s
  | ls :: rest, s, t => ∃ q, (ls.headD 0, Except.ok (Place.glob q)) ∈ l ∧
      let r : State × Nat := s.gAtomic e.g.core e.g.tenant e.i.ext.scope.toNat q n fun m => (op ls m).1
      (∀ (j th : Nat), ls[j]? = some th → (op ls r.2).2[j]? = some (out th)) ∧ TEnv.Performs e n l op out rest r.1 t

/-- A thread's operand of ATOM and RED (R67, R255): C as FP32 for .FADD.f32, .FMIN.f32 and .FMAX.f32, else its 32 or 64 bits. -/
def TEnv.operand (e : TEnv) (t : Nat) : Nat :=
  if e.i.mod = 0xB ∨ e.i.mod = 0xD ∨ e.i.mod = 0xE then (e.src 3 .f32 t).toNat
  else if atomIs64 e.i.mod.toNat then (e.src64 3 t).toNat else (e.src 3 .int t).toNat

/-- A thread's compare and new values of CAS (R257). -/
def TEnv.casPair (e : TEnv) (t : Nat) : Nat × Nat :=
  if e.i.mod = 0 then ((e.src64 3 t).toNat % 2 ^ 32, (e.src64 3 t).toNat / 2 ^ 32)
  else ((e.src128 3 t).toNat % 2 ^ 64, (e.src128 3 t).toNat / 2 ^ 64)

/-! ### Hints (R259, R260) -/

/-- Steps of one thread after another. -/
def ThreadSteps (f : State → Nat → State → Prop) : List Nat → State → State → Prop
  | [], s, t => t = s
  | th :: rest, s, t => ∃ u : State, f s th u ∧ ThreadSteps f rest u t

/-- HINTDROP of a tenant rises by n, and no other's changes. -/
def Dropped (s t : State) (tenant n : Nat) : Prop :=
  ∀ k, SMap.get 0 t.fw.hintdrop k = if k = tenant then SMap.get 0 s.fw.hintdrop k + BitVec.ofNat 64 n else SMap.get 0 s.fw.hintdrop k

/-- As `Warmed`, but for HINTDROP. -/
def Hinted (s t : State) : Prop := Warmed s { t with fw := { t.fw with hintdrop := s.fw.hintdrop } }

/-- The page of a hint's address: none where the address, its translation or R fails it (R259). -/
def HintAt (s : State) (g : Group) (a : Nat) (r : Option Page) : Prop :=
  let t := (s.translate g.core g.tenant g.asid a).2
  (r = none ↔ 2 ^ 52 ≤ a ∨ (∃ k, t = .error k) ∨ ∃ p, t = .ok p ∧ p.r = false) ∧ ∀ p, r = some p → t = .ok p

/-- PFH of one thread (R259): no soft error strikes by it; a hint that fails is dropped and counted; one that does not brings its line in, into the L1 or,
from an ordinary page, into the die cache. -/
def TEnv.Prefetched (e : TEnv) (s : State) (t : Nat) (s' : State) : Prop :=
  let a := (e.src64 1 t + (e.src 2 .int t).signExtend 64).toNat
  Hinted s s' ∧ s'.ctl.struck = s.ctl.struck ∧ ∃ r, HintAt s e.g a r ∧ (r = none → Dropped s s' e.g.tenant 1) ∧
    ∀ p, r = some p → Dropped s s' e.g.tenant 0 ∧ ∀ x, x / 128 = p.pa / 128 →
      (e.i.mod = 0 → (s'.levelByte (.l1 e.g.core) x).1 = true) ∧
      (e.i.mod ≠ 0 → p.kind = 0 → (s'.levelByte (.die (dieOf e.g.core)) x).1 = true)

/-- RESIDE on the lines lo to hi of one 64 KiB page (R260): a page that fails is skipped; .KEEP marks its lines in the die cache
up to the limit, and takes evict-first marks from those alone, .EVICT takes the mark away and marks them evict-first, .HOT notes their region. -/
def TEnv.Marked (e : TEnv) (lo hi : Nat) (a b : Reside) : Prop :=
  ∃ u : State, ∃ r, Hinted a.s u ∧ HintAt a.s e.g (128 * lo) r ∧
    (r = none → b = { a with s := u, skipped := true }) ∧
    ∀ p, r = some p → let d := dieOf e.g.core
      let mine (l : Nat) : Prop := p.pa / 128 ≤ l ∧ l ≤ p.pa / 128 + (hi - lo)
      b.s = { u with dies := b.s.dies } ∧ b.skipped = a.skipped ∧
      (∀ k, b.s.die k = if k = d then { u.die k with keep := (b.s.die k).keep, first := (b.s.die k).first } else u.die k) ∧
      (e.i.mod = 0 → b.regions = a.regions ∧ (∀ l, l ∈ (u.die d).keep → l ∈ (b.s.die d).keep) ∧
        (∀ l, l ∈ (b.s.die d).keep → l ∈ (u.die d).keep ∨ p.kind = 0 ∧ mine l) ∧
        (∀ l, l ∈ (b.s.die d).first ↔ l ∈ (u.die d).first ∧ (l ∈ (b.s.die d).keep → l ∈ (u.die d).keep)) ∧
        (∀ l, p.kind = 0 → mine l → l ∈ (b.s.die d).keep ∨ b.full = true ∧ keepLimit ≤ (b.s.die d).keep.length) ∧
        (b.full = true → a.full = true ∨ keepLimit ≤ (b.s.die d).keep.length) ∧ (a.full = true → b.full = true)) ∧
      (e.i.mod = 1 → b.regions = a.regions ∧ b.full = a.full ∧ (∀ l, l ∈ (b.s.die d).keep ↔ l ∈ (u.die d).keep ∧ ¬ mine l) ∧
        ∀ l, l ∈ (b.s.die d).first ↔ l ∈ (u.die d).first ∨ p.kind = 0 ∧ mine l) ∧
      (2 ≤ e.i.mod.toNat → b.s = u ∧ b.full = a.full ∧ ∀ k, k ∈ b.regions ↔ k ∈ a.regions ∨ k = p.pa / 2 ^ 21)

/-- The same over pages, one after another: page k of 512 lines, of which lines l0 to l1 take part. -/
def TEnv.MarkedAll (e : TEnv) (l0 l1 : Nat) : List Nat → Reside → Reside → Prop
  | [], a, b => b = a
  | k :: rest, a, b => ∃ m : Reside, e.Marked (max l0 (512 * k)) (min l1 (512 * k + 511)) a m ∧ TEnv.MarkedAll e l0 l1 rest m b

/-- RESIDE of one thread (R260): over min(C, 2 MiB) bytes from its address; each region noted is heated once, and HINTDROP rises
by one where a page was skipped and by one where the limit was met. -/
def TEnv.Resided (e : TEnv) (s : State) (t : Nat) (s' : State) : Prop :=
  let a := (e.src64 1 t + (e.src 2 .int t).signExtend 64).toNat
  let n := min (e.src 3 .int t).toNat (2 ^ 21)
  (n = 0 → s' = s) ∧
  (n ≠ 0 → ∃ r : Reside,
    let l0 := a / 128
    let l1 := (a + n - 1) / 128
    e.MarkedAll l0 l1 ((List.range (l1 / 512 + 1 - l0 / 512)).map (l0 / 512 + ·)) { s := s, skipped := false, full := false, regions := [] } r ∧
    s' = { r.s with mem := s'.mem, fw := { r.s.fw with hintdrop := s'.fw.hintdrop } } ∧
    Dropped r.s s' e.g.tenant (r.skipped.toNat + r.full.toNat) ∧
    (∀ k ∈ r.regions, ∀ j, s.hotIndex e.g.tenant (2 ^ 21 * k) = some j →
      memNat s'.mem (s.hotAddr e.g.tenant j) 2 = min 0xFFFF (memNat r.s.mem (s.hotAddr e.g.tenant j) 2 + 1)) ∧
    ∀ x, (∀ k ∈ r.regions, ∀ j, s.hotIndex e.g.tenant (2 ^ 21 * k) = some j →
      x ≠ s.hotAddr e.g.tenant j ∧ x ≠ s.hotAddr e.g.tenant j + 1) → memByte s'.mem x = memByte r.s.mem x)

/-! ### Textures (R416, R418, R419) -/

/-- The texel of an axis of size n that an index names (R419); none is the border texel. -/
def axisTexel (mode : Nat) (i : Int) (n : Nat) : Option Nat :=
  if mode = 0 then some (clampInt 0 ((n : Int) - 1) i).toNat
  else if mode = 1 then some (i % (n : Int)).toNat
  else if mode = 2 then
    (let m := (i % (2 * (n : Int))).toNat
     some (if m < n then m else 2 * n - 1 - m))
  else if 0 ≤ i ∧ i < n then some i.toNat else none

/-- The address of texel (i, j, k) of a level (R416, R419). -/
def Tex.texelAt (x : Tex) (l : Nat) (i j k : Int) : Option Nat :=
  let m (c : Nat) : Nat := (x.addr[c]?).getD 0
  match axisTexel (m 0) i (x.dim 0 l), axisTexel (m 1) j (x.dim 1 l), if x.is3d then axisTexel (m 2) k (x.dim 2 l) else some 0 with
  | some i, some j, some k => some (((x.level l).1 + k * (x.level l).2.2 + j * (x.level l).2.1 + x.bytes * i) % 2 ^ 64)
  | _, _, _ => none

/-- A channel of texel (i, j, k) of a level, from the bytes that a read of each address gives (R416). -/
def Tex.channel (x : Tex) (read : Nat → Nat) (ch l : Nat) (i j k : Int) : Word :=
  match x.texelAt l i j k with
  | none => (x.border[ch]?).getD 0
  | some a =>
    let v := read a
    let h (f : Fmt) : Word := f32r .rne (f.decode (v / 2 ^ (16 * ch) % 2 ^ 16))
    if x.fmt = 1 then BitVec.ofNat 32 (v / 2 ^ (32 * ch))
    else if x.fmt = 2 then h fp16
    else if ch = 0 ∧ x.fmt = 0 then BitVec.ofNat 32 v
    else if ch < 2 ∧ x.fmt = 3 then h bf16
    else if ch = 3 then 0x3F800000 else 0

/-- fetch(l) of R418, one channel. -/
def Tex.fetch (x : Tex) (read : Nat → Nat) (coord : Nat → Word) (ch l : Nat) : Word :=
  let t (c : Nat) : Word := satWord (f32r .rne ((f32v (coord c)).mul (f32v (intWord (x.dim c l))))) (intWord (-(2 ^ 24))) (intWord (2 ^ 24))
  let y (c : Nat) : Word := addRound .rne (t c) (negIf true 0x3F000000)
  let i (c : Nat) : Int := floorWord (if x.lin then y c else t c)
  let f (c : Nat) : Rat := (f32v (y c)).toRat - i c
  let p (a b c : Int) : Word := x.channel read ch l (i 0 + a) (i 1 + b) (if x.is3d then i 2 + c else 0)
  let plane (c : Int) : Word := lerpExact (lerpExact (p 0 0 c) (p 1 0 c) (f 0)) (lerpExact (p 0 1 c) (p 1 1 c) (f 0)) (f 1)
  if !x.lin then p 0 0 0 else if x.is3d then lerpExact (plane 0) (plane 1) (f 2) else plane 0

/-- lam of a thread (R418): the level that .L gives, or from the differences along the quad, each lane's coordinates scaled by
the size of its own texture. -/
def TEnv.lam (e : TEnv) (tex : SMap Nat) (x : Tex) (t : Nat) : Word :=
  let coord (u c : Nat) : Word := (e.src128 2 u).extractLsb' (32 * c) 32
  let t0 (u c : Nat) : Word :=
    let size := (match SMap.find tex u with | some d => texOf d | none => x).dim c 0
    f32r .rne ((f32v (coord u c)).mul (f32v (intWord size)))
  let diff (form c : Nat) : Word :=
    let p := diffLanes form (t % 4)
    addRound .rne (t0 (4 * (t / 4) + p.1) c) (negIf true (t0 (4 * (t / 4) + p.2) c))
  let squares (form : Nat) : Word :=
    f32r .rne (FVal.sum .rne ((if x.is3d then [0, 1, 2] else [0, 1]).map fun c => (f32v (diff form c)).mul (f32v (diff form c))))
  let l := if e.i.mod = 1 then coord t 3
    else f32r .rne (FVal.sum .rne [(f32v 0x3F000000).mul (f32v (flog2 (fminmax true false (squares 0) (squares 1)))), f32v (coord t 3)])
  satWord (if (f32v l).isNan then 0 else l) 0 (intWord x.levels)

/-- A channel of a thread's result (R418). -/
def TEnv.filtered (e : TEnv) (tex : SMap Nat) (x : Tex) (t : Nat) (read : Nat → Nat) (ch : Nat) : Word :=
  let coord (c : Nat) : Word := (e.src128 2 t).extractLsb' (32 * c) 32
  if (f32v (coord 0)).isNan || (f32v (coord 1)).isNan || (x.is3d && (f32v (coord 2)).isNan) then qnan
  else
    let lam := e.lam tex x t
    let l0 := (floorWord lam).toNat
    canonNan (if x.miplin then
        lerpExact (x.fetch read coord ch l0) (x.fetch read coord ch (min (l0 + 1) x.levels)) ((f32v lam).toRat - l0)
      else x.fetch read coord ch (floorWord (frnd .rne lam)).toNat)

/-- What a failing check of a thread's SAMPLE says (R420). -/
def TEnv.SampleFault (e : TEnv) (t : Nat) (b : Bad) : Prop :=
  let a := e.src64 1 t
  let found (s' : State) (r : Except Nat Page) : Prop := Warmed e.base s' ∧ (s'.translate e.g.core e.g.tenant e.g.asid a.toNat).2 = r
  (b.ord = 2 ∧ b.cause = .align ∧ b.tval = a ∧ a.toNat % 64 ≠ 0) ∨
  (b.ord = 3 ∧ b.cause = .xlate ∧ b.tval = a ∧ a.toNat % 64 = 0 ∧ ∃ s' : State, found s' (.error b.xl)) ∨
  (b.ord = 4 ∧ b.cause = .prot ∧ b.tval = a ∧ a.toNat % 64 = 0 ∧ (2 ^ 52 ≤ a.toNat ∨ ∃ s' : State, ∃ q, found s' (.ok q) ∧ q.r = false)) ∨
  (b.ord = 5 ∧ b.cause = .tafmt ∧ a.toNat % 64 = 0 ∧ ∃ s0 s' : State, ∃ q f, found s0 (.ok q) ∧ Warmed e.base s' ∧
    b.tval = BitVec.ofNat 64 (0x400 + f) ∧ texBad (leNat (s'.gLoadList e.g.core e.g.tenant 0 q 64).2) = some f) ∨
  (b.ord = 6 ∧ a.toNat % 64 = 0 ∧ ∃ d x, SMap.find e.sampleTex t = some d ∧ x ∈ (e.texels e.sampleTex (texOf d) t).flatten ∧
    x = some b.tval.toNat)

/-- Every dirty byte, at every level, stays dirty with its value. -/
def DirtyKept (s t : State) : Prop :=
  ∀ v a, (s.levelByte v a).2.1 = true → (t.levelByte v a).2 = (s.levelByte v a).2

/-! ### Semaphores (R423 to R426) -/

/-- A semaphore of a core takes a value: no other semaphore changes, a wait on it that it satisfies has been seen, and the
instruction that did it, if one did, counts as a side effect of its group; nothing else changes (R235, R424). -/
structure SemTaken (s t : State) (uid : Option Nat) (c i : Nat) (v : Word) : Prop where
  rest : t = { s with groups := t.groups, cores := t.cores, qi := { s.qi with issued := t.qi.issued } }
  here : t.sem c i = v
  others : ∀ c' j, (c' ≠ c ∨ j ≠ i) → t.sem c' j = s.sem c' j
  cores : ∀ c', t.core c' = { s.core c' with sems := (t.core c').sems }
  groups : ∀ u, match s.group? u, t.group? u with
    | none, none => True
    | some g, some g' =>
      g' = { g with warps := g'.warps, a := { g.a with semWait := g'.a.semWait }, side := g'.side } ∧
        g'.side = (if some u = uid then min 0xFFFF (g.side + 1) else g.side) ∧
        (∀ k, match g.warp? k, g'.warp? k with
          | none, none => True
          | some w, some w' => w' = { w with semWait := w'.semWait }
          | _, _ => False)
    | _, _ => False
  seen : ∀ u g k w x, s.group? u = some g → g.core = c → g.warp? k = some w → w.semWait = some x → x.idx = i → x.hit = none →
    x.thresh.toNat ≤ v.toNat → ∃ g' w', t.group? u = some g' ∧ g'.warp? k = some w' ∧ w'.semWait = some { x with hit := some v }

/-- The tenant owns semaphore i of its core (R423). -/
def owns (tenant i : Nat) : Prop := i < 64 ∧ i / 4 = tenant

/-- The sum that SEMADD leaves: an unsigned word and a signed one, saturated (R426). -/
def semSum (old b : Word) : Word := BitVec.ofInt 32 (clampInt 0 4294967295 ((old.toNat : Int) + b.toInt))

/-! ### Ray queries (R307 to R310) -/

/-- The warp with the queries of its active threads accepted: each with its number and the thread's next tag, which the
instruction returns; a helper receives all ones. -/
def TEnv.asked (e : TEnv) (qs : List RayQuery) : Warp :=
  let w := e.wrote 1 (fun t => if bit e.hlp t then 0xFFFFFFFF else BitVec.ofNat 128 (SMap.get 0 e.w.tags t)) 0
  { w with
    queries := e.w.queries ++ qs.map fun (q : RayQuery) => QueryRef.mk q.id q.lane q.tag 1 [],
    tags := (lanesOf e.parts).foldl (fun m t => SMap.set 0 m t ((SMap.get 0 e.w.tags t + 1) % 65536)) e.w.tags }

/-- There is room for the queries of the active threads (R307). -/
def TEnv.queryRoom (e : TEnv) : Prop :=
  (e.s.core e.g.core).fifo.length + (lanesOf e.parts).length ≤ 256 ∧
  ∀ t, bit e.parts t = true → (e.w.queries.filter fun q => q.lane == t).length < 8

/-- The threads' oldest outstanding queries. -/
def TEnv.oldest (e : TEnv) (t : Nat) : Option QueryRef := (e.w.queries.filter fun q => q.lane == t).head?

/-! ### The access stream (spec 08, 09, 14, 15, 22) -/

/-- The constructors of an A instruction with and without a prefix: `true` for a long form. -/
abbrev AForms := List (Bool × (APrefix → AWord → Instr))

/-- A row of A instructions that change their context alone: the constructors, the opcode, the context that the
instruction leaves, the payload of its push, whether it has set APC, and when it has its effect. -/
structure ARow where
  forms : AForms
  op : Nat
  ctx : AEnv → ACtx
  push : AEnv → Word := fun _ => 0
  jump : AEnv → Bool := fun _ => false
  ready : AEnv → Prop := fun _ => True

/-- Every form of the row completes with the row's context, where its condition holds. -/
def ARow.Gives (r : ARow) : Prop :=
  ∀ f ∈ r.forms, ∀ (p : APrefix) (i : AWord) (s : State) (e : AEnv), s.aReady r.op (if f.1 then some p else none) i = some e →
    r.ready e → e.Completes (exec (f.2 p i) s) e.s e.g (r.ctx e) (r.push e) (r.jump e)

/-- The short form and the long form of an instruction, and each alone. -/
def AForms.both (a : AWord → Instr) (b : APrefix → AWord → Instr) : AForms := [(false, fun _ => a), (true, b)]
def AForms.short (a : AWord → Instr) : AForms := [(false, fun _ => a)]
def AForms.long (b : APrefix → AWord → Instr) : AForms := [(true, b)]

/-- A row whose result goes to D, and with the push (R158). -/
def ARow.value (forms : AForms) (op : Nat) (f : AEnv → DWord) : ARow :=
  { forms := forms, op := op, ctx := fun e => e.a.setReg e.i.d.toNat (f e), push := fun e => (f e).setWidth 32 }

/-- The two amounts of a shift (R162): sext(IMM32), bits 5:0 of an immediate, or a register. -/
def AEnv.amount (e : AEnv) : Nat :=
  if e.p.iuse = 1 then (e.p.imm32.signExtend 64).toNat
  else if bit e.i.s2 9 then e.i.s2.toNat % 64
  else (e.a.reg (e.i.s2.toNat % 32)).toNat

/-- The form .S of ASHR (R161, R162). -/
def AEnv.arithmetic (e : AEnv) : Bool := if e.p.iuse = 1 ∨ bit e.i.s2 9 = true then bit e.i.s2 6 else bit e.i.s2 5

/-- Where the fields of an array's status stand (R189). -/
def StatusFields (t : TritArray) : Prop :=
  let v := t.status.toNat
  v / 2 ^ 59 = 0 ∧ v / 2 ^ 37 % 2 ^ 22 = t.faddr % 2 ^ 22 ∧ v / 2 ^ 24 % 2 ^ 13 = t.fchunk % 2 ^ 13 ∧ v / 2 ^ 22 % 4 = t.fcause % 4 ∧
  v / 2 ^ 20 % 4 = t.fqtr % 4 ∧ v / 2 ^ 16 % 16 = t.fctx % 16 ∧ v / 2 ^ 15 % 2 = t.poison.toNat ∧ v / 2 ^ 14 % 2 = t.fpend.toNat ∧
  v / 2 ^ 13 % 2 = t.epset.toNat ∧ v / 2 ^ 12 % 2 = t.eprs.toNat ∧ v / 2 ^ 11 % 2 = t.held.toNat ∧ v / 2 ^ 8 % 8 = (if t.held then t.holder % 8 else 0) ∧
  v / 2 ^ 5 % 8 = 0 ∧ v % 2 ^ 5 = t.queue.length % 2 ^ 5

/-- The results of R162 to R164, and of QPUSH, QPOP and TASTAT (R189, R302, R303). -/
def aRows : List ARow :=
  [ .value (.both .aadd .aaddLong) 0x01 fun e => e.s1 + e.s2,
    .value (.both .asub .asubLong) 0x02 fun e => e.s1 - e.s2,
    .value (.both .amul .amulLong) 0x03 fun e => e.s1 * e.s2,
    .value (.both .aand .aandLong) 0x04 fun e => e.s1 &&& e.s2,
    .value (.both .aor .aorLong) 0x05 fun e => e.s1 ||| e.s2,
    .value (.both .axor .axorLong) 0x06 fun e => e.s1 ^^^ e.s2,
    .value (.both .ashl .ashlLong) 0x07 fun e => if 64 ≤ e.amount then 0 else e.s1 <<< e.amount,
    .value (.both .ashr .ashrLong) 0x08 fun e =>
      if e.arithmetic then (if 64 ≤ e.amount then BitVec.ofInt 64 (if e.s1.msb then -1 else 0) else e.s1.sshiftRight e.amount)
      else if 64 ≤ e.amount then 0 else e.s1 >>> e.amount,
    { ARow.value (.short .amov) 0x09 (fun e => e.a.reg (e.i.s2.toNat % 32)) with ready := fun e => e.i.s2.toNat / 32 = 0 },
    { forms := .short .amov, op := 0x09, ready := fun e => e.i.s2.toNat / 32 = 1,
      ctx := fun e => e.a.setLoop (e.i.d.toNat % 4) ((e.a.reg (e.i.s2.toNat % 32)).setWidth 32) },
    { ARow.value (.short .amov) 0x09 (fun e => (e.a.loop (e.i.s2.toNat % 4)).setWidth 64) with
      ready := fun e => e.i.s2.toNat / 32 = 2 },
    .value (.short .amovi) 0x0A fun e => e.i.s2.signExtend 64,
    .value (.long .amoviLong) 0x0A fun e => e.p.imm32.signExtend 64,
    .value (.long .amoviH) 0x0A fun e => e.p.imm32 ++ (e.a.reg e.i.d.toNat).setWidth 32,
    .value (.both .asel .aselLong) 0x0C fun e =>
      if bit e.a.p (e.i.s2.toNat / 32 % 4) = bit e.i.s2 7 then e.a.reg (e.i.s2.toNat % 32) else e.s1,
    { forms := .both .qpush .qpushLong, op := 0x24, ctx := fun e => e.a,
      push := fun e => (e.a.reg e.i.s1.toNat + e.s2).setWidth 32 },
    .value (.short .qpop) 0x25 fun e => e.q.setWidth 64,
    .value (.short .as2a) 0x0D fun e => e.special e.i.s2.toNat,
    .value (.short .tastat) 0x39 fun e => (e.s.core e.g.core).ta.status ]

/-- The program flow of a context, its comparison and what changes nothing (R163, R166, R167, R173): ACMP, ANOP, ABR, AJMP,
ACALL and ALOOP. -/
def aFlowRows : List ARow :=
  [ { forms := .both .acmp .acmpLong, op := 0x0B,
      ctx := fun e =>
        let x := e.s1
        let y := e.s2
        let c := e.i.d.toNat / 4
        let v := if c = 6 then decide (x.toNat < y.toNat) else if c = 7 then decide (y.toNat ≤ x.toNat)
          else byCode c (decide (x = y)) (decide (x.toInt < y.toInt)) (decide (y.toInt < x.toInt))
        { e.a with p := setBit e.a.p (e.i.d.toNat % 4) v } },
    { forms := .short .anop, op := 0x0E, ctx := fun e => e.a },
    { forms := .short .abr, op := 0x10, ready := fun e => bit e.a.p (e.i.d.toNat % 4) = bit e.i.d 2, ctx := fun e => e.a },
    { forms := .short .abr, op := 0x10, ready := fun e => bit e.a.p (e.i.d.toNat % 4) ≠ bit e.i.d 2, jump := fun _ => true,
      ctx := fun e => { e.a with apc := e.a.apc + 4 * (e.i.s1 ++ e.i.s2).signExtend 32 } },
    { forms := .short .ajmp, op := 0x11, ready := fun e => ∀ n, e.a.mode ≠ .restoring n, jump := fun _ => true,
      ctx := fun e => { e.a with apc := e.a.apc + 4 * (e.i.d ++ e.i.s1 ++ e.i.s2).signExtend 32 } },
    { forms := .short .ajmp, op := 0x11, ready := fun e => ∃ n, e.a.mode = .restoring n, jump := fun _ => true,
      ctx := fun e => { e.a with apc := e.a.apc + 4 * (e.i.d ++ e.i.s1 ++ e.i.s2).signExtend 32, mode := .running } },
    { forms := .short .acall, op := 0x12, jump := fun _ => true, push := fun e => e.a.apc + 4,
      ctx := fun e =>
        let b : ACtx := { e.a with apc := e.a.apc + 4 * (e.i.s1 ++ e.i.s2).signExtend 32 }
        b.setReg e.i.d.toNat ((e.a.apc + 4).setWidth 64) },
    { forms := .short .aret, op := 0x13, ready := fun e => (e.a.reg e.i.s1.toNat).toNat % 4 = 0, jump := fun _ => true,
      ctx := fun e => { e.a with apc := (e.a.reg e.i.s1.toNat).setWidth 32 } },
    { forms := .short .aloop, op := 0x14, ready := fun e => e.a.loop (e.i.d.toNat % 4) = 0, ctx := fun e => e.a.setLoop (e.i.d.toNat % 4) 0 },
    { forms := .short .aloop, op := 0x14, ready := fun e => e.a.loop (e.i.d.toNat % 4) = 1, ctx := fun e => e.a.setLoop (e.i.d.toNat % 4) 0 },
    { forms := .short .aloop, op := 0x14, ready := fun e => 2 ≤ (e.a.loop (e.i.d.toNat % 4)).toNat, jump := fun _ => true,
      ctx := fun e =>
        let b : ACtx := { e.a with apc := e.a.apc + 4 * (e.i.s1 ++ e.i.s2).signExtend 32 }
        b.setLoop (e.i.d.toNat % 4) (e.a.loop (e.i.d.toNat % 4) - 1) } ]

/-- The state of an A instruction that waits: it has not issued, its pop is not made, and its context alone has noted
what it waits for. -/
def State.waitsWith (s : State) (uid : Nat) (a : ACtx) : State :=
  let s := s.setA uid a
  { s with ctl := { s.ctl with wait := true } }

/-- The group has no command of the kinds of a mask outstanding (R170). -/
def AEnv.idle (e : AEnv) (mask : Nat) : Prop :=
  (mask = 0 ∨ mask % 2 = 1 → ∀ x ∈ (e.s.core e.g.core).ta.queue, x.uid ≠ e.g.uid) ∧
  (mask = 0 ∨ mask / 2 % 2 = 1 → ∀ p ∈ (e.s.core e.g.core).chans, ∀ x ∈ p.2, x.uid ≠ e.g.uid)

/-- The group's context is in its save routine. -/
def ACtx.saving (a : ACtx) : Prop := ∃ n, a.mode = .saving n

/-- The group holds its core's crown (R190). -/
def AEnv.crowned (e : AEnv) : Prop :=
  (e.s.core e.g.core).ta.held = true ∧ e.g.ring = some (e.s.core e.g.core).ta.holder

/-- A state that differs in one core's Trit Array alone. -/
def AEnv.withArray (e : AEnv) (f : TritArray → TritArray) (t : State) : Prop :=
  t = { e.base with cores := t.cores } ∧
  ∀ c, t.core c = if c = e.g.core then { e.s.core c with ta := f (e.s.core c).ta } else e.s.core c

/-- The member that receives the crown when a position gives it up: the next occupied one after it, modulo 8 (R191). -/
def successor (ring : SMap Nat) (pos : Nat) (q : Nat) : Prop :=
  ∃ k, 1 ≤ k ∧ k ≤ 8 ∧ q = (pos + k) % 8 ∧ (SMap.find ring q).isSome = true ∧
    ∀ j, 1 ≤ j → j < k → (SMap.find ring ((pos + j) % 8)).isSome = false

/-! ### Line cores (spec 10) -/

/-- An operation of a line core answers a state that differs from s1 in its line core alone, whose z, w and e registers are as
given, and in the branch target noted for its bundle (R202, R208). -/
def LEnv.Wrote (e : LEnv) (o : Host.Outcome State Fault Refusal) (s1 : State) (zs : Nat → Word) (ws : Nat → Nat → Word)
    (es : Nat → BitVec 16) (target : Option Word) : Prop :=
  ∃ t c, o = .next t ∧ t = { s1 with lines := t.lines, ctl := { s1.ctl with latch := t.ctl.latch } } ∧
    t.ctl.latch = { s1.ctl.latch with target := match target with | none => s1.ctl.latch.target | some x => some x } ∧
    (∀ n, t.line n = if n = e.n then c else s1.line n) ∧ c = { e.lc with w := c.w, z := c.z, e := c.e } ∧
    (∀ r, SMap.get 0 c.z r = zs r) ∧ (∀ r l, l < 16 → SMap.get 0 c.w (16 * r + l) = ws r l) ∧ (∀ r, SMap.get 0 c.e r = es r)

/-- The line core's own registers, as they stand when the operation writes. -/
def LEnv.oldZ (e : LEnv) (r : Nat) : Word := SMap.get 0 e.lc.z r
def LEnv.oldW (e : LEnv) (r l : Nat) : Word := SMap.get 0 e.lc.w (16 * r + l)
def LEnv.oldE (e : LEnv) (r : Nat) : BitVec 16 := SMap.get 0 e.lc.e r

/-- One register at a new value. -/
def at1 {α : Type} (old : Nat → α) (d : Nat) (v : α) (r : Nat) : α := if r = d then v else old r

/-- One w register at new values in the lanes of a mask, the others kept (R205). -/
def atW (e : LEnv) (d : Nat) (on : Nat → Prop) [DecidablePred on] (v : Nat → Word) (r l : Nat) : Word :=
  if r = d ∧ on l then v l else e.oldW r l

/-- The lanes in which an operation acts (R205, R206). -/
abbrev LEnv.acts (e : LEnv) (mke : BitVec 1) (mk : BitVec 3) (l : Nat) : Prop := mke = 0 ∨ (SMap.get 0 e.e mk.toNat).getLsbD l = true

/-- A row of S operations: what it writes in z and in e, and where it branches. -/
structure ScalarRow where
  ins : SSlot → Instr
  z : LEnv → SSlot → Option (Nat × Word) := fun _ _ => none
  ew : LEnv → SSlot → Option (Nat × BitVec 16) := fun _ _ => none
  target : LEnv → SSlot → Option Word := fun _ _ => none

/-- The row's operation completes. -/
def ScalarRow.Gives (r : ScalarRow) : Prop :=
  ∀ (i : SSlot) (s : State) (e : LEnv), s.lEnv = some e →
    e.Wrote (exec (r.ins i) s) e.s (match r.z e i with | some p => at1 e.oldZ p.1 p.2 | none => e.oldZ) e.oldW
      (match r.ew e i with | some p => at1 e.oldE p.1 p.2 | none => e.oldE) (r.target e i)

/-- An S operation that writes z[D] from x and y (R208). -/
def ScalarRow.alu (ins : SSlot → Instr) (f : Word → Word → Word) : ScalarRow :=
  { ins := ins,
    z := fun e i => some (i.d.toNat, f (e.zr i.a.toNat) (if i.i = 1 then i.b.signExtend 32 else e.zr (i.b.toNat % 32))) }

/-- SPC plus 16 times the displacement (R208). -/
def LEnv.branch (e : LEnv) (i : SSlot) : Word := BitVec.ofInt 32 (e.lc.spc.toNat + 16 * i.b.toInt)

/-- The S operations of R208 but POSE.W, BANDI.NEXT, SYNCM and HALT. -/
def scalarRows : List ScalarRow :=
  [ .alu .sadd fun x y => x + y,
    .alu .ssub fun x y => x - y,
    .alu .smul fun x y => x * y,
    .alu .sand fun x y => x &&& y,
    .alu .sor fun x y => x ||| y,
    .alu .sshl fun x y => if 32 ≤ y.toNat then 0 else x <<< y.toNat,
    .alu .sshr fun x y => if 32 ≤ y.toNat then 0 else x >>> y.toNat,
    .alu .smov fun _ y => y,
    { ins := .smovh, z := fun e i => some (i.d.toNat, i.b ++ (e.zr i.d.toNat).setWidth 16) },
    { ins := .scmp,
      ew := fun e i =>
        let x := e.zr i.a.toNat
        let y := if i.i = 1 then (i.b.setWidth 13).signExtend 32 else e.zr (i.b.toNat % 32)
        let c := i.b.toNat / 2 ^ 13
        let v := if c = 6 then decide (x.toNat < y.toNat) else if c = 7 then decide (y.toNat ≤ x.toNat)
          else byCode c (decide (x = y)) (decide (x.toInt < y.toInt)) (decide (y.toInt < x.toInt))
        some (i.d.toNat % 8, if v then 0xFFFF else 0) },
    { ins := .br, target := fun e i => some (e.branch i) },
    { ins := .brc,
      target := fun e i =>
        let m := e.er (i.d.toNat % 8)
        let t := i.d.toNat / 8
        if t = 0 ∧ m ≠ 0 ∨ t = 1 ∧ m = 0xFFFF ∨ 2 ≤ t ∧ m = 0 then some (e.branch i) else none },
    { ins := .loop,
      z := fun e i => some (i.a.toNat, BitVec.ofNat 32 ((e.zr i.a.toNat).toNat - 1)),
      target := fun e i => if (e.zr i.a.toNat).toNat ≤ 1 then none else some (e.branch i) },
    { ins := .poseR, z := fun e i => some (i.d.toNat, SMap.get 0 e.lc.pose (i.b.toNat % 8)) },
    { ins := .bandiRd,
      z := fun e i =>
        let h := e.s.head e.lc.head
        let rs := match h.band? e.lc.frame e.lc.band with | some b => b.rs | none => RenderSet.first
        some (i.d.toNat, ([e.lc.bandid, e.lc.line0, BitVec.ofNat 32 (recWidth h.record), BitVec.ofNat 32 (recHeight h.record),
          BitVec.ofNat 32 rs.w, BitVec.ofNat 32 rs.h, rs.seq, BitVec.ofNat 32 e.n][i.b.toNat % 8]?).getD 0) } ]

/-- A row of V operations: what a lane of w[D] receives from a, b and its old value. -/
structure VectorRow where
  ins : VSlot → Instr
  lane : LEnv → VSlot → Nat → Word
  masked : Bool := true

/-- The row's operation completes with w[D] written in the lanes in which it acts. -/
def VectorRow.Gives (r : VectorRow) : Prop :=
  ∀ (i : VSlot) (s : State) (e : LEnv), s.lEnv = some e →
    e.Wrote (exec (r.ins i) s) e.s e.oldZ
      (atW e i.d.toNat (fun l => r.masked = false ∨ e.acts i.mke i.mreg l) (r.lane e i)) e.oldE none

/-- A V operation from a, b and the old value of the lane. -/
def VectorRow.of (ins : VSlot → Instr) (f : VSlot → Word → Word → Word → Word) : VectorRow :=
  { ins := ins, lane := fun e i l => f i (e.wr i.a.toNat l) (e.wr i.b.toNat l) (e.wr i.d.toNat l) }

/-- The smaller or the larger of two integers by TY (R210): .i32 signed, .u32 unsigned. -/
def pick (larger : Bool) (ty : BitVec 2) (a b : Word) : Word :=
  let x := asInt (ty = 1) a
  let y := asInt (ty = 1) b
  if larger then (if y ≤ x then a else b) else if x ≤ y then a else b

/-- lerp(a, b, t) of R210. -/
def lerpWord (a b t : Word) : Word :=
  f32r .rne (FVal.sum .rne [(f32v t).mul (f32v (addRound .rne b (negIf true a))), f32v a])

/-- The V operations of R210 but VCMP. -/
def vectorRows : List VectorRow :=
  [ .of .vadd fun i a b _ => if i.ty = 0 then addRound .rne a b else a + b,
    .of .vsub fun i a b _ => if i.ty = 0 then addRound .rne a (negIf true b) else a - b,
    .of .vmul fun i a b _ => if i.ty = 0 then f32r .rne ((f32v a).mul (f32v b)) else a * b,
    .of .vfma fun _ a b d => f32r .rne (FVal.sum .rne [(f32v a).mul (f32v b), f32v d]),
    .of .vmin fun i a b _ => if i.ty = 0 then fminmax false false a b else pick false i.ty a b,
    .of .vmax fun i a b _ => if i.ty = 0 then fminmax true false a b else pick true i.ty a b,
    .of .vrcp fun _ a _ _ => frcp a,
    .of .vrsq fun _ a _ _ => frsq a,
    .of .vflr fun _ a _ _ => frnd .rd a,
    .of .vcvt fun i a _ _ =>
      if i.sub = 0 then BitVec.ofInt 32 (toIntSat .rne (-2147483648) 2147483647 (f32v a))
      else if i.sub = 1 then BitVec.ofInt 32 (toIntSat .rtz (-2147483648) 2147483647 (f32v a))
      else if i.sub = 2 then BitVec.ofInt 32 (toIntSat .rne 0 4294967295 (f32v a))
      else if i.sub = 3 then f32r .rne (FVal.ofRat a.toInt)
      else if i.sub = 4 then f32r .rne (fp16.decode (packedElem 16 a 0))
      else if i.sub = 5 then f32r .rne (fp16.decode (packedElem 16 a 1))
      else if i.sub = 6 then f32r .rne (bf16.decode (packedElem 16 a 0))
      else f32r .rne (bf16.decode (packedElem 16 a 1)),
    { ins := .vsel, masked := false,
      lane := fun e i l => if (e.er i.mreg.toNat).getLsbD l then e.wr i.a.toNat l else e.wr i.b.toNat l },
    .of .vlerp fun _ a b d => lerpWord a b d,
    { ins := .vperm, lane := fun e i l => e.wr i.a.toNat ((e.wr i.b.toNat l).toNat % 16) },
    { ins := .vbcast,
      lane := fun e i l =>
        if i.sub = 0 then e.zr (i.a.toNat % 32) else if i.sub = 1 then e.wr i.a.toNat (i.b.toNat % 16) else BitVec.ofNat 32 l },
    .of .vpack fun i a b _ =>
      let f := if i.sub = 0 then fp16 else bf16
      BitVec.ofNat 16 (f.round .rne false (f32v b)) ++ BitVec.ofNat 16 (f.round .rne false (f32v a)) ]

/-- The bundle of an operation waits. -/
def LEnv.Waits (e : LEnv) (o : Host.Outcome State Fault Refusal) : Prop :=
  o = .next { e.s with ctl := { e.s.ctl with wait := true } }

/-- A band fault is noted for the bundle: the first noted stands (R215, R216). -/
def LEnv.Faults (e : LEnv) (o : Host.Outcome State Fault Refusal) (cause : Nat) : Prop :=
  o = .next { e.s with ctl := { e.s.ctl with bandFault := some (e.s.ctl.bandFault.getD cause) } }

/-- No matrix operation of the line core that is earlier than the bundle is under way. -/
def LEnv.noMatrix (e : LEnv) : Prop := e.mx = []

/-- The line core alone differs. -/
def LEnv.only (e : LEnv) (o : Host.Outcome State Fault Refusal) (c : LineCore) : Prop :=
  ∃ t, o = .next t ∧ t = { e.s with lines := t.lines } ∧ ∀ n, t.line n = if n = e.n then c else e.s.line n

/-- The line-buffer address of LBLD and LBST (R211). -/
def LEnv.bufferAt (e : LEnv) (i : MSlot) : Nat :=
  (BitVec.ofInt 32 ((e.zr i.a.toNat).toNat + (if i.b = 0 then 0 else (e.zr i.b.toNat).toNat) + 64 * i.sub.toInt)).toNat

/-- Bytes that a matrix operation moves, by kind (R213): MXLD 2 or 1 bytes each, MXST 4 or 2. -/
def tileBytes (kind flags : Nat) : Nat :=
  if kind = 0 then (if flags / 2 % 2 = 1 then 4096 else 8192) else if kind = 2 then (if flags % 2 = 1 then 8192 else 16384) else 0

/-- An operation under way that the line core's access to 64 bytes at an address waits for (R213). -/
def LEnv.held (e : LEnv) (loads : Bool) (a : Nat) : Prop :=
  ∃ x ∈ e.mx, (x.kind = 2 ∨ loads = true ∧ x.kind = 0) ∧ x.addr < a + 64 ∧ a < x.addr + tileBytes x.kind x.flags

/-! ### Queue programs (R345) -/

/-- A SRC operand: seven immediate bits or a register. -/
def QRun.operand (r : QRun) (w : QWord) : Word := if bit w.x 7 then BitVec.ofNat 32 (w.x.toNat % 128) else r.reg (w.x.toNat % 8)

/-- The program goes on: its run alone differs. -/
def State.goesOn (s : State) (o : Host.Outcome State Fault Refusal) (r : QRun) : Prop :=
  o = .next { s with qi := { s.qi with run := some r } }

/-- A row of bytecode instructions: what bR receives. -/
structure QRow where
  ins : QWord → Instr
  val : QRun → QWord → Word

/-- The row's instruction completes: bR takes the value, the program counter and the count move on, and nothing else changes. -/
def QRow.Gives (q : QRow) : Prop :=
  ∀ (i : QWord) (s : State) (r : QRun), s.qReady = some r →
    ∃ r', s.goesOn (exec (q.ins i) s) r' ∧ r' = { r with b := r'.b } ∧
      ∀ n, r'.reg n = if n = i.r.toNat then q.val r i else r.reg n

/-- LDP to SHRB. -/
def byteRows : List QRow :=
  [ ⟨.ldp, fun r i => BitVec.ofNat 32 (((r.packet[i.x.toNat % 16]?).getD 0).toNat)⟩,
    ⟨.movb, fun r i => r.operand i⟩,
    ⟨.addb, fun r i => r.reg i.r.toNat + r.operand i⟩,
    ⟨.subb, fun r i => r.reg i.r.toNat - r.operand i⟩,
    ⟨.andb, fun r i => r.reg i.r.toNat &&& r.operand i⟩,
    ⟨.orb, fun r i => r.reg i.r.toNat ||| r.operand i⟩,
    ⟨.shlb, fun r i => if 32 ≤ (r.operand i).toNat then 0 else r.reg i.r.toNat <<< (r.operand i).toNat⟩,
    ⟨.shrb, fun r i => if 32 ≤ (r.operand i).toNat then 0 else r.reg i.r.toNat >>> (r.operand i).toNat⟩ ]

/-! ### Engines of a core (spec 09, 14) -/

/-- Between the states a copy command has made accesses: caches, TLBs, fault queues, memory, scratchpads and windows, side-effect
counts and the free values used have moved. -/
structure CopyTouched (s t : State) : Prop where
  rest : t = { s with groups := t.groups, cores := t.cores, dies := t.dies, frame := t.frame, ringp := t.ringp, mem := t.mem,
                      ctl := { s.ctl with struck := t.ctl.struck, fresh := t.ctl.fresh },
                      fw := { s.fw with counts := t.fw.counts, misses := t.fw.misses, marked := t.fw.marked } }
  groups : SameGroups s t
  cores : ∀ c, t.core c = { s.core c with l1 := (t.core c).l1, tlb := (t.core c).tlb, chans := (t.core c).chans,
                                          ta := { (s.core c).ta with visible := (t.core c).ta.visible } }

/-- A channel's list takes a new value, and no other channel changes. -/
def ChanNow (s t : State) (c n : Nat) (l : List CeCmd) : Prop :=
  ∀ c' n', t.chan c' n' = if c' = c ∧ n' = n then l else s.chan c' n'

/-- The head of the event's channel comes to an end in one turn and with a status, and of the rest nothing but its group's
scratchpad has changed, to one of which m holds. -/
def State.PadEnds (s : State) (x : CeCmd) (rest : List CeCmd) (g : Group) (st : CeSt) (m : SMap Byte → Prop) : Prop :=
  ∃ t g' k, exec .ceCommandStart s = .next t ∧ ChanNow s t s.ctl.arg.core s.ctl.arg.ch ({ x with st := st, next := k } :: rest) ∧
    (st = .performed → k = x.next) ∧
    t = { s with groups := t.groups, cores := t.cores, ctl := { s.ctl with fresh := t.ctl.fresh } } ∧ t.group? x.uid = some g' ∧
    g' = { g with smem := g'.smem } ∧ m g'.smem

/-- n bytes of a scratchpad. -/
def padNat (m : SMap Byte) (a n : Nat) : Nat := leNat ((List.range n).map fun i => SMap.get 0 m (a + i))

/-- The code of element c of a row of a scratchpad in a format (R48, R283). -/
def padCode (m : SMap Byte) (fmt row off c : Nat) : Nat :=
  if ceNibble fmt then (SMap.get 0 m (row + (off + c) / 2)).toNat / 2 ^ (4 * ((off + c) % 2)) % 16
  else padNat m (row + c * (ceWidth fmt / 8)) (ceWidth fmt / 8)

/-- Its exact value (R53, R284). -/
def padValue (m : SMap Byte) (fmt row off c : Nat) : FVal :=
  if fmt = 7 then decodeE2m1x (padNat m (row + 14 * (c / 24)) 14) (c % 24) else cvtDecode fmt (padCode m fmt row off c)

/-- A CPY or CPYX reads and writes scratchpad alone, inside the group's allocation, and no row of its destination meets a row of its
source or another of its own (R280, R283). -/
def padRows (d : BitVec 512) (smem : Nat) : Prop :=
  let rd := srcShape d
  let wr := dstShape d
  dSSP d = true ∧ dDSP d = true ∧
  (∀ r < rd.1, dSrc d + r * dSpitch d + rd.2 ≤ smem) ∧ (∀ r < wr.1, dDst d + r * dDpitch d + wr.2 ≤ smem) ∧
  (∀ r < wr.1, ∀ q < rd.1, dDst d + r * dDpitch d + wr.2 ≤ dSrc d + q * dSpitch d ∨ dSrc d + q * dSpitch d + rd.2 ≤ dDst d + r * dDpitch d) ∧
  ∀ r < wr.1, ∀ q < wr.1, r < q → dDst d + r * dDpitch d + wr.2 ≤ dDst d + q * dDpitch d

/-- No byte of a scratchpad has changed but those of the destination's rows and `extra`, and of their first and last bytes no nibble
outside the elements (R283, R284). -/
def padElse (d : BitVec 512) (m m' : SMap Byte) (extra : Nat → Prop) : Prop :=
  let wr := dstShape d
  let row (r : Nat) : Nat := dDst d + r * dDpitch d
  (∀ a, (∀ r < wr.1, ¬ (row r ≤ a ∧ a < row r + wr.2)) → ¬ extra a → SMap.get 0 m' a = SMap.get 0 m a) ∧
  ∀ r < wr.1, ceNibble (dDfmt d) = true →
    (dDoff d = 1 → (SMap.get 0 m' (row r)).toNat % 16 = (SMap.get 0 m (row r)).toNat % 16) ∧
    ((dDoff d + dCols d) % 2 = 1 → (SMap.get 0 m' (row r + wr.2 - 1)).toNat / 16 = (SMap.get 0 m (row r + wr.2 - 1)).toNat / 16)

/-- The ray engine's turn on context n of core k leaves the context y over a state u. -/
def State.RayBecomes (s : State) (k n : Nat) (u : State) (y : RayCtx) : Prop := s.rayTurn k n = u.setRay k n y

/-- A context stopped with a CAUSE: nothing is left to emit or to write (R329). -/
def RayCtx.stopped (x : RayCtx) (cause : Nat) : RayCtx :=
  { x with started := true, cause := some cause, emits := [], buf := [], written := true }

/-- A call's entry pushed on a context over a state: a ninth moves the oldest to SPILL + 16 times its depth (R323). -/
def RayPushed (s : State) (x : RayCtx) (f : RayFrame) (s' : State) (y : RayCtx) : Prop :=
  (x.stack.length < 8 → s' = s ∧ y = { x with stack := f :: x.stack }) ∧
  ∀ l old, x.stack = l ++ [old] → 8 ≤ x.stack.length →
    s' = s.spPuts x.q.uid (x.q.spill + 16 * x.spilled) old.bytes ∧ y = { x with stack := f :: l, spilled := x.spilled + 1 }

/-- A node as read and its children's classes for a rectangle whose bounds are finite: ALL-MISS for an empty child and for one outside the query's
mask; the call works through the quadrants of several rays where a child is MIXED, and else through the children (R321). -/
def nodeFrame (q : RayQuery) (node : Nat) (r : Rect) (d : BitVec 1024) : RayFrame :=
  let cls := (List.range 4).map fun k => if nodeKind d k = 0 ∨ nodeMask d k &&& q.mask = 0 then 0 else (classify q r (nodeBox d k)).cls
  { node := node, rect := r, call := if r.w * r.h ≠ 1 ∧ 2 ∈ cls then 1 else 0, next := 0, slot := 0, data := d, cls := cls }

/-- The turn calls traverse(r, node), the context being `up` but for the call: a depth of 128 stops with CAUSE 4; of the node's 128
bytes one unit of 16 is read in a turn, and when all have been, a malformed node stops with CAUSE 3 and a good one is pushed (R321,
R323, R333, R412). -/
def State.RayCalls (s : State) (k n : Nat) (g : Group) (x up : RayCtx) (node : Nat) (r : Rect) : Prop :=
  let b := s.rayUnit g x.buf node 8
  (128 ≤ x.spilled + x.stack.length → s.RayBecomes k n s (x.stopped 4)) ∧
  (x.spilled + x.stack.length < 128 →
    (∀ l, b.2 = .more l → s.RayBecomes k n b.1 { x with buf := l }) ∧
    ∀ l, b.2 = .got l → let d := BitVec.ofNat 1024 (leNat l)
      (nodeBad d = true → s.RayBecomes k n b.1 (x.stopped 3)) ∧
      (nodeBad d = false → x.q.finite r = true → ∃ s' y, RayPushed b.1 up (nodeFrame x.q node r d) s' y ∧
        s.RayBecomes k n s' { y with buf := [] }))

/-- The turn calls leaf(r, slot) from a frame: quadrants where a side is above 8, and else the tests (R321, R323). -/
def State.RayLeaf (s : State) (k n : Nat) (x up : RayCtx) (f : RayFrame) (slot : Nat) (r : Rect) : Prop :=
  (128 ≤ up.spilled + up.stack.length → s.RayBecomes k n s (x.stopped 4)) ∧
  (up.spilled + up.stack.length < 128 → ∃ s' y,
    RayPushed s up { f with rect := r, call := if 8 < r.w ∨ 8 < r.h then 2 else 3, next := 0, slot := slot } s' y ∧ s.RayBecomes k n s' y)

/-- Two ranges of addresses share none. -/
def rangesApart (a n b k : Nat) : Prop := a + n ≤ b ∨ b + k ≤ a

/-- The values of one channel over 128 tokens quantised to four bits: the scale's code, and each token's (R290). -/
def sealScale (v : Nat → FVal) : Nat :=
  if (List.range 128).any fun t => !(v t).isFin then 0x7FC0
  else bf16.round .ru false (.fin false (((List.range 128).foldl (fun a t => max a (v t).mag) (0 : Rat)) / 7))
def sealCode (v : Nat → FVal) (t : Nat) : Nat :=
  let sc := (bf16.decode (sealScale v)).toRat
  if ((List.range 128).any fun t => !(v t).isFin) ∨ sc = 0 then 0 else ((toIntSat .rne (-8) 7 (FVal.ofRat ((v t).toRat / sc))) % 16).toNat

/-- The addresses that KVAPP uses with a count of n: the count's, the page table's and the pages' (R289, R290). -/
def kvUses (d : BitVec 512) (n : Nat) (tab : Nat → Nat) (a : Nat) : Prop :=
  let within (b k : Nat) : Prop := b ≤ a ∧ a < b + k
  let page (p : Nat) : Prop := within (kPtab d + 8 * p) 8 ∨ tab p ≠ 0 ∧ within (tab p) (512 * kD d)
  within (kCnt d) 4 ∨ page (n / 128) ∨ n % 128 = 0 ∧ n ≠ 0 ∧ page (n / 128 - 1)

/-- Those addresses stand on ordinary pages that the core's TLB holds, open to reads and writes, a page's bytes together and no byte twice. -/
def State.KvPages (s : State) (g : Group) (uses : Nat → Prop) (pg : Nat → Page) : Prop :=
  (∀ a, uses a → a < 2 ^ 52 ∧ s.translate g.core g.tenant g.asid a = (s, .ok (pg a)) ∧ (pg a).kind = 0 ∧ (pg a).r = true ∧ (pg a).w = true ∧
    (pg a).pa % 8 = a % 8) ∧
  (∀ a k, uses a → uses (a + k) → a % 8 + k < 8 → (pg (a + k)).pa = (pg a).pa + k) ∧
  ∀ a b, uses a → uses b → (pg a).pa = (pg b).pa → a = b

/-- Chunk c is present in a run: its mask bit, in the chunk-masked form (R182). -/
def chunkOn (rd : Nat → Nat) (f : Word) (b : BitVec 512) (c : Nat) : Bool :=
  !fmtSparse f || (rd (blkMBase b + 4 * (c / 24) + c % 24 / 8) / 2 ^ (c % 8)) % 2 == 1

/-- The weight byte of column n in chunk c (R181). -/
def runWeight (rd : Nat → Nat) (b : BitVec 512) (c n : Nat) : Nat := rd (blkWBase b / 5 + c * blkWStride b + n)

/-- The exact partial of scale group g for cell (m, n) (R182): over its present chunks, activation times trit. -/
def groupPartial (rd : Nat → Nat) (f : Word) (b : BitVec 512) (g m n : Nat) : Int :=
  ((List.range (fmtGroup f / 5)).map fun k =>
    let c := g * (fmtGroup f / 5) + k
    if chunkOn rd f b c then ((List.range 5).map fun i => runAct rd f b m c i * tritOf (runWeight rd b c n) i).sum else 0).sum

/-- A cell after the first k scale groups of a run (R182, R63): +0 or its old value, then each scaled partial added with one
rounding. -/
def cellAfter (rd : Nat → Nat) (f : Word) (b : BitVec 512) (old : Word) (m n : Nat) : Nat → Word
  | 0 => if bit b 288 then 0 else old
  | g + 1 =>
    let scale := bf16.decode (rd (blkSBase b + 256 * g + 2 * n) + 256 * rd (blkSBase b + 256 * g + 2 * n + 1))
    f32r .rne (FVal.sum .rne [(FVal.ofRat (groupPartial rd f b g m n)).mul scale, f32v (cellAfter rd f b old m n g)])

/-- Chunk c stops a run: nonzero bits 31:24 of its mask word, or an illegal weight byte of a present chunk, with the address
of the first (R194). -/
def ChunkFault (rd : Nat → Nat) (f : Word) (b : BitVec 512) (c cause addr : Nat) : Prop :=
  let ma := blkMBase b + 4 * (c / 24)
  (cause = 1 ∧ addr = ma ∧ fmtSparse f = true ∧ rd (ma + 3) % 256 ≠ 0) ∨
  (cause = 0 ∧ ¬ (fmtSparse f = true ∧ rd (ma + 3) % 256 ≠ 0) ∧ chunkOn rd f b c = true ∧
    ∃ n < blkN b, addr = blkWBase b / 5 + c * blkWStride b + n ∧ 243 ≤ runWeight rd b c n ∧ ∀ k < n, runWeight rd b c k < 243)

/-! ### Commands of packets (R335 to R343) -/

/-- The issued packets hold p, of a number, once, between l1 and l2. -/
def State.heldPacket (s : State) (id : Nat) (l1 : List Issued) (p : Issued) (l2 : List Issued) : Prop :=
  s.qi.issued = l1 ++ p :: l2 ∧ p.id = id ∧ ∀ y ∈ l1 ++ l2, y.id ≠ id

/-- The event with which a packet leaves the list (R340): KIND 2 where it has failed, and KIND 1 under EVT. -/
def Issued.lastEvent (p : Issued) : List (Nat × BitVec 512) :=
  match p.failed with
  | some st => [(p.queue / 64, eventOf 2 st p.queue p.tag p.index (List.replicate 12 0))]
  | none =>
    if p.flags / 4 % 2 = 1 then [(p.queue / 64, eventOf 1 0 p.queue p.tag p.index (List.replicate 12 0))] else []

/-- Command n of a packet becomes what f makes of it and, where st is a status, its packet fails with it, the first status
standing: the packet stays in its place, or leaves the list with its event where no command of it is incomplete (R340). -/
def State.SettlesAt (s : State) (id n : Nat) (f : IssuedCmd → IssuedCmd) (st : Option Status) (t : State) : Prop :=
  ∀ l1 p l2 x, s.heldPacket id l1 p l2 → p.cmds[n]? = some x →
    let p' : Issued := { p with cmds := p.cmds.set n (f x),
                                failed := match st with | some c => some (p.failed.getD c.code) | none => p.failed }
    ((∀ c ∈ p'.cmds, c.st = 2) →
      t = { s with qi := { s.qi with issued := l1 ++ l2 }, fw := { s.fw with events := s.fw.events ++ p'.lastEvent } }) ∧
    (¬ (∀ c ∈ p'.cmds, c.st = 2) → t = { s with qi := { s.qi with issued := l1 ++ p' :: l2 } })

/-- The same of the current command. -/
def State.Settles (s : State) (f : IssuedCmd → IssuedCmd) (st : Option Status) (t : State) : Prop :=
  s.SettlesAt s.ctl.cmd.id s.ctl.arg.ch f st t

/-- The current command is complete, or fails its packet, over a state s. -/
def State.Ends (s : State) (st : Option Status) (t : State) : Prop := s.Settles (fun c => { c with st := 2 }) st t

/-- The commands of some head changes complete one after another. -/
def State.SettlesEach (s : State) : List HeadChange → State → Prop
  | [], t => t = s
  | c :: cs, t => ∃ u : State, s.SettlesAt c.id c.n (fun x => { x with st := 2 }) none u ∧ State.SettlesEach u cs t

/-- An instruction of the current command answers a state in which the command has ended over s1. -/
def EndsOver (o : Host.Outcome State Fault Refusal) (s1 : State) (st : Option Status) : Prop :=
  ∃ t, o = .next t ∧ s1.Ends st t

/-- Unit i of the n of the current command has been done over s1: the command goes on with the next, or ends with its last. -/
def UnitOver (o : Host.Outcome State Fault Refusal) (s1 : State) (i n : Nat) : Prop :=
  ∃ t, o = .next t ∧ (i + 1 < n → s1.Settles (fun c => { c with st := max 1 c.st, next := i + 1 }) none t) ∧
    (n ≤ i + 1 → s1.Ends none t)

/-- The group that published the current command's packet counts one side effect (R235). -/
def State.Caused (s t : State) : Prop :=
  let here (u : Nat) : Prop := s.thisPacket.bind (fun p => p.cause) = some u
  let up (u : Nat) (g g' : Group) : Prop := (here u → g' = { g with side := min 0xFFFF (g.side + 1) }) ∧ (¬ here u → g' = g)
  t = { s with groups := t.groups, lu := { s.lu with saved := t.lu.saved } } ∧
  (∀ u, (s.group? u = none → t.group? u = none) ∧ ∀ g, s.group? u = some g → ∃ g', t.group? u = some g' ∧ up u g g') ∧
  ∀ u, (s.group? u ≠ none → SMap.find t.lu.saved u = SMap.find s.lu.saved u) ∧
    (s.group? u = none → ∀ g, SMap.find s.lu.saved u = some g → ∃ g', SMap.find t.lu.saved u = some g' ∧ up u g g')

/-- The physical address that a virtual one stands for, on an ordinary page that allows an access. -/
def State.PlainAt (s : State) (asid va : Nat) (need : Need) (pa : Nat) : Prop :=
  ∃ p, s.pageIO asid va need = some p ∧ p.kind = 0 ∧ p.pa = pa

/-- The n bytes that a read of an I/O-die agent finds at a page: the partition's where it holds them, else memory's (R244, R262). -/
def State.devNat (s : State) (p : Page) (n : Nat) : Nat :=
  leNat ((List.range n).map fun k =>
    let b := s.levelByte (.part p.kind) (p.pa + k)
    if p.kind ≠ 0 ∧ b.1 = true then b.2.2 else memByte s.mem (p.pa + k))

/-- The address of pixel (x, y) of a frame in a head's presentation buffers (R371). -/
def presentAt (r : BitVec 1024) (f : Nat) (q : Nat × Nat) : Nat :=
  recPresent r + 8 * (f % 2) * recWidth r * recHeight r + 8 * (q.2 * recWidth r + q.1)

/-- A half of a pixel: its centre's coordinate as an FP32 word. -/
def halfPixel (n : Nat) : Word := f32r .rne (.fin false ((n : Rat) + 1 / 2))

/-- The identity by which the fallback turns where a pose cannot be used (R369). -/
def virgaId : List (List Word) := [[0x3F800000, 0, 0], [0, 0x3F800000, 0], [0, 0, 0x3F800000]]

/-- The pixels px are those that the Virga fallback produces for band b of frame f with the pose qd (R369): every pixel of the band in
order, black in frame 0 and where the turned ray points back, the canonical NaN where a coordinate is a NaN, and elsewhere the
blend of the four texels of frame f - 1 around (u, v), in the WSAMP.C footprint. The texels are those that the presentation buffer
holds on pages open to the head, apart from the hotness counters that the reads themselves move (R388); on another page one is free
(log 11). -/
def State.FallbackGives (s : State) (h f b : Nat) (qd : List Word) (px : List (Nat × BitVec 48)) : Prop :=
  let x := s.head h
  let r := x.record
  let w := recWidth r
  let a := recAsid r
  px.map Prod.fst = ((List.range (x.bandLines b)).flatMap fun y => (List.range w).map fun i => 8192 * y + i) ∧
  (f = 0 → ∀ p ∈ px, p.2 = 0) ∧
  (f ≠ 0 → w ≤ 8192 → recPresent r % 128 = 0 →
    (∀ m, (∀ y, ¬ s.hotByte y → memByte m y = memByte s.mem y) → ∀ va, State.pageIO { s with mem := m } a va .read = s.pageIO a va .read) →
    ∀ p ∈ px,
      let o := virgaUv r (virgaM (SMap.get [] x.prevPose b) qd) (p.1 % 8192) (16 * b + p.1 / 8192)
      (o = none → p.2 = 0) ∧
      ∀ u v, o = some (u, v) →
        (uvNan (u, v) = true → p.2 = 0x7E007E007E00) ∧
        (uvNan (u, v) = false → ∀ pg : Nat × Nat → Page,
          (∀ q ∈ footIdx u v w (recHeight r), s.pageIO a (presentAt r (f - 1) q) .read = some (pg q) ∧ ∀ k < 8, ¬ s.hotByte ((pg q).pa + k)) →
          ∀ k < 3, p.2.extractLsb' (16 * k) 16 = BitVec.ofNat 16 (toHalf (footBlend u v w (recHeight r) fun i =>
            ((footIdx u v w (recHeight r))[i]?).elim 0 fun q => halfChan (s.devNat (pg q) 8) k))))

/-- The slots of the page tables that lead to a leaf of a level: the leaf's own address and those of the table entries above
it, each present and well formed; none where one of these is missing (R377, R380). -/
def State.leafSlot (s : State) (va target : Nat) : List (Nat × Nat × Nat) → Nat → Nat → Option (Nat × List Nat)
  | [], _, _ => none
  | (lo, n, _) :: ls, table, lvl =>
    let a := table + 8 * ((va / 2 ^ lo) % n)
    if lvl = target then some (a, [])
    else
      let e := s.getPte a
      if bit e 0 && !bit e 1 && bitsOf e.toNat 63 56 == 0 && bitsOf e.toNat 15 10 == 0 && pteKind e != 3 then
        (State.leafSlot s va target ls (ptePA e) (lvl + 1)).map fun r => (r.1, a :: r.2)
      else none

/-- n drains of a die's queue, one after the other (R384). -/
def State.Drains (d : Nat) : Nat → State → State → Prop
  | 0, s, t => t = s
  | n + 1, s, t =>
    let at_ (x : State) : State := { x with ctl := { x.ctl with arg := { x.ctl.arg with die := d } } }
    ∃ u, exec .faultLogDrain (at_ s) = .next (at_ u) ∧ u.ctl = s.ctl ∧ State.Drains d n u t

/-- A die's queue drained until its logs can take no entry of it any more (R384). -/
def State.DrainedAt (d : Nat) (s t : State) : Prop :=
  (∃ n, s.Drains d n t) ∧ ∀ f ∈ (t.die d).faults, ¬ ((SMap.find t.fw.tenants f.tenant).isSome ∧ t.logRoom f.tenant = true)

/-- Two entries of 8 bytes do not overlap. -/
def slotsApart (a b : Nat) : Prop := a + 8 ≤ b ∨ b + 8 ≤ a

/-! ### Heads (R357 to R372) -/

/-- A HEADCFG with ENABLE takes effect on head h at a line, where no band's point P has passed: the record, its program, its tenant
and its link configuration are in force, the head's bands, points, queue, counters and history are cleared, the head's line cores
are idle without matrix operations, and those new to its mask have zeroed line buffers, which no matrix operation left over from before
writes any more (R198, R360, R361). -/
structure HeadApplied (s t : State) (h : Nat) (c : HeadChange) (line : Int) : Prop where
  rest : t = { s with heads := t.heads, lines := t.lines, mx := t.mx, frame := t.frame, mem := t.mem,
                      fw := { s.fw with fcpmb := t.fw.fcpmb, marked := t.fw.marked } }
  others : ∀ k, k ≠ h → t.head k = s.head k
  head : t.head h =
    let was := s.head h
    { was with on := true, tenant := c.queue / 64, record := c.record, prog := c.prog, pending := [], line := line,
               due := (t.head h).due, queue := [], live := [], counters := [], prevPose := [], link := true, linkCfg := c.link,
               pose := if was.on then was.pose else List.replicate 8 0, poseseq := if was.on then was.poseseq else 0,
               rs := if was.on then was.rs else RenderSet.first, rskept := if was.on then was.rskept else false }
  due : (t.head h).due = (t.head h).pointsAt line
  lines : ∀ n < 32, (t.line n).st = (if (s.line n).head = h then .idle else (s.line n).st) ∧
    let fresh := bit (recLcmask c.record) n && !((s.head h).on && bit (recLcmask (s.head h).record) n)
    ((s.line n).head = h ∧ (s.line n).st ≠ .idle ∨ fresh = true → ∀ x ∈ t.mx, x.line ≠ n) ∧
    (t.line n).lb = (if fresh then [] else (s.line n).lb)
  kept : SMap.sorted s.frame = true →
    Warmed s { t with heads := s.heads, lines := s.lines, mx := s.mx, fw := { t.fw with fcpmb := s.fw.fcpmb } }

end Sys2Proof.Machine
end

