-- ==== Sys2Proof/Certificates/Slice0/Obligations.lean ====
section
/-!
DEFINITION. The statements for the provers, each a proposition about the model, with the rules of the spec that it
formalises or rests on.
-/

open Sys2Proof Sys2Proof.Machine

/-! ### The T stream -/

/-- ADD to MOV, MOVI, LEA, ADD.W and PACK.T5 complete with the results of R91, R93 and R95 to R99 in every active
thread, and change nothing else but what completing an instruction changes (`TEnv.Done`).

The floating-point and dot-product instructions complete with their results (R104, R105, R107, R108, R113 to R115).

The model's choices that this rests on: the 0 with poison of a poisoned thread (log 22) and the value of the approximate functions
(log 10). -/
def Obligations.IntegerAndFloatResults : Prop :=
  (∀ r ∈ intRows, r.Gives) ∧
  (∀ r ∈ floatRows, r.Gives)

/-- CMP, FCMP and FCLASS complete, as a register result and under .P as a predicate (R94, R106).

SHFL, QSWP, QBC, QDD, CVT, S2V and CBX complete with their results (R111, R112, R119, R140, R141, R147).

The model's choices that this rests on: the 0 with poison of a poisoned thread (log 22), and which element CVT fills and how it reads a
short immediate (log 60). -/
def Obligations.ConditionAndLaneResults : Prop :=
  (∀ r ∈ condRows, r.Gives) ∧
  (∀ r ∈ laneRows, r.Gives)

/-- UNPACK.T5 and DOT.T5: legal bytes, illegal bytes under .SPEC and in helpers, and ILLTRIT (R100, R116, R129). The .Z form
of UNPACK.T5 completes with 0 for an illegal byte and makes the instruction's guard false in its thread.

The model's choices that this rests on: the 0 with poison of a poisoned thread and of a helper (log 22), and the record of DFREC where
poison and an illegal byte meet under .SPEC (log 60). -/
def Obligations.TritLaneResults : Prop :=
  (∀ r ∈ tritRows, r.Gives) ∧
  ∀ (i : TWord) (s : State) (e : TEnv), s.tReady 0x1F i = some e → bit i.ext.xmod 0 = true → e.unpoisoned →
    let byte (t : Nat) : Nat := (e.src 1 .int t >>> (8 * i.mod.toNat)).toNat % 256
    let bad := maskOf 32 32 fun t => bit e.act t && !bit e.poisoned t && decide (243 ≤ byte t)
    let w := e.wrote 1 (fun t => if bit (e.poisoned &&& e.act) t || decide (243 ≤ byte t) then 0 else
      (BitVec.ofNat 32 (digit3 (byte t) 0 + 4 * digit3 (byte t) 1 + 16 * digit3 (byte t) 2 + 64 * digit3 (byte t) 3 +
        256 * digit3 (byte t) 4)).setWidth 128) (e.poisoned &&& e.act)
    e.Completes (exec (.unpackT5 i) s) e.s e.g
      { w with regs := w.regs.fSet i.pred.toNat bad (if i.pneg = 1 then BitVec.allOnes 32 else 0) } 0

/-- Without .SPEC a poisoned thread that is not a helper makes an arithmetic or lane instruction raise POISON before it has
any effect; with .P that holds whatever SPEC says (R36, R86).

One that finds its POPQ queue without an entry, or no register for its result, waits and changes nothing else; an issue that
would take SAFECNT above four times the header's maxdist raises SAFEOVER (R29, R125, R220, R297).

DIV, REM, DADD, DMUL and DFMA raise EMUL whatever their guard, .SPEC bit and operands, before any pop (R75, R92, R121).

TRAP n and BRK n with an active thread raise their trap with TVAL n, TMASK holding the active threads; without one they
do nothing (R146).

The model's choices that this rests on: what is kept of an issue that waits (log 24), and SAFEOVER's place after every wait (log 20). -/
def Obligations.IssueTraps : Prop :=
  ((∀ r ∈ intRows ++ floatRows ++ laneRows, r.Traps) ∧
   ∀ r ∈ condRows, ∀ (i : TWord) (s : State) (e : TEnv), s.tReady r.op i = some e → e.poisoned &&& e.parts ≠ 0 →
     (bit i.ext.xmod 0 = true ∨ e.i.spec = 0) → exec (r.ins i) s = .next (e.trap .poison 0)) ∧
  (∀ r ∈ intRows ++ floatRows ++ laneRows, ∀ (i : TWord) (s : State) (e : TEnv), s.tEnv r.op i = some e →
     let waits : Prop := exec (r.ins i) s = .next { s with ctl := { s.ctl with wait := true } }
     (e.i.popq ≠ 0 → e.w.held = none → (e.w.mode.routine = true ∨ e.w.keptPop = none) →
       e.g.popT e.i.popq.toNat e.slot = none → waits) ∧
     ∀ e', e.popped = some e' →
       (e'.stalls = true → waits) ∧
       (e'.stalls = false → r.ready e' → 4 * e.g.kern.maxdist < e.w.safecnt.toNat + 1 →
         exec (r.ins i) s = .next (e'.trap .safeover (e.w.safecnt.setWidth 64)))) ∧
  (∀ p ∈ ([(.div, 0x0A), (.rem, 0x0B), (.dadd, 0x39), (.dmul, 0x3A), (.dfma, 0x3B)] : List ((TWord → Instr) × Nat)),
     ∀ (i : TWord) (s : State) (e : TEnv), s.tEnv p.2 i = some e → exec (p.1 i) s = .next (e.trap .emul 0)) ∧
  (∀ p ∈ ([(.trap, 0x52, .trap), (.brk, 0x54, .brk)] : List ((TWord → Instr) × Nat × Cause)),
     ∀ (i : TWord) (s : State) (e : TEnv), s.tReady p.2.1 i = some e →
       (e.parts ≠ 0 → exec (p.1 i) s =
         .next (TEnv.trap { e with run := e.act } p.2.2 (BitVec.ofNat 64 (i.srca.toNat % 256)))) ∧
       (e.parts = 0 → e.Completes (exec (p.1 i) s) e.s e.g e.w 0))

/-- SELC, VGET, VPUT, VOTE, ELECT and NOP complete: SELC and the two register moves carry the poison bit with the
value and raise nothing for it. An index without a register raises REGRANGE; where no thread but helpers is active nothing is
raised, VGET then writing 0 with poison set (R129, R131, R139, R146, R148). A VPUT waits for a register (R29). -/
def Obligations.MoveResults : Prop :=
  (∀ (i : TWord) (s : State) (e : TEnv), s.tReady 0x47 i = some e →
    let first (t : Nat) : Bool := bit (e.w.regs.fGet (i.mod.toNat % 8)) t != bit i.mod 3
    e.Completes (exec (.selc i) s) e.s e.g
      (e.wrote 1 (fun t => (if first t then e.src 1 .int t else e.src 2 .int t).setWidth 128)
        (maskOf 32 32 fun t => if first t then bit (e.rawPoi 1 1) t else bit (e.rawPoi 2 1) t)) 0) ∧
  (∀ (i : TWord) (s : State) (e : TEnv), s.tReady 0x56 i = some e →
    let k := (e.src 1 .int 0).toNat
    (k < 128 → k < e.g.kern.vregs →
      e.Completes (exec (.vget i) s) e.s e.g (e.wrote 1 (fun t => (e.w.regs.get k t).setWidth 128) (e.w.regs.poi k)) 0) ∧
    (128 ≤ k ∨ e.g.kern.vregs ≤ k →
      (e.parts ≠ 0 → exec (.vget i) s = .next (e.trap .regrange (BitVec.ofNat 64 k))) ∧
      (e.parts = 0 → e.Completes (exec (.vget i) s) e.s e.g (e.wrote 1 (fun _ => 0) e.act) 0))) ∧
  (∀ (i : TWord) (s : State) (e : TEnv), s.tReady 0x57 i = some e →
    let k := (e.src 1 .int 0).toNat
    (k < 128 → k < e.g.kern.vregs → (bit e.w.regs.vmap k = true ∨ e.base.renameStall e.g e.slot e.w 1 = false) →
      e.Completes (exec (.vput i) s) e.s e.g
        (e.putReg k) 0) ∧
    (k < 128 → k < e.g.kern.vregs → bit e.w.regs.vmap k = false → e.base.renameStall e.g e.slot e.w 1 = true →
      exec (.vput i) s = .next (e.s.setWarp e.g.uid e.slot e.w).waits) ∧
    (128 ≤ k ∨ e.g.kern.vregs ≤ k →
      (e.parts ≠ 0 → exec (.vput i) s = .next (e.trap .regrange (BitVec.ofNat 64 k))) ∧
      (e.parts = 0 → e.Completes (exec (.vput i) s) e.s e.g e.w 0))) ∧
  (∀ (i : TWord) (s : State) (e : TEnv), s.tReady 0x48 i = some e →
    let vote (t : Nat) : Bool := bit e.parts t && (bit (e.w.regs.fGet (i.srca.toNat % 8)) t != bit i.srca 3)
    let all (b : Bool) : BitVec 32 := if b then BitVec.allOnes 32 else 0
    (i.mod = 0 → e.Completes (exec (.vote i) s) e.s e.g
      (e.predicated (all ((List.range 32).all fun t => !bit e.parts t || vote t))) 0) ∧
    (i.mod = 1 → e.Completes (exec (.vote i) s) e.s e.g (e.predicated (all ((List.range 32).any vote))) 0) ∧
    (i.mod = 2 → e.Completes (exec (.vote i) s) e.s e.g
      (e.predicated (all (((List.range 32).all fun t => !bit e.parts t || vote t) || !(List.range 32).any vote))) 0) ∧
    (i.mod = 3 → e.unpoisoned → e.Completes (exec (.vote i) s) e.s e.g
      (e.wrote 1 (fun t => if bit (e.poisoned &&& e.act) t then 0 else (maskOf 32 32 vote).setWidth 128) (e.poisoned &&& e.act)) 0)) ∧
  (∀ (i : TWord) (s : State) (e : TEnv), s.tReady 0x49 i = some e →
    e.Completes (exec (.elect i) s) e.s e.g
      (e.predicated (maskOf 32 32 fun t => bit e.parts t && (List.range t).all fun u => !bit e.parts u)) 0) ∧
  (∀ (i : TWord) (s : State) (e : TEnv), s.tReady 0x51 i = some e → e.Completes (exec (.nop i) s) e.s e.g e.w 0)

/-- BRA, CALL, BRX, CALL.X and RET complete: an active live thread of the head run takes the target, every other one of
the run moves on, and the two calls write the return address. BRX, CALL.X and RET raise POISON before ALIGN, with the lowest
offending thread's target, and change no PC (R134, R135).

That a call writes 0 with poison in a poisoned thread is the model's choice (log 22). -/
def Obligations.BranchTargets : Prop :=
  (∀ (i : TWord) (s : State) (e : TEnv), s.tReady 0x40 i = some e →
    e.Completes (exec (.bra i) s) e.s e.g (e.jumped e.w.regs fun _ => BitVec.ofNat 32 e.pc + 8 * e.src 1 .int 0) e.parts) ∧
  (∀ (i : TWord) (s : State) (e : TEnv), s.tReady 0x42 i = some e → e.unpoisoned →
    e.Completes (exec (.call i) s) e.s e.g
      (e.jumped (e.wrote 1 (fun t => if bit (e.poisoned &&& e.act) t then 0 else BitVec.ofNat 128 (e.pc + tBytes i))
        (e.poisoned &&& e.act)).regs fun _ => BitVec.ofNat 32 e.pc + 8 * e.src 1 .int 0) e.parts) ∧
  (∀ (i : TWord) (s : State) (e : TEnv), s.tReady 0x42 i = some e →
    let target (t : Nat) : Word := e.src 1 .int t + e.src 2 .int t
    (e.poisoned &&& e.parts = 0 → e.aligned target →
      e.Completes (exec (.callX i) s) e.s e.g
        (e.jumped (e.wrote 1 (fun t => if bit (e.poisoned &&& e.act) t then 0 else BitVec.ofNat 128 (e.pc + tBytes i))
          (e.poisoned &&& e.act)).regs target) e.parts) ∧
    (e.poisoned &&& e.parts ≠ 0 → exec (.callX i) s = .next (e.trap .poison 0)) ∧
    (e.poisoned &&& e.parts = 0 → ∀ t, e.firstMisaligned target t →
      exec (.callX i) s = .next (e.trap .align ((target t).setWidth 64)))) ∧
  (∀ p ∈ ([(.brx, 0x41, fun e t => e.src 1 .int t + e.src 2 .int t), (.ret, 0x43, fun e t => e.src 1 .int t)] :
      List ((TWord → Instr) × Nat × (TEnv → Nat → Word))),
    ∀ (i : TWord) (s : State) (e : TEnv), s.tReady p.2.1 i = some e →
      (e.poisoned &&& e.parts = 0 → e.aligned (p.2.2 e) →
        e.Completes (exec (p.1 i) s) e.s e.g (e.jumped e.w.regs (p.2.2 e)) e.parts) ∧
      (e.poisoned &&& e.parts ≠ 0 → exec (p.1 i) s = .next (e.trap .poison 0)) ∧
      (e.poisoned &&& e.parts = 0 → ∀ t, e.firstMisaligned (p.2.2 e) t →
        exec (p.1 i) s = .next (e.trap .align ((p.2.2 e t).setWidth 64))))

/-- EXIT ends the active threads of the head run, and SETPC gives its active threads the states that their A names and sets SAFECNT
to 0; a warp without a live thread has exited, its routine ended, its queue entries and barriers settled (R18, R27, R128, R136,
R138, R144, R297). In a restore routine the last thread that leaves it brings the poison map's bits, or parks or traps where the map
cannot be read or its DFREC has a nonzero zero bit (R6, R230). Both are ILLINST in a handler; SETPC raises POISON, and ALIGN for a value that is neither a multiple of 8 nor
one of the two codes (R36, R138, R222).

The model's choices that this rests on: SETPC in a poisoned thread and in a helper whose value is no state (log 23, log 22), and the
PROT of a map whose DFREC breaks its layout (log 60). -/
def Obligations.ThreadStates : Prop :=
  (∀ (i : TWord) (s : State) (e : TEnv), s.tReady 0x44 i = some e →
    (e.w.inHandler = false → e.Leaves (exec (.exit i) s) e.parts fun th x => if bit e.parts th then .helper else x) ∧
    (e.w.inHandler = true → exec (.exit i) s = .next (e.trap .illinst 0))) ∧
  (∀ (i : TWord) (s : State) (e : TEnv), s.tReady 0x46 i = some e →
    (e.w.inHandler = false → e.poisoned &&& e.parts = 0 →
      (∀ t, bit e.parts t = true → setTakes (e.src 1 .int t)) →
      e.Leaves (exec (.setpc i) s) e.act fun th x =>
        if bit e.act th && !bit e.poisoned th && decide (setTakes (e.src 1 .int th)) then setTo (e.src 1 .int th) else x) ∧
    (e.w.inHandler = true → exec (.setpc i) s = .next (e.trap .illinst 0)) ∧
    (e.w.inHandler = false → e.poisoned &&& e.parts ≠ 0 → exec (.setpc i) s = .next (e.trap .poison 0)) ∧
    (e.w.inHandler = false → e.poisoned &&& e.parts = 0 → ∀ t, bit e.parts t = true → ¬ setTakes (e.src 1 .int t) →
      (∀ u, u < t → bit e.parts u = true → setTakes (e.src 1 .int u)) →
      exec (.setpc i) s = .next (e.trap .align ((e.src 1 .int t).setWidth 64))))

/-- SAFEPT sets SAFECNT to 0 and, in a warp that runs its program, notes its entry; with no pre-emption pending it does
nothing else (R137). Under a pending request the warp stops there: its poison map and DFREC stand at TFRAME + 0xA00, the state of its
threads is kept, and it is in the save routine of the entry with every thread live there, no thread frozen, no pop held and no
barrier or semaphore waited for; a warp in portable form has its state kept alone (R137, R227, R228). Without a translation the stop
stays due, its fault queued; on a page without W it faults the grid (R229). In a handler SAFEPT is ILLINST (R222).

The model's choices that this rests on: how a warp in portable form is kept (log 9), and the slot and PC of the grid fault's report
(log 19). -/
def Obligations.SafePoints : Prop :=
  ∀ (i : TWord) (s : State) (e : TEnv), s.tReady 0x45 i = some e →
    let n := i.srca.toNat % 256
    let w := { e.w with safecnt := 0, lastSafe := if e.w.mode.routine then e.w.lastSafe else some n }
    (e.w.inHandler = false → e.g.preempt = false ∨ e.w.mode ≠ .running ∨ e.g.mayStop e.slot = false →
      e.Completes (exec (.safept i) s) e.s e.g w 0) ∧
    (e.w.inHandler = false → e.g.preempt = true → e.w.mode = .running → e.g.mayStop e.slot = true →
      ∃ t g' w' t2, e.Done e.s e.g w 0 t g' w' ∧ exec (.safept i) s = .next t2 ∧
        let a := w'.tframe.toNat + 0xA00
        let u := t.translate e.g.core e.g.tenant e.g.asid a
        (∀ p, u.2 = .ok p → p.w = true → p.pa % 128 = 0 → ∃ w2, t2.group? e.g.uid = some (g'.setWarp e.slot w2) ∧
          (∀ uid, uid ≠ e.g.uid → t2.group? uid = t.group? uid) ∧
          SameBytes u.1 t2 (fun x => p.pa ≤ x ∧ x < p.pa + 560) ∧
          (p.kind = 0 →
            (∀ r < 138, ∀ k < 4, memByte t2.mem (p.pa + 4 * r + k) = (w'.regs.poi r).extractLsb' (8 * k) 8) ∧
            ∀ k < 8, memByte t2.mem (p.pa + 552 + k) = w'.dfrec.extractLsb' (8 * k) 8) ∧
          (e.g.kern.vver = 0 →
            w2 = { w' with mode := .saving n, stop := w'.threads, stopDue := none, frozen := 0, held := none, keptPop := none,
                           synced := none, semWait := none, threads := w2.threads } ∧
            ∀ row pc, e.g.kern.safe[n]? = some row → row[0]? = some (some pc) → ∀ th,
              w2.thread th = if th < (if e.g.kern.legacy then 16 else 32) then .live (BitVec.ofNat 32 pc) else .exited) ∧
          (e.g.kern.vver ≠ 0 → w2 = { w' with mode := .saved n, stop := w'.threads, stopDue := none })) ∧
        (∀ p, u.2 = .ok p → p.w = false → t2 =
          u.1.gridFault g' e.slot Cause.prot.code 0 (BitVec.ofNat 32 (w'.minPc.getD 0)) (BitVec.ofNat 64 a) true) ∧
        (∀ k, u.2 = .error k → t2.FaultWaits e.g a ∧ t2.group? e.g.uid = some (g'.setWarp e.slot
          { w' with stopDue := some n, parked := some (Park.mk e.g.asid a k 1) }))) ∧
    (e.w.inHandler = true → exec (.safept i) s = .next (e.trap .illinst 0))

/-! ### Barriers, traps and returns -/

/-- BAR.ARV and BAR.SYNC of a member warp: each active thread whose own earlier arrival is not pending arrives now, with a release
at the barrier's scope; BAR.ARV completes when all have arrived, and BAR.SYNC, with an acquire, when the phase of their arrival has
completed as well; until then the instruction has not issued and waits with its arrivals noted. BAR.WT completes, with an acquire,
once no arrival of its threads is pending. A warp that is no member raises PROT (R142, R143, R145).

An arrival at a group barrier records its threads; the phase completes, its count cleared and its bit
flipped, exactly when every member warp of the group has arrived in it (R143, R144). -/
def Obligations.Barriers : Prop :=
  (∀ (i : TWord) (s : State) (e : TEnv), let kind := i.mod.toNat; let k := i.srca.toNat % 256
     let sc := if kind = 0 then 0 else if kind = 1 then 1 else 3
     (∀ p ∈ ([(.barArv, 0x4E, false), (.barSync, 0x50, true)] : List ((TWord → Instr) × Nat × Bool)),
       s.tReady p.2.1 i = some e → e.g.barMember e.slot kind k = true →
         let got := e.w.synced.getD 0
         let now := e.parts &&& ~~~got &&& ~~~e.pending e.base kind k
         let s1 := if now = 0 then e.base else e.arrive now kind k
         let ends : Prop := e.parts &&& ~~~(got ||| now) = 0 ∧ (p.2.2 = true → e.pending s1 kind k &&& e.parts = 0)
         (ends → ∃ g1, s1.group? e.g.uid = some g1 ∧
           e.Completes (exec (p.1 i) s) (if p.2.2 = true ∨ e.w.synced ≠ none then s1.acquire e.g.core sc else s1) g1 e.w 0) ∧
         (¬ ends → got ||| now = 0 → exec (p.1 i) s = .next (e.s.setWarp e.g.uid e.slot { e.w with synced := some 0 }).waits) ∧
         (¬ ends → got ||| now ≠ 0 → exec (p.1 i) s = .next (e.kept s1 { e.w with synced := some (got ||| now) }).waits)) ∧
     (s.tReady 0x4F i = some e → e.g.barMember e.slot kind k = true →
       (e.pending e.base kind k &&& e.parts = 0 → e.Completes (exec (.barWt i) s) (e.base.acquire e.g.core sc) e.g e.w 0) ∧
       (e.pending e.base kind k &&& e.parts ≠ 0 → exec (.barWt i) s = .next (e.s.setWarp e.g.uid e.slot e.w).waits)) ∧
     (∀ p ∈ ([(.barArv, 0x4E), (.barWt, 0x4F), (.barSync, 0x50)] : List ((TWord → Instr) × Nat)),
       s.tReady p.2 i = some e → e.g.barMember e.slot kind k = false → exec (p.1 i) s = .next (e.trap .prot 0))) ∧
  (∀ (e : TEnv) (m : BitVec 32) (k : Nat), k < 16 →
     let b := SMap.get Barrier.zero e.g.bars k
     let old := SMap.get 0 b.arrived (warpKey e.g.uid e.slot)
     let b' : Barrier := { b with arrived := SMap.put b.arrived (warpKey e.g.uid e.slot) (old ||| m) }
     ∃ g', (e.arrive m 0 k).group? e.g.uid = some g' ∧ g' = { e.g with bars := g'.bars } ∧
       BarsSettled { e.g with bars := SMap.put e.g.bars k b' } g' ∧
       SMap.get Barrier.zero g'.bars k =
         if e.g.arrived b' (e.g.barMask k) then { phase := !b.phase, arrived := [] } else b')

/-- T trap entry, of an instruction that is no operation of a Vosis block: the trap registers take the cause with OP, MOD and the
deferred cause, the PC, the words, the mask and the value; SAFECNT is 0, the threads of the mask stand at the `.trap` entry, every other is frozen with its PC, no other register
changes, and the 2,560 bytes of the frame stand at TFRAME; nothing else of memory is stored to (R217, R222).

A trap that cannot enter a handler faults the grid: SAFEOVER always, with NESTED in a handler or in a save or restore routine, and
with NESTED any other cause there, or where the kernel has no `.trap` entry (R221, R229). -/
def Obligations.TrapEntry : Prop :=
  (∀ (e : TEnv) (c : Cause) (v : DWord) (entry : Nat) (p : Page),
     let t := e.base.translate e.g.core e.g.tenant e.g.asid e.w.tframe.toNat
     e.s.ctl.inBlock = false → c ≠ .safeover → e.w.inHandler = false → e.w.mode.routine = false → e.g.kern.ttrap = some entry →
     t.2 = .ok p → p.w = true → p.pa % 128 = 0 →
     ∃ w', (e.trap c v).group? e.g.uid = some (e.g.setWarp e.slot w') ∧
       w' = { e.w with trap := w'.trap, safecnt := 0, inHandler := true, frozen := ~~~e.run, held := none,
                       keptPop := none, synced := none, semWait := none, threads := w'.threads } ∧
       w'.trap = { tcause := BitVec.ofNat 32 (c.code + (if c = .poison ∧ bit e.w.dfrec 8 = true then 2 ^ 8 * (e.w.dfrec.toNat % 256) else 0) +
                     2 ^ 20 * e.i.mod.toNat + 2 ^ 24 * e.op),
                   tpc := BitVec.ofNat 32 e.pc, tinst := (tWords e.op e.i).1, tinst2 := (tWords e.op e.i).2, tmask := e.run,
                   tval := if c = .poison then e.w.dfrec else v } ∧
       (∀ th, w'.thread th = match e.w.thread th with
         | .live q => .live (if bit e.run th then BitVec.ofNat 32 entry else q)
         | x => x) ∧
       (∀ uid, uid ≠ e.g.uid → (e.trap c v).group? uid = e.s.group? uid) ∧
       SameBytes t.1 (e.trap c v) (fun a => p.pa ≤ a ∧ a < p.pa + 2560) ∧
       ∀ k < 2560, ((e.trap c v).levelByte (.l1 e.g.core) (p.pa + k)).2.2 =
         ((tFrameBytes { e.w with held := none } w'.trap)[k]?).getD 0) ∧
  (∀ (e : TEnv) (c : Cause) (v : DWord),
     let dc := if c = .poison ∧ bit e.w.dfrec 8 = true then e.w.dfrec.toNat % 256 else 0
     let v' := if c = .poison then e.w.dfrec else v
     let s := e.s.setGroup (e.g.setWarp e.slot { e.w with held := none })
     e.s.ctl.inBlock = false →
     (c = .safeover →
       e.trap c v = s.gridFault e.g e.slot c.code dc (BitVec.ofNat 32 e.pc) v' (e.w.inHandler || e.w.mode.routine)) ∧
     (c ≠ .safeover → e.w.inHandler = true ∨ e.w.mode.routine = true ∨ e.g.kern.ttrap = none →
       e.trap c v = s.gridFault e.g e.slot c.code dc (BitVec.ofNat 32 e.pc) v' true))

/-- TRET in a handler whose frame can be read completes: the warp is as the frame's bytes say (in a legacy-width warp, for its 16
threads, R42), and every byte of memory that it leaves was there before. Outside a handler it is ILLINST; a TPC word that is not a multiple of 8 raises ALIGN, and
so does a frame with a nonzero zero field, for which the model takes that trap (R6, R223, log 60). While the names that it maps find no register it waits (R29).

A frame holds what TRET restores: the warp as a trap entry leaves it, given back the bytes that the entry wrote, has its o,
x, f and s0 to s7 registers, its v0 to v7 with their mapping, poison and SAFECNT, as before the trap, and its live threads of
the mask at TPC (R222, R223). -/
def Obligations.TrapReturn : Prop :=
  (∀ (i : TWord) (s : State) (e : TEnv), s.tReady 0x53 i = some e →
     (e.w.inHandler = false → exec (.tret i) s = .next (e.trap .illinst 0)) ∧
     ∀ p, let t := e.base.translate e.g.core e.g.tenant e.g.asid e.w.tframe.toNat
       e.w.inHandler = true → t.2 = .ok p →
       (p.r = false → exec (.tret i) s = .next (e.trap .prot e.w.tframe)) ∧
       (p.r = true →
         let r := t.1.gLoadList e.g.core e.g.tenant 0 p 2560
         let pc := wordAt r.2 0x98C 4
         Warmed e.base r.1 ∧ r.2.length = 2560 ∧
         let w := (e.w.leave r.2).lanes e.g.kern.width
         let zeros : Prop := wordAt r.2 0x964 4 = 0 ∧ wordAt r.2 0x9B8 4 < 256 ∧ ∀ k < 68, r.2[0x9BC + k]? = some 0
         let stalls := e.s.renameStall e.g e.slot e.w (w.regs.mapped - e.w.regs.mapped)
         (pc % 8 = 0 → zeros → stalls = false → e.Completes (exec (.tret i) s) r.1 e.g w (BitVec.allOnes 32)) ∧
         (pc % 8 = 0 → zeros → stalls = true → exec (.tret i) s = .next (e.kept e.base e.w).waits) ∧
         (pc % 8 ≠ 0 ∨ ¬ zeros → exec (.tret i) s = .next (e.trap .align (BitVec.ofNat 64 pc))))) ∧
  (∀ (w : Warp) (tr : TrapRegs) (entry : Nat), let w' := (w.enter tr entry).leave (tFrameBytes w tr)
     (∀ t < 32, ∀ reg, (reg < 8 → bit w.regs.vmap reg = true) → reg < 138 → w'.regs.get reg t = w.regs.get reg t) ∧
     (∀ reg, (reg < 8 → bit w.regs.vmap reg = true) → reg < 138 → w'.regs.poi reg = w.regs.poi reg) ∧
     w'.regs.vmap = w.regs.vmap ∧ (∀ n, w'.regs.fGet n = w.regs.fGet n) ∧ (∀ n, w'.regs.sGet n = w.regs.sGet n) ∧
     w'.safecnt = w.safecnt ∧ w'.inHandler = false ∧ w'.frozen = 0 ∧
     w'.dfrec = (if tr.tcause.toNat % 256 = 0x08 then 0 else w.dfrec) ∧
     ∀ th, w'.thread th = match w.thread th with
       | .live q => .live (if bit tr.tmask th then tr.tpc else q)
       | x => x)

/-! ### Memory -/

/-- LD, LDS and LDX whose checks pass complete: each active thread that is not poisoned accesses the place at its own address
(R250, R251), and its destination receives, at the width and extension of the form, the value that a load of that place gives,
after the reads of the threads before it, or the scratchpad's or window's bytes there; a thread that fails, under .SPEC or as a
helper, receives 0 with poison set (of a helper the model's choice, log 22; what DFREC records for LDX is log 25's). No store happens: of memory, caches and TLBs nothing
differs but what reading moves (R240, R248, R252, R253, R263).

What a load reads: at any scope, the bytes that the core's L1 then holds, valid; at .grp, where they are valid in the L1
already, those; at .clu and .die, where the L1 holds nothing dirty and the die cache's line is valid, that line's; at .dev, from an
ordinary page of which the core and its die hold nothing dirty, the bytes of memory (R242 to R244, R263). -/
def Obligations.Loads : Prop :=
  (∀ p ∈ ([(.ld, 0x60, .global), (.lds, 0x62, .pad), (.ldx, 0x64, .cluster)] : List ((TWord → Instr) × Nat × Space)),
     ∀ (i : TWord) (s : State) (e : TEnv), s.tReady p.2.1 i = some e → e.unpoisoned →
       let n := accessBytes i.mod.toNat
       let m := e.act &&& ~~~(e.poisoned &&& e.act)
       let c := e.checks p.2.2 n .read m
       e.Places p.2.2 n .read m c.2 ∧
       (e.loadsPass c.2 → ∃ s1 vals, Warmed e.base s1 ∧ e.ReadsAll n c vals ∧
         e.Completes (exec (p.1 i) s) (if e.act = 0 then s1 else e.post s1) e.g
           (e.loaded vals (lowestBad (c.2.filter fun x => bit e.parts x.1))) 0)) ∧
  (∀ (s : State) (c tn sc : Nat) (p : Page) (n : Nat), 0 < n → p.pa % 128 + n ≤ 128 →
     let r := s.gLoad c tn sc p n
     let inL1 (a : Nat) : Bool × Bool × Byte := s.levelByte (.l1 c) a
     let inDie (a : Nat) : Bool × Bool × Byte := s.levelByte (.die (dieOf c)) a
     Warmed s r.1 ∧ r.2 < 256 ^ n ∧
     (∀ k < n, (r.1.levelByte (.l1 c) (p.pa + k)).1 = true ∧
       BitVec.ofNat 8 (r.2 / 256 ^ k) = (r.1.levelByte (.l1 c) (p.pa + k)).2.2) ∧
     (sc = 0 → (∀ k < n, (inL1 (p.pa + k)).1 = true) → ∀ k < n, BitVec.ofNat 8 (r.2 / 256 ^ k) = (inL1 (p.pa + k)).2.2) ∧
     (1 ≤ sc → sc ≤ 2 → p.kind = 0 → (∀ a, a / 128 = p.pa / 128 → (inL1 a).2.1 = false ∧ (inDie a).1 = true) →
       ∀ k < n, BitVec.ofNat 8 (r.2 / 256 ^ k) = (inDie (p.pa + k)).2.2) ∧
     (3 ≤ sc → p.kind = 0 → (∀ a, a / 128 = p.pa / 128 → (inL1 a).2.1 = false ∧ (inDie a).2.1 = false) →
       ∀ k < n, BitVec.ofNat 8 (r.2 / 256 ^ k) = memByte s.mem (p.pa + k)))

/-- ST whose checks pass completes: each byte named by a thread holds the byte of the highest-numbered thread that names it,
in the core's L1, and no other byte changes at any level; one on a RING page is one side effect (R235, R250, R254, R263).

STS and STX whose checks pass complete: each byte named holds the byte of the highest-numbered thread that names it, and
no other byte of a scratchpad, of a window or of memory changes (R238, R240, R254). -/
def Obligations.Stores : Prop :=
  (∀ (i : TWord) (s : State) (e : TEnv), s.tReady 0x61 i = some e → e.poisoned &&& e.parts = 0 →
     let n := accessBytes i.mod.toNat
     let c := e.checks .global n .write e.parts
     e.Places .global n .write e.parts c.2 ∧
     (e.parts = 0 → e.Completes (exec (.st i) s) e.s e.g e.w 0) ∧
     (AllPlaced c.2 → e.parts ≠ 0 →
       ∃ s1 g1, e.Completes (exec (.st i) s) s1 g1 e.w 0 ∧ s1.group? e.g.uid = some g1 ∧
         StoredOnly (e.pre c.1) s1 (globBytes c.2 n) (fun _ _ => False) ∧
         (∀ a t q, LastStore c.2 n a t q →
           (s1.levelByte (.l1 e.g.core) a).2.2 = BitVec.ofNat 8 (e.data (accessRegs i.mod.toNat) t / 256 ^ (a - q.pa))) ∧
         g1.side = if onRing c.2 then min 0xFFFF (e.g.side + 1) else e.g.side)) ∧
  (∀ p ∈ ([(.sts, 0x63, .pad), (.stx, 0x65, .cluster)] : List ((TWord → Instr) × Nat × Space)),
     ∀ (i : TWord) (s : State) (e : TEnv), s.tReady p.2.1 i = some e → e.poisoned &&& e.parts = 0 →
       let n := accessBytes i.mod.toNat
       let c := e.checks p.2.2 n .write e.parts
       e.Places p.2.2 n .write e.parts c.2 ∧
       (e.parts = 0 → e.Completes (exec (p.1 i) s) e.s e.g e.w 0) ∧
       (AllPlaced c.2 → e.parts ≠ 0 →
         ∃ s1 g1, e.Completes (exec (p.1 i) s) s1 g1 e.w 0 ∧ s1.group? e.g.uid = some g1 ∧ g1.side = e.g.side ∧
           StoredOnly (e.pre c.1) s1 (fun _ => False) (padBytes c.2 n) ∧
           ∀ uid g' a t b, LastPadStore c.2 n uid a t b → s1.group? uid = some g' →
             s1.spByte g' a = BitVec.ofNat 8 (e.data (accessRegs i.mod.toNat) t / 256 ^ (a - b))))

/-- Loads, stores and atomics whose checks fail: POISON comes first; then the first failing check of R251 of the lowest thread
that fails it gives ALIGN or PROT with its address, before anything is stored; a translation fault parks the instruction and
queues the fault (R221, R251, R384). The address that TVAL holds for LDX and STX is the model's reading (log 25). -/
def Obligations.AccessFaults : Prop :=
  let atom (i : TWord) : Nat := if atomIs64 i.mod.toNat then 8 else 4
  let plain (i : TWord) : Nat := accessBytes i.mod.toNat
  ∀ p ∈ ([(.ld, 0x60, .global, .read, plain), (.lds, 0x62, .pad, .read, plain), (.ldx, 0x64, .cluster, .read, plain),
      (.st, 0x61, .global, .write, plain), (.sts, 0x63, .pad, .write, plain), (.stx, 0x65, .cluster, .write, plain),
      (.atom, 0x66, .global, .atomic, atom), (.cas, 0x67, .global, .atomic, fun i => if i.mod = 0 then 4 else 8),
      (.red, 0x68, .global, .atomic, atom)] : List ((TWord → Instr) × Nat × Space × Need × (TWord → Nat))),
    ∀ (i : TWord) (s : State) (e : TEnv), s.tReady p.2.1 i = some e → e.i.spec = 0 →
      let need := p.2.2.2.1
      let n := p.2.2.2.2 i
      let m := if need = .read then e.act &&& ~~~(e.poisoned &&& e.act) else e.parts
      let c := e.checks p.2.2.1 n need m
      e.Places p.2.2.1 n need m c.2 ∧
      (e.poisoned &&& e.parts ≠ 0 → exec (p.1 i) s = .next (e.trap .poison 0)) ∧
      (e.poisoned &&& e.parts = 0 → ∀ t b, firstBad (c.2.filter fun x => bit e.parts x.1) = some (t, b) →
        (b.cause ≠ .xlate → exec (p.1 i) s = .next (e.trap b.cause b.tval)) ∧
        (b.cause = .xlate → e.Parks (exec (p.1 i) s) b.tval.toNat b.xl (if need = .read then 0 else 1)))

/-- ATOM, CAS and RED whose checks pass complete: the threads of one address make one request, and the requests are performed one
after another, each one atomic access at its place: an ATOM or RED combines what it finds with its threads' operands as the
aggregator does, a CAS as its lanes one after another; ATOM and CAS write each thread's old value. No byte but those named takes
a value that no level held, and outside .grp, or on a RING page, the instruction is one side effect (R67, R235, R255 to R258).

The model's choices that this rests on: one side effect for the instruction (log 17), and the order of its requests, by their lowest
threads (log 2). -/
def Obligations.Atomics : Prop :=
  ∀ (i : TWord) (s : State) (e : TEnv),
    let go (ins : TWord → Instr) (n : Nat) (dst : Bool) (op : List Nat → Nat → Nat × List Nat) : Prop :=
      let c := e.checks .global n .atomic e.parts
      let w (out : Nat → Nat) : Warp := if dst then e.wrote (n / 4) (fun t => if bit e.parts t then BitVec.ofNat 128 (out t) else 0) 0 else e.w
      e.Places .global n .atomic e.parts c.2 ∧
      (e.parts = 0 → e.Completes (exec (ins i) s) e.s e.g (w fun _ => 0) 0) ∧
      (AllPlaced c.2 → e.poisoned &&& e.parts = 0 → e.parts ≠ 0 →
        let side := if e.i.ext.scope ≠ 0 ∨ onRing c.2 = true then min 0xFFFF (e.g.side + 1) else e.g.side
        ∃ rs s0 s1, ∃ out : Nat → Nat, e.Grouped rs ∧ e.Performs n c.2 op out rs (e.pre c.1) s0 ∧
          Updated e.base s0 (globBytes c.2 n) ∧
          s1 = { e.post s0 with groups := s1.groups, qi := { e.s.qi with posters := s1.qi.posters } } ∧
          (∀ uid, uid ≠ e.g.uid → s1.group? uid = e.s.group? uid) ∧
          e.Completes (exec (ins i) s) s1 { e.g with side := side } (w out) 0)
    (s.tReady 0x66 i = some e → go .atom (if atomIs64 i.mod.toNat then 8 else 4) true
      fun ls m => aggregate i.mod.toNat (ls.map e.operand) m) ∧
    (s.tReady 0x67 i = some e → go .cas (if i.mod = 0 then 4 else 8) true fun ls m => casLanes (ls.map e.casPair) m) ∧
    (s.tReady 0x68 i = some e → go .red (if atomIs64 i.mod.toNat then 8 else 4) false
      fun ls m => aggregate i.mod.toNat (ls.map e.operand) m)

/-- The aggregator's request of an integer operation gives the memory, and every lane, what the lanes' operations one after
another would give, of 32 bits and of 64. Of FADD, FMIN and FMAX memory takes m ⊕ (v1 ⊕ … ⊕ vk), each step rounded, the first lane
m, and lane j m ⊕ (v1 ⊕ … ⊕ vj−1), of .FADD.bf16x2 so in each element; a request of CAS is the lanes one after another (R62, R255 to
R257). -/
def Obligations.Aggregation : Prop :=
  (∀ (mod m : Nat) (vs : List Nat), let w := if atomIs64 mod then 64 else 32
    mod ≤ 0xA → m < 2 ^ w → (∀ v ∈ vs, v < 2 ^ w) →
    (aggregate mod vs m).1 = vs.foldl (atomOp mod) m ∧
    (aggregate mod vs m).2 = (List.range vs.length).map fun k => (vs.take k).foldl (atomOp mod) m) ∧
  (∀ p ∈ ([(0xB, fadd .rne), (0xD, fminmax false false), (0xE, fminmax true false)] : List (Nat × (Word → Word → Word))),
    ∀ (m v : Word) (vs : List Word), let r := aggregate p.1 ((v :: vs).map BitVec.toNat) m.toNat
      r.1 = (p.2 m (vs.foldl p.2 v)).toNat ∧
      r.2 = m.toNat :: (List.range vs.length).map fun k => (p.2 m ((vs.take k).foldl p.2 v)).toNat) ∧
  (∀ (m v : Nat) (vs : List Nat), m < 2 ^ 32 → v < 2 ^ 32 → (∀ x ∈ vs, x < 2 ^ 32) → let r := aggregate 0xC (v :: vs) m
    ∀ h < 2, let e (x : Nat) : Nat := x / 2 ^ (16 * h) % 2 ^ 16
      let add (a b : Nat) : Nat := bf16.round .rne false (FVal.sum .rne [bf16.decode a, bf16.decode b])
      e r.1 = add (e m) ((vs.map e).foldl add (e v)) ∧
      r.2.map e = e m :: (List.range vs.length).map fun k => add (e m) (((vs.map e).take k).foldl add (e v))) ∧
  (∀ (m : Nat) (vs : List (Nat × Nat)), let step (x : Nat) (p : Nat × Nat) : Nat := if x = p.1 then p.2 else x
    (casLanes vs m).1 = vs.foldl step m ∧
    (casLanes vs m).2 = (List.range vs.length).map fun k => (vs.take k).foldl step m)

/-- One atomic access finds the location's present value: at .grp the bytes that the L1 holds valid; beyond it the core's own dirty
bytes; else at .clu and .die the byte that the die cache holds, dirty or in a line wholly valid there, and of a line that it does
not hold so the byte of memory; at .dev and .sys the byte that the die holds dirty, else memory's; on a FRAME or RING page the
partition's, where that holds the line. What it returns is what it combines, and the combined value stands at the level of its
scope: in the L1 at .grp, and for an ordinary page in the die cache at .clu and .die and in memory beyond (R242 to R244, R258). -/
def Obligations.AtomicAccess : Prop :=
  ∀ (s : State) (c tn sc : Nat) (p : Page) (n : Nat) (f : Nat → Nat), 0 < n → p.pa % 128 + n ≤ 128 →
    let r := s.gAtomic c tn sc p n f
    let l1 (a : Nat) : Bool × Bool × Byte := s.levelByte (.l1 c) a
    let die (a : Nat) : Bool × Bool × Byte := s.levelByte (.die (dieOf c)) a
    let line (a : Nat) : Prop := a / 128 = p.pa / 128
    let wholly : Prop := ∀ a, line a → (die a).1 = true
    let clean : Prop := ∀ a, line a → (l1 a).2.1 = false
    r.2 < 256 ^ n ∧ Updated s r.1 (fun a => p.pa ≤ a ∧ a < p.pa + n) ∧
    (∀ k < n, let a := p.pa + k; let found : Byte := BitVec.ofNat 8 (r.2 / 256 ^ k)
      (sc = 0 → (∀ j < n, (l1 (p.pa + j)).1 = true) → found = (l1 a).2.2) ∧
      (1 ≤ sc → p.kind = 0 → (s.l1Line c (p.pa / 128)).kind = 0 → (l1 a).2.1 = true → found = (l1 a).2.2) ∧
      (1 ≤ sc → sc ≤ 2 → p.kind = 0 → (l1 a).2.1 = false → (die a).2.1 = true ∨ wholly → found = (die a).2.2) ∧
      (1 ≤ sc → sc ≤ 2 → p.kind = 0 → clean → (die a).2.1 = false → ¬ wholly → found = memByte s.mem a) ∧
      (3 ≤ sc → p.kind = 0 → (l1 a).2.1 = false → (die a).2.1 = true → found = (die a).2.2) ∧
      (3 ≤ sc → p.kind = 0 → (l1 a).2.1 = false → (die a).2.1 = false → found = memByte s.mem a) ∧
      (1 ≤ sc → p.kind ≠ 0 → clean → (∀ b, line b → (s.levelByte (.part p.kind) b).1 = true) →
        found = (s.levelByte (.part p.kind) a).2.2)) ∧
    ∀ k < n, let b := BitVec.ofNat 8 (f r.2 / 256 ^ k)
      (sc = 0 → (r.1.levelByte (.l1 c) (p.pa + k)).2.2 = b) ∧
      (1 ≤ sc → sc ≤ 2 → p.kind = 0 → (r.1.levelByte (.die (dieOf c)) (p.pa + k)).2.2 = b) ∧
      (3 ≤ sc → p.kind = 0 → memByte r.1.mem (p.pa + k) = b)

/-- A release at a wider scope than .grp leaves nothing dirty in the core's L1, and at .dev and beyond nothing under the core's
mask in its die cache, nor anything dirty that the core has read there (R265); an acquire leaves no clean byte valid in the L1, at .dev and beyond in the die cache either, and keeps every
dirty one; neither makes a value (R242, R243, R266, R267).

FENCE, PFH and RESIDE complete and store nothing: FENCE with its release and acquire, the two hints one participant after another;
a PFH that succeeds brings its line in, a RESIDE marks its lines in the die cache, takes their marks or heats their regions; a hint
that fails is dropped, raises HINTDROP by one, and raises nothing but POISON (R259, R260, R270). -/
def Obligations.Fences : Prop :=
  (∀ (s : State) (tn c sc : Nat),
     Warmed s (s.release tn c sc) ∧
     (1 ≤ sc → ∀ a, ((s.release tn c sc).levelByte (.l1 c) a).2.1 = false) ∧
     (3 ≤ sc → ∀ ln, ((s.release tn c sc).dieLine (dieOf c) ln).releasedBy c = true →
       ((s.release tn c sc).dieLine (dieOf c) ln).dirty = 0) ∧
     (s.release tn c 0 = s) ∧
     Warmed s (s.acquire c sc) ∧ DirtyKept s (s.acquire c sc) ∧
     (1 ≤ sc → ∀ a, ((s.acquire c sc).levelByte (.l1 c) a).1 = true → ((s.acquire c sc).levelByte (.l1 c) a).2.1 = true) ∧
     (3 ≤ sc → ∀ a, ((s.acquire c sc).levelByte (.die (dieOf c)) a).1 = true →
       ((s.acquire c sc).levelByte (.die (dieOf c)) a).2.1 = true) ∧
     (s.acquire c 0 = s)) ∧
  ((∀ (i : TWord) (s : State) (e : TEnv), s.tReady 0x6B i = some e →
     (e.act = 0 → e.Completes (exec (.fence i) s) e.s e.g e.w 0) ∧
     (e.act ≠ 0 → Warmed e.base (e.post (e.pre e.base)) ∧ e.Completes (exec (.fence i) s) (e.post (e.pre e.base)) e.g e.w 0)) ∧
   (∀ p ∈ ([(.pfh, 0x69, fun e => e.Prefetched), (.reside, 0x6A, fun e => e.Resided)] :
       List ((TWord → Instr) × Nat × (TEnv → State → Nat → State → Prop))),
     ∀ (i : TWord) (s : State) (e : TEnv), s.tReady p.2.1 i = some e →
       (e.poisoned &&& e.parts = 0 → ∃ s1, e.Completes (exec (p.1 i) s) s1 e.g e.w 0 ∧
         ThreadSteps (p.2.2 e) (lanesOf e.parts) e.base s1 ∧ Hinted e.base s1) ∧
       (e.poisoned &&& e.parts ≠ 0 → exec (p.1 i) s = .next (e.trap .poison 0))))

/-- CBLD whose chosen thread's checks pass marks its slot pending with the 16 bytes at the address, and leaves its push to the
fill; with no active thread it only pushes; a pending slot makes it wait; a check that fails traps, or in a helper does
nothing. The fill gives the slot's entry e the BF16 at byte 2e, touches no other slot, and makes the push (R118). -/
def Obligations.CodebookLoads : Prop :=
  (∀ (i : TWord) (s : State) (e : TEnv), s.tReady 0x38 i = some e →
    let k := i.mod.toNat
    let late : TEnv := { e with i := { e.i with pushq := 0 } }
    ((∃ p ∈ e.w.cbPend, p.1 = k) → exec (.cbld i) s = .next (e.s.setWarp e.g.uid e.slot e.w).waits) ∧
    ((∀ p ∈ e.w.cbPend, p.1 ≠ k) →
      (lowest e.act = none → e.Completes (exec (.cbld i) s) e.s e.g e.w 0) ∧
      ∀ t, lowest e.act = some t → let a := (e.src 1 .int t + e.src 2 .int t).toNat
        (bit e.poisoned t = false → a % 16 = 0 → a + 16 ≤ e.g.kern.smem →
          late.Completes (exec (.cbld i) s) e.s e.g
            { e.w with cbPend := e.w.cbPend ++ [(k, i.pushq.toNat, BitVec.ofNat 128 (e.s.spNat e.g a 16))] } 0) ∧
        (bit e.hlp t = false →
          (bit e.poisoned t = true → exec (.cbld i) s = .next (e.trap .poison 0)) ∧
          (bit e.poisoned t = false → a % 16 ≠ 0 → exec (.cbld i) s = .next (e.trap .align (BitVec.ofNat 64 a))) ∧
          (bit e.poisoned t = false → a % 16 = 0 → e.g.kern.smem < a + 16 →
            exec (.cbld i) s = .next (e.trap .prot (BitVec.ofNat 64 a)))) ∧
        (bit e.hlp t = true → bit e.poisoned t = true ∨ a % 16 ≠ 0 ∨ e.g.kern.smem < a + 16 →
          e.Completes (exec (.cbld i) s) e.s e.g e.w 0))) ∧
  (∀ (s : State) (g : Group) (w : Warp) (k q : Nat) (x : BitVec 128), s.group? s.ctl.arg.uid = some g →
    g.uid = s.ctl.arg.uid → g.warp? s.ctl.arg.slot = some w →
    w.cbPend.find? (fun p => p.1 == s.ctl.arg.ch) = some (k, q, x) → w.pushDue = none →
    ∃ w', w' = { w with cb := w'.cb, cbPend := w.cbPend.filter fun p => p.1 != k } ∧
      (∀ n < 8, SMap.get 0 w'.cb (8 * k + n) = x.extractLsb' (16 * n) 16) ∧
      (∀ j, ¬ (8 * k ≤ j ∧ j < 8 * k + 8) → SMap.get 0 w'.cb j = SMap.get 0 w.cb j) ∧
      exec .cbldFill s = .next ((s.setGroup (g.setWarp s.ctl.arg.slot w')).pushDone s.ctl.arg.uid s.ctl.arg.slot q))

/-- SEMADD, SEMSET and SEMWAIT of a warp: the chosen thread's semaphore, owned by the tenant, takes the saturated sum or B after a
release, and every active thread receives the old value; SEMWAIT completes with the first value that has satisfied it, and an
acquire, and waits until then. A foreign semaphore raises PROT with its index, a poisoned chosen thread POISON; where SEMWAIT's
chosen thread is a helper, nothing is raised and the result is 0 with poison set; without a chosen thread it is 0 (R129, R423 to
R426). That a helper's failing SEMWAIT gives every active thread 0 with poison is the model's reading (log 26, log 22). -/
def Obligations.WarpSemaphores : Prop :=
  (∀ p ∈ ([(.semadd, 0x75, semSum), (.semset, 0x76, fun _ b => b)] : List ((TWord → Instr) × Nat × (Word → Word → Word))),
    ∀ (i : TWord) (s : State) (e : TEnv), s.tReady p.2.1 i = some e →
      (e.parts = 0 → e.Completes (exec (p.1 i) s) e.s e.g (e.wrote 1 (fun _ => 0) 0) 0) ∧
      ∀ t, lowest e.parts = some t → let k := (e.src 1 .int t).toNat; let s0 := e.pre e.base; let old := s0.sem e.g.core k
        (bit e.poisoned t = false → owns e.g.tenant k →
          ∃ s1 g1, SemTaken s0 s1 (some e.g.uid) e.g.core k (p.2.2 old (e.src 2 .int t)) ∧ s1.group? e.g.uid = some g1 ∧
            e.Completes (exec (p.1 i) s) s1 g1 (e.wrote 1 (fun _ => old.setWidth 128) 0) 0) ∧
        (bit e.poisoned t = true → exec (p.1 i) s = .next (e.trap .poison 0)) ∧
        (bit e.poisoned t = false → ¬ owns e.g.tenant k → exec (p.1 i) s = .next (e.trap .prot (BitVec.ofNat 64 k)))) ∧
  (∀ (i : TWord) (s : State) (e : TEnv), s.tReady 0x77 i = some e →
   (e.act = 0 → e.Completes (exec (.semwait i) s) e.s e.g (e.wrote 1 (fun _ => 0) 0) 0) ∧ ∀ t, lowest e.act = some t →
    let k := (e.src 1 .int t).toNat; let b := e.src 2 .int t
    (bit e.poisoned t = false → owns e.g.tenant k → ∀ v,
      (match e.w.semWait with | some x => x.hit = some v | none => b.toNat ≤ (e.s.sem e.g.core k).toNat ∧ v = e.s.sem e.g.core k) →
      e.Completes (exec (.semwait i) s) (e.post e.base) e.g { e.wrote 1 (fun _ => v.setWidth 128) 0 with semWait := none } 0) ∧
    (bit e.poisoned t = false → owns e.g.tenant k →
      (∀ x, e.w.semWait = some x → x.hit = none → exec (.semwait i) s = .next (e.s.setWarp e.g.uid e.slot e.w).waits) ∧
      (e.w.semWait = none → (e.s.sem e.g.core k).toNat < b.toNat → exec (.semwait i) s = .next (e.s.setWarp e.g.uid e.slot
        { e.w with semWait := some { idx := k, thresh := b, hit := none } }).waits)) ∧
    (bit e.hlp t = false →
      (bit e.poisoned t = true → exec (.semwait i) s = .next (e.trap .poison 0)) ∧
      (bit e.poisoned t = false → ¬ owns e.g.tenant k → exec (.semwait i) s = .next (e.trap .prot (BitVec.ofNat 64 k)))) ∧
    (bit e.hlp t = true → bit e.poisoned t = true ∨ ¬ owns e.g.tenant k →
      e.Completes (exec (.semwait i) s) e.s e.g (e.wrote 1 (fun _ => 0) e.act) 0))

/-- RQ.RAY, RQ.BEAM and RQ.CONE with room for their queries and no failing check complete: the queries enter the core's FIFO in
thread order, each with its thread's next tag, which is the result; without room they wait (R307, R309, R310).

RPOP gives each active thread the record of its oldest outstanding query, once it is complete, and frees it; a thread without
one, and a helper, receives 0 at once. RSTAT gives the state of the query of a tag, or the thread's and the core's counts
(R331, R332).

The model's choices that this rests on: the numbers of queries (log 16), and the 0 with poison of a poisoned helper (log 22). -/
def Obligations.RayQueries : Prop :=
  (∀ p ∈ ([(.rqRay, 0x70, 1), (.rqBeam, 0x71, 2), (.rqCone, 0x72, 3)] : List ((TWord → Instr) × Nat × Nat)),
     ∀ (i : TWord) (s : State) (e : TEnv), s.tReady p.2.1 i = some e →
       let kind := p.2.2
       let next := (e.s.core e.g.core).rayNext
       let qs := (lanesOf e.parts).zipIdx.map fun p => e.rayQuery kind p.1 (SMap.get 0 e.w.tags p.1) (next + p.2)
       let check (t : Nat) : Option RayBad :=
         if kind = 1 then e.rayChecks t else e.beamChecks (e.rayQuery kind t 0 0) (e.src 1 .int t + e.src 2 .int t).toNat
       (e.queryRoom → e.poisoned &&& e.parts = 0 → (∀ t, bit e.parts t = true → check t = none) →
         ∃ s1, s1 = { e.s with cores := s1.cores, groups := s1.groups } ∧ s1.group? e.g.uid = some e.g ∧
           (∀ uid, uid ≠ e.g.uid → s1.group? uid = e.s.group? uid) ∧
           (∀ c, s1.core c = if c = e.g.core then
             { e.s.core c with fifo := (e.s.core c).fifo ++ qs, rayNext := next + (lanesOf e.parts).length } else e.s.core c) ∧
           e.Completes (exec (p.1 i) s) s1 e.g (e.asked qs) 0) ∧
       (¬ e.queryRoom → exec (p.1 i) s = .next (e.kept e.base e.w).waits) ∧
       (e.queryRoom → e.poisoned &&& e.parts ≠ 0 → exec (p.1 i) s = .next (e.trap .poison 0))) ∧
  ((∀ (i : TWord) (s : State) (e : TEnv), s.tReady 0x73 i = some e →
     ((∀ t q, bit e.parts t = true → e.oldest t = some q → q.st = 3) →
       let w := e.wrote 4 (fun t => if bit e.hlp t then 0 else match e.oldest t with
         | some q => (q.words[3]?).getD 0 ++ (q.words[2]?).getD 0 ++ (q.words[1]?).getD 0 ++ (q.words[0]?).getD 0
         | none => 0) 0
       e.Completes (exec (.rpop i) s) e.s e.g
         { w with queries := e.w.queries.filter fun q => !((lanesOf e.parts).filterMap e.oldest).contains q } 0) ∧
     ((∃ t q, bit e.parts t = true ∧ e.oldest t = some q ∧ q.st ≠ 3) → exec (.rpop i) s = .next (e.kept e.base e.w).waits)) ∧
   (∀ (i : TWord) (s : State) (e : TEnv), s.tReady 0x74 i = some e → e.unpoisoned →
     let mine (t : Nat) : List QueryRef := e.w.queries.filter fun q => q.lane == t
     let v (t : Nat) : Nat :=
       if i.mod = 0 then
         (match (mine t).find? fun q => q.tag == (e.src 1 .int t).toNat % 65536 with | some q => q.st | none => 0)
       else (mine t).length + 2 ^ 4 * ((mine t).filter fun q => q.st == 3).length + 2 ^ 8 * (e.s.core e.g.core).fifo.length
     e.Completes (exec (.rstat i) s) e.s e.g
       (e.wrote 1 (fun t => if bit (e.poisoned &&& e.act) t then 0 else BitVec.ofNat 128 (v t)) (e.poisoned &&& e.act)) 0))

/-- SAMPLE completes where the descriptors and texels of its participants pass their checks, and under .SPEC always: a thread
whose checks pass receives the four channels that R418 filters from its texels, each read at .grp from the page of its address
and decoded by the descriptor's format, the border texel without a read; every other active thread receives 0 with poison set, and
under .SPEC the lowest-numbered failing participant is recorded. It stores nothing.

Without .SPEC a poisoned participant raises POISON; then the first failing check of R420, of the lowest thread that fails it, raises
ALIGN, PROT or TAFMT with its value, or parks the instruction with its fault queued (R129, R219, R221, R252, R416 to R421).

The model's choices that this rests on: the canonical NaN of a NaN texel, and the fifth check made for each thread (log 31). -/
def Obligations.Samples : Prop :=
  ∀ (i : TWord) (s : State) (e : TEnv), s.tReady 0x6C i = some e →
    let mine := e.samplePages.2.filter fun p => bit e.parts p.1
    let o := exec (.sample i) s
    let result (s1 : State) (w : Warp) : Prop := ∃ val : Nat → BitVec 128,
      let got (t : Nat) : Prop := ∃ l, (t, Except.ok l) ∈ e.samplePages.2
      Warmed e.base s1 ∧ (∀ t, got t → bit e.act t = true ∧ bit e.samplePoison t = false) ∧
      (∃ m : BitVec 32, (∀ t < 32, bit m t = true ↔ bit e.act t = true ∧ ¬ got t) ∧ w = e.wrote 4 val m) ∧
      (∀ t, ¬ got t → val t = 0) ∧
      ∀ t l d, (t, Except.ok l) ∈ e.samplePages.2 → SMap.find e.sampleTex t = some d → let x := texOf d
        texBad d = none ∧ l.map Prod.fst = (e.texels e.sampleTex x t).flatten.filterMap id ∧
        ∃ read : Nat → Nat,
          (∀ a ∈ l.map Prod.fst, ∃ u v : State, ∃ q, Warmed e.base u ∧ Warmed e.base v ∧
            (u.translate e.g.core e.g.tenant e.g.asid a).2 = .ok q ∧ q.r = true ∧
            read a = (v.gLoad e.g.core e.g.tenant 0 q x.bytes).2) ∧
          ∀ ch < 4, (val t).extractLsb' (32 * ch) 32 = e.filtered e.sampleTex x t read ch
    (e.i.spec = 0 → e.samplePoison &&& e.parts = 0 → (∀ p ∈ mine, ∃ l, p.2 = .ok l) →
      ∃ s1 w, result s1 w ∧ e.Completes o s1 e.g w 0) ∧
    (e.i.spec = 1 → ∃ s1 w df, result s1 w ∧ e.Completes o s1 e.g { w with dfrec := df } 0 ∧
      (bit e.w.dfrec 8 = true ∨ (∀ p ∈ mine, ∃ l, p.2 = .ok l) → df = e.w.dfrec) ∧
      (bit e.w.dfrec 8 = false → ∀ l1 t b l2, mine = l1 ++ (t, .error b) :: l2 → (∀ p ∈ l1, ∃ l, p.2 = .ok l) →
        df = BitVec.ofNat 64 (b.cause.code + 2 ^ 8 + 2 ^ 12 * (b.tval.toNat % 2 ^ 52)))) ∧
    (e.i.spec = 0 → e.samplePoison &&& e.parts ≠ 0 → o = .next (e.trap .poison 0)) ∧
    (e.i.spec = 0 → e.samplePoison &&& e.parts = 0 → ∀ t b, firstBadSample mine = some (t, b) →
      (b.cause ≠ .xlate → o = .next (e.trap b.cause b.tval)) ∧
      (b.cause = .xlate → e.Parks o b.tval.toNat b.xl 6)) ∧
    ∀ t b, (t, Except.error b) ∈ e.samplePages.2 → e.SampleFault t b

/-- LNCH whose targets pass their checks takes each thread's share from its grid's weight and, after a release, stores the last 16
bytes of each packet: bytes 48 to 55 the share as WEIGHT, 56 to 59 the grid's number as PARENT, 60 to 63 C + 1 as VALID; it is one
side effect of its group. Shares and what is left make up the weight that was there. A thread that meets the weight 1 makes it
raise WEIGHTEXH, and one whose page is no RING page PROT with its address (R235, R335, R354, R355). -/
def Obligations.Launches : Prop :=
  (∀ (i : TWord) (s : State) (e : TEnv), s.tReady 0x6D i = some e → e.poisoned &&& e.parts = 0 →
    let c := e.checks .global 64 .write e.parts
    e.Places .global 64 .write e.parts c.2 ∧
    ((∀ p ∈ c.2, ∃ q, p.2 = .ok (.glob q) ∧ q.kind = 2) →
      (e.parts = 0 → e.Completes (exec (.lnch i) s) e.s e.g e.w 0) ∧
      (∀ shares left, takeShares c.2.length (e.base.weight e.g.grid) = some (shares, left) → e.parts ≠ 0 →
        let s0 := (c.1.setWeight e.g.grid left).release e.g.tenant e.g.core e.i.ext.scope.toNat
        ∃ s1 g1, StoredOnly s0 s1 (fun a => ∃ t q, (t, Except.ok (Place.glob q)) ∈ c.2 ∧ q.pa + 48 ≤ a ∧ a < q.pa + 64)
            (fun _ _ => False) ∧
          (∀ (j t : Nat) (q : Page) (sh : Nat), c.2[j]? = some (t, .ok (.glob q)) → shares[j]? = some sh →
            (∀ (k u : Nat) (q' : Page), j < k → c.2[k]? = some (u, .ok (.glob q')) → q'.pa + 64 ≤ q.pa ∨ q.pa + 64 ≤ q'.pa) →
            let byte (k : Nat) : Byte := (s1.levelByte (.l1 e.g.core) (q.pa + k)).2.2
            (∀ k < 8, byte (48 + k) = BitVec.ofNat 8 (sh % 2 ^ 64 / 256 ^ k)) ∧
            (∀ k < 4, byte (56 + k) = BitVec.ofNat 8 (e.g.grid % 2 ^ 32 / 256 ^ k)) ∧
            ∀ k < 4, byte (60 + k) = (e.src 3 .int t + 1).extractLsb' (8 * k) 8) ∧
          g1 = { e.g with side := min 0xFFFF (e.g.side + 1) } ∧ s1.group? e.g.uid = some g1 ∧
          e.Completes (exec (.lnch i) s) s1 g1 e.w 0) ∧
      (takeShares c.2.length (e.base.weight e.g.grid) = none → exec (.lnch i) s = .next (e.trap .weightexh 0))) ∧
    ((∀ p ∈ c.2, ∃ q, p.2 = .ok (.glob q)) → ∀ l1 t q l2, c.2 = l1 ++ (t, .ok (.glob q)) :: l2 → q.kind ≠ 2 →
      (∀ p ∈ l1, ∃ q', p.2 = .ok (.glob q') ∧ q'.kind = 2) →
      exec (.lnch i) s = .next (e.trap .prot (e.src64 1 t + (e.src 2 .int t).signExtend 64)))) ∧
  ∀ n w shares left, takeShares n w = some (shares, left) → shares.length = n ∧ shares.sum + left = w ∧
    (0 < w → 0 < left ∧ ∀ x ∈ shares, 0 < x)

/-! ### The access stream -/

/-- The arithmetic, shift, select and move instructions of the A stream, QPUSH, QPOP, AS2A and TASTAT complete, in both forms,
with the results of R162 to R165, R189, R302 and R303; a0 discards a write and reads 0 (R152); TASTAT's fields are those of R189.

ACMP, ANOP, ABR, AJMP, ACALL, ARET and ALOOP complete as R163, R166 and R167 say; ARET to a misaligned target raises ALIGN
with it (R166), and AJMP ends a restore routine (R230).

The model's choices that this rests on: HOLDER while no crown is held (log 27), what QPUSH and QPOP carry with a0 (log 30), and the 0
that the push of an AMOV to a loop counter carries (log 60). -/
def Obligations.AccessResults : Prop :=
  ((∀ r ∈ aRows, r.Gives) ∧
   (∀ (a : ACtx) (n m : Nat) (v : DWord), (a.setReg n v).reg m = if m = 0 then 0 else if m = n then v else a.reg m) ∧
   (∀ (a : ACtx) (n m : Nat) (v : Word), (a.setLoop n v).loop m = if m = n then v else a.loop m) ∧
   ∀ t : TritArray, StatusFields t) ∧
  ((∀ r ∈ aFlowRows, r.Gives) ∧
   ∀ (i : AWord) (s : State) (e : AEnv), s.aReady 0x13 none i = some e →
     let t : Word := (e.a.reg i.s1.toNat).setWidth 32
     t.toNat % 4 ≠ 0 → exec (.aret i) s = .next (e.trap .align (t.setWidth 64)))

/-- An A instruction that finds no entry to pop waits and changes nothing else; a pop takes the oldest entry, and that of a copy
engine token acquires at its command's scope. One that would take SAFECNT above four times maxdist raises SAFEOVER; one that pops
a token with ERR set raises that token's fault, and has no other effect (R158, R172, R195, R220, R272, R282, R299).

That TVAL is TASTAT after FPEND is cleared is the model's reading (log 27), and so is SAFEOVER's place after the waits (log 20). -/
def Obligations.AccessIssue : Prop :=
  ∀ r ∈ aRows ++ aFlowRows, ∀ f ∈ r.forms, ∀ (p : APrefix) (i : AWord) (s : State) (e : AEnv),
    s.aEnv r.op (if f.1 then some p else none) i = some e → let n := i.popq.toNat
      (n ≠ 0 → e.a.held = none → e.g.visible n = [] → exec (f.2 p i) s = .next { s with ctl := { s.ctl with wait := true } }) ∧
      (n = 0 → e.popped = some e) ∧
      (∀ v l, n ≠ 0 → e.a.held = none → e.g.visible n = v :: l → ∃ e', e.popped = some e' ∧
        e' = { e with s := e'.s, g := e.g.dropA n, q := v } ∧
        (∀ x, n = 7 → (e.g.ceScope.find? fun x => x.1 == v.toNat % 2 ^ 16) = some x → e'.s = s.acquire e.g.core x.2) ∧
        ((n = 7 → (e.g.ceScope.find? fun x => x.1 == v.toNat % 2 ^ 16) = none) → e'.s = s)) ∧
      ∀ e', e.popped = some e' →
        let beyond : Prop := e.a.restart = false ∧ 4 * e.g.kern.maxdist < e.a.safecnt.toNat + 1
        (beyond → exec (f.2 p i) s = .next (e'.trap .safeover (e.a.safecnt.setWidth 64))) ∧
        (¬ beyond → e.a.held = none → bit e'.q 31 = true →
          (n = 6 → ∃ s1, exec (f.2 p i) s = .next (AEnv.trap { e' with s := s1 } .tafault (s1.core e.g.core).ta.status) ∧
            s1 = { e'.s with cores := s1.cores } ∧
            ∀ c, s1.core c = { e'.s.core c with ta := { (e'.s.core c).ta with fpend := (s1.core c).ta.fpend } } ∧
              (c ≠ e.g.core → s1.core c = e'.s.core c)) ∧
          (n = 7 → exec (f.2 p i) s = .next (e'.trap .cefault (BitVec.ofNat 64 (e'.q.toNat + 2 ^ 32 *
            ((e.g.ceInfo.find? fun x => x.1 == e'.q.toNat % 2 ^ 16).map Prod.snd).getD 0)))))

/-- AEND and AWAITQ complete when their conditions hold and otherwise wait (R170, R304), AWAITQ's on the queues as it finds them,
before a pop of its own; ATRAP raises TRAP with its code
(R173).

ASAFE clears SAFECNT, and under a pending request sends its context to its save routine (R172, R227, R228). AEXIT waits for the
group's commands, delivers a fault that a token still carries, and otherwise ends the stream, the crown passing on (R171, R191,
R195, R282).

The model's choices that this rests on: the order in which AEXIT delivers faults, the crown's pass at the end of a save routine, and
where ASAFE does not stop (log 28). -/
def Obligations.AccessWaitsAndEnds : Prop :=
  ((∀ (i : AWord) (s : State) (e : AEnv), s.aReady 0x15 none i = some e →
     (e.idle (i.s2.toNat % 8) → e.Completes (exec (.aend i) s) e.s e.g e.a 0 false) ∧
     (¬ e.idle (i.s2.toNat % 8) → exec (.aend i) s = .next (s.waitsWith e.g.uid e.a))) ∧
   (∀ (i : AWord) (s : State) (e : AEnv), s.aReady 0x26 none i = some e →
     let q := i.d.toNat % 8
     let n := i.s2.toNat
     let ready : Prop := ∀ g, s.group? e.g.uid = some g →
       if bit i.d 3 = true then (if q = 0 then n + g.queues.fmt.length ≤ 8 else n + (g.queues.bcast q).length ≤ 16)
       else n ≤ (g.visible q).length
     (ready → e.Completes (exec (.awaitq i) s) e.s e.g e.a 0 false) ∧
     (¬ ready → exec (.awaitq i) s = .next (s.waitsWith e.g.uid e.a))) ∧
   (∀ (i : AWord) (s : State) (e : AEnv), s.aReady 0x18 none i = some e →
     exec (.atrap i) s = .next (e.trap .trap (BitVec.ofNat 64 (i.s2.toNat % 256))))) ∧
  ((∀ (i : AWord) (s : State) (e : AEnv), s.aReady 0x16 none i = some e → let n := i.s2.toNat % 256
     (¬ (e.g.preempt = true ∧ e.a.mode = .running ∧ e.a.inHandler = false) →
       e.Completes (exec (.asafe i) s) e.s e.g { e.a with safecnt := 0 } 0 false) ∧
     (e.g.preempt = true → e.a.mode = .running → e.a.inHandler = false → ∀ row pc, e.g.kern.safe[n]? = some row →
       row[2]? = some (some pc) →
       e.Completes (exec (.asafe i) s) e.s e.g { e.a with safecnt := 0, mode := .saving n, apc := BitVec.ofNat 32 pc } 0 true)) ∧
   (∀ (s : State) (e : AEnv), s.aReady 0x17 none AWord.zero = some e →
     (¬ e.idle 0 → exec .aexit s = .next (s.waitsWith e.g.uid e.a)) ∧
     (e.idle 0 → ¬ e.a.saving → ∀ tok, e.g.queues.t6.find? (fun t => bit t 31) = some tok →
       exec .aexit s = .next ((e.base.deliverTa e.g tok).aTrapOf e.g.uid e .tafault
         ((e.base.deliverTa e.g tok).core e.g.core).ta.status)) ∧
     (e.idle 0 → ¬ e.a.saving → (∀ t ∈ e.g.queues.t6, bit t 31 = false) → ∀ tok, e.g.queues.t7.find? (fun t => bit t 31) = some tok →
       exec .aexit s = .next ((e.s.setGroup { e.g with queues := { e.g.queues with
           t7 := updFirst (fun x => x == tok) clearErr e.g.queues.t7 } }).aTrapOf e.g.uid e .cefault
         (BitVec.ofNat 64 (tok.toNat + 2 ^ 32 * ((e.g.ceInfo.find? fun x => x.1 == bitsOf tok.toNat 15 0).map Prod.snd).getD 0)))) ∧
     (e.idle 0 → ¬ e.a.saving → (∀ t ∈ e.g.queues.t6, bit t 31 = false) → (∀ t ∈ e.g.queues.t7, bit t 31 = false) →
       (¬ e.crowned → e.Completes (exec .aexit s) e.s e.g { e.a with ended := true, mode := .running } 0 true) ∧
       (e.crowned → ∃ s1 ta, e.withArray (fun _ => ta) s1 ∧
         e.Completes (exec .aexit s) s1 e.g { e.a with ended := true, mode := .running } 0 true ∧
         (∃ h b, ta = { (e.s.core e.g.core).ta with holder := h, held := b }) ∧
         (∀ q, successor (SMap.del (e.s.core e.g.core).ta.ring (e.s.core e.g.core).ta.holder) (e.s.core e.g.core).ta.holder q →
           ta.held = true ∧ ta.holder = q) ∧
         ((∀ q, ¬ successor (SMap.del (e.s.core e.g.core).ta.ring (e.s.core e.g.core).ta.holder) (e.s.core e.g.core).ta.holder q) →
           ta.held = false))) ∧
     (e.idle 0 → ∀ n, e.a.mode = .saving n → ¬ e.crowned → ∃ g1, g1 = { e.g with heldAtSave := false } ∧
       e.Completes (exec .aexit s) (e.s.setGroup g1) g1 { e.a with mode := .saved n } 0 true) ∧
     (e.idle 0 → ∀ n, e.a.mode = .saving n → e.crowned → ∃ s1 ta g1, e.withArray (fun _ => ta) s1 ∧ g1 = { e.g with heldAtSave := true } ∧
       (∃ h b, ta = { (e.s.core e.g.core).ta with holder := h, held := b }) ∧
       e.Completes (exec .aexit s) (s1.setGroup g1) g1 { e.a with mode := .saved n } 0 true)))

/-- A trap entry of an A context: the trap registers, SAFECNT 0, APC at the `.trap` entry, the 128 bytes of the frame at TFRAME, and
nothing else; one that cannot enter a handler faults the grid (R173, R221, R224).

ARET.T in a handler whose frame can be read completes: a1 to a7, l0 to l3, p0 to p3, SAFECNT and APC are what the frame's bytes
hold, and a frame holds them as the trap entry found them; outside a handler it is ILLINST (R173, R224). A frame with a nonzero zero
field fails as one with a misaligned TPC word does: for these R6 names no trap, and the model takes that one (log 60). -/
def Obligations.AccessTraps : Prop :=
  (∀ (e : AEnv) (c : Cause) (v : DWord), let a := { e.a with held := none }; let ws := e.words
     (∀ entry p, let t := (e.s.setGroup { e.g with a := a }).translate e.g.core e.g.tenant e.g.asid e.a.tframe.toNat
       c ≠ .safeover → e.a.inHandler = false → e.a.mode.routine = false → e.g.kern.atrap = some entry →
       t.2 = .ok p → p.w = true → p.pa % 128 = 0 →
       ∃ a', (e.trap c v).group? e.g.uid = some { e.g with a := a' } ∧
         a' = { a with trap := a'.trap, safecnt := 0, inHandler := true, apc := BitVec.ofNat 32 entry, semWait := none,
                       crownWait := false } ∧
         a'.trap = { tcause := BitVec.ofNat 32 (c.code + 2 ^ 16 + 2 ^ 24 * e.op), tpc := e.a.apc, tinst := ws.1 ++ ws.2.2,
                     tinst2 := ws.2.1.setWidth 64, tmask := 0, tval := v } ∧
         (∀ uid, uid ≠ e.g.uid → (e.trap c v).group? uid = e.s.group? uid) ∧
         SameBytes t.1 (e.trap c v) (fun x => p.pa ≤ x ∧ x < p.pa + 128) ∧
         ∀ k < 128, ((e.trap c v).levelByte (.l1 e.g.core) (p.pa + k)).2.2 = ((aFrameBytes a a'.trap)[k]?).getD 0) ∧
     (c = .safeover → e.trap c v =
       (e.s.setGroup { e.g with a := a }).gridFault e.g 64 c.code 0 e.a.apc v (e.a.inHandler || e.a.mode.routine)) ∧
     (c ≠ .safeover → e.a.inHandler = true ∨ e.a.mode.routine = true ∨ e.g.kern.atrap = none →
       e.trap c v = (e.s.setGroup { e.g with a := a }).gridFault e.g 64 c.code 0 e.a.apc v true)) ∧
  ((∀ (s : State) (e : AEnv), s.aReady 0x19 none AWord.zero = some e →
     (e.a.inHandler = false → exec .aretT s = .next (e.trap .illinst 0)) ∧
     ∀ p, let t := e.base.translate e.g.core e.g.tenant e.g.asid e.a.tframe.toNat
       e.a.inHandler = true → t.2 = .ok p →
       (p.r = false → exec .aretT s = .next (e.trap .prot e.a.tframe)) ∧
       (p.r = true →
         let r := t.1.gLoadList e.g.core e.g.tenant 0 p 128
         let pc := wordAt r.2 0x50 4
         Warmed e.base r.1 ∧ r.2.length = 128 ∧
         let zeros : Prop := wordAt r.2 0x48 4 < 16 ∧ ∀ k < 20, r.2[0x6C + k]? = some 0
         (pc % 4 = 0 → zeros → e.Completes (exec .aretT s) r.1 e.g (e.a.leave r.2) 0 true) ∧
         (pc % 4 ≠ 0 ∨ ¬ zeros → exec .aretT s = .next (e.trap .align (BitVec.ofNat 64 pc))))) ∧
   ∀ (a b : ACtx) (tr : TrapRegs), let c := b.leave (aFrameBytes a tr)
     c = { b with a := c.a, l := c.l, p := a.p, apc := tr.tpc, safecnt := a.safecnt, inHandler := false } ∧
     (∀ n, c.reg n = if 1 ≤ n ∧ n ≤ 7 then a.reg n else b.reg n) ∧ ∀ n, c.loop n = if n < 4 then a.loop n else b.loop n)

/-- ALD, AST, ALDS and ASTS, in both forms, complete where their checks pass: a load writes the bytes that it reads, zero-extended,
to D and stores nothing; a store writes the low bytes of a[D] at its address and no other byte (R168, R263).

AFENCE completes, in both forms, with its release and acquire and no store (R169, R270). -/
def Obligations.AccessMemory : Prop :=
  ((∀ f ∈ ([(AForms.both .ald .aldLong, 0x20, false), (AForms.both .alds .aldsLong, 0x22, true)] : List (AForms × Nat × Bool)),
     ∀ g ∈ f.1, ∀ (p : APrefix) (i : AWord) (s : State) (e : AEnv), s.aReady f.2.1 (if g.1 then some p else none) i = some e →
       ∀ s0 pl, e.place f.2.2 .read = .ok (s0, pl) → let r := s0.placeRead e.g e.p.scope.toNat e.size pl
         Warmed e.base r.1 ∧
         e.Completes (exec (g.2 p i) s) (e.post r.1 e.p.sem e.p.scope.toNat) e.g (e.a.setReg i.d.toNat (BitVec.ofNat 64 r.2))
           (BitVec.ofNat 32 r.2) false) ∧
   (∀ f ∈ ([(AForms.both .ast .astLong, 0x21, false), (AForms.both .asts .astsLong, 0x23, true)] : List (AForms × Nat × Bool)),
     ∀ g ∈ f.1, ∀ (p : APrefix) (i : AWord) (s : State) (e : AEnv), s.aReady f.2.1 (if g.1 then some p else none) i = some e →
       ∀ s0 pl, e.place f.2.2 .write = .ok (s0, pl) →
         ∃ s1 g1, e.Completes (exec (g.2 p i) s) s1 g1 e.a 0 false ∧ s1.group? e.g.uid = some g1 ∧
           (match pl with
            | .glob q =>
              StoredOnly (e.pre s0 e.p.sem e.p.scope.toNat) s1 (fun a => q.pa ≤ a ∧ a < q.pa + e.size) (fun _ _ => False) ∧
              (∀ k < e.size, (s1.levelByte (.l1 e.g.core) (q.pa + k)).2.2 = (e.a.reg i.d.toNat).extractLsb' (8 * k) 8) ∧
              g1.side = (if q.kind = 2 then min 0xFFFF (e.g.side + 1) else e.g.side)
            | .pad uid b =>
              StoredOnly (e.pre s0 e.p.sem e.p.scope.toNat) s1 (fun _ => False) (fun u a => u = uid ∧ b ≤ a ∧ a < b + e.size) ∧
              (∀ k < e.size, s1.spByte g1 (b + k) = (e.a.reg i.d.toNat).extractLsb' (8 * k) 8) ∧ g1.side = e.g.side
            | .away => True))) ∧
  (∀ f ∈ AForms.both .afence .afenceLong, ∀ (p : APrefix) (i : AWord) (s : State) (e : AEnv),
     s.aReady 0x1A (if f.1 then some p else none) i = some e →
       let sc := i.s2.toNat % 8
       let s0 := if bit i.s2 4 then e.base.release e.g.tenant e.g.core sc else e.base
       let s1 := if bit i.s2 3 then s0.acquire e.g.core sc else s0
       Warmed e.base s1 ∧ e.Completes (exec (f.2 p i) s) s1 e.g e.a 0 false)

/-- Where an A access goes and what stops it: the address is a[S1] plus the offset of the form; a misaligned one raises ALIGN, a
scratchpad one outside the group's space and a global one without the page's permission PROT, with the address; an untranslated
one parks the context and queues the fault (R168, R221, R384). -/
def Obligations.AccessAddresses : Prop :=
  ∀ f ∈ ([(AForms.both .ald .aldLong, 0x20, false, .read), (AForms.both .alds .aldsLong, 0x22, true, .read),
      (AForms.both .ast .astLong, 0x21, false, .write), (AForms.both .asts .astsLong, 0x23, true, .write)] :
        List (AForms × Nat × Bool × Need)),
    ∀ g ∈ f.1, ∀ (p : APrefix) (i : AWord) (s : State) (e : AEnv), s.aReady f.2.1 (if g.1 then some p else none) i = some e →
      let n : Nat := 2 ^ (i.s2.toNat / 256)
      let off : DWord := if e.p.iuse = 1 then e.p.imm32.signExtend 64
        else if bit i.s2 7 then BitVec.ofNat 64 ((e.a.reg (i.s2.toNat % 32)).toNat * 2 ^ (i.s2.toNat / 32 % 4))
        else BitVec.ofInt 64 ((i.s2.setWidth 7).toInt * (n : Int))
      let x := e.a.reg i.s1.toNat + off
      let go : State → Prop := fun t => exec (g.2 p i) s = .next t
      (x.toNat % n ≠ 0 → go (e.trap .align x)) ∧
      (x.toNat % n = 0 → f.2.2.1 = true →
        (e.g.spPlace x.toNat n = none → go (e.trap .prot x)) ∧
        (e.g.spPlace x.toNat n ≠ none → e.place true f.2.2.2 = .ok (e.base, .pad e.g.uid x.toNat))) ∧
      (x.toNat % n = 0 → f.2.2.1 = false →
        (2 ^ 52 ≤ x.toNat → go (e.trap .prot x)) ∧
        (x.toNat < 2 ^ 52 → let t := e.base.translate e.g.core e.g.tenant e.g.asid x.toNat
          (∀ k, t.2 = .error k → ∃ u, go u ∧ u.group? e.g.uid = some { e.g with a := { e.a with
              held := if e.i.popq = 0 then none else some e.q, parked := some (Park.mk e.g.asid x.toNat k 3) } } ∧
            u.FaultWaits e.g x.toNat) ∧
          (∀ q, t.2 = .ok q → (q.allows f.2.2.2 = true → e.place false f.2.2.2 = .ok (t.1, .glob q)) ∧
            (q.allows f.2.2.2 = false → go (e.trap .prot x)))))

/-- SEMADD, SEMSET and SEMWAIT of an A context, in both forms (R423 to R426). -/
def Obligations.AccessSemaphores : Prop :=
  (∀ f ∈ ([(AForms.both .semaddA .semaddALong, 0x27, semSum), (AForms.both .semsetA .semsetALong, 0x28, fun _ b => b)] :
      List (AForms × Nat × (Word → Word → Word))),
    ∀ g ∈ f.1, ∀ (p : APrefix) (i : AWord) (s : State) (e : AEnv), s.aReady f.2.1 (if g.1 then some p else none) i = some e →
      let k := i.s2.toNat % 64; let s0 := e.pre e.base e.p.sem e.p.scope.toNat; let old := s0.sem e.g.core k
      (owns e.g.tenant k → ∃ s1 g1, SemTaken s0 s1 (some e.g.uid) e.g.core k (f.2.2 old (e.s1.setWidth 32)) ∧
        s1.group? e.g.uid = some g1 ∧
        e.Completes (exec (g.2 p i) s) s1 g1 (e.a.setReg i.d.toNat (old.setWidth 64)) old false) ∧
      (¬ owns e.g.tenant k → exec (g.2 p i) s = .next (e.trap .prot (BitVec.ofNat 64 k)))) ∧
  (∀ g ∈ AForms.both .semwaitA .semwaitALong, ∀ (p : APrefix) (i : AWord) (s : State) (e : AEnv),
    s.aReady 0x29 (if g.1 then some p else none) i = some e →
      let k := i.s2.toNat % 64; let b : Word := e.s1.setWidth 32; let v := e.s.sem e.g.core k
      (owns e.g.tenant k →
        (∀ w, (e.a.semWait = none ∧ b.toNat ≤ v.toNat ∧ w = v ∨ ∃ x, e.a.semWait = some x ∧ x.hit = some w) →
          e.Completes (exec (g.2 p i) s) (e.post e.base e.p.sem e.p.scope.toNat) e.g
            ({ e.a with semWait := none }.setReg i.d.toNat (w.setWidth 64)) w false) ∧
        (∀ x, e.a.semWait = some x → x.hit = none → exec (g.2 p i) s = .next (s.waitsWith e.g.uid e.a)) ∧
        (e.a.semWait = none → v.toNat < b.toNat →
          exec (g.2 p i) s = .next (s.waitsWith e.g.uid { e.a with semWait := some { idx := k, thresh := b, hit := none } }))) ∧
      (¬ owns e.g.tenant k → exec (g.2 p i) s = .next (e.trap .prot (BitVec.ofNat 64 k))))

/-- CPY, CPYX, CPYLV, KVAPP and CPYW, in both forms, with room in their channel and for their group: a command whose checks pass
enters its channel with the group's next number, its descriptor as read, the scope of the prefix and its completion operand;
the first failing check raises its trap, its value one of the addresses that fail it (which, log 11); without room they wait (R277,
R278, R281, R291). -/
def Obligations.CopyCommands : Prop :=
  let entered (e : AEnv) (o : Host.Outcome State Fault Refusal) (kind : Nat) (d : BitVec 512) : Prop :=
    let ch := e.i.s2.toNat % 4
    let sem := if bit e.i.s2 3 then some (e.i.s2.toNat / 16) else none
    ((∀ k, sem = some k → owns e.g.tenant k) → ∃ s1 g1, g1 = { e.g with ceSeq := (e.g.ceSeq + 1) % 65536 } ∧
      s1 = { e.s with cores := s1.cores, groups := s1.groups } ∧ s1.group? e.g.uid = some g1 ∧
      (∀ uid, uid ≠ e.g.uid → s1.group? uid = e.s.group? uid) ∧
      (∀ c, s1.core c = { e.s.core c with chans := (s1.core c).chans }) ∧
      (∀ c n, s1.chan c n = if c = e.g.core ∧ n = ch then e.s.chan c n ++
          [{ uid := e.g.uid, seq := e.g.ceSeq, kind := kind, scope := e.p.scope.toNat, sem := sem, tok := bit e.i.s2 2,
             desc := d, st := .queued, next := 0, park := none, old := [], puts := [] }] else e.s.chan c n) ∧
      e.Completes o s1 g1 e.a 0 false) ∧
    (∀ k, sem = some k → ¬ owns e.g.tenant k → o = .next (e.trap .prot (BitVec.ofNat 64 k)))
  let among (e : AEnv) (c : Cause) (a : Nat) : State :=
    AEnv.trap { e with s := { e.base with ctl := { e.base.ctl with fresh := e.base.ctl.fresh + 1 } } } c (BitVec.ofNat 64 a)
  let room (e : AEnv) : Prop :=
    (e.s.chan e.g.core (e.i.s2.toNat % 4)).length < 16 ∧
    ((e.s.core e.g.core).chans.map fun p => (p.2.filter fun x => x.uid == e.g.uid).length).sum + e.g.queues.t7.length < 16
  (∀ f ∈ ([(AForms.both .cpy .cpyLong, 0x30, 0, cpyFields false), (AForms.both .cpyx .cpyxLong, 0x31, 1, cpyFields true),
      (AForms.both .cpylv .cpylvLong, 0x32, 2, lvFields), (AForms.both .kvapp .kvappLong, 0x33, 3, kvFields)] :
        List (AForms × Nat × Nat × (BitVec 512 → Option Nat))),
    ∀ g ∈ f.1, ∀ (p : APrefix) (i : AWord) (s : State) (e : AEnv), s.aReady f.2.1 (if g.1 then some p else none) i = some e →
      let kind := f.2.2.1
      let x := e.a.reg i.s1.toNat
      let d := BitVec.ofNat 512 (e.s.spNat e.g x.toNat 64)
      let o := exec (g.2 p i) s
      (¬ room e → o = .next (s.waitsWith e.g.uid e.a)) ∧
      (room e →
        (x.toNat % 64 ≠ 0 → o = .next (e.trap .align x)) ∧
        (x.toNat % 64 = 0 → e.g.spPlace x.toNat 64 = none → o = .next (e.trap .prot x)) ∧
        (x.toNat % 64 = 0 → e.g.spPlace x.toNat 64 ≠ none →
          (∀ b, f.2.2.2 d = some b → o = .next (e.trap .tafmt (BitVec.ofNat 64 (0x200 + b)))) ∧
          (f.2.2.2 d = none → offBad kind d ≠ [] → ∃ a ∈ offBad kind d, o = .next (among e .descalign a)) ∧
          (f.2.2.2 d = none → offBad kind d = [] →
            (∀ a, alignBad kind d = some (some a) → o = .next (e.trap .align (BitVec.ofNat 64 a))) ∧
            (alignBad kind d = some none → ∃ a, o = .next (among e .align a)) ∧
            (alignBad kind d = none → let bad := (padRanges kind d).filterMap e.g.outside ++ (globalStarts kind d).filter fun a => 2 ^ 52 ≤ a
              (bad ≠ [] → ∃ a ∈ bad, o = .next (among e .prot a)) ∧ (bad = [] → entered e o kind d)))))) ∧
  (∀ g ∈ AForms.both .cpyw .cpywLong, ∀ (p : APrefix) (i : AWord) (s : State) (e : AEnv),
    s.aReady 0x34 (if g.1 then some p else none) i = some e →
      let x := e.a.reg i.s1.toNat
      let o := exec (g.2 p i) s
      (¬ room e → o = .next (s.waitsWith e.g.uid e.a)) ∧
      (room e →
        (x.toNat % 8 ≠ 0 → o = .next (e.trap .align x)) ∧
        (x.toNat % 8 = 0 → 2 ^ 52 ≤ x.toNat → o = .next (e.trap .prot x)) ∧
        (x.toNat % 8 = 0 → x.toNat < 2 ^ 52 → entered e o 4 ((0 : BitVec 384) ++ e.a.reg i.d.toNat ++ x))))

/-- The issue of tile commands: FMTQ adds its word to the format queue or waits for room; TA.RUN and TA.ZERO wait for a place, and
then raise PROT, NOCROWN and FMTUNDER in that order; TA.RUN's own checks come in the order of R186, the last two ALIGN with one of the
misaligned ones of SBASE, MBASE and RBASE, and PROT with the first byte outside of one of the ranges that it can read (which, log 11); an accepted command takes its format word and its number, and a place at
the end of the array's queue, and opens an epoch where none is open or where it is TA.ZERO (R176, R179, R185 to R187). -/
def Obligations.TileCommands : Prop :=
  (∀ g ∈ AForms.both .fmtq .fmtqLong, ∀ (p : APrefix) (i : AWord) (s : State) (e : AEnv),
    s.aReady 0x35 (if g.1 then some p else none) i = some e →
      (e.g.queues.fmt.length < 8 → ∃ g1, g1 = { e.g with queues := { e.g.queues with fmt := e.g.queues.fmt ++ [e.s1.setWidth 32] } } ∧
        e.Completes (exec (g.2 p i) s) (e.s.setGroup g1) g1 e.a 0 false) ∧
      (8 ≤ e.g.queues.fmt.length → exec (g.2 p i) s = .next (s.waitsWith e.g.uid e.a))) ∧
  (∀ f ∈ ([(AForms.both .taRun .taRunLong, 0x36, false), (AForms.short .taZero, 0x37, true)] : List (AForms × Nat × Bool)),
    ∀ g ∈ f.1, ∀ (p : APrefix) (i : AWord) (s : State) (e : AEnv), s.aReady f.2.1 (if g.1 then some p else none) i = some e →
      let o := exec (g.2 p i) s
      let among (c : Cause) (a : Nat) : State :=
        AEnv.trap { e with s := { e.base with ctl := { e.base.ctl with fresh := e.base.ctl.fresh + 1 } } } c (BitVec.ofNat 64 a)
      let ta := (e.s.core e.g.core).ta
      let room : Prop := ta.queue.length < 16 ∧ (ta.queue.filter fun x => x.uid == e.g.uid).length + e.g.queues.t6.length < 8
      let block := BitVec.ofNat 512 (e.s.spNat e.g e.s1.toNat 64)
      let accepted (w : Word) (b : BitVec 512) : Prop := ∃ s1 g1,
        g1 = { e.g with taSeq := (e.g.taSeq + 1) % 65536, queues := { e.g.queues with fmt := e.g.queues.fmt.tail } } ∧
        s1 = { e.s with cores := s1.cores, groups := s1.groups } ∧ s1.group? e.g.uid = some g1 ∧
        (∀ uid, uid ≠ e.g.uid → s1.group? uid = e.s.group? uid) ∧
        (∀ c, s1.core c = if c = e.g.core then { e.s.core c with ta := { ta with
            queue := ta.queue ++ [{ uid := e.g.uid, seq := e.g.taSeq, zero := f.2.2, fmt := w, block := b, smem := e.g.smem, win := ta.visible, st := .queued }],
            epset := true, eprs := if f.2.2 = true ∨ ta.epset = false then bit w 16 else ta.eprs } } else e.s.core c) ∧
        e.Completes o s1 g1 e.a 0 false
      (¬ room → o = .next (s.waitsWith e.g.uid e.a)) ∧
      (room → e.g.ring = none → o = .next (e.trap .prot 0)) ∧
      (room → e.g.ring ≠ none → ¬ e.crowned → o = .next (e.trap .nocrown 0)) ∧
      (room → e.crowned → e.g.queues.fmt = [] → o = .next (e.trap .fmtunder 0)) ∧
      (room → e.crowned → ∀ w l, e.g.queues.fmt = w :: l →
        (f.2.2 = true →
          (fmtReserved w = none → accepted w 0) ∧ (∀ b, fmtReserved w = some b → o = .next (e.trap .tafmt (BitVec.ofNat 64 b)))) ∧
        (f.2.2 = false →
          (e.s1.toNat % 64 ≠ 0 → o = .next (e.trap .align e.s1)) ∧
          (e.s1.toNat % 64 = 0 → e.g.spPlace e.s1.toNat 64 = none → o = .next (e.trap .prot e.s1)) ∧
          (e.s1.toNat % 64 = 0 → e.g.spPlace e.s1.toNat 64 ≠ none →
            (∀ b, fmtReserved w = some b → o = .next (e.trap .tafmt (BitVec.ofNat 64 b))) ∧
            (fmtReserved w = none → ta.epset = true → bit w 16 ≠ ta.eprs → o = .next (e.trap .tafmt 16)) ∧
            (fmtReserved w = none → (ta.epset = true → bit w 16 = ta.eprs) →
              (∀ b, blkBad w block = some b → o = .next (e.trap .tafmt (BitVec.ofNat 64 (0x100 + b)))) ∧
              (blkBad w block = none → blkWBase block % 5 ≠ 0 → o = .next (e.trap .descalign (BitVec.ofNat 64 (blkWBase block)))) ∧
              (blkBad w block = none → blkWBase block % 5 = 0 →
                let bad (a : Nat) : Prop := a = blkSBase block ∧ a % 2 ≠ 0 ∨ bitsOf w.toNat 7 6 = 1 ∧ a = blkMBase block ∧ a % 4 ≠ 0 ∨
                  bit w 16 = true ∧ a = blkRBase block ∧ a % 4 ≠ 0
                ((∃ a, bad a) → ∃ a, bad a ∧ o = .next (among .align a)) ∧
                ((∀ a, ¬ bad a) →
                  ((∃ r ∈ runRanges w block, e.g.outside r ≠ none) →
                    ∃ r ∈ runRanges w block, ∃ a, e.g.outside r = some a ∧ o = .next (among .prot a)) ∧
                  ((∀ r ∈ runRanges w block, e.g.outside r = none) → accepted w block))))))))

/-- CROWN.TAKE, CROWN.PASS and TA.SWAP: who may, who waits, who receives the crown; a swap of an unmarked quiescent bank exchanges
the banks, applies the row scales where the epoch has them and closes it; over a marked one it raises TAFAULT and leaves the banks,
and where the pending fault is its group's that clears FPEND and ERR in that token (R188, R191, R195). That TVAL is TASTAT after FPEND is cleared is the model's
reading (log 27). -/
def Obligations.CrownAndSwap : Prop :=
  (∀ (i : AWord) (s : State) (e : AEnv), s.aReady 0x3A none i = some e → let ta := (e.s.core e.g.core).ta
    (e.g.ring = none → exec (.crownTake i) s = .next (e.trap .prot 0)) ∧
    (e.crowned → e.Completes (exec (.crownTake i) s) e.s e.g { e.a with crownWait := false } 0 false) ∧
    (ta.held = true → e.g.ring ≠ none → ¬ e.crowned → exec (.crownTake i) s = .next (s.waitsWith e.g.uid { e.a with crownWait := true })) ∧
    (∀ q, ta.held = false → e.g.ring = some q → ∃ s1, e.withArray (fun t => { t with held := true, holder := q }) s1 ∧
      e.Completes (exec (.crownTake i) s) s1 e.g { e.a with crownWait := false } 0 false)) ∧
  (∀ (i : AWord) (s : State) (e : AEnv), s.aReady 0x3B none i = some e →
    let ta := (e.s.core e.g.core).ta
    let o := exec (.crownPass i) s
    let given (q : Nat) : Prop := ∃ s1, e.withArray (fun t => { t with holder := q }) s1 ∧ e.Completes o s1 e.g e.a 0 false
    (e.g.ring = none → o = .next (e.trap .prot 0)) ∧
    (e.g.ring ≠ none → ¬ e.crowned → o = .next (e.trap .nocrown 0)) ∧
    (e.crowned → bit i.s2 8 = true → ∀ q, successor ta.ring ta.holder q → given q) ∧
    (e.crowned → bit i.s2 8 = false → (SMap.find ta.ring (i.s2.toNat % 8)).isSome = true → given (i.s2.toNat % 8)) ∧
    (e.crowned → bit i.s2 8 = false → SMap.find ta.ring (i.s2.toNat % 8) = none → o = .next (e.trap .prot 0))) ∧
  (∀ (i : AWord) (s : State) (e : AEnv), s.aReady 0x38 none i = some e →
    let ta := (e.s.core e.g.core).ta
    let o := exec (.taSwap i) s
    (e.g.ring = none → o = .next (e.trap .prot 0)) ∧
    (e.g.ring ≠ none → ¬ e.crowned → o = .next (e.trap .nocrown 0)) ∧
    (e.crowned → ta.queue ≠ [] → o = .next (s.waitsWith e.g.uid e.a)) ∧
    (e.crowned → ta.queue = [] → ta.poison = true → ¬ (ta.fpend = true ∧ ta.fowner = e.g.uid) → o = .next (e.trap .tafault ta.status)) ∧
    (e.crowned → ta.queue = [] → ta.poison = true → ta.fpend = true → ta.fowner = e.g.uid →
      let ta' : TritArray := { ta with fpend := false }
      ∃ t6, o = .next (((e.s.setCore e.g.core { e.s.core e.g.core with ta := ta' }).setGroup
          { e.g with queues := { e.g.queues with t6 := t6 } }).aTrapOf e.g.uid e .tafault ta'.status) ∧
        (∀ l1 tok l2, e.g.queues.t6 = l1 ++ tok :: l2 → (∀ x ∈ l1, x.toNat % 2 ^ 16 ≠ ta.fseq) → tok.toNat % 2 ^ 16 = ta.fseq →
          t6 = l1 ++ (tok &&& 0x7FFFFFFF) :: l2) ∧
        ((∀ x ∈ e.g.queues.t6, x.toNat % 2 ^ 16 ≠ ta.fseq) → t6 = e.g.queues.t6)) ∧
    (e.crowned → ta.queue = [] → ta.poison = false → ∃ s1 v, e.Completes o s1 e.g e.a 0 false ∧
      e.withArray (fun t => { t with working := t.visible, visible := v, epset := false, rowsc := [] }) s1 ∧
      ∀ m < 128, ∀ n < 128, SMap.get 0 v (128 * m + n) =
        if ta.eprs then f32r .rne ((f32v (SMap.get 0 ta.working (128 * m + n))).mul (f32v (SMap.get 0x3F800000 ta.rowsc m)))
        else SMap.get 0 ta.working (128 * m + n)))

/-! ### The Scan Synthesis Processor -/

/-- The S operations that write z or e, and the branches, complete with what R208 gives them; SNOP changes nothing, and POSE.W
writes its pose word (R201, R208).

The V operations complete with the lane results of R210, in the lanes of their mask alone (R205); VCMP writes the bits of e[D];
VNOP changes nothing. -/
def Obligations.SlotOperations : Prop :=
  ((∀ r ∈ scalarRows, r.Gives) ∧
   ∀ (s : State) (e : LEnv), s.lEnv = some e →
     e.only (exec .snop s) e.lc ∧
     ∀ i : SSlot, ∃ c : LineCore, e.only (exec (.poseW i) s) c ∧ c = { e.lc with pose := c.pose } ∧
       ∀ k, SMap.get 0 c.pose k = if k = i.b.toNat % 8 then e.zr i.a.toNat else SMap.get 0 e.lc.pose k) ∧
  ((∀ r ∈ vectorRows, r.Gives) ∧
   ∀ (s : State) (e : LEnv), s.lEnv = some e →
     e.only (exec .vnop s) e.lc ∧
     ∀ i : VSlot,
       let cond (l : Nat) : Bool :=
         let a := e.wr i.a.toNat l
         let b := e.wr i.b.toNat l
         if i.ty = 0 then (if 6 ≤ i.sub.toNat then (f32v a).isNan || (f32v b).isNan
           else byCode i.sub.toNat ((f32v a).eq (f32v b)) ((f32v a).lt (f32v b)) ((f32v b).lt (f32v a)))
         else byCode i.sub.toNat (decide (a = b)) (decide (asInt (i.ty = 1) a < asInt (i.ty = 1) b))
           (decide (asInt (i.ty = 1) b < asInt (i.ty = 1) a))
       e.Wrote (exec (.vcmp i) s) e.s e.oldZ e.oldW
         (at1 e.oldE (i.d.toNat % 8) (maskOf 16 16 fun l =>
           if e.acts i.mke i.mreg l then cond l else (e.er (i.d.toNat % 8)).getLsbD l)) none)

/-- SYNCM, BANDI.NEXT and HALT wait for the line core's matrix operations that are earlier than their bundle; then SYNCM changes
nothing, and the other two end the band: complete where every pixel of it has been emitted, and a band fault UNEMIT otherwise. A
band whose outcome is settled keeps it and its pixels (R208, R209). -/
def Obligations.BandEnds : Prop :=
  ∀ (s : State) (e : LEnv), s.lEnv = some e → let h := e.s.head e.lc.head
    (¬ e.noMatrix → e.Waits (exec .syncm s) ∧ e.Waits (exec .halt s) ∧ ∀ i, e.Waits (exec (.bandiNext i) s)) ∧
    (e.noMatrix → e.only (exec .syncm s) e.lc) ∧
    ∀ (i : SSlot), ∀ q ∈ ([(.halt, .idle), (.bandiNext i, .waitNext)] : List (Instr × LineSt)), e.noMatrix →
      (e.lc.emitted.length ≠ recWidth h.record * h.bandLines e.lc.band → e.Faults (exec q.1 s) 6) ∧
      (e.lc.emitted.length = recWidth h.record * h.bandLines e.lc.band →
        ∃ t, exec q.1 s = .next t ∧ t = { e.s with lines := t.lines, heads := t.heads } ∧
          (∀ n, t.line n = if n = e.n then { e.lc with st := q.2, emitted := [] } else e.s.line n) ∧
          ∀ k, t.head k = if k = e.lc.head then { h with live := h.live.map fun b =>
              if b.frame = e.lc.frame ∧ b.band = e.lc.band then (if b.outcome.isSome then b else { b with doneAt := some h.line, pixels := e.lc.emitted }) else b }
            else e.s.head k)

/-- LBLD, LBST and GLD complete in the lanes of their mask: an address that is no multiple of 64 or lies above F_FFC0 is LBADDR
whatever the mask, an overlapping matrix operation makes them wait, and a GLD whose acting lanes name a misaligned or an
unreadable address is GFAULT; LBST changes no byte but those of its lanes (R211, R213).

EMIT gives the band the pixels of its acting lanes, those at or beyond the head's width left out, the later of two standing;
a line at or beyond the band's is EMITRNG whatever the mask; after the band's deadline the head counts a late EMIT (R214, R216,
R372).

That LBADDR and EMITRNG are checked whatever the mask, GFAULT in acting lanes alone, and that x does not wrap, is the model's reading
(log 33). -/
def Obligations.LineBufferAndEmissions : Prop :=
  (∀ (i : MSlot) (s : State) (e : LEnv), s.lEnv = some e → let a := e.bufferAt i
     (a % 64 ≠ 0 ∨ 0xFFFC0 < a → e.Faults (exec (.lbld i) s) 3 ∧ e.Faults (exec (.lbst i) s) 3) ∧
     (a % 64 = 0 → a ≤ 0xFFFC0 →
       (e.held false a → e.Waits (exec (.lbld i) s)) ∧ (e.held true a → e.Waits (exec (.lbst i) s)) ∧
       (¬ e.held false a → e.Wrote (exec (.lbld i) s) e.s e.oldZ (atW e i.d.toNat (e.acts i.mke i.mreg) fun l =>
         SMap.get 0 e.lc.lb (a + 4 * l + 3) ++ SMap.get 0 e.lc.lb (a + 4 * l + 2) ++ SMap.get 0 e.lc.lb (a + 4 * l + 1) ++
           SMap.get 0 e.lc.lb (a + 4 * l)) e.oldE none) ∧
       (¬ e.held true a → ∃ c : LineCore, e.only (exec (.lbst i) s) c ∧ c = { e.lc with lb := c.lb } ∧
         ∀ x, SMap.get 0 c.lb x = if a ≤ x ∧ x < a + 64 ∧ e.acts i.mke i.mreg ((x - a) / 4)
           then (e.wr i.d.toNat ((x - a) / 4)).extractLsb' (8 * ((x - a) % 4)) 8 else SMap.get 0 e.lc.lb x)) ∧
     (let base := (e.zr (i.a.toNat + 1) ++ e.zr i.a.toNat).toNat
      let lanes := (List.range 16).filter fun l => decide (e.acts i.mke i.mreg l)
      let addr (l : Nat) : Nat := base + (e.wr (i.sub.toNat % 64) l).toNat
      let r := e.reads e.s 4 (lanes.map addr)
      ((∃ l ∈ lanes, addr l % 4 ≠ 0) → e.Faults (exec (.gld i) s) 4) ∧
      ((∀ l ∈ lanes, addr l % 4 = 0) →
        (r.2 = none → e.Faults (exec (.gld i) s) 4) ∧
        ∀ vs, r.2 = some vs → Warmed e.s r.1 ∧ vs.length = lanes.length ∧
          e.Wrote (exec (.gld i) s) r.1 e.oldZ (atW e i.d.toNat (e.acts i.mke i.mreg) fun l =>
            BitVec.ofNat 32 ((vs[(lanes.takeWhile fun m => decide (m < l)).length]?).getD 0)) e.oldE none))) ∧
  (∀ (i : MSlot) (s : State) (e : LEnv), s.lEnv = some e →
     let h := e.s.head e.lc.head
     let y := (e.zr i.b.toNat).toNat
     let x := (e.zr i.a.toNat).toNat
     (h.bandLines e.lc.band ≤ y → e.Faults (exec (.emit i) s) 5) ∧
     (y < h.bandLines e.lc.band → ∃ t m, exec (.emit i) s = .next t ∧
       t = { e.s with lines := t.lines, heads := t.heads } ∧
       (∀ n, t.line n = if n = e.n then { e.lc with emitted := m } else e.s.line n) ∧
       (∀ l < 16, e.acts i.mke i.mreg l → x + l < recWidth h.record →
         SMap.find m (8192 * y + x + l) = some ((e.wr (i.d.toNat + 1) l).setWidth 16 ++ e.wr i.d.toNat l)) ∧
       (∀ k, (∀ l < 16, e.acts i.mke i.mreg l → x + l < recWidth h.record → k ≠ 8192 * y + x + l) →
         SMap.find m k = SMap.find e.lc.emitted k) ∧
       ∀ n, t.head n = if n = e.lc.head ∧ h.pointD e.lc.frame e.lc.band ≤ h.line
         then { h with counters := SMap.set 0 h.counters 4 (SMap.get 0 h.counters 4 + 1) } else e.s.head n))

/-- WSAMP and DSAMP complete with the blends and extremes of R212 over the texels of their footprints, qnan where a coordinate is a
NaN; they store nothing; a texel that cannot be read is GFAULT (R212, R216). -/
def Obligations.RenderSamples : Prop :=
  ∀ (i : MSlot) (s : State) (e : LEnv), s.lEnv = some e →
    let c := i.sub.toNat % 64
    let u (l : Nat) : Word := e.wr c l
    let v (l : Nat) : Word := e.wr (c + 1) l
    let nan (l : Nat) : Bool := (f32v (u l)).isNan || (f32v (v l)).isNan
    let wide := e.rs.w
    let high := e.rs.h
    (let motion := bit i.sub 6
     let r := e.lanes (if motion then 1 else 0) fun l => if nan l then [] else footIdx (u l) (v l) wide high
     (r.2 = none → e.Faults (exec (.wsamp i) s) 4) ∧
     ∀ ts, r.2 = some ts →
       let t (l k n : Nat) : Word := f32r .rne (fp16.decode ((((ts[l]?).getD [])[n]?).getD 0 / 2 ^ (16 * k) % 2 ^ 16))
       let fx (l : Nat) : Rat := (footAxis (u l) wide).2
       let fy (l : Nat) : Rat := (footAxis (v l) high).2
       let chan (l k : Nat) : Word := if nan l then 0x7FC00000 else
         lerpExact (lerpExact (t l k 0) (t l k 1) (fx l)) (lerpExact (t l k 2) (t l k 3) (fx l)) (fy l)
       let half (x : Word) : BitVec 16 := BitVec.ofNat 16 (fp16.round .rne false (f32v x))
       Warmed e.s r.1 ∧
       e.Wrote (exec (.wsamp i) s) r.1 e.oldZ (fun w l =>
         if w = i.d.toNat + 1 then (if motion then chan l 1 else half (chan l 3) ++ half (chan l 2))
         else if w = i.d.toNat then (if motion then chan l 0 else half (chan l 1) ++ half (chan l 0))
         else e.oldW w l) e.oldE none) ∧
    (let mode := i.b.toNat % 4
     let near (x : Word) (n : Nat) : Nat := (clampInt 0 ((n : Int) - 1) (floorWord (satWord x (intWord (-1)) (intWord n)))).toNat
     let r := e.lanes 2 fun l => if nan l then [] else if mode = 0 then [(near (u l) wide, near (v l) high)]
       else footIdx (u l) (v l) wide high
     (r.2 = none → e.Faults (exec (.dsamp i) s) 4) ∧
     ∀ ts, r.2 = some ts →
       let t (l n : Nat) : Word := BitVec.ofNat 32 ((((ts[l]?).getD [])[n]?).getD 0)
       let two (a b : Word) : Word := fminmax (mode == 2) false a b
       Warmed e.s r.1 ∧
       e.Wrote (exec (.dsamp i) s) r.1 e.oldZ (fun w l =>
         if w = i.d.toNat then
           (if nan l then 0x7FC00000 else if mode = 0 then canonNan (t l 0) else two (two (two (t l 0) (t l 1)) (t l 2)) (t l 3))
         else e.oldW w l) e.oldE none)

/-- MXLD, MXRUN and MXST hand their operation to the line core's engine, after their checks (LBADDR, MXRANGE).

MATRIX_OPERATION_COMPLETE completes wherever its engine has an operation: it performs
the oldest of its line cores: a tile of exact values, the dot products of R61, or the tile written, rounded and clipped
as its flags say, and no other byte of the line buffer; the operation leaves its queue (R196, R213). -/
def Obligations.MatrixEngine : Prop :=
  (∀ (i : MSlot) (s : State) (e : LEnv), s.lEnv = some e → let a := (e.zr i.a.toNat).toNat; let fl := i.sub.toNat
    let handed (o : Host.Outcome State Fault Refusal) (kind : Nat) : Prop :=
      o = .next { e.s with mx := e.s.mx ++ [{ line := e.n, kind := kind, addr := a, flags := fl }] }
    (∀ p ∈ ([(.mxld i, 0), (.mxst i, 2)] : List (Instr × Nat)),
      (a % 64 = 0 ∧ a + tileBytes p.2 fl ≤ 0x100000 → handed (exec p.1 s) p.2) ∧
      (¬ (a % 64 = 0 ∧ a + tileBytes p.2 fl ≤ 0x100000) → e.Faults (exec p.1 s) 3)) ∧
    (1 ≤ a ∧ a ≤ 64 → handed (exec (.mxrun i) s) 1) ∧ (¬ (1 ≤ a ∧ a ≤ 64) → e.Faults (exec (.mxrun i) s) 7)) ∧
  ∀ (s : State) (x : MxOp), s.mx.find? (fun y => y.line / 8 == s.ctl.arg.ch) = some x →
    let c := s.line x.line
    let f0 := decide (x.flags % 2 = 1)
    let f1 := decide (x.flags / 2 % 2 = 1)
    ∃ t d, exec .matrixOperationComplete s = .next t ∧ t = { s with mx := s.mx.erase x, lines := t.lines } ∧
      (∀ n, t.line n = if n = x.line then d else s.line n) ∧
      (x.kind = 0 → d = { c with mxX := d.mxX, mxW := d.mxW } ∧ (if f0 then d.mxX = c.mxX else d.mxW = c.mxW) ∧
        ∀ k < 4096, SMap.get 0 (if f0 then d.mxW else d.mxX) k =
          f32r .rne (if f1 then e4m3.decode (SMap.get 0 c.lb (x.addr + k)).toNat
            else bf16.decode ((SMap.get 0 c.lb (x.addr + 2 * k)).toNat + 256 * (SMap.get 0 c.lb (x.addr + 2 * k + 1)).toNat))) ∧
      (x.kind = 1 → d = { c with mxO := d.mxO } ∧ ∀ p < 64, ∀ n < 64, SMap.get 0 d.mxO (64 * p + n) =
        dotRound .rne ((List.range x.addr).map fun k => (f32v (SMap.get 0 c.mxX (64 * p + k)), f32v (SMap.get 0 c.mxW (64 * k + n))))
          (if f0 then SMap.get 0 c.mxO (64 * p + n) else 0)) ∧
      (x.kind = 2 → d = { c with lb := d.lb } ∧
        let v (j : Nat) : Word := let o := SMap.get 0 c.mxO j
          if f1 then (if (f32v o).isNan then 0x7FC00000 else if o.msb then 0 else o) else o
        (∀ j < 4096, f0 = true → SMap.get 0 d.lb (x.addr + 2 * j + 1) ++ SMap.get 0 d.lb (x.addr + 2 * j) =
          BitVec.ofNat 16 (bf16.round .rne false (f32v (v j)))) ∧
        (∀ j < 4096, f0 = false → SMap.get 0 d.lb (x.addr + 4 * j + 3) ++ SMap.get 0 d.lb (x.addr + 4 * j + 2) ++
          SMap.get 0 d.lb (x.addr + 4 * j + 1) ++ SMap.get 0 d.lb (x.addr + 4 * j) = v j) ∧
        ∀ b, ¬ (x.addr ≤ b ∧ b < x.addr + tileBytes 2 x.flags) → SMap.get 0 d.lb b = SMap.get 0 c.lb b)

/-! ### Queue programs -/

/-- The instructions of a queue program that move and compute, compare, jump and loop complete with the effects of R345; a 257th
instruction fails the packet with BUDGET.

LDM reads a window's word at .dev or fails with BOUNDS or PROT; CHKRES stages the checked addresses or fails with NOTRES; FAIL
posts a KIND 2 event with its code; DONE issues the commands that a packet without a launch has staged, after the packets issued
before it, a NOP being complete at once where ORDER does not hold it, and the shares of launches are positive and add up to their packet's weight (R340, R343, R345, R348, R356).

The model's readings that this rests on: a JF counts from its own index, and the ROM program's NOP has type 0 (log 39); what CHKRES stages, and its
failure where an address has no translation (log 40); the fields a packet's type allows, and its weight (log 41). -/
def Obligations.QueuePrograms : Prop :=
  ((∀ q ∈ byteRows, q.Gives) ∧
   (∀ (i : QWord) (s : State) (r : QRun), s.qReady = some r → let x := r.reg i.r.toNat
     let y : Word := if bit i.x 7 then BitVec.ofNat 32 (i.x.toNat % 64) else r.reg (i.x.toNat % 8)
     s.goesOn (exec (.cmpb i) s) { r with flag := if bit i.x 6 then decide (x.toNat < y.toNat) else decide (x = y) } ∧
     s.goesOn (exec (.jf i) s) (if r.flag then { r with pc := r.pc - 1 + i.x.toNat } else r) ∧
     s.goesOn (exec (.jfc i) s) (if r.flag then r else { r with pc := r.pc - 1 + i.x.toNat }) ∧
     (∃ r', s.goesOn (exec (.loopb i) s) r' ∧
       r' = { r with b := r'.b, loops := { reg := i.r.toNat, count := i.x.toNat + 1, i := 0, start := r.pc - 1 } :: r.loops } ∧
       ∀ n, r'.reg n = if n = i.r.toNat then 0 else r.reg n) ∧
     (∀ l ls, r.loops = l :: ls →
       (l.count ≤ l.i + 1 → s.goesOn (exec .endb s) { r with loops := ls }) ∧
       (l.i + 1 < l.count → ∃ r', s.goesOn (exec .endb s) r' ∧
         r' = { r with b := r'.b, loops := { l with i := l.i + 1 } :: ls, pc := l.start + 1 } ∧
         ∀ n, r'.reg n = if n = l.reg then BitVec.ofNat 32 (l.i + 1) else r.reg n)) ∧
     (r.cmds.length < 16 → s.goesOn (exec (.emitC i) s)
       { r with cmds := r.cmds ++ [(i.x.toNat % 16, [r.reg 0, r.reg 1, r.reg 2, r.reg 3, r.reg 4, r.reg 5, r.reg 6, r.reg 7], r.staged)] }) ∧
     (∀ slot ks, r.staged = some (slot, ks) → ∃ ks', s.goesOn (exec (.reloc i) s) { r with staged := some (slot, ks') } ∧
       ks'.length = ks.length ∧
       ∀ n, (ks'[n]?) = if n = i.x.toNat % 16 then (ks[n]?).map fun k => k + (r.reg i.r.toNat).signExtend 64 else ks[n]?)) ∧
   ∀ (s : State) (r : QRun), s.ctl.cur = .qi → s.qi.run = some r → 256 ≤ r.count → ∀ i : QWord,
     ∀ x ∈ ([.ldp i, .ldm i, .movb i, .addb i, .subb i, .andb i, .orb i, .shlb i, .shrb i, .cmpb i, .jf i, .jfc i, .loopb i,
       .endb, .chkres i, .reloc i, .emitC i, .done, .fail i] : List Instr), exec x s = .next (s.failRun r .budget 0)) ∧
  ((∀ (i : QWord) (s : State) (r0 r : QRun), s.qi.run = some r0 → s.qReady = some r →
     (let off := (r.reg (i.x.toNat % 8)).toNat
      let win := r.prog.bind fun p => p.windows[i.x.toNat / 64]?
      (win = none ∨ off % 4 ≠ 0 ∨ (∃ w, win = some w ∧ w.2 < off + 4) → exec (.ldm i) s = .next (s.failRun r0 .bounds 0)) ∧
      ∀ w, win = some w → off % 4 = 0 → off + 4 ≤ w.2 →
        let v := s.vaNat (r.queue / 64) (s.abase (r.queue / 64)) (w.1 + off) 4 .read
        (v.2 = none → exec (.ldm i) s = .next (v.1.failRun r0 .prot 0)) ∧
        ∀ x, v.2 = some x → Warmed s v.1 ∧ ∃ r', v.1.goesOn (exec (.ldm i) s) r' ∧ r' = { r with b := r'.b } ∧
          ∀ n, r'.reg n = if n = i.r.toNat then BitVec.ofNat 32 x else r.reg n) ∧
     (let k := s.chkres (r.queue / 64) ((r.reg i.r.toNat).toNat % 256) (pkWord r.packet 4 + 2 ^ 32 * pkWord r.packet 5)
        (pkWord r.packet 10 + 2 ^ 32 * pkWord r.packet 11) (min 16 (pkWord r.packet 0 / 2 ^ 24 % 32)) r.record
      Warmed s k.1 ∧
      (∀ ks lr, k.2 = .ok (ks, lr) → k.1.goesOn (exec (.chkres i) s) { r with
        staged := some ((r.reg i.r.toNat).toNat % 256, ks), record := some (pkWord r.packet 4 + 2 ^ 32 * pkWord r.packet 5, lr) }) ∧
      (∀ st, k.2 = .error st → (st = .notres ∨ st = .prot) ∧ exec (.chkres i) s = .next (k.1.failRun r0 st 0))) ∧
     (pkWord r0.packet 14 = 0 → (∀ c ∈ r0.cmds, c.1 ≠ 1 ∧ c.1 ≠ 2) → (r0.prog = none → pkWord r0.packet 0 % 256 ≠ 1 ∧ pkWord r0.packet 0 % 256 ≠ 2) →
       exec (.fail i) s = .next ({ s with qi := { s.qi with run := none } }.post (r0.queue / 64)
         (eventOf 2 7 r0.queue (BitVec.ofNat 32 (pkWord r0.packet 1)) r0.index (BitVec.ofNat 32 i.x.toNat :: List.replicate 11 0)))) ∧
     (let p := r.packet
      let cs : List (Nat × Command) := (if r.cmds = [] then [(0, [], none)] else r.cmds).map fun x =>
        (x.1, { id := s.qi.nextId, queue := r.queue, index := r.index, tag := BitVec.ofNat 32 (pkWord p 1), aux := BitVec.ofNat 16 (pkWord p 0 / 2 ^ 16),
                dep := BitVec.ofNat 32 (pkWord p 2), thresh := BitVec.ofNat 32 (pkWord p 3), weight := 0, parent := 0,
                body := x.2.1, staged := x.2.2.or r.staged })
      (∀ c ∈ r.cmds, c.1 ≠ 1 ∧ c.1 ≠ 2) → pkWord p 2 / 2 ^ 16 % 8 = 0 → pkWeight p = 0 → pkWord p 14 = 0 →
        let t := s.takeCmds 0 r.record cs 0
        (∀ is, t.2 = .ok is →
          let fl := pkWord p 0 / 256 % 256
          let e : Issued :=
            { id := s.qi.nextId, cause := r.cause, queue := r.queue, index := r.index, tag := BitVec.ofNat 32 (pkWord p 1), flags := fl,
              cmds := if fl / 2 % 2 = 1 then is else is.map fun c => if c.ty = 0 then { c with st := 2 } else c,
              failed := none, killed := false }
          let u (l : List Issued) : State := { t.1 with qi := { t.1.qi with run := none, nextId := s.qi.nextId + 1, issued := l } }
          ((∃ c ∈ e.cmds, c.st ≠ 2) → exec .done s = .next (u (t.1.qi.issued ++ [e]))) ∧
          ((∀ c ∈ e.cmds, c.st = 2) → (∀ x ∈ t.1.qi.issued, x.id ≠ e.id) → exec .done s = .next
            { u t.1.qi.issued with fw := { t.1.fw with events := t.1.fw.events ++ e.lastEvent } })) ∧
        (∀ st, t.2 = .error st → exec .done s = .next (t.1.failRun r st 0)))) ∧
   ∀ k w l, shares k w = some l → l.length = k ∧ (0 < k → l.sum = w) ∧ ∀ x ∈ l, 0 < x)

/-! ### The steps of the engines and of packets -/

/-- A copy command starts or goes on: its accesses move memory, caches and scratchpads alone, and it has then been performed, has
units left, is parked on a translation fault, or has stopped with a cause. Inside the group's allocation, its rows apart: CPY copies every element,
nibbles and E2M1X blocks too; CPYX converts each to its format, forms E2M1X blocks, quantises rows to INT8 with their scales under QROW
and repacks trits under TRANS; CPYLV writes its lines' results and their count, up to a malformed line. KVAPP at .dev, from caches that hold nothing, appends its
vectors, seals the page before and counts, or stops with cause 4; CPYW writes its word at its address, with one side effect. A complete one leaves its
channel after its scope's write-backs, with its semaphore's increment where it has not faulted and its token, whose pop acquires at that scope (R277, R279, R280,
R282 to R291).

How a command is cut into units and turns, and which value an overlapped element takes, is the model's choice (log 29); so is that its accesses
stand in the turn that makes them (log 2), and CPYW's one side effect on a page of the ring kind (log 17). -/
def Obligations.CopyEngine : Prop :=
  ∀ (s : State) (x : CeCmd) (rest : List CeCmd) (g : Group), s.chan s.ctl.arg.core s.ctl.arg.ch = x :: rest →
    s.group? x.uid = some g → g.uid = x.uid → g.core = s.ctl.arg.core →
    let c := s.ctl.arg.core
    let n := s.ctl.arg.ch
    (x.st = .queued → x.park = none →
      (∃ t y, exec .ceCommandStart s = .next t ∧ CopyTouched s t ∧ ChanNow s t c n (y :: rest) ∧
        y = { x with st := y.st, next := y.next, park := y.park, old := y.old, puts := y.puts } ∧
        (y.park = none → y.st = .queued ∨ y.st = .performed ∨ ∃ k i, y.st = .faulted k i ∧ 1 ≤ k ∧ k ≤ 4) ∧
        (∀ k, y.park = some k → y.st = .queued ∧ k.asid = g.asid ∧ k.agent = 4 ∧ (k.cause = 1 ∨ k.cause = 2 ∨ k.cause = 3))) ∧
      (∀ w, x.kind = 0 → x.next = 0 → x.old = [] → x.puts = [] → s.ctl.arg.len = 0 → dSSP x.desc = true → dDSP x.desc = true → dTrans x.desc = false →
        dQrow x.desc = false → dSfmt x.desc = dDfmt x.desc → dDfmt x.desc ≠ 7 → ceNibble (dDfmt x.desc) = false →
        ceWidth (dDfmt x.desc) = 8 * w → 0 < w →
        let src (r k : Nat) : Nat := dSrc x.desc + r * dSpitch x.desc + k
        let dst (r k : Nat) : Nat := dDst x.desc + r * dDpitch x.desc + k
        let row := dCols x.desc * w
        (∀ r < dRows x.desc, ∀ k < row, src r k < g.kern.smem ∧ dst r k < g.kern.smem) →
        (∀ r < dRows x.desc, ∀ k < row, ∀ r' < dRows x.desc, ∀ k' < row, dst r k ≠ src r' k' ∧ (dst r k = dst r' k' → r = r' ∧ k = k')) →
        s.PadEnds x rest g .performed fun m =>
          (∀ r < dRows x.desc, ∀ k < row, SMap.get 0 m (dst r k) = SMap.get 0 g.smem (src r k)) ∧
          (∀ a, (∀ r < dRows x.desc, ∀ k < row, a ≠ dst r k) → SMap.get 0 m a = SMap.get 0 g.smem a)) ∧
      (x.next = 0 → x.old = [] → x.puts = [] → s.ctl.arg.len = 0 →
        let d := x.desc
        let sf := dSfmt d
        let df := dDfmt d
        let src (r : Nat) : Nat := dSrc d + r * dSpitch d
        let dst (r : Nat) : Nat := dDst d + r * dDpitch d
        let value (r k : Nat) : FVal := padValue g.smem sf (src r) (dSoff d) k
        let none' (_ : Nat) : Prop := False
        (padRows d g.kern.smem → sf ≤ 16 → df ≤ 16 → 0 < dCols d → (dSoff d = 1 → ceNibble sf = true) → (dDoff d = 1 → ceNibble df = true) →
          (x.kind = 0 → dTrans d = false → dQrow d = false → sf = df → df ≠ 7 → s.PadEnds x rest g .performed fun m => padElse d g.smem m none' ∧
            ∀ r < dRows d, ∀ k < dCols d, padCode m df (dst r) (dDoff d) k = padCode g.smem sf (src r) (dSoff d) k) ∧
          (x.kind = 0 → dTrans d = false → dQrow d = false → sf = 7 → df = 7 → s.PadEnds x rest g .performed fun m => padElse d g.smem m none' ∧
            ∀ r < dRows d, ∀ b < (dCols d + 23) / 24, padNat m (dst r + 14 * b) 14 = padNat g.smem (src r + 14 * b) 14) ∧
          (x.kind = 1 → dTrans d = false → dQrow d = false → sf ≠ 16 → df ≠ 16 → df ≠ 7 → s.PadEnds x rest g .performed fun m => padElse d g.smem m none' ∧
            ∀ r < dRows d, ∀ k < dCols d, padCode m df (dst r) (dDoff d) k =
              (cvtEncode df (RMode.ofBits (dRM d)) (dNS d) (value r k)).toNat % 2 ^ ceWidth df) ∧
          (x.kind = 1 → dTrans d = false → dQrow d = false → sf ≠ 16 → sf ≠ 7 → df = 7 → s.PadEnds x rest g .performed fun m => padElse d g.smem m none' ∧
            ∀ r < dRows d, ∀ b < (dCols d + 23) / 24, padNat m (dst r + 14 * b) 14 =
              encodeE2m1x ((List.range (min 24 (dCols d - 24 * b))).map fun k => value r (24 * b + k)) % 2 ^ 112) ∧
          (x.kind = 1 → dTrans d = false → dQrow d = true → sf ≤ 2 → df = 8 → dASP d = true → dAux d + 4 * dRows d ≤ g.kern.smem →
            (∀ r < dRows d, rangesApart (dAux d) (4 * dRows d) (src r) (srcShape d).2 ∧ rangesApart (dAux d) (4 * dRows d) (dst r) (dstShape d).2) →
            s.PadEnds x rest g .performed fun m => padElse d g.smem m (fun a => dAux d ≤ a ∧ a < dAux d + 4 * dRows d) ∧
              ∀ r < dRows d,
                let bad : Prop := ∃ k < dCols d, (value r k).isFin = false
                let sc := f32r .rne (.fin false (((List.range (dCols d)).foldl (fun a k => max a (value r k).mag) (0 : Rat)) / 127))
                let sv := (f32v sc).toRat
                (bad → padNat m (dAux d + 4 * r) 4 = 0x7FC00000 ∧ ∀ k < dCols d, padCode m 8 (dst r) 0 k = 0) ∧
                (¬ bad → padNat m (dAux d + 4 * r) 4 = sc.toNat ∧ ∀ k < dCols d, padCode m 8 (dst r) 0 k =
                  if sv = 0 then 0 else ((toIntSat .rne (-128) 127 (FVal.ofRat ((value r k).toRat / sv))) % 256).toNat)) ∧
          (x.kind = 1 → dTrans d = true → sf = 16 → df = 16 →
            (∀ j < (dRows d + 4) / 5, ∀ k < dCols d, padNat g.smem (src j + k) 1 < 243) →
            s.PadEnds x rest g .performed fun m => padElse d g.smem m none' ∧
              ∀ j < (dCols d + 4) / 5, ∀ k < dRows d, padNat m (dst j + k) 1 =
                ((List.range 5).map fun i => if 5 * j + i < dCols d then digit3 (padNat g.smem (src (k / 5) + (5 * j + i)) 1) (k % 5) * 3 ^ i else 0).sum)) ∧
        (x.kind = 2 → dSSP d = true → dDSP d = true → dSrc d + 64 * dRows d ≤ g.kern.smem →
          (dAux d ≠ 0 → dASP d = true ∧ dAux d + 4 ≤ g.kern.smem) →
          ∀ ls : List (List Word), (∀ (j : Nat) (l : List Word), ls[j]? = some l → riceLine (padNat g.smem (dSrc d + 64 * j) 64) = some l) →
            let all := ls.flatten
            let n := all.length
            dDst d + 4 * n ≤ g.kern.smem → rangesApart (dDst d) (4 * n) (dSrc d) (64 * dRows d) →
            (dAux d ≠ 0 → rangesApart (dAux d) 4 (dDst d) (4 * n)) →
            let written (m : SMap Byte) : Prop := ∀ (i : Nat) (w : Word), all[i]? = some w → padNat m (dDst d + 4 * i) 4 = w.toNat
            let inside (a : Nat) : Prop := dDst d ≤ a ∧ a < dDst d + 4 * n
            (ls.length = dRows d → s.PadEnds x rest g .performed fun m => written m ∧ (dAux d ≠ 0 → padNat m (dAux d) 4 = n) ∧
              ∀ a, ¬ inside a → (dAux d = 0 ∨ ¬ (dAux d ≤ a ∧ a < dAux d + 4)) → SMap.get 0 m a = SMap.get 0 g.smem a) ∧
            (ls.length < dRows d → riceLine (padNat g.smem (dSrc d + 64 * ls.length) 64) = none →
              s.PadEnds x rest g (.faulted 3 ls.length) fun m => written m ∧ ∀ a, ¬ inside a → SMap.get 0 m a = SMap.get 0 g.smem a)) ∧
        (∀ pg : Nat → Page, x.kind = 3 → x.scope = 3 → kSp d = true → (s.core c).l1 = [] → (s.die (dieOf c)).dcache = [] → s.fw.marked = [] →
          let cnt := memNat s.mem (pg (kCnt d)).pa 4
          let tab (p : Nat) : Nat := memNat s.mem (pg (kPtab d + 8 * p)).pa 8
          let p := cnt / 128
          let dn := kD d
          let sealing : Prop := cnt % 128 = 0 ∧ cnt ≠ 0
          s.KvPages g (kvUses d cnt tab) pg → kPtab d % 8 = 0 → kCnt d % 4 = 0 → kKsrc d + 2 * dn ≤ g.kern.smem → kVsrc d + 2 * dn ≤ g.kern.smem →
          tab p % 128 = 0 → rangesApart (kCnt d) 4 (kPtab d + 8 * p) 8 →
          (tab p ≠ 0 → rangesApart (kCnt d) 4 (tab p) (512 * dn) ∧ rangesApart (kPtab d + 8 * p) 8 (tab p) (512 * dn)) →
          (sealing → tab (p - 1) ≠ 0 ∧ tab (p - 1) % 128 = 0 ∧ (tab p ≠ 0 → rangesApart (tab (p - 1)) (512 * dn) (tab p) (512 * dn)) ∧
            rangesApart (kCnt d) 4 (tab (p - 1)) (512 * dn) ∧ rangesApart (kPtab d + 8 * p) 8 (tab (p - 1)) (512 * dn)) →
          ∃ t, exec .ceCommandStart s = .next t ∧ t.groups = s.groups ∧
            (kMaxpg d ≤ p ∨ tab p = 0 → (∃ k, ChanNow s t c n ({ x with st := .faulted 4 cnt, next := k } :: rest)) ∧
              memNat t.mem (pg (kCnt d)).pa 4 = cnt) ∧
            (p < kMaxpg d → tab p ≠ 0 → ChanNow s t c n ({ x with st := .performed } :: rest) ∧
              memNat t.mem (pg (kCnt d)).pa 4 = (cnt + 1) % 2 ^ 32 ∧
              (∀ k < dn, memNat t.mem (pg (tab p + 2 * (cnt % 128 * dn + k))).pa 2 = padNat g.smem (kKsrc d + 2 * k) 2 ∧
                memNat t.mem (pg (tab p + 256 * dn + 2 * (cnt % 128 * dn + k))).pa 2 = padNat g.smem (kVsrc d + 2 * k) 2) ∧
              (sealing → ∀ h ∈ ([(0, 0, 64 * dn), (256 * dn, 66 * dn, 130 * dn)] : List (Nat × Nat × Nat)), ∀ k < dn,
                let v (t : Nat) : FVal := bf16.decode (memNat s.mem (pg (tab (p - 1) + h.1 + 2 * (t * dn + k))).pa 2)
                memNat t.mem (pg (tab (p - 1) + h.2.2 + 2 * k)).pa 2 = sealScale v ∧
                ∀ i < 128, memNat t.mem (pg (tab (p - 1) + h.2.1 + (i * dn + k) / 2)).pa 1 / 16 ^ ((i * dn + k) % 2) % 16 = sealCode v i) ∧
              ∀ y, (∀ a, kvUses d cnt tab a → y ≠ (pg a).pa) → memByte t.mem y = memByte s.mem y))) ∧
      (∀ p, x.kind = 4 → dSrc x.desc < 2 ^ 52 → dSrc x.desc % 8 = 0 →
        let s1 := s.release g.tenant c x.scope
        let u := s1.translate c g.tenant g.asid (dSrc x.desc)
        u.2 = .ok p →
        (p.w = true → ∃ t g', exec .ceCommandStart s = .next t ∧ ChanNow s t c n ({ x with st := .performed } :: rest) ∧
          t.group? x.uid = some g' ∧ g' = { g with side := min 0xFFFF (g.side + 1) } ∧
          SameBytes u.1 t (fun a => p.pa ≤ a ∧ a < p.pa + 8) ∧
          ∀ k < 8, (t.levelByte (.l1 c) (p.pa + k)).2.2 = BitVec.ofNat 8 (dDst x.desc / 256 ^ k)) ∧
        (p.w = false → ∃ t, exec .ceCommandStart s = .next t ∧ ChanNow s t c n ({ x with st := .faulted 1 0, next := 0 } :: rest) ∧
          SameBytes u.1 t (fun _ => False)))) ∧
    (∀ info : Option (Nat × Nat), x.st = (match info with | none => .performed | some i => .faulted i.1 i.2) →
      x.seq < 2 ^ 16 → n < 4 → x.kind < 5 →
      ∃ t s1 s2 s3, exec .ceCommandComplete s = .next t ∧ Warmed s s1 ∧ s1 = s.release g.tenant c x.scope ∧
        s2 = { s1 with cores := s2.cores } ∧ ChanNow s1 s2 c n rest ∧ (∀ k, s2.core k = { s1.core k with chans := (s2.core k).chans }) ∧
        (match x.sem, info with
          | some i, none => SemTaken s2 s3 (some x.uid) c i (semSum (s2.sem c i) 1)
          | _, _ => s3 = s2) ∧
        (x.tok = false → info = none → t = s3) ∧
        (x.tok = true ∨ info ≠ none → ∃ g3 g', s3.group? x.uid = some g3 ∧ t = { s3 with groups := t.groups } ∧
          (∀ uid, uid ≠ x.uid → t.group? uid = s3.group? uid) ∧ t.group? x.uid = some g' ∧
          g' = { g3 with ceInfo := g'.ceInfo, ceScope := g'.ceScope,
                         queues := { g3.queues with t7 := g3.queues.t7 ++
                           [(if info = none then 0#2 else 3#2) ++ BitVec.ofNat 3 x.kind ++ 0#9 ++ BitVec.ofNat 2 n ++ BitVec.ofNat 16 x.seq] } } ∧
          g'.ceScope.find? (fun p => p.1 == x.seq) = some (x.seq, x.scope) ∧
          (∀ i, info = some i → g'.ceInfo.find? (fun p => p.1 == x.seq) = some (x.seq, 2 ^ 28 * i.1 + i.2 % 2 ^ 28)) ∧
          (info = none → ∀ p ∈ g'.ceInfo, p.1 ≠ x.seq)))

/-- The head of an array queue: TA.ZERO clears the working bank, its mark and its row scales; a run reads each byte as it is or as it
was when the run was accepted, leaves in each cell of its block the sum of its scaled groups' exact partials, each rounded once, stops at its first bad chunk with the groups before it done, and
keeps its row scales; the fault strikes with the mark and the array's fault registers, whatever fault they hold, and only then is the run complete, with
ERR and ABORT in its token; the completion makes the token (R176, R177,
R182, R187, R188, R194). That an operand's byte may be read as it was at acceptance is R186's; which turn of the agenda reads it is the
model's choice (log 1). -/
def Obligations.TileRuns : Prop :=
  ∀ (s : State) (x : TaCmd) (rest : List TaCmd), let c := s.ctl.arg.core
    let ta := (s.core c).ta
    let now (t : State) (f : TritArray) : Prop :=
      t = { s with groups := t.groups, cores := t.cores, ctl := { s.ctl with fresh := t.ctl.fresh }, fw := { s.fw with counts := t.fw.counts } } ∧
      ∀ k, t.core k = if k = c then { s.core k with ta := f } else s.core k
    ta.queue = x :: rest →
    (x.st = .queued → x.zero = true → ∃ t, exec .taCommandStart s = .next t ∧ t.groups = s.groups ∧ t.fw = s.fw ∧
      now t { ta with working := [], poison := false, rowsc := [], queue := { x with st := .ran } :: rest }) ∧
    (∀ g, x.st = .queued → x.zero = false → s.group? x.uid = some g → blkM x.block ≤ 128 → blkN x.block ≤ 128 →
      let b := x.block
      let chunks := blkK b / fmtGroup x.fmt * (fmtGroup x.fmt / 5)
      ∃ rd : Nat → Nat, (∀ a, rd a = (s.spByte g a).toNat ∨ rd a = (x.was g a).toNat) ∧
      ∃ t w rs st, exec .taCommandStart s = .next t ∧ t.groups = s.groups ∧
        now t { ta with working := w, rowsc := rs, queue := { x with st := st } :: rest } ∧
        (∀ m < blkM b, SMap.get 0x3F800000 rs m =
          if fmtRowsc x.fmt then BitVec.ofNat 32 (leNat ((List.range 4).map fun i => BitVec.ofNat 8 (rd (blkRBase b + 4 * m + i))))
          else SMap.get 0x3F800000 ta.rowsc m) ∧
        (∀ m, blkM b ≤ m → SMap.get 0x3F800000 rs m = SMap.get 0x3F800000 ta.rowsc m) ∧
        (∀ m < 128, ∀ n < 128, ¬ (m < blkM b ∧ n < blkN b) → SMap.get 0 w (128 * m + n) = SMap.get 0 ta.working (128 * m + n)) ∧
        ((∀ k < chunks, ∀ u a, ¬ ChunkFault rd x.fmt b k u a) → st = .ran ∧
          ∀ m < blkM b, ∀ n < blkN b, SMap.get 0 w (128 * m + n) =
            cellAfter rd x.fmt b (SMap.get 0 ta.working (128 * m + n)) m n (blkK b / fmtGroup x.fmt)) ∧
        (∀ k < chunks, ∀ u a, ChunkFault rd x.fmt b k u a → (∀ j < k, ∀ u a, ¬ ChunkFault rd x.fmt b j u a) →
          st = .faulted u a k ∧ ∀ m < blkM b, ∀ n < blkN b, SMap.get 0 w (128 * m + n) =
            cellAfter rd x.fmt b (SMap.get 0 ta.working (128 * m + n)) m n (k / (fmtGroup x.fmt / 5)))) ∧
    (∀ g u a k, x.st = .faulted u a k → s.group? x.uid = some g →
      ∃ t, exec .taRunFault s = .next t ∧ t.groups = s.groups ∧ t.fw = s.fw ∧
        now t { ta with poison := true, faddr := a, fchunk := k, fcause := u, fqtr := g.quarter, fctx := g.actx, fpend := true,
                        fowner := x.uid, fseq := x.seq, queue := { x with st := .struck } :: rest }) ∧
    (∀ g bad, s.group? x.uid = some g → g.uid = x.uid → x.seq < 2 ^ 16 →
      ((bad = false ∧ x.st = .ran) ∨
        (bad = true ∧ x.st = .struck)) →
      ∃ t g', exec .taCommandComplete s = .next t ∧ t.fw = s.fw ∧ now t { ta with queue := rest } ∧
        (∀ uid, uid ≠ x.uid → t.group? uid = s.group? uid) ∧ t.group? x.uid = some g' ∧
        g' = { g with queues := { g.queues with t6 := g.queues.t6 ++
          [(if bad then 3#2 else 0#2) ++ (if x.zero then 2#2 else 1#2) ++ 0#12 ++ BitVec.ofNat 16 x.seq] } })

/-- The events' layout; NOP, FENCE, WAITSEM, SIGNALSEM and EVENT packets complete with their effects, an EVENT being a side effect of
the group that published its packet, and a packet leaves the list with the last of its commands. COPY copies its bytes at .dev where its addresses do not overlap and its translations do not lie
in what it writes, and fails with PROT or BOUNDS before it writes any byte (R235, R340 to R343, R427, R481).

COPY's units and the order of its bytes and of its checks, and which status comes first, are the model's choices (log 48); so is which group an EVENT's
side effect counts for (log 17). -/
def Obligations.PacketCommands : Prop :=
  (∀ (kind status queue : Nat) (tag : Word) (index : DWord) (ws : List Word), kind < 256 → status < 256 → queue < 1024 →
    ws.length = 12 → let e := eventOf kind status queue tag index ws
    e.extractLsb' 0 8 = BitVec.ofNat 8 kind ∧ e.extractLsb' 8 8 = BitVec.ofNat 8 status ∧ e.extractLsb' 16 6 = 0 ∧
    e.extractLsb' 22 10 = BitVec.ofNat 10 queue ∧ e.extractLsb' 32 32 = tag ∧ e.extractLsb' 64 64 = index ∧
    ∀ k < 12, ws[k]? = some (e.extractLsb' (128 + 32 * k) 32)) ∧
  ∀ s : State, let c := s.ctl.cmd
    (EndsOver (exec .nopPacket s) s none ∧ EndsOver (exec .fencePacket s) s none) ∧
    (let core := Command.word c 0 / 256 % 256
     let i := Command.word c 0 % 64
     let th := Command.word c 1
     ((th ≤ (s.sem core i).toNat ∨ ∃ x, s.thisCmd = some x ∧ x.hit = true) → EndsOver (exec .waitsem s) s none) ∧
     ((s.sem core i).toNat < th → (∀ x, s.thisCmd = some x → x.hit = false) →
       ∃ u, s.Settles (fun c => { c with st := max 1 c.st }) none u ∧ exec .waitsem s = .next { u with ctl := { u.ctl with wait := true } }) ∧
     (let b := BitVec.ofNat 32 th
      ∃ s1, SemTaken s s1 none core i (if Command.word c 2 % 2 = 1 then b else semSum (s.sem core i) b) ∧
        EndsOver (exec .signalsem s) s1 none)) ∧
    (c.body.length = 8 → (∀ v g, s.group? v = some g → g.uid = v) →
      let u := if (SMap.find s.fw.tenants (c.queue / 64)).isSome then s.snapshot (c.queue / 64) else s
      ∃ s1, EndsOver (exec .event s) s1 none ∧ State.Caused { u with fw := { u.fw with events := s.fw.events ++
        [(c.queue / 64, eventOf 5 0 c.queue c.tag c.index (c.body ++ [0, 0, 0, 0]))] } } s1) ∧
    (∀ x, s.thisCmd = some x → x.next = 0 → x.old = [] →
      let t := c.queue / 64
      let asid := Command.word c 5 % 4096
      let src := Command.addr c 0
      let dst := Command.addr c 2
      let n := Command.word c 4
      (s.asidOk t asid = false → EndsOver (exec .copy s) s (some .prot)) ∧
      (s.asidOk t asid = true → n = 0 ∨ 2 ^ 52 < src + n ∨ 2 ^ 52 < dst + n → EndsOver (exec .copy s) s (some .bounds)) ∧
      (s.asidOk t asid = true → 0 < n → src + n ≤ 2 ^ 52 → dst + n ≤ 2 ^ 52 →
        ¬ (s.rangeOk asid src n .read = true ∧ s.rangeOk asid dst n .write = true) → EndsOver (exec .copy s) s (some .prot)) ∧
      (s.asidOk t asid = true → 0 < n → src + n ≤ 2 ^ 52 → dst + n ≤ 2 ^ 52 → s.rangeOk asid src n .read = true →
        s.rangeOk asid dst n .write = true → n ≤ s.ctl.arg.len →
        ∀ ps pd : Nat → Nat, (∀ i < n, s.PlainAt asid (src + i) .read (ps i) ∧ s.PlainAt asid (dst + i) .write (pd i)) →
          (∀ i < n, ∀ j < n, (pd i = pd j → i = j) ∧ (pd i = ps j → i = j)) →
          (∀ m, (∀ a, (∀ i < n, a ≠ pd i) → memByte m a = memByte s.mem a) → ∀ va need,
            (State.pageIO { s with mem := m } asid va need) = s.pageIO asid va need) →
          ∃ s1 : State, s1 = { s with mem := s1.mem, fw := { s.fw with marked := s1.fw.marked } } ∧
            (∀ i < n, memByte s1.mem (pd i) = memByte s.mem (ps i)) ∧
            (∀ a, (∀ i < n, a ≠ pd i) → memByte s1.mem a = memByte s.mem a) ∧
            ∃ u, exec .copy s = .next u ∧ ∃ k, s1.Settles (fun y => { y with st := 2, next := k, old := [] }) none u))

/-- LAUNCH and INVOKE make a grid record with the next nonzero grid number, what was read for them and their packet's fields, the
first of a graph its root; with 65,536 records they wait. GRID_READY makes a grid ready whose parent has ended and whose
semaphore has reached its threshold, with its counts as given or, under IND, read; it ends one of no groups, and one that breaks
R349 or R399 with its status (R341, R349, R356, R399). When the record is made, and its fields `id` and `seq`, which number packets and
records, are the model's choices (log 42). -/
def Obligations.GridLaunches : Prop :=
  (∀ (ins : Instr) (s : State) (x : IssuedCmd) (ln : Launch), ins = .launch ∨ ins = .invoke → s.thisCmd = some x → x.launch = some ln →
    (65536 ≤ s.lu.grids.length → exec ins s = .next { s with ctl := { s.ctl with wait := true } }) ∧
    (s.lu.grids.length < 65536 →
      let num := s.lu.next
      ∃ (s1 t : State) (r : Grid), exec ins s = .next t ∧ s1.Settles (fun y => { y with st := 1, grid := some num }) none t ∧
        s1 = { s with lu := { s.lu with next := s1.lu.next, launched := s.lu.launched + 1, grids := s1.lu.grids, graphs := s1.lu.graphs } } ∧
        s1.lu.next ≠ 0 ∧ (num + 1 < 2 ^ 32 → s1.lu.next = num + 1) ∧
        (∀ k, SMap.find s1.lu.grids k = if k = num then some r else SMap.find s.lu.grids k) ∧
        (∀ k, SMap.find s1.lu.graphs k = if k = x.graph then (SMap.find s.lu.graphs k).map fun g => { g with root := if g.root = 0 then num else g.root }
          else SMap.find s.lu.graphs k) ∧
        r.num = num ∧ r.id = x.cmd.id ∧ r.seq = s.lu.launched ∧ r.queue = x.cmd.queue ∧ r.index = x.cmd.index ∧ r.tag = x.cmd.tag ∧ r.dep = x.cmd.dep ∧ r.thresh = x.cmd.thresh ∧
        r.parent = x.cmd.parent.toNat ∧ r.graph = x.graph ∧ r.weight = x.cmd.weight.toNat ∧ r.ln = ln ∧
        r.gx = Command.word x.cmd 2 ∧ r.gy = Command.word x.cmd 3 % 2 ^ 16 ∧ r.gz = Command.word x.cmd 3 / 2 ^ 16 ∧
        r.indaddr = BitVec.ofNat 64 (Command.addr x.cmd 4) ∧ (x.ty = 2 → r.slot = x.cmd.staged.map Prod.fst) ∧ (x.ty ≠ 2 → r.slot = none) ∧
        r.ready = false ∧ r.ended = false ∧ r.endedCount = 0 ∧ r.nextGid = 0 ∧ r.head = [] ∧ r.tail = [] ∧ r.placed = [] ∧ r.asked = none)) ∧
  (∀ (s : State) (g : Grid), SMap.find s.lu.grids s.ctl.arg.uid = some g → g.num = s.ctl.arg.uid → g.ready = false → g.ended = false →
    let o := exec .gridReady s
    let parentGone : Prop := g.parent ≠ 0 ∧ ∀ p, SMap.find s.lu.grids g.parent = some p → p.ln.tenant ≠ g.ln.tenant
    let may : Prop := (g.parent = 0 ∨ ∃ p, SMap.find s.lu.grids g.parent = some p ∧ p.ln.tenant = g.ln.tenant ∧ p.ended = true) ∧
      (g.dep.toNat / 2 ^ 31 = 0 ∨ g.thresh.toNat ≤ (s.sem (g.dep.toNat / 2 ^ 8 % 256) (g.dep.toNat % 64)).toNat)
    let v (f : Nat) : State × Option Nat := s.vaNat g.ln.tenant (s.abase g.ln.tenant) (g.indaddr.toNat + 4 * f) 4 .read
    (parentGone → o = .next (s.endGrid g.num (some 8))) ∧
    (may → g.dep.toNat / 2 ^ 16 % 8 = 0 →
      let n := g.gx * g.gy * g.gz
      (2 ^ 16 ≤ g.gy ∨ 2 ^ 16 ≤ g.gz ∨ 2 ^ 32 < n → o = .next (s.endGrid g.num (some 6))) ∧
      (g.gy < 2 ^ 16 → g.gz < 2 ^ 16 → n ≤ 2 ^ 32 →
        (n = 0 → o = .next (s.endGrid g.num none)) ∧
        (n ≠ 0 → n % g.ln.clg ≠ 0 → o = .next (s.endGrid g.num (some 6))) ∧
        (n ≠ 0 → n % g.ln.clg = 0 → s.rwSpan g.ln.asid g.ln.ctxbase.toNat (0x411000 * n) = false → o = .next (s.endGrid g.num (some 10))) ∧
        (n ≠ 0 → n % g.ln.clg = 0 → s.rwSpan g.ln.asid g.ln.ctxbase.toNat (0x411000 * n) = true →
          o = .next { s with lu := { s.lu with grids := SMap.put s.lu.grids g.num { g with ready := true } } }))) ∧
    (may → g.dep.toNat / 2 ^ 16 % 8 = 1 →
      ((v 0).2 = none → o = .next ((v 0).1.endGrid g.num (some 10))) ∧
      (∀ n, (v 0).2 = some n → n ≠ 0 → g.gy = 1 → g.gz = 1 → g.ln.clg = 1 → n < 2 ^ 32 →
        (v 0).1.rwSpan g.ln.asid g.ln.ctxbase.toNat (0x411000 * n) = true →
        Warmed s (v 0).1 ∧
        o = .next { (v 0).1 with lu := { (v 0).1.lu with grids := SMap.put (v 0).1.lu.grids g.num { g with gx := n, ready := true } } }))) ∧
  (∀ (s : State) (num : Nat) (fail : Option Nat) (g : Grid), SMap.find s.lu.grids num = some g → g.ended = false →
    let t := s.endGrid num fail
    (∀ r, SMap.find t.lu.grids num = some r → r = { g with ended := true, weight := 0, head := [], tail := [], placed := [] } ∨
      ¬ SMap.sorted s.lu.grids = true) ∧
    t.groups = s.groups ∧ t.cores = s.cores ∧ t.mem = s.mem ∧ t.heads = s.heads ∧
    (∀ u, u / 2 ^ 32 = num → SMap.find t.lu.saved u = none) ∧ (∀ u, u / 2 ^ 32 ≠ num → SMap.find t.lu.saved u = SMap.find s.lu.saved u) ∧
    (∀ gr, SMap.find s.lu.graphs g.graph = some gr →
      SMap.find t.lu.graphs g.graph = some { gr with
        counter := (gr.counter + g.weight) % 2 ^ 63, done := gr.done || decide ((gr.counter + g.weight) % 2 ^ 63 = 2 ^ 62) }))

/-- The queue interpreter takes the packet of the ready ring of the highest level, the first at or after the level's pointer: the read
index moves by one, RDPUB is written at the multiples of N and under NOTIFY, and the packet's program begins, with the group that published it, or the
packet fails: by its own fields, or with PROT where RDPUB cannot be written.
RSETUP registers a ring that keeps R352, unregisters one, and kills every grid of a queue (R232, R337 to R340, R351, R352).

SLOTLOAD checks its slot's owner, its ASID, its object and its ranges, waits while a grid of the slot runs, having started, and then frees the slot,
pins its pages and its object and records it; SLOTFREE frees a slot of its tenant's; QPROG binds a program that keeps R346, with the windows that its LDMs name mapped, to its
queue, and fails with BADPROG, RESV or PROT otherwise (R346, R347, R343).

Which status a packet with several faults fails with, and the statuses that no rule names, are the model's choices (log 48); so are the
address by which a slot of a ring is read, and that a packet's own fields are checked before its RDPUB is written (log 55). -/
def Obligations.QueueIntakeAndSlots : Prop :=
  ((∀ (s : State) (q level : Nat), s.nextRing? = some (q, level) →
     level < 8 ∧ q ∈ s.readyRings level ∧ (∀ l < 8, level < l → s.readyRings l = []) ∧
     (SMap.sorted s.qi.rings = true → ∀ q' ∈ s.readyRings level, (q + 1024 - SMap.get 0 s.qi.ptrs level) % 1024 ≤
       (q' + 1024 - SMap.get 0 s.qi.ptrs level) % 1024 ∨ 1024 ≤ q ∨ 1024 ≤ q' ∨ 1024 ≤ SMap.get 0 s.qi.ptrs level)) ∧
   (∀ (s : State) (q level : Nat) (r : Ring) (p : List Word), s.qi.run = none → s.heldByGrids = false → s.nextRing? = some (q, level) →
     SMap.find s.qi.rings q = some r → (s.peek r).2 = some p →
     let due : Bool := (r.rd + 1).toNat % r.npub == 0 || pkWord p 0 / 2 ^ 8 % 2 == 1
     let block := match (s.peek r).1.translateIO ((s.peek r).1.abase r.tenant) r.slotAddr with | .ok g => some (g.pa / 64) | .error _ => none
     let s1 : State := { (s.peek r).1 with qi := { (s.peek r).1.qi with
       rings := SMap.put s.qi.rings q { r with rd := r.rd + 1 }, ptrs := SMap.put s.qi.ptrs level ((q + 1) % 1024),
       posters := match block with | some b => SMap.del s.qi.posters b | none => s.qi.posters } }
     let out := if due then s1.publish r (r.rd + 1) else some s1
     let s2 := out.getD s1
     let prog := if q % 64 = 0 then none else SMap.find s.qi.progs q
     Warmed s (s.peek r).1 ∧ p.length = 16 ∧ pkWord p 15 = (r.rd.toNat + 1) % 2 ^ 32 ∧
     (packetCheck q prog.isNone p = none → out.isSome → exec .qiTakePacket s = .next { s2 with qi := { s2.qi with
       run := some { cause := block.bind fun b => SMap.find s.qi.posters b, queue := q, index := r.rd, packet := p, prog := prog, b := [], flag := false, loops := [], pc := 0, count := 0,
                     cmds := [], staged := none, record := none } } }) ∧
     (∀ st, packetCheck q prog.isNone p = some st ∨ packetCheck q prog.isNone p = none ∧ out = none ∧ st = .prot → ∃ t, exec .qiTakePacket s = .next t ∧ t.qi.run = none ∧ t.qi.rings = s2.qi.rings ∧
       ∃ l, t.fw.events = s2.fw.events ++
         (q / 64, eventOf 2 st.code q (BitVec.ofNat 32 (pkWord p 1)) r.rd (List.replicate 12 0)) :: l) ∧
     (15 < pkWord p 0 % 256 → packetCheck q prog.isNone p = some .badtype) ∧
     (8 ≤ pkWord p 0 % 256 → pkWord p 0 % 256 ≤ 15 → q % 64 ≠ 0 → packetCheck q prog.isNone p = some .priv)) ∧
   ∀ s : State, let c := s.ctl.cmd
     let t := c.queue / 64
     let a := s.abase t
     let q := 64 * t + Command.word c 0 % 64
     let va := Command.addr c 2
     let k := Command.word c 1 / 256 % 16 + 4
     (q % 64 = 0 → EndsOver (exec .rsetupRegister s) s (some .priv) ∧ EndsOver (exec .rsetupUnregister s) s (some .priv)) ∧
     (q % 64 ≠ 0 → (SMap.find s.qi.rings q).isSome ∨ va % 64 ≠ 0 ∨ 16 < k → EndsOver (exec .rsetupRegister s) s (some .resv)) ∧
     (q % 64 ≠ 0 → SMap.find s.qi.rings q = none → va % 64 = 0 → k ≤ 16 → s.ringPages a va (64 + 64 * 2 ^ k) = false →
       EndsOver (exec .rsetupRegister s) s (some .prot)) ∧
     (∀ v, q % 64 ≠ 0 → SMap.find s.qi.rings q = none → va % 64 = 0 → k ≤ 16 → s.ringPages a va (64 + 64 * 2 ^ k) = true →
       (s.vaNat t a va 64 .read).2 = some v →
       let h := (s.vaNat t a va 64 .read).1
       let resv := v % 2 ^ 64
       let rdpub := v / 2 ^ 64 % 2 ^ 64
       let n := v / 2 ^ 128 % 2 ^ 16
       Warmed s h ∧
       (v / 2 ^ 144 ≠ 0 ∨ resv ≠ rdpub ∨ n = 0 ∨ 2 ^ k < n → EndsOver (exec .rsetupRegister s) h (some .resv)) ∧
       (v / 2 ^ 144 = 0 → resv = rdpub → n ≠ 0 → n ≤ 2 ^ k → EndsOver (exec .rsetupRegister s)
         { h with qi := { h.qi with
           rings := SMap.put h.qi.rings q {
             tenant := t, addr := va, logsize := k, npub := n, rd := BitVec.ofNat 64 rdpub, prio := Command.word c 1 % 8,
             pre := bit (BitVec.ofNat 32 (Command.word c 1)) 3 } } } none)) ∧
     (q % 64 ≠ 0 → EndsOver (exec .rsetupUnregister s) { s with qi := { s.qi with rings := SMap.del s.qi.rings q, levels := SMap.put s.qi.levels q (s.level q) } } none) ∧
     (SMap.sorted s.lu.grids = true → SMap.sorted s.groups = true → ∃ s1, EndsOver (exec .rsetupKill s) s1 none ∧
       (∀ n g, SMap.find s1.lu.grids n = some g → g.queue = q → g.ended = true) ∧
       (∀ u g r, s1.group? u = some g → SMap.find s.lu.grids g.grid = some r → r.queue = q → r.ended = true) ∧
       (∀ n g, SMap.find s.lu.grids n = some g → g.queue ≠ q → g.ended = false → SMap.find s1.lu.grids n = some g) ∧
       (∀ u g r, s.group? u = some g → SMap.find s.lu.grids g.grid = some r → r.queue ≠ q → s1.group? u = some g))) ∧
  ((∀ s : State, let c := s.ctl.cmd
     let t := c.queue / 64
     let n := Command.word c 0
     let asid := if Command.word c 1 % 4096 = 0 then s.abase t else Command.word c 1 % 4096
     let mine : Prop := ∀ x, SMap.find s.fw.slots n = some x → x.tenant = t
     (¬ mine → EndsOver (exec .slotload s) s (some .priv) ∧ EndsOver (exec .slotfree s) s (some .priv)) ∧
     (mine → s.slotBusy n = true → ∃ u,
       s.Settles (fun y => { y with st := max 1 y.st }) none u ∧ exec .slotload s = .next { u with ctl := { u.ctl with wait := true } }) ∧
     (mine → s.slotBusy n = false → s.asidOk t asid = false → EndsOver (exec .slotload s) s (some .prot)) ∧
     (mine → s.slotBusy n = false → s.asidOk t asid = true →
       let o := s.useObj false t asid (Command.addr c 2)
       (∀ st, o.2 = .error st → EndsOver (exec .slotload s) o.1 (some st)) ∧
       (∀ e, o.2 = .ok e →
         let v := o.1.vaRead t (o.1.abase t) (Command.addr c 4) (16 * Command.word c 6) .read
         (v.2 = none → EndsOver (exec .slotload s) v.1 (some .prot)) ∧
         (∀ bs, v.2 = some bs → rangeTable (Command.word c 6) bs = none → EndsOver (exec .slotload s) v.1 (some .bounds)) ∧
         (∀ bs l, v.2 = some bs → rangeTable (Command.word c 6) bs = some l →
           let held : Prop := ∀ p ∈ slotPages l, ∃ g, v.1.translateIO asid p.1 = .ok g ∧ (g.pa < lpddrBase ↔ p.2 = 0)
           (¬ held → EndsOver (exec .slotload s) v.1 (some .prot)) ∧
           (held → ∃ s1, EndsOver (exec .slotload s) s1 none ∧
             s1 = { v.1 with mem := s1.mem, fw := { v.1.fw with slots := s1.fw.slots, objs := s1.fw.objs } } ∧
             (∀ k, SMap.find s1.fw.slots k = if k = n then some { tenant := t, asid := asid, obj := e.addr, ranges := l }
               else SMap.find v.1.fw.slots k) ∧
             s1.fw.objs.length = v.1.fw.objs.length ∧
             ∀ (i : Nat) (x y : ObjEntry), v.1.fw.objs[i]? = some x → s1.fw.objs[i]? = some y → y = { x with pins := y.pins } ∧
               (x.addr = e.addr → x.asid = asid → x.tenant = t → n ∈ y.pins))))) ∧
     ((SMap.find s.fw.slots n = none → EndsOver (exec .slotfree s) s none) ∧
      (∀ sl, SMap.find s.fw.slots n = some sl → sl.tenant = t → s.slotBusy n = true → ∃ u,
        s.Settles (fun y => { y with st := max 1 y.st }) none u ∧ exec .slotfree s = .next { u with ctl := { u.ctl with wait := true } }) ∧
      (∀ sl, SMap.find s.fw.slots n = some sl → sl.tenant = t → s.slotBusy n = false → ∃ s1, EndsOver (exec .slotfree s) s1 none ∧
        s1 = { s with mem := s1.mem, fw := { s.fw with slots := s1.fw.slots, objs := s.fw.objs.map fun o => { o with pins := o.pins.erase n } } } ∧
        ∀ k, SMap.find s1.fw.slots k = if k = n then none else SMap.find s.fw.slots k))) ∧
   (∀ (s : State) (pb wb : List Byte), let c := s.ctl.cmd
     let t := c.queue / 64
     let a := s.abase t
     let q := Command.word c 3
     let k := Command.word c 6
     let p := s.vaRead t a (Command.addr c 0) (2 * Command.word c 2) .read
     let w := p.1.vaRead t a (Command.addr c 4) (16 * k) .read
     let words := (List.range (Command.word c 2)).map fun i => BitVec.ofNat 16 (bytesAt pb (2 * i) 2)
     let wins := (List.range k).map fun i => (bytesAt wb (16 * i) 8, bytesAt wb (16 * i + 8) 4)
     let zero : Prop := ∀ i < k, bytesAt wb (16 * i + 12) 4 = 0
     let named (i : Nat) : Prop := ∃ v ∈ words, v.toNat / 2 ^ 11 = 1 ∧ v.toNat / 2 ^ 6 % 4 = i
     let ok : Prop := q % 64 ≠ 0 ∧ (∀ i x, wins[i]? = some x → named i → x.1 % 4 = 0 ∧ (x.2 = 0 ∨ w.1.rangeOk a x.1 x.2 .read = true)) ∧
       qprogOk words k = true
     (p.2 = none ∨ w.2 = none → EndsOver (exec .qprog s) w.1 (some .prot)) ∧
     (p.2 = some pb → w.2 = some wb → Warmed s w.1 ∧
       (¬ zero → EndsOver (exec .qprog s) w.1 (some .resv)) ∧
       (zero → ¬ ok → EndsOver (exec .qprog s) w.1 (some .badprog)) ∧
       (zero → ok → EndsOver (exec .qprog s)
         { w.1 with qi := { w.1.qi with progs := SMap.put w.1.qi.progs (64 * t + q % 64) { words := words, windows := wins } } } none))) ∧
   ∀ (ws : List (BitVec 16)) (wins : Nat), qprogOk ws wins = true →
     (∀ w ∈ ws, (decodeQ w).isSome = true) ∧ ∃ w, ws.getLast? = some w ∧ (w.toNat / 2 ^ 11 = 0x11 ∨ w.toNat / 2 ^ 11 = 0x12))

/-- MAPUPD fails with RESV, BOUNDS, PROT or PRIV as it starts, or writes its entries in ascending order, one in each turn: a walk
then finds the page as written, or none under UNMAP, and no other byte has changed; a first page of an ASID gets the tables that it
needs, zeroed, whatever stood there; DECAY halves the counters of the tenant's hotness table, one in each turn (R377, R380, R385). The
statuses of a misaligned PA, of KIND 3 and of SIZE 3 and the order of the checks are the model's choices (log 47), and so are the places of
tables (`tblNext`, `freeTables`: log 6). -/
def Obligations.MapUpdates : Prop :=
  ∀ (s : State), let c := s.ctl.cmd
    let t := c.queue / 64
    let asid := Command.word c 0 % 4096
    let lvl := mapLevel c
    let size := mapSize c
    let va := Command.addr c 1
    let n := Command.word c 5
    let pte := BitVec.ofNat 64 (Command.addr c 3)
    let unmap : Prop := Command.word c 0 / 2 ^ 24 % 2 = 1
    let root := SMap.get 0 s.fw.roots asid
    let fits : Prop := va % size = 0 ∧ n ≠ 0 ∧ n ≤ 65536 ∧ va + n * size ≤ 2 ^ 52 ∧ (¬ unmap → ptePA pte % size = 0)
    let allotted : Prop := s.asidOk t asid = true ∧ (¬ unmap → s.inAllotment t (ptePA pte) (n * size) = true)
    let free : Prop := ∀ i < n, s.pinnedAt asid (va + i * size) lvl = false
    (∀ (ins : Instr) (i : Nat), ins = .mapupd ∨ ins = .mapupdUnmap → s.unitsDone = i → let o := exec ins s
      (i = 0 → mapFields c = false → EndsOver o s (some .resv)) ∧
      (i = 0 → mapFields c = true → ¬ fits → EndsOver o s (some .bounds)) ∧
      (i = 0 → mapFields c = true → fits → ¬ allotted → EndsOver o s (some .prot)) ∧
      (i = 0 → mapFields c = true → fits → allotted → ¬ free → EndsOver o s (some .priv)) ∧
      (i < n → (i = 0 → mapFields c = true ∧ fits ∧ allotted ∧ free) →
        let entry : DWord := if unmap then 0 else pte + BitVec.ofNat 64 (2 ^ 8 * (i * size))
        let here := va + i * size
        ∃ s1, UnitOver o s1 i n ∧
          s1 = { s with mem := s1.mem, fw := { s.fw with roots := s1.fw.roots, tblNext := s1.fw.tblNext, freeTables := s1.fw.freeTables } } ∧
          (∀ slot above, bit root 0 = true → s.leafSlot here lvl walkLevels (ptePA root) 0 = some (slot, above) →
            (∀ b ∈ above, slotsApart slot b) →
            (∀ x, (x < slot ∨ slot + 8 ≤ x) → memByte s1.mem x = memByte s.mem x) ∧
            (unmap → s1.walk asid here = .error 1) ∧
            (¬ unmap → leafFault entry size = none → ∃ z, z.bytes = size ∧ s1.walk asid here = .ok (entry, z))) ∧
          (¬ unmap → bit root 0 = false → leafFault entry size = none → s.fw.freeTables = [] → s.fw.tblNext + 2 ^ 20 ≤ 2 ^ 32 →
            (∃ z, z.bytes = size ∧ s1.walk asid here = .ok (entry, z)) ∧
            ∀ x, x < s.fw.tblNext ∨ s1.fw.tblNext ≤ x → memByte s1.mem x = memByte s.mem x))) ∧
    (mapFields c = false → EndsOver (exec .mapupdDecay s) s (some .resv)) ∧
    (mapFields c = true → let a := s.tenantField t 383 320 + 2 * s.unitsDone
      let count := 512 * (s.tenantField t 127 112 + s.tenantField t 95 80)
      s.unitsDone < count → ∃ s1, UnitOver (exec .mapupdDecay s) s1 s.unitsDone count ∧ s1 = { s with mem := s1.mem } ∧
        memNat s1.mem a 2 = memNat s.mem a 2 / 2 ∧ ∀ x, x < a ∨ a + 2 ≤ x → memByte s1.mem x = memByte s.mem x)

/-- TLBINV removes every entry of its ASIDs that its range meets from every TLB and drops what completed walks have found
there, by the leaf that they found; under RETRY it lets the parked accesses there try again; a ray's result entries on pages of the range, whose
translation it has, are written before the removal. CODEINV removes the instruction lines of an ASID with every line of the code
caches (the latter log 47's reading), or the code of a range with its copies. A page walk in progress completes with what the tables say,
for every access that asked for it, and fills the die TLB where it finds a leaf. An eviction takes a line away, its dirty bytes standing
one level further out (R242, R243, R246, R330, R380, R382 to R384, R386, R387). Which status a misaligned or overflowing range gets is
the model's choice (log 48), and so is how an access asks for its walk and takes the result (log 58). -/
def Obligations.Invalidations : Prop :=
  (∀ s : State, let c := s.ctl.cmd
    let t := c.queue / 64
    let w0 := Command.word c 0
    let asid := w0 % 4096
    let all : Prop := w0 / 2 ^ 16 % 2 = 1
    let re : Prop := w0 / 2 ^ 17 % 2 = 1
    let a := Command.addr c 1
    let n := Command.addr c 3
    let meets (x va k : Nat) : Prop :=
      (all → s.abase t ≤ x ∧ x < s.abase t + s.tenantField t 159 144) ∧ (¬ all → x = asid) ∧ (n = 0 ∨ va < a + n ∧ a < va + k)
    let retried (p q : Option Park) : Prop := ∀ k, q = some k ↔ p = some k ∧ ¬ (re ∧ meets k.asid (65536 * (k.va / 65536)) 65536)
    let resv : Prop := w0 / 2 ^ 12 % 16 ≠ 0 ∨ w0 / 2 ^ 18 ≠ 0 ∨ Command.zeroFrom c 5 = false ∨ (all ∧ asid ≠ 0)
    let bad : Prop := a % 65536 ≠ 0 ∨ n % 65536 ≠ 0 ∨ 2 ^ 52 < a + n
    let r : InvRange := { all := decide all, tenantBase := s.abase t, tenantCount := s.tenantField t 159 144, asid := asid, start := a, len := n }
    let u := s.settleResults r
    let met (w : Walk) : Prop := (∃ k, w.result = some (.fault k) ∧ meets w.asid (65536 * w.page) 65536) ∨
      ∃ pte z, w.result = some (.leaf pte z) ∧ meets w.asid (65536 * w.page / z.bytes * z.bytes) z.bytes
    (resv → EndsOver (exec .tlbinv s) s (some .resv)) ∧
    (¬ resv → bad → EndsOver (exec .tlbinv s) s (some .bounds)) ∧
    (¬ resv → ¬ bad → ¬ all → s.asidOk t asid = false → EndsOver (exec .tlbinv s) s (some .prot)) ∧
    (¬ resv → ¬ bad → (¬ all → s.asidOk t asid = true) →
      ((∀ (k n : Nat) (x : RayCtx), (s.core k).rays[n]? = some x → ∀ g, s.group? x.q.uid = some g → ∀ e ∈ x.left.getD [], e.2.isSome = true →
        ¬ meets g.asid (x.place e.1) 8) → u = s) ∧
      ∃ s1, EndsOver (exec .tlbinv s) s1 none ∧ s1 = { u with groups := s1.groups, cores := s1.cores, dies := s1.dies, walks := s1.walks } ∧
        (∀ d, ∀ w, w ∈ s1.walksOf d ↔ w ∈ u.walksOf d ∧ ¬ met w) ∧
        (∀ d, s1.die d = { u.die d with tlb := (s1.die d).tlb } ∧
          ∀ e, e ∈ (s1.die d).tlb ↔ e ∈ (u.die d).tlb ∧ ¬ meets e.asid e.va e.size.bytes) ∧
        (∀ k, s1.core k = { u.core k with tlb := (s1.core k).tlb, chans := (s1.core k).chans, rays := (s1.core k).rays } ∧
          (∀ e, e ∈ (s1.core k).tlb ↔ e ∈ (u.core k).tlb ∧ ¬ meets e.asid e.va e.size.bytes) ∧
          (∀ m, (s1.chan k m).length = (u.chan k m).length ∧ ∀ (j : Nat) (x y : CeCmd), (u.chan k m)[j]? = some x → (s1.chan k m)[j]? = some y →
            y = { x with park := y.park } ∧ retried x.park y.park) ∧
          ∀ (j : Nat) (x y : RayCtx), (u.core k).rays[j]? = some x → (s1.core k).rays[j]? = some y →
            y = { x with park := y.park } ∧ retried x.park y.park) ∧
        ∀ uid, (u.group? uid = none → s1.group? uid = none) ∧ ∀ g, u.group? uid = some g → ∃ g', s1.group? uid = some g' ∧
          g' = { g with warps := g'.warps, a := { g.a with parked := g'.a.parked }, frozenIO := g'.frozenIO } ∧
          retried g.a.parked g'.a.parked ∧ retried g.frozenIO g'.frozenIO ∧
          ∀ k, (g.warp? k = none → g'.warp? k = none) ∧
            ∀ w, g.warp? k = some w → ∃ w', g'.warp? k = some w' ∧ w' = { w with parked := w'.parked } ∧ retried w.parked w'.parked)) ∧
  (∀ s : State, let c := s.ctl.cmd
    let w0 := Command.word c 0
    let asid := w0 % 4096
    let range : Prop := w0 / 2 ^ 16 % 2 = 1
    let a := Command.addr c 1
    let n := Command.addr c 3
    let resv : Prop := w0 / 2 ^ 12 % 16 ≠ 0 ∨ w0 / 2 ^ 17 ≠ 0 ∨ Command.zeroFrom c 5 = false ∨ (¬ range ∧ (a ≠ 0 ∨ n ≠ 0))
    let bad : Prop := a % 65536 ≠ 0 ∨ n % 65536 ≠ 0 ∨ 2 ^ 52 < a + n
    let kept (s1 : State) : Prop := s1 = { s with cores := s1.cores, dies := s1.dies } ∧
      (∀ k, s1.core k = { s.core k with l1i := (s1.core k).l1i }) ∧ ∀ d, s1.die d = { s.die d with code := (s1.die d).code }
    let hit (ln : Nat) : Prop := ∃ i p, i < n / 65536 ∧ s.translateIO asid (a + 65536 * i) = .ok p ∧ p.pa ≤ 128 * ln ∧ 128 * ln < p.pa + 65536
    (resv → EndsOver (exec .codeinv s) s (some .resv)) ∧
    (¬ resv → bad → EndsOver (exec .codeinv s) s (some .bounds)) ∧
    (¬ resv → ¬ bad → s.asidOk (c.queue / 64) asid = false → EndsOver (exec .codeinv s) s (some .prot)) ∧
    (¬ resv → ¬ bad → s.asidOk (c.queue / 64) asid = true → ∃ s1, EndsOver (exec .codeinv s) s1 none ∧ kept s1 ∧
      (¬ range → (∀ d ln, d < 4 → SMap.find (s1.die d).code ln = none) ∧
        ∀ k key, (key / 2 ^ 45 = asid → SMap.find (s1.core k).l1i key = none) ∧
          (dieOf k < 4 → ∀ ln l, SMap.find (s.die (dieOf k)).code ln = some l → bit l.cores k = true → key ∈ l.keys →
            SMap.find (s1.core k).l1i key = none) ∧
          (key / 2 ^ 45 ≠ asid → (∀ ln l, SMap.find (s.die (dieOf k)).code ln = some l → bit l.cores k = true → key ∉ l.keys) →
            SMap.find (s1.core k).l1i key = SMap.find (s.core k).l1i key)) ∧
      (range → (∀ d ln, (d < 4 ∧ hit ln → SMap.find (s1.die d).code ln = none) ∧
          (¬ (d < 4 ∧ hit ln) → SMap.find (s1.die d).code ln = SMap.find (s.die d).code ln)) ∧
        ∀ k key, (∃ ln l, hit ln ∧ dieOf k < 4 ∧ SMap.find (s.die (dieOf k)).code ln = some l ∧ bit l.cores k = true ∧ key ∈ l.keys →
          SMap.find (s1.core k).l1i key = none) ∧
          ((∀ ln l, hit ln → SMap.find (s.die (dieOf k)).code ln = some l → bit l.cores k = true → key ∉ l.keys) →
          SMap.find (s1.core k).l1i key = SMap.find (s.core k).l1i key)))) ∧
  (∀ (s : State) (l1 : List Walk) (w : Walk) (l2 : List Walk), let a := s.ctl.arg
    let d := dieOf a.core
    let mine (x : Walk) : Prop := x.asid = a.asid ∧ x.page = a.va / 65536 ∧ x.result = none
    s.walksOf d = l1 ++ w :: l2 → mine w → (∀ x ∈ l1, ¬ mine x) → (l1.filter fun x => x.result.isNone).length < 64 →
      ∃ u r, exec .pageWalk s = .next u ∧ u = { s with walks := u.walks, dies := u.dies, fw := { s.fw with counts := u.fw.counts } } ∧
        (∀ k, u.walksOf k = if k = d then l1 ++ { w with result := some r } :: l2 else s.walksOf k) ∧
        (∀ k, s.walk a.asid a.va = .error k → r = .fault k ∧ u.dies = s.dies) ∧
        ∀ pte z, s.walk a.asid a.va = .ok (pte, z) → r = .leaf pte z ∧
          ∀ k, u.die k = if k = d then { s.die k with
            tlb := { asid := a.asid, va := a.va / z.bytes * z.bytes, size := z, pte := pte } :: (s.die k).tlb } else s.die k) ∧
  (∀ (s : State) (t : Turn) (m : Miss), let l := s.walksOf m.die
    let mine (x : Walk) : Prop := x.asid = m.asid ∧ x.page = m.page
    let u := s.askWalk t m
    u = { s with walks := u.walks, fw := { s.fw with counts := u.fw.counts } } ∧
    ((∃ x ∈ l, mine x ∧ t ∈ x.who) → u = s) ∧
    ((∀ x ∈ l, ¬ mine x) → ∀ k, u.walksOf k =
      if k = m.die then l ++ [{ tenant := m.tenant, asid := m.asid, page := m.page, who := [t], result := none }] else s.walksOf k) ∧
    ((∀ x ∈ l, mine x → t ∉ x.who) → ∀ l1 w l2, l = l1 ++ w :: l2 → mine w → w.result = none →
      (∀ x ∈ l1 ++ l2, ¬ (mine x ∧ x.result = none)) → (l1.filter fun x => x.result.isNone).length < 64 →
      ∀ k, u.walksOf k = if k = m.die then l1 ++ { w with who := w.who ++ [t] } :: l2 else s.walksOf k)) ∧
  ∀ (s : State), ∃ t, exec .cacheEviction s = .next t ∧
    (∀ k ln, s.ctl.arg.cline = .l1 k ln → Warmed s t ∧ t.l1Line k ln = Line.none ∧ (∀ k' ln', (k' ≠ k ∨ ln' ≠ ln) → t.l1Line k' ln' = s.l1Line k' ln') ∧
      ∀ i < 128, bit (s.l1Line k ln).dirty i = true → (s.l1Line k ln).kind = 0 →
        t.levelByte (.die (dieOf k)) (128 * ln + i) = (true, true, lineByte (s.l1Line k ln).data i)) ∧
    (∀ d ln, s.ctl.arg.cline = .dieCache d ln → Warmed s t ∧ t.dieLine d ln = Line.none ∧
      (∀ d' ln', (d' ≠ d ∨ ln' ≠ ln) → t.dieLine d' ln' = s.dieLine d' ln') ∧
      ∀ i < 128, memByte t.mem (128 * ln + i) =
        if bit (s.dieLine d ln).dirty i then lineByte (s.dieLine d ln).data i else memByte s.mem (128 * ln + i)) ∧
    (∀ p ln, (s.ctl.arg.cline = .frame ln ∧ p = 1 ∨ s.ctl.arg.cline = .ring ln ∧ p = 2) → Warmed s t ∧ t.partLine p ln = Line.none ∧
      ∀ i < 128, memByte t.mem (128 * ln + i) =
        if bit (s.partLine p ln).dirty i then lineByte (s.partLine p ln).data i else memByte s.mem (128 * ln + i)) ∧
    (∀ k asid ln, s.ctl.arg.cline = .l1i k asid ln → t = { s with cores := t.cores } ∧ ∀ j, t.core j = { s.core j with l1i := (t.core j).l1i } ∧
      ∀ key, SMap.find (t.core j).l1i key = if j = k ∧ key = 2 ^ 45 * asid + ln then none else SMap.find (s.core j).l1i key) ∧
    (∀ d ln, s.ctl.arg.cline = .codeCache d ln → t = { s with cores := t.cores, dies := t.dies } ∧
      ∀ d', t.die d' = { s.die d' with code := (t.die d').code } ∧
        ∀ ln', SMap.find (t.die d').code ln' = if d' = d ∧ ln' = ln then none else SMap.find (s.die d').code ln') ∧
    (∀ k n, s.ctl.arg.cline = .l1Tlb k n → t = { s with cores := t.cores } ∧
      ∀ j, t.core j = if j = k then { s.core j with tlb := (s.core j).tlb.eraseIdx n } else s.core j) ∧
    (∀ d n, s.ctl.arg.cline = .dieTlb d n → t = { s with dies := t.dies } ∧
      ∀ j, t.die j = if j = d then { s.die j with tlb := (s.die j).tlb.eraseIdx n } else s.die j)

/-- The launch unit's placement: a lone group on an idle part goes to the lowest enabled core, quarter 0, its warps and spawn slots to
the pipes from 0 up; in every placement, one held after a pre-emption too, the groups that were resident stay, and a new one stands on an enabled core within the
core's scratchpad, with its ring position where it is a crown member (R12, R17, R28, R190, R350 to R352). -/
def Obligations.GroupPlacements : Prop :=
  (∀ (s : State) (r : Grid) (c : Nat), s.lu.holds = [] → s.groups = [] → s.lu.saved = [] → s.lu.grids = [(r.num, r)] →
    r.ready = true → r.ended = false → r.head = [] → r.nextGid < r.total → r.ln.clg = 1 → r.queue < 1024 → (s.level r.queue).1 < 8 →
    c < 160 → bit s.fw.cores c = true → (∀ k < c, bit s.fw.cores k = false) → r.ln.kern.smem ≤ 2097152 → r.ln.kern.live ≤ 64 →
    r.ln.warps + r.ln.kern.spawn ≤ 64 → (r.ln.crown = true → SMap.find (s.core c).ta.ring 0 = none) →
    ∃ t g, exec .groupPlacement s = .next t ∧
      g = { freshGroup r r.nextGid with
              core := c, quarter := 0, actx := 0, ring := if r.ln.crown then some 0 else none,
              pipes := (List.range r.ln.warps ++ (List.range r.ln.kern.spawn).map (32 + ·)).zipIdx } ∧
      t = { s with groups := [(2 ^ 32 * r.num + r.nextGid, g)], cores := t.cores,
                   lu := { s.lu with grids := [(r.num, { r with nextGid := r.nextGid + 1, placed := r.nextGid :: r.placed })],
                                     ptrs := SMap.put s.lu.ptrs (s.level r.queue).1 ((r.queue + 1) % 1024) } } ∧
      ∀ k, t.core k = if k = c ∧ r.ln.crown = true then
        { s.core k with ta := { (s.core k).ta with ring := SMap.put (s.core k).ta.ring 0 g.uid } } else s.core k) ∧
  ∀ (s t : State), SMap.sorted s.lu.grids = true → (∀ n r, SMap.find s.lu.grids n = some r → r.num = n) →
    (∀ n r gid, SMap.find s.lu.grids n = some r → r.waiting = some gid → ∀ k < max 1 r.ln.clg, s.group? (2 ^ 32 * n + gid + k) = none) →
    (∀ u g, SMap.find s.lu.saved u = some g → g.uid = u ∧ g.grid = u / 2 ^ 32 ∧
      ∀ r, SMap.find s.lu.grids g.grid = some r → g.ln = r.ln) →
    (∀ n r, SMap.find s.lu.grids n = some r → r.total ≤ 2 ^ 32 ∧ ∀ gid, r.waiting = some gid → gid < 2 ^ 32) →
    exec .groupPlacement s = .next t →
      t = { s with groups := t.groups, cores := t.cores, ctl := { s.ctl with wait := t.ctl.wait },
                   lu := { s.lu with grids := t.lu.grids, ptrs := t.lu.ptrs, saved := t.lu.saved, holds := t.lu.holds } } ∧
      (∀ c, t.core c = { s.core c with ta := { (s.core c).ta with ring := (t.core c).ta.ring } }) ∧
      (∀ u g, s.group? u = some g → ∃ g', t.group? u = some g' ∧ g' = { g with preempt := g'.preempt, toHead := g'.toHead }) ∧
      (∀ u g, s.group? u = none → t.group? u = some g →
        bit s.fw.cores g.core = true ∧ g.quarter < 4 ∧ ((t.onCore g.core).map fun x => x.kern.smem).sum ≤ 2097152 ∧
        (g.ln.crown = true → ∃ p, g.ring = some p ∧ SMap.find (t.core g.core).ta.ring p = some u) ∧
        ∃ r, SMap.find s.lu.grids g.grid = some r ∧ r.ready = true ∧ r.ended = false ∧ g.ln = r.ln)

/-- A group starts with its warps at the T entry and its context at the A entry, everything else empty, and an acquire; it ends, with
a release, its place free and its grid's count raised, the grid with its last group; a grid whose largest run timer has reached the
quantum while a group waits for a place has that group asked to stop (R17, R18, R41, R128, R225, R239, R272, R353).

A group whose routines have ended leaves its core: its queues stand in its image, written with its scope's write-backs, and it
joins its grid's wait list, at the head when pre-empted by priority and else at the tail; its resumption reads the same queues back
and starts each stream of a kernel in native form at the restore routine of the entry on which it stopped; a context page without a translation holds the
step, one without permission faults the grid (R228 to R230, R352, R353). The scope of the acquire with which a group starts and of the release with
which it ends is the model's choice (log 44), and so are what stays of a saved group beside its image (log 45), the fault of an image
whose reserved fields are not zero (log 60), and the A context and its PC that the report of a context-area fault names (log 19). -/
def Obligations.GroupLives : Prop :=
  (∀ (s : State),
     (∀ g, s.group? s.ctl.arg.uid = some g → g.uid = s.ctl.arg.uid → g.started = false → g.image = false →
       let ctx := g.ln.ctxbase.toNat + 0x411000 * g.gid
       let k := g.ln.kern
       let width := if k.legacy then 16 else 32
       ∃ g', Warmed s (s.acquire g.core 3) ∧ exec .groupStart s = .next ((s.acquire g.core 3).setGroup g') ∧
         g' = { g with started := true, smem := [], bars := [], queues := Queues.empty, taSeq := 0, ceSeq := 0, ceInfo := [], ceScope := [],
                        side := 0, timer := 0, warps := g'.warps, a := g'.a } ∧
         (∀ j, (g'.warp? j).isSome = true ↔ j < g.ln.warps) ∧
         (∀ j w, g'.warp? j = some w →
           let n := g.ln.threads - width * j
           (∀ t, w.thread t = if t < width ∧ t < n then .live (BitVec.ofNat 32 k.tentry)
             else if t < width ∧ t / 4 * 4 < n then .helper else .exited) ∧
           w = { Warp.fresh w.threads (ctx + 0x8000 * j) with regs := w.regs } ∧
           (bit k.preload 0 = true → j < 32 → bit w.regs.vmap 0 = true ∧ ∀ t < width, w.regs.get 0 t = BitVec.ofNat 32 (width * j + t)) ∧
           (∀ m < 128, bit w.regs.vmap m = true ↔ m < (bit k.preload 0).toNat + (bit k.preload 1).toNat + (bit k.preload 2).toNat) ∧
           (bit k.preload 3 = true → w.regs.sGet 0 = BitVec.ofNat 32 j) ∧
           (bit k.preload 3 = false → bit k.preload 4 = true → w.regs.sGet 0 = BitVec.ofNat 32 g.gid) ∧
           (k.preload = 0x100 → w.regs.sGet 0 = BitVec.ofNat 32 g.grid)) ∧
         g'.a = ACtx.fresh (k.aentry.getD 0) (ctx + 0x200000) ∧ g'.a.tframe = BitVec.ofNat 64 (ctx + 0x200000) ∧
         g'.a.apc = BitVec.ofNat 32 (k.aentry.getD 0) ∧ g'.a.ended = false ∧ g'.a.mode = .running ∧ ∀ n, g'.a.reg n = 0) ∧
     (∀ g r, s.group? s.ctl.arg.uid = some g → g.uid = s.ctl.arg.uid → g.started = true → g.a.ended = true →
       (∀ k w, (k, w) ∈ g.warps → w.exited = true ∧ w.mode = .running ∧ w.pushDue = none) →
       (let c := s.core g.core
        (∀ x ∈ c.ta.queue, x.uid ≠ g.uid) ∧ (∀ p ∈ c.chans, ∀ x ∈ p.2, x.uid ≠ g.uid) ∧ (∀ x ∈ c.fifo, x.uid ≠ g.uid) ∧
          (∀ x ∈ c.rays, x.q.uid ≠ g.uid) ∧ ∀ x ∈ c.splits, x.uid ≠ g.uid) →
       SMap.find s.lu.grids g.grid = some r → r.num = g.grid →
       ∃ t, exec .groupEnd s = .next t ∧ t.group? g.uid = none ∧ (∀ a, (t.levelByte (.l1 g.core) a).2.1 = false) ∧
         (∀ p, g.ring = some p → SMap.find (t.core g.core).ta.ring p = none) ∧
         (r.endedCount + 1 ≠ r.total → SMap.find t.lu.grids r.num = some { r with
           placed := r.placed.erase g.gid, endedCount := r.endedCount + 1, asked := r.asked.filter (· != g.gid) }) ∧
         (r.endedCount + 1 = r.total → SMap.sorted s.lu.grids = true → ∀ r', SMap.find t.lu.grids r.num = some r' → r'.ended = true)) ∧
     (∀ r g gid, SMap.find s.lu.grids s.ctl.arg.uid = some r → r.num = s.ctl.arg.uid → r.ready = true → r.asked = none →
       r.waiting = some gid → s.placeGrid r = none → (g.uid, g) ∈ s.groups → SMap.sorted s.groups = true →
       g.grid = r.num → g.started = true → g.preempt = false → 2 ^ r.ln.quantum ≤ g.timer →
       (∀ p ∈ s.groups, p.2.grid = r.num → p.2.started = true → p.2.uid ≠ g.uid → p.2.timer < g.timer ∨ (p.2.timer = g.timer ∧ g.gid < p.2.gid)) →
       (∀ p ∈ s.groups, p.2.uid = p.1) →
       ∃ t, exec .quantumExpiry s = .next t ∧ t.group? g.uid = some { g with preempt := true, toHead := false } ∧
         (∀ u, u ≠ g.uid → t.group? u = s.group? u) ∧
         t = { s with groups := t.groups, lu := { s.lu with grids := SMap.put s.lu.grids r.num { r with asked := some g.gid } } })) ∧
  ((∀ (s : State) (g : Group) (r : Grid), s.group? s.ctl.arg.uid = some g → g.uid = s.ctl.arg.uid → s.routinesEnded g = true →
     SMap.find s.lu.grids g.grid = some r → r.num = g.grid →
     let va := g.ln.ctxbase.toNat + 0x411000 * g.gid + 0x200080
     let u := s.translate g.core g.tenant g.asid va
     (∀ p, u.2 = .ok p → p.w = true → p.pa % 128 = 0 →
       ∃ t s1 x, exec .groupSaveComplete s = .next t ∧ s1 = (u.1.gStoreList g.core g.tenant 3 p g.imageBytes) ∧ g.imageBytes.length = 1096 ∧
         SameBytes u.1 s1 (fun a => p.pa ≤ a ∧ a < p.pa + 1096) ∧
         (p.kind = 0 → ∀ i < 1096, some (memByte s1.mem (p.pa + i)) = g.imageBytes[i]?) ∧
         t = { s1.release g.tenant g.core 3 with
           groups := SMap.del s.groups g.uid,
           lu := { s.lu with
             saved := SMap.put s.lu.saved g.uid x,
             grids := SMap.put s.lu.grids r.num { r with
               placed := r.placed.erase g.gid, asked := r.asked.filter (· != g.gid),
               head := if g.toHead then g.gid :: r.head else r.head, tail := if g.toHead then r.tail else r.tail ++ [g.gid] } } } ∧
         x = { g with started := false, preempt := false, timer := 0, side := 0, replayed := false, image := true,
                      savedAs := x.savedAs, pipes := [], warps := x.warps } ∧
         (∃ v, x.savedAs = some v ∧ v.bars = g.bars ∧ (∀ n, v.aEntry = some n ↔ g.a.mode = .saved n) ∧
           (∀ k w n, g.warp? k = some w → SMap.sorted g.warps = true → (SMap.find v.warps k = some n ↔ w.mode = .saved n)) ∧
           (∀ k w n, g.warp? k = some w → SMap.sorted g.warps = true → (SMap.find v.held k = some n ↔ w.keptPop = some n)) ∧
           (∀ k w, g.warp? k = some w → SMap.get 0 v.counts k = w.safecnt)) ∧
         ∀ k w, g.warp? k = some w → x.warp? k = some { w with queries := [] }) ∧
     (∀ p, u.2 = .ok p → p.w = false → exec .groupSaveComplete s =
       .next (u.1.gridFault g 64 Cause.prot.code 0 g.a.apc (BitVec.ofNat 64 va) true)) ∧
     (∀ k, u.2 = .error k → ∃ t, exec .groupSaveComplete s = .next t ∧
       t.group? g.uid = some { g with frozenIO := some { asid := g.asid, va := va, cause := k, agent := 1 } })) ∧
   (∀ (s : State) (g : Group), s.group? s.ctl.arg.uid = some g → g.uid = s.ctl.arg.uid → g.started = false → g.image = true →
     g.frozenIO = none →
     let va := g.ln.ctxbase.toNat + 0x411000 * g.gid + 0x200080
     let u := (s.acquire g.core 3).translate g.core g.tenant g.asid va
     (∀ p, u.2 = .ok p → p.r = true → let rd := u.1.gLoadList g.core g.tenant 3 p 1096
       imageZeros rd.2 = false → exec .groupResumption s =
         .next (rd.1.gridFault g 64 Cause.prot.code 0 g.a.apc (BitVec.ofNat 64 va) true)) ∧
     (∀ p v, u.2 = .ok p → p.r = true → g.savedAs = some v → v.kept = [] →
       let rd := u.1.gLoadList g.core g.tenant 3 p 1096
       imageZeros rd.2 = true → ∃ g', exec .groupResumption s = .next (rd.1.setGroup g') ∧ Warmed s rd.1 ∧ rd.2.length = 1096 ∧
         g' = { g with started := true, image := false, smem := [], timer := 0, queues := g'.queues, warps := g'.warps, a := g'.a } ∧
         g'.queues = imageQueues rd.2 ∧
         (∀ k w n, g.warp? k = some w → SMap.find v.warps k = some n → ∃ w', g'.warp? k = some w' ∧ w'.mode = .restoring n ∧
           w'.keptPop = SMap.find v.held k ∧ w'.tags = w.tags ∧ w'.regs = Regs.zero ∧ w'.trap = w.trap ∧ w'.dfrec = w.dfrec ∧ w'.safecnt = SMap.get 0 v.counts k ∧ w'.lastSafe = some n ∧ w'.tframe.toNat = w.tframe.toNat ∧
           w'.inHandler = false ∧
           ∀ t, w'.thread t = if t < (if g.ln.kern.legacy then 16 else 32) then .live (BitVec.ofNat 32 (g.kern.routine n 1)) else .exited) ∧
         (∀ k w, g.warp? k = some w → SMap.find v.warps k = none → ∃ w', g'.warp? k = some w' ∧ w'.exited = true) ∧
         (∀ n, v.aEntry = some n → g'.a.mode = .restoring n ∧ g'.a.apc = BitVec.ofNat 32 (g.kern.routine n 3) ∧ g'.a.restart = true ∧
           g'.a.ended = false) ∧ (v.aEntry = none → g'.a.ended = true)) ∧
     (∀ p, u.2 = .ok p → p.r = false → exec .groupResumption s =
       .next (u.1.gridFault g 64 Cause.prot.code 0 g.a.apc (BitVec.ofNat 64 va) true)) ∧
     (∀ k, u.2 = .error k → ∃ t, exec .groupResumption s = .next t ∧
       t.group? g.uid = some { g with frozenIO := some { asid := g.asid, va := va, cause := k, agent := 0 } })) ∧
   ∀ g : Group, g.queues.fmt.length ≤ 16 → g.queues.b1.length ≤ 16 → g.queues.b2.length ≤ 16 → g.queues.b3.length ≤ 16 →
     g.queues.g4.length ≤ 16 → g.queues.g5.length ≤ 16 → g.queues.t6.length ≤ 16 → g.queues.t7.length ≤ 16 →
     imageQueues g.imageBytes = g.queues ∧ ((∀ p, g.ring = some p → p < 8) → imageZeros g.imageBytes = true))

/-- A turn of the traversal makes the next step of R321 for its deepest call: it starts at the root or completes an unusable query with CAUSE 1 (R315); opens
nodes and leaves, and the parts of a rectangle in order; spills a ninth entry and resumes one read back, stopping on a broken one, and an
untouched entry is resumed as it was (R323); tests every ray of a small rectangle against every triangle of a leaf, the closest hit standing (R322); forms
the split records of a box leaf (R324); ends when no call is open; and then finds the pages of its result entries, none of them written
before all can be, and writes one entry in a turn in a free order, INVAL and faulted ones writing none (R327, R330). A 16-byte unit is read in each turn (R333); the depth is checked before a node is
read, and where a rectangle's bounds are not finite the classes are free (log 16).

The ray engine takes the oldest query of its FIFO into a free context, one of 64 until its traversal ends; emits a split record when the queue and the budget allow;
starts spawned warps from a query's records in their order, with their words and rays preloaded; and, once the traversal has ended,
its results are written and no thread of it is left, places the completion record at the thread (R306, R324 to R326, R328, R329). Which free slot
a spawned warp takes is its event's choice (log 34). -/
def Obligations.RaySteps : Prop :=
  (∀ (s : State) (k n : Nat) (x : RayCtx) (g : Group), (s.core k).rays[n]? = some x → s.group? x.q.uid = some g → x.park = none →
    x.written = false → x.cause = none → x.emits = [] →
    let inPlace (y : RayCtx) : Prop := s.RayBecomes k n s y
    (x.started = false → (x.q.inval = true → inPlace { x with started := true, cause := some 1, written := true }) ∧
      (x.q.inval = false → s.RayCalls k n g x { x with started := true } x.q.root x.q.all)) ∧
    (x.started = true → x.stack = [] → x.spilled = 0 → inPlace { x with cause := some 0 }) ∧
    (x.started = true → x.stack = [] → 0 < x.spilled → x.back = none →
      let l := (List.range 16).map fun i => s.spByte g (x.q.spill + 16 * (x.spilled - 1) + i)
      let v := leNat l
      let r := Rect.ofWord (v / 2 ^ 64 % 2 ^ 32)
      let call := v / 2 ^ 96 % 4
      let fin := v / 2 ^ 98 % 2
      let slot := v / 2 ^ 104 % 256
      let broken : Prop := v / 4 % 32 ≠ 0 ∨ v / 2 ^ 99 % 32 ≠ 0 ∨ v / 2 ^ 112 ≠ 0 ∨ (call = 2 ∧ 4 ≤ slot) ∨ (call ≠ 2 ∧ slot ≠ 0) ∨ call = 3 ∨
        (fin = 1 ∧ v % 4 ≠ 0) ∨ r.inside x.q = false
      (broken → inPlace (x.stopped 3)) ∧
      (¬ broken → inPlace { x with back := some { node := v % 2 ^ 64 / 4 * 4, rect := r, call := call, next := if fin = 1 then 4 else v % 4, slot := slot,
                                                  data := 0, cls := [] } })) ∧
    (∀ f, x.started = true → x.stack = [] → 0 < x.spilled → x.back = some f → let b := s.rayUnit g x.buf f.node 8
      (∀ l, b.2 = .more l → s.RayBecomes k n b.1 { x with buf := l }) ∧
      ∀ l, b.2 = .got l → let d := BitVec.ofNat 1024 (leNat l)
        (nodeBad d = true → s.RayBecomes k n b.1 (x.stopped 3)) ∧
        (nodeBad d = false → x.q.finite f.rect = true → s.RayBecomes k n b.1 { x with
          stack := [{ f with data := d, cls := (nodeFrame x.q f.node f.rect d).cls }], spilled := x.spilled - 1, back := none, buf := [] })) ∧
    ∀ f rest, x.started = true → x.stack = f :: rest →
      let up : RayCtx := { x with stack := { f with next := f.next + 1 } :: rest }
      let here := (f.cls[f.next]?).getD 0
      (f.call = 0 → 4 ≤ f.next → inPlace { x with stack := rest }) ∧
      (f.call = 0 → f.next < 4 → here ≠ 1 → inPlace up) ∧
      (f.call = 0 → f.next < 4 → here = 1 →
        (nodeKind f.data f.next = 1 → s.RayCalls k n g x up (nodeAddr f.data f.next) f.rect) ∧
        (nodeKind f.data f.next = 2 → s.RayLeaf k n x up f f.next f.rect) ∧
        (nodeKind f.data f.next = 3 → x.q.budget = 0 → inPlace up) ∧
        (nodeKind f.data f.next = 3 → x.q.budget ≠ 0 → (∀ p ∈ f.rect.cut x.q.budget 14, x.q.finite p = true) →
          inPlace { up with emits := (f.rect.cut x.q.budget 14).map fun p =>
            let c := classify x.q p (nodeBox f.data f.next)
            [BitVec.ofNat 32 (2 ^ 24 * p.h + 2 ^ 16 * p.w + 2 ^ 8 * p.j0 + p.i0), BitVec.ofNat 32 (2 ^ 21 * x.q.slot + 2 ^ 16 * x.q.lane + x.q.tag),
             f32r .rd c.entry, f32r .ru c.exit, BitVec.ofNat 32 f.node, BitVec.ofNat 32 (f.node / 2 ^ 32), BitVec.ofNat 32 (nodeRef f.data f.next)] })) ∧
      (f.call = 1 ∨ f.call = 2 → f.rect.quadrants[f.next]? = none → inPlace { x with stack := rest }) ∧
      (f.call = 1 → ∀ r, f.rect.quadrants[f.next]? = some r → s.RayCalls k n g x up f.node r) ∧
      (f.call = 2 → ∀ r, f.rect.quadrants[f.next]? = some r → s.RayLeaf k n x up f f.slot r) ∧
      (f.call = 3 → let count := nodeCnt f.data f.slot + 1
        let b := s.rayUnit g x.buf (nodeAddr f.data f.slot) (3 * count)
        (∀ l, b.2 = .more l → s.RayBecomes k n b.1 { x with buf := l }) ∧
        ∀ l, b.2 = .got l → let tri (i : Nat) := triOf ((l.drop (48 * i)).take 48)
          ((∃ i < count, tri i = none) → s.RayBecomes k n b.1 (x.stopped 3)) ∧
          ((∀ i < count, tri i ≠ none) → ∃ hits, s.RayBecomes k n b.1 { x with stack := rest, hits := hits, buf := [] } ∧
            (f.rect.i0 + f.rect.w ≤ 64 → ∀ i j, i < 64 →
              let old := SMap.find x.hits (64 * j + i)
              let now := SMap.find hits (64 * j + i)
              let met (h : Hit) : Prop := ∃ m < count, ∃ A B C, tri m = some (A, B, C, h.prim) ∧ triTest x.q (x.q.dir i j) A B C = some h.t
              let mine : Prop := f.rect.i0 ≤ i ∧ i < f.rect.i0 + f.rect.w ∧ f.rect.j0 ≤ j ∧ j < f.rect.j0 + f.rect.h
              (¬ mine → now = old) ∧
              (mine → (now = none ↔ old = none ∧ ∀ h, ¬ met h) ∧
                ∀ h, now = some h → (old = some h ∨ met h) ∧ ∀ c, (old = some c ∨ met c) → c.closer h = false))))) ∧
  (∀ (s : State) (k n cause : Nat) (x : RayCtx) (g : Group), (s.core k).rays[n]? = some x → s.group? x.q.uid = some g → x.park = none →
    x.written = false → x.cause = some cause →
    let all := List.range (x.q.rows * x.q.cols)
    let p := s.resultPages g (all.map x.place)
    (x.q.kind = 1 ∨ cause ≠ 0 → s.RayBecomes k n s { x with written := true }) ∧
    (x.q.kind ≠ 1 → cause = 0 → x.left = none → x.q.rsp = true → s.RayBecomes k n s { x with left := some (all.map fun i => (i, none)) }) ∧
    (x.q.kind ≠ 1 → cause = 0 → x.left = none → x.q.rsp = false →
      (∀ ps, p.2 = .ok ps → Warmed s p.1 ∧ ps.length = all.length ∧ (∀ q ∈ ps, q.w = true) ∧
        s.RayBecomes k n p.1 { x with left := some (all.zip (ps.map some)) }) ∧
      (∀ i < all.length, 2 ^ 52 ≤ x.place i → ∃ c u, p.2 = .error c ∧ (c = .cause 2 → s.RayBecomes k n u (x.stopped 2)))) ∧
    (∀ l, x.q.kind ≠ 1 → cause = 0 → x.left = some l → l ≠ [] → ∃ e ∈ l, ∃ u : State, s.RayBecomes k n u
        { x with left := some (l.erase e), written := (l.erase e).isEmpty } ∧
      let s1 : State := { s with ctl := { s.ctl with fresh := u.ctl.fresh } }
      let v := match SMap.find x.hits (64 * (e.1 / x.q.cols) + e.1 % x.q.cols) with
        | some h => h.t.toNat + 2 ^ 32 * h.prim.toNat
        | none => 0xFFFFFFFF7F800000
      (e.2 = none → u = s1.spPuts g.uid (x.place e.1) (leBytes 8 v)) ∧
      ∀ p, e.2 = some p → u = (s1.gStore g.core g.tenant 0 p 8 v).wroteOne g.uid p 8)) ∧
  (∀ (q : RayQuery) (f : RayFrame), f.node % 128 = 0 → f.node < 2 ^ 64 → f.rect.inside q = true → f.call < 3 → f.next ≤ 4 → f.slot < 4 →
    (f.call ≠ 2 → f.slot = 0) → f.bytes.length = 16 ∧ frameOf q f.bytes = some { f with data := 0, cls := [] }) ∧
  (∀ (q : RayQuery) (d A B C : Nat → Word), (∀ c < 3, (f32v (d c)).isZero = true) → triTest q d A B C = none) ∧
  (∀ (q : RayQuery) (d A B C : Nat → Word) (t : Word), triTest q d A B C = some t →
    (f32v t).isFin = true ∧ (f32v t).lt (f32v q.tmin) = false ∧ (f32v q.tmax).lt (f32v t) = false) ∧
  ∀ s : State, let a := s.ctl.arg
    let c := s.core a.core
    let waits : Host.Outcome State Fault Refusal := .next { s with ctl := { s.ctl with wait := true } }
    let placed (t : State) (q : RayQuery) (g : Group) (w : Warp) (f : QueryRef → QueryRef) : Prop :=
      t.group? q.uid = some (g.setWarp q.slot { w with queries := updFirst (fun x => x.id == q.id) f w.queries }) ∧
      ∀ u, u ≠ q.uid → t.group? u = s.group? u
    let coreIs (t : State) (x : Core) : Prop :=
      t = { s with cores := t.cores, groups := t.groups } ∧ ∀ k, t.core k = if k = a.core then x else s.core k
    (∀ q rest g w, c.fifo = q :: rest → s.group? q.uid = some g → g.uid = q.uid → g.warp? q.slot = some w →
      let held := (c.rays.filter fun x => x.cause.isNone).length
      (64 ≤ held → exec .rayQueryTake s = waits) ∧
      (held < 64 → ∃ t x, exec .rayQueryTake s = .next t ∧ coreIs t { c with fifo := rest, rays := c.rays ++ [x] } ∧
        x.q = q ∧ x.started = false ∧ x.stack = [] ∧ x.emits = [] ∧ x.hits = [] ∧ x.records = 0 ∧ x.begun = 0 ∧ x.cause = none ∧
        x.buf = [] ∧ x.back = none ∧ x.left = none ∧ x.written = false ∧ x.park = none ∧ placed t q g w fun y => { y with st := 2 })) ∧
    (∀ x w0 ws rest, c.rays[a.ch]? = some x → x.emits = (w0 :: ws) :: rest →
      let i0 := w0.toNat % 256
      let j0 := w0.toNat / 2 ^ 8 % 256
      let w := w0.toNat / 2 ^ 16 % 256
      let h := w0.toNat / 2 ^ 24
      (4096 ≤ c.splits.length ∨ x.q.budget < s.rayThreads a.core x.q + w * h → exec .splitRecordEmit s = waits) ∧
      (c.splits.length < 4096 → s.rayThreads a.core x.q + w * h ≤ x.q.budget → ∃ t r, exec .splitRecordEmit s = .next t ∧
        coreIs t { c with splits := c.splits ++ [r], rays := c.rays.set a.ch { x with emits := rest, records := x.records + 1 } } ∧
        t.groups = s.groups ∧ r.uid = x.q.uid ∧ r.id = x.q.id ∧ r.words = w0 :: ws ∧
        r.entry = x.q.entry ∧ r.rays.length = w * h ∧ ∀ i < w, ∀ j < h, r.rays[j * w + i]? = some (i0 + i, j0 + j))) ∧
    (∀ x g, c.rays[a.ch]? = some x → s.group? x.q.uid = some g → g.uid = x.q.uid →
      let width := if g.kern.legacy then 16 else 32
      let all (l : List SplitRec) : List (List Word × Nat × Nat) :=
        (l.filter fun r => r.of x.q).flatMap fun r => r.rays.map fun p => (r.words, p.1, p.2)
      let busy : Prop := a.slot < 32 ∨ 32 + g.kern.spawn ≤ a.slot ∨ ∃ w, g.warp? a.slot = some w ∧ w.exited = false
      (busy → exec .spawnWarpStart s = waits) ∧
      (¬ busy → all c.splits ≠ [] → ∃ t w left, exec .spawnWarpStart s = .next t ∧
        let ts := (all c.splits).take width
        all left = (all c.splits).drop width ∧ (left.filter fun r => !r.of x.q) = (c.splits.filter fun r => !r.of x.q) ∧
        coreIs t { c with splits := left, rays := c.rays.set a.ch { x with
          begun := if x.cause = none ∨ x.cause = some 0 then x.begun + ts.length else x.begun } } ∧
        t.group? x.q.uid = some (g.setWarp a.slot w) ∧ (∀ u, u ≠ x.q.uid → t.group? u = s.group? u) ∧
        w = { Warp.fresh w.threads (g.ln.ctxbase.toNat + 0x411000 * g.gid + 0x8000 * a.slot) with regs := w.regs, spawnOf := w.spawnOf } ∧
        (∀ k, w.thread k = if k < width ∧ k < ts.length then .live (BitVec.ofNat 32 (8 * x.q.entry))
          else if k < width ∧ k / 4 * 4 < ts.length then .helper else .exited) ∧
        (∀ (k : Nat) (ws : List Word) (i j : Nat), ts[k]? = some (ws, i, j) → (∀ n < 7, w.regs.get n k = (ws[n]?).getD 0) ∧
          w.regs.get 7 k = BitVec.ofNat 32 (2 ^ 8 * j + i)) ∧
        (∀ n < 8, bit w.regs.vmap n = true) ∧
        (bit g.kern.preload 0 = true → 32 ≤ a.slot → ∀ k < width, w.regs.get 8 k = BitVec.ofNat 32 (1024 + 32 * (a.slot - 32) + k)))) ∧
    (∀ x g w, c.rays[a.ch]? = some x → s.group? x.q.uid = some g → g.uid = x.q.uid → g.warp? x.q.slot = some w →
      let done : Prop := x.cause ≠ none ∧ x.written = true ∧ s.rayThreads a.core x.q = 0
      let status (k : Nat) : Word := BitVec.ofNat 32 (2 ^ 30 * x.q.kind + 2 ^ 24 * k + x.q.tag)
      (¬ done → exec .rayQueryComplete s = waits) ∧
      (done → ∀ k, x.cause = some k → ∃ t ws, exec .rayQueryComplete s = .next t ∧ coreIs t { c with rays := c.rays.eraseIdx a.ch } ∧
        placed t x.q g w (fun y => { y with st := 3, words := ws }) ∧
        (x.q.kind = 1 → ∀ h, SMap.find x.hits 0 = some h → k = 0 → ws = [status k, h.t, h.prim, 0]) ∧
        (x.q.kind = 1 → SMap.find x.hits 0 = none ∨ k ≠ 0 → ws = [status k, 0x7F800000, 0xFFFFFFFF, 0]) ∧
        (x.q.kind ≠ 1 → ws = [status k, BitVec.ofNat 32 (if k = 0 then x.hits.length else 0), BitVec.ofNat 32 x.records,
          BitVec.ofNat 32 x.begun])))

/-- HEADCFG: it enables a disabled head at once, and waits for the end of the frame of an enabled one, behind others that do; their
effect is the same then, in their order, from line 0 of the new frame 0, and completes the packets. Disabling acts at once, the changes
that wait completing with it (log 36), and a disabled head sends black video of its mode (R357, R360, R361). -/
def Obligations.HeadChanges : Prop :=
  ∀ s : State,
    (∀ h c, s.thisChange = some (h, c) →
      ((s.head h).on = true → ∃ t s1 : State, exec .headcfgEnable s = .next t ∧
        s1.Settles (fun x => { x with st := max 1 x.st }) none t ∧ s1 = { s with heads := s1.heads } ∧
        ∀ k, s1.head k = if k = h then { s.head k with pending := (s.head k).pending ++ [c] } else s.head k) ∧
      ((s.head h).on = false → h < 4 → recVtotal c.record ≠ 0 → 8 + recLatch c.record ≤ 2 * recVtotal c.record →
        ∃ t s1 : State, exec .headcfgEnable s = .next t ∧ HeadApplied s s1 h c (-(2 * (recVtotal c.record : Int))) ∧
          s1.SettlesAt c.id c.n (fun x => { x with st := 2 }) none t) ∧
      (∃ t s1 : State, exec .headcfgDisable s = .next t ∧ s1.SettlesEach ((s.head h).pending ++ [c]) t ∧
        s1 = { s with heads := s1.heads, lines := s1.lines, mx := s1.mx, frame := s1.frame, mem := s1.mem,
                      fw := { s.fw with fcpmb := s1.fw.fcpmb, marked := s1.fw.marked } } ∧
        (∀ k, s1.head k = if k = h then { s.head k with
            on := false, pending := [], due := [], queue := [], live := [],
            counters := [], prevPose := [], prog := [] } else s.head k) ∧
        (∀ n < 32, (s.line n).head = h → (s1.line n).st = .idle) ∧
        (∀ n < 32, (s.line n).head ≠ h → s1.line n = s.line n) ∧
        (c.fcpmb ≠ 0xFF → s1.fw.fcpmb = c.fcpmb ∧ s1.frame.length ≤ 8192 * c.fcpmb ∧ ∀ p ∈ s1.frame, p.2.dirty = 0) ∧
        (c.fcpmb = 0xFF → s1.frame = s.frame ∧ s1.mem = s.mem ∧ s1.fw.fcpmb = s.fw.fcpmb))) ∧
    (∀ cs c, let h := s.ctl.arg.head
      (s.head h).due.head? = some .effect → (s.head h).pending = cs ++ [c] → ∃ t, exec .headcfgEffect s = .next t ∧
        (t.head h).on = true ∧ (t.head h).tenant = c.queue / 64 ∧ (t.head h).record = c.record ∧ (t.head h).prog = c.prog ∧
        (t.head h).pending = [] ∧ (t.head h).line = 0 ∧ (t.head h).queue = [] ∧ (t.head h).linkCfg = c.link ∧
        (∀ k, k ≠ h → t.head k = s.head k) ∧ (∀ n < 32, (s.line n).head = h → (t.line n).st = .idle) ∧
        (∀ b ∈ (t.head h).live, b.frame * recVtotal c.record + 16 * b.band < 8 + recLatch c.record ∧ b.kept = true ∧ b.lcore = none) ∧
        (∀ f b, b < (recHeight c.record + 15) / 16 → f * recVtotal c.record + 16 * b < 8 + recLatch c.record →
          recVtotal c.record ≠ 0 → ∃ d, (t.head h).band? f b = some d ∧
            (f * recVtotal c.record + 16 * b < 8 → d.outcome = some 3))) ∧
    ∀ h, let x := s.head h
      let y := ((x.line + 1) % (recVtotal x.record : Int)).toNat
      x.on = false → x.link = true → y < recHeight x.record → recVtotal x.record ≠ 0 →
        ∃ codes, (s.tickLine h 1).ctl.out = s.ctl.out ++ [.video h y codes] ∧ codes.length = 3 * recWidth x.record ∧
          (∀ v ∈ codes, v = linkCode (8 + 2 * recBpc x.record) 0) ∧ (s.tickLine h 1).head h = { x with line := x.line + 1 }

/-- The points of a head. RENDER_SET_LATCH completes: it adopts a whole descriptor or keeps the set it has. POSE_LATCH completes: it adopts
a pose between writes or keeps the last, and the band enters the band queue; each latch is one step (log 37). BAND_DISPATCH completes before
the deadline: the oldest band goes to the lowest free line core. BAND_DEADLINE completes: it settles the outcome and, for every
other than 0, the Virga fallback's pixels. BAND_SCAN_OUT completes: the status entry, with its SLACK, and every pixel, with alpha +0, are written where a page
takes them (on a page without W the head writes nothing, log 35), the band goes to the sink and leaves, and a core that still runs it is stopped.

The fallback's matrix is the identity for a pose that cannot be used and for one that has not turned from (0, 0, 0, 1.0); then, with
the spec's FX, FY, CX and CY, a pixel reads its own texel with weights 0 and repeats it bit for bit (R197, R200, R362 to R372). -/
def Obligations.HeadPoints : Prop :=
  (∀ s : State, let h := s.ctl.arg.head
    let x := s.head h
    let s0 := s.setHead h { x with due := x.due.tail }
    let asid := recAsid x.record
    let raised (c : SMap Word) (k n : Nat) : Word := SMap.get 0 c n + (if n = k then 1 else 0)
    (∀ f, x.due.head? = some (.renderSet f) → ∃ t cs, exec .renderSetLatch s = .next t ∧ Warmed s { t with heads := s.heads } ∧
      (∀ k, k ≠ h → t.head k = s.head k) ∧
      let v := s0.vaNat x.tenant asid (recRstab x.record) 64 .read
      let d (n : Nat) : State × Option Nat := v.1.vaNat x.tenant asid (recRstab x.record + 64 + 128 * (n % 4)) 128 .read
      (∀ n m rs, v.2 = some n → n < 2 ^ 32 → (d n).2 = some m → m % 2 ^ 32 = n → rsOf (BitVec.ofNat 1024 m) = some rs →
        t.head h = { x with due := x.due.tail, rs := rs, rskept := false }) ∧
      ((v.2 = none ∨ ∃ n, v.2 = some n ∧ (2 ^ 32 ≤ n ∨ (d n).2 = none ∨ ∃ m, (d n).2 = some m ∧ (m % 2 ^ 32 ≠ n ∨ rsOf (BitVec.ofNat 1024 m) = none))) →
        t.head h = { x with due := x.due.tail, rskept := true, counters := cs } ∧ ∀ n, SMap.get 0 cs n = raised x.counters 3 n)) ∧
    (∀ f b, x.due.head? = some (.pose f b) → ∃ t cs, exec .poseLatch s = .next t ∧ Warmed s { t with heads := s.heads } ∧
      (∀ k, k ≠ h → t.head k = s.head k) ∧
      let v := s0.vaNat x.tenant asid (recMailbox x.record) 64 .read
      let entered (pose : List Word) (seq : Word) (kept : Bool) (c : SMap Word) : Prop :=
        t.head h = { x with
          due := x.due.tail, pose := pose, poseseq := seq, counters := c, queue := x.queue ++ [(f, b)],
          live := x.live ++ [{ frame := f, band := b, pose := pose, poseseq := seq, kept := kept, rs := x.rs, rskept := x.rskept,
                               lcore := none, doneAt := none, cause := 0, outcome := none, pixels := [] }] }
      (∀ n, v.2 = some n → n % 2 = 0 → n / 2 ^ 32 % 2 ^ 96 = 0 →
        entered ([0, 1, 2, 3, 4, 5, 6, 7].map fun i => BitVec.ofNat 32 (n / 2 ^ (128 + 32 * i))) (BitVec.ofNat 32 n) false x.counters) ∧
      ((v.2 = none ∨ ∃ n, v.2 = some n ∧ (n % 2 = 1 ∨ n / 2 ^ 32 % 2 ^ 96 ≠ 0)) →
        entered x.pose x.poseseq true cs ∧ ∀ n, SMap.get 0 cs n = raised x.counters 2 n)) ∧
    (∀ f b rest n d, x.queue = (f, b) :: rest → x.band? f b = some d → n < 32 → bit (recLcmask x.record) n = true →
      (s.line n).st ≠ .running → (∀ k < n, bit (recLcmask x.record) k = true → (s.line k).st = .running) →
      (x.pointD f b ≤ x.line → exec .bandDispatch s = .next { s with ctl := { s.ctl with wait := true } }) ∧
      (x.line < x.pointD f b → ∃ t c, exec .bandDispatch s = .next t ∧ t = { s with heads := t.heads, lines := t.lines, mx := t.mx } ∧
        (∀ k, k ≠ h → t.head k = s.head k) ∧ (∀ k, k ≠ n → t.line k = s.line k) ∧
        t.head h = { x with queue := rest, live := (t.head h).live } ∧ (t.head h).band? f b = some { d with lcore := some n } ∧
        t.line n = c ∧ c.st = .running ∧ c.head = h ∧ c.band = d.band ∧ c.frame = f ∧ c.emitted = [] ∧
        c.bandid = BitVec.ofNat 32 (2 ^ 30 * h + 2 ^ 9 * (f % 2 ^ 21) + d.band) ∧ c.line0 = BitVec.ofNat 32 (16 * d.band) ∧
        (∀ i < 8, d.pose.length = 8 → SMap.get 0 c.pose i = (d.pose[i]?).getD 0) ∧
        ((s.line n).st = .waitNext → t.mx = s.mx ∧ c = { s.line n with
            st := c.st, head := c.head, band := c.band, frame := c.frame, emitted := c.emitted,
            bandid := c.bandid, line0 := c.line0, pose := c.pose }) ∧
        ((s.line n).st = .idle → c.lb = ((s.settleMx n).line n).lb ∧ t.mx = (s.mx.filter fun y => y.line != n) ∧
          c.w = [] ∧ c.z = [] ∧ c.e = [] ∧ c.spc = 0 ∧ c.mxX = [] ∧ c.mxW = [] ∧ c.mxO = []))) ∧
    (∀ f b d, x.due.head? = some (.deadline f b) → x.band? f b = some d →
      (d.outcome ≠ none → exec .bandDeadline s = .next s0) ∧
      (d.outcome = none → ∃ t o px, exec .bandDeadline s = .next t ∧ (∀ k, k ≠ h → t.head k = s.head k) ∧
        Warmed s { t with heads := s.heads, ctl := { t.ctl with fresh := s.ctl.fresh } } ∧
        (t.head h).band? f b = some { d with outcome := some o, pixels := px } ∧
        t.head h = { x with due := x.due.tail, queue := x.queue.filter (· != (f, b)), prevPose := SMap.put x.prevPose b d.pose,
                            counters := (t.head h).counters, live := (t.head h).live } ∧
        (∀ n, SMap.get 0 (t.head h).counters n = raised x.counters (if o = 0 then 0 else 1) n) ∧
        (∀ n, d.doneAt = some n → (n < x.pointD f b → o = 0 ∧ px = d.pixels) ∧ (x.pointD f b ≤ n → o = 1)) ∧
        (d.doneAt = none → (d.lcore = none → o = 3) ∧ (d.lcore ≠ none → d.cause ≠ 0 → o = 2) ∧ (d.lcore ≠ none → d.cause = 0 → o = 1)) ∧
        (o ≠ 0 → s.FallbackGives h f b d.pose px))) ∧
    (∀ f b d, x.due.head? = some (.scan f b) → x.band? f b = some d → ∃ t u px, exec .bandScanOut s = .next t ∧
      (d.outcome ≠ some 3 ∨ d.pixels ≠ [] → px = d.pixels ∧ u = s) ∧
      (d.outcome = some 3 → d.pixels = [] → s.FallbackGives h f b d.pose px ∧ Warmed s { u with ctl := { u.ctl with fresh := s.ctl.fresh } }) ∧
      (∀ k, k ≠ h → t.head k = s.head k) ∧ t.cores = u.cores ∧ t.groups = s.groups ∧
      t.head h = { x with due := x.due.tail, live := x.live.filter fun k => !(k.frame == f && k.band == b) } ∧
      (∀ n < 32, (s.line n).head = h → (s.line n).frame = f → (s.line n).band = b → (t.line n).st ≠ .running) ∧
      (∀ n, ¬ ((s.line n).head = h ∧ (s.line n).frame = f ∧ (s.line n).band = b) → t.line n = s.line n) ∧
      (x.link = true → t.ctl.out = s.ctl.out ++ (List.range (x.bandLines b)).map fun y => .video h (16 * b + y) (lineCodes x.record y px)) ∧
      (x.link = false → t.ctl.out = s.ctl.out) ∧
      let status : Option Page := u.pageIO asid (recStatus x.record + 16 * (f % 2 * 270 + b)) .write
      let place (p : Nat × BitVec 48) : Option Page := u.pageIO asid (presentAt x.record f (p.1 % 8192, 16 * b + p.1 / 8192)) .write
      let written (y : Nat) : Prop := (∃ g, status = some g ∧ g.pa ≤ y ∧ y < g.pa + 16) ∨ ∃ p ∈ px, ∃ g, place p = some g ∧ g.pa ≤ y ∧ y < g.pa + 8
      (∀ m, (∀ y, ¬ written y → memByte m y = memByte u.mem y) → ∀ va need, State.pageIO { u with mem := m } asid va need = u.pageIO asid va need) →
      recStatus x.record % 16 = 0 → recPresent x.record % 128 = 0 → (s.fw.fcpmb = 0 → s.frame = []) →
        SameBytes u t written ∧
        (∀ g, status = some g → (∀ p ∈ px, ∀ g', place p = some g' → g'.pa + 8 ≤ g.pa ∨ g.pa + 16 ≤ g'.pa) →
          ∀ o, d.outcome = some o → o < 4 → d.cause < 16 → (∀ n, d.lcore = some n → n < 32) →
          let e := t.devNat g 16
          e % 2 ^ 32 = (2 ^ 30 * h + 2 ^ 9 * (f % 2 ^ 21) + b) % 2 ^ 32 ∧ e / 2 ^ 32 % 8 = o ∧ e / 2 ^ 35 % 32 = d.lcore.getD 0 ∧
          e / 2 ^ 40 % 2 = d.kept.toNat ∧ e / 2 ^ 41 % 2 = d.rskept.toNat ∧ e / 2 ^ 42 % 4 = 0 ∧ e / 2 ^ 44 % 16 = d.cause ∧
          (∀ n, d.doneAt = some n → o = 0 → e / 2 ^ 48 % 2 ^ 16 = min 0xFFFF (x.pointD f b - n).toNat) ∧ (o ≠ 0 → e / 2 ^ 48 % 2 ^ 16 = 0) ∧
          e / 2 ^ 64 % 2 ^ 32 = d.rs.seq.toNat ∧ e / 2 ^ 96 % 2 ^ 32 = d.poseseq.toNat) ∧
        ∀ p ∈ px, ∀ g, place p = some g → (∀ g', status = some g' → g.pa + 8 ≤ g'.pa ∨ g'.pa + 16 ≤ g.pa) →
          (∀ q ∈ px, q ≠ p → ∀ g', place q = some g' → g'.pa + 8 ≤ g.pa ∨ g.pa + 8 ≤ g'.pa) → t.devNat g 8 = p.2.toNat)) ∧
  (∀ qs qd, badQuat qs = true ∨ badQuat qd = true → virgaM qs qd = virgaId) ∧
  (∀ a b : List Word, virgaM (0 :: 0 :: 0 :: 0x3F800000 :: a) (0 :: 0 :: 0 :: 0x3F800000 :: b) = virgaId) ∧
  (∀ r, recFx r = 0x45000000 → recFy r = 0x45000000 → recCx r = 0x44F00000 → recCy r = 0x44F00000 →
    ∀ x y, x < 8192 → y < 8192 → virgaUv r virgaId x y = some (halfPixel x, halfPixel y)) ∧
  ∀ w n x y, w ≤ 8192 → n ≤ 8192 → x < w → y < n → footIdx (halfPixel x) (halfPixel y) w n =
      [(x, y), (min (x + 1) (w - 1), y), (x, min (y + 1) (n - 1)), (min (x + 1) (w - 1), min (y + 1) (n - 1))] ∧
    ∀ (c : Nat → Nat) (k : Nat), (∀ i < 4, c i / 2 ^ (16 * k) % 2 ^ 15 < 0x7C00 ∧ c i / 2 ^ (16 * k) % 2 ^ 16 ≠ 0x8000) →
      toHalf (footBlend (halfPixel x) (halfPixel y) w n fun i => halfChan (c i) k) = c 0 / 2 ^ (16 * k) % 2 ^ 16

/-- Requests on a bound queue pair that is not in its error state: WRITE, READ and the 8-byte atomics reach host pages of the tenant's
first ASID with the right R_Key and are answered, and are refused with NAK otherwise, as every one on the operator's pair is; a misaligned atomic and a request outside the
subset put the pair into its error state; an ECN mark sends a CNP; the oldest event of a tenant goes to its ring where there is
room (R273, R274, R431 to R434). How pairs are bound, that the operator's pair refuses every such request and what leaves the module by are the
model's choices (log 15); so is that the events of a target record with a nonzero zero field wait (log 60). -/
def Obligations.HostRequests : Prop :=
  ∀ s : State, let a := s.ctl.arg
    let sent (u : State) (m : Sent) : Host.Outcome State Fault Refusal := .next { u with ctl := { u.ctl with out := s.ctl.out ++ [m] } }
    (∀ q, SMap.find s.fw.qps a.qp = some q → q.err = false → s.fw.up = true →
      let asid := s.abase q.tenant
      let broken : State := { s with fw := { s.fw with qps := SMap.put s.fw.qps a.qp { q with err := true } } }
      let key : Prop := a.rkey = q.tenant ∧ a.rkey < 16
      exec .rdmaInvalidRequest s = sent broken (.nakInvalid a.qp) ∧
      exec .congestionNotification s = sent s (.cnp a.qp) ∧
      (¬ (key ∧ s.rangeOk asid a.va a.bytes.length .hostWrite = true) → exec .rdmaWrite s = sent s (.nakAccess a.qp)) ∧
      (¬ (key ∧ s.rangeOk asid a.va a.len .hostRead = true) → exec .rdmaRead s = sent s (.nakAccess a.qp)) ∧
      (a.va % 8 ≠ 0 → exec .rdmaFetchAdd s = sent broken (.nakInvalid a.qp) ∧ exec .rdmaCompareSwap s = sent broken (.nakInvalid a.qp)) ∧
      (a.va % 8 = 0 → ¬ (key ∧ (s.pageIO asid a.va .hostRead).isSome ∧ (s.pageIO asid a.va .hostWrite).isSome) →
        exec .rdmaFetchAdd s = sent s (.nakAccess a.qp) ∧ exec .rdmaCompareSwap s = sent s (.nakAccess a.qp)) ∧
      (key → s.rangeOk asid a.va a.len .hostRead = true → ∃ u bs, exec .rdmaRead s = sent u (.readAnswer a.qp bs) ∧ Warmed s u ∧
        bs.length = a.len ∧ ∀ i pa, i < a.len → s.PlainAt asid (a.va + i) .hostRead pa → (∀ k, k < i → ∃ q, s.PlainAt asid (a.va + k) .hostRead q) →
          bs[i]? = some (memByte s.mem pa)) ∧
      (∀ pd : Nat → Nat, key → s.rangeOk asid a.va a.bytes.length .hostWrite = true →
        (∀ i < a.bytes.length, s.PlainAt asid (a.va + i) .hostWrite (pd i)) →
        (∀ i < a.bytes.length, ∀ j < a.bytes.length, pd i = pd j → i = j) →
        (∀ i < a.bytes.length, ¬ (s.tenantField q.tenant 319 256 ≤ pd i ∧ pd i < s.tenantField q.tenant 319 256 + 16)) →
        (∀ m, (∀ x, (∀ i < a.bytes.length, x ≠ pd i) → memByte m x = memByte s.mem x) → ∀ va need,
          State.pageIO { s with mem := m } asid va need = s.pageIO asid va need ∧
          State.translateIO { s with mem := m } asid va = s.translateIO asid va) →
        ∃ u, exec .rdmaWrite s = sent u (.ack a.qp) ∧ u = { s with mem := u.mem, qi := { s.qi with posters := u.qi.posters }, fw := { s.fw with marked := u.fw.marked } } ∧
          (∀ i < a.bytes.length, some (memByte u.mem (pd i)) = a.bytes[i]?) ∧
          ∀ x, (∀ i < a.bytes.length, x ≠ pd i) → memByte u.mem x = memByte s.mem x) ∧
      (∀ pa, key → a.va % 8 = 0 → s.PlainAt asid a.va .hostRead pa → s.PlainAt asid a.va .hostWrite pa →
        (pa + 8 ≤ s.tenantField q.tenant 319 256 ∨ s.tenantField q.tenant 319 256 + 16 ≤ pa) → s.tenantField q.tenant 319 256 % 64 = 0 →
        (∀ m, (∀ x, x < pa ∨ pa + 8 ≤ x → memByte m x = memByte s.mem x) → ∀ va,
          State.translateIO { s with mem := m } asid va = s.translateIO asid va) →
        let old := memNat s.mem pa 8
        ∀ ins ∈ ([(.rdmaFetchAdd, (old + a.val.toNat) % 2 ^ 64),
            (.rdmaCompareSwap, if old = a.cmp.toNat then a.val.toNat else old)] : List (Instr × Nat)),
          ∃ u, exec ins.1 s = sent u (.readAnswer a.qp (leBytes 8 old)) ∧ u = { s with
              mem := u.mem, qi := { s.qi with posters := u.qi.posters }, fw := { s.fw with counts := u.fw.counts, marked := u.fw.marked } } ∧
            (∀ k, SMap.get 0 u.fw.counts k = SMap.get 0 s.fw.counts k + if k = countKey q.tenant 9 (homeDie pa) then 1 else 0) ∧
            memNat u.mem pa 8 = ins.2 ∧ ∀ x, x < pa ∨ pa + 8 ≤ x → memByte u.mem x = memByte s.mem x)) ∧
    (∀ l1 e l2, s.fw.up = true → (SMap.find s.fw.tenants a.queue).isSome → s.fw.events = l1 ++ (a.queue, e) :: l2 →
      (∀ x ∈ l1, x.1 ≠ a.queue) →
      let rec_ := s.tenantField a.queue 255 192
      let n := s.physNat rec_ 8
      let size := 2 ^ s.tenantField a.queue 183 176
      let full := s.physNat (rec_ + 24) 8 + size
      let whole := s.physNat rec_ 64
      let zeros : Prop := whole / 2 ^ 256 = 0 ∧ whole / 2 ^ 129 % 2 ^ 7 = 0
      (full ≤ n ∨ ¬ zeros → exec .eventSend s = .next { s with ctl := { s.ctl with wait := true } }) ∧
      (n < full → zeros → ∃ u, exec .eventSend s = sent u (.event a.queue (bitsOf (s.physNat rec_ 32) 128 128)
          (bitsOf (s.physNat rec_ 32) 159 136) (bitsOf (s.physNat rec_ 32) 191 160) (BitVec.ofNat 64 (s.physNat (rec_ + 8) 8 + 64 * (n % size))) e) ∧
        u = { s with mem := u.mem, ringp := u.ringp, frame := u.frame, fw := { s.fw with events := l1 ++ l2, marked := u.fw.marked } } ∧
        u.physNat rec_ 8 = (n + 1) % 2 ^ 64 ∧ ∀ x, x < rec_ ∨ rec_ + 8 ≤ x → u.physByte x = s.physByte x))

/-- Operator messages: an attestation report answers a 48-byte nonce and uses up a leaf, while one of the 2^40 is left (log 52); a
message whose counter is not above the
stored one or whose signatures fail is refused and changes nothing; PROVISION writes the tenant's record, clears its counts, binds its
pairs, registers its control ring and zeroes SENT, HOSTRD and the zero fields of its event target record, UPDATE replaces its part of flash, and RESET brings the module up
from flash with memory kept; a pair in its error state drops them (log 15). Bring-up takes the first image that verifies and the
configuration record with its cores and ports, or leaves the module down; power-on starts
with empty memory, and the loss of input power leaves flash alone (R375, R428, R433, R435, R438 to R442, R445, R482). That memory is kept
over RESET and empty at POWER_ON (log 51), the refusal of a record that breaks R375 (log 49) and what a signature covers (log 8) are
the model's choices.

A thermal stop stops the core clk of every core and a restart starts it; the clock-gate level moves by one step against the cap;
a link goes down and comes up at the same rate (R437, R443, R444); that power is measured in mW is log 53's. -/
def Obligations.MessagesAndPower : Prop :=
  (∀ s : State, let a := s.ctl.arg
     let fl := s.fw.flash
     let down (t : State) (f : Flash) : Prop := t.groups = [] ∧ t.cores = [] ∧ t.mem = [] ∧ t.heads = [] ∧ t.lines = [] ∧ t.qi = QueueInt.reset ∧
       t.lu = LaunchUnit.reset ∧ t.fw.up = false ∧ t.fw.flash = f ∧ t.fw.tenants = [] ∧ t.ctl.out = s.ctl.out
     let brought (t : State) (f : Flash) (mem : List Host.Cell) (out : List Sent) : Prop :=
       let img := if f.imageOk f.imageA then f.imageA else f.imageB
       let good : Prop := (f.imageOk f.imageA = true ∨ f.imageOk f.imageB = true) ∧ f.configOk img = true
       (good → t = { State.reset with
         mem := mem,
         fw := { Firmware.reset with
                 image := if f.imageOk f.imageA then 0 else 1, running := img, config := f.config,
                 ports := (List.range 2).map fun p =>
                   { fast := decide (bytesAt f.config 38 1 / 2 ^ p % 2 = 1), mac := BitVec.ofNat 48 (bytesAt f.config (40 + 6 * p) 6) },
                 cores := BitVec.ofNat 160 (bytesAt f.config 16 20),
                 flash := { f with rollback := BitVec.ofNat 32 (max f.rollback.toNat (Config.imageVersion img)) } },
         ctl := t.ctl }) ∧
       (¬ good → t.mem = [] ∧ t.fw = { Firmware.reset with up := false, flash := f } ∧ t.groups = []) ∧ t.ctl.out = out
     let key := configKey s.fw.config 16
     let open' : Prop := s.fw.up = true ∧ ∀ q, SMap.find s.fw.qps 0 = some q → q.err = false
     let signed (kind : Nat) : Prop :=
       let msg := BitVec.ofNat 8 kind :: BitVec.ofNat 8 a.ch :: (a.bytes ++ leBytes 8 a.signed.counter.toNat)
       fl.opctr.toNat < a.signed.counter.toNat ∧ Config.ecdsaVerify key.1 msg a.signed.ecdsa = true ∧ Config.lmsVerify key.2 msg a.signed.lms = true
     let refused : Host.Outcome State Fault Refusal := .next { s with ctl := { s.ctl with out := s.ctl.out ++ [.refused] } }
     let fl' : Flash := { fl with opctr := a.signed.counter }
     (s.fw.up = true → ¬ open' → a.bytes.length = 48 → ∀ ins ∈ ([.attest, .provision, .update, .reset] : List Instr), exec ins s = .next s) ∧
     (open' → a.bytes.length = 48 → 2 ^ 40 ≤ fl.leaf → exec .attest s = refused) ∧
     (open' → a.bytes.length = 48 → fl.leaf < 2 ^ 40 → ∃ r, exec .attest s =
       .next { s with fw := { s.fw with flash := { fl with leaf := fl.leaf + 1, mono := fl.mono + 1 } },
                      ctl := { s.ctl with out := s.ctl.out ++ [.answer r] } } ∧ r.length = 4628 ∧ r.take 48 = a.bytes) ∧
     (open' →
       (¬ signed 1 → exec .provision s = refused) ∧ (¬ signed 2 → exec .update s = refused) ∧ (¬ signed 3 → exec .reset s = refused) ∧
       (signed 2 → ∃ t, exec .update s = .next t ∧ t.ctl.out = s.ctl.out ++ [.answer []] ∧
         t = { s with fw := { s.fw with flash := t.fw.flash }, ctl := { s.ctl with out := t.ctl.out } } ∧
         t.fw.flash = { fl' with imageA := if a.ch = 0 then a.bytes else fl.imageA, imageB := if a.ch = 1 then a.bytes else fl.imageB,
                                 config := if a.ch = 0 ∨ a.ch = 1 then fl.config else a.bytes }) ∧
       (signed 3 → ∃ t, exec .reset s = .next t ∧ brought t fl' s.mem (s.ctl.out ++ [.answer []])) ∧
       (signed 1 →
         let d := bytesAt a.bytes 0 64
         let t := d % 16
         let ok : Prop := recordOk d = true ∧ s.tenantBusy t = false ∧ (∀ p ∈ s.fw.tenants, p.1 ≠ t → recordsApart d p.2.toNat = true) ∧
           s.ctlRingOk d = true
         (¬ ok → exec .provision s = .next { s with fw := { s.fw with flash := fl' }, ctl := { s.ctl with out := s.ctl.out ++ [.refused] } }) ∧
         (ok → ∃ u, exec .provision s = .next u ∧ u.ctl.out = s.ctl.out ++ [.answer []] ∧ u.fw.flash = fl' ∧ u.groups = s.groups ∧
           u.cores = s.cores ∧ u.heads = s.heads ∧ u.lu = s.lu ∧
           (∀ k, SMap.find u.fw.tenants k = if k = t then some (BitVec.ofNat 512 d) else SMap.find s.fw.tenants k) ∧
           (∀ kind unit, kind < 16 → unit < 256 → SMap.get 0 u.fw.counts (countKey t kind unit) = 0) ∧
           (∀ k kind unit, k ≠ t → kind < 16 → unit < 256 → SMap.get 0 u.fw.counts (countKey k kind unit) = SMap.get 0 s.fw.counts (countKey k kind unit)) ∧
           (∀ n q, SMap.find s.fw.qps n = some q → SMap.find u.fw.qps n = some q) ∧
           (∀ n q, SMap.find s.fw.qps n = none → SMap.find u.fw.qps n = some q → q.tenant = t ∧ q.err = false ∧ 1 ≤ n ∧ n < 1024 ∧ q.port ≤ 1) ∧
           (let target := d / 2 ^ 192 % 2 ^ 64
            u.physNat target 8 = 0 ∧ u.physNat (target + 24) 40 = 0 ∧ u.physNat (target + 16) 1 < 2) ∧
           ∀ k, SMap.find u.qi.rings k = if k = 64 * t then
               some { tenant := t, addr := d / 2 ^ 384 % 2 ^ 64, logsize := d / 2 ^ 480 % 16 + 4, npub := 1, rd := 0, prio := 7, pre := false }
             else SMap.find s.qi.rings k))) ∧
     (∃ t, exec .powerOn s = .next t ∧ brought t fl [] s.ctl.out) ∧
     (∃ t f, exec .inputPowerRemoved s = .next t ∧ down t f ∧ t.fw.removed = true ∧
       (a.ch = 1 → s.fw.up = true → f = { fl with leaf := fl.leaf + 1 }) ∧ (a.ch ≠ 1 → f = fl)) ∧
     (s.fw.up = true → ∃ t, exec .thermalShutdown s = .next t ∧ down t fl ∧ t.fw.removed = false)) ∧
  (∀ s : State, s.fw.up = true →
     exec .thermalStop s = .next { s with fw := { s.fw with stopped := true } } ∧
     exec .thermalRestart s = .next { s with fw := { s.fw with stopped := false } } ∧
     (let p := s.ctl.arg.val.toNat
      let cap := 1000 * bytesAt s.fw.config 36 2
      ∃ k, exec .powerMeasure s = .next { s with fw := { s.fw with gate := k } } ∧
        (cap < p → s.fw.gate ≤ 15 → k = min 15 (s.fw.gate + 1)) ∧ (p ≤ cap → 100 * p < 95 * cap → k = s.fw.gate - 1) ∧
        (p ≤ cap → 95 * cap ≤ 100 * p → k = s.fw.gate)) ∧
     ∀ ins ∈ ([(.linkLoss, false), (.linkRetrain, true)] : List (Instr × Bool)), ∃ t, exec ins.1 s = .next t ∧ t = { s with heads := t.heads } ∧
       ∀ k, t.head k = if k = s.ctl.arg.head then { s.head k with link := ins.2 } else s.head k)

/-- A drained fault stands in its tenant's log at its place, with its count published, and leaves the die's queue, whose place the first
late fault of the tenant takes; one on the page of a queued entry joins it. A retest of the logs drains die by die all that its logs can
take. A snapshot writes the counts of the tenant's block between an odd and an even SNAPSEQ, whose values are log 50's; correctable
errors count in their die; uncorrectable ones, which an event's argument names (log 14), strike a group, a bank, a line core or clean lines, or
mark bytes, and a struck group without a side effect is
replayed once and one with faults its grid with SOFTERR (R194, R216, R234, R236, R384, R427, R428). -/
def Obligations.LogsAndErrors : Prop :=
  ∀ s : State, let a := s.ctl.arg
    (∀ f l1 l2, (s.die a.die).faults = l1 ++ f :: l2 → (SMap.find s.fw.tenants f.tenant).isSome → s.logRoom f.tenant = true →
      (∀ x ∈ l1, x ≠ f ∧ ¬ ((SMap.find s.fw.tenants x.tenant).isSome ∧ s.logRoom x.tenant = true)) →
      f.count < 2 ^ 16 → f.agent < 8 → f.cause < 16 → f.asid < 2 ^ 12 → f.va < 2 ^ 64 → a.die < 4 →
      let base := s.tenantField f.tenant 319 256
      let n := s.physNat base 4
      let at_ := base + 16 + 16 * (n % 2 ^ s.tenantField f.tenant 191 184)
      let seq := SMap.get 0 s.fw.logSeq f.tenant % 2 ^ 16
      let late := (s.die a.die).late
      let one (x y : FaultEntry) : Prop := x.asid = y.asid ∧ x.va / 65536 = y.va / 65536
      ∃ t, exec .faultLogDrain s = .next t ∧ (∀ k, k ≠ a.die → t.die k = s.die k) ∧
        t.die a.die = { s.die a.die with faults := (t.die a.die).faults, late := (t.die a.die).late } ∧
        (late = [] → (t.die a.die).faults = l1 ++ l2 ∧ (t.die a.die).late = []) ∧
        (∀ h rest, late = h :: rest → (∀ x ∈ rest, x.tenant = h.tenant) → h.tenant = f.tenant → (l1 ++ f :: l2).length ≤ 4096 →
          ((l1 ++ f :: l2).filter fun x => x.tenant == f.tenant).length = 1024 → (∀ x ∈ h :: rest, ∀ y ∈ l1 ++ l2, ¬ one x y) →
          (∀ x ∈ rest, ¬ one x h) → (t.die a.die).faults = l1 ++ l2 ++ [h] ∧ (t.die a.die).late = rest) ∧
        (∀ h m1 x m2, late = [h] → l1 ++ l2 = m1 ++ x :: m2 → one x h → (∀ y ∈ m1, ¬ one y h) →
          (t.die a.die).faults = m1 ++ { x with count := min 0xFFFF (x.count + h.count), uids := x.uids ++ h.uids } :: m2 ∧
          (t.die a.die).late = []) ∧
        t.physNat base 4 = (n + 1) % 2 ^ 32 ∧
        t.physNat at_ 16 = seq + 2 ^ 16 * f.count + 2 ^ 43 * a.die + 2 ^ 45 * f.agent + 2 ^ 48 * f.cause + 2 ^ 52 * f.asid + 2 ^ 64 * f.va ∧
        (∀ x, ¬ (base ≤ x ∧ x < base + 4) → ¬ (at_ ≤ x ∧ x < at_ + 16) → t.physByte x = s.physByte x) ∧
        t = { s with dies := t.dies, mem := t.mem, frame := t.frame, ringp := t.ringp,
                     fw := { s.fw with logSeq := t.fw.logSeq, marked := t.fw.marked } }) ∧
    ((∀ d < 4, ∀ f ∈ (s.die d).faults, ¬ ((SMap.find s.fw.tenants f.tenant).isSome ∧ s.logRoom f.tenant = true)) →
      exec .faultLogRetest s = .next s) ∧
    (∃ t, exec .faultLogRetest s = .next t ∧ t.groups = s.groups ∧ t.cores = s.cores ∧ t.lu = s.lu ∧ t.qi = s.qi ∧
      ∃ s1 s2 s3, State.DrainedAt 0 s s1 ∧ State.DrainedAt 1 s1 s2 ∧ State.DrainedAt 2 s2 s3 ∧ State.DrainedAt 3 s3 t) ∧
    ((SMap.find s.fw.tenants a.queue).isSome → a.queue < 16 →
      let b := s.counterBlock a.queue
      let n := (SMap.get 0 s.fw.counts (countKey a.queue 14 0)).toNat
      ∃ t, exec .counterSnapshot s = .next t ∧ t = { s with
          mem := t.mem, frame := t.frame, ringp := t.ringp,
          fw := { s.fw with counts := t.fw.counts, marked := t.fw.marked } } ∧
        t.physNat b 8 = (2 * n + 2) % 2 ^ 64 ∧ t.physNat (b + 8) 8 = (SMap.get 0 s.fw.hintdrop a.queue).toNat ∧
        (∀ h < 4, ∀ k < 5, t.physNat (b + 32 + 32 * h + 4 * k) 4 =
          if s.tenantField a.queue (4 + h) (4 + h) = 1 then (SMap.get 0 (s.head h).counters k).toNat else 0) ∧
        (∀ d < 4, t.physNat (b + 256 + 128 * d) 8 = s.fw.fabricClk.toNat ∧
          (∀ k < 4, t.physNat (b + 256 + 128 * d + 8 + 8 * k) 8 = (SMap.get 0 s.fw.counts (countKey a.queue k d)).toNat) ∧
          (∀ k < 5, t.physNat (b + 256 + 128 * d + 40 + 4 * k) 4 = (SMap.get 0 (s.die d).corrected k).toNat) ∧
          ∀ k < 6, t.physNat (b + 256 + 128 * d + 64 + 8 * k) 8 = (SMap.get 0 s.fw.counts (countKey a.queue (4 + k) d)).toNat) ∧
        (∀ c < 160, bit s.fw.cores c = true → t.physNat (b + 1024 + 32 * c) 8 = (s.core c).clk.toNat ∧
          ∀ k < 3, t.physNat (b + 1024 + 32 * c + 8 + 8 * k) 8 = (SMap.get 0 s.fw.counts (countKey a.queue (10 + k) c)).toNat) ∧
        ∀ x, x < b ∨ b + 8192 ≤ x → t.physByte x = s.physByte x) ∧
    (s.fw.up = true → a.die < 4 → a.ch < 5 → ∃ t, exec .correctableError s = .next t ∧ t = { s with dies := t.dies } ∧
      ∀ d k, (t.die d) = { s.die d with corrected := (t.die d).corrected } ∧ SMap.get 0 (t.die d).corrected k =
        if d = a.die ∧ k = a.ch then BitVec.ofNat 32 (min 0xFFFFFFFF ((SMap.get 0 (s.die d).corrected k).toNat + 1))
        else SMap.get 0 (s.die d).corrected k) ∧
    (let o := exec .uncorrectableError s
     (∀ uid loc g, a.soft = .group uid loc → s.group? uid = some g → g.uid = uid → loc < 2 →
       (g.side = 0 → g.replayed = false → ∃ t x, o = .next t ∧ t.group? uid = none ∧ (∀ u, u ≠ uid → t.group? u = s.group? u) ∧
         SMap.find t.lu.saved uid = some x ∧ x.replayed = true ∧ x.started = false ∧ x.image = g.savedAs.isSome ∧ x.queues = Queues.empty ∧
         (∀ b, (t.levelByte (.l1 g.core) b).2.1 = false) ∧
         ∀ r, SMap.find s.lu.grids g.grid = some r → r.num = g.grid → ∃ r', SMap.find t.lu.grids g.grid = some r' ∧ r'.head = g.gid :: r.head) ∧
       (g.side ≠ 0 ∨ g.replayed = true → ∀ r, SMap.find s.lu.grids g.grid = some r → r.num = g.grid → ∃ t e l, o = .next t ∧
         (∀ u x, (u, x) ∈ t.groups → x.grid ≠ g.grid) ∧ t.fw.events = s.fw.events ++ (g.tenant, e) :: l ∧ e.extractLsb' 0 8 = 4 ∧
         e.extractLsb' 8 8 = 13 ∧ e.extractLsb' 128 8 = BitVec.ofNat 8 Cause.softerr.code ∧ e.extractLsb' 192 32 = BitVec.ofNat 32 loc)) ∧
     (∀ c, a.soft = .clean c → s.fw.up = true → o = .next (s.evict c)) ∧
     (∀ loc pa n, a.soft = .marked loc pa n → loc = 3 ∨ loc = 4 → s.fw.up = true → ∃ m, o = .next { s with fw := { s.fw with marked := m } } ∧
       ∀ k, SMap.find m k = if pa ≤ k ∧ k < pa + n then some (decide (loc = 4)) else SMap.find s.fw.marked k) ∧
     (∀ n, a.soft = .lineCore n → (s.line n).st ≠ .idle → ∃ t, o = .next t ∧ (t.line n).st = .idle ∧ (∀ k, k ≠ n → t.line k = s.line k) ∧
       (∀ x ∈ t.mx, x.line ≠ n) ∧ t = { s with heads := t.heads, lines := t.lines, mx := t.mx } ∧
       ∀ d, (s.head (s.line n).head).band? (s.line n).frame (s.line n).band = some d →
         (t.head (s.line n).head).band? (s.line n).frame (s.line n).band = some { d with cause := 8 }) ∧
     (∀ c x rest g, a.soft = .workingBank c → (s.core c).ta.queue = x :: rest → x.st = .queued → x.zero = false → s.group? x.uid = some g →
       a.len = 0 → 0 < blkK x.block / fmtGroup x.fmt → ∃ t v, o = .next t ∧
         (t.core c).ta.queue = { x with st := .faulted 2 v 0 } :: rest ∧ t.groups = s.groups ∧
         (bit x.block 288 = false → ∀ k, SMap.get 0 (t.core c).ta.working k = SMap.get 0 (s.core c).ta.working k)))

/-! ### The whole machine -/

/-- Decoding the words of a well-formed instruction gives it back, with every operand at every value that its encoding allows;
and what the decoder reads from words is well formed and has those words, but for a T word whose LEN is 00, which
names no second word (R64 to R76, R154 to R158, R204 to R206, R345). -/
def Obligations.EncodingsAgree : Prop :=
  (∀ (ctx : KernelCtx) (i : Instr), i.wf ctx = true → encode i ≠ .none → decode ctx (encode i) = some i) ∧
  ∀ (ctx : KernelCtx) (i : Instr) (x : Words), decode ctx x = some i → i.wf ctx = true ∧
    (encode i = x ∨ ∃ w0 w1, x = .t w0 (some w1) ∧ tLen w0 = 0 ∧ encode i = .t w0 none)

/-- Words that the spec writes out decode to what it says they are: CVT.e4m3.f32.RU.NS v7, v3, a branch under f1, AS2A a4,
AMOVI a6, ALD, AADD, CPYX, the long FMTQ, CPY.dev, QPUSH, and the SSP bundle of R214; the all-zero and the all-ones T words
raise ILLINST (R77, R113, R159, R301). -/
def Obligations.DecodedWords : Prop :=
  let ctx := KernelCtx.full
  decode ctx (.t 0x303E000701800011 (some 0x00000000001FFFEC)) = some (.cvt
    { mod := 3, pred := 7, pneg := 0, popq := 0, pushq := 0, spec := 0, dst := 7, srca := 3, srcb := 0, srcc := 0, lr := 4,
      long := some { imm32 := 0, immuse := 0, oc := 0, scope := 0, sem := 0, cmask := 0xFFFF, xmod := 6 } }) ∧
  decode ctx (.t 0x4002000081800000 none) = some (.bra
    { mod := 0, pred := 1, pneg := 0, popq := 0, pushq := 0, spec := 0, dst := 0, srca := 0x103, srcb := 0, srcc := 0, lr := 0,
      long := none }) ∧
  decodeT ctx 0 none = .error illinst ∧ decodeT ctx (BitVec.allOnes 64) (some (BitVec.allOnes 64)) = .error illinst ∧
  decode ctx (.a 0x34020010) = some (.as2a { popq := 0, pushq := 0, d := 4, s1 := 0, s2 := 16 }) ∧
  decode ctx (.a 0x28030004) = some (.amovi { popq := 0, pushq := 0, d := 6, s1 := 0, s2 := 4 }) ∧
  decode ctx (.a 0x82029200) = some (.ald { popq := 4, pushq := 0, d := 5, s1 := 4, s2 := 0x200 }) ∧
  decode ctx (.a 0x04021204) = some (.aadd { popq := 0, pushq := 0, d := 4, s1 := 4, s2 := 0x204 }) ∧
  decode ctx (.a 0xC400189D) = some (.cpyx { popq := 0, pushq := 0, d := 0, s1 := 6, s2 := 0x9D }) ∧
  decode ctx (.aLong 0xFC010000 0x00010140 0xD4000000) = some (.fmtqLong
    { oc := 0, scope := 0, sem := 0, iuse := 2, imm32 := 0x00010140 } { popq := 0, pushq := 0, d := 0, s1 := 0, s2 := 0 }) ∧
  decode ctx (.aLong 0xFC180000 0 0xC0001804) = some (.cpyLong
    { oc := 0, scope := 3, sem := 0, iuse := 0, imm32 := 0 } { popq := 0, pushq := 0, d := 0, s1 := 6, s2 := 4 }) ∧
  decode ctx (.a 0x90101610) = some (.qpush { popq := 0, pushq := 1, d := 0, s1 := 5, s2 := 0x210 }) ∧
  decodeBundle 0x0C630010200202105801082A08101100 = some
    (.sadd { i := 1, d := 3, a := 3, b := 16 }, .vfma { mreg := 0, mke := 0, ty := 0, d := 4, a := 1, b := 2, sub := 0 },
     .vcmp { mreg := 0, mke := 0, ty := 0, d := 2, a := 4, b := 5, sub := 2 },
     some (.lbld { mreg := 0, mke := 0, d := 8, a := 1, b := 2, sub := 0 }))

/-- A block of a kernel in portable form (R404 to R406). Its operations are performed once each, after those that supply them, memory operations by LSID
and then the boundary operation. READ delivers a register with its poison as at the block's start; a thread in which an operation is
guarded off gets input A, or zero; DIV and REM have the results of R92 and raise POISON alone; any other operation has what its T instruction makes of
the inputs. A trap, a park or a failing check at the block's end takes effect over the machine as the block found it; a block that ends commits every
WRITE that fired, to no other register, and each thread goes on at its BEXIT's target. Which of several traps is taken, and
TINST where a thread has not exactly one BEXIT, is the model's choice (log 46), as are lanes of other threads that no operation has computed (log 11).

A step takes the first turn of the agenda, and with an empty one a turn of the machine's own. A warp's turn runs exec of what the
decoder reads at its head run's PC, in a kernel of the native form (a second word after a first whose LEN is 01), or takes the decode's trap; an A context's the same
at APC; a line core's runs its bundle, V0, V1, M and then S, each slot an exec on the registers that the bundle found; the
queue interpreter's the word at its place; a command's and an event's turn run exec of that step. What a turn adds around exec
is stated with it: the strike of a marked byte read, a stop at a wait, and `ran`: the turn that misses the die TLB asks for its walk
instead (log 58), every cache is brought within its size (log 18), and a turn whose events find no room waits (log 15). While core clk
is stopped, the turns that it drives do nothing, which these are being log 53's (R76, R123, R149, R156, R202, R203, R227, R234, R345, R444).
That turns are taken from an agenda (log 1), and which of several faults and waits of a bundle stands (log 13), are the model's choices. -/
def Obligations.StepRunsDecoded : Prop :=
  (∀ (s : State) (n : Nat) (x : BitVec 1024) (c t asid va : Nat), SMap.find (s.core c).l1i (iKey asid va) = some x →
    let old := lineNat x (va % 128) n
    let new := s.newWord t asid va n
    (new = none ∨ new = some old → s.iWord c t asid va n = (s, .ok old)) ∧
    ∀ u, new = some u → ∃ v, (v = old ∨ v = u) ∧ (s.iWord c t asid va n).2 = .ok v) ∧
  (∀ (x : BlockEnv) (s : State), let k := x.all s []
    let valued (i : Nat) : Prop := i < x.ops.length ∧ vOp (x.op i) ≠ 0x81 ∧ vOp (x.op i) ≠ 0x82
    x.ops.length ≤ 128 → (∀ i slot j, slot < 4 → x.supplier i slot = some j → j < i ∧ valued j) →
    (s.group? x.uid).bind (fun g => g.warp? x.slot) ≠ none → k.stop = none →
    ∃ l : List Nat, k = l.foldl x.perform { s := s, vals := [], stop := none } ∧ l.Nodup ∧ (∀ i, i ∈ l ↔ i < x.ops.length) ∧
      (∀ a i b slot j, l = a ++ i :: b → slot < 4 → x.supplier i slot = some j → j ∈ a) ∧
      (∀ i j, i < x.ops.length → j < x.ops.length → vMemory (x.op i) = true →
        (vMemory (x.op j) = true ∧ vLsid (x.op i) < vLsid (x.op j) ∨ vBoundary (x.op j) = true) →
        (∀ n ∈ x.after j, vMemory (x.op n) = true → vLsid (x.op i) < vLsid (x.op n)) →
        ∀ a b, l = a ++ j :: b → i ∈ a)) ∧
  (∀ (x : BlockEnv) (k : BlockRun) (i : Nat) (g : Group) (w : Warp), k.s.group? x.uid = some g → g.warp? x.slot = some w → g.uid = x.uid → k.stop = none →
    let o := x.op i
    let r := x.perform k i
    let gives (v : BlockVal) : Prop := SMap.find r.vals i = some v
    let imm := BitVec.ofNat 32 (vImm o)
    let input (slot t j : Nat) : Word := if vImmuse o = slot + 1 then (if j = 0 then imm else if bit imm 31 then BitVec.allOnes 32 else 0)
      else (x.input k i slot).word t j
    let poisoned := ((x.input k i 0).poison ||| (x.input k i 1).poison ||| (x.input k i 2).poison) &&& x.fires k i
    (∀ j, j ≠ i → SMap.find r.vals j = SMap.find k.vals j) ∧
    (r.stop = none → ∃ g' w', r.s.group? x.uid = some g' ∧ g'.warp? x.slot = some w' ∧ w'.regs = w.regs ∧ w'.threads = w.threads) ∧
    (vOp o = 0x80 → r.stop = none ∧ r.s = k.s ∧ ∃ v, gives v ∧ ∀ t < 32, ∀ j < vWidth o,
      (vReg o < 0x80 → v.word t j = w.regs.get (vReg o + j) t ∧ (bit (w.regs.poi (vReg o + j)) t = true → bit v.poison t = true)) ∧
      (0x80 ≤ vReg o → vReg o < 0xC0 → v.word t j = w.regs.sGet (vReg o - 0x80 + j) ∧ v.poison = 0) ∧
      (0xC0 ≤ vReg o → vReg o < 0xC8 → v.word t j = w.regs.get (128 + (vReg o - 0xC0) + j) t ∧
        (bit (w.regs.poi (128 + (vReg o - 0xC0) + j)) t = true → bit v.poison t = true)) ∧
      (0xD0 ≤ vReg o → v.pred = w.regs.fGet (vReg o - 0xD0))) ∧
    (∀ rem : Bool, vOp o = (if rem then 0x0B else 0x0A) → tShape (vOp o) (vWord o) ≠ none →
      (poisoned &&& x.parts ≠ 0 → r.stop = some (.trap i .poison 0)) ∧
      (poisoned &&& x.parts = 0 → r.s = k.s ∧ ∃ v, gives v ∧ ∀ t < 32,
        let a := input 0 t 0
        let b := input 1 t 0
        (bit (x.fires k i) t = false → v.word t 0 = a) ∧
        (bit (x.fires k i) t = true → bit poisoned t = false → v.word t 0 =
          if vMod o = 1 then
            (if b = 0 then (if rem then a else BitVec.allOnes 32)
             else if rem then BitVec.ofInt 32 (a.toInt - b.toInt * a.toInt.tdiv b.toInt) else BitVec.ofInt 32 (a.toInt.tdiv b.toInt))
          else if b = 0 then (if rem then a else BitVec.allOnes 32)
          else BitVec.ofNat 32 (if rem then a.toNat - b.toNat * (a.toNat / b.toNat) else a.toNat / b.toNat)))) ∧
    (∀ sh ins, vOp o < 0x80 → tShape (vOp o) (vWord o) = some sh → sh.emul = false → crossesLanes (vOp o) = false →
      tCheck x.ctx (vOp o) { blockWord o sh with pred := 7 } = none → Instr.ofT (vOp o) (blockWord o sh) = some ins →
      let own := blockRegs (x.input k i 0) (x.input k i 1) (x.input k i 2) (x.fires k i) (w.regs.fGet (vMod o % 8))
      let u := k.s.setGroup (g.setWarp x.slot { w with safecnt := 0, regs := own })
      ∀ s2 g2 w2, exec ins { u with ctl := { u.ctl with inBlock := true, wait := false, blockTrap := none } } = .next s2 →
        s2.ctl.blockTrap = none → s2.group? x.uid = some g2 → g2.warp? x.slot = some w2 → w2.parked = none → s2.ctl.wait = false →
        r.stop = none ∧ ∃ v, gives v ∧
          (∀ t < 32, ∀ j < sh.dst.regs, bit (x.fires k i) t = true → v.word t j = w2.regs.get (12 + j) t ∧ bit v.poison t = bit (w2.regs.poi 12) t) ∧
          (sh.dst = .pred → ∀ t < 32, bit (x.fires k i) t = true → bit v.pred t = bit (w2.regs.fGet 5) t) ∧
          (∀ n, slotKind sh.a = .regs n → ∀ t < 32, ∀ j < 4, bit (x.fires k i) t = false → v.word t j = input 0 t j) ∧
          (slotKind sh.a = .none → ∀ t < 32, ∀ j < 4, bit (x.fires k i) t = false → v.word t j = 0))) ∧
  (∀ (s : State) (g : Group) (slot : Nat) (w : Warp) (pc : Nat) (run : BitVec 32) (ops : List VosisOp), SMap.find g.kern.blocks pc = some ops →
    (∀ n, w.mode ≠ .saved n) → g.stopsHere slot w = false → w.block = none → s.group? g.uid = some g → g.warp? slot = some w →
    let x : BlockEnv := { uid := g.uid, slot := slot, run := run, parts := run &&& ~~~w.helpers, ops := ops,
                          ctx := { g.kern.ctx slot with vregs := 128, sregs := 64 } }
    let k := x.all s []
    let t := s.runBlock g slot w pc run
    let u : State := { s with ctl := { s.ctl with struck := k.s.ctl.struck } }
    let is (n i : Nat) : Prop := i < ops.length ∧ vOp (x.op i) = n
    let fires (i th : Nat) : Prop := th < 32 ∧ bit (x.fires k i) th = true
    let part (th : Nat) : Prop := th < 32 ∧ bit x.parts th = true
    let goal (i th : Nat) : Word := if vMod (x.op i) = 1 ∧ vImmuse (x.op i) ≠ 1 then (x.input k i 0).word th 0 else BitVec.ofNat 32 (vImm (x.op i))
    let once (th : Nat) : Prop := ∃ i, is 0x82 i ∧ fires i th ∧ ∀ j, is 0x82 j → fires j th → j = i
    let dirty (i th : Nat) : Prop := part th ∧ fires i th ∧ (is 0x81 i ∨ is 0x82 i ∧ vMod (x.op i) = 1) ∧ bit (x.input k i 0).poison th = true
    let lost (i th : Nat) : Prop := part th ∧ fires i th ∧ is 0x82 i ∧ vMod (x.op i) = 1 ∧ SMap.find g.kern.blocks (goal i th).toNat = none
    let leaves (i th : Nat) : Prop := part th ∧ fires i th ∧ is 0x82 i ∧ vMod (x.op i) = 2
    let traps (i : Nat) (c : Cause) (v : DWord) : Prop := t = u.tTrap g slot { w with block := none } run pc (vOp (x.op i)) (vMod (x.op i))
      ((x.op i).extractLsb' 0 64) ((x.op i).extractLsb' 64 64) c v
    (∀ i c v, k.stop = some (.trap i c v) → traps i c v) ∧
    (∀ p, k.stop = some (.park p) → t = (u.queueFault g p.va p.cause p.agent).setWarp g.uid slot { w with parked := some p }) ∧
    (k.stop = none →
      ((∃ th, part th ∧ ¬ once th) → ∃ i, traps i .illinst 0) ∧
      ((∀ th, part th → once th) →
        ((∃ i th, dirty i th) → ∃ i th, dirty i th ∧ traps i .poison 0) ∧
        ((∀ i th, ¬ dirty i th) →
          ((∃ i th, lost i th) → ∃ i th, lost i th ∧ traps i .align ((goal i th).setWidth 64)) ∧
          ((∀ i th, ¬ lost i th) →
            (w.inHandler = true → (∃ i th, leaves i th) → ∃ i th, leaves i th ∧ traps i .illinst 0) ∧
            (∀ g1 w1, (∀ i th, is 0x82 i → fires i th → vMod (x.op i) < 2) → k.s.group? g.uid = some g1 → g1.warp? slot = some w1 →
              (∃ th, (w1.thread th).isLive = true) → (∀ th, w1.thread th = .helper → ∃ n < 4, (w1.thread (th / 4 * 4 + n)).isLive = true) → ∃ w' : Warp,
              t = (let v := k.s.setWarp g.uid slot w'; { v with ctl := { v.ctl with inBlock := false, blockTrap := none } }) ∧
              w' = { w1 with regs := w'.regs, safecnt := 0, block := none, held := none, synced := none, threads := w'.threads } ∧
              (∀ th q, w1.thread th = .live q → part th → ∀ i, is 0x82 i → fires i th → w'.thread th = .live (goal i th)) ∧
              (∀ th, ¬ part th → w'.thread th = w1.thread th) ∧
              let names (i r : Nat) : Prop := is 0x81 i ∧ ∃ base, vReg (x.op i) = (if 128 ≤ base then 0xC0 + (base - 128) else base) ∧
                base < 136 ∧ base ≤ r ∧ r < base + vWidth (x.op i)
              (∀ i r base, names i r → vReg (x.op i) = (if 128 ≤ base then 0xC0 + (base - 128) else base) → base < 136 → r < 136 →
                (∀ j, names j r → j = i) → ∀ th, fires i th → w'.regs.get r th =
                  if vImmuse (x.op i) = 1 then (if r = base then BitVec.ofNat 32 (vImm (x.op i)) else if bit (BitVec.ofNat 32 (vImm (x.op i))) 31 then BitVec.allOnes 32 else 0)
                  else (x.input k i 0).word th (r - base)) ∧
              (∀ r < 136, ∀ th < 32, (∀ i, names i r → ¬ fires i th) → w'.regs.get r th = w1.regs.get r th) ∧
              let scalar (i r : Nat) : Prop := is 0x81 i ∧ 0x80 ≤ vReg (x.op i) ∧ vReg (x.op i) < 0xC0 ∧ vReg (x.op i) ≤ 0x80 + r ∧
                0x80 + r < vReg (x.op i) + vWidth (x.op i)
              (∀ r i th, scalar i r → (∀ j, scalar j r → j = i) → vImmuse (x.op i) ≠ 1 → fires i th → (∀ n < th, ¬ fires i n) →
                w'.regs.sGet r = (x.input k i 0).word th (0x80 + r - vReg (x.op i))) ∧
              (∀ r, (∀ i th, scalar i r → ¬ fires i th) → w'.regs.sGet r = w1.regs.sGet r) ∧
              (∀ n < 7, ∀ i, is 0x81 i → vReg (x.op i) = 0xD0 + n → (∀ j, is 0x81 j → vReg (x.op j) = 0xD0 + n → j = i) →
                ∀ th, fires i th → bit (w'.regs.fGet n) th = bit (x.input k i 0).pred th))))))) ∧
  ∀ (s : State) (rest : List Turn),
    let s0 : State := { s with ctl := { s.ctl with agenda := rest } }
    let here (x : Turn) : State := { s0 with ctl := { s0.ctl with served := s0.served x, missed := none } }
    let from' (x : Turn) (a : Agent) (arg : EventArg) : State := (here x).actFor a arg
    let ran (x : Turn) (r : Host.Outcome State Fault Refusal) := State.gate s0 (onNext r fun u => .next (State.fitCaches
      (match u.ctl.missed with
        | some m => (s0.askWalk x m).waits
        | none => { u with ctl := { u.ctl with served := [] } }.closeWalks fun y => y == x)))
    (∀ uid slot g w pc run v f, s.ctl.agenda = .warp uid slot :: rest → s.fw.stopped = false → s.group? uid = some g →
      g.warp? slot = some w → (slot < 32 ∨ s.spawnDue g = false) → g.started = true → g.frozenIO = none → w.parked = none → w.stopDue = none → w.pushDue = none →
      w.headRun = some (pc, run) → g.kern.vver = 0 → pc + 8 ≤ g.kern.tlen →
      (from' (Turn.warp uid slot) (.warp uid slot) EventArg.zero).iWord g.core g.tenant g.asid (g.kern.tbase + pc) 8 = (f, .ok v) →
      let runs (i : Instr) (u : State) := onNext (exec i u) fun t => .next ((t.afterRead (some uid)).maybeStop uid slot (isBarSync i))
      let traps (u : State) (w0 w1 : DWord) (t : TrapInfo) : Host.Outcome State Fault Refusal :=
        .next ((u.tTrap g slot w run pc (bitsOf w0.toNat 63 56) (bitsOf w0.toNat 55 52) w0 w1 t.cause t.tval).afterRead (some uid))
      let w0 : DWord := BitVec.ofNat 64 v
      (∀ i, tLen w0 ≠ 1 → decodeT (g.kern.ctx slot) w0 none = .ok i → step s = ran (Turn.warp uid slot) (runs i f)) ∧
      (∀ t, tLen w0 ≠ 1 → decodeT (g.kern.ctx slot) w0 none = .error t → step s = ran (Turn.warp uid slot) (traps f w0 0 t)) ∧
      (tLen w0 = 1 → g.kern.tlen < pc + 16 → step s = ran (Turn.warp uid slot) (traps f w0 0 illinst)) ∧
      (∀ v1 f1, tLen w0 = 1 → pc + 16 ≤ g.kern.tlen → f.iWord g.core g.tenant g.asid (g.kern.tbase + pc + 8) 8 = (f1, .ok v1) →
        let w1 : DWord := BitVec.ofNat 64 v1
        (∀ i, decodeT (g.kern.ctx slot) w0 (some w1) = .ok i → step s = ran (Turn.warp uid slot) (runs i f1)) ∧
        (∀ t, decodeT (g.kern.ctx slot) w0 (some w1) = .error t → step s = ran (Turn.warp uid slot) (traps f1 w0 w1 t)))) ∧
    (∀ uid slot g w pc run, s.ctl.agenda = .warp uid slot :: rest → s.fw.stopped = false → s.group? uid = some g →
      g.warp? slot = some w → (slot < 32 ∨ s.spawnDue g = false) → g.started = true → g.frozenIO = none → w.parked = none → w.stopDue = none → w.pushDue = none →
      w.headRun = some (pc, run) → g.kern.vver ≠ 0 →
      step s = ran (Turn.warp uid slot) (.next (((from' (Turn.warp uid slot) (.warp uid slot) EventArg.zero).runBlock g slot w pc run).afterRead (some uid)))) ∧
    (∀ uid g v f, s.ctl.agenda = .actx uid :: rest → s.fw.stopped = false → s.group? uid = some g → g.started = true →
      g.frozenIO = none → g.a.parked = none → g.a.ended = false → g.a.pushDue = none → (∀ n, g.a.mode ≠ .saved n) →
      ¬ (g.kern.aentry = none ∧ g.a.apc = 0) →
      let pc := g.a.apc.toNat
      pc + 4 ≤ g.kern.alen → (from' (Turn.actx uid) (.actx uid) EventArg.zero).iWord g.core g.tenant g.asid (g.kern.abase + pc) 4 = (f, .ok v) →
      let safe := (g.kern.ctx 0).safe
      let runs (i : Instr) (u : State) := onNext (exec i u) fun t => .next (t.afterRead (some uid))
      let w : Word := BitVec.ofNat 32 v
      (∀ i, aOp w ≠ 0x3F → decodeA safe w = .ok i → step s = ran (Turn.actx uid) (runs i f)) ∧
      (∀ t, aOp w ≠ 0x3F → decodeA safe w = .error t → step s =
        ran (Turn.actx uid) (.next ((f.aTrap g g.a (aOp w) 0 0 w t.cause t.tval).afterRead (some uid)))) ∧
      (∀ v1 f1 v2 f2, aOp w = 0x3F → pc + 12 ≤ g.kern.alen →
        f.iWord g.core g.tenant g.asid (g.kern.abase + pc + 4) 4 = (f1, .ok v1) →
        f1.iWord g.core g.tenant g.asid (g.kern.abase + pc + 8) 4 = (f2, .ok v2) →
        ∀ i, decodeALong safe w (BitVec.ofNat 32 v1) (BitVec.ofNat 32 v2) = .ok i → step s = ran (Turn.actx uid) (runs i f2))) ∧
    (∀ n b, s.ctl.agenda = .line n :: rest → (s.line n).st = .running → (s.line n).spc.toNat + 16 ≤ (s.head (s.line n).head).prog.length →
      (∀ k < 16, (s.head (s.line n).head).prog[(s.line n).spc.toNat + k]? = some (b.extractLsb' (8 * k) 8)) →
      let u := from' (Turn.line n) (.line n) EventArg.zero
      (decodeBundle b = none → step s = ran (Turn.line n) (.next (u.bandFaultOf n 1))) ∧
      (∀ sl v0 v1 m, decodeBundle b = some (sl, v0, v1, m) →
        let u1 := { u with ctl := { u.ctl with latch := { w := (s.line n).w, z := (s.line n).z, e := (s.line n).e, mx := s.mx.filter fun x => x.line == n, on := true, target := none } } }
        let all := onNext (exec v0 u1) fun a => onNext (exec v1 a) fun b => onNext (match m with | some i => exec i b | none => .next b) fun c => exec sl c
        ∀ t, all = .next t →
          (t.ctl.wait = true → step s = ran (Turn.line n) (.next { u with ctl := { u.ctl with wait := true } })) ∧
          (∀ k, t.ctl.wait = false → t.ctl.bandFault = some k → step s = ran (Turn.line n) (.next (u.bandFaultOf n k))) ∧
          (t.ctl.wait = false → t.ctl.bandFault = none → ∃ t', step s = ran (Turn.line n) (.next t') ∧ t'.mem = t.mem ∧
            t'.line n = { t.line n with spc := t.ctl.latch.target.getD ((t.line n).spc + 16) }))) ∧
    (∀ r w i, s.ctl.agenda = .qi :: rest → s.qi.run = some r → r.words[r.pc]? = some w → decodeQ w = some i →
      step s = ran (Turn.qi) (exec i (from' (Turn.qi) .qi EventArg.zero))) ∧
    (∀ r, s.ctl.agenda = .qi :: rest → s.qi.run = some r → (r.words[r.pc]?).bind decodeQ = none →
      step s = ran (Turn.qi) (.next ((from' (Turn.qi) .qi EventArg.zero).failRun r .badprog 0))) ∧
    (∀ id n p c, s.ctl.agenda = .command id n :: rest → (s.qi.issued.find? fun x => x.id == id) = some p →
      p.cmds[n]? = some c → s.cmdMay p n = true →
      let u := from' (Turn.command id n) .none { EventArg.zero with ch := n }
      step s = ran (Turn.command id n) (exec (cmdInstr c.ty c.cmd) { u with ctl := { u.ctl with cmd := c.cmd } })) ∧
    (∀ x, s.ctl.agenda = x :: rest → s.fw.stopped = true → x.byCoreClk = true → step s = ran x (.next (here x))) ∧
    (∀ i a, s.ctl.agenda = .event i a :: rest → (s.fw.stopped = false ∨ (Turn.event i a).byCoreClk = false) →
      let u := from' (Turn.event i a) .none a
      step s = ran (Turn.event i a) (onNext (exec i u) fun t => .next (t.afterRead ((here (.event i a)).readerOf i a)))) ∧
    (s.ctl.agenda = [] → step s = s.ownTurn)

/-- The machine after bring-up: no group is resident, no cache, TLB or partition holds a line, every line core idle and
every head disabled, no ring registered, no tenant provisioned and the logs empty (R438; that memory then lists nothing, that the flash
is empty, that every core is enabled and what the clocks and counts begin at are the model's choices, log 4, 5 and 7); and
it meets both invariants that a step keeps. -/
def Obligations.ResetValues : Prop :=
  let s := State.reset
  (∀ u, s.group? u = none) ∧ (∀ c ln, s.l1Line c ln = Line.none) ∧ (∀ d ln, s.dieLine d ln = Line.none) ∧
  (∀ p ln, s.partLine p ln = Line.none) ∧ (∀ c key, SMap.find (s.core c).l1i key = none) ∧ (∀ d key, SMap.find (s.die d).code key = none) ∧
  (∀ c, (s.core c).tlb = [] ∧ (s.core c).ta.queue = [] ∧ (s.core c).ta.poison = false ∧ (s.core c).fifo = [] ∧ ∀ i, s.sem c i = 0) ∧
  (∀ c m, s.chan c m = []) ∧ (∀ d, (s.die d).tlb = [] ∧ (s.die d).faults = []) ∧
  (∀ n, (s.line n).st = .idle ∧ ∀ a, SMap.get 0 (s.line n).lb a = 0) ∧ (∀ h, (s.head h).on = false) ∧ s.qi.rings = [] ∧ s.qi.run = none ∧ s.qi.issued = [] ∧
  s.lu.grids = [] ∧ s.fw.tenants = [] ∧ s.fw.up = true ∧ (∀ a, memByte s.mem a = 0) ∧ s.canonical ∧ s.keyed

/-- Whatever step answers a next state keeps memory in its canonical form: addresses rise and no listed byte is what an unlisted
address reads as. The form is the model's own (log 4): R4 gives memory its bytes and no listing of them. -/
def Obligations.StepKeepsMemory : Prop := ∀ s t : State, s.canonical → step s = .next t → t.canonical

/-- Whatever step answers a next state keeps the machine's records under their own keys: a resident or saved group under its number,
a grid under its number, every one of these tables, the rings and the two partitions' lines sorted, so that no two
records share a key, and every scratchpad in its canonical form. The records, their keys and the sorted tables are the model's own form
(log 42, log 45): R15 and R341 give the groups and the grids their numbers alone. -/
def Obligations.StepKeepsRecords : Prop := ∀ s t : State, s.keyed → step s = .next t → t.keyed
end

