-- ==== Sys2Proof/Laws/Maps.lean ====
section
/-!
SUPPORT. The laws of the sparse tables: an entry written reads back, every other entry stays, and the canonical
form is kept.
-/

namespace Sys2Proof.Laws

variable {α : Type}

@[simp] theorem find_nil (n : Nat) : SMap.find ([] : SMap α) n = none := rfl
@[simp] theorem del_nil (n : Nat) : SMap.del ([] : SMap α) n = [] := rfl
@[simp] theorem put_nil (n : Nat) (x : α) : SMap.put ([] : SMap α) n x = [(n, x)] := rfl

theorem find_cons (k : Nat) (v : α) (t : SMap α) (n : Nat) :
    SMap.find ((k, v) :: t) n = if k = n then some v else SMap.find t n := rfl
theorem put_cons (k : Nat) (v : α) (t : SMap α) (n : Nat) (x : α) :
    SMap.put ((k, v) :: t) n x =
      if n < k then (n, x) :: (k, v) :: t else if k = n then (n, x) :: t else (k, v) :: SMap.put t n x := rfl
theorem del_cons (k : Nat) (v : α) (t : SMap α) (n : Nat) :
    SMap.del ((k, v) :: t) n =
      if k = n then SMap.del t n else (k, v) :: SMap.del t n := rfl

/-- Every key of the table is above n. -/
def Above (n : Nat) (m : SMap α) : Prop := ∀ p ∈ m, n < p.1

theorem sorted_cons (k : Nat) (v : α) (t : SMap α) :
    SMap.sorted ((k, v) :: t) = true ↔ Above k t ∧ SMap.sorted t = true := by
  induction t generalizing k v with
  | nil => simp [SMap.sorted, Above]
  | cons p t ih =>
    obtain ⟨k', v'⟩ := p
    rw [SMap.sorted]
    simp only [Bool.and_eq_true, decide_eq_true_eq, Above, List.mem_cons, forall_eq_or_imp]
    constructor
    · rintro ⟨h, hs⟩
      have := ((ih k' v').1 hs).1
      exact ⟨⟨h, fun p hp => Nat.lt_trans h (this p hp)⟩, hs⟩
    · rintro ⟨⟨h, -⟩, hs⟩
      exact ⟨h, hs⟩

/-- An entry written reads back. -/
@[simp] theorem find_put_self (m : SMap α) (n : Nat) (x : α) : SMap.find (SMap.put m n x) n = some x := by
  induction m with
  | nil => simp [SMap.find]
  | cons p t ih =>
    obtain ⟨k, v⟩ := p
    rw [put_cons]
    split
    · simp [find_cons]
    · split
      · simp [find_cons]
      · rw [find_cons, if_neg ‹_›, ih]

/-- A write leaves every other entry. -/
theorem find_put_other (m : SMap α) {n k : Nat} (x : α) (h : k ≠ n) :
    SMap.find (SMap.put m n x) k = SMap.find m k := by
  induction m with
  | nil => rw [put_nil, find_cons, if_neg (Ne.symm h)]
  | cons p t ih =>
    obtain ⟨k', v⟩ := p
    rw [put_cons]
    split
    · rw [find_cons, if_neg (Ne.symm h)]
    · split
      · subst_vars
        rw [find_cons, find_cons, if_neg (Ne.symm h), if_neg (Ne.symm h)]
      · rw [find_cons, find_cons, ih]

theorem above_put {n k : Nat} {m : SMap α} (x : α) (h : Above n m) (hk : n < k) : Above n (SMap.put m k x) := by
  induction m with
  | nil => intro p hp; simp at hp; subst hp; exact hk
  | cons p t ih =>
    obtain ⟨k', v⟩ := p
    have hp : n < k' := h (k', v) (by simp)
    have ht : Above n t := fun q hq => h q (by simp [hq])
    rw [put_cons]
    split
    · intro q hq; simp only [List.mem_cons] at hq
      rcases hq with rfl | rfl | hq <;> [exact hk; exact hp; exact ht q hq]
    · split
      · intro q hq; simp only [List.mem_cons] at hq
        rcases hq with rfl | hq <;> [exact hk; exact ht q hq]
      · intro q hq; simp only [List.mem_cons] at hq
        rcases hq with rfl | hq <;> [exact hp; exact ih ht q hq]

/-- A write keeps the keys strictly rising. -/
theorem sorted_put (m : SMap α) (n : Nat) (x : α) (h : SMap.sorted m = true) : SMap.sorted (SMap.put m n x) = true := by
  induction m with
  | nil => simp [SMap.sorted]
  | cons p t ih =>
    obtain ⟨k, v⟩ := p
    have hs := (sorted_cons k v t).1 h
    rw [put_cons]
    split
    · rename_i hlt
      rw [sorted_cons]
      refine ⟨?_, h⟩
      intro q hq; simp only [List.mem_cons] at hq
      rcases hq with rfl | hq
      · exact hlt
      · exact Nat.lt_trans hlt (hs.1 q hq)
    · split
      · subst_vars
        rw [sorted_cons]
        exact hs
      · rw [sorted_cons]
        exact ⟨above_put x hs.1 (by omega), ih hs.2⟩

theorem mem_of_mem_del {m : SMap α} {n : Nat} {p : Nat × α} (h : p ∈ SMap.del m n) : p ∈ m := by
  induction m with
  | nil => exact h
  | cons q t ih =>
    obtain ⟨k, v⟩ := q
    rw [del_cons] at h
    split at h
    · exact List.mem_cons_of_mem _ (ih h)
    · rcases List.mem_cons.1 h with rfl | h
      · simp
      · exact List.mem_cons_of_mem _ (ih h)

theorem mem_put {m : SMap α} {n : Nat} {x : α} {p : Nat × α} (h : p ∈ SMap.put m n x) : p = (n, x) ∨ p ∈ m := by
  induction m with
  | nil => simp at h; exact .inl h
  | cons q t ih =>
    obtain ⟨k, v⟩ := q
    rw [put_cons] at h
    split at h
    · exact List.mem_cons.1 h
    · split at h
      · rcases List.mem_cons.1 h with h | h
        · exact .inl h
        · exact .inr (List.mem_cons_of_mem _ h)
      · rcases List.mem_cons.1 h with rfl | h
        · simp
        · rcases ih h with h | h
          · exact .inl h
          · exact .inr (List.mem_cons_of_mem _ h)

/-- Removing an entry keeps the keys strictly rising. -/
theorem sorted_del (m : SMap α) (n : Nat) (h : SMap.sorted m = true) : SMap.sorted (SMap.del m n) = true := by
  induction m with
  | nil => rfl
  | cons p t ih =>
    obtain ⟨k, v⟩ := p
    have hs := (sorted_cons k v t).1 h
    rw [del_cons]
    split
    · exact ih hs.2
    · rw [sorted_cons]
      exact ⟨fun q hq => hs.1 q (mem_of_mem_del hq), ih hs.2⟩

@[simp] theorem find_del_self (m : SMap α) (n : Nat) : SMap.find (SMap.del m n) n = none := by
  induction m with
  | nil => rfl
  | cons p t ih =>
    obtain ⟨k, v⟩ := p
    rw [del_cons]
    split
    · exact ih
    · rw [find_cons, if_neg ‹_›, ih]

theorem find_del_other (m : SMap α) {n k : Nat} (h : k ≠ n) : SMap.find (SMap.del m n) k = SMap.find m k := by
  induction m with
  | nil => rfl
  | cons p t ih =>
    obtain ⟨k', v⟩ := p
    rw [del_cons]
    split
    · subst_vars
      rw [find_cons, if_neg (Ne.symm h), ih]
    · rw [find_cons, find_cons, ih]

/-- Every entry after a write. -/
theorem find_put (m : SMap α) (n k : Nat) (x : α) :
    SMap.find (SMap.put m n x) k = if k = n then some x else SMap.find m k := by
  split
  · subst_vars; exact find_put_self m _ x
  · exact find_put_other m x ‹_›

/-- A table whose values are changed by their keys. -/
theorem find_mapv {β : Type} (f : Nat → α → β) (m : SMap α) (n : Nat) :
    SMap.find (SMap.mapv f m) n = (SMap.find m n).map (f n) := by
  induction m with
  | nil => rfl
  | cons p t ih =>
    obtain ⟨k, v⟩ := p
    change SMap.find ((k, f k v) :: SMap.mapv f t) n = _
    rw [find_cons, find_cons]
    split
    · subst_vars; rfl
    · exact ih

/-- A table without the entries whose keys fail a test. -/
theorem find_filter (q : Nat → Bool) (m : SMap α) (n : Nat) :
    SMap.find (m.filter fun p => q p.1) n = if q n then SMap.find m n else none := by
  induction m with
  | nil => simp
  | cons p t ih =>
    obtain ⟨k, v⟩ := p
    rw [List.filter_cons, find_cons]
    by_cases hk : k = n
    · subst hk
      by_cases h : q k = true
      · simp [h, find_cons]
      · simpa [h] using ih
    · rw [if_neg hk]
      by_cases h : q k = true
      · simpa [h, find_cons, hk] using ih
      · simpa [h] using ih

theorem sorted_filter (q : Nat × α → Bool) (m : SMap α) (h : SMap.sorted m = true) : SMap.sorted (m.filter q) = true := by
  induction m with
  | nil => rfl
  | cons p t ih =>
    obtain ⟨k, v⟩ := p
    obtain ⟨ha, ht⟩ := (sorted_cons k v t).1 h
    by_cases hq : q (k, v) = true
    · rw [List.filter_cons_of_pos hq]
      exact (sorted_cons k v _).2 ⟨fun x hx => ha x (List.mem_filter.1 hx).1, ih ht⟩
    · rw [List.filter_cons_of_neg hq]
      exact ih ht

/-! ### Tables with a default -/

section
variable [DecidableEq α]

/-- A value written reads back. -/
@[simp] theorem get_set_self (d : α) (m : SMap α) (n : Nat) (x : α) : SMap.get d (SMap.set d m n x) n = x := by
  unfold SMap.get SMap.set
  split
  · subst_vars
    rw [find_del_self]; rfl
  · rw [find_put_self]; rfl

/-- A write leaves every other value. -/
theorem get_set_other (d : α) (m : SMap α) {n k : Nat} (x : α) (hk : k ≠ n) :
    SMap.get d (SMap.set d m n x) k = SMap.get d m k := by
  unfold SMap.get SMap.set
  split
  · rw [find_del_other m hk]
  · rw [find_put_other m x hk]

/-- Every value after a write. -/
theorem get_set (d : α) (m : SMap α) (n k : Nat) (x : α) :
    SMap.get d (SMap.set d m n x) k = if k = n then x else SMap.get d m k := by
  split
  · subst_vars; exact get_set_self d m _ x
  · exact get_set_other d m x ‹_›

theorem sorted_set (d : α) (m : SMap α) (n : Nat) (x : α) (h : SMap.sorted m = true) :
    SMap.sorted (SMap.set d m n x) = true := by
  unfold SMap.set
  split
  · exact sorted_del m n h
  · exact sorted_put m n x h

/-- A write keeps the canonical form. -/
theorem wf_set (d : α) (m : SMap α) (n : Nat) (x : α) (h : SMap.wf d m = true) : SMap.wf d (SMap.set d m n x) = true := by
  unfold SMap.wf at *
  simp only [Bool.and_eq_true, List.all_eq_true, decide_eq_true_eq] at *
  refine ⟨sorted_set d m n x h.1, ?_⟩
  intro p hp
  unfold SMap.set at hp
  split at hp
  · exact h.2 p (mem_of_mem_del hp)
  · rcases mem_put hp with rfl | hp
    · assumption
    · exact h.2 p hp

theorem wf_sorted {d : α} {m : SMap α} (h : SMap.wf d m = true) : SMap.sorted m = true := by
  unfold SMap.wf at h
  simp only [Bool.and_eq_true] at h
  exact h.1

theorem wf_filter (d : α) (q : Nat × α → Bool) (m : SMap α) (h : SMap.wf d m = true) : SMap.wf d (m.filter q) = true := by
  simp only [SMap.wf, Bool.and_eq_true, List.all_eq_true] at h ⊢
  exact ⟨sorted_filter q m h.1, fun x hx => h.2 x (List.mem_filter.1 hx).1⟩

@[simp] theorem wf_nil (d : α) : SMap.wf d ([] : SMap α) = true := rfl

end

end Sys2Proof.Laws
end

