-- ==== Sys2Proof/Laws/State.lean ====
section
/-!
SUPPORT. One lemma per field of State per update, so that no later proof unfolds a record update.
-/

namespace Sys2Proof.Laws

open Sys2Proof.Machine

/-! ### setGroup -/

@[simp] theorem setGroup_cores (s : State) (g : Group) : (s.setGroup g).cores = s.cores := rfl
@[simp] theorem setGroup_dies (s : State) (g : Group) : (s.setGroup g).dies = s.dies := rfl
@[simp] theorem setGroup_lines (s : State) (g : Group) : (s.setGroup g).lines = s.lines := rfl
@[simp] theorem setGroup_mx (s : State) (g : Group) : (s.setGroup g).mx = s.mx := rfl
@[simp] theorem setGroup_heads (s : State) (g : Group) : (s.setGroup g).heads = s.heads := rfl
@[simp] theorem setGroup_lu (s : State) (g : Group) : (s.setGroup g).lu = s.lu := rfl
@[simp] theorem setGroup_qi (s : State) (g : Group) : (s.setGroup g).qi = s.qi := rfl
@[simp] theorem setGroup_fw (s : State) (g : Group) : (s.setGroup g).fw = s.fw := rfl
@[simp] theorem setGroup_frame (s : State) (g : Group) : (s.setGroup g).frame = s.frame := rfl
@[simp] theorem setGroup_ringp (s : State) (g : Group) : (s.setGroup g).ringp = s.ringp := rfl
@[simp] theorem setGroup_mem (s : State) (g : Group) : (s.setGroup g).mem = s.mem := rfl
@[simp] theorem setGroup_walks (s : State) (g : Group) : (s.setGroup g).walks = s.walks := rfl
@[simp] theorem setGroup_ctl (s : State) (g : Group) : (s.setGroup g).ctl = s.ctl := rfl

/-! ### setCore -/

@[simp] theorem setCore_groups (s : State) (c : Nat) (x : Core) : (s.setCore c x).groups = s.groups := rfl
@[simp] theorem setCore_dies (s : State) (c : Nat) (x : Core) : (s.setCore c x).dies = s.dies := rfl
@[simp] theorem setCore_lines (s : State) (c : Nat) (x : Core) : (s.setCore c x).lines = s.lines := rfl
@[simp] theorem setCore_mx (s : State) (c : Nat) (x : Core) : (s.setCore c x).mx = s.mx := rfl
@[simp] theorem setCore_heads (s : State) (c : Nat) (x : Core) : (s.setCore c x).heads = s.heads := rfl
@[simp] theorem setCore_lu (s : State) (c : Nat) (x : Core) : (s.setCore c x).lu = s.lu := rfl
@[simp] theorem setCore_qi (s : State) (c : Nat) (x : Core) : (s.setCore c x).qi = s.qi := rfl
@[simp] theorem setCore_fw (s : State) (c : Nat) (x : Core) : (s.setCore c x).fw = s.fw := rfl
@[simp] theorem setCore_frame (s : State) (c : Nat) (x : Core) : (s.setCore c x).frame = s.frame := rfl
@[simp] theorem setCore_ringp (s : State) (c : Nat) (x : Core) : (s.setCore c x).ringp = s.ringp := rfl
@[simp] theorem setCore_mem (s : State) (c : Nat) (x : Core) : (s.setCore c x).mem = s.mem := rfl
@[simp] theorem setCore_walks (s : State) (c : Nat) (x : Core) : (s.setCore c x).walks = s.walks := rfl
@[simp] theorem setCore_ctl (s : State) (c : Nat) (x : Core) : (s.setCore c x).ctl = s.ctl := rfl

/-! ### setDie -/

@[simp] theorem setDie_groups (s : State) (d : Nat) (x : Die) : (s.setDie d x).groups = s.groups := rfl
@[simp] theorem setDie_cores (s : State) (d : Nat) (x : Die) : (s.setDie d x).cores = s.cores := rfl
@[simp] theorem setDie_lines (s : State) (d : Nat) (x : Die) : (s.setDie d x).lines = s.lines := rfl
@[simp] theorem setDie_mx (s : State) (d : Nat) (x : Die) : (s.setDie d x).mx = s.mx := rfl
@[simp] theorem setDie_heads (s : State) (d : Nat) (x : Die) : (s.setDie d x).heads = s.heads := rfl
@[simp] theorem setDie_lu (s : State) (d : Nat) (x : Die) : (s.setDie d x).lu = s.lu := rfl
@[simp] theorem setDie_qi (s : State) (d : Nat) (x : Die) : (s.setDie d x).qi = s.qi := rfl
@[simp] theorem setDie_fw (s : State) (d : Nat) (x : Die) : (s.setDie d x).fw = s.fw := rfl
@[simp] theorem setDie_frame (s : State) (d : Nat) (x : Die) : (s.setDie d x).frame = s.frame := rfl
@[simp] theorem setDie_ringp (s : State) (d : Nat) (x : Die) : (s.setDie d x).ringp = s.ringp := rfl
@[simp] theorem setDie_mem (s : State) (d : Nat) (x : Die) : (s.setDie d x).mem = s.mem := rfl
@[simp] theorem setDie_walks (s : State) (d : Nat) (x : Die) : (s.setDie d x).walks = s.walks := rfl
@[simp] theorem setDie_ctl (s : State) (d : Nat) (x : Die) : (s.setDie d x).ctl = s.ctl := rfl

/-! ### setHead -/

@[simp] theorem setHead_groups (s : State) (h : Nat) (x : Head) : (s.setHead h x).groups = s.groups := rfl
@[simp] theorem setHead_cores (s : State) (h : Nat) (x : Head) : (s.setHead h x).cores = s.cores := rfl
@[simp] theorem setHead_dies (s : State) (h : Nat) (x : Head) : (s.setHead h x).dies = s.dies := rfl
@[simp] theorem setHead_lines (s : State) (h : Nat) (x : Head) : (s.setHead h x).lines = s.lines := rfl
@[simp] theorem setHead_mx (s : State) (h : Nat) (x : Head) : (s.setHead h x).mx = s.mx := rfl
@[simp] theorem setHead_lu (s : State) (h : Nat) (x : Head) : (s.setHead h x).lu = s.lu := rfl
@[simp] theorem setHead_qi (s : State) (h : Nat) (x : Head) : (s.setHead h x).qi = s.qi := rfl
@[simp] theorem setHead_fw (s : State) (h : Nat) (x : Head) : (s.setHead h x).fw = s.fw := rfl
@[simp] theorem setHead_frame (s : State) (h : Nat) (x : Head) : (s.setHead h x).frame = s.frame := rfl
@[simp] theorem setHead_ringp (s : State) (h : Nat) (x : Head) : (s.setHead h x).ringp = s.ringp := rfl
@[simp] theorem setHead_mem (s : State) (h : Nat) (x : Head) : (s.setHead h x).mem = s.mem := rfl
@[simp] theorem setHead_walks (s : State) (h : Nat) (x : Head) : (s.setHead h x).walks = s.walks := rfl
@[simp] theorem setHead_ctl (s : State) (h : Nat) (x : Head) : (s.setHead h x).ctl = s.ctl := rfl

/-! ### setLine -/

@[simp] theorem setLine_groups (s : State) (n : Nat) (x : LineCore) : (s.setLine n x).groups = s.groups := rfl
@[simp] theorem setLine_cores (s : State) (n : Nat) (x : LineCore) : (s.setLine n x).cores = s.cores := rfl
@[simp] theorem setLine_dies (s : State) (n : Nat) (x : LineCore) : (s.setLine n x).dies = s.dies := rfl
@[simp] theorem setLine_mx (s : State) (n : Nat) (x : LineCore) : (s.setLine n x).mx = s.mx := rfl
@[simp] theorem setLine_heads (s : State) (n : Nat) (x : LineCore) : (s.setLine n x).heads = s.heads := rfl
@[simp] theorem setLine_lu (s : State) (n : Nat) (x : LineCore) : (s.setLine n x).lu = s.lu := rfl
@[simp] theorem setLine_qi (s : State) (n : Nat) (x : LineCore) : (s.setLine n x).qi = s.qi := rfl
@[simp] theorem setLine_fw (s : State) (n : Nat) (x : LineCore) : (s.setLine n x).fw = s.fw := rfl
@[simp] theorem setLine_frame (s : State) (n : Nat) (x : LineCore) : (s.setLine n x).frame = s.frame := rfl
@[simp] theorem setLine_ringp (s : State) (n : Nat) (x : LineCore) : (s.setLine n x).ringp = s.ringp := rfl
@[simp] theorem setLine_mem (s : State) (n : Nat) (x : LineCore) : (s.setLine n x).mem = s.mem := rfl
@[simp] theorem setLine_walks (s : State) (n : Nat) (x : LineCore) : (s.setLine n x).walks = s.walks := rfl
@[simp] theorem setLine_ctl (s : State) (n : Nat) (x : LineCore) : (s.setLine n x).ctl = s.ctl := rfl

/-! ### setL1Line -/

@[simp] theorem setL1Line_groups (s : State) (c ln : Nat) (l : Line) : (s.setL1Line c ln l).groups = s.groups := rfl
@[simp] theorem setL1Line_dies (s : State) (c ln : Nat) (l : Line) : (s.setL1Line c ln l).dies = s.dies := rfl
@[simp] theorem setL1Line_lines (s : State) (c ln : Nat) (l : Line) : (s.setL1Line c ln l).lines = s.lines := rfl
@[simp] theorem setL1Line_mx (s : State) (c ln : Nat) (l : Line) : (s.setL1Line c ln l).mx = s.mx := rfl
@[simp] theorem setL1Line_heads (s : State) (c ln : Nat) (l : Line) : (s.setL1Line c ln l).heads = s.heads := rfl
@[simp] theorem setL1Line_lu (s : State) (c ln : Nat) (l : Line) : (s.setL1Line c ln l).lu = s.lu := rfl
@[simp] theorem setL1Line_qi (s : State) (c ln : Nat) (l : Line) : (s.setL1Line c ln l).qi = s.qi := rfl
@[simp] theorem setL1Line_fw (s : State) (c ln : Nat) (l : Line) : (s.setL1Line c ln l).fw = s.fw := rfl
@[simp] theorem setL1Line_frame (s : State) (c ln : Nat) (l : Line) : (s.setL1Line c ln l).frame = s.frame := rfl
@[simp] theorem setL1Line_ringp (s : State) (c ln : Nat) (l : Line) : (s.setL1Line c ln l).ringp = s.ringp := rfl
@[simp] theorem setL1Line_mem (s : State) (c ln : Nat) (l : Line) : (s.setL1Line c ln l).mem = s.mem := rfl
@[simp] theorem setL1Line_walks (s : State) (c ln : Nat) (l : Line) : (s.setL1Line c ln l).walks = s.walks := rfl
@[simp] theorem setL1Line_ctl (s : State) (c ln : Nat) (l : Line) : (s.setL1Line c ln l).ctl = s.ctl := rfl

/-! ### setDieLine -/

@[simp] theorem setDieLine_groups (s : State) (d ln : Nat) (l : Line) : (s.setDieLine d ln l).groups = s.groups := rfl
@[simp] theorem setDieLine_cores (s : State) (d ln : Nat) (l : Line) : (s.setDieLine d ln l).cores = s.cores := rfl
@[simp] theorem setDieLine_lines (s : State) (d ln : Nat) (l : Line) : (s.setDieLine d ln l).lines = s.lines := rfl
@[simp] theorem setDieLine_mx (s : State) (d ln : Nat) (l : Line) : (s.setDieLine d ln l).mx = s.mx := rfl
@[simp] theorem setDieLine_heads (s : State) (d ln : Nat) (l : Line) : (s.setDieLine d ln l).heads = s.heads := rfl
@[simp] theorem setDieLine_lu (s : State) (d ln : Nat) (l : Line) : (s.setDieLine d ln l).lu = s.lu := rfl
@[simp] theorem setDieLine_qi (s : State) (d ln : Nat) (l : Line) : (s.setDieLine d ln l).qi = s.qi := rfl
@[simp] theorem setDieLine_fw (s : State) (d ln : Nat) (l : Line) : (s.setDieLine d ln l).fw = s.fw := rfl
@[simp] theorem setDieLine_frame (s : State) (d ln : Nat) (l : Line) : (s.setDieLine d ln l).frame = s.frame := rfl
@[simp] theorem setDieLine_ringp (s : State) (d ln : Nat) (l : Line) : (s.setDieLine d ln l).ringp = s.ringp := rfl
@[simp] theorem setDieLine_mem (s : State) (d ln : Nat) (l : Line) : (s.setDieLine d ln l).mem = s.mem := rfl
@[simp] theorem setDieLine_walks (s : State) (d ln : Nat) (l : Line) : (s.setDieLine d ln l).walks = s.walks := rfl
@[simp] theorem setDieLine_ctl (s : State) (d ln : Nat) (l : Line) : (s.setDieLine d ln l).ctl = s.ctl := rfl

/-! ### setPartLine -/

@[simp] theorem setPartLine_groups (s : State) (k ln : Nat) (l : Line) : (s.setPartLine k ln l).groups = s.groups := by unfold State.setPartLine; split <;> rfl
@[simp] theorem setPartLine_cores (s : State) (k ln : Nat) (l : Line) : (s.setPartLine k ln l).cores = s.cores := by unfold State.setPartLine; split <;> rfl
@[simp] theorem setPartLine_dies (s : State) (k ln : Nat) (l : Line) : (s.setPartLine k ln l).dies = s.dies := by unfold State.setPartLine; split <;> rfl
@[simp] theorem setPartLine_lines (s : State) (k ln : Nat) (l : Line) : (s.setPartLine k ln l).lines = s.lines := by unfold State.setPartLine; split <;> rfl
@[simp] theorem setPartLine_mx (s : State) (k ln : Nat) (l : Line) : (s.setPartLine k ln l).mx = s.mx := by unfold State.setPartLine; split <;> rfl
@[simp] theorem setPartLine_heads (s : State) (k ln : Nat) (l : Line) : (s.setPartLine k ln l).heads = s.heads := by unfold State.setPartLine; split <;> rfl
@[simp] theorem setPartLine_lu (s : State) (k ln : Nat) (l : Line) : (s.setPartLine k ln l).lu = s.lu := by unfold State.setPartLine; split <;> rfl
@[simp] theorem setPartLine_qi (s : State) (k ln : Nat) (l : Line) : (s.setPartLine k ln l).qi = s.qi := by unfold State.setPartLine; split <;> rfl
@[simp] theorem setPartLine_fw (s : State) (k ln : Nat) (l : Line) : (s.setPartLine k ln l).fw = s.fw := by unfold State.setPartLine; split <;> rfl
@[simp] theorem setPartLine_mem (s : State) (k ln : Nat) (l : Line) : (s.setPartLine k ln l).mem = s.mem := by unfold State.setPartLine; split <;> rfl
@[simp] theorem setPartLine_walks (s : State) (k ln : Nat) (l : Line) : (s.setPartLine k ln l).walks = s.walks := by unfold State.setPartLine; split <;> rfl
@[simp] theorem setPartLine_ctl (s : State) (k ln : Nat) (l : Line) : (s.setPartLine k ln l).ctl = s.ctl := by unfold State.setPartLine; split <;> rfl

/-! ### setWarp -/

@[simp] theorem setWarp_cores (s : State) (u k : Nat) (w : Warp) : (s.setWarp u k w).cores = s.cores := by unfold State.setWarp; split <;> rfl
@[simp] theorem setWarp_dies (s : State) (u k : Nat) (w : Warp) : (s.setWarp u k w).dies = s.dies := by unfold State.setWarp; split <;> rfl
@[simp] theorem setWarp_lines (s : State) (u k : Nat) (w : Warp) : (s.setWarp u k w).lines = s.lines := by unfold State.setWarp; split <;> rfl
@[simp] theorem setWarp_mx (s : State) (u k : Nat) (w : Warp) : (s.setWarp u k w).mx = s.mx := by unfold State.setWarp; split <;> rfl
@[simp] theorem setWarp_heads (s : State) (u k : Nat) (w : Warp) : (s.setWarp u k w).heads = s.heads := by unfold State.setWarp; split <;> rfl
@[simp] theorem setWarp_lu (s : State) (u k : Nat) (w : Warp) : (s.setWarp u k w).lu = s.lu := by unfold State.setWarp; split <;> rfl
@[simp] theorem setWarp_qi (s : State) (u k : Nat) (w : Warp) : (s.setWarp u k w).qi = s.qi := by unfold State.setWarp; split <;> rfl
@[simp] theorem setWarp_fw (s : State) (u k : Nat) (w : Warp) : (s.setWarp u k w).fw = s.fw := by unfold State.setWarp; split <;> rfl
@[simp] theorem setWarp_frame (s : State) (u k : Nat) (w : Warp) : (s.setWarp u k w).frame = s.frame := by unfold State.setWarp; split <;> rfl
@[simp] theorem setWarp_ringp (s : State) (u k : Nat) (w : Warp) : (s.setWarp u k w).ringp = s.ringp := by unfold State.setWarp; split <;> rfl
@[simp] theorem setWarp_mem (s : State) (u k : Nat) (w : Warp) : (s.setWarp u k w).mem = s.mem := by unfold State.setWarp; split <;> rfl
@[simp] theorem setWarp_walks (s : State) (u k : Nat) (w : Warp) : (s.setWarp u k w).walks = s.walks := by unfold State.setWarp; split <;> rfl
@[simp] theorem setWarp_ctl (s : State) (u k : Nat) (w : Warp) : (s.setWarp u k w).ctl = s.ctl := by unfold State.setWarp; split <;> rfl

/-! ### setA -/

@[simp] theorem setA_cores (s : State) (u : Nat) (a : ACtx) : (s.setA u a).cores = s.cores := by unfold State.setA; split <;> rfl
@[simp] theorem setA_dies (s : State) (u : Nat) (a : ACtx) : (s.setA u a).dies = s.dies := by unfold State.setA; split <;> rfl
@[simp] theorem setA_lines (s : State) (u : Nat) (a : ACtx) : (s.setA u a).lines = s.lines := by unfold State.setA; split <;> rfl
@[simp] theorem setA_mx (s : State) (u : Nat) (a : ACtx) : (s.setA u a).mx = s.mx := by unfold State.setA; split <;> rfl
@[simp] theorem setA_heads (s : State) (u : Nat) (a : ACtx) : (s.setA u a).heads = s.heads := by unfold State.setA; split <;> rfl
@[simp] theorem setA_lu (s : State) (u : Nat) (a : ACtx) : (s.setA u a).lu = s.lu := by unfold State.setA; split <;> rfl
@[simp] theorem setA_qi (s : State) (u : Nat) (a : ACtx) : (s.setA u a).qi = s.qi := by unfold State.setA; split <;> rfl
@[simp] theorem setA_fw (s : State) (u : Nat) (a : ACtx) : (s.setA u a).fw = s.fw := by unfold State.setA; split <;> rfl
@[simp] theorem setA_frame (s : State) (u : Nat) (a : ACtx) : (s.setA u a).frame = s.frame := by unfold State.setA; split <;> rfl
@[simp] theorem setA_ringp (s : State) (u : Nat) (a : ACtx) : (s.setA u a).ringp = s.ringp := by unfold State.setA; split <;> rfl
@[simp] theorem setA_mem (s : State) (u : Nat) (a : ACtx) : (s.setA u a).mem = s.mem := by unfold State.setA; split <;> rfl
@[simp] theorem setA_walks (s : State) (u : Nat) (a : ACtx) : (s.setA u a).walks = s.walks := by unfold State.setA; split <;> rfl
@[simp] theorem setA_ctl (s : State) (u : Nat) (a : ACtx) : (s.setA u a).ctl = s.ctl := by unfold State.setA; split <;> rfl

/-! ### bump -/

@[simp] theorem bump_groups (s : State) (t k u n : Nat) : (s.bump t k u n).groups = s.groups := rfl
@[simp] theorem bump_cores (s : State) (t k u n : Nat) : (s.bump t k u n).cores = s.cores := rfl
@[simp] theorem bump_dies (s : State) (t k u n : Nat) : (s.bump t k u n).dies = s.dies := rfl
@[simp] theorem bump_lines (s : State) (t k u n : Nat) : (s.bump t k u n).lines = s.lines := rfl
@[simp] theorem bump_mx (s : State) (t k u n : Nat) : (s.bump t k u n).mx = s.mx := rfl
@[simp] theorem bump_heads (s : State) (t k u n : Nat) : (s.bump t k u n).heads = s.heads := rfl
@[simp] theorem bump_lu (s : State) (t k u n : Nat) : (s.bump t k u n).lu = s.lu := rfl
@[simp] theorem bump_qi (s : State) (t k u n : Nat) : (s.bump t k u n).qi = s.qi := rfl
@[simp] theorem bump_frame (s : State) (t k u n : Nat) : (s.bump t k u n).frame = s.frame := rfl
@[simp] theorem bump_ringp (s : State) (t k u n : Nat) : (s.bump t k u n).ringp = s.ringp := rfl
@[simp] theorem bump_mem (s : State) (t k u n : Nat) : (s.bump t k u n).mem = s.mem := rfl
@[simp] theorem bump_walks (s : State) (t k u n : Nat) : (s.bump t k u n).walks = s.walks := rfl
@[simp] theorem bump_ctl (s : State) (t k u n : Nat) : (s.bump t k u n).ctl = s.ctl := rfl

/-! ### hintDrop -/

@[simp] theorem hintDrop_groups (s : State) (t n : Nat) : (s.hintDrop t n).groups = s.groups := rfl
@[simp] theorem hintDrop_cores (s : State) (t n : Nat) : (s.hintDrop t n).cores = s.cores := rfl
@[simp] theorem hintDrop_dies (s : State) (t n : Nat) : (s.hintDrop t n).dies = s.dies := rfl
@[simp] theorem hintDrop_lines (s : State) (t n : Nat) : (s.hintDrop t n).lines = s.lines := rfl
@[simp] theorem hintDrop_mx (s : State) (t n : Nat) : (s.hintDrop t n).mx = s.mx := rfl
@[simp] theorem hintDrop_heads (s : State) (t n : Nat) : (s.hintDrop t n).heads = s.heads := rfl
@[simp] theorem hintDrop_lu (s : State) (t n : Nat) : (s.hintDrop t n).lu = s.lu := rfl
@[simp] theorem hintDrop_qi (s : State) (t n : Nat) : (s.hintDrop t n).qi = s.qi := rfl
@[simp] theorem hintDrop_frame (s : State) (t n : Nat) : (s.hintDrop t n).frame = s.frame := rfl
@[simp] theorem hintDrop_ringp (s : State) (t n : Nat) : (s.hintDrop t n).ringp = s.ringp := rfl
@[simp] theorem hintDrop_mem (s : State) (t n : Nat) : (s.hintDrop t n).mem = s.mem := rfl
@[simp] theorem hintDrop_walks (s : State) (t n : Nat) : (s.hintDrop t n).walks = s.walks := rfl
@[simp] theorem hintDrop_ctl (s : State) (t n : Nat) : (s.hintDrop t n).ctl = s.ctl := rfl

/-! ### post -/

@[simp] theorem post_groups (s : State) (t : Nat) (e : BitVec 512) : (s.post t e).groups = s.groups := rfl
@[simp] theorem post_cores (s : State) (t : Nat) (e : BitVec 512) : (s.post t e).cores = s.cores := rfl
@[simp] theorem post_dies (s : State) (t : Nat) (e : BitVec 512) : (s.post t e).dies = s.dies := rfl
@[simp] theorem post_lines (s : State) (t : Nat) (e : BitVec 512) : (s.post t e).lines = s.lines := rfl
@[simp] theorem post_mx (s : State) (t : Nat) (e : BitVec 512) : (s.post t e).mx = s.mx := rfl
@[simp] theorem post_heads (s : State) (t : Nat) (e : BitVec 512) : (s.post t e).heads = s.heads := rfl
@[simp] theorem post_lu (s : State) (t : Nat) (e : BitVec 512) : (s.post t e).lu = s.lu := rfl
@[simp] theorem post_qi (s : State) (t : Nat) (e : BitVec 512) : (s.post t e).qi = s.qi := rfl
@[simp] theorem post_frame (s : State) (t : Nat) (e : BitVec 512) : (s.post t e).frame = s.frame := rfl
@[simp] theorem post_ringp (s : State) (t : Nat) (e : BitVec 512) : (s.post t e).ringp = s.ringp := rfl
@[simp] theorem post_mem (s : State) (t : Nat) (e : BitVec 512) : (s.post t e).mem = s.mem := rfl
@[simp] theorem post_walks (s : State) (t : Nat) (e : BitVec 512) : (s.post t e).walks = s.walks := rfl
@[simp] theorem post_ctl (s : State) (t : Nat) (e : BitVec 512) : (s.post t e).ctl = s.ctl := rfl

/-! ### sideEffect -/

@[simp] theorem sideEffect_cores (s : State) (u : Nat) : (s.sideEffect u).cores = s.cores := by unfold State.sideEffect; split <;> rfl
@[simp] theorem sideEffect_dies (s : State) (u : Nat) : (s.sideEffect u).dies = s.dies := by unfold State.sideEffect; split <;> rfl
@[simp] theorem sideEffect_lines (s : State) (u : Nat) : (s.sideEffect u).lines = s.lines := by unfold State.sideEffect; split <;> rfl
@[simp] theorem sideEffect_mx (s : State) (u : Nat) : (s.sideEffect u).mx = s.mx := by unfold State.sideEffect; split <;> rfl
@[simp] theorem sideEffect_heads (s : State) (u : Nat) : (s.sideEffect u).heads = s.heads := by unfold State.sideEffect; split <;> rfl
@[simp] theorem sideEffect_qi (s : State) (u : Nat) : (s.sideEffect u).qi = s.qi := by unfold State.sideEffect; split <;> rfl
@[simp] theorem sideEffect_fw (s : State) (u : Nat) : (s.sideEffect u).fw = s.fw := by unfold State.sideEffect; split <;> rfl
@[simp] theorem sideEffect_frame (s : State) (u : Nat) : (s.sideEffect u).frame = s.frame := by unfold State.sideEffect; split <;> rfl
@[simp] theorem sideEffect_ringp (s : State) (u : Nat) : (s.sideEffect u).ringp = s.ringp := by unfold State.sideEffect; split <;> rfl
@[simp] theorem sideEffect_mem (s : State) (u : Nat) : (s.sideEffect u).mem = s.mem := by unfold State.sideEffect; split <;> rfl
@[simp] theorem sideEffect_walks (s : State) (u : Nat) : (s.sideEffect u).walks = s.walks := by unfold State.sideEffect; split <;> rfl
@[simp] theorem sideEffect_ctl (s : State) (u : Nat) : (s.sideEffect u).ctl = s.ctl := by unfold State.sideEffect; split <;> rfl

/-- Of a resident group alone the side effect changes. -/
theorem sideEffect_lu {s : State} {u : Nat} {g : Group} (h : s.group? u = some g) : (s.sideEffect u).lu = s.lu := by
  unfold State.sideEffect; rw [h]; rfl

/-! ### wroteRing -/

@[simp] theorem wroteRing_groups (s : State) (u : Nat) (p : Page) (n : Nat) : (s.wroteRing u p n).groups = s.groups := by unfold State.wroteRing; split <;> rfl
@[simp] theorem wroteRing_cores (s : State) (u : Nat) (p : Page) (n : Nat) : (s.wroteRing u p n).cores = s.cores := by unfold State.wroteRing; split <;> rfl
@[simp] theorem wroteRing_dies (s : State) (u : Nat) (p : Page) (n : Nat) : (s.wroteRing u p n).dies = s.dies := by unfold State.wroteRing; split <;> rfl
@[simp] theorem wroteRing_walks (s : State) (u : Nat) (p : Page) (n : Nat) : (s.wroteRing u p n).walks = s.walks := by unfold State.wroteRing; split <;> rfl
@[simp] theorem wroteRing_lines (s : State) (u : Nat) (p : Page) (n : Nat) : (s.wroteRing u p n).lines = s.lines := by unfold State.wroteRing; split <;> rfl
@[simp] theorem wroteRing_mx (s : State) (u : Nat) (p : Page) (n : Nat) : (s.wroteRing u p n).mx = s.mx := by unfold State.wroteRing; split <;> rfl
@[simp] theorem wroteRing_heads (s : State) (u : Nat) (p : Page) (n : Nat) : (s.wroteRing u p n).heads = s.heads := by unfold State.wroteRing; split <;> rfl
@[simp] theorem wroteRing_lu (s : State) (u : Nat) (p : Page) (n : Nat) : (s.wroteRing u p n).lu = s.lu := by unfold State.wroteRing; split <;> rfl
@[simp] theorem wroteRing_fw (s : State) (u : Nat) (p : Page) (n : Nat) : (s.wroteRing u p n).fw = s.fw := by unfold State.wroteRing; split <;> rfl
@[simp] theorem wroteRing_frame (s : State) (u : Nat) (p : Page) (n : Nat) : (s.wroteRing u p n).frame = s.frame := by unfold State.wroteRing; split <;> rfl
@[simp] theorem wroteRing_ringp (s : State) (u : Nat) (p : Page) (n : Nat) : (s.wroteRing u p n).ringp = s.ringp := by unfold State.wroteRing; split <;> rfl
@[simp] theorem wroteRing_mem (s : State) (u : Nat) (p : Page) (n : Nat) : (s.wroteRing u p n).mem = s.mem := by unfold State.wroteRing; split <;> rfl
@[simp] theorem wroteRing_ctl (s : State) (u : Nat) (p : Page) (n : Nat) : (s.wroteRing u p n).ctl = s.ctl := by unfold State.wroteRing; split <;> rfl

/-! ### setWalks -/

@[simp] theorem setWalks_groups (s : State) (d : Nat) (l : List Walk) : (s.setWalks d l).groups = s.groups := rfl
@[simp] theorem setWalks_cores (s : State) (d : Nat) (l : List Walk) : (s.setWalks d l).cores = s.cores := rfl
@[simp] theorem setWalks_dies (s : State) (d : Nat) (l : List Walk) : (s.setWalks d l).dies = s.dies := rfl
@[simp] theorem setWalks_lines (s : State) (d : Nat) (l : List Walk) : (s.setWalks d l).lines = s.lines := rfl
@[simp] theorem setWalks_mx (s : State) (d : Nat) (l : List Walk) : (s.setWalks d l).mx = s.mx := rfl
@[simp] theorem setWalks_heads (s : State) (d : Nat) (l : List Walk) : (s.setWalks d l).heads = s.heads := rfl
@[simp] theorem setWalks_lu (s : State) (d : Nat) (l : List Walk) : (s.setWalks d l).lu = s.lu := rfl
@[simp] theorem setWalks_qi (s : State) (d : Nat) (l : List Walk) : (s.setWalks d l).qi = s.qi := rfl
@[simp] theorem setWalks_fw (s : State) (d : Nat) (l : List Walk) : (s.setWalks d l).fw = s.fw := rfl
@[simp] theorem setWalks_frame (s : State) (d : Nat) (l : List Walk) : (s.setWalks d l).frame = s.frame := rfl
@[simp] theorem setWalks_ringp (s : State) (d : Nat) (l : List Walk) : (s.setWalks d l).ringp = s.ringp := rfl
@[simp] theorem setWalks_mem (s : State) (d : Nat) (l : List Walk) : (s.setWalks d l).mem = s.mem := rfl
@[simp] theorem setWalks_ctl (s : State) (d : Nat) (l : List Walk) : (s.setWalks d l).ctl = s.ctl := rfl

/-! ### waits -/

@[simp] theorem waits_groups (s : State) : (s.waits).groups = s.groups := rfl
@[simp] theorem waits_cores (s : State) : (s.waits).cores = s.cores := rfl
@[simp] theorem waits_dies (s : State) : (s.waits).dies = s.dies := rfl
@[simp] theorem waits_lines (s : State) : (s.waits).lines = s.lines := rfl
@[simp] theorem waits_mx (s : State) : (s.waits).mx = s.mx := rfl
@[simp] theorem waits_heads (s : State) : (s.waits).heads = s.heads := rfl
@[simp] theorem waits_lu (s : State) : (s.waits).lu = s.lu := rfl
@[simp] theorem waits_qi (s : State) : (s.waits).qi = s.qi := rfl
@[simp] theorem waits_fw (s : State) : (s.waits).fw = s.fw := rfl
@[simp] theorem waits_frame (s : State) : (s.waits).frame = s.frame := rfl
@[simp] theorem waits_ringp (s : State) : (s.waits).ringp = s.ringp := rfl
@[simp] theorem waits_mem (s : State) : (s.waits).mem = s.mem := rfl
@[simp] theorem waits_walks (s : State) : (s.waits).walks = s.walks := rfl

/-! ### cmdWaits -/

@[simp] theorem cmdWaits_groups (s : State) : (s.cmdWaits).groups = s.groups := rfl
@[simp] theorem cmdWaits_cores (s : State) : (s.cmdWaits).cores = s.cores := rfl
@[simp] theorem cmdWaits_dies (s : State) : (s.cmdWaits).dies = s.dies := rfl
@[simp] theorem cmdWaits_lines (s : State) : (s.cmdWaits).lines = s.lines := rfl
@[simp] theorem cmdWaits_mx (s : State) : (s.cmdWaits).mx = s.mx := rfl
@[simp] theorem cmdWaits_heads (s : State) : (s.cmdWaits).heads = s.heads := rfl
@[simp] theorem cmdWaits_lu (s : State) : (s.cmdWaits).lu = s.lu := rfl
@[simp] theorem cmdWaits_qi (s : State) : (s.cmdWaits).qi = s.qi := rfl
@[simp] theorem cmdWaits_fw (s : State) : (s.cmdWaits).fw = s.fw := rfl
@[simp] theorem cmdWaits_frame (s : State) : (s.cmdWaits).frame = s.frame := rfl
@[simp] theorem cmdWaits_ringp (s : State) : (s.cmdWaits).ringp = s.ringp := rfl
@[simp] theorem cmdWaits_mem (s : State) : (s.cmdWaits).mem = s.mem := rfl
@[simp] theorem cmdWaits_walks (s : State) : (s.cmdWaits).walks = s.walks := rfl

/-! ### send -/

@[simp] theorem send_groups (s : State) (x : Sent) : (s.send x).groups = s.groups := rfl
@[simp] theorem send_cores (s : State) (x : Sent) : (s.send x).cores = s.cores := rfl
@[simp] theorem send_dies (s : State) (x : Sent) : (s.send x).dies = s.dies := rfl
@[simp] theorem send_lines (s : State) (x : Sent) : (s.send x).lines = s.lines := rfl
@[simp] theorem send_mx (s : State) (x : Sent) : (s.send x).mx = s.mx := rfl
@[simp] theorem send_heads (s : State) (x : Sent) : (s.send x).heads = s.heads := rfl
@[simp] theorem send_lu (s : State) (x : Sent) : (s.send x).lu = s.lu := rfl
@[simp] theorem send_qi (s : State) (x : Sent) : (s.send x).qi = s.qi := rfl
@[simp] theorem send_fw (s : State) (x : Sent) : (s.send x).fw = s.fw := rfl
@[simp] theorem send_frame (s : State) (x : Sent) : (s.send x).frame = s.frame := rfl
@[simp] theorem send_ringp (s : State) (x : Sent) : (s.send x).ringp = s.ringp := rfl
@[simp] theorem send_mem (s : State) (x : Sent) : (s.send x).mem = s.mem := rfl
@[simp] theorem send_walks (s : State) (x : Sent) : (s.send x).walks = s.walks := rfl

/-! ### actFor -/

@[simp] theorem actFor_groups (s : State) (a : Agent) (g : EventArg) : (s.actFor a g).groups = s.groups := rfl
@[simp] theorem actFor_cores (s : State) (a : Agent) (g : EventArg) : (s.actFor a g).cores = s.cores := rfl
@[simp] theorem actFor_dies (s : State) (a : Agent) (g : EventArg) : (s.actFor a g).dies = s.dies := rfl
@[simp] theorem actFor_lines (s : State) (a : Agent) (g : EventArg) : (s.actFor a g).lines = s.lines := rfl
@[simp] theorem actFor_mx (s : State) (a : Agent) (g : EventArg) : (s.actFor a g).mx = s.mx := rfl
@[simp] theorem actFor_heads (s : State) (a : Agent) (g : EventArg) : (s.actFor a g).heads = s.heads := rfl
@[simp] theorem actFor_lu (s : State) (a : Agent) (g : EventArg) : (s.actFor a g).lu = s.lu := rfl
@[simp] theorem actFor_qi (s : State) (a : Agent) (g : EventArg) : (s.actFor a g).qi = s.qi := rfl
@[simp] theorem actFor_fw (s : State) (a : Agent) (g : EventArg) : (s.actFor a g).fw = s.fw := rfl
@[simp] theorem actFor_frame (s : State) (a : Agent) (g : EventArg) : (s.actFor a g).frame = s.frame := rfl
@[simp] theorem actFor_ringp (s : State) (a : Agent) (g : EventArg) : (s.actFor a g).ringp = s.ringp := rfl
@[simp] theorem actFor_mem (s : State) (a : Agent) (g : EventArg) : (s.actFor a g).mem = s.mem := rfl
@[simp] theorem actFor_walks (s : State) (a : Agent) (g : EventArg) : (s.actFor a g).walks = s.walks := rfl

/-! ### What an update writes reads back -/

@[simp] theorem setCore_cores (s : State) (c : Nat) (x : Core) :
    (s.setCore c x).cores = SMap.set Core.zero s.cores c x := rfl
@[simp] theorem setDie_dies (s : State) (d : Nat) (x : Die) : (s.setDie d x).dies = SMap.set Die.zero s.dies d x := rfl
@[simp] theorem setHead_heads (s : State) (h : Nat) (x : Head) :
    (s.setHead h x).heads = SMap.set Head.zero s.heads h x := rfl
@[simp] theorem setLine_lines (s : State) (n : Nat) (x : LineCore) :
    (s.setLine n x).lines = SMap.set LineCore.zero s.lines n x := rfl
@[simp] theorem setWalks_walks (s : State) (d : Nat) (l : List Walk) :
    (s.setWalks d l).walks = SMap.set [] s.walks d l := rfl
@[simp] theorem setGroup_groups (s : State) (g : Group) : (s.setGroup g).groups = SMap.put s.groups g.uid g := rfl

@[simp] theorem freeNat_state (s : State) :
    s.freeNat.1 = { s with ctl := { s.ctl with fresh := s.ctl.fresh + 1 } } := rfl

end Sys2Proof.Laws
end

