-- ==== Sys2Proof/Laws/Issue.lean ====
section
/-!
SUPPORT. What the issue of an instruction of either stream can do, said once: its effect where it is ready, and what
completing it leaves unchanged.
-/

namespace Sys2Proof.Laws

open Sys2Proof.Machine

/-! ### Groups and warps -/

@[simp] theorem setGroup_self (s : State) (g : Group) : (s.setGroup g).group? g.uid = some g := find_put_self _ _ _

theorem setGroup_other (s : State) (g : Group) {uid : Nat} (h : uid ≠ g.uid) : (s.setGroup g).group? uid = s.group? uid :=
  find_put_other _ _ h

@[simp] theorem setGroup_bump (s : State) (g : Group) (t k u n : Nat) :
    (s.bump t k u n).setGroup g = (s.setGroup g).bump t k u n := rfl

@[simp] theorem bump_group (s : State) (t k u n uid : Nat) : (s.bump t k u n).group? uid = s.group? uid := rfl

@[simp] theorem warp_setWarp_self (g : Group) (slot : Nat) (w : Warp) : (g.setWarp slot w).warp? slot = some w :=
  find_put_self _ _ _

theorem warp_setWarp_other (g : Group) (slot : Nat) (w : Warp) {k : Nat} (h : k ≠ slot) :
    (g.setWarp slot w).warp? k = g.warp? k := find_put_other _ _ h

@[simp] theorem setWarp_uid (g : Group) (slot : Nat) (w : Warp) : (g.setWarp slot w).uid = g.uid := rfl

theorem setWarp_of_group {s : State} {uid slot : Nat} {g : Group} {w : Warp} (h : s.group? uid = some g) :
    s.setWarp uid slot w = s.setGroup (g.setWarp slot w) := by simp [State.setWarp, h]

/-! ### Completing a T instruction -/

/-- A push changes the queues of the group alone. -/
theorem pushT_eq {g g' : Group} {n slot : Nat} (h : g.pushT n slot = some g') : g' = { g with queues := g'.queues } := by
  unfold Group.pushT at h
  simp only at h
  split at h
  · cases h; rfl
  · split at h
    · cases h; rfl
    · cases h

/-- A push of a warp, made or left due: the group's queues, or the warp's pending push, and nothing else. -/
theorem pushDone_cases (s : State) (g : Group) (slot q : Nat) (w : Warp) (hg : s.group? g.uid = some g)
    (hw : g.warp? slot = some w) :
    (q = 0 ∧ s.pushDone g.uid slot q = s) ∨
    (q ≠ 0 ∧ ∃ g', g.pushT q slot = some g' ∧ s.pushDone g.uid slot q = s.setGroup g') ∨
    (q ≠ 0 ∧ g.pushT q slot = none ∧
      s.pushDone g.uid slot q = s.setGroup (g.setWarp slot { w with pushDue := some q })) := by
  unfold State.pushDone
  by_cases hq : q = 0
  · exact .inl ⟨hq, by simp [hq]⟩
  · rw [if_neg hq, hg]
    simp only
    cases hp : g.pushT q slot with
    | some g' => exact .inr (.inl ⟨hq, g', rfl, rfl⟩)
    | none => exact .inr (.inr ⟨hq, rfl, by simp [hw]⟩)

/-- The thread states that an advance leaves. -/
theorem advance_thread (w : Warp) (run : BitVec 32) (pc len th : Nat) :
    (w.advance run pc len).thread th =
      match w.thread th with
      | .live q => if bit run th && q.toNat == pc then .live (BitVec.ofNat 32 (pc + len)) else .live q
      | x => x := by
  unfold Warp.thread Warp.advance SMap.get
  simp only [find_mapv]
  cases SMap.find w.threads th with
  | none => rfl
  | some x => cases x <;> rfl

theorem complete_thread (e : TEnv) (w : Warp) (red : BitVec 32) (th : Nat) :
    (e.complete w red).thread th =
      match w.thread th with
      | .live q => if bit e.run th && !bit red th && q.toNat == e.pc then .live (BitVec.ofNat 32 (e.pc + tBytes e.i)) else .live q
      | x => x := by
  have h := advance_thread { w with regs := e.drop w.regs } (e.run &&& ~~~red) e.pc (tBytes e.i) th
  have hb : ∀ a : BitVec 32, bit (a &&& ~~~red) th = (bit a th && !bit red th) ∨ 32 ≤ th := by
    intro a
    by_cases h : th < 32
    · left; simp [bit, h]
    · right; omega
  change (Warp.advance _ _ _ _).thread th = _
  rw [h]
  change (match w.thread th with | .live q => _ | x => x) = _
  rcases hb e.run with hb | hb
  · rw [hb]
  · have h1 : ∀ a : BitVec 32, bit a th = false := fun a => BitVec.getLsbD_of_ge _ _ hb
    simp only [h1]
    cases w.thread th <;> simp

theorem bump_counts (s : State) (t k u j : Nat) :
    SMap.get 0 (s.bump t k u 1).fw.counts j =
      if j = countKey t k u then SMap.get 0 s.fw.counts j + 1 else SMap.get 0 s.fw.counts j := by
  change SMap.get 0 (SMap.set 0 _ _ _) j = _
  rw [get_set]
  split
  · subst_vars; rfl
  · rfl

/-- A push asks the queues alone. -/
theorem pushT_warps (g : Group) (ws : SMap Warp) (n slot : Nat) :
    ({ g with warps := ws } : Group).pushT n slot = (g.pushT n slot).map fun x => { x with warps := ws } := by
  unfold Group.pushT
  simp only
  split
  · rfl
  · split <;> rfl

/-- What completing a T instruction leaves (TEnv.Done). -/
theorem finish_done (e : TEnv) (s : State) (g : Group) (w : Warp) (red : BitVec 32)
    (hg : s.group? e.g.uid = some g) (hu : g.uid = e.g.uid) :
    ∃ g' w', e.Done s g w red (e.finish s w red) g' w' := by
  have hset : s.setWarp e.g.uid e.slot (e.complete w red) = s.setGroup (g.setWarp e.slot (e.complete w red)) :=
    setWarp_of_group hg
  unfold TEnv.finish
  rw [hset]
  have hpush : (g.setWarp e.slot (e.complete w red)).pushT e.i.pushq.toNat e.slot =
      (g.pushT e.i.pushq.toNat e.slot).map fun x => { x with warps := SMap.put g.warps e.slot (e.complete w red) } :=
    pushT_warps _ _ _ _
  set g1 := g.setWarp e.slot (e.complete w red) with hg1
  have hu1 : g1.uid = e.g.uid := hu
  have hgrp : ((s.setGroup g1).bump e.g.tenant 10 e.g.core 1).group? g1.uid = some g1 := by simp
  have hw1 : g1.warp? e.slot = some (e.complete w red) := by simp [hg1]
  have hoth : ∀ uid, uid ≠ e.g.uid → ((s.setGroup g1).bump e.g.tenant 10 e.g.core 1).group? uid = s.group? uid :=
    fun uid hne => setGroup_other s g1 (by rw [hu1]; exact hne)
  have hmates : ∀ k, k ≠ e.slot → g1.warp? k = g.warp? k := fun k hk => warp_setWarp_other g e.slot _ hk
  rw [← hu1]
  rcases pushDone_cases _ g1 e.slot e.i.pushq.toNat _ hgrp hw1 with ⟨h0, h⟩ | ⟨h0, g', hp, h⟩ | ⟨h0, hp, h⟩
  · rw [h]
    have h0' : e.i.pushq = 0 := BitVec.eq_of_toNat_eq h0
    refine ⟨g1, e.complete w red, rfl, fun k => bump_counts _ _ _ _ k, hoth, by rw [← hu1]; exact hgrp, rfl, hw1, hmates,
      rfl, rfl, complete_thread e w red, ?_⟩
    rw [if_pos h0']; exact ⟨rfl, rfl⟩
  · rw [h]
    have hg' := pushT_eq hp
    have hug : g'.uid = g1.uid := by rw [hg']
    have hne : e.i.pushq ≠ 0 := fun h => h0 (by rw [h]; rfl)
    refine ⟨g', e.complete w red, rfl, fun k => bump_counts _ _ _ _ k, ?_, ?_, ?_, ?_, ?_, rfl, rfl, complete_thread e w red, ?_⟩
    · intro uid hne
      rw [setGroup_other _ _ (by rw [hug, hu1]; exact hne)]
      exact hoth uid hne
    · rw [← hu1, ← hug]; simp
    · rw [hg', hg1]; rfl
    · rw [hg']; exact hw1
    · intro k hk
      rw [hg']; exact hmates k hk
    · rw [if_neg hne]
      rw [hp] at hpush
      cases hq : g.pushT e.i.pushq.toNat e.slot with
      | none => rw [hq] at hpush; cases hpush
      | some gp =>
        rw [hq] at hpush
        simp only [Option.map_some, Option.some.injEq] at hpush
        rw [hpush]; exact ⟨rfl, rfl⟩
  · rw [h]
    have hne : e.i.pushq ≠ 0 := fun h => h0 (by rw [h]; rfl)
    refine ⟨g1.setWarp e.slot { e.complete w red with pushDue := some e.i.pushq.toNat },
      { e.complete w red with pushDue := some e.i.pushq.toNat }, rfl, fun k => bump_counts _ _ _ _ k, ?_, ?_, rfl,
      warp_setWarp_self _ _ _, ?_, rfl, rfl, complete_thread e w red, ?_⟩
    · intro uid hne
      rw [setGroup_other _ _ (by rw [setWarp_uid, hu1]; exact hne)]
      exact hoth uid hne
    · rw [← hu1, ← setWarp_uid g1 e.slot { e.complete w red with pushDue := some e.i.pushq.toNat }]; exact setGroup_self _ _
    · intro k hk
      rw [warp_setWarp_other _ _ _ hk]; exact hmates k hk
    · rw [if_neg hne]
      rw [hp] at hpush
      cases hq : g.pushT e.i.pushq.toNat e.slot with
      | none => exact ⟨rfl, rfl⟩
      | some gp => rw [hq] at hpush; cases hpush

/-- The same from the state before the effect, where the effect is on the warp alone. -/
theorem finish_base_done (e : TEnv) (w : Warp) (red : BitVec 32) :
    ∃ g' w', e.Done e.s e.g w red (e.finish e.base w red) g' w' := by
  obtain ⟨g', w', h⟩ := finish_done e e.base e.g w red (setGroup_self _ _) rfl
  exact ⟨g', w', { h with others := fun uid hu => (h.others uid hu).trans (setGroup_other e.s e.g hu) }⟩

/-! ### The issue of a T instruction -/

/-- A ready instruction has its own effect. -/
theorem tIssue_ready {op : Nat} {i : TWord} {s : State} {e : TEnv} (h : s.tReady op i = some e) (body : TEnv → TRes) :
    tIssue op i s body = .next (e.conclude (body e)) := by
  unfold State.tReady at h
  unfold tIssue
  cases h0 : s.tEnv op i with
  | none => simp [h0] at h
  | some e0 =>
    simp only [h0] at h ⊢
    cases hp : e0.popped with
    | none => simp [hp] at h
    | some e1 =>
      simp only [hp, Option.bind_some] at h ⊢
      cases hs : e1.stalls <;> cases ho : e1.overrun <;> simp only [hs, ho, Bool.or_true, Bool.or_false,
        Bool.false_eq_true, if_true, if_false, Bool.false_and] at h ⊢ <;> cases h
      rfl

/-- A meaning that answers its effect on the warp alone completes. -/
theorem completes_of_ok {op : Nat} {i : TWord} {s : State} {e : TEnv} {body : TEnv → TRes} {w : Warp} {red : BitVec 32}
    (h : s.tReady op i = some e) (hb : body e = .ok e.base w red) :
    e.Completes (tIssue op i s body) e.s e.g w red := by
  obtain ⟨g', w', hd⟩ := finish_base_done e w red
  exact ⟨_, g', w', by rw [tIssue_ready h, hb]; rfl, hd⟩

/-- The same for an effect that has changed more of the state. -/
theorem completes_of_ok_at {op : Nat} {i : TWord} {s s1 : State} {e : TEnv} {body : TEnv → TRes} {g : Group} {w : Warp}
    {red : BitVec 32} (h : s.tReady op i = some e) (hb : body e = .ok s1 w red) (hg : s1.group? e.g.uid = some g)
    (hu : g.uid = e.g.uid) : e.Completes (tIssue op i s body) s1 g w red := by
  obtain ⟨g', w', hd⟩ := finish_done e s1 g w red hg hu
  exact ⟨_, g', w', by rw [tIssue_ready h, hb]; rfl, hd⟩

/-- A meaning that answers a trap takes it. -/
theorem traps_of_trap {op : Nat} {i : TWord} {s : State} {e : TEnv} {body : TEnv → TRes} {c : Cause} {v : DWord}
    (h : s.tReady op i = some e) (hb : body e = .trap c v) : tIssue op i s body = .next (e.trap c v) := by
  rw [tIssue_ready h, hb]; rfl

/-! ### Completing an A instruction -/

theorem setA_of_group {s : State} {uid : Nat} {g : Group} {a : ACtx} (h : s.group? uid = some g) :
    s.setA uid a = s.setGroup { g with a := a } := by simp [State.setA, h]

/-- A push of the context changes the queues alone, and asks nothing of the context. -/
theorem pushA_a (g : Group) (a : ACtx) (n : Nat) (v : Word) :
    ({ g with a := a } : Group).pushA n v = (g.pushA n v).map fun x => { x with a := a } := by
  unfold Group.pushA
  change (if g.liveSet = 0 then _ else _) = _
  split
  · rfl
  · change (if (g.queues.bcast n).length < 16 then _ else _) = _
    split <;> rfl

theorem pushA_eq {g g' : Group} {n : Nat} {v : Word} (h : g.pushA n v = some g') : g' = { g with queues := g'.queues } := by
  unfold Group.pushA at h
  split at h
  · cases h; rfl
  · split at h
    · cases h; rfl
    · cases h

/-- What completing an A instruction leaves (AEnv.Done). -/
theorem aFinish_done (e : AEnv) (s : State) (g : Group) (a : ACtx) (v : Word) (jumped : Bool)
    (hg : s.group? e.g.uid = some g) (hu : g.uid = e.g.uid) :
    ∃ g' a', e.Done s g a v jumped (e.finish s a v jumped) g' a' := by
  unfold AEnv.finish
  rw [setA_of_group hg]
  have hpush := pushA_a g (e.complete a jumped) e.i.pushq.toNat v
  set g1 : Group := { g with a := e.complete a jumped } with hg1
  have hu1 : g1.uid = e.g.uid := hu
  have hgrp : ((s.setGroup g1).bump e.g.tenant 11 e.g.core 1).group? g1.uid = some g1 := by simp
  have hoth : ∀ uid, uid ≠ e.g.uid → ((s.setGroup g1).bump e.g.tenant 11 e.g.core 1).group? uid = s.group? uid :=
    fun uid hne => setGroup_other s g1 (by rw [hu1]; exact hne)
  have hapc : (e.complete a jumped).apc = if jumped then a.apc else a.apc + (if e.long then 12 else 4) := by
    unfold AEnv.complete
    cases jumped <;> cases e.long <;> rfl
  rw [← hu1]
  unfold State.aPush
  by_cases h0 : e.i.pushq = 0
  · rw [if_pos (by rw [h0]; rfl)]
    refine ⟨g1, e.complete a jumped, rfl, fun k => bump_counts _ _ _ _ k, hoth, by rw [← hu1]; exact hgrp, rfl, rfl, hapc, rfl, ?_⟩
    rw [if_pos h0]; exact ⟨rfl, rfl⟩
  · have h0n : ¬ e.i.pushq.toNat = 0 := fun h => h0 (BitVec.eq_of_toNat_eq h)
    rw [if_neg h0n, hgrp]
    simp only
    rw [hpush]
    cases hq : g.pushA e.i.pushq.toNat v with
    | some gp =>
      have hgp := pushA_eq hq
      simp only [Option.map_some]
      have hug : gp.uid = e.g.uid := by rw [hgp]; exact hu
      refine ⟨{ gp with a := e.complete a jumped }, e.complete a jumped, rfl, fun k => bump_counts _ _ _ _ k, ?_, ?_, ?_, rfl, hapc, rfl, ?_⟩
      · intro uid hne
        rw [setGroup_other _ _ (by change uid ≠ gp.uid; rw [hug]; exact hne)]
        exact hoth uid hne
      · rw [← hug]; exact setGroup_self _ _
      · rw [hgp]
      · rw [if_neg h0, hq]; exact ⟨rfl, rfl⟩
    | none =>
      simp only [Option.map_none]
      refine ⟨{ g1 with a := { g1.a with pushDue := some (e.i.pushq.toNat, v) } }, { e.complete a jumped with pushDue := some (e.i.pushq.toNat, v) },
        rfl, fun k => bump_counts _ _ _ _ k, ?_, ?_, rfl, rfl, hapc, rfl, ?_⟩
      · intro uid hne
        rw [setGroup_other _ _ (by change uid ≠ g1.uid; rw [hu1]; exact hne)]
        exact hoth uid hne
      · rw [← hu1]; exact setGroup_self _ _
      · rw [if_neg h0, hq]; exact ⟨rfl, rfl⟩

theorem aFinish_base_done (e : AEnv) (a : ACtx) (v : Word) (jumped : Bool) :
    ∃ g' a', e.Done e.s e.g a v jumped (e.finish e.base a v jumped) g' a' := by
  obtain ⟨g', a', h⟩ := aFinish_done e e.base e.g a v jumped (setGroup_self _ _) rfl
  exact ⟨g', a', { h with others := fun uid hu => (h.others uid hu).trans (setGroup_other e.s e.g hu) }⟩

/-! ### The issue of an A instruction -/

/-- A pop leaves the group's number. -/
theorem apopped_uid {e0 e : AEnv} (h : e0.popped = some e) : e.g.uid = e0.g.uid := by
  unfold AEnv.popped at h
  split at h
  · cases h; rfl
  · split at h
    · cases h; rfl
    · split at h
      · cases h
      · cases h
        change (Group.dropA _ _).uid = _
        unfold Group.dropA
        split <;> rfl

/-- A ready instruction has its own effect, or waits with nothing popped. -/
theorem aIssue_cases {op : Nat} {p : Option APrefix} {i : AWord} {s : State} {e : AEnv} (h : s.aReady op p i = some e)
    (body : AEnv → ARes) :
    ((body e).idle = false ∧ aIssue op p i s body = .next (e.conclude (body e))) ∨
    ∃ a, body e = .wait a ∧ aIssue op p i s body = .next ((s.setA e.g.uid a).waits) := by
  unfold State.aReady at h
  unfold aIssue
  cases h0 : s.aEnv op p i with
  | none => simp [h0] at h
  | some e0 =>
    have hs : e0.s = s := by
      unfold State.aEnv at h0
      cases hc : s.ctl.cur <;> simp only [hc] at h0 <;> try cases h0
      cases hg : s.group? ‹Nat› <;> simp only [hg] at h0 <;> try cases h0
      split at h0 <;> cases h0; rfl
    simp only [h0] at h ⊢
    cases hp : e0.popped with
    | none => simp [hp] at h
    | some e1 =>
      simp only [hp, Option.bind_some] at h ⊢
      cases ho : e1.overrun <;> cases ht : e1.tokenFault <;> simp only [ho, ht, Option.isSome_none, Option.isSome_some,
        Bool.or_true, Bool.or_false, Bool.false_eq_true, if_true, if_false] at h <;> cases h
      have hu := apopped_uid hp
      unfold AEnv.issue
      cases hb : body e with
      | wait a => exact .inr ⟨a, rfl, by simp [ARes.idle, AEnv.conclude, hs, hu]⟩
      | _ => exact .inl ⟨rfl, by simp [ARes.idle, ho, ht]⟩

/-- A meaning that answers a wait leaves the state but for its context's note of the wait. -/
theorem aIssue_wait {op : Nat} {p : Option APrefix} {i : AWord} {s : State} {e : AEnv} {body : AEnv → ARes} {a : ACtx}
    (h : s.aReady op p i = some e) (hb : body e = .wait a) : aIssue op p i s body = .next (s.waitsWith e.g.uid a) := by
  rcases aIssue_cases h body with ⟨hi, -⟩ | ⟨b, hw, hr⟩
  · simp [hb, ARes.idle] at hi
  · rw [hb] at hw; cases hw; exact hr

theorem aIssue_ready {op : Nat} {p : Option APrefix} {i : AWord} {s : State} {e : AEnv} (h : s.aReady op p i = some e)
    {body : AEnv → ARes} (hi : (body e).idle = false) : aIssue op p i s body = .next (e.conclude (body e)) := by
  rcases aIssue_cases h body with ⟨-, hr⟩ | ⟨a, hw, -⟩
  · exact hr
  · simp [hw, ARes.idle] at hi

theorem aCompletes_of_ok {op : Nat} {p : Option APrefix} {i : AWord} {s : State} {e : AEnv} {body : AEnv → ARes} {a : ACtx}
    {v : Word} {j : Bool} (h : s.aReady op p i = some e) (hb : body e = .ok e.base a v j) :
    e.Completes (aIssue op p i s body) e.s e.g a v j := by
  obtain ⟨g', a', hd⟩ := aFinish_base_done e a v j
  exact ⟨_, g', a', by rw [aIssue_ready h (by rw [hb]; rfl), hb]; rfl, hd⟩

theorem aCompletes_of_ok_at {op : Nat} {p : Option APrefix} {i : AWord} {s s1 : State} {e : AEnv} {body : AEnv → ARes}
    {g : Group} {a : ACtx} {v : Word} {j : Bool} (h : s.aReady op p i = some e) (hb : body e = .ok s1 a v j)
    (hg : s1.group? e.g.uid = some g) (hu : g.uid = e.g.uid) : e.Completes (aIssue op p i s body) s1 g a v j := by
  obtain ⟨g', a', hd⟩ := aFinish_done e s1 g a v j hg hu
  exact ⟨_, g', a', by rw [aIssue_ready h (by rw [hb]; rfl), hb]; rfl, hd⟩

/-! ### The SSP and the bytecode -/

theorem lIssue_env {s : State} {e : LEnv} (h : s.lEnv = some e) (body : LEnv → LRes) :
    lIssue s body = .next (e.conclude (body e)) := by
  unfold lIssue; rw [h]

theorem qIssue_ready {s : State} {r : QRun} (h : s.qReady = some r) (body : QRun → QRes) :
    ∃ r0, s.qi.run = some r0 ∧ qIssue s body = .next (s.qConclude r0 (body r)) := by
  have h' := h
  unfold State.qReady at h'
  unfold qIssue
  cases hc : s.ctl.cur <;> cases hr : s.qi.run <;> simp only [hc, hr] at h' ⊢ <;> try cases h'
  rename_i r0
  exact ⟨r0, rfl, by rw [h]⟩

end Sys2Proof.Laws
end

