-- ==== Sys2Proof/Laws/Lines.lean ====
section
/-!
SUPPORT. Bytes of numbers, of cache lines and of physical memory: every operation that builds a line or writes memory,
byte by byte, and the canonical form of memory kept by each.
-/

namespace Sys2Proof.Laws

open Sys2Proof.Machine

/-! ### Bytes and numbers -/

/-- Byte i of a little-endian number. -/
theorem leNat_byte (l : List Byte) (i : Nat) : leNat l / 256 ^ i % 256 = ((l[i]?).getD 0).toNat := by
  induction l generalizing i with
  | nil => simp [leNat]
  | cons b bs ih =>
    cases i with
    | zero =>
      have := b.isLt
      simp only [leNat, pow_zero, Nat.div_one, List.getElem?_cons_zero, Option.getD_some]
      omega
    | succ n =>
      have hb := b.isLt
      have h : (b.toNat + 256 * leNat bs) / 256 = leNat bs := by omega
      rw [leNat, pow_succ, Nat.mul_comm (256 ^ n), ← Nat.div_div_eq_div_mul, h, ih n]
      simp

theorem leNat_lt (l : List Byte) : leNat l < 256 ^ l.length := by
  induction l with
  | nil => simp [leNat]
  | cons b bs ih =>
    have := b.isLt
    rw [leNat, List.length_cons, pow_succ]
    omega

@[simp] theorem leBytes_length (n v : Nat) : (leBytes n v).length = n := by
  induction n generalizing v with
  | zero => rfl
  | succ n ih => simp [leBytes, ih]

/-- Byte i of the bytes of a number. -/
theorem leBytes_get (n v i : Nat) (h : i < n) : ((leBytes n v)[i]?).getD 0 = BitVec.ofNat 8 (v / 256 ^ i) := by
  induction n generalizing v i with
  | zero => omega
  | succ n ih =>
    cases i with
    | zero => simp [leBytes]
    | succ i =>
      rw [leBytes, List.getElem?_cons_succ, ih _ _ (by omega), Nat.div_div_eq_div_mul, pow_succ, Nat.mul_comm 256]

/-- The bytes of a number make its low part again. -/
theorem leNat_leBytes (n v : Nat) : leNat (leBytes n v) = v % 256 ^ n := by
  induction n generalizing v with
  | zero => simp [leBytes, leNat, Nat.mod_one]
  | succ n ih =>
    rw [leBytes, leNat, ih, BitVec.toNat_ofNat, show (256 : Nat) ^ (n + 1) = 256 * 256 ^ n by ring, Nat.mod_mul]

/-! ### Lines -/

theorem lineByte_toNat (x : BitVec 1024) (i : Nat) : (lineByte x i).toNat = x.toNat / 256 ^ i % 256 := by
  unfold lineByte
  rw [BitVec.extractLsb'_toNat, Nat.shiftRight_eq_div_pow, show (2 : Nat) ^ (8 * i) = 256 ^ i by rw [pow_mul]; norm_num]

theorem pow256_128 : (256 : Nat) ^ 128 = 2 ^ 1024 := by
  rw [show (256 : Nat) = 2 ^ 8 by norm_num, ← pow_mul]

/-- Bytes of a line made from a list of 128. -/
theorem lineByte_ofList (l : List Byte) (h : l.length = 128) (i : Nat) :
    lineByte (BitVec.ofNat 1024 (leNat l)) i = (l[i]?).getD 0 := by
  apply BitVec.eq_of_toNat_eq
  have hl := leNat_lt l
  rw [h, pow256_128] at hl
  rw [lineByte_toNat, BitVec.toNat_ofNat, Nat.mod_eq_of_lt hl, leNat_byte]

/-- A line merged by a mask, byte by byte. -/
theorem lineByte_mergeLine (mask : BitVec 128) (new old : BitVec 1024) {i : Nat} (h : i < 128) :
    lineByte (mergeLine mask new old) i = if bit mask i then lineByte new i else lineByte old i := by
  unfold mergeLine
  rw [lineByte_ofList _ (by simp)]
  simp [h]

/-- The bytes that a mask of n bytes from offset o names. -/
theorem bit_byteMask {o n i : Nat} (h : o + n ≤ 128) : bit (byteMask o n) i = decide (o ≤ i ∧ i < o + n) := by
  unfold bit byteMask
  rw [BitVec.getLsbD_ofNat]
  by_cases hi : i < 128
  · rw [show (2 ^ n - 1) * 2 ^ o = (2 ^ n - 1) <<< o by rw [Nat.shiftLeft_eq], Nat.testBit_shiftLeft,
      Nat.testBit_two_pow_sub_one]
    simp only [hi, decide_true, Bool.true_and, ge_iff_le, ← Bool.decide_and]
    congr 1
    apply propext
    constructor <;> intro hh <;> omega
  · simp only [hi, decide_false, Bool.false_and]
    symm
    rw [decide_eq_false_iff_not]
    omega

/-- Bytes of a number placed in a line. -/
theorem lineByte_natLine {v o n i : Nat} (hv : v < 256 ^ n) (h : o + n ≤ 128) :
    lineByte (natLine v o) i = if o ≤ i then BitVec.ofNat 8 (v / 256 ^ (i - o)) else 0 := by
  apply BitVec.eq_of_toNat_eq
  have h8 : (2 : Nat) ^ (8 * o) = 256 ^ o := by rw [pow_mul]; norm_num
  have hlt : v * 256 ^ o < 2 ^ 1024 := by
    calc v * 256 ^ o < 256 ^ n * 256 ^ o := Nat.mul_lt_mul_of_pos_right hv (by positivity)
      _ = 256 ^ (n + o) := by rw [pow_add]
      _ ≤ 256 ^ 128 := Nat.pow_le_pow_right (by norm_num) (by omega)
      _ = 2 ^ 1024 := pow256_128
  rw [lineByte_toNat, natLine, h8, BitVec.toNat_ofNat, Nat.mod_eq_of_lt hlt]
  split
  · rename_i hi
    rw [BitVec.toNat_ofNat]
    congr 1
    obtain ⟨k, rfl⟩ := Nat.exists_eq_add_of_le hi
    rw [Nat.add_sub_cancel_left, pow_add, ← Nat.div_div_eq_div_mul, Nat.mul_div_cancel _ (by positivity)]
  · rename_i hi
    obtain ⟨k, rfl⟩ := Nat.exists_eq_add_of_lt (Nat.lt_of_not_le hi)
    rw [show v * 256 ^ (i + k + 1) = (v * 256 ^ k * 256) * 256 ^ i by ring, Nat.mul_div_cancel _ (by positivity)]
    simp

/-- n bytes of a line as a number, from its bytes. -/
theorem lineNat_byte {x : BitVec 1024} {o n k : Nat} (hk : k < n) :
    BitVec.ofNat 8 (lineNat x o n / 256 ^ k) = lineByte x (o + k) := by
  apply BitVec.eq_of_toNat_eq
  rw [lineByte_toNat, BitVec.toNat_ofNat]
  unfold lineNat bitsOf
  have h1 : (2 : Nat) ^ (8 * o) = 256 ^ o := by rw [pow_mul]; norm_num
  have h2 : 8 * (o + n) - 1 + 1 - 8 * o = 8 * n := by omega
  rw [h1, h2, show (2 : Nat) ^ (8 * n) = 256 ^ n by rw [pow_mul]; norm_num, pow_add, ← Nat.div_div_eq_div_mul]
  obtain ⟨j, rfl⟩ := Nat.exists_eq_add_of_lt hk
  rw [show (256 : Nat) ^ (k + j + 1) = 256 ^ k * 256 ^ (j + 1) by rw [← pow_add]; ring_nf, Nat.mod_mul_right_div_self,
    Nat.mod_mod_of_dvd]
  exact Dvd.intro_left (256 ^ j) (pow_succ 256 j).symm

theorem lineNat_lt (x : BitVec 1024) (o : Nat) {n : Nat} (hn : 0 < n) : lineNat x o n < 256 ^ n := by
  unfold lineNat bitsOf
  rw [show 8 * (o + n) - 1 + 1 - 8 * o = 8 * n by omega, show (2 : Nat) ^ (8 * n) = 256 ^ n by rw [pow_mul]; norm_num]
  exact Nat.mod_lt _ (by positivity)

/-! ### Physical memory -/

@[simp] theorem memByte_memPut_self (m : List Host.Cell) (a : Nat) (b : Byte) : memByte (memPut m a b) a = b :=
  get_set_self _ _ _ _

theorem memByte_memPut_other (m : List Host.Cell) {a k : Nat} (b : Byte) (h : k ≠ a) :
    memByte (memPut m a b) k = memByte m k := get_set_other _ _ _ h

theorem memByte_memPut (m : List Host.Cell) (a k : Nat) (b : Byte) :
    memByte (memPut m a b) k = if k = a then b else memByte m k := get_set _ _ _ _ _

theorem wf_memPut {m : List Host.Cell} (a : Nat) (b : Byte) (h : Memory.wf m = true) : Memory.wf (memPut m a b) = true :=
  wf_set _ _ _ _ h

/-- Bytes written from an address, byte by byte. -/
theorem memByte_memPuts (m : List Host.Cell) (a k : Nat) (bs : List Byte) :
    memByte (memPuts m a bs) k = if a ≤ k ∧ k < a + bs.length then (bs[k - a]?).getD 0 else memByte m k := by
  induction bs generalizing m a with
  | nil =>
    rw [memPuts, if_neg]
    simp
  | cons b bs ih =>
    rw [memPuts, ih, memByte_memPut]
    simp only [List.length_cons]
    by_cases h : k = a
    · subst h; simp
    · by_cases h2 : a ≤ k ∧ k < a + (bs.length + 1)
      · rw [if_pos h2, if_pos (by omega), show k - a = (k - (a + 1)) + 1 by omega, List.getElem?_cons_succ]
      · rw [if_neg h2, if_neg (by omega), if_neg h]

theorem memByte_memPuts_other (m : List Host.Cell) (b a : Nat) (bs : List Byte) (n : Nat) (hl : bs.length = n)
    (h : ¬ (b ≤ a ∧ a < b + n)) : memByte (memPuts m b bs) a = memByte m a := by
  subst hl
  rw [memByte_memPuts, if_neg h]

theorem wf_memPuts {m : List Host.Cell} (a : Nat) (bs : List Byte) (h : Memory.wf m = true) :
    Memory.wf (memPuts m a bs) = true := by
  induction bs generalizing m a with
  | nil => exact h
  | cons b bs ih => exact ih _ (wf_memPut a b h)

/-- A line of physical memory, byte by byte. -/
theorem lineByte_homeLine (m : List Host.Cell) (ln : Nat) {i : Nat} (h : i < 128) :
    lineByte (homeLine m ln) i = memByte m (128 * ln + i) := by
  unfold homeLine memNat
  rw [lineByte_ofList _ (by simp)]
  simp [h]

theorem foldl_memPut (ln : Nat) (x : BitVec 1024) (l : List Nat) (m : List Host.Cell) (a : Nat) :
    memByte (l.foldl (fun m i => memPut m (128 * ln + i) (lineByte x i)) m) a =
      if 128 * ln ≤ a ∧ a - 128 * ln ∈ l then lineByte x (a - 128 * ln) else memByte m a := by
  induction l generalizing m with
  | nil => simp
  | cons i l ih =>
    rw [List.foldl_cons, ih, memByte_memPut]
    by_cases h : 128 * ln ≤ a ∧ a - 128 * ln ∈ l
    · rw [if_pos h, if_pos ⟨h.1, List.mem_cons_of_mem _ h.2⟩]
    · rw [if_neg h]
      by_cases h2 : a = 128 * ln + i
      · subst h2
        rw [if_pos rfl, if_pos ⟨by omega, by simp⟩]
        congr 1; omega
      · rw [if_neg h2, if_neg]
        rintro ⟨h3, h4⟩
        rcases List.mem_cons.1 h4 with h4 | h4
        · omega
        · exact h ⟨h3, h4⟩

/-- A masked write of a line of physical memory, byte by byte. -/
theorem memByte_homeStore (m : List Host.Cell) (ln : Nat) (mask : BitVec 128) (x : BitVec 1024) (a : Nat) :
    memByte (homeStore m ln mask x) a = if a / 128 = ln ∧ bit mask (a % 128) = true then lineByte x (a % 128) else memByte m a := by
  unfold homeStore
  rw [foldl_memPut]
  simp only [List.mem_filter, List.mem_range]
  by_cases h : a / 128 = ln
  · have h1 : a - 128 * ln = a % 128 := by omega
    have h2 : 128 * ln ≤ a := by omega
    have h3 : a % 128 < 128 := by omega
    rw [h1]
    simp [h, h2, h3]
  · rw [if_neg (by rintro ⟨h1, h2, -⟩; omega), if_neg (by rintro ⟨h1, -⟩; exact h h1)]

theorem wf_foldl_memPut (ln : Nat) (x : BitVec 1024) (l : List Nat) {m : List Host.Cell} (h : Memory.wf m = true) :
    Memory.wf (l.foldl (fun m i => memPut m (128 * ln + i) (lineByte x i)) m) = true := by
  induction l generalizing m with
  | nil => exact h
  | cons i l ih => exact ih (wf_memPut _ _ h)

theorem wf_homeStore {m : List Host.Cell} (ln : Nat) (mask : BitVec 128) (x : BitVec 1024) (h : Memory.wf m = true) :
    Memory.wf (homeStore m ln mask x) = true := wf_foldl_memPut _ _ _ h

end Sys2Proof.Laws
end

