-- ==== Sys2Proof/Laws/Memory.lean ====
section
/-!
SUPPORT. The memory system, level by level: what a store changes, that reads change no byte, and that every operation
keeps memory canonical.
-/

namespace Sys2Proof.Laws

open Sys2Proof.Machine

/-! ### Lines, byte by byte -/

@[simp] theorem none_byteAt (i : Nat) : Line.none.byteAt i = (false, false, 0) := by
  simp [Line.none, Line.byteAt, bit, lineByte]

@[simp] theorem tagLine_byteAt (l : Line) (p : Page) (i : Nat) : (tagLine l p).byteAt i = l.byteAt i := rfl

@[simp] theorem landed_byteAt (l : Line) (m : BitVec 128) (i : Nat) : (l.landed m).byteAt i = l.byteAt i := rfl

theorem write_byteAt (l : Line) (mask : BitVec 128) (x : BitVec 1024) (d : Bool) {i : Nat} (h : i < 128) :
    (l.write mask x d).byteAt i = if bit mask i then (true, d, lineByte x i) else l.byteAt i := by
  unfold Line.byteAt Line.write
  simp only [lineByte_mergeLine mask x l.data h]
  cases d <;> by_cases hm : bit mask i <;> simp_all [bit]

theorem fill_byteAt (l : Line) (x : BitVec 1024) {i : Nat} (h : i < 128) :
    (l.fill x).byteAt i = (true, bit l.dirty i, if bit l.dirty i then lineByte l.data i else lineByte x i) := by
  unfold Line.byteAt Line.fill
  simp only [lineByte_mergeLine _ _ _ h]
  rw [show bit (BitVec.allOnes 128) i = true by simp only [bit, BitVec.getLsbD_allOnes, h, decide_true]]

/-! ### Levels under the primitive updates -/

theorem core_setCore (s : State) (c c' : Nat) (x : Core) : (s.setCore c x).core c' = if c' = c then x else s.core c' :=
  get_set _ _ _ _ _

theorem die_setDie (s : State) (d d' : Nat) (x : Die) : (s.setDie d x).die d' = if d' = d then x else s.die d' :=
  get_set _ _ _ _ _

theorem l1Line_setL1Line (s : State) (c ln c' ln' : Nat) (l : Line) :
    (s.setL1Line c ln l).l1Line c' ln' = if c' = c ∧ ln' = ln then l else s.l1Line c' ln' := by
  unfold State.l1Line State.setL1Line
  rw [core_setCore]
  by_cases hc : c' = c
  · subst hc
    simp only [if_true, true_and]
    exact get_set _ _ _ _ _
  · simp [hc]

theorem dieLine_setDieLine (s : State) (d ln d' ln' : Nat) (l : Line) :
    (s.setDieLine d ln l).dieLine d' ln' = if d' = d ∧ ln' = ln then l else s.dieLine d' ln' := by
  unfold State.dieLine State.setDieLine
  rw [die_setDie]
  by_cases hc : d' = d
  · subst hc
    simp only [if_true, true_and]
    exact get_set _ _ _ _ _
  · simp [hc]

theorem partLine_setPartLine (s : State) (k ln k' ln' : Nat) (l : Line) :
    (s.setPartLine k ln l).partLine k' ln' = if (k' = 1 ↔ k = 1) ∧ ln' = ln then l else s.partLine k' ln' := by
  unfold State.partLine State.setPartLine
  by_cases hk : k = 1 <;> by_cases hk' : k' = 1 <;>
    simp only [hk, hk', if_true, if_false, true_and, iff_true, iff_false, iff_self, not_true_eq_false, false_and] <;>
    exact get_set _ _ _ _ _

@[simp] theorem l1Line_setDieLine (s : State) (d ln c ln' : Nat) (l : Line) :
    (s.setDieLine d ln l).l1Line c ln' = s.l1Line c ln' := rfl
@[simp] theorem dieLine_setL1Line (s : State) (c ln d ln' : Nat) (l : Line) :
    (s.setL1Line c ln l).dieLine d ln' = s.dieLine d ln' := rfl
@[simp] theorem partLine_setL1Line (s : State) (c ln k ln' : Nat) (l : Line) :
    (s.setL1Line c ln l).partLine k ln' = s.partLine k ln' := rfl
@[simp] theorem partLine_setDieLine (s : State) (d ln k ln' : Nat) (l : Line) :
    (s.setDieLine d ln l).partLine k ln' = s.partLine k ln' := rfl
@[simp] theorem l1Line_setPartLine (s : State) (k ln c ln' : Nat) (l : Line) :
    (s.setPartLine k ln l).l1Line c ln' = s.l1Line c ln' := by unfold State.setPartLine; split <;> rfl
@[simp] theorem dieLine_setPartLine (s : State) (k ln d ln' : Nat) (l : Line) :
    (s.setPartLine k ln l).dieLine d ln' = s.dieLine d ln' := by unfold State.setPartLine; split <;> rfl
@[simp] theorem mem_setPartLine (s : State) (k ln : Nat) (l : Line) : (s.setPartLine k ln l).mem = s.mem := by
  unfold State.setPartLine; split <;> rfl
@[simp] theorem mem_setL1Line (s : State) (c ln : Nat) (l : Line) : (s.setL1Line c ln l).mem = s.mem := rfl
@[simp] theorem mem_setDieLine (s : State) (c ln : Nat) (l : Line) : (s.setDieLine c ln l).mem = s.mem := rfl

/-- An L1 line replaced, at every level. -/
theorem levelByte_setL1Line (s : State) (c ln : Nat) (l : Line) (v : Level) (a : Nat) :
    (s.setL1Line c ln l).levelByte v a = if v = .l1 c ∧ a / 128 = ln then l.byteAt (a % 128) else s.levelByte v a := by
  cases v with
  | l1 c' =>
    simp only [State.levelByte, l1Line_setL1Line, Level.l1.injEq]
    split <;> rfl
  | die d => simp [State.levelByte]
  | part k => simp [State.levelByte]
  | home => simp [State.levelByte]

/-- A die-cache line replaced, at every level. -/
theorem levelByte_setDieLine (s : State) (d ln : Nat) (l : Line) (v : Level) (a : Nat) :
    (s.setDieLine d ln l).levelByte v a = if v = .die d ∧ a / 128 = ln then l.byteAt (a % 128) else s.levelByte v a := by
  cases v with
  | die d' =>
    simp only [State.levelByte, dieLine_setDieLine, Level.die.injEq]
    split <;> rfl
  | l1 c => simp [State.levelByte]
  | part k => simp [State.levelByte]
  | home => simp [State.levelByte]

/-- The level is the partition of a page kind. -/
def isPart (k : Nat) : Level → Bool
  | .part k' => decide (k' = 1 ↔ k = 1)
  | _ => false

/-- A partition line replaced, at every level. -/
theorem levelByte_setPartLine (s : State) (k ln : Nat) (l : Line) (v : Level) (a : Nat) :
    (s.setPartLine k ln l).levelByte v a =
      if isPart k v = true ∧ a / 128 = ln then l.byteAt (a % 128) else s.levelByte v a := by
  cases v with
  | part k' =>
    simp only [State.levelByte, partLine_setPartLine, isPart, decide_eq_true_eq]
    split <;> rfl
  | l1 c => simp [State.levelByte, isPart]
  | die k => simp [State.levelByte, isPart]
  | home => simp [State.levelByte, isPart]

@[simp] theorem levelByte_unmarkLine (s : State) (ln : Nat) (mask : BitVec 128) (v : Level) (a : Nat) :
    (s.unmarkLine ln mask).levelByte v a = s.levelByte v a := rfl

/-- A write at the home agent, at every level. -/
theorem levelByte_homeWrite (s : State) (ln : Nat) (mask : BitVec 128) (x : BitVec 1024) (v : Level) (a : Nat) :
    (s.homeWrite ln mask x).levelByte v a =
      if v = .home ∧ a / 128 = ln ∧ bit mask (a % 128) = true then (true, false, lineByte x (a % 128)) else s.levelByte v a := by
  cases v with
  | home =>
    change (true, false, memByte (homeStore s.mem ln mask x) a) = _
    rw [memByte_homeStore]
    simp only [true_and]
    split <;> rfl
  | l1 c => simp only [reduceCtorEq, false_and, if_false]; rfl
  | die k => simp only [reduceCtorEq, false_and, if_false]; rfl
  | part k => simp only [reduceCtorEq, false_and, if_false]; rfl

/-- What changes neither a cache line nor memory changes no level. -/
theorem levelByte_of_lines {s t : State} (h1 : ∀ c, (t.core c).l1 = (s.core c).l1) (h2 : ∀ d, (t.die d).dcache = (s.die d).dcache)
    (hf : t.frame = s.frame) (hr : t.ringp = s.ringp) (hm : t.mem = s.mem) (v : Level) (a : Nat) :
    t.levelByte v a = s.levelByte v a := by
  cases v with
  | l1 c => simp only [State.levelByte, State.l1Line, h1]
  | die d => simp only [State.levelByte, State.dieLine, h2]
  | part k => simp only [State.levelByte, State.partLine, hf, hr]
  | home => simp only [State.levelByte, hm]

/-- Levels depend on the caches, the partitions and memory alone. -/
theorem levelByte_congr {s t : State} (hc : t.cores = s.cores) (hd : t.dies = s.dies) (hf : t.frame = s.frame)
    (hr : t.ringp = s.ringp) {a : Nat} (hm : memByte t.mem a = memByte s.mem a) (v : Level) :
    t.levelByte v a = s.levelByte v a := by
  cases v with
  | l1 c => simp only [State.levelByte, State.l1Line, State.core, hc]
  | die d => simp only [State.levelByte, State.dieLine, State.die, hd]
  | part k => simp only [State.levelByte, State.partLine, hf, hr]
  | home => simp only [State.levelByte, hm]

/-! ### Stores -/

/-- The bytes of an access. -/
def inAccess (p : Page) (n a : Nat) : Prop := p.pa ≤ a ∧ a < p.pa + n

theorem inAccess_iff {p : Page} {n a : Nat} (h : p.pa % 128 + n ≤ 128) :
    inAccess p n a ↔ a / 128 = p.pa / 128 ∧ bit (byteMask (p.pa % 128) n) (a % 128) = true := by
  rw [bit_byteMask h, decide_eq_true_eq]
  unfold inAccess
  constructor
  · intro h2
    have : a / 128 = p.pa / 128 := by omega
    omega
  · intro h2; omega

theorem levelByte_devStore (s : State) (k ln : Nat) (mask : BitVec 128) (x : BitVec 1024) (v : Level) (a : Nat)
    (h : ¬ (a / 128 = ln ∧ bit mask (a % 128) = true)) : (s.devStore k ln mask x).levelByte v a = s.levelByte v a := by
  unfold State.devStore
  split
  · rw [levelByte_homeWrite, if_neg (fun hh => h hh.2)]
  · rw [levelByte_unmarkLine, levelByte_setPartLine]
    split
    · rename_i hh
      obtain ⟨hv, hl⟩ := hh
      have hb := write_byteAt (s.partLine k ln) mask x true (i := a % 128) (by omega)
      rw [if_neg (fun hb => h ⟨hl, hb⟩)] at hb
      refine Eq.trans hb ?_
      subst hl
      cases v <;> simp only [isPart, decide_eq_true_eq, Bool.false_eq_true] at hv
      unfold State.levelByte State.partLine
      simp only [hv]
    · rfl

theorem levelByte_writeThrough (s : State) (c k ln : Nat) (mask : BitVec 128) (x : BitVec 1024) (v : Level) (a : Nat)
    (h : ¬ (a / 128 = ln ∧ bit mask (a % 128) = true)) : (s.writeThrough c k ln mask x).levelByte v a = s.levelByte v a := by
  unfold State.writeThrough
  rw [levelByte_devStore _ _ _ _ _ _ _ h]
  split
  · rw [levelByte_setDieLine]
    split
    · rename_i hh
      obtain ⟨rfl, hl⟩ := hh
      rw [landed_byteAt, write_byteAt _ _ _ _ (by omega), if_neg (fun hb => h ⟨hl, hb⟩), ← hl]; rfl
    · rfl
  · rfl

theorem levelByte_dieStore (s : State) (c k ln : Nat) (cp : Bool) (mask : BitVec 128) (x : BitVec 1024) (v : Level) (a : Nat)
    (h : ¬ (a / 128 = ln ∧ bit mask (a % 128) = true)) : (s.dieStore c k ln cp mask x).levelByte v a = s.levelByte v a := by
  unfold State.dieStore
  split
  · rw [levelByte_unmarkLine, levelByte_setDieLine]
    split
    · rename_i hh
      obtain ⟨rfl, hl⟩ := hh
      change ((s.dieLine (dieOf c) ln).write mask x true).byteAt (a % 128) = _
      rw [write_byteAt _ _ _ _ (by omega), if_neg (fun hb => h ⟨hl, hb⟩), ← hl]; rfl
    · rfl
  · exact levelByte_devStore _ _ _ _ _ _ _ h

/-- A store leaves every byte outside it, at every level. -/
theorem gStore_others (s : State) (c tn sc : Nat) (p : Page) (n v : Nat) (h : p.pa % 128 + n ≤ 128) :
    SameBytes s (s.gStore c tn sc p n v) (inAccess p n) := by
  intro lv a ha
  have ha' : ¬ (a / 128 = p.pa / 128 ∧ bit (byteMask (p.pa % 128) n) (a % 128) = true) := fun hh => ha ((inAccess_iff h).2 hh)
  have h0 : ∀ d, (s.setL1Line c (p.pa / 128) (tagLine ((s.l1Line c (p.pa / 128)).write (byteMask (p.pa % 128) n)
      (natLine (v % 2 ^ (8 * n)) (p.pa % 128)) d) p)).levelByte lv a = s.levelByte lv a := by
    intro d
    rw [levelByte_setL1Line]
    split
    · rename_i hh
      obtain ⟨rfl, hl⟩ := hh
      rw [tagLine_byteAt, write_byteAt _ _ _ _ (by omega), if_neg (fun hb => ha' ⟨hl, hb⟩), ← hl]; rfl
    · rfl
  unfold State.gStore
  simp only
  split
  · exact h0 _
  · split
    · rw [levelByte_dieStore _ _ _ _ _ _ _ _ _ ha']; exact h0 _
    · rw [levelByte_writeThrough _ _ _ _ _ _ _ _ ha']; exact h0 _

/-- The bytes of a store, as its core's L1 then holds them. -/
theorem gStore_l1 (s : State) (c tn sc : Nat) (p : Page) (n v a : Nat) (h : p.pa % 128 + n ≤ 128) (ha : inAccess p n a) :
    (s.gStore c tn sc p n v).levelByte (.l1 c) a = (true, sc == 0, BitVec.ofNat 8 (v / 256 ^ (a - p.pa))) := by
  obtain ⟨hl, hb⟩ := (inAccess_iff h).1 ha
  have hv : v % 2 ^ (8 * n) < 256 ^ n := by
    rw [show (256 : Nat) ^ n = 2 ^ (8 * n) by rw [pow_mul]; norm_num]
    exact Nat.mod_lt _ (by positivity)
  have hbyte : lineByte (natLine (v % 2 ^ (8 * n)) (p.pa % 128)) (a % 128) = BitVec.ofNat 8 (v / 256 ^ (a - p.pa)) := by
    rw [lineByte_natLine hv h]
    obtain ⟨h1, h2⟩ := ha
    have hk : a % 128 - p.pa % 128 = a - p.pa := by omega
    rw [if_pos (by omega), hk]
    apply BitVec.eq_of_toNat_eq
    rw [BitVec.toNat_ofNat, BitVec.toNat_ofNat, show (2 : Nat) ^ (8 * n) = 256 ^ n by rw [pow_mul]; norm_num]
    obtain ⟨j, hj⟩ := Nat.exists_eq_add_of_lt (show a - p.pa < n by omega)
    rw [hj, show (256 : Nat) ^ (a - p.pa + j + 1) = 256 ^ (a - p.pa) * 256 ^ (j + 1) by rw [← pow_add]; ring_nf,
      Nat.mod_mul_right_div_self, Nat.mod_mod_of_dvd]
    exact Dvd.intro_left (256 ^ j) (pow_succ 256 j).symm
  have h0 : (s.setL1Line c (p.pa / 128) (tagLine ((s.l1Line c (p.pa / 128)).write (byteMask (p.pa % 128) n)
      (natLine (v % 2 ^ (8 * n)) (p.pa % 128)) (sc == 0)) p)).levelByte (.l1 c) a =
        (true, sc == 0, BitVec.ofNat 8 (v / 256 ^ (a - p.pa))) := by
    rw [levelByte_setL1Line, if_pos ⟨rfl, hl⟩, tagLine_byteAt, write_byteAt _ _ _ _ (by omega), if_pos hb, hbyte]
  have hdev : ∀ (t : State) (k ln : Nat) (m : BitVec 128) (x : BitVec 1024),
      (t.devStore k ln m x).levelByte (.l1 c) a = t.levelByte (.l1 c) a := by
    intro t k ln m x
    unfold State.devStore
    split
    · rw [levelByte_homeWrite, if_neg (by simp)]
    · rw [levelByte_unmarkLine, levelByte_setPartLine, if_neg (by simp [isPart])]
  unfold State.gStore
  simp only
  split
  · exact h0
  · split
    · refine Eq.trans ?_ h0
      unfold State.dieStore
      split
      · rw [levelByte_unmarkLine, levelByte_setDieLine, if_neg (by simp), levelByte_unmarkLine]
      · rw [hdev, levelByte_unmarkLine]
    · refine Eq.trans ?_ h0
      unfold State.writeThrough
      rw [hdev]
      split
      · rw [levelByte_setDieLine, if_neg (by simp), levelByte_unmarkLine]
      · rw [levelByte_unmarkLine]

/-! ### Reads -/

theorem warmed_refl (s : State) : Warmed s s := ⟨rfl, fun v _ _ h => ⟨v, h, rfl⟩⟩

theorem hotByte_of_tenants {s t : State} (h : t.fw.tenants = s.fw.tenants) (a : Nat) : t.hotByte a ↔ s.hotByte a := by
  unfold State.hotByte State.hotAddr State.hotIndex State.tenantField
  rw [h]

theorem warmed_tenants {s t : State} (h : Warmed s t) : t.fw.tenants = s.fw.tenants := by rw [h.rest]

theorem warmed_trans {s t u : State} (h1 : Warmed s t) (h2 : Warmed t u) : Warmed s u := by
  refine ⟨?_, ?_⟩
  · have hr1 := h1.rest
    have hr2 := h2.rest
    rw [hr2, hr1]
  · intro v a ha hh
    obtain ⟨v', hh', he'⟩ := h2.bytes v a (fun hx => ha ((hotByte_of_tenants (warmed_tenants h1) a).1 hx)) hh
    obtain ⟨v'', hh'', he''⟩ := h1.bytes v' a ha hh'
    exact ⟨v'', hh'', he'.trans he''⟩

/-- What changes no line and no memory is warm. -/
theorem warmed_of_lines {s t : State}
    (hr : t = { s with cores := t.cores, dies := t.dies, frame := t.frame, ringp := t.ringp, mem := t.mem,
                       ctl := { s.ctl with struck := t.ctl.struck, missed := t.ctl.missed },
                       fw := { s.fw with counts := t.fw.counts, misses := t.fw.misses, marked := t.fw.marked } })
    (h1 : ∀ c, (t.core c).l1 = (s.core c).l1) (h2 : ∀ d, (t.die d).dcache = (s.die d).dcache)
    (hf : t.frame = s.frame) (hg : t.ringp = s.ringp) (hm : t.mem = s.mem) : Warmed s t :=
  ⟨hr, fun v a _ hh => ⟨v, by rw [levelByte_of_lines h1 h2 hf hg hm] at hh; exact hh, by rw [levelByte_of_lines h1 h2 hf hg hm]⟩⟩

theorem bump_warmed (s : State) (t k u n : Nat) : Warmed s (s.bump t k u n) :=
  warmed_of_lines rfl (fun _ => rfl) (fun _ => rfl) rfl rfl rfl

theorem unmarkLine_warmed (s : State) (ln : Nat) (m : BitVec 128) : Warmed s (s.unmarkLine ln m) :=
  warmed_of_lines rfl (fun _ => rfl) (fun _ => rfl) rfl rfl rfl

theorem touch_warmed (s : State) (pa n : Nat) : Warmed s (s.touch pa n) := by
  unfold State.touch
  split
  · exact warmed_refl s
  · split
    · exact warmed_of_lines rfl (fun _ => rfl) (fun _ => rfl) rfl rfl rfl
    · exact warmed_refl s

/-- The held bytes of a line are bytes that a level of the state holds. -/
def FromState (s : State) (ln : Nat) (l : Line) : Prop :=
  ∀ a, a / 128 = ln → Held (l.byteAt (a % 128)) → ∃ v, Held (s.levelByte v a) ∧ (l.byteAt (a % 128)).2.2 = (s.levelByte v a).2.2

/-- The bytes of a line of data are bytes that a level of the state holds. -/
def DataFrom (s : State) (ln : Nat) (x : BitVec 1024) : Prop :=
  ∀ a, a / 128 = ln → ¬ s.hotByte a → ∃ v, Held (s.levelByte v a) ∧ lineByte x (a % 128) = (s.levelByte v a).2.2

theorem held_home (s : State) (a : Nat) : Held (s.levelByte .home a) := .inl rfl

theorem dataFrom_home (s : State) (ln : Nat) : DataFrom s ln (homeLine s.mem ln) := by
  intro a ha _
  refine ⟨.home, held_home s a, ?_⟩
  rw [lineByte_homeLine _ _ (by omega), ← ha, Nat.div_add_mod]; rfl

theorem dataFrom_mono {s t : State} (h : Warmed s t) {ln : Nat} {x : BitVec 1024} (hd : DataFrom t ln x) : DataFrom s ln x := by
  intro a ha hh
  obtain ⟨v, hv, he⟩ := hd a ha (fun hx => hh ((hotByte_of_tenants (warmed_tenants h) a).1 hx))
  obtain ⟨v', hv', he'⟩ := h.bytes v a hh hv
  exact ⟨v', hv', he.trans he'⟩

/-- A level's line filled with data of the state. -/
theorem fill_from {s : State} {v : Level} {ln : Nat} {l : Line} {x : BitVec 1024}
    (hl : ∀ a, a / 128 = ln → l.byteAt (a % 128) = s.levelByte v a) (hx : DataFrom s ln x) (a : Nat) (ha : a / 128 = ln)
    (hh : ¬ s.hotByte a) :
    ∃ v', Held (s.levelByte v' a) ∧ ((l.fill x).byteAt (a % 128)).2.2 = (s.levelByte v' a).2.2 := by
  rw [fill_byteAt _ _ (by omega)]
  by_cases hd : bit l.dirty (a % 128) = true
  · refine ⟨v, .inr ?_, ?_⟩
    · rw [← hl a ha]; exact hd
    · rw [← hl a ha]; simp only [hd, if_true]; rfl
  · obtain ⟨v', hv, he⟩ := hx a ha hh
    refine ⟨v', hv, ?_⟩
    simpa only [hd, Bool.false_eq_true, if_false] using he

theorem setL1Line_warmed {s : State} {c ln : Nat} {l : Line}
    (h : ∀ a, a / 128 = ln → ¬ s.hotByte a → Held (l.byteAt (a % 128)) →
      ∃ v, Held (s.levelByte v a) ∧ (l.byteAt (a % 128)).2.2 = (s.levelByte v a).2.2) : Warmed s (s.setL1Line c ln l) := by
  refine ⟨rfl, fun v a ha hh => ?_⟩
  rw [levelByte_setL1Line] at hh ⊢
  split at hh
  · rename_i hc
    rw [if_pos hc]
    exact h a hc.2 ha hh
  · rename_i hc
    rw [if_neg hc]
    exact ⟨v, hh, rfl⟩

theorem setDieLine_warmed {s : State} {d ln : Nat} {l : Line}
    (h : ∀ a, a / 128 = ln → ¬ s.hotByte a → Held (l.byteAt (a % 128)) →
      ∃ v, Held (s.levelByte v a) ∧ (l.byteAt (a % 128)).2.2 = (s.levelByte v a).2.2) : Warmed s (s.setDieLine d ln l) := by
  refine ⟨rfl, fun v a ha hh => ?_⟩
  rw [levelByte_setDieLine] at hh ⊢
  split at hh
  · rename_i hc
    rw [if_pos hc]
    exact h a hc.2 ha hh
  · rename_i hc
    rw [if_neg hc]
    exact ⟨v, hh, rfl⟩

theorem setPartLine_warmed {s : State} {k ln : Nat} {l : Line}
    (h : ∀ a, a / 128 = ln → ¬ s.hotByte a → Held (l.byteAt (a % 128)) →
      ∃ v, Held (s.levelByte v a) ∧ (l.byteAt (a % 128)).2.2 = (s.levelByte v a).2.2) : Warmed s (s.setPartLine k ln l) := by
  refine ⟨by unfold State.setPartLine; split <;> rfl, fun v a ha hh => ?_⟩
  rw [levelByte_setPartLine] at hh ⊢
  split at hh
  · rename_i hc
    rw [if_pos hc]
    exact h a hc.2 ha hh
  · rename_i hc
    rw [if_neg hc]
    exact ⟨v, hh, rfl⟩

theorem homeWrite_warmed {s : State} {ln : Nat} {mask : BitVec 128} {x : BitVec 1024}
    (h : ∀ a, a / 128 = ln → bit mask (a % 128) = true → ∃ v, Held (s.levelByte v a) ∧ lineByte x (a % 128) = (s.levelByte v a).2.2) :
    Warmed s (s.homeWrite ln mask x) := by
  refine ⟨rfl, fun v a _ hh => ?_⟩
  rw [levelByte_homeWrite] at hh ⊢
  split
  · rename_i hc
    exact h a hc.2.1 hc.2.2
  · rename_i hc
    rw [if_neg hc] at hh
    exact ⟨v, hh, rfl⟩

/-- A hotness counter's two bytes are all that heating a region writes. -/
theorem memByte_heatMem (m : List Host.Cell) (b a : Nat) (h : ¬ (b ≤ a ∧ a < b + 2)) : memByte (heatMem m b) a = memByte m a :=
  memByte_memPuts_other m b a _ 2 (leBytes_length 2 _) h

theorem wf_heatMem {m : List Host.Cell} (b : Nat) (h : Memory.wf m = true) : Memory.wf (heatMem m b) = true := wf_memPuts _ _ h

/-- Zeroing keeps the canonical form. -/
theorem wf_memZero {m : List Host.Cell} (a n : Nat) (h : Memory.wf m = true) : Memory.wf (memZero m a n) = true := wf_filter _ _ _ h

/-- A byte of zeroed memory: 0 inside the range, and what it was outside. -/
theorem memByte_memZero (m : List Host.Cell) (a n x : Nat) :
    memByte (memZero m a n) x = if a ≤ x ∧ x < a + n then 0 else memByte m x := by
  have h := find_filter (fun k => decide (k < a) || decide (a + n ≤ k)) m x
  simp only [memByte, SMap.get, memZero]
  rw [h]
  by_cases hx : a ≤ x ∧ x < a + n
  · have : ¬ (x < a) := by omega
    have : ¬ (a + n ≤ x) := by omega
    simp [*]
  · have : x < a ∨ a + n ≤ x := by omega
    rcases this with h' | h' <;> simp [h', hx]

theorem withMem_level (s : State) (m : List Host.Cell) (v : Level) (a : Nat) (h : memByte m a = memByte s.mem a) :
    ({ s with mem := m } : State).levelByte v a = s.levelByte v a :=
  @levelByte_congr s { s with mem := m } rfl rfl rfl rfl a h v

theorem heat_cases (s : State) (t pa : Nat) :
    s.heat t pa = s ∨ ∃ i m, s.hotIndex t pa = some i ∧ m = heatMem s.mem (s.hotAddr t i) ∧ s.heat t pa = { s with mem := m } := by
  unfold State.heat
  cases s.hotIndex t pa with
  | none => exact .inl rfl
  | some i => exact .inr ⟨i, _, rfl, rfl, rfl⟩

theorem heat_level (s : State) (t pa : Nat) {v : Level} {a : Nat} (h : ¬ s.hotByte a) :
    (s.heat t pa).levelByte v a = s.levelByte v a := by
  rcases heat_cases s t pa with h' | ⟨i, m, hi, hm, h'⟩
  · rw [h']
  · rw [h']
    refine withMem_level s m v a ?_
    rw [hm]
    exact memByte_heatMem _ _ _ fun hc => h ⟨t, pa, i, hi, by omega⟩

theorem heat_warmed (s : State) (t pa : Nat) : Warmed s (s.heat t pa) := by
  refine ⟨?_, fun v a ha hh => ⟨v, by rw [heat_level _ _ _ ha] at hh; exact hh, by rw [heat_level _ _ _ ha]⟩⟩
  rcases heat_cases s t pa with h' | ⟨i, m, hi, hm, h'⟩ <;> rw [h']

theorem homeMiss_warmed (s : State) (t pa : Nat) : Warmed s (s.homeMiss t pa) := by
  have h : ∀ n, Warmed s { s with fw := { s.fw with misses := n } } :=
    fun n => warmed_of_lines rfl (fun _ => rfl) (fun _ => rfl) rfl rfl rfl
  unfold State.homeMiss
  simp only
  split
  · exact warmed_trans (h _) (heat_warmed _ _ _)
  · exact h _

/-- A counted miss moves no byte outside the hotness tables. -/
theorem homeMiss_level (s : State) (t pa : Nat) {v : Level} {a : Nat} (h : ¬ s.hotByte a) :
    (s.homeMiss t pa).levelByte v a = s.levelByte v a := by
  unfold State.homeMiss
  simp only
  split
  · rw [heat_level]
    · rfl
    · exact h
  · rfl

theorem countComp_warmed (s : State) (t d : Nat) (comp : Bool) (x : BitVec 1024) (full : Bool) :
    Warmed s (s.countComp t d comp x full) := by
  unfold State.countComp
  split
  · exact bump_warmed _ _ _ _ _
  · exact warmed_refl s

/-- A line of a level, valid in every byte, is data that the level holds. -/
theorem dataFrom_level {s : State} {v : Level} {ln : Nat} {l : Line} (hv : l.valid = BitVec.allOnes 128)
    (hl : ∀ a, a / 128 = ln → l.byteAt (a % 128) = s.levelByte v a) : DataFrom s ln l.data := by
  intro a ha _
  refine ⟨v, .inl ?_, ?_⟩
  · rw [← hl a ha]
    have h : a % 128 < 128 := by omega
    simp only [Line.byteAt, hv, bit, BitVec.getLsbD_allOnes, h, decide_true]
  · rw [← hl a ha]; rfl

theorem devLine_warmed (s : State) (t k ln : Nat) : Warmed s (s.devLine t k ln).1 ∧ DataFrom s ln (s.devLine t k ln).2 := by
  unfold State.devLine
  split
  · exact ⟨warmed_refl s, dataFrom_home s ln⟩
  · simp only
    have hpart : ∀ a, a / 128 = ln → (s.partLine k ln).byteAt (a % 128) = s.levelByte (.part k) a := by
      intro a ha; rw [← ha]; rfl
    split
    · exact ⟨warmed_refl s, dataFrom_level ‹_› hpart⟩
    · have hm := homeMiss_warmed s t (128 * ln)
      have hfill := fun a ha hh => fill_from (v := .part k) hpart (dataFrom_home s ln) a ha hh
      have hmove : ∀ a, ¬ s.hotByte a → ∀ v, Held (s.levelByte v a) → ∃ v', Held ((s.homeMiss t (128 * ln)).levelByte v' a) ∧
          (s.levelByte v a).2.2 = ((s.homeMiss t (128 * ln)).levelByte v' a).2.2 := by
        intro a hh v hv
        exact ⟨v, by rw [homeMiss_level _ _ _ hh]; exact hv, by rw [homeMiss_level _ _ _ hh]⟩
      refine ⟨?_, fun a ha hh => hfill a ha hh⟩
      split
      · refine warmed_trans hm (setPartLine_warmed fun a ha hh _ => ?_)
        have hh' : ¬ s.hotByte a := fun hx => hh ((hotByte_of_tenants (warmed_tenants hm) a).2 hx)
        obtain ⟨v, hv, he⟩ := hfill a ha hh'
        obtain ⟨v', hv', he'⟩ := hmove a hh' v hv
        exact ⟨v', hv', he.trans he'⟩
      · exact hm

end Sys2Proof.Laws
end

