-- ==== Sys2Proof/Laws/PerInstr.lean ====
section
/-!
SUPPORT. Per instruction: its opcode fits the field that its stream's words have for it, so that the encoder drops no bit
of it, and a step that has no words has none.
-/

namespace Sys2Proof.Laws.Enc

/-- The opcode of an instruction fits its field: 8 bits in a T word (R64), 6 in an A word, never the prefix's (R154, R156), 5 in
a slot or a bytecode word (R204 to R206, R345). -/
def Statement (i : Instr) : Prop :=
  match i.view with
  | .t op _ => op < 256
  | .a op _ => op < 63
  | .aLong op _ _ => op < 63
  | .s op _ => op < 32
  | .v op _ => op < 32
  | .m op _ => op < 32
  | .q op _ => op < 32
  | .none => encode i = .none

theorem add (w : TWord) : Statement (.add w) := (of_decide_eq_true rfl : 0x01 < 256)
theorem add3 (w : TWord) : Statement (.add3 w) := (of_decide_eq_true rfl : 0x02 < 256)
theorem sub (w : TWord) : Statement (.sub w) := (of_decide_eq_true rfl : 0x03 < 256)
theorem neg (w : TWord) : Statement (.neg w) := (of_decide_eq_true rfl : 0x04 < 256)
theorem abs (w : TWord) : Statement (.abs w) := (of_decide_eq_true rfl : 0x05 < 256)
theorem mullo (w : TWord) : Statement (.mullo w) := (of_decide_eq_true rfl : 0x06 < 256)
theorem mulhi (w : TWord) : Statement (.mulhi w) := (of_decide_eq_true rfl : 0x07 < 256)
theorem mad (w : TWord) : Statement (.mad w) := (of_decide_eq_true rfl : 0x08 < 256)
theorem madw (w : TWord) : Statement (.madw w) := (of_decide_eq_true rfl : 0x09 < 256)
theorem div (w : TWord) : Statement (.div w) := (of_decide_eq_true rfl : 0x0A < 256)
theorem rem (w : TWord) : Statement (.rem w) := (of_decide_eq_true rfl : 0x0B < 256)
theorem min (w : TWord) : Statement (.min w) := (of_decide_eq_true rfl : 0x0C < 256)
theorem max (w : TWord) : Statement (.max w) := (of_decide_eq_true rfl : 0x0D < 256)
theorem lop3 (w : TWord) : Statement (.lop3 w) := (of_decide_eq_true rfl : 0x0E < 256)
theorem shl (w : TWord) : Statement (.shl w) := (of_decide_eq_true rfl : 0x0F < 256)
theorem shr (w : TWord) : Statement (.shr w) := (of_decide_eq_true rfl : 0x10 < 256)
theorem sra (w : TWord) : Statement (.sra w) := (of_decide_eq_true rfl : 0x11 < 256)
theorem fsh (w : TWord) : Statement (.fsh w) := (of_decide_eq_true rfl : 0x12 < 256)
theorem bfx (w : TWord) : Statement (.bfx w) := (of_decide_eq_true rfl : 0x13 < 256)
theorem bfi (w : TWord) : Statement (.bfi w) := (of_decide_eq_true rfl : 0x14 < 256)
theorem popc (w : TWord) : Statement (.popc w) := (of_decide_eq_true rfl : 0x15 < 256)
theorem clz (w : TWord) : Statement (.clz w) := (of_decide_eq_true rfl : 0x16 < 256)
theorem brev (w : TWord) : Statement (.brev w) := (of_decide_eq_true rfl : 0x17 < 256)
theorem cmp (w : TWord) : Statement (.cmp w) := (of_decide_eq_true rfl : 0x18 < 256)
theorem sel (w : TWord) : Statement (.sel w) := (of_decide_eq_true rfl : 0x19 < 256)
theorem mov (w : TWord) : Statement (.mov w) := (of_decide_eq_true rfl : 0x1A < 256)
theorem movi (w : TWord) : Statement (.movi w) := (of_decide_eq_true rfl : 0x1B < 256)
theorem lea (w : TWord) : Statement (.lea w) := (of_decide_eq_true rfl : 0x1C < 256)
theorem addW (w : TWord) : Statement (.addW w) := (of_decide_eq_true rfl : 0x1D < 256)
theorem packT5 (w : TWord) : Statement (.packT5 w) := (of_decide_eq_true rfl : 0x1E < 256)
theorem unpackT5 (w : TWord) : Statement (.unpackT5 w) := (of_decide_eq_true rfl : 0x1F < 256)
theorem fadd (w : TWord) : Statement (.fadd w) := (of_decide_eq_true rfl : 0x20 < 256)
theorem fmul (w : TWord) : Statement (.fmul w) := (of_decide_eq_true rfl : 0x21 < 256)
theorem ffma (w : TWord) : Statement (.ffma w) := (of_decide_eq_true rfl : 0x22 < 256)
theorem fmin (w : TWord) : Statement (.fmin w) := (of_decide_eq_true rfl : 0x23 < 256)
theorem fmax (w : TWord) : Statement (.fmax w) := (of_decide_eq_true rfl : 0x24 < 256)
theorem fcmp (w : TWord) : Statement (.fcmp w) := (of_decide_eq_true rfl : 0x25 < 256)
theorem fclass (w : TWord) : Statement (.fclass w) := (of_decide_eq_true rfl : 0x26 < 256)
theorem frnd (w : TWord) : Statement (.frnd w) := (of_decide_eq_true rfl : 0x27 < 256)
theorem frcp (w : TWord) : Statement (.frcp w) := (of_decide_eq_true rfl : 0x28 < 256)
theorem frsq (w : TWord) : Statement (.frsq w) := (of_decide_eq_true rfl : 0x29 < 256)
theorem fsqrt (w : TWord) : Statement (.fsqrt w) := (of_decide_eq_true rfl : 0x2A < 256)
theorem fdiv (w : TWord) : Statement (.fdiv w) := (of_decide_eq_true rfl : 0x2B < 256)
theorem fexp2 (w : TWord) : Statement (.fexp2 w) := (of_decide_eq_true rfl : 0x2C < 256)
theorem flog2 (w : TWord) : Statement (.flog2 w) := (of_decide_eq_true rfl : 0x2D < 256)
theorem fsint (w : TWord) : Statement (.fsint w) := (of_decide_eq_true rfl : 0x2E < 256)
theorem fcost (w : TWord) : Statement (.fcost w) := (of_decide_eq_true rfl : 0x2F < 256)
theorem cvt (w : TWord) : Statement (.cvt w) := (of_decide_eq_true rfl : 0x30 < 256)
theorem hfma2 (w : TWord) : Statement (.hfma2 w) := (of_decide_eq_true rfl : 0x31 < 256)
theorem dot2 (w : TWord) : Statement (.dot2 w) := (of_decide_eq_true rfl : 0x32 < 256)
theorem dot4 (w : TWord) : Statement (.dot4 w) := (of_decide_eq_true rfl : 0x33 < 256)
theorem dot8 (w : TWord) : Statement (.dot8 w) := (of_decide_eq_true rfl : 0x34 < 256)
theorem idot4 (w : TWord) : Statement (.idot4 w) := (of_decide_eq_true rfl : 0x35 < 256)
theorem dotT5 (w : TWord) : Statement (.dotT5 w) := (of_decide_eq_true rfl : 0x36 < 256)
theorem cbx (w : TWord) : Statement (.cbx w) := (of_decide_eq_true rfl : 0x37 < 256)
theorem cbld (w : TWord) : Statement (.cbld w) := (of_decide_eq_true rfl : 0x38 < 256)
theorem cbldFill : Statement .cbldFill := rfl
theorem dadd (w : TWord) : Statement (.dadd w) := (of_decide_eq_true rfl : 0x39 < 256)
theorem dmul (w : TWord) : Statement (.dmul w) := (of_decide_eq_true rfl : 0x3A < 256)
theorem dfma (w : TWord) : Statement (.dfma w) := (of_decide_eq_true rfl : 0x3B < 256)
theorem bra (w : TWord) : Statement (.bra w) := (of_decide_eq_true rfl : 0x40 < 256)
theorem brx (w : TWord) : Statement (.brx w) := (of_decide_eq_true rfl : 0x41 < 256)
theorem call (w : TWord) : Statement (.call w) := (of_decide_eq_true rfl : 0x42 < 256)
theorem callX (w : TWord) : Statement (.callX w) := (of_decide_eq_true rfl : 0x42 < 256)
theorem ret (w : TWord) : Statement (.ret w) := (of_decide_eq_true rfl : 0x43 < 256)
theorem exit (w : TWord) : Statement (.exit w) := (of_decide_eq_true rfl : 0x44 < 256)
theorem safept (w : TWord) : Statement (.safept w) := (of_decide_eq_true rfl : 0x45 < 256)
theorem setpc (w : TWord) : Statement (.setpc w) := (of_decide_eq_true rfl : 0x46 < 256)
theorem selc (w : TWord) : Statement (.selc w) := (of_decide_eq_true rfl : 0x47 < 256)
theorem vote (w : TWord) : Statement (.vote w) := (of_decide_eq_true rfl : 0x48 < 256)
theorem elect (w : TWord) : Statement (.elect w) := (of_decide_eq_true rfl : 0x49 < 256)
theorem shfl (w : TWord) : Statement (.shfl w) := (of_decide_eq_true rfl : 0x4A < 256)
theorem qswp (w : TWord) : Statement (.qswp w) := (of_decide_eq_true rfl : 0x4B < 256)
theorem qbc (w : TWord) : Statement (.qbc w) := (of_decide_eq_true rfl : 0x4C < 256)
theorem qdd (w : TWord) : Statement (.qdd w) := (of_decide_eq_true rfl : 0x4D < 256)
theorem barArv (w : TWord) : Statement (.barArv w) := (of_decide_eq_true rfl : 0x4E < 256)
theorem barWt (w : TWord) : Statement (.barWt w) := (of_decide_eq_true rfl : 0x4F < 256)
theorem barSync (w : TWord) : Statement (.barSync w) := (of_decide_eq_true rfl : 0x50 < 256)
theorem nop (w : TWord) : Statement (.nop w) := (of_decide_eq_true rfl : 0x51 < 256)
theorem trap (w : TWord) : Statement (.trap w) := (of_decide_eq_true rfl : 0x52 < 256)
theorem brk (w : TWord) : Statement (.brk w) := (of_decide_eq_true rfl : 0x54 < 256)
theorem tret (w : TWord) : Statement (.tret w) := (of_decide_eq_true rfl : 0x53 < 256)
theorem s2v (w : TWord) : Statement (.s2v w) := (of_decide_eq_true rfl : 0x55 < 256)
theorem vget (w : TWord) : Statement (.vget w) := (of_decide_eq_true rfl : 0x56 < 256)
theorem vput (w : TWord) : Statement (.vput w) := (of_decide_eq_true rfl : 0x57 < 256)
theorem ld (w : TWord) : Statement (.ld w) := (of_decide_eq_true rfl : 0x60 < 256)
theorem st (w : TWord) : Statement (.st w) := (of_decide_eq_true rfl : 0x61 < 256)
theorem lds (w : TWord) : Statement (.lds w) := (of_decide_eq_true rfl : 0x62 < 256)
theorem sts (w : TWord) : Statement (.sts w) := (of_decide_eq_true rfl : 0x63 < 256)
theorem ldx (w : TWord) : Statement (.ldx w) := (of_decide_eq_true rfl : 0x64 < 256)
theorem stx (w : TWord) : Statement (.stx w) := (of_decide_eq_true rfl : 0x65 < 256)
theorem atom (w : TWord) : Statement (.atom w) := (of_decide_eq_true rfl : 0x66 < 256)
theorem cas (w : TWord) : Statement (.cas w) := (of_decide_eq_true rfl : 0x67 < 256)
theorem red (w : TWord) : Statement (.red w) := (of_decide_eq_true rfl : 0x68 < 256)
theorem pfh (w : TWord) : Statement (.pfh w) := (of_decide_eq_true rfl : 0x69 < 256)
theorem reside (w : TWord) : Statement (.reside w) := (of_decide_eq_true rfl : 0x6A < 256)
theorem fence (w : TWord) : Statement (.fence w) := (of_decide_eq_true rfl : 0x6B < 256)
theorem sample (w : TWord) : Statement (.sample w) := (of_decide_eq_true rfl : 0x6C < 256)
theorem lnch (w : TWord) : Statement (.lnch w) := (of_decide_eq_true rfl : 0x6D < 256)
theorem rqRay (w : TWord) : Statement (.rqRay w) := (of_decide_eq_true rfl : 0x70 < 256)
theorem rqBeam (w : TWord) : Statement (.rqBeam w) := (of_decide_eq_true rfl : 0x71 < 256)
theorem rqCone (w : TWord) : Statement (.rqCone w) := (of_decide_eq_true rfl : 0x72 < 256)
theorem rpop (w : TWord) : Statement (.rpop w) := (of_decide_eq_true rfl : 0x73 < 256)
theorem rstat (w : TWord) : Statement (.rstat w) := (of_decide_eq_true rfl : 0x74 < 256)
theorem semadd (w : TWord) : Statement (.semadd w) := (of_decide_eq_true rfl : 0x75 < 256)
theorem semset (w : TWord) : Statement (.semset w) := (of_decide_eq_true rfl : 0x76 < 256)
theorem semwait (w : TWord) : Statement (.semwait w) := (of_decide_eq_true rfl : 0x77 < 256)
theorem aadd (w : AWord) : Statement (.aadd w) := (of_decide_eq_true rfl : 0x01 < 63)
theorem aaddLong (p : APrefix) (w : AWord) : Statement (.aaddLong p w) := (of_decide_eq_true rfl : 0x01 < 63)
theorem asub (w : AWord) : Statement (.asub w) := (of_decide_eq_true rfl : 0x02 < 63)
theorem asubLong (p : APrefix) (w : AWord) : Statement (.asubLong p w) := (of_decide_eq_true rfl : 0x02 < 63)
theorem amul (w : AWord) : Statement (.amul w) := (of_decide_eq_true rfl : 0x03 < 63)
theorem amulLong (p : APrefix) (w : AWord) : Statement (.amulLong p w) := (of_decide_eq_true rfl : 0x03 < 63)
theorem aand (w : AWord) : Statement (.aand w) := (of_decide_eq_true rfl : 0x04 < 63)
theorem aandLong (p : APrefix) (w : AWord) : Statement (.aandLong p w) := (of_decide_eq_true rfl : 0x04 < 63)
theorem aor (w : AWord) : Statement (.aor w) := (of_decide_eq_true rfl : 0x05 < 63)
theorem aorLong (p : APrefix) (w : AWord) : Statement (.aorLong p w) := (of_decide_eq_true rfl : 0x05 < 63)
theorem axor (w : AWord) : Statement (.axor w) := (of_decide_eq_true rfl : 0x06 < 63)
theorem axorLong (p : APrefix) (w : AWord) : Statement (.axorLong p w) := (of_decide_eq_true rfl : 0x06 < 63)
theorem ashl (w : AWord) : Statement (.ashl w) := (of_decide_eq_true rfl : 0x07 < 63)
theorem ashlLong (p : APrefix) (w : AWord) : Statement (.ashlLong p w) := (of_decide_eq_true rfl : 0x07 < 63)
theorem ashr (w : AWord) : Statement (.ashr w) := (of_decide_eq_true rfl : 0x08 < 63)
theorem ashrLong (p : APrefix) (w : AWord) : Statement (.ashrLong p w) := (of_decide_eq_true rfl : 0x08 < 63)
theorem amov (w : AWord) : Statement (.amov w) := (of_decide_eq_true rfl : 0x09 < 63)
theorem amovi (w : AWord) : Statement (.amovi w) := (of_decide_eq_true rfl : 0x0A < 63)
theorem amoviLong (p : APrefix) (w : AWord) : Statement (.amoviLong p w) := (of_decide_eq_true rfl : 0x0A < 63)
theorem amoviH (p : APrefix) (w : AWord) : Statement (.amoviH p w) := (of_decide_eq_true rfl : 0x0A < 63)
theorem acmp (w : AWord) : Statement (.acmp w) := (of_decide_eq_true rfl : 0x0B < 63)
theorem acmpLong (p : APrefix) (w : AWord) : Statement (.acmpLong p w) := (of_decide_eq_true rfl : 0x0B < 63)
theorem asel (w : AWord) : Statement (.asel w) := (of_decide_eq_true rfl : 0x0C < 63)
theorem aselLong (p : APrefix) (w : AWord) : Statement (.aselLong p w) := (of_decide_eq_true rfl : 0x0C < 63)
theorem as2a (w : AWord) : Statement (.as2a w) := (of_decide_eq_true rfl : 0x0D < 63)
theorem anop (w : AWord) : Statement (.anop w) := (of_decide_eq_true rfl : 0x0E < 63)
theorem abr (w : AWord) : Statement (.abr w) := (of_decide_eq_true rfl : 0x10 < 63)
theorem ajmp (w : AWord) : Statement (.ajmp w) := (of_decide_eq_true rfl : 0x11 < 63)
theorem acall (w : AWord) : Statement (.acall w) := (of_decide_eq_true rfl : 0x12 < 63)
theorem aret (w : AWord) : Statement (.aret w) := (of_decide_eq_true rfl : 0x13 < 63)
theorem aloop (w : AWord) : Statement (.aloop w) := (of_decide_eq_true rfl : 0x14 < 63)
theorem aend (w : AWord) : Statement (.aend w) := (of_decide_eq_true rfl : 0x15 < 63)
theorem asafe (w : AWord) : Statement (.asafe w) := (of_decide_eq_true rfl : 0x16 < 63)
theorem aexit : Statement .aexit := (of_decide_eq_true rfl : 0x17 < 63)
theorem atrap (w : AWord) : Statement (.atrap w) := (of_decide_eq_true rfl : 0x18 < 63)
theorem aretT : Statement .aretT := (of_decide_eq_true rfl : 0x19 < 63)
theorem afence (w : AWord) : Statement (.afence w) := (of_decide_eq_true rfl : 0x1A < 63)
theorem afenceLong (p : APrefix) (w : AWord) : Statement (.afenceLong p w) := (of_decide_eq_true rfl : 0x1A < 63)
theorem ald (w : AWord) : Statement (.ald w) := (of_decide_eq_true rfl : 0x20 < 63)
theorem aldLong (p : APrefix) (w : AWord) : Statement (.aldLong p w) := (of_decide_eq_true rfl : 0x20 < 63)
theorem ast (w : AWord) : Statement (.ast w) := (of_decide_eq_true rfl : 0x21 < 63)
theorem astLong (p : APrefix) (w : AWord) : Statement (.astLong p w) := (of_decide_eq_true rfl : 0x21 < 63)
theorem alds (w : AWord) : Statement (.alds w) := (of_decide_eq_true rfl : 0x22 < 63)
theorem aldsLong (p : APrefix) (w : AWord) : Statement (.aldsLong p w) := (of_decide_eq_true rfl : 0x22 < 63)
theorem asts (w : AWord) : Statement (.asts w) := (of_decide_eq_true rfl : 0x23 < 63)
theorem astsLong (p : APrefix) (w : AWord) : Statement (.astsLong p w) := (of_decide_eq_true rfl : 0x23 < 63)
theorem qpush (w : AWord) : Statement (.qpush w) := (of_decide_eq_true rfl : 0x24 < 63)
theorem qpushLong (p : APrefix) (w : AWord) : Statement (.qpushLong p w) := (of_decide_eq_true rfl : 0x24 < 63)
theorem qpop (w : AWord) : Statement (.qpop w) := (of_decide_eq_true rfl : 0x25 < 63)
theorem awaitq (w : AWord) : Statement (.awaitq w) := (of_decide_eq_true rfl : 0x26 < 63)
theorem semaddA (w : AWord) : Statement (.semaddA w) := (of_decide_eq_true rfl : 0x27 < 63)
theorem semaddALong (p : APrefix) (w : AWord) : Statement (.semaddALong p w) := (of_decide_eq_true rfl : 0x27 < 63)
theorem semsetA (w : AWord) : Statement (.semsetA w) := (of_decide_eq_true rfl : 0x28 < 63)
theorem semsetALong (p : APrefix) (w : AWord) : Statement (.semsetALong p w) := (of_decide_eq_true rfl : 0x28 < 63)
theorem semwaitA (w : AWord) : Statement (.semwaitA w) := (of_decide_eq_true rfl : 0x29 < 63)
theorem semwaitALong (p : APrefix) (w : AWord) : Statement (.semwaitALong p w) := (of_decide_eq_true rfl : 0x29 < 63)
theorem cpy (w : AWord) : Statement (.cpy w) := (of_decide_eq_true rfl : 0x30 < 63)
theorem cpyLong (p : APrefix) (w : AWord) : Statement (.cpyLong p w) := (of_decide_eq_true rfl : 0x30 < 63)
theorem cpyx (w : AWord) : Statement (.cpyx w) := (of_decide_eq_true rfl : 0x31 < 63)
theorem cpyxLong (p : APrefix) (w : AWord) : Statement (.cpyxLong p w) := (of_decide_eq_true rfl : 0x31 < 63)
theorem cpylv (w : AWord) : Statement (.cpylv w) := (of_decide_eq_true rfl : 0x32 < 63)
theorem cpylvLong (p : APrefix) (w : AWord) : Statement (.cpylvLong p w) := (of_decide_eq_true rfl : 0x32 < 63)
theorem kvapp (w : AWord) : Statement (.kvapp w) := (of_decide_eq_true rfl : 0x33 < 63)
theorem kvappLong (p : APrefix) (w : AWord) : Statement (.kvappLong p w) := (of_decide_eq_true rfl : 0x33 < 63)
theorem cpyw (w : AWord) : Statement (.cpyw w) := (of_decide_eq_true rfl : 0x34 < 63)
theorem cpywLong (p : APrefix) (w : AWord) : Statement (.cpywLong p w) := (of_decide_eq_true rfl : 0x34 < 63)
theorem ceCommandStart : Statement .ceCommandStart := rfl
theorem ceCommandComplete : Statement .ceCommandComplete := rfl
theorem fmtq (w : AWord) : Statement (.fmtq w) := (of_decide_eq_true rfl : 0x35 < 63)
theorem fmtqLong (p : APrefix) (w : AWord) : Statement (.fmtqLong p w) := (of_decide_eq_true rfl : 0x35 < 63)
theorem taRun (w : AWord) : Statement (.taRun w) := (of_decide_eq_true rfl : 0x36 < 63)
theorem taRunLong (p : APrefix) (w : AWord) : Statement (.taRunLong p w) := (of_decide_eq_true rfl : 0x36 < 63)
theorem taZero (w : AWord) : Statement (.taZero w) := (of_decide_eq_true rfl : 0x37 < 63)
theorem taSwap (w : AWord) : Statement (.taSwap w) := (of_decide_eq_true rfl : 0x38 < 63)
theorem tastat (w : AWord) : Statement (.tastat w) := (of_decide_eq_true rfl : 0x39 < 63)
theorem crownTake (w : AWord) : Statement (.crownTake w) := (of_decide_eq_true rfl : 0x3A < 63)
theorem crownPass (w : AWord) : Statement (.crownPass w) := (of_decide_eq_true rfl : 0x3B < 63)
theorem taCommandStart : Statement .taCommandStart := rfl
theorem taCommandComplete : Statement .taCommandComplete := rfl
theorem taRunFault : Statement .taRunFault := rfl
theorem snop : Statement .snop := (of_decide_eq_true rfl : 0x00 < 32)
theorem sadd (w : SSlot) : Statement (.sadd w) := (of_decide_eq_true rfl : 0x01 < 32)
theorem ssub (w : SSlot) : Statement (.ssub w) := (of_decide_eq_true rfl : 0x02 < 32)
theorem smul (w : SSlot) : Statement (.smul w) := (of_decide_eq_true rfl : 0x03 < 32)
theorem sand (w : SSlot) : Statement (.sand w) := (of_decide_eq_true rfl : 0x04 < 32)
theorem sor (w : SSlot) : Statement (.sor w) := (of_decide_eq_true rfl : 0x05 < 32)
theorem sshl (w : SSlot) : Statement (.sshl w) := (of_decide_eq_true rfl : 0x06 < 32)
theorem sshr (w : SSlot) : Statement (.sshr w) := (of_decide_eq_true rfl : 0x07 < 32)
theorem smov (w : SSlot) : Statement (.smov w) := (of_decide_eq_true rfl : 0x08 < 32)
theorem smovh (w : SSlot) : Statement (.smovh w) := (of_decide_eq_true rfl : 0x09 < 32)
theorem scmp (w : SSlot) : Statement (.scmp w) := (of_decide_eq_true rfl : 0x0A < 32)
theorem br (w : SSlot) : Statement (.br w) := (of_decide_eq_true rfl : 0x0B < 32)
theorem brc (w : SSlot) : Statement (.brc w) := (of_decide_eq_true rfl : 0x0C < 32)
theorem loop (w : SSlot) : Statement (.loop w) := (of_decide_eq_true rfl : 0x0D < 32)
theorem poseR (w : SSlot) : Statement (.poseR w) := (of_decide_eq_true rfl : 0x0E < 32)
theorem poseW (w : SSlot) : Statement (.poseW w) := (of_decide_eq_true rfl : 0x0E < 32)
theorem bandiRd (w : SSlot) : Statement (.bandiRd w) := (of_decide_eq_true rfl : 0x0F < 32)
theorem bandiNext (w : SSlot) : Statement (.bandiNext w) := (of_decide_eq_true rfl : 0x0F < 32)
theorem syncm : Statement .syncm := (of_decide_eq_true rfl : 0x10 < 32)
theorem halt : Statement .halt := (of_decide_eq_true rfl : 0x11 < 32)
theorem vnop : Statement .vnop := (of_decide_eq_true rfl : 0x00 < 32)
theorem vadd (w : VSlot) : Statement (.vadd w) := (of_decide_eq_true rfl : 0x01 < 32)
theorem vsub (w : VSlot) : Statement (.vsub w) := (of_decide_eq_true rfl : 0x02 < 32)
theorem vmul (w : VSlot) : Statement (.vmul w) := (of_decide_eq_true rfl : 0x03 < 32)
theorem vfma (w : VSlot) : Statement (.vfma w) := (of_decide_eq_true rfl : 0x04 < 32)
theorem vmin (w : VSlot) : Statement (.vmin w) := (of_decide_eq_true rfl : 0x05 < 32)
theorem vmax (w : VSlot) : Statement (.vmax w) := (of_decide_eq_true rfl : 0x06 < 32)
theorem vrcp (w : VSlot) : Statement (.vrcp w) := (of_decide_eq_true rfl : 0x07 < 32)
theorem vrsq (w : VSlot) : Statement (.vrsq w) := (of_decide_eq_true rfl : 0x08 < 32)
theorem vflr (w : VSlot) : Statement (.vflr w) := (of_decide_eq_true rfl : 0x09 < 32)
theorem vcvt (w : VSlot) : Statement (.vcvt w) := (of_decide_eq_true rfl : 0x0A < 32)
theorem vcmp (w : VSlot) : Statement (.vcmp w) := (of_decide_eq_true rfl : 0x0B < 32)
theorem vsel (w : VSlot) : Statement (.vsel w) := (of_decide_eq_true rfl : 0x0C < 32)
theorem vlerp (w : VSlot) : Statement (.vlerp w) := (of_decide_eq_true rfl : 0x0D < 32)
theorem vperm (w : VSlot) : Statement (.vperm w) := (of_decide_eq_true rfl : 0x0E < 32)
theorem vbcast (w : VSlot) : Statement (.vbcast w) := (of_decide_eq_true rfl : 0x0F < 32)
theorem vpack (w : VSlot) : Statement (.vpack w) := (of_decide_eq_true rfl : 0x10 < 32)
theorem lbld (w : MSlot) : Statement (.lbld w) := (of_decide_eq_true rfl : 0x01 < 32)
theorem lbst (w : MSlot) : Statement (.lbst w) := (of_decide_eq_true rfl : 0x02 < 32)
theorem gld (w : MSlot) : Statement (.gld w) := (of_decide_eq_true rfl : 0x03 < 32)
theorem wsamp (w : MSlot) : Statement (.wsamp w) := (of_decide_eq_true rfl : 0x04 < 32)
theorem dsamp (w : MSlot) : Statement (.dsamp w) := (of_decide_eq_true rfl : 0x05 < 32)
theorem mxld (w : MSlot) : Statement (.mxld w) := (of_decide_eq_true rfl : 0x06 < 32)
theorem mxrun (w : MSlot) : Statement (.mxrun w) := (of_decide_eq_true rfl : 0x07 < 32)
theorem mxst (w : MSlot) : Statement (.mxst w) := (of_decide_eq_true rfl : 0x08 < 32)
theorem emit (w : MSlot) : Statement (.emit w) := (of_decide_eq_true rfl : 0x09 < 32)
theorem ldp (w : QWord) : Statement (.ldp w) := (of_decide_eq_true rfl : 0x00 < 32)
theorem ldm (w : QWord) : Statement (.ldm w) := (of_decide_eq_true rfl : 0x01 < 32)
theorem movb (w : QWord) : Statement (.movb w) := (of_decide_eq_true rfl : 0x02 < 32)
theorem addb (w : QWord) : Statement (.addb w) := (of_decide_eq_true rfl : 0x03 < 32)
theorem subb (w : QWord) : Statement (.subb w) := (of_decide_eq_true rfl : 0x04 < 32)
theorem andb (w : QWord) : Statement (.andb w) := (of_decide_eq_true rfl : 0x05 < 32)
theorem orb (w : QWord) : Statement (.orb w) := (of_decide_eq_true rfl : 0x06 < 32)
theorem shlb (w : QWord) : Statement (.shlb w) := (of_decide_eq_true rfl : 0x07 < 32)
theorem shrb (w : QWord) : Statement (.shrb w) := (of_decide_eq_true rfl : 0x08 < 32)
theorem cmpb (w : QWord) : Statement (.cmpb w) := (of_decide_eq_true rfl : 0x09 < 32)
theorem jf (w : QWord) : Statement (.jf w) := (of_decide_eq_true rfl : 0x0A < 32)
theorem jfc (w : QWord) : Statement (.jfc w) := (of_decide_eq_true rfl : 0x0B < 32)
theorem loopb (w : QWord) : Statement (.loopb w) := (of_decide_eq_true rfl : 0x0C < 32)
theorem endb : Statement .endb := (of_decide_eq_true rfl : 0x0D < 32)
theorem chkres (w : QWord) : Statement (.chkres w) := (of_decide_eq_true rfl : 0x0E < 32)
theorem reloc (w : QWord) : Statement (.reloc w) := (of_decide_eq_true rfl : 0x0F < 32)
theorem emitC (w : QWord) : Statement (.emitC w) := (of_decide_eq_true rfl : 0x10 < 32)
theorem done : Statement .done := (of_decide_eq_true rfl : 0x11 < 32)
theorem fail (w : QWord) : Statement (.fail w) := (of_decide_eq_true rfl : 0x12 < 32)
theorem qiTakePacket : Statement .qiTakePacket := rfl
theorem nopPacket : Statement .nopPacket := rfl
theorem launch : Statement .launch := rfl
theorem invoke : Statement .invoke := rfl
theorem copy : Statement .copy := rfl
theorem waitsem : Statement .waitsem := rfl
theorem signalsem : Statement .signalsem := rfl
theorem fencePacket : Statement .fencePacket := rfl
theorem event : Statement .event := rfl
theorem slotload : Statement .slotload := rfl
theorem slotfree : Statement .slotfree := rfl
theorem qprog : Statement .qprog := rfl
theorem mapupd : Statement .mapupd := rfl
theorem mapupdUnmap : Statement .mapupdUnmap := rfl
theorem mapupdDecay : Statement .mapupdDecay := rfl
theorem tlbinv : Statement .tlbinv := rfl
theorem codeinv : Statement .codeinv := rfl
theorem headcfgEnable : Statement .headcfgEnable := rfl
theorem headcfgDisable : Statement .headcfgDisable := rfl
theorem headcfgEffect : Statement .headcfgEffect := rfl
theorem rsetupRegister : Statement .rsetupRegister := rfl
theorem rsetupUnregister : Statement .rsetupUnregister := rfl
theorem rsetupKill : Statement .rsetupKill := rfl
theorem gridReady : Statement .gridReady := rfl
theorem groupPlacement : Statement .groupPlacement := rfl
theorem groupStart : Statement .groupStart := rfl
theorem groupEnd : Statement .groupEnd := rfl
theorem quantumExpiry : Statement .quantumExpiry := rfl
theorem groupSaveComplete : Statement .groupSaveComplete := rfl
theorem groupResumption : Statement .groupResumption := rfl
theorem rayQueryTake : Statement .rayQueryTake := rfl
theorem splitRecordEmit : Statement .splitRecordEmit := rfl
theorem spawnWarpStart : Statement .spawnWarpStart := rfl
theorem rayQueryComplete : Statement .rayQueryComplete := rfl
theorem pageWalk : Statement .pageWalk := rfl
theorem cacheEviction : Statement .cacheEviction := rfl
theorem faultLogDrain : Statement .faultLogDrain := rfl
theorem faultLogRetest : Statement .faultLogRetest := rfl
theorem counterSnapshot : Statement .counterSnapshot := rfl
theorem eventSend : Statement .eventSend := rfl
theorem renderSetLatch : Statement .renderSetLatch := rfl
theorem poseLatch : Statement .poseLatch := rfl
theorem bandDispatch : Statement .bandDispatch := rfl
theorem bandDeadline : Statement .bandDeadline := rfl
theorem bandScanOut : Statement .bandScanOut := rfl
theorem rdmaWrite : Statement .rdmaWrite := rfl
theorem rdmaRead : Statement .rdmaRead := rfl
theorem rdmaFetchAdd : Statement .rdmaFetchAdd := rfl
theorem rdmaCompareSwap : Statement .rdmaCompareSwap := rfl
theorem attest : Statement .attest := rfl
theorem provision : Statement .provision := rfl
theorem update : Statement .update := rfl
theorem reset : Statement .reset := rfl
theorem powerOn : Statement .powerOn := rfl
theorem powerMeasure : Statement .powerMeasure := rfl
theorem thermalStop : Statement .thermalStop := rfl
theorem thermalRestart : Statement .thermalRestart := rfl
theorem thermalShutdown : Statement .thermalShutdown := rfl
theorem linkLoss : Statement .linkLoss := rfl
theorem linkRetrain : Statement .linkRetrain := rfl
theorem correctableError : Statement .correctableError := rfl
theorem uncorrectableError : Statement .uncorrectableError := rfl
theorem matrixOperationComplete : Statement .matrixOperationComplete := rfl
theorem inputPowerRemoved : Statement .inputPowerRemoved := rfl
theorem rdmaInvalidRequest : Statement .rdmaInvalidRequest := rfl
theorem congestionNotification : Statement .congestionNotification := rfl

end Sys2Proof.Laws.Enc
end

