-- ==== Sys2Proof/Tests/Slice0.lean ====
section
/-!
SUPPORT. Tests of the model on small states, one step each: ill-formed instructions that the well-formedness check
refuses, words of the spec that decode to what it says, results that the spec works out, and a witness for the hypotheses of
each statement (`wit_<statement>`). Expected values come from the spec's own examples or are worked out by hand from its rules.
-/

namespace Sys2Proof.Tests
open Sys2Proof.Machine
set_option Elab.async false

/-! ### Small states -/

/-- A T word with every field at its short form's value. -/
def tw : TWord :=
  { mod := 0, pred := 7, pneg := 0, popq := 0, pushq := 0, spec := 0, dst := 0, srca := 0, srcb := 0, srcc := 0, lr := 0, long := none }

/-- The same with a second word at the short form's values. -/
def tl : TLong := { imm32 := 0, immuse := 0, oc := 0, scope := 0, sem := 0, cmask := 0xFFFF, xmod := 0 }

def aw : AWord := { popq := 0, pushq := 0, d := 0, s1 := 0, s2 := 0 }
def ap : APrefix := { oc := 0, scope := 0, sem := 0, iuse := 0, imm32 := 0 }
def sw : SSlot := { i := 0, d := 0, a := 0, b := 0 }
def vw : VSlot := { mreg := 0, mke := 0, ty := 0, d := 0, a := 0, b := 0, sub := 0 }
def mw : MSlot := { mreg := 0, mke := 0, d := 0, a := 0, b := 0, sub := 0 }
def qw : QWord := { r := 0, x := 0 }

/-- A warp of 32 live threads at PC 0, and its group, on core 0. -/
def warp0 : Warp := Warp.fresh (startThreads 32 32 0) 0
def group0 : Group := placedGroup { placedKern 4096 4096 with ttrap := some 0x100, atrap := some 0x40 }

/-- Core 0 with a translation of the first GiB, ordinary pages that may be read, written and used atomically. -/
def core0 : Core := { Core.zero with tlb := [{ asid := 0, va := 0, size := .g1, pte := 0x0C }] }

def stateOf (g : Group) (a : Agent) : State :=
  { State.reset with groups := [(0, g)], cores := [(0, core0)], ctl := { Control.reset with cur := a } }

def onWarp (w : Warp) : State := stateOf { group0 with warps := [(0, w)] } (.warp 0 0)
def onCtx (g : Group) : State := stateOf g (.actx 0)
def onLine (c : LineCore) : State :=
  { State.reset with lines := [(0, { c with st := .running })], heads := [(0, { Head.zero with on := true })],
                     ctl := { Control.reset with cur := .line 0 } }
def onQi (r : QRun) : State :=
  { State.reset with qi := { QueueInt.reset with run := some r }, ctl := { Control.reset with cur := .qi } }
def onEvent (s : State) (a : EventArg) : State := { s with ctl := { Control.reset with arg := a } }

def run0 : QRun :=
  { cause := none, queue := 1, index := 0, packet := List.replicate 16 0, prog := some { words := [0, 0], windows := [(0x1000, 64)] }, b := [],
    flag := false, loops := [], pc := 0, count := 0, cmds := [], staged := none, record := none }

/-- The warp with v registers at given values, and with a poisoned one. -/
def withV (l : List (Nat × (Nat → Word))) : Warp :=
  { warp0 with regs := l.foldl (fun r p => r.preV p.1 p.2) warp0.regs }
def withPoison (n : Nat) (m : BitVec 32) : Warp :=
  { warp0 with regs := Regs.write { warp0.regs with vmap := setBit warp0.regs.vmap n true } n m (fun _ => 0) m }

def warpOf (o : Host.Outcome State Fault Refusal) : Option Warp :=
  match o with
  | .next s => (s.group? 0).bind fun g => g.warp? 0
  | _ => none
def groupOf (o : Host.Outcome State Fault Refusal) : Option Group :=
  match o with
  | .next s => s.group? 0
  | _ => none
def vOf (o : Host.Outcome State Fault Refusal) (n t : Nat) : Option Word := (warpOf o).map fun w => w.regs.get n t
def causeOf (o : Host.Outcome State Fault Refusal) : Option Nat := (warpOf o).map fun w => w.trap.tcause.toNat % 256
def aOf (o : Host.Outcome State Fault Refusal) (n : Nat) : Option DWord := (groupOf o).map fun g => g.a.reg n
def lineOf (o : Host.Outcome State Fault Refusal) : Option LineCore :=
  match o with
  | .next s => some (s.line 0)
  | _ => none
def runOf (o : Host.Outcome State Fault Refusal) : Option QRun :=
  match o with
  | .next s => s.qi.run
  | _ => none
def next? (o : Host.Outcome State Fault Refusal) : Option State :=
  match o with
  | .next s => some s
  | _ => none

/-- A T instruction ready on a warp, under a condition; likewise of an A context, a line core and a queue program. -/
def T (w : Warp) (op : Nat) (i : TWord) (c : TEnv → Bool) : Bool := ((onWarp w).tReady op i).any c
def A (g : Group) (op : Nat) (p : Option APrefix) (i : AWord) (c : AEnv → Bool) : Bool := ((onCtx g).aReady op p i).any c
def L (l : LineCore) (c : LEnv → Bool) : Bool := ((onLine l).lEnv).any c
def Q (r : QRun) (c : QRun → Bool) : Bool := ((onQi r).qReady).any c

/-! ### Ill-formed instructions are refused -/

theorem test_wf_add : (Instr.add { tw with dst := 2, srca := 0, srcb := 1 }).wf KernelCtx.full = true := by decide +kernel
theorem test_wf_unused_field : (Instr.brev { tw with srcc := 1 }).wf KernelCtx.full = false := by decide +kernel
theorem test_wf_mod : (Instr.add { tw with mod := 15 }).wf KernelCtx.full = false := by decide +kernel
theorem test_wf_spec : (Instr.bra { tw with srca := 0x103, spec := 1 }).wf KernelCtx.full = false := by decide +kernel
theorem test_wf_queue : (Instr.add { tw with popq := 4 }).wf KernelCtx.full = false := by decide +kernel
theorem test_wf_q_source : (Instr.add { tw with popq := 1, srca := 0x0CB }).wf KernelCtx.full = false := by decide +kernel
theorem test_wf_reserved_selector : (Instr.add { tw with srca := 0x0CD }).wf KernelCtx.full = false := by decide +kernel
theorem test_wf_odd_pair : (Instr.addW { tw with dst := 1 }).wf KernelCtx.full = false := by decide +kernel
theorem test_wf_range : (Instr.add { tw with srca := 9 }).wf { KernelCtx.full with vregs := 8 } = false := by decide +kernel
theorem test_wf_xmod : (Instr.add { tw with long := some { tl with xmod := 1 } }).wf KernelCtx.full = false := by decide +kernel
theorem test_wf_scope : (Instr.add { tw with long := some { tl with scope := 1 } }).wf KernelCtx.full = false := by decide +kernel
theorem test_wf_safept : (Instr.safept { tw with srca := 0x105 }).wf { KernelCtx.full with safe := [(true, true)] } = false := by decide +kernel
theorem test_wf_other_opcode : (Instr.callX { tw with mod := 0, srca := 0x101 }).wf KernelCtx.full = false := by decide +kernel
theorem test_wf_a_unused : (Instr.amovi { aw with s1 := 1 }).wf KernelCtx.full = false := by decide +kernel
theorem test_wf_a_queue : (Instr.aadd { aw with popq := 1 }).wf KernelCtx.full = false := by decide +kernel
theorem test_wf_a_prefix : (Instr.aaddLong { ap with scope := 3, iuse := 1 } aw).wf KernelCtx.full = false := by decide +kernel
-- R425: SCOPE up to .sys, SEM .REL or .ACQ, OC 0; an A prefix with IUSE 10 has S1 zero
theorem test_wf_semaphores : ([(0, 2), (4, 2), (4, 0)].all fun p => (Instr.semadd { tw with long := some { tl with scope := p.1, sem := p.2 } }).wf KernelCtx.full) ∧
    ([{ tl with sem := 1 }, { tl with scope := 5 }, { tl with oc := 1 }].all fun l => !(Instr.semadd { tw with long := some l }).wf KernelCtx.full) ∧
    (Instr.semwait { tw with long := some { tl with sem := 1 } }).wf KernelCtx.full = true ∧ (Instr.semwait { tw with long := some { tl with sem := 2 } }).wf KernelCtx.full = false ∧
    (Instr.semaddALong { ap with iuse := 2 } { aw with s2 := 63 }).wf KernelCtx.full = true ∧ (Instr.semaddALong { ap with iuse := 2 } { aw with s1 := 1 }).wf KernelCtx.full = false ∧
    (Instr.semaddALong { ap with iuse := 1 } aw).wf KernelCtx.full = false ∧ (Instr.semaddA { aw with s2 := 64 }).wf KernelCtx.full = false := by decide +kernel
theorem test_wf_s_unused : (Instr.snop).wf KernelCtx.full = true ∧ (Instr.poseW { sw with i := 1 }).wf KernelCtx.full = false := by decide +kernel
theorem test_wf_v_unused : (Instr.vadd { vw with sub := 7 }).wf KernelCtx.full = false := by decide +kernel
theorem test_wf_m_unused : (Instr.mxrun { mw with d := 1 }).wf KernelCtx.full = false := by decide +kernel
theorem test_wf_q_unused : (Instr.movb { qw with x := 0x40 }).wf KernelCtx.full = false := by decide +kernel

/-! ### Words that the spec writes out -/

theorem test_decode_cvt : decode KernelCtx.full (.t 0x303E000701800011 (some 0x1FFFEC)) =
    some (.cvt { tw with mod := 3, dst := 7, srca := 3, lr := 4, long := some { tl with xmod := 6 } }) := by decide +kernel
theorem test_decode_bra : decode KernelCtx.full (.t 0x4002000081800000 none) = some (.bra { tw with pred := 1, srca := 0x103 }) := by decide +kernel
theorem test_decode_zero : decodeT KernelCtx.full 0 none = .error illinst := by decide +kernel
theorem test_decode_add : decode KernelCtx.full (.t (0x01#8 ++ 0#4 ++ 7#3 ++ 0#1 ++ 0#3 ++ 0#3 ++ 0#1 ++ 2#9 ++ 0#9 ++ 1#9 ++ 0#9 ++ 0#3 ++ 0#2) none) =
    some (.add { tw with dst := 2, srcb := 1 }) := by decide +kernel
theorem test_decode_ld : decode KernelCtx.full (.t (0x60#8 ++ 0#4 ++ 7#3 ++ 0#1 ++ 0#3 ++ 0#3 ++ 0#1 ++ 4#9 ++ 2#9 ++ 0x100#9 ++ 0#9 ++ 0#3 ++ 0#2) none) =
    some (.ld { tw with dst := 4, srca := 2, srcb := 0x100 }) := by decide +kernel
theorem test_decode_a_table_feed : (decode KernelCtx.full (.a 0x34020010), decode KernelCtx.full (.a 0x28030004), decode KernelCtx.full (.a 0x82029200),
    decode KernelCtx.full (.a 0x04021204)) = (some (.as2a { aw with d := 4, s2 := 16 }), some (.amovi { aw with d := 6, s2 := 4 }),
    some (.ald { aw with popq := 4, d := 5, s1 := 4, s2 := 0x200 }), some (.aadd { aw with d := 4, s1 := 4, s2 := 0x204 })) := by decide +kernel
theorem test_decode_aexit : decode KernelCtx.full (.a 0x5C000000) = some .aexit := by decide +kernel
theorem test_decode_qpush : decode KernelCtx.full (.a 0x90101610) = some (.qpush { aw with pushq := 1, s1 := 5, s2 := 0x210 }) := by decide +kernel
theorem test_decode_fmtq : decode KernelCtx.full (.aLong 0xFC010000 0x10140 0xD4000000) = some (.fmtqLong { ap with iuse := 2, imm32 := 0x10140 } aw) := by decide +kernel
theorem test_decode_cpyx : decode KernelCtx.full (.a 0xC400189D) = some (.cpyx { aw with s1 := 6, s2 := 0x9D }) := by decide +kernel
theorem test_decode_cpy_dev : decode KernelCtx.full (.aLong 0xFC180000 0 0xC0001804) = some (.cpyLong { ap with scope := 3 } { aw with s1 := 6, s2 := 4 }) := by decide +kernel
theorem test_decode_bundle : decodeBundle 0x0C630010200202105801082A08101100 = some
    (.sadd { sw with i := 1, d := 3, a := 3, b := 16 }, .vfma { vw with d := 4, a := 1, b := 2 }, .vcmp { vw with d := 2, a := 4, b := 5, sub := 2 },
     some (.lbld { mw with d := 8, a := 1, b := 2 })) := by decide +kernel
theorem test_decode_bundle_conflict : decodeBundle 0x0C6300102002021020020210_08101100 = none := by decide +kernel
theorem test_decode_movb : decodeQ (0x02#5 ++ 1#3 ++ 0xE4#8) = some (.movb { r := 1, x := 0xE4 }) := by decide +kernel
theorem test_decode_q_unassigned : decodeQ (0x13#5 ++ 0#11) = none := by decide +kernel
theorem test_table_word : (decodeTableWord 64 0x4002000081800000).isSome = true := by decide +kernel

/-! ### Results that the spec works out -/

theorem test_add_wraps : vOf (exec (.add { tw with dst := 2, srca := 0, srcb := 1 })
    (onWarp (withV [(0, fun t => BitVec.ofNat 32 t), (1, fun _ => 0xFFFFFFFF)]))) 2 5 = some 4 := by decide +kernel
-- R100: byte 0x58 of 0xF358 has the digits 1, 2, 0, 0, 1
theorem test_unpack_t5 : vOf (exec (.unpackT5 { tw with dst := 2, srca := 1 }) (onWarp (withV [(1, fun _ => 0xF358)]))) 2 0 = some 0x109 := by decide +kernel
theorem test_unpack_t5_illegal : causeOf (exec (.unpackT5 { tw with mod := 1, dst := 2, srca := 1 }) (onWarp (withV [(1, fun _ => 0xF358)]))) =
    some 7 := by decide +kernel
theorem test_pack_t5 : vOf (exec (.packT5 { tw with dst := 2, srca := 1 }) (onWarp (withV [(1, fun _ => 0x109)]))) 2 0 = some 0x58 := by decide +kernel
-- R111: 449 under .RU is 480 on the E4M3 grid, an overflow: 0x7F under .NS and 0x7E without
theorem test_cvt_ns : vOf (exec (.cvt { tw with mod := 3, dst := 7, srca := 3, long := some { tl with xmod := 6 } })
    (onWarp (withV [(3, fun _ => 0x43E08000)]))) 7 0 = some 0x7F := by decide +kernel
theorem test_cvt_saturates : vOf (exec (.cvt { tw with mod := 3, dst := 7, srca := 3, long := some { tl with xmod := 2 } })
    (onWarp (withV [(3, fun _ => 0x43E08000)]))) 7 0 = some 0x7E := by decide +kernel
theorem test_div_emulated : causeOf (exec (.div { tw with dst := 2 }) (onWarp warp0)) = some Cause.emul.code := by decide +kernel
theorem test_trap_code : (warpOf (exec (.trap { tw with srca := 0x105 }) (onWarp warp0))).map (fun w => (w.trap.tval, w.trap.tmask, w.inHandler)) =
    some (5, 0xFFFFFFFF, true) := by decide +kernel
-- R134: displacement 3 from PC 0 is offset 0x18; under f1, which is 0, no thread takes it
theorem test_bra : (warpOf (exec (.bra { tw with srca := 0x103 }) (onWarp warp0))).map (fun w => w.thread 7) = some (.live 0x18) := by decide +kernel
theorem test_bra_guard : (warpOf (exec (.bra { tw with pred := 1, srca := 0x103 }) (onWarp warp0))).map (fun w => w.thread 7) = some (.live 8) := by decide +kernel
theorem test_elect : (warpOf (exec (.elect { tw with dst := 2 }) (onWarp warp0))).map (fun w => w.regs.fGet 2) = some 1 := by decide +kernel
theorem test_poison : causeOf (exec (.add { tw with dst := 2, srca := 1 }) (onWarp (withPoison 1 2))) = some Cause.poison.code := by decide +kernel
theorem test_sts : (groupOf (exec (.sts { tw with srca := 1, srcb := 0x100, srcc := 2 })
    (onWarp (withV [(1, fun t => BitVec.ofNat 32 (4 * t)), (2, fun t => BitVec.ofNat 32 (0x100 + t))])))).map
      (fun g => (SMap.get 0 g.smem 8, SMap.get 0 g.smem 9, SMap.get 0 g.smem 124)) = some (2, 1, 31) := by decide +kernel
theorem test_st_same_address : (next? (exec (.st { tw with srca := 2, srcb := 0x100, srcc := 1 })
    (onWarp (withV [(1, fun t => BitVec.ofNat 32 t)])))).map (fun s => s.levelByte (.l1 0) 0) = some (true, true, 31) := by decide +kernel
theorem test_aadd : aOf (exec (.aadd { aw with d := 4, s1 := 4, s2 := 0x204 }) (onCtx { group0 with a := group0.a.setReg 4 10 })) 4 = some 14 := by decide +kernel
theorem test_a0_discards : aOf (exec (.amovi { aw with d := 0, s2 := 4 }) (onCtx group0)) 0 = some 0 := by decide +kernel
theorem test_ajmp_back : (groupOf (exec (.ajmp { aw with d := 0x1F, s1 := 0x1F, s2 := 0x3FF }) (onCtx { group0 with a := { group0.a with apc := 8 } }))).map
    (fun g => g.a.apc) = some 4 := by decide +kernel
theorem test_atrap : (groupOf (exec (.atrap { aw with s2 := 9 }) (onCtx group0))).map (fun g => (g.a.trap.tval, g.a.apc, g.a.inHandler)) =
    some (9, 0x40, true) := by decide +kernel
theorem test_qpush : (groupOf (exec (.qpush { aw with pushq := 1, s1 := 5, s2 := 0x210 }) (onCtx { group0 with a := group0.a.setReg 5 1 }))).map
    (fun g => g.queues.b1.map fun e => e.payload) = some [17] := by decide +kernel
theorem test_sadd : (lineOf (exec (.sadd { sw with i := 1, d := 3, a := 3, b := 0xFFFF }) (onLine LineCore.zero))).map (fun c => SMap.get 0 c.z 3) =
    some 0xFFFFFFFF := by decide +kernel
-- R209 to R210: 1 × 2 + 3 in every lane, the mask e1 empty but for lane 0
theorem test_vfma_mask : (lineOf (exec (.vfma { vw with mke := 1, mreg := 1, d := 4, a := 1, b := 2 })
    (onLine { LineCore.zero with e := [(1, 1)], w := [(16, 0x3F800000), (17, 0x3F800000), (32, 0x40000000), (33, 0x40000000), (64, 0x40400000),
      (65, 0x40400000)] }))).map (fun c => (SMap.get 0 c.w 64, SMap.get 0 c.w 65)) = some (0x40A00000, 0x40400000) := by decide +kernel
theorem test_lbld_misaligned : (next? (exec (.lbld { mw with d := 8, a := 1 }) (onLine { LineCore.zero with z := [(1, 4)] }))).map
    (fun s => s.ctl.bandFault) = some (some 3) := by decide +kernel
theorem test_movb : (runOf (exec (.movb { qw with r := 1, x := 0xE4 }) (onQi run0))).map (fun r => (r.reg 1, r.count)) = some (100, 1) := by decide +kernel
theorem test_shlb_32 : (runOf (exec (.shlb { qw with r := 1, x := 0xA0 }) (onQi { run0 with b := [(1, 1)] }))).map (fun r => r.reg 1) = some 0 := by decide +kernel

/-! ### Witnesses: the thread stream -/

/-- No poisoned thread traps. -/
def clean (e : TEnv) : Bool := e.i.spec == 1 || (e.poisoned &&& e.parts) == 0

theorem wit_IntegerAndFloatResults : (intRows ++ floatRows).all (fun r => T warp0 r.op tw fun e => (r.pm e &&& e.parts) == 0) = true := by
  decide +kernel
theorem wit_ConditionAndLaneResults : condRows.all (fun r => T warp0 r.op tw clean && T warp0 r.op { tw with long := some { tl with xmod := 1 } } fun e =>
    bit e.i.ext.xmod 0 && (e.poisoned &&& e.parts) == 0) = true := by decide +kernel
theorem wit_ConditionAndLaneResults_lanes : laneRows.all (fun r => T warp0 r.op tw fun e => (r.pm e &&& e.parts) == 0 && e.w.cbPend.isEmpty) = true := by
  decide +kernel
theorem wit_TritLaneResults : tritRows.all (fun r => T warp0 r.op tw fun e => clean e && (r.bad e &&& e.parts) == 0) = true := by decide +kernel
theorem wit_TritLaneResults_illegal : T (withV [(1, fun _ => 0xFF)]) 0x1F { tw with srca := 1 } (fun e =>
    clean e && e.i.spec == 0 && tritRows.any fun r => r.op == 0x1F && lowest (r.bad e &&& e.parts) == some 0) = true := by decide +kernel
theorem wit_TritLaneResults_z : T warp0 0x1F { tw with long := some { tl with xmod := 1 } } (fun e => bit e.i.ext.xmod 0 && clean e) = true := by decide +kernel
theorem wit_IssueTraps_poison : T (withPoison 1 2) 1 { tw with srca := 1 } (fun e => e.i.spec == 0 && (e.poisoned &&& e.parts) != 0) = true := by decide +kernel
theorem wit_IssueTraps_condition : T (withPoison 1 2) 0x18 { tw with srca := 1, spec := 1, long := some { tl with xmod := 1 } } (fun e =>
    bit e.i.ext.xmod 0 && (e.poisoned &&& e.parts) != 0) = true := by decide +kernel
theorem wit_IssueTraps_limit : ((onWarp { warp0 with safecnt := 262144 }).tEnv 1 tw).any (fun e =>
    decide (4 * e.g.kern.maxdist < e.w.safecnt.toNat + 1)) = true := by decide +kernel
theorem wit_IssueTraps_pop : ((onWarp warp0).tEnv 1 { tw with popq := 1 }).any (fun e =>
    decide (e.w.safecnt.toNat + 1 ≤ 4 * e.g.kern.maxdist) && e.w.held.isNone && e.w.keptPop.isNone && (e.g.popT 1 e.slot).isNone) = true := by decide +kernel
theorem wit_IssueTraps_emul : ((onWarp warp0).tEnv 0x0A tw).isSome = true := by decide +kernel
theorem wit_IssueTraps_trap : T warp0 0x52 { tw with srca := 0x105 } (fun e => e.act != 0) = true ∧
    T warp0 0x52 { tw with pred := 1, srca := 0x105 } (fun e => e.act == 0) = true := by decide +kernel
theorem wit_MoveResults : T warp0 0x47 tw (fun _ => true) && T warp0 0x49 tw (fun _ => true) && T warp0 0x51 tw (fun _ => true) = true := by decide +kernel
theorem wit_MoveResults_vget : T { warp0 with regs := warp0.regs.sSet 3 127 } 0x56 { tw with srca := 0x083 } (fun e =>
    (e.src 1 .int 0).toNat == 127 && decide (127 < e.g.kern.vregs)) && T { warp0 with regs := warp0.regs.sSet 3 128 } 0x56 { tw with srca := 0x083 } (fun e =>
    (e.src 1 .int 0).toNat == 128) = true := by decide +kernel
theorem wit_MoveResults_vput : T (withV [(5, fun _ => 0)]) 0x57 { tw with srca := 0x105 } (fun e =>
    bit e.w.regs.vmap 5 && !e.base.renameStall e.g e.slot e.w 1 && (e.src 1 .int 0).toNat == 5) = true := by decide +kernel
theorem wit_MoveResults_vote : T warp0 0x48 { tw with mod := 3, srca := 7 } clean && [0, 1, 2].all (fun m =>
    T warp0 0x48 { tw with mod := m, srca := 7 } fun _ => true) = true := by decide +kernel
theorem wit_BranchTargets : T warp0 0x40 { tw with srca := 0x103 } (fun _ => true) && T warp0 0x42 { tw with dst := 2, srca := 0x103 } clean = true := by decide +kernel
theorem wit_BranchTargets_aligned : T (withV [(1, fun t => BitVec.ofNat 32 (8 * t))]) 0x43 { tw with srca := 1 } (fun e =>
    (e.poisoned &&& e.parts) == 0 && (List.range 32).all fun t => !bit e.parts t || (e.src 1 .int t).toNat % 8 == 0) = true := by decide +kernel
theorem wit_BranchTargets_align : T (withV [(1, fun t => if t = 3 then 4 else 0)]) 0x43 { tw with srca := 1 } (fun e =>
    (e.poisoned &&& e.parts) == 0 && bit e.parts 3 && (e.src 1 .int 3).toNat % 8 != 0 &&
      (List.range 3).all fun t => (e.src 1 .int t).toNat % 8 == 0) = true := by decide +kernel
theorem wit_BranchTargets_poison : T (withPoison 1 2) 0x41 { tw with srca := 1 } (fun e => (e.poisoned &&& e.parts) != 0) = true := by decide +kernel
theorem wit_ThreadStates : T warp0 0x44 tw (fun e => !e.w.inHandler) && T { warp0 with inHandler := true } 0x44 tw (fun e => e.w.inHandler) = true := by
  decide +kernel
/-- A warp in its restore routine: the last threads of it leave it by SETPC, with the poison map readable, not readable and not
translated; and a thread that has to leave it stays behind. -/
theorem wit_ThreadStates_routine : T { warp0 with mode := .restoring 3 } 0x44 tw (fun e => e.w.mode == .restoring 3 &&
    e.w.threads.all fun p => !p.2.isLive || bit e.parts p.1) &&
    T { warp0 with mode := .restoring 3, stop := [(5, .live 8)], threads := SMap.set .exited warp0.threads 5 (.live 64) } 0x44 tw (fun e =>
      !(e.toRestore e.parts).isEmpty) = true := by decide +kernel
theorem wit_ThreadStates_map : [(some 0x0C, true), (some 0x08, false), (none, false)].all (fun p =>
    (({ onWarp { withV [(1, fun _ => 16)] with mode := .restoring 3 } with cores := [(0, { core0 with
        tlb := (p.1.map fun x => { asid := 0, va := 0, size := .g1, pte := x }).toList })] } : State).tReady 0x46 { tw with srca := 1 }).any fun e =>
      e.w.mode == .restoring 3 && (e.toRestore e.act).isEmpty && (e.poisoned &&& e.parts) == 0 &&
      (List.range 32).all (fun t => decide (e.src 1 .int t = 16)) && bit e.act 0 && !bit e.poisoned 0 &&
      match (e.base.translate 0 0 0 (e.w.tframe.toNat + 0xA00)).2 with | .ok q => q.r == p.2 | .error _ => p.1.isNone) = true := by
  decide +kernel
theorem wit_ThreadStates_setpc : T (withV [(1, fun t => if t = 0 then 0xFFFFFFFE else if t = 1 then 0xFFFFFFFF else 16)]) 0x46 { tw with srca := 1 } (fun e =>
    !e.w.inHandler && (e.poisoned &&& e.parts) == 0 && (List.range 32).all fun t => decide (setTakes (e.src 1 .int t))) &&
    T (withV [(1, fun t => if t = 2 then 4 else 16)]) 0x46 { tw with srca := 1 } (fun e => !decide (setTakes (e.src 1 .int 2)) &&
      (List.range 2).all fun t => decide (setTakes (e.src 1 .int t))) = true := by decide +kernel
theorem wit_SafePoints : T warp0 0x45 { tw with srca := 0x100 } (fun e => !e.w.inHandler && !e.g.preempt) = true := by decide +kernel
/-- A warp at its safe point under a pending request: its page writable, readable alone, or without a translation. -/
theorem wit_SafePoints_page : [(some 0x0C, true), (some 0x04, false), (none, false)].all (fun p =>
    (({ stateOf { group0 with preempt := true } (.warp 0 0) with cores := [(0, { core0 with
        tlb := (p.1.map fun x => { asid := 0, va := 0, size := .g1, pte := x }).toList })] } : State).tReady 0x45 { tw with srca := 0x100 }).any fun e =>
      e.g.preempt && e.w.mode == .running && e.g.mayStop e.slot && e.g.kern.vver == 0 &&
      match (e.base.translate 0 0 0 (e.w.tframe.toNat + 0xA00)).2 with | .ok q => q.w == p.2 && q.pa % 128 == 0 && q.kind == 0 | .error _ => p.1.isNone) = true := by
  decide +kernel
theorem wit_SafePoints_stop : (((stateOf { group0 with preempt := true } (.warp 0 0)).tReady 0x45 { tw with srca := 0x100 }).any fun e =>
    !e.w.inHandler && e.g.preempt && e.w.mode == .running && e.g.mayStop e.slot) = true := by decide +kernel
/-- Two warps of which the first has not arrived at barrier 15, and of which it has. -/
def twoWarps : Group :=
  { group0 with warps := [(0, warp0), (1, warp0)], ln := { group0.ln with warps := 2 } }
def arrived : Group := { twoWarps with bars := [(15, { phase := false, arrived := [(warpKey 0 0, 0xFFFFFFFF)] })] }
theorem wit_Barriers : T warp0 0x4E { tw with srca := 0x100 } (fun e => e.g.barMember e.slot 0 0 && e.pending e.base 0 0 == 0 && e.w.synced.isNone &&
      e.parts &&& ~~~(e.parts &&& ~~~e.pending e.base 0 0) == 0) &&
    T warp0 0x4F { tw with srca := 0x100 } (fun e => e.g.barMember e.slot 0 0 && e.pending e.base 0 0 &&& e.parts == 0) = true := by decide +kernel
theorem wit_Barriers_sync : T { warp0 with synced := some 0xFFFFFFFF } 0x50 { tw with srca := 0x10F } (fun e => e.g.barMember e.slot 0 15 &&
      e.pending e.base 0 15 &&& e.parts == 0) &&
    ((stateOf twoWarps (.warp 0 0)).tReady 0x50 { tw with srca := 0x10F }).any (fun e => e.g.barMember e.slot 0 15 && e.w.synced.isNone &&
      e.pending (e.arrive e.parts 0 15) 0 15 != 0) && ((stateOf arrived (.warp 0 0)).tReady 0x4F { tw with srca := 0x10F }).any (fun e =>
      e.pending e.base 0 15 &&& e.parts != 0) && ((stateOf arrived (.warp 0 0)).tReady 0x4E { tw with srca := 0x10F }).any (fun e =>
      e.parts &&& ~~~e.pending e.base 0 15 == 0 && e.parts != 0) = true := by decide +kernel
theorem wit_Barriers_prot : (((stateOf { group0 with ln := { group0.ln with barmask := [1, 1, 1, 2] } } (.warp 0 0)).tReady 0x4E { tw with srca := 0x103 }).any fun e =>
    !e.g.barMember e.slot 0 3) = true := by decide +kernel
theorem wit_TrapEntry : ((onWarp warp0).tEnv 1 tw).any (fun e => !e.s.ctl.inBlock && !e.w.inHandler && !e.w.mode.routine && e.g.kern.ttrap == some 0x100 &&
    match (e.base.translate e.g.core e.g.tenant e.g.asid e.w.tframe.toNat).2 with | .ok p => p.w && p.pa % 128 == 0 | .error _ => false) = true := by decide +kernel
theorem wit_TrapEntry_nested : ((onWarp { warp0 with inHandler := true }).tEnv 1 tw).any (fun e => e.w.inHandler) = true := by decide +kernel
/-- A handler's TRET with its frame at 0, whose bytes memory holds. -/
def returning (m : List Host.Cell) (g : Group) (c : TEnv → Regs → List Byte → Bool) : Bool :=
  (({ stateOf g (.warp 0 0) with mem := m } : State).tReady 0x53 tw).any fun e => e.w.inHandler &&
    match e.base.translate e.g.core e.g.tenant e.g.asid e.w.tframe.toNat with
    | (t, .ok p) =>
      let r := t.gLoadList e.g.core e.g.tenant 0 p 2560
      p.r && wordAt r.2 0x98C 4 % 8 == 0 && c e ((e.w.leave r.2).lanes e.g.kern.width).regs r.2
    | (_, .error _) => false
def frameZeros (bs : List Byte) : Bool :=
  wordAt bs 0x964 4 == 0 && decide (wordAt bs 0x9B8 4 < 256) && (List.range 68).all fun k => bs[0x9BC + k]? == some 0
def returnStalls (e : TEnv) (r : Regs) : Bool := e.s.renameStall e.g e.slot e.w (r.mapped - e.w.regs.mapped)
def inTrap : Group := { group0 with warps := [(0, { warp0 with inHandler := true })] }
/-- A second warp of the pipe draws its 64 registers, and the first reserves none. -/
def crowdedPipe : Group :=
  { inTrap with
    warps := [(0, { warp0 with inHandler := true }), (1, { warp0 with regs := { Regs.zero with vmap := BitVec.ofNat 128 (2 ^ 64 - 1) } })],
    pipes := [(0, 0), (1, 0)], ln := { group0.ln with kern := { group0.ln.kern with live := 0 } } }
theorem wit_TrapReturn : returning [] inTrap (fun e r bs => frameZeros bs && !returnStalls e r) && T warp0 0x53 tw (fun e => !e.w.inHandler) = true := by
  decide +kernel
theorem wit_TrapReturn_zeros : returning [(0x9B9, 1)] inTrap (fun _ _ bs => !frameZeros bs) = true := by decide +kernel
theorem wit_TrapReturn_stall : returning [(0x9B8, 1)] crowdedPipe (fun e r bs => frameZeros bs && returnStalls e r) = true := by decide +kernel

/-- Every access of a list is at a resident place. -/
def placed (l : List (Nat × Except Bad Place)) : Bool := l.all fun p => match p.2 with | .ok .away => false | .ok _ => true | .error _ => false

def memT : List (Nat × Space × Need) :=
  [(0x60, .global, .read), (0x62, .pad, .read), (0x64, .cluster, .read), (0x61, .global, .write), (0x63, .pad, .write), (0x65, .cluster, .write)]

theorem wit_Loads : memT.all (fun m => T (withV [(2, fun t => BitVec.ofNat 32 (4 * t))]) m.1 { tw with srca := 2, srcb := 0x100 } (fun e => clean e &&
    placed (e.checks m.2.1 4 m.2.2 e.parts).2)) = true := by decide +kernel
/-- A line that the core's L1 holds clean, one that its die cache holds, and memory alone. -/
def readP : Page := { pa := 0, kind := 0, comp := false, r := true, w := true, x := false, h := false }
theorem wit_Loads_levels : (List.range 4).all (fun k =>
    (({ stateOf group0 (.warp 0 0) with cores := [(0, { core0 with l1 := [(0, { Line.none with valid := BitVec.allOnes 128 })] })] } : State).levelByte (.l1 0) k).1 &&
    (({ stateOf group0 (.warp 0 0) with dies := [(0, { Die.zero with dcache := [(0, { Line.none with valid := BitVec.allOnes 128 })] })] } : State).levelByte (.die 0) k).1) = true ∧
    readP.pa % 128 + 4 ≤ 128 ∧ readP.kind = 0 := by decide +kernel
theorem wit_Stores_last : T warp0 0x61 { tw with srca := 2, srcb := 0x100 } (fun e => (e.poisoned &&& e.parts) == 0 && e.parts != 0 &&
    match (e.checks .global 4 .write e.parts).2.getLast? with | some (31, .ok (.glob q)) => q.pa == 0 | _ => false) = true := by decide +kernel
theorem wit_AccessFaults_align : T (withV [(2, fun t => if t = 3 then 2 else 0)]) 0x60 { tw with srca := 2, srcb := 0x100 } (fun e => e.i.spec == 0 &&
    match firstBad (e.checks .global 4 .read e.act).2 with | some (3, b) => b.cause == .align | _ => false) = true := by decide +kernel
theorem wit_AccessFaults_prot : T (withV [(2, fun _ => 0x200000)]) 0x63 { tw with srca := 2, srcb := 0x100 } (fun e => e.i.spec == 0 &&
    match firstBad (e.checks .pad 4 .write e.parts).2 with | some (0, b) => b.cause == .prot | _ => false) = true := by decide +kernel
theorem wit_AccessFaults_xlate : T (withV [(2, fun _ => 0x40000000)]) 0x60 { tw with srca := 2, srcb := 0x100 } (fun e => e.i.spec == 0 &&
    match firstBad (e.checks .global 4 .read e.act).2 with | some (0, b) => b.cause == .xlate | _ => false) = true := by decide +kernel
theorem wit_AccessFaults_atomic : [(0x66, 0), (0x67, 0), (0x68, 0)].all (fun m => T (withV [(2, fun t => if t = 1 then 2 else 0)]) m.1 { tw with mod := m.2, srca := 2, srcb := 0x100 }
    (fun e => e.i.spec == 0 && (e.poisoned &&& e.parts) == 0 && match firstBad ((e.checks .global 4 .atomic e.parts).2.filter fun x => bit e.parts x.1) with
      | some (1, b) => b.cause == .align | _ => false)) = true := by decide +kernel
theorem wit_Atomics : [(0x66, 0), (0x67, 0), (0x68, 0)].all (fun m => T (withV [(2, fun t => BitVec.ofNat 32 (4 * t))]) m.1 { tw with mod := m.2, srca := 2, srcb := 0x100 } (fun e =>
    (e.poisoned &&& e.parts) == 0 && e.parts != 0 && placed (e.checks .global 4 .atomic e.parts).2)) = true := by decide +kernel
theorem wit_Aggregation : (0xA : Nat) ≤ 0xA ∧ (∀ v ∈ [3, 0xFFFFFFFF], v < 2 ^ 32) ∧
    (List.range 0xB).any atomIs64 = true ∧ ∀ v ∈ [2 ^ 32, 2 ^ 64 - 1], v < 2 ^ 64 := by decide +kernel
/-- Lines that a core's L1 and its die cache hold whole, one of the die's dirty in its first byte, and one that no level holds. -/
def wholeLine : Line := { Line.none with valid := BitVec.allOnes 128, data := 7 }
def leveled : State :=
  { stateOf group0 (.warp 0 0) with
    cores := [(0, { core0 with l1 := [(0, { wholeLine with dirty := 1 })] })],
    dies := [(0, { Die.zero with dcache := [(1, { wholeLine with dirty := 1 })] })], ringp := [(3, wholeLine)] }
theorem wit_AtomicAccess : (0 : Nat) < 8 ∧ 0x78 % 128 + 8 ≤ 128 ∧ leveled.levelByte (.l1 0) 0 = (true, true, 7) ∧
    (leveled.levelByte (.die 0) 128).2.1 = true ∧ (leveled.levelByte (.die 0) 129).2.1 = false ∧
    (List.range 128).all (fun k => (leveled.levelByte (.die 0) (128 + k)).1 && !(leveled.levelByte (.l1 0) (128 + k)).2.1 &&
      !(leveled.levelByte (.l1 0) (256 + k)).2.1 && !(leveled.levelByte (.die 0) (256 + k)).1 && !(leveled.levelByte (.l1 0) (384 + k)).2.1 &&
      (leveled.levelByte (.part 2) (384 + k)).1) = true ∧ (leveled.l1Line 0 1).kind = 0 := by decide +kernel
theorem wit_Fences : T warp0 0x6B tw (fun e => e.act != 0) && T warp0 0x6B { tw with pred := 1 } (fun e => e.act == 0) &&
    T warp0 0x69 { tw with srca := 2, srcb := 0x100 } (fun e => (e.poisoned &&& e.parts) == 0) &&
    T (withPoison 2 1) 0x6A { tw with srca := 2, srcb := 0x100 } (fun e => (e.poisoned &&& e.parts) != 0) = true := by decide +kernel
theorem wit_CodebookLoads : T warp0 0x38 { tw with srca := 2, srcb := 0x100 } (fun e => e.w.cbPend.isEmpty && lowest e.act == some 0 && !bit e.poisoned 0 &&
    decide (16 ≤ e.g.kern.smem)) && T { warp0 with cbPend := [(0, 0, 0)] } 0x38 tw (fun e => !e.w.cbPend.isEmpty) &&
    T (withV [(2, fun _ => 8)]) 0x38 { tw with srca := 2, srcb := 0x100 } (fun e => (e.src 1 .int 0 + e.src 2 .int 0).toNat % 16 == 8 && !bit e.hlp 0) = true := by decide +kernel
/-- The chosen thread is a helper, which raises nothing. -/
theorem wit_CodebookLoads_helper : T { withV [(2, fun _ => 8)] with threads := (0, .helper) :: (startThreads 32 32 0).tail } 0x38 { tw with srca := 2, srcb := 0x100 } (fun e =>
      e.w.cbPend.isEmpty && lowest e.act == some 0 && bit e.hlp 0 && (e.src 1 .int 0 + e.src 2 .int 0).toNat % 16 == 8) &&
    T { warp0 with threads := (0, .helper) :: (startThreads 32 32 0).tail } 0x77 { tw with dst := 2, srca := 0x104 } (fun e =>
      lowest e.act == some 0 && bit e.hlp 0 && (e.src 1 .int 0).toNat == 4) = true := by decide +kernel
theorem wit_CodebookLoads_fill : (((onEvent (onWarp { warp0 with cbPend := [(1, 0, 5)] }) { EventArg.zero with ch := 1 }).group? 0).bind fun g => g.warp? 0).any (fun w =>
    (w.cbPend.find? fun p => p.1 == 1).isSome && w.pushDue.isNone) = true := by decide +kernel
theorem wit_WarpSemaphores : [0x75, 0x76, 0x77].all (fun op => T warp0 op { tw with dst := 2, srca := 0x103, srcb := 0x100 } (fun e => lowest e.parts == some 0 &&
    !bit e.poisoned 0 && (e.src 1 .int 0).toNat == 3 && e.g.tenant == 0)) && T warp0 0x75 { tw with dst := 2, srca := 0x104 } (fun e =>
    (e.src 1 .int 0).toNat == 4) && T warp0 0x75 { tw with pred := 1 } (fun e => e.parts == 0) = true := by decide +kernel
theorem wit_RayQueries : (((onWarp warp0).tReady 0x71 { tw with pred := 1 }).any fun e => (e.s.core e.g.core).fifo.isEmpty && e.parts == 0) = true := by decide +kernel
/-- One thread, whose ray with its root and its stack at 0 passes every check. -/
def lone : Warp := { warp0 with threads := [(0, .live 0)] }
theorem wit_RayQueries_accepted : T lone 0x70 { tw with dst := 4 } (fun e => e.parts == 1 && (e.s.core e.g.core).fifo.isEmpty && e.w.queries.isEmpty &&
    (e.poisoned &&& e.parts) == 0 && (e.rayChecks 0).isNone) = true := by decide +kernel
theorem wit_RayQueries_pop : T { warp0 with queries := [{ id := 0, lane := 0, tag := 0, st := 3, words := [1, 2, 3, 4] }] } 0x73 { tw with dst := 4 } (fun e =>
    (e.oldest 0).any fun q => q.st == 3) && T { warp0 with queries := [{ id := 0, lane := 0, tag := 0, st := 1, words := [] }] } 0x73 { tw with dst := 4 } (fun e =>
    (e.oldest 0).any fun q => q.st != 3) && T warp0 0x74 tw clean = true := by decide +kernel
theorem wit_Samples : T warp0 0x6C { tw with pred := 1 } (fun e => e.i.spec == 0 && (e.samplePoison &&& e.parts) == 0 && e.samplePages.2.isEmpty) &&
    T warp0 0x6C { tw with pred := 1, spec := 1 } (fun e => e.i.spec == 1) = true := by decide +kernel
/-- One thread that samples the one texel of a texture of format 0 at 0x1000, its descriptor at 0. -/
def sampling : State := { onWarp lone with mem := [(1, 0x10), (8, 4), (0x1000, 0x7F)] }
theorem wit_Samples_texel : (sampling.tReady 0x6C { tw with dst := 4 }).any (fun e => e.i.spec == 0 && (e.samplePoison &&& e.parts) == 0 && e.parts == 1 &&
    (SMap.find e.sampleTex 0).any fun d => (texBad d).isNone) = true ∧
    ((sampling.tReady 0x6C { tw with dst := 4 }).map fun e => e.samplePages.2.map fun p => (p.1, match p.2 with | .ok l => l.map Prod.fst | .error _ => [])) =
      some [(0, [0x1000])] := by decide +kernel
/-- A misaligned descriptor address in thread 3 alone. -/
theorem wit_Samples_align : T (withV [(2, fun t => if t = 3 then 8 else 0), (3, fun _ => 0)]) 0x6C { tw with srca := 2 } (fun e => e.i.spec == 0 &&
    (e.samplePoison &&& e.parts) == 0 && (firstBadSample (e.samplePages.2.filter fun p => bit e.parts p.1)).any fun p => p.1 == 3 && p.2.cause == .align) = true := by
  decide +kernel
/-- The state with the first GiB of the ring kind. -/
def ringed (s : State) : State := { s with cores := [(0, { core0 with tlb := [{ asid := 0, va := 0, size := .g1, pte := 0x8C }] })] }

theorem wit_Launches : (takeShares 3 17).isSome = true ∧ takeShares 1 1 = none := by decide +kernel
theorem wit_Launches_targets : (((ringed (onWarp warp0)).tReady 0x6D
    { tw with srca := 2, srcb := 0x100 }).any fun e => (e.poisoned &&& e.parts) == 0 && e.parts != 0 &&
      (e.checks .global 64 .write e.parts).2.all fun p => match p.2 with | .ok (.glob q) => q.kind == 2 | _ => false) = true := by decide +kernel

/-! ### Witnesses: the access stream -/

def ctx (f : ACtx → ACtx) : Group := { group0 with a := f group0.a }

theorem wit_AccessResults : (aRows ++ aFlowRows).all (fun r => r.forms.all fun f => A group0 r.op (if f.1 then some ap else none) aw fun _ => true) = true := by
  decide +kernel
theorem wit_AccessResults_aret : A (ctx fun a => a.setReg 1 2) 0x13 none { aw with s1 := 1 } (fun e => (e.a.reg 1).toNat % 4 != 0) = true := by decide +kernel
theorem wit_AccessIssue : ((onCtx (ctx fun a => { a with safecnt := 262144 })).aEnv 1 none aw).any (fun e => !e.a.restart && decide (4 * e.g.kern.maxdist < e.a.safecnt.toNat + 1)) &&
    ((onCtx group0).aEnv 0x25 none { aw with popq := 6 }).any (fun e => e.a.held.isNone && (e.g.visible 6).isEmpty) &&
    ((onCtx { group0 with queues := { Queues.empty with t6 := [0xC0000000] } }).aEnv 0x25 none { aw with popq := 6 }).any (fun e => (e.g.visible 6).any fun v => bit v 31) = true := by
  decide +kernel
theorem wit_AccessWaitsAndEnds : A group0 0x15 none aw (fun e => (e.s.core 0).ta.queue.isEmpty && (e.s.core 0).chans.isEmpty) && A group0 0x26 none { aw with d := 4, s2 := 1 } (fun e =>
    (e.g.visible 4).isEmpty) && A group0 0x18 none aw (fun _ => true) && A group0 0x16 none aw (fun e => !e.g.preempt) && A group0 0x17 none AWord.zero (fun e =>
    e.a.mode == .running && e.g.queues.t6.isEmpty && e.g.queues.t7.isEmpty && e.g.ring.isNone) = true := by decide +kernel
theorem wit_AccessWaitsAndEnds_save : A { group0 with preempt := true } 0x16 none { aw with s2 := 255 } (fun e => e.g.preempt && e.a.mode == .running &&
    (e.g.kern.safe[255]?).any fun r => r[2]? == some (some 0)) && A (ctx fun a => { a with mode := .saving 3 }) 0x17 none AWord.zero (fun e => e.a.mode == .saving 3) &&
    A { group0 with queues := { Queues.empty with t6 := [0xC0000000] } } 0x17 none AWord.zero (fun e => (e.g.queues.t6.find? fun t => bit t 31).isSome) = true := by decide +kernel
theorem wit_AccessTraps : ((onCtx group0).aEnv 1 none aw).any (fun e => !e.a.inHandler && !e.a.mode.routine && e.g.kern.atrap == some 0x40 &&
    match ((e.s.setGroup { e.g with a := { e.a with held := none } }).translate e.g.core e.g.tenant e.g.asid e.a.tframe.toNat).2 with
    | .ok p => p.w && p.pa % 128 == 0 | .error _ => false) = true := by decide +kernel
theorem wit_AccessTraps_return : A (ctx fun a => { a with inHandler := true }) 0x19 none AWord.zero (fun e => e.a.inHandler &&
    match e.base.translate e.g.core e.g.tenant e.g.asid e.a.tframe.toNat with
    | (t, .ok p) =>
      let bs := (t.gLoadList e.g.core e.g.tenant 0 p 128).2
      p.r && wordAt bs 0x50 4 % 4 == 0 && decide (wordAt bs 0x48 4 < 16) && (List.range 20).all fun k => bs[0x6C + k]? == some 0
    | (_, .error _) => false) = true := by decide +kernel
theorem wit_AccessTraps_zeros : (({ onCtx (ctx fun a => { a with inHandler := true, tframe := 0 }) with mem := [(0x6C, 1)] } : State).aReady 0x19 none AWord.zero).any (fun e =>
    match e.base.translate e.g.core e.g.tenant e.g.asid e.a.tframe.toNat with
    | (t, .ok p) => p.r && (t.gLoadList e.g.core e.g.tenant 0 p 128).2[0x6C]? == some 1 | (_, .error _) => false) = true := by decide +kernel
theorem wit_AccessMemory : [(0x20, false, Need.read), (0x22, true, Need.read), (0x21, false, Need.write), (0x23, true, Need.write)].all (fun m =>
    [none, some ap].all fun p => A group0 m.1 p { aw with s2 := 0x200 } fun e => match e.place m.2.1 m.2.2 with | .ok _ => true | .error _ => false) = true := by decide +kernel
theorem wit_AccessMemory_fence : [none, some ap].all (fun p => A group0 0x1A p { aw with s2 := 0x1B } fun _ => true) = true := by decide +kernel
theorem wit_AccessAddresses : A (ctx fun a => a.setReg 1 2) 0x20 none { aw with s1 := 1, s2 := 0x200 } (fun e => (e.a.reg 1).toNat % 4 != 0) &&
    A (ctx fun a => a.setReg 1 0x200000) 0x22 none { aw with s1 := 1, s2 := 0x200 } (fun e => (e.g.spPlace 0x200000 4).isNone) &&
    A (ctx fun a => a.setReg 1 0x40000000) 0x20 none { aw with s1 := 1, s2 := 0x200 } (fun e =>
      match (e.base.translate 0 0 0 0x40000000).2 with | .error _ => true | .ok _ => false) = true := by decide +kernel
theorem wit_AccessSemaphores : [0x27, 0x28, 0x29].all (fun op => [none, some ap].all fun p => A group0 op p { aw with s2 := 3 } (fun e => e.g.tenant == 0 && e.a.semWait.isNone)) &&
    A group0 0x27 none { aw with s2 := 4 } (fun e => e.g.tenant == 0) && A (ctx fun a => a.setReg 1 1) 0x29 none { aw with s1 := 1 } (fun e =>
      decide ((e.s.sem 0 0).toNat < (e.s1.setWidth 32 : Word).toNat)) = true := by decide +kernel

theorem wit_CopyCommands : [0x30, 0x31, 0x32, 0x33, 0x34].all (fun op => [none, some ap].all fun p => A group0 op p aw fun e =>
    decide ((e.s.chan 0 0).length < 16) && e.g.queues.t7.isEmpty && (e.a.reg 0).toNat % 64 == 0 && (e.g.spPlace 0 64).isSome) = true := by decide +kernel
theorem wit_TileCommands : A group0 0x35 (some { ap with iuse := 2 }) aw (fun e => decide (e.g.queues.fmt.length < 8)) && A group0 0x36 none aw (fun e =>
    (e.s.core 0).ta.queue.isEmpty && e.g.ring.isNone) = true := by decide +kernel

/-- Core 0 with its crown held at ring position 0, where group 0 stands, and another member at position 3. -/
def crowned (f : TritArray → TritArray) (g : Group) : State :=
  { onCtx { g with ring := some 0 } with cores := [(0, { core0 with ta := f { core0.ta with held := true, holder := 0, ring := [(0, 0), (3, 9)] } })] }
theorem wit_TileCommands_crowned : ((crowned id { group0 with queues := { Queues.empty with fmt := [0] } }).aReady 0x37 none aw).any (fun e => e.g.ring == some (e.s.core 0).ta.holder &&
    (e.s.core 0).ta.held && e.g.queues.fmt == [0]) = true := by decide +kernel
/-- A run's parameter block at 0 of the scratchpad: one row, one column and 120 trits, from SBASE 0 or 1, and from an ABASE that lies
outside the allocation. -/
def runBlock0 (sbase abase : Nat) : Nat := 1 + 1 <<< 16 + 120 <<< 32 + abase <<< 64 + 5 <<< 96 + 1 <<< 160 + sbase <<< 192
def padOf (n k : Nat) : SMap Byte := (List.range k).filterMap fun i => let b := BitVec.ofNat 8 (n / 256 ^ i); if b = 0 then none else some (i, b)
def issuing (n : Nat) (c : AEnv → BitVec 512 → Bool) : Bool :=
  ((crowned id { group0 with smem := padOf n 64, queues := { Queues.empty with fmt := [0] } }).aReady 0x36 none aw).any fun e =>
    let b := BitVec.ofNat 512 (e.s.spNat e.g e.s1.toNat 64)
    e.g.queues.fmt == [0] && (e.g.spPlace e.s1.toNat 64).isSome && (blkBad 0 b).isNone && blkWBase b % 5 == 0 && c e b
theorem wit_TileCommands_accepted : fmtReserved 0 = none ∧
    issuing (runBlock0 0 0) (fun e b => blkSBase b % 2 == 0 && (runRanges 0 b).all fun r => (e.g.outside r).isNone) = true := by decide +kernel
theorem wit_TileCommands_align : issuing (runBlock0 1 0) (fun _ b => blkSBase b % 2 == 1) = true := by decide +kernel
theorem wit_TileCommands_range : issuing (runBlock0 0 0x300000) (fun e b => blkSBase b % 2 == 0 && (runRanges 0 b).any fun r => (e.g.outside r).isSome) = true := by
  decide +kernel
theorem wit_AccessIssue_scope : ((onCtx { group0 with queues := { Queues.empty with t7 := [5] }, ceScope := [(5, 3)] }).aEnv 0x25 none { aw with popq := 7 }).any (fun e =>
    e.a.held.isNone && e.g.visible 7 == [5] && (e.g.ceScope.find? fun x => x.1 == 5) == some (5, 3)) = true := by decide +kernel
theorem wit_CrownAndSwap : [0x3A, 0x3B, 0x38].all (fun op => ((crowned id group0).aReady op none { aw with s2 := 0x100 }).any fun e => (e.s.core 0).ta.held &&
    (SMap.find (e.s.core 0).ta.ring 3).isSome && (SMap.find (e.s.core 0).ta.ring 1).isNone && (SMap.find (e.s.core 0).ta.ring 2).isNone &&
    (e.s.core 0).ta.queue.isEmpty && !(e.s.core 0).ta.poison) && ((crowned (fun t => { t with poison := true }) group0).aReady 0x38 none aw).any (fun e =>
    (e.s.core 0).ta.poison && !(e.s.core 0).ta.fpend) && A group0 0x3A none aw (fun e => e.g.ring.isNone) = true := by decide +kernel

theorem wit_CrownAndSwap_own : [[0xC0000005], [7]].all (fun l => ((crowned (fun t => { t with poison := true, fpend := true, fowner := 0, fseq := 5 })
    { group0 with queues := { Queues.empty with t6 := l } }).aReady 0x38 none aw).any fun e => (e.s.core 0).ta.fowner == e.g.uid && (e.s.core 0).ta.fpend &&
      e.g.queues.t6 == l && e.g.ring == some (e.s.core 0).ta.holder) = true := by decide +kernel

/-! ### Witnesses: line cores and queue programs -/

theorem wit_SlotOperations : L LineCore.zero (fun _ => true) = true := by decide +kernel
theorem wit_BandEnds : L LineCore.zero (fun e => e.mx.isEmpty && e.lc.emitted.length == recWidth (e.s.head 0).record * (e.s.head 0).bandLines 0) &&
    L { LineCore.zero with emitted := [(0, 0)] } (fun e => e.lc.emitted.length != recWidth (e.s.head 0).record * (e.s.head 0).bandLines 0) = true := by decide +kernel
def storing : MxOp := { line := 0, kind := 2, addr := 0, flags := 0 }
theorem wit_BandEnds_wait : (({ onLine LineCore.zero with mx := [storing] } : State).lEnv).any (fun e => !e.mx.isEmpty) = true := by decide +kernel
theorem wit_LineBufferAndEmissions_held : (({ onLine LineCore.zero with mx := [storing] } : State).lEnv).any (fun e => e.bufferAt mw == 0 &&
    e.mx.any fun x => x.kind == 2 && decide (x.addr < 64) && decide (0 < x.addr + tileBytes 2 0)) = true := by decide +kernel
theorem wit_LineBufferAndEmissions : L LineCore.zero (fun e => e.bufferAt mw == 0) && L { LineCore.zero with z := [(1, 0xFFFC0)] } (fun e => e.bufferAt { mw with a := 1 } == 0xFFFC0) &&
    L { LineCore.zero with z := [(1, 4)] } (fun e => e.bufferAt { mw with a := 1 } % 64 != 0) = true := by decide +kernel
theorem wit_LineBufferAndEmissions_emit : (({ onLine LineCore.zero with heads := [(0, { Head.zero with on := true, record := BitVec.allOnes 1024 })] } : State).lEnv).any (fun e =>
    decide (0 < (e.s.head 0).bandLines e.lc.band)) && L LineCore.zero (fun e => decide ((e.s.head 0).bandLines 0 ≤ 0)) = true := by decide +kernel
theorem wit_RenderSamples : L { LineCore.zero with w := (List.range 32).map fun k => (k, 0x7FC00000) } (fun e =>
    (List.range 16).all fun l => (f32v (e.wr 0 l)).isNan) = true := by decide +kernel
theorem wit_MatrixEngine : L LineCore.zero (fun e => (e.zr 0).toNat % 64 == 0 && decide ((e.zr 0).toNat + tileBytes 0 0 ≤ 0x100000)) &&
    L { LineCore.zero with z := [(1, 64)] } (fun e => (e.zr 1).toNat == 64) = true := by decide +kernel
theorem wit_MatrixEngine_complete : (({ onEvent (onLine LineCore.zero) EventArg.zero with mx := [{ line := 3, kind := 1, addr := 1, flags := 0 }] } : State).mx.find? fun y =>
    y.line / 8 == 0).isSome = true := by decide +kernel
theorem wit_QueuePrograms : Q run0 (fun r => decide (r.cmds.length < 16)) && Q { run0 with loops := [{ reg := 1, count := 2, i := 0, start := 0 }] } (fun r =>
    r.loops.any fun l => decide (l.i + 1 < l.count)) && Q { run0 with staged := some (1, [0, 0]) } (fun r => r.staged.isSome) &&
    !Q { run0 with count := 256 } (fun _ => true) = true := by decide +kernel
theorem wit_QueuePrograms_ldm : Q { run0 with b := [(2, 60)] } (fun r => (r.reg 2).toNat + 4 == 64 && (r.prog.bind fun p => p.windows[0]?) == some (0x1000, 64)) = true := by decide +kernel
theorem wit_QueuePrograms_done : Q run0 (fun r => r.cmds.isEmpty && pkWord r.packet 14 == 0 && pkWeight r.packet == 0) = true := by decide +kernel

/-! ### Witnesses: the engines and the packets -/

/-- The state before one of the part's steps on core 0, with group 0 and copy channel 0 holding a command, or a tile command queued. -/
def ceCmd : CeCmd := { uid := 0, seq := 7, kind := 0, scope := 0, sem := none, tok := true, desc := 0, st := .queued, next := 0, park := none, old := [], puts := [] }
def chanOf (x : CeCmd) (pte : DWord) : State :=
  let s := onEvent (onCtx group0) EventArg.zero
  { s with cores := [(0, { core0 with tlb := [{ asid := 0, va := 0, size := .g1, pte := pte }], chans := [(0, [x])] })] }
/-- A descriptor of one FP32 element of the scratchpad, from byte 0 to byte 64. -/
def oneWord : BitVec 512 := 64 <<< 64 ||| 1 <<< 254 ||| 1 <<< 270 ||| 3 <<< 296
def C (x : CeCmd) (pte : DWord) (c : State → Group → Bool) : Bool :=
  let s := chanOf x pte
  s.chan s.ctl.arg.core s.ctl.arg.ch == [x] && (s.group? x.uid).any fun g => g.uid == x.uid && g.core == s.ctl.arg.core && c s g

theorem wit_CopyEngine : C { ceCmd with desc := oneWord } 0x0C (fun s g => s.ctl.arg.len == 0 && dSSP oneWord && dDSP oneWord &&
    !dTrans oneWord && !dQrow oneWord && dSfmt oneWord == 0 && dDfmt oneWord == 0 && !ceNibble 0 && ceWidth 0 == 8 * 4 && dCols oneWord == 1 &&
    dRows oneWord == 1 && dSrc oneWord == 0 && dDst oneWord == 64 && decide (68 ≤ g.kern.smem)) = true := by decide +kernel
theorem wit_CopyEngine_word : [(0x0C, true), (0x04, false)].all (fun p => C { ceCmd with kind := 4, desc := 8 } p.1 fun s g =>
    dSrc 8 == 8 && match ((s.release g.tenant 0 0).translate 0 g.tenant g.asid 8).2 with | .ok q => q.w == p.2 | .error _ => false) = true := by decide +kernel
theorem wit_CopyEngine_complete : [CeSt.performed, .faulted 1 3].all (fun st => C { ceCmd with st := st, sem := some 2 } 0x0C fun _ _ => true) = true := by
  decide +kernel

/-- A copy descriptor within the scratchpad, and a command with it over the scratchpad's bytes. -/
def cpDesc (src dst aux sp dp cols rows sf df flags : Nat) : BitVec 512 :=
  BitVec.ofNat 512 (src + dst <<< 64 + aux <<< 128 + sp <<< 190 + dp <<< 222 + cols <<< 254 + rows <<< 270 + sf <<< 286 + df <<< 291 + flags <<< 296)
def rowsIn (d : BitVec 512) (smem : Nat) : Bool :=
  let rd := srcShape d
  let wr := dstShape d
  let src (q : Nat) : Nat := dSrc d + q * dSpitch d
  let dst (r : Nat) : Nat := dDst d + r * dDpitch d
  dSSP d && dDSP d && ((List.range rd.1).all fun q => decide (src q + rd.2 ≤ smem)) && (List.range wr.1).all fun r => decide (dst r + wr.2 ≤ smem) &&
    ((List.range rd.1).all fun q => decide (dst r + wr.2 ≤ src q) || decide (src q + rd.2 ≤ dst r)) &&
    (List.range wr.1).all fun q => decide (q ≤ r) || decide (dst r + wr.2 ≤ dst q)
theorem wit_CopyEngine_rows : [cpDesc 0 100 0 16 16 5 2 5 5 0x0B, cpDesc 0 100 0 28 28 30 2 7 7 3, cpDesc 0 100 0 16 16 3 2 0 5 0x23,
      cpDesc 0 300 0 120 28 30 2 0 7 3, cpDesc 0 300 800 80 20 20 2 0 8 0x107, cpDesc 0 300 0 12 7 12 7 16 16 0x203].all (fun d =>
    rowsIn d 4096 && decide (0 < dCols d) && (dSoff d == 0 || ceNibble (dSfmt d)) && (dDoff d == 0 || ceNibble (dDfmt d))) = true := by decide +kernel
theorem wit_CopyEngine_kinds : ([(0, cpDesc 0 100 0 16 16 5 2 5 5 0x0B), (0, cpDesc 0 100 0 28 28 30 2 7 7 3), (1, cpDesc 0 100 0 16 16 3 2 0 5 0x23),
      (1, cpDesc 0 300 0 120 28 30 2 0 7 3), (1, cpDesc 0 300 800 80 20 20 2 0 8 0x107), (1, cpDesc 0 300 0 12 7 12 7 16 16 0x203)] :
      List (Nat × BitVec 512)).all (fun p => C { ceCmd with kind := p.1, desc := p.2 } 0x0C fun s g => s.ctl.arg.len == 0 && decide (4096 ≤ g.kern.smem)) = true ∧
    (let d := cpDesc 0 300 800 80 20 20 2 0 8 0x107
     dQrow d = true ∧ dASP d = true ∧ dAux d + 4 * dRows d ≤ 4096 ∧ ∀ r < dRows d, rangesApart (dAux d) (4 * dRows d) (dSrc d + r * dSpitch d) (srcShape d).2 ∧
       rangesApart (dAux d) (4 * dRows d) (dDst d + r * dDpitch d) (dstShape d).2) := by
  simp only [rangesApart]; decide +kernel
/-- A line of five deltas (R286, R287) and a malformed one. -/
theorem wit_CopyEngine_lines : (riceLine 5).map List.length = some 5 ∧ riceLine (2 ^ 512 - 1) = none ∧ padNat (padOf 5 64) 0 64 = 5 ∧
    padNat (padOf (2 ^ 512 - 1) 64) 0 64 = 2 ^ 512 - 1 ∧
    (let d := cpDesc 0 100 200 0 0 0 1 0 0 7
     dSSP d = true ∧ dDSP d = true ∧ dASP d = true ∧ dAux d = 200 ∧ rangesApart (dDst d) (4 * 5) (dSrc d) (64 * dRows d) ∧ rangesApart (dAux d) 4 (dDst d) (4 * 5)) := by
  simp only [rangesApart]; decide +kernel
/-- KVAPP with vectors of 4 elements: its count at 0x1000, its page table at 0x2000, a page at 0x10000 and the next at 0x20000; the count is 0,
or 128, where the first page is sealed. -/
def kvDesc0 : BitVec 512 := BitVec.ofNat 512 (64 <<< 64 + 0x2000 <<< 128 + 0x1000 <<< 192 + 4 <<< 256 + 3 <<< 272 + 1 <<< 288)
def kvMem0 (cnt : Nat) : List Host.Cell := (if cnt = 0 then [] else [(0x1000, BitVec.ofNat 8 cnt)]) ++ [(0x2002, 1), (0x200A, 2)]
def kvState (cnt : Nat) : State := { chanOf { ceCmd with kind := 3, scope := 3, desc := kvDesc0 } 0x0C with mem := kvMem0 cnt }
def kvPage (a : Nat) : Page := pageOf 0x0C .g1 a
theorem translate_first (s : State) (a : Nat) (h : (s.core 0).tlb = [{ asid := 0, va := 0, size := .g1, pte := 0x0C }]) (ha : a < 2 ^ 30) :
    s.translate 0 0 0 a = (s, .ok (kvPage a)) ∧ (kvPage a).kind = 0 ∧ (kvPage a).r = true ∧ (kvPage a).w = true ∧ (kvPage a).pa = a := by
  have e : ptePA (0x0C : DWord) = 0 ∧ pteKind (0x0C : DWord) = 0 ∧ bit (0x0C : DWord) 2 = true ∧ bit (0x0C : DWord) 3 = true := by decide +kernel
  refine ⟨?_, e.2.1, e.2.2.1, e.2.2.2, ?_⟩
  · have k : (({ asid := 0, va := 0, size := .g1, pte := 0x0C } : TlbEntry).hits 0 a) = true := by
      simp [TlbEntry.hits, PageSize.bytes]
      omega
    simp only [State.translate, h, List.find?_cons, k, kvPage]
  · show ptePA (0x0C : DWord) + a % 2 ^ 30 = a
    rw [e.1, Nat.zero_add, Nat.mod_eq_of_lt ha]
theorem wit_CopyEngine_append : [0, 128].all (fun cnt => (kvState cnt).chan 0 0 == [{ ceCmd with kind := 3, scope := 3, desc := kvDesc0 }] &&
      ((kvState cnt).core 0).l1.isEmpty && ((kvState cnt).die 0).dcache.isEmpty && (kvState cnt).fw.marked.isEmpty && kSp kvDesc0 && kD kvDesc0 == 4 &&
      memNat (kvState cnt).mem 0x1000 4 == cnt && memNat (kvState cnt).mem 0x2000 8 == 0x10000 && memNat (kvState cnt).mem 0x2008 8 == 0x20000 &&
      kPtab kvDesc0 == 0x2000 && kCnt kvDesc0 == 0x1000 && kMaxpg kvDesc0 == 3 && kKsrc kvDesc0 == 0 && kVsrc kvDesc0 == 64) = true := by decide +kernel
theorem wit_CopyEngine_pages (cnt : Nat) (hc : cnt = 0 ∨ cnt = 128) (g : Group) (h : (kvState cnt).group? 0 = some g) :
    (kvState cnt).KvPages g (kvUses kvDesc0 cnt fun p => memNat (kvState cnt).mem (kvPage (kPtab kvDesc0 + 8 * p)).pa 8) kvPage := by
  have hg : g = group0 := by
    have : (kvState cnt).group? 0 = some group0 := rfl
    exact (Option.some.inj (this ▸ h)).symm
  have t (a : Nat) (ha : a < 2 ^ 30) := translate_first (kvState cnt) a rfl ha
  have c : kCnt kvDesc0 = 0x1000 ∧ kPtab kvDesc0 = 0x2000 ∧ kD kvDesc0 = 4 := by decide +kernel
  have m : ∀ p < 2, memNat (kvState cnt).mem (kvPage (kPtab kvDesc0 + 8 * p)).pa 8 = 0x10000 * (p + 1) := by
    rcases hc with rfl | rfl <;> decide +kernel
  have u (a : Nat) (ha : kvUses kvDesc0 cnt (fun p => memNat (kvState cnt).mem (kvPage (kPtab kvDesc0 + 8 * p)).pa 8) a) : a < 2 ^ 30 := by
    have m0 := m 0 (by omega)
    have m1 := m 1 (by omega)
    simp only [kvUses, c] at ha m0 m1
    rcases hc with rfl | rfl <;> simp [m0, m1] at ha <;> omega
  subst hg
  refine ⟨fun a ha => ?_, fun a k ha hk _ => ?_, fun a b ha hb hab => ?_⟩
  · obtain ⟨h1, h2, h3, h4, h5⟩ := t a (u a ha)
    exact ⟨by have := u a ha; omega, h1, h2, h3, h4, by rw [h5]⟩
  · rw [(t _ (u _ hk)).2.2.2.2, (t _ (u _ ha)).2.2.2.2]
  · rw [(t _ (u _ ha)).2.2.2.2, (t _ (u _ hb)).2.2.2.2] at hab
    exact hab

def tileCmd : TaCmd := { uid := 0, seq := 3, zero := false, fmt := 0, block := 1 ||| 1 <<< 16 ||| 120 <<< 32 ||| 24 <<< 160, smem := [], win := [], st := .queued }
def arrayOf (x : TaCmd) (f : TritArray → TritArray) (pad : SMap Byte) : State :=
  { onEvent (onCtx { group0 with smem := pad }) EventArg.zero with cores := [(0, { core0 with ta := f { core0.ta with queue := [x] } })] }

theorem wit_TileRuns : ((arrayOf { tileCmd with zero := true } id []).core 0).ta.queue = [{ tileCmd with zero := true }] ∧
    blkM tileCmd.block = 1 ∧ blkN tileCmd.block = 1 ∧ blkK tileCmd.block / fmtGroup tileCmd.fmt * (fmtGroup tileCmd.fmt / 5) = 24 := by decide +kernel
theorem wit_TileRuns_legal : (((arrayOf tileCmd id []).group? 0).any fun g => let rd (a : Nat) : Nat := ((arrayOf tileCmd id []).spByte g a).toNat
    !fmtSparse tileCmd.fmt && (List.range 24).all fun c => decide (runWeight rd tileCmd.block c 0 < 243)) = true := by decide +kernel
theorem wit_TileRuns_illegal : (((arrayOf tileCmd id [(0, 243)]).group? 0).any fun g =>
    let rd (a : Nat) : Nat := ((arrayOf tileCmd id [(0, 243)]).spByte g a).toNat
    !fmtSparse tileCmd.fmt && chunkOn rd tileCmd.fmt tileCmd.block 0 && decide (243 ≤ runWeight rd tileCmd.block 0 0)) = true := by decide +kernel
theorem wit_TileRuns_fault : [false, true].all (fun p =>
    let s := arrayOf { tileCmd with st := .faulted 0 7 2 } (fun a => { a with fpend := p, fseq := 3 }) []
    (s.core 0).ta.queue == [{ tileCmd with st := .faulted 0 7 2 }] && (s.core 0).ta.fpend == p && (s.group? 0).isSome) = true := by decide +kernel

/-! A tenant 1 with the window of ASIDs 16 to 31 and 4 GiB from 4 GiB on, its log at 4 GiB + 64 KiB and its event record at
4 GiB + 128 KiB; ASID 16 maps the page of 1 GiB at 0 to them, readable, writable and open to the host, through MAPUPD. -/

def tenant1 : BitVec 512 := BitVec.ofNat 512 (4 <<< 96 + 4 <<< 112 + 16 <<< 128 + 16 <<< 144 + 4 <<< 176 + 4 <<< 184 + 0x100020000 <<< 192 +
  0x100010000 <<< 256 + 0x100030000 <<< 320)
def cmdOf (queue : Nat) (body : List Word) : Command := { Command.zero with queue := queue, body := body }
def onCmd (s : State) (ty queue : Nat) (body : List Word) (f : IssuedCmd → IssuedCmd) : State :=
  let c := cmdOf queue body
  { s with qi := { s.qi with issued := [{ id := 0, cause := none, queue := queue, index := 0, tag := 0, flags := 0, cmds := [f (IssuedCmd.fresh ty c)], failed := none, killed := false }] },
           ctl := { Control.reset with cmd := c } }
def tenanted : State := { State.reset with fw := { Firmware.reset with tenants := [(1, tenant1)] } }
def mapBody : List Word := [0x00020010, 0, 0, 0x2F, 0x100, 1, 0, 0]
def mapped : State := (next? (exec .mapupd (onCmd tenanted 10 64 mapBody id))).getD State.reset

theorem wit_MapUpdates : (let s := onCmd tenanted 10 64 mapBody id
    mapFields s.ctl.cmd && s.asidOk 1 16 && s.inAllotment 1 (2 ^ 32) (2 ^ 30) && !s.pinnedAt 16 0 (mapLevel s.ctl.cmd) && mapSize s.ctl.cmd == 2 ^ 30 &&
    SMap.get 0 s.fw.roots 16 == 0 && leafFault 0x1000000002F (2 ^ 30) == none && s.fw.freeTables.isEmpty && s.fw.tblNext + 2 ^ 20 ≤ 2 ^ 32 && s.unitsDone == 0) = true := by decide +kernel
theorem wit_MapUpdates_mapped : (let s := onCmd mapped 10 64 mapBody id
    bit (SMap.get 0 s.fw.roots 16) 0 && (s.leafSlot 0 (mapLevel s.ctl.cmd) walkLevels (ptePA (SMap.get 0 s.fw.roots 16)) 0).any fun p =>
      p.2.length == 1 && p.2.all fun b => b + 8 ≤ p.1) = true := by decide +kernel
theorem wit_MapUpdates_decay : mapFields (cmdOf 64 [0x02000000, 0, 0, 0, 0, 0, 0, 0]) = true ∧ mapFields (cmdOf 64 [0x1000, 0, 0, 0, 0, 0, 0, 0]) = false := by
  decide +kernel
theorem test_mapped : (mapped.pageIO 16 0x12345 .hostWrite).map (fun p => (p.pa, p.kind)) = some (0x100012345, 0) := by decide +kernel

/-- What MAPUPD has written for tenant 1: the root table's first entry and the leaf of 1 GiB. -/
def tab : List Host.Cell := [(0x100000, 1), (0x100003, 0x11), (0x110000, 0x2F), (0x110005, 1)]
theorem mapped_mem : mapped.mem = tab ∧ mapped.fw.roots = [(16, 0x10000001)] := by decide +kernel

theorem tab_zero (a : Nat) (h : a ≠ 0x100000 ∧ a ≠ 0x100003 ∧ a ≠ 0x110000 ∧ a ≠ 0x110005) : memByte tab a = 0 := by
  simp [memByte, SMap.get, SMap.find, tab, Ne.symm h.1, Ne.symm h.2.1, Ne.symm h.2.2.1, Ne.symm h.2.2.2]

theorem tab_entry (a : Nat) (h : a % 8 = 0) :
    memNat tab a 8 = if a = 0x100000 then 0x11000001 else if a = 0x110000 then 0x1000000002F else 0 := by
  split
  · subst a; decide +kernel
  · split
    · subst a; decide +kernel
    · have z (i : Nat) (hi : i < 8) : memByte tab (a + i) = 0 := tab_zero _ (by omega)
      have z0 := z 0 (by omega)
      simp only [Nat.add_zero] at z0
      simp [memNat, List.range_succ, z, z0]
      decide +kernel

theorem memNat_of_bytes (m m' : List Host.Cell) (a : Nat) (h : ∀ x, a ≤ x → x < a + 8 → memByte m x = memByte m' x) :
    memNat m a 8 = memNat m' a 8 := by
  simp [memNat, List.range_succ, h]

theorem walk_congr (m m' : List Host.Cell) (va lo n size : Nat) (ls : List (Nat × Nat × Nat)) (table lvl : Nat)
    (h : memNat m (table + 8 * ((va / 2 ^ lo) % n)) 8 = memNat m' (table + 8 * ((va / 2 ^ lo) % n)) 8)
    (r : let e : DWord := BitVec.ofNat 64 (memNat m' (table + 8 * ((va / 2 ^ lo) % n)) 8)
      bit e 0 = true → bit e 1 = false → walkFrom m va ls (ptePA e) (lvl + 1) = walkFrom m' va ls (ptePA e) (lvl + 1)) :
    walkFrom m va ((lo, n, size) :: ls) table lvl = walkFrom m' va ((lo, n, size) :: ls) table lvl := by
  simp only [walkFrom, h]
  split
  · rfl
  · split
    · rfl
    · split
      · rfl
      · rename_i a _ b
        exact r (by simpa using a) (by simpa using b)

/-- No write at or above 4 GiB changes a walk of ASID 16. -/
theorem walk_stable (m : List Host.Cell) (h : ∀ x, x < 2 ^ 32 → memByte m x = memByte tab x) (va : Nat) :
    walkFrom m va walkLevels 0x100000 0 = walkFrom tab va walkLevels 0x100000 0 := by
  have e (a : Nat) (ha : a + 8 ≤ 2 ^ 32) : memNat m a 8 = memNat tab a 8 := memNat_of_bytes _ _ _ fun x _ _ => h x (by omega)
  have p : ptePA (BitVec.ofNat 64 0x11000001) = 0x110000 := by decide +kernel
  have z : bit (BitVec.ofNat 64 0) 0 = false := by decide +kernel
  have l : bit (BitVec.ofNat 64 0x1000000002F) 1 = true := by decide +kernel
  refine walk_congr _ _ _ _ _ _ _ _ _ (e _ (by omega)) ?_
  rw [tab_entry _ (by omega)]
  intro e0 a0 b0
  have c : e0 = BitVec.ofNat 64 0x11000001 := by
    simp only [e0] at a0 ⊢
    split at a0
    · rw [if_pos ‹_›]
    · rw [if_neg (by omega), z] at a0
      exact absurd a0 (by decide)
  rw [c, p]
  refine walk_congr _ _ _ _ _ _ _ _ _ (e _ (by omega)) ?_
  rw [tab_entry _ (by omega)]
  intro e1 a1 b1
  simp only [e1] at a1 b1
  split at a1
  · omega
  · split at a1
    · rw [if_neg ‹_›, if_pos ‹_›, l] at b1
      exact absurd b1 (by decide)
    · rw [z] at a1
      exact absurd a1 (by decide)

theorem page_stable (s : State) (m : List Host.Cell) (hm : s.mem = tab) (hr : s.fw.roots = [(16, 0x10000001)])
    (h : ∀ x, x < 2 ^ 32 → memByte m x = memByte s.mem x) (va : Nat) :
    State.translateIO { s with mem := m } 16 va = s.translateIO 16 va ∧
    ∀ need, State.pageIO { s with mem := m } 16 va need = s.pageIO 16 va need := by
  have r : SMap.get 0 s.fw.roots 16 = 0x10000001 := by rw [hr]; rfl
  have p : ptePA 0x10000001 = 0x100000 := by decide +kernel
  have w : State.walk { s with mem := m } 16 va = s.walk 16 va := by
    simp only [State.walk, r, p, hm, walk_stable m (by rw [← hm]; exact h) va]
  have t : State.translateIO { s with mem := m } 16 va = s.translateIO 16 va := by simp only [State.translateIO, w]
  exact ⟨t, fun need => by simp only [State.pageIO, t]⟩

/-- The mapped state with the first packet's command current. -/
def M (ty queue : Nat) (body : List Word) (f : IssuedCmd → IssuedCmd) : State := onCmd mapped ty queue body f
theorem mapped_page (f : State → State) (hf : (f mapped).mem = mapped.mem ∧ (f mapped).fw.roots = mapped.fw.roots) (m : List Host.Cell)
    (h : ∀ x, x < 2 ^ 32 → memByte m x = memByte (f mapped).mem x) (va : Nat) :
    State.translateIO { f mapped with mem := m } 16 va = (f mapped).translateIO 16 va ∧
    ∀ need, State.pageIO { f mapped with mem := m } 16 va need = (f mapped).pageIO 16 va need :=
  page_stable _ m (hf.1.trans mapped_mem.1) (hf.2.trans mapped_mem.2) h va

theorem wit_PacketCommands : (List.replicate 12 (0 : Word)).length = 12 ∧ (M 3 64 (List.replicate 8 0) id).ctl.cmd.body.length = 8 := by decide +kernel
theorem wit_PacketCommands_wait : (let s := M 4 64 [0, 5, 0, 0, 0, 0, 0, 0] id
    (s.sem 0 0).toNat < 5 ∧ (s.thisCmd.map IssuedCmd.hit) = some false) ∧ (M 4 64 [0, 0, 0, 0, 0, 0, 0, 0] id).sem 0 0 = 0 ∧
    ((M 4 64 [0, 5, 0, 0, 0, 0, 0, 0] fun x => { x with hit := true }).thisCmd.map IssuedCmd.hit) = some true := by decide +kernel
/-- COPY of 4 bytes from 0x1000 to 0x2000 in ASID 16. -/
def copyBody : List Word := [0x1000, 0, 0x2000, 0, 4, 16, 0, 0]
theorem wit_PacketCommands_copy : (let s := M 7 64 copyBody id
    (s.thisCmd.map IssuedCmd.next) = some 0 ∧ s.asidOk 1 16 = true ∧ s.rangeOk 16 0x1000 4 .read = true ∧ s.rangeOk 16 0x2000 4 .write = true ∧
    s.asidOk 1 5 = false ∧ s.rangeOk 16 (2 ^ 31) 4 .read = false) := by decide +kernel
def copyS : State := let s := M 7 64 copyBody id; { s with ctl := { s.ctl with arg := { EventArg.zero with len := 4 } } }
theorem onCmd_mem (s : State) (ty queue : Nat) (body : List Word) (f : IssuedCmd → IssuedCmd) :
    (onCmd s ty queue body f).mem = s.mem ∧ (onCmd s ty queue body f).fw = s.fw := ⟨rfl, rfl⟩
theorem copyS_mem : copyS.mem = tab ∧ copyS.fw.roots = [(16, 0x10000001)] := by
  unfold copyS M
  simp only [onCmd_mem]
  exact mapped_mem
theorem wit_PacketCommands_copied : (∀ i < 4, copyS.PlainAt 16 (0x1000 + i) .read (0x100001000 + i) ∧ copyS.PlainAt 16 (0x2000 + i) .write (0x100002000 + i)) ∧
    ∀ m, (∀ a, (∀ i < 4, a ≠ 0x100002000 + i) → memByte m a = memByte copyS.mem a) → ∀ va need,
      (State.pageIO { copyS with mem := m } 16 va need) = copyS.pageIO 16 va need := by
  refine ⟨fun i hi => ?_, fun m h va => (page_stable copyS m copyS_mem.1 copyS_mem.2 (fun x hx => h x (by omega)) va).2⟩
  have : ∀ i < 4, (copyS.pageIO 16 (0x1000 + i) .read).map (fun p => (p.kind, p.pa)) = some (0, 0x100001000 + i) ∧
    (copyS.pageIO 16 (0x2000 + i) .write).map (fun p => (p.kind, p.pa)) = some (0, 0x100002000 + i) := by decide +kernel
  obtain ⟨a, b⟩ := this i hi
  simp only [Option.map_eq_some_iff, Prod.mk.injEq] at a b
  obtain ⟨p, hp, kp, ap⟩ := a
  obtain ⟨q, hq, kq, aq⟩ := b
  exact ⟨⟨p, hp, kp, ap⟩, ⟨q, hq, kq, aq⟩⟩

/-- A launch of ASID 16, and a grid of it that waits to become ready. -/
def ln1 : Launch := { placedLaunch (placedKern 128 128) with asid := 16, tenant := 1, ctxbase := 0x10000 }
def grid1 : Grid :=
  { num := 5, id := 0, seq := 0, queue := 65, index := 0, tag := 0, dep := 0, thresh := 0, parent := 0, graph := 1, weight := 0, indaddr := 0, gx := 1, gy := 1,
    gz := 1, ln := ln1, slot := none, ready := false, head := [], nextGid := 0, tail := [], placed := [],
    endedCount := 0, ended := false, asked := none }
def graph1 : Graph := { tenant := 1, counter := 0, queue := 65, index := 0, tag := 0, gevt := false, root := 5, done := false }
def launched (l : List Grid) : State :=
  onEvent { mapped with lu := { LaunchUnit.reset with grids := l.map fun g => (g.num, g), graphs := [(1, graph1)] } } { EventArg.zero with uid := 5 }

theorem wit_GridLaunches : (M 1 65 (List.replicate 8 0) fun x => { x with launch := some ln1 }).thisCmd.map (fun x => x.launch.isSome) = some true ∧
    (M 1 65 [] id).lu.grids.length < 65536 := by decide +kernel
theorem wit_GridLaunches_full : 65536 ≤ ({ M 1 65 (List.replicate 8 0) (fun x => { x with launch := some ln1 }) with
    lu := { LaunchUnit.reset with grids := List.replicate 65536 (5, grid1) } } : State).lu.grids.length := by
  show 65536 ≤ (List.replicate 65536 (5, grid1)).length
  rw [List.length_replicate]
/-- The warp's grid holds the weight that its 32 threads take shares of. -/
theorem wit_Launches_shares : (((ringed { onWarp warp0 with lu := { LaunchUnit.reset with grids := [(0, { grid1 with weight := 2 ^ 40 })] } }).tReady 0x6D
    { tw with srca := 2, srcb := 0x100 }).any fun e => e.parts != 0 && (e.checks .global 64 .write e.parts).2.length == 32 &&
      (takeShares 32 (e.base.weight e.g.grid)).isSome) = true := by decide +kernel
/-- A grid 5 found under its number, with a condition on its state. -/
def G (l : List Grid) (c : State → Grid → Bool) : Bool :=
  let s := launched l
  (SMap.find s.lu.grids 5).any fun g => g.num == 5 && !g.ready && !g.ended && c s g
theorem wit_GridLaunches_ready : G [grid1] (fun s g => g.parent == 0 && g.dep.toNat / 2 ^ 31 == 0 && g.gx * g.gy * g.gz == 1 &&
      s.rwSpan 16 0x10000 0x411000) &&
    G [{ grid1 with gx := 0 }] (fun _ _ => true) && G [{ grid1 with gx := 3, ln := { ln1 with clg := 2 } }] (fun _ g => g.gx % g.ln.clg != 0) &&
    G [{ grid1 with ln := { ln1 with ctxbase := 0x3FFF0000 } }] (fun s _ => !s.rwSpan 16 0x3FFF0000 0x411000) &&
    G [{ grid1 with gy := 65536 }] (fun _ _ => true) = true := by decide +kernel
theorem wit_GridLaunches_parent : G [{ grid1 with parent := 9 }] (fun s g => (SMap.find s.lu.grids g.parent).isNone) &&
    G [{ grid1 with parent := 6, dep := 0x80000000, thresh := 0 }, { grid1 with num := 6, ended := true }] (fun s g =>
      (SMap.find s.lu.grids g.parent).any fun p => p.ln.tenant == g.ln.tenant && p.ended) = true := by decide +kernel
theorem wit_GridLaunches_indirect : (let s := { launched [{ grid1 with dep := 0x00010000, indaddr := 0x4000 }] with mem := tab ++ [(0x100004000, 1)] }
    (s.vaNat 1 (s.abase 1) 0x4000 4 .read).2 = some 1 ∧
    (s.vaNat 1 (s.abase 1) 0x4000 4 .read).1.rwSpan 16 0x10000 0x411000 = true ∧ (s.vaNat 1 (s.abase 1) 0x40000000 4 .read).2 = none) := by decide +kernel

/-- A ring of queue 65 at 0x20000 whose first slot holds a NOP. -/
def ring1 : Ring := { tenant := 1, addr := 0x20000, logsize := 4, npub := 1, rd := 0, prio := 2, pre := false }
/-- A state of tenant 1 whose page is of the FRAME kind, some of its lines in the frame partition. -/
def framed (s : State) (l : List (Nat × BitVec 1024)) : State :=
  { s with mem := [(0x100000, 1), (0x100003, 0x11), (0x110000, 0x6F), (0x110005, 1)], fw := { mapped.fw with fcpmb := 1 },
           frame := l.map fun p => (0x2000000 + p.1, { Line.none with valid := BitVec.allOnes 128, data := p.2, kind := 1 }) }
def ringed1 (ty : BitVec 1024) : State :=
  framed { mapped with qi := { QueueInt.reset with rings := [(65, ring1)] } } [(0x400, ty <<< 512 ||| 1 <<< 992)]
theorem wit_QueueIntakeAndSlots : (ringed1 0).nextRing? = some (65, 2) ∧
    ((ringed1 0).peek ring1).2.map (fun p => (p.length, packetCheck 65 true p)) = some (16, none) ∧
    ((ringed1 0x20).peek ring1).2.map (packetCheck 65 true) = some (some .badtype) ∧
    ((ringed1 8).peek ring1).2.map (packetCheck 65 true) = some (some .priv) ∧ (ringed1 0).heldByGrids = false := by decide +kernel
/-- RSETUP of queue 65 at 0x20000, whose page is of the ring kind and whose header publishes every packet. -/
def rsetup (pte : List Byte) (n : Byte) : State :=
  let s := onCmd mapped 9 64 [1, 2, 0x20000, 0, 0, 0, 0, 0] id
  { s with mem := [(0x100000, 1), (0x100003, 0x11), (0x110000, 1), (0x110003, 0x12), (0x120000, 1), (0x120003, 0x13)] ++
      (pte.zipIdx.filterMap fun p => if p.1 = 0 then none else some (0x130010 + p.2, p.1)),
           ringp := [(0x2000400, { Line.none with valid := BitVec.allOnes 128, data := BitVec.ofNat 1024 (n.toNat <<< 128), kind := 2 })] }
theorem wit_QueueIntakeAndSlots_rsetup : (let s := rsetup [0x8F, 0, 0, 2, 0, 1] 1
    s.ringPages 16 0x20000 (64 + 64 * 16) = true ∧ (s.vaNat 1 16 0x20000 64 .read).2 = some (2 ^ 128) ∧ s.abase 1 = 16) ∧
    (rsetup [] 1).ringPages 16 0x20000 (64 + 64 * 16) = false ∧
    ((rsetup [0x8F, 0, 0, 2, 0, 1] 0).vaNat 1 16 0x20000 64 .read).2 = some 0 := by decide +kernel
theorem wit_QueueIntakeAndSlots_kill : SMap.sorted (launched [grid1]).lu.grids = true ∧ SMap.sorted (launched [grid1]).groups = true := by decide +kernel

/-- SLOTLOAD of slot 3, of an object of ASID 16 that has been verified, with one range of 64 KiB in its table. -/
def obj1 : ObjEntry := { tenant := 1, addr := 0x5000, asid := 16, digest := [], native := false, kerns := [], pins := [] }
def slots1 (body : List Word) (slots : SMap Slot) (objs : List ObjEntry) (m : List Host.Cell) : State :=
  let s := onCmd mapped 14 65 body id
  { s with fw := { s.fw with slots := slots, objs := objs }, mem := tab ++ m }
def slot1 : Slot := { tenant := 1, asid := 16, obj := 0x5000, ranges := [] }
def slotBody : List Word := [3, 16, 0x5000, 0, 0x6000, 0, 1, 0]
theorem wit_QueueIntakeAndSlots_slot : (let s := slots1 slotBody [] [obj1] [(0x10000600A, 1)]
    (SMap.find s.fw.slots 3).isNone && !s.slotBusy 3 && s.asidOk 1 16 &&
      match s.useObj false 1 16 0x5000 with
      | (t, .ok e) => e == obj1 && match t.vaRead 1 16 0x6000 16 .read with
        | (u, some bs) => (rangeTable 1 bs).any fun l => (slotPages l).all fun p => match u.translateIO 16 p.1 with
          | .ok g => decide (g.pa < lpddrBase) == (p.2 == 0) | .error _ => false
        | (_, none) => false
      | (_, .error _) => false) = true := by decide +kernel
theorem wit_QueueIntakeAndSlots_slot_fails : (let s := slots1 slotBody [(3, slot1)] [obj1] [(0x10000600C, 2)]
    (s.useObj false 1 16 0x40000000).2.isOk = false ∧ (s.vaRead 1 16 0x40000000 16 .read).2 = none ∧
    (match s.vaRead 1 16 0x6000 16 .read with | (_, some bs) => rangeTable 1 bs == none | (_, none) => false) = true ∧
    (SMap.find s.fw.slots 3).map Slot.tenant = some 1 ∧ s.asidOk 1 5 = false) ∧
    ({ slots1 slotBody [(3, slot1)] [] [] with lu := { LaunchUnit.reset with grids := [(5, { grid1 with slot := some 3 })] } } : State).slotBusy 3 = true ∧
    ((SMap.find (slots1 slotBody [(3, { slot1 with tenant := 2 })] [] []).fw.slots 3).map Slot.tenant) = some 2 := by decide +kernel
/-- QPROG of queue 65: the one word DONE, and no window. -/
def qprogBody : List Word := [0x7000, 0, 1, 1, 0x8000, 0, 0, 0]
theorem wit_QueueIntakeAndSlots_qprog : (let s := onCmd { mapped with mem := tab ++ [(0x100007001, 0x88)] } 13 64 qprogBody id
    (s.vaRead 1 (s.abase 1) 0x7000 2 .read).2 = some [0, 0x88] ∧ qprogOk [0x8800] 0 = true ∧ qprogOk [0x0800] 0 = false ∧
    (s.vaRead 1 (s.abase 1) 0x8000 0 .read).2 = some [] ∧ (s.vaRead 1 (s.abase 1) 0x40000000 2 .read).2 = none) := by decide +kernel

/-- TLBINV and CODEINV of ASID 16; a page walk of it; the eviction of a dirty line of each level. -/
theorem wit_Invalidations : (let s := M 11 64 [0x00020010, 0, 0, 0x10000, 0, 0, 0, 0] id
    s.asidOk 1 16 = true ∧ Command.zeroFrom s.ctl.cmd 5 = true ∧ s.asidOk 1 5 = false) ∧
    (let s := M 12 64 [0x00010010, 0, 0, 0x10000, 0, 0, 0, 0] id
     s.asidOk 1 16 = true ∧ Command.zeroFrom s.ctl.cmd 5 = true ∧ (match s.translateIO 16 0 with | .ok p => p.pa == 2 ^ 32 | .error _ => false) = true) := by
  decide +kernel
/-- A walk of ASID 16 that a warp has asked for, of a page that is mapped and of one that is not; a miss that joins it. -/
def walk1 (va : Nat) : Walk := { tenant := 1, asid := 16, page := va / 65536, who := [.warp 0 0], result := none }
def walking (va : Nat) : State :=
  { onEvent mapped { EventArg.zero with asid := 16, va := va } with walks := [(0, [walk1 va])] }
theorem wit_Invalidations_walk : [0x1000, 2 ^ 40].all (fun va => (walking va).walksOf (dieOf (walking va).ctl.arg.core) == [] ++ walk1 va :: [] &&
      (walk1 va).page == (walking va).ctl.arg.va / 65536) = true ∧
    (match (walking 0x1000).walk 16 0x1000 with | .ok p => p.2 == .g1 | .error _ => false) = true ∧
    (match (walking 0x1000).walk 16 (2 ^ 40) with | .ok _ => false | .error k => k == 1) = true := by decide +kernel
theorem wit_Invalidations_ask : (walking 0x1000).walksOf 0 = [] ++ walk1 0x1000 :: [] ∧ Turn.qi ∉ (walk1 0x1000).who ∧ Turn.warp 0 0 ∈ (walk1 0x1000).who ∧
    (walking 0x1000).walksOf 1 = [] := by decide +kernel
def dirty : Line := { Line.none with valid := 1, dirty := 1, data := 0x5A }
theorem wit_Invalidations_eviction : (({ State.reset with cores := [(0, { Core.zero with l1 := [(3, dirty)] })] } : State).l1Line 0 3) = dirty ∧
    (({ State.reset with dies := [(0, { Die.zero with dcache := [(3, dirty)] })] } : State).dieLine 0 3) = dirty ∧
    bit dirty.dirty 0 = true ∧ dirty.kind = 0 := by decide +kernel

/-! ### Witnesses: groups, rays, the display and the outside -/

/-- A ready grid on an idle part; the same with its group 0 resident. -/
def ready1 : Grid := { grid1 with ready := true }
def idle1 (r : Grid) : State := onEvent { State.reset with lu := { LaunchUnit.reset with grids := [(5, r)] } } { EventArg.zero with uid := 5 }
theorem wit_GroupPlacements : (let s := idle1 ready1
    s.lu.holds = [] ∧ s.groups = [] ∧ s.lu.saved = [] ∧ ready1.nextGid < ready1.total ∧ bit s.fw.cores 0 = true ∧
    ready1.ln.kern.smem ≤ 2097152 ∧ ready1.ln.kern.live ≤ 64 ∧ ready1.ln.warps + ready1.ln.kern.spawn ≤ 64 ∧ ready1.ln.crown = false ∧
    SMap.sorted s.lu.grids = true ∧ ready1.waiting = some 0 ∧ ready1.total ≤ 2 ^ 32) := by decide +kernel
theorem wit_GroupPlacements_some : (next? (exec .groupPlacement (idle1 ready1))).map (fun t => t.groups.map Prod.fst) = some [5 * 2 ^ 32] := by decide +kernel

/-- Group 0 of grid 5, resident on core 0. -/
def resident (g : Group) (r : Grid) : State :=
  let s := onEvent (onCtx g) { EventArg.zero with uid := 5 * 2 ^ 32 }
  { s with groups := [(5 * 2 ^ 32, g)], cores := [(0, { core0 with tlb := [{ asid := 16, va := 0, size := .g1, pte := 0x0C }] })],
           lu := { LaunchUnit.reset with grids := [(5, r)] } }
def g5 : Group := { group0 with uid := 5 * 2 ^ 32, grid := 5, ln := ln1 }
theorem wit_GroupLives : ((resident { g5 with started := false } ready1).group? (5 * 2 ^ 32)).any (fun g => g.uid == 5 * 2 ^ 32 && !g.started && !g.image) &&
    [BitVec.ofNat 9 1, 8, 0x10, 0x100].all (fun p => ((resident { g5 with started := false, ln := { ln1 with kern := { ln1.kern with preload := p } } } ready1).group?
      (5 * 2 ^ 32)).isSome) = true := by decide +kernel
theorem wit_GroupLives_end : (let s := resident { g5 with a := { g5.a with ended := true }, warps := [(0, Warp.fresh [] 0)] } ready1
    (s.group? (5 * 2 ^ 32)).any fun g => g.started && g.a.ended && (g.warps.all fun p => p.2.exited && p.2.mode == .running && p.2.pushDue.isNone) &&
      (s.core 0).ta.queue.isEmpty && (s.core 0).chans.isEmpty && (SMap.find s.lu.grids 5).any fun r => r.endedCount + 1 == r.total) = true ∧
    ({ ready1 with gx := 2 } : Grid).endedCount + 1 ≠ ({ ready1 with gx := 2 } : Grid).total := by decide +kernel
/-- The run timer of the part's one group has reached the quantum while its grid's next group finds no core enabled. -/
theorem wit_GroupLives_quantum : (let r := { ready1 with gx := 2, nextGid := 1, placed := [0] }
    let s := { resident { g5 with timer := 65536 } r with fw := { Firmware.reset with cores := 0 }, ctl := { Control.reset with arg := { EventArg.zero with uid := 5 } } }
    SMap.find s.lu.grids s.ctl.arg.uid = some r ∧ r.asked = none ∧ r.waiting = some 1 ∧ s.placeGrid r = none ∧ SMap.sorted s.groups = true ∧
    2 ^ r.ln.quantum ≤ (65536 : Nat)) := by decide +kernel
/-- Group 0 of grid 5 with its save routines ended. -/
def saved5 : Group := { g5 with preempt := true, a := { g5.a with mode := .saved 3 }, warps := [(0, { warp0 with mode := .saved 2 })] }
theorem wit_GroupLives_save : [(0x0C, true), (0x04, false)].all (fun p =>
    let s := { resident saved5 ready1 with cores := [(0, { core0 with tlb := [{ asid := 16, va := 0, size := .g1, pte := p.1 }] })] }
    s.routinesEnded saved5 && match (s.translate 0 1 16 0x210080).2 with
      | .ok q => q.w == p.2 && q.pa % 128 == 0 | .error _ => false) = true ∧
    (let s := { resident saved5 ready1 with cores := [] }
     s.routinesEnded saved5 = true ∧ (match (s.translate 0 1 16 0x210080).2 with | .ok _ => false | .error _ => true) = true) ∧
    0x10000 + 0x200080 = 0x210080 := by decide +kernel
theorem wit_GroupLives_resume : [(0x04, true), (0x08, false)].all (fun p =>
    let g : Group := { g5 with started := false, image := true, savedAs := some { warps := [(0, 2)], held := [], counts := [], kept := [], aEntry := some 3, bars := [] } }
    let s := { resident g ready1 with cores := [(0, { core0 with tlb := [{ asid := 16, va := 0, size := .g1, pte := p.1 }] })] }
    g.frozenIO.isNone && match ((s.acquire 0 3).translate 0 1 16 0x210080).2 with | .ok q => q.r == p.2 | .error _ => false) = true ∧
    (match ((({ resident g5 ready1 with cores := [] } : State).acquire 0 3).translate 0 1 16 0x210080).2 with
      | .ok _ => false | .error _ => true) = true := by decide +kernel
theorem wit_GroupLives_image : (let q := { Queues.empty with fmt := [1, 2], b1 := [{ payload := 3, pops := 1 }], g4 := [5], t7 := [9] }
    q.fmt.length ≤ 16 ∧ imageQueues ({ group0 with queues := q } : Group).imageBytes = q) := by decide +kernel

/-- A beam query of warp 0's thread 0 with a budget of 64 threads, and the state of core 0's ray engine. -/
def query0 : RayQuery := { id := 0, uid := 0, slot := 0, lane := 0, tag := 0, kind := 2, record := BitVec.ofNat 1024 (64 <<< 629), spawned := false }
def rayCtx0 : RayCtx :=
  { q := query0, started := true, stack := [], spilled := 0, emits := [], hits := [], records := 0, begun := 0, cause := none, buf := [], back := none, left := none,
    written := false, park := none }
def onRays (f : Core → Core) (g : Group) (slot : Nat) : State :=
  { onEvent (onCtx g) { EventArg.zero with slot := slot } with cores := [(0, f core0)] }
def g32 : Group := { group0 with ln := { group0.ln with kern := { group0.kern with spawn := 1 } } }
theorem wit_RaySteps_take : (let s := onRays (fun c => { c with fifo := [query0] }) group0 0
    (s.core 0).rays.length < 64 ∧ ((s.group? 0).bind fun g => g.warp? 0).isSome = true) ∧
    64 ≤ ((onRays (fun c => { c with fifo := [query0], rays := List.replicate 64 rayCtx0 }) group0 0).core 0).rays.length := by decide +kernel
theorem wit_RaySteps_emit : (let x := { rayCtx0 with emits := [[0x02020000, 0, 0, 0, 0, 0, 0]] }
    let s := onRays (fun c => { c with rays := [x] }) group0 0
    (s.core 0).splits.length < 4096 ∧ s.rayThreads 0 query0 + 2 * 2 ≤ query0.budget) ∧
    ({ query0 with spawned := true } : RayQuery).budget < 1 := by decide +kernel
theorem wit_RaySteps_spawn : (let r : SplitRec := { uid := 0, id := 0, words := [0x01010000, 0, 0, 0, 0, 0, 0], rays := [(0, 0)], entry := 0 }
    let s := onRays (fun c => { c with rays := [rayCtx0], splits := [r] }) g32 32
    (s.group? 0).any fun g => (g.warp? 32).isNone && decide (32 < 32 + g.kern.spawn) && r.of query0 && bit ({ g32.kern with preload := 1 } : Kern).preload 0) = true ∧
    ((onRays id g32 0).ctl.arg.slot < 32) := by decide +kernel
theorem wit_RaySteps_complete : [none, some 0, some 5].all (fun k =>
    let s := onRays (fun c => { c with rays := [{ rayCtx0 with cause := k, written := true }] }) group0 0
    (s.core 0).rays.length == 1 && s.rayThreads 0 query0 == 0) = true ∧
    (SMap.find ({ rayCtx0 with q := { query0 with kind := 1 }, hits := [(0, { t := 1, prim := 2 })] } : RayCtx).hits 0).isSome = true := by decide +kernel

def rect1 : Rect := { i0 := 0, j0 := 0, w := 1, h := 1 }
def frame0 : RayFrame := { node := 0, rect := rect1, call := 0, next := 0, slot := 0, data := 0, cls := [] }
/-- The ray engine of core 0 with one context, over a scratchpad. -/
def R (x : RayCtx) (pad : SMap Byte) (c : State → Group → Bool) : Bool :=
  let s := onRays (fun k => { k with rays := [x] }) { group0 with smem := pad } 0
  (s.core 0).rays[0]? == some x && x.park.isNone && !x.written && (s.group? 0).any (c s)
def unitsMore (s : State) (g : Group) (b : List Byte) (node n : Nat) : Bool := match (s.rayUnit g b node n).2 with | .more _ => true | _ => false
def unitsGot (s : State) (g : Group) (b : List Byte) (node n : Nat) : Option (List Byte) := match (s.rayUnit g b node n).2 with | .got l => some l | _ => none
def spillPad (l : List Byte) : SMap Byte := (l.zipIdx.filter fun p => p.1 != 0).map fun p => (p.2, p.1)
def nanQuery : RayQuery := { query0 with record := query0.record ||| BitVec.ofNat 1024 0x7FC00000 }
theorem wit_RaySteps_start : R { rayCtx0 with started := false } [] (fun s g => !query0.inval && query0.finite query0.all && unitsMore s g [] query0.root 8) &&
    R { rayCtx0 with started := false, buf := List.replicate 112 0 } [] (fun s g => unitsGot s g (List.replicate 112 0) 0 8 == some (List.replicate 128 0) && !nodeBad 0) &&
    R { rayCtx0 with started := false, q := nanQuery } [] (fun _ _ => nanQuery.inval) = true := by decide +kernel
theorem wit_RaySteps_reload : frameOf query0 frame0.bytes = some frame0 ∧
    R { rayCtx0 with spilled := 1 } (spillPad frame0.bytes) (fun s g => (List.range 16).map (fun i => s.spByte g (query0.spill + i)) == frame0.bytes) &&
    R { rayCtx0 with spilled := 1 } [(14, 1)] (fun s g => decide (leNat ((List.range 16).map fun i => s.spByte g (query0.spill + i)) / 2 ^ 112 ≠ 0)) &&
    R { rayCtx0 with spilled := 1, back := some frame0 } [] (fun s g => unitsMore s g [] 0 8) &&
    R { rayCtx0 with spilled := 1, back := some frame0, buf := List.replicate 112 0 } [] (fun s g => (unitsGot s g (List.replicate 112 0) 0 8).isSome && query0.finite rect1) = true := by
  decide +kernel
/-- Nodes whose first child is a node, a triangle leaf or a box leaf. -/
def child (k : Nat) : RayFrame := { frame0 with data := BitVec.ofNat 1024 (k <<< 64), cls := [1, 0, 0, 0] }
theorem wit_RaySteps_children : ([1, 2, 3].all (fun k => R { rayCtx0 with stack := [child k] } [] fun _ _ => nodeKind (child k).data 0 == k && (child k).cls[0]? == some 1) &&
    R { rayCtx0 with stack := [{ child 1 with next := 4 }] } [] (fun _ _ => true) && R { rayCtx0 with stack := [{ child 1 with next := 1 }] } [] (fun _ _ => (child 1).cls[1]? == some 0) &&
    decide (query0.budget ≠ 0) && ((rect1.cut query0.budget 14).all fun p => query0.finite p) && (({ query0 with spawned := true } : RayQuery).budget == 0)) = true := by decide +kernel
theorem wit_RaySteps_parts : [1, 2].all (fun c => R { rayCtx0 with stack := [{ frame0 with call := c }] } [] fun _ _ => rect1.quadrants[0]? == some rect1 && rect1.quadrants[1]?.isNone) &&
    R { rayCtx0 with stack := [{ frame0 with call := 3 }] } [] (fun s g => unitsMore s g [] 0 3) &&
    R { rayCtx0 with stack := [{ frame0 with call := 3 }], buf := List.replicate 32 0 } [] (fun s g => unitsGot s g (List.replicate 32 0) 0 3 == some (List.replicate 48 0) &&
      (triOf (List.replicate 48 0)).isSome) && (triOf (List.replicate 48 255)).isNone = true := by decide +kernel
theorem wit_RaySteps_results : R { rayCtx0 with cause := some 0 } [] (fun s g => !query0.rsp && (match (s.resultPages g [rayCtx0.place 0]).2 with | .ok l => l.length == 1 | .error _ => false)) &&
    R { rayCtx0 with cause := some 0, left := some [(0, none)] } [] (fun _ _ => query0.kind != 1) && R { rayCtx0 with cause := some 3 } [] (fun _ _ => true) = true := by decide +kernel

/-- Walks of ASID 16 that have ended, at the 1 GiB leaf that the range of `wit_Invalidations` meets, in faults inside and outside
it; and a ray with a result entry left on a page outside it. -/
theorem wit_Invalidations_results : (let s := { M 11 64 [0x00020010, 0, 0, 0x10000, 0, 0, 0, 0] id with
      walks := [(0, [{ walk1 0x30000 with result := some (.leaf 0x0C .g1) }, { walk1 0x1000 with result := some (.fault 1) }, { walk1 0x30000 with result := some (.fault 1) }])] }
    (s.walksOf 0).map (fun w => match w.result with
      | some (.leaf _ z) => decide (65536 * w.page / z.bytes * z.bytes = 0 ∧ 0 < z.bytes)
      | some (.fault _) => decide (65536 * w.page < 0x10000) | none => false) = [true, true, false]) ∧
    (let x := { rayCtx0 with q := { query0 with record := query0.record ||| (0x10000 <<< 704) }, left := some [(0, some { pa := 0, kind := 0, comp := false, r := true, w := true, x := false, h := false })] }
     (x.left.getD []).all (fun e => e.2.isSome) && decide (65536 ≤ x.place 0) = true) := by decide +kernel
/-- Queue images: the zeros of one as saved, and of one with a byte set in them; the same of an event target record. -/
theorem wit_GroupLives_zeros : (let q := { Queues.empty with fmt := [1, 2], b1 := [{ payload := 3, pops := 1 }], g4 := [5], t7 := [9] }
    let l := ({ group0 with queues := q, ring := some 3 } : Group).imageBytes
    imageZeros l = true ∧ [5, 12, 20].all (fun n => !imageZeros (l.set n 255)) = true) := by decide +kernel

/-- A head of 16 by 16 pixels with ASID 16, in frames of 32 lines, LATCH 4, its buffers at fixed places. -/
def rec1 : BitVec 1024 := BitVec.ofNat 1024 (16 <<< 32 + 16 <<< 48 + 32 <<< 80 + 4 <<< 96 + 16 <<< 224 + 0x10000 <<< 256 + 0x20000 <<< 320 + 0x30000 <<< 384 +
  0x40000 <<< 576 + 3 <<< 640)
def change1 : HeadChange := { record := rec1, prog := [], fcpmb := 0xFF, link := (810, 4), queue := 64, id := 0, n := 0 }
def withHead (x : Head) (f : IssuedCmd → IssuedCmd) : State := { M 8 64 (List.replicate 8 0) f with heads := [(0, x)] }
theorem wit_HeadChanges : [Head.zero, { Head.zero with on := true }, { Head.zero with pending := [change1] }].all (fun x =>
    (withHead x fun c => { c with change := some change1 }).thisChange == some (0, change1)) = true ∧
    recVtotal rec1 = 32 ∧ 8 + recLatch rec1 ≤ 2 * recVtotal rec1 := by decide +kernel
theorem wit_HeadChanges_black : (let x := (withHead { Head.zero with record := rec1, link := true, line := 2 } id).head 0
    x.on = false ∧ x.link = true ∧ ((x.line + 1) % (recVtotal x.record : Int)).toNat < recHeight x.record ∧ recVtotal x.record ≠ 0) := by decide +kernel
theorem wit_HeadChanges_fcpmb : (withHead Head.zero fun c => { c with change := some { change1 with fcpmb := 64 } }).thisChange.map (fun p => p.2.fcpmb) = some 64 := by
  decide +kernel
theorem wit_HeadChanges_effect : ((withHead { Head.zero with due := [.effect], pending := [change1] } id).head 0).due.head? = some .effect ∧
    ((withHead { Head.zero with due := [.effect], pending := [change1] } id).head 0).pending = [change1] := by decide +kernel

def head1 : Head := { Head.zero with on := true, tenant := 1, record := rec1, link := true }
def band1 : Band :=
  { frame := 0, band := 0, pose := List.replicate 8 0, poseseq := 0, kept := false, rs := RenderSet.first, rskept := false, lcore := none,
    doneAt := none, cause := 0, outcome := none, pixels := [] }
def headAt (x : Head) (m : List Host.Cell) : State := { onEvent mapped EventArg.zero with heads := [(0, x)], mem := tab ++ m }
theorem wit_HeadPoints_set : (let s := framed (headAt { head1 with due := [.renderSet 0] } []) [(0x200, 1), (0x201, 0x2000000020000000400000000000000000000000000000000000000000000000000008000800000001 <<< 512), (0x202, 0)]
    let v := s.vaNat 1 16 0x10000 64 .read
    v.2 = some 1 ∧ ((v.1.vaNat 1 16 (0x10000 + 64 + 128) 128 .read).2.map fun m => (m % 2 ^ 32, (rsOf (BitVec.ofNat 1024 m)).isSome)) = some (1, true)) := by
  decide +kernel
theorem wit_HeadPoints_set_kept : (let s := framed (headAt { head1 with due := [.renderSet 0] } []) [(0x200, 0)]
    (s.vaNat 1 16 0x40000000 64 .read).2 = none ∧ (s.vaNat 1 16 0x10000 64 .read).2 = some 0 ∧ rsOf 0 = none) := by decide +kernel
theorem wit_HeadPoints_pose : ((framed (headAt { head1 with due := [.pose 0 0] } []) [(0x400, 0)]).vaNat 1 16 0x20000 64 .read).2 = some 0 ∧
    ((framed (headAt { head1 with due := [.pose 0 0] } []) [(0x400, 1)]).vaNat 1 16 0x20000 64 .read).2 = some 1 := by decide +kernel
theorem wit_HeadPoints_dispatch : [LineSt.idle, .waitNext].all (fun st =>
    let s := { headAt { head1 with queue := [(0, 0)], live := [band1] } [] with lines := [(0, { LineCore.zero with st := .running }), (1, { LineCore.zero with st := st })] }
    (s.head 0).band? 0 0 == some band1 && bit (recLcmask rec1) 1 && (s.line 1).st != .running && (s.line 0).st == .running) = true ∧
    band1.pose.length = 8 := by decide +kernel
theorem wit_HeadPoints_deadline : [none, some 0].all (fun o => [none, some (-40)].all fun n => [none, some 3].all fun c =>
    (({ head1 with due := [.deadline 0 0], live := [{ band1 with outcome := o, doneAt := n, lcore := c }] } : Head).band? 0 0).isSome) = true ∧
    ((-40 : Int) < head1.pointD 0 0) := by decide +kernel
/-- A band of one pixel at its point S: on a head of no address space, and on one whose status and pixels are ordinary memory. -/
def scanS : State := headAt { head1 with due := [.scan 0 0], live := [{ band1 with outcome := some 0, lcore := some 1, pixels := [(0, 0x3C00)] }] } []
theorem wit_HeadPoints_scan : (scanS.head 0).due.head? = some (.scan 0 0) ∧
    ((scanS.head 0).band? 0 0).map (fun d => (d.outcome, d.lcore, d.cause)) = some (some 0, some 1, 0) ∧
    scanS.pageIO 5 0x30000 .write = none := by decide +kernel
theorem scanS_mem : scanS.mem = tab ∧ scanS.fw.roots = [(16, 0x10000001)] := by
  unfold scanS headAt onEvent
  simp only [List.append_nil, true_and]
  exact mapped_mem.2
theorem wit_HeadPoints_status : scanS.PlainAt 16 (0x30000 + 16 * (0 % 2 * 270 + 0)) .write 0x100030000 ∧
    (∀ p pg, p ∈ [(0, (0x3C00 : BitVec 48))] → scanS.pageIO 16 (0x40000 + 8 * (0 % 2) * 16 * 16 + 8 * ((16 * 0 + p.1 / 8192) * 16 + p.1 % 8192)) .write = some pg →
      pg.pa = 0x100040000) ∧
    ∀ m, (∀ y, (y < 0x100030000 ∨ 0x100030010 ≤ y) → (y < 0x100040000 ∨ 0x100040008 ≤ y) → memByte m y = memByte scanS.mem y) → ∀ va need,
      State.pageIO { scanS with mem := m } 16 va need = scanS.pageIO 16 va need := by
  have q : (scanS.pageIO 16 0x30000 .write).map (fun p => (p.kind, p.pa)) = some (0, 0x100030000) ∧
      (scanS.pageIO 16 0x40000 .write).map (fun p => p.pa) = some 0x100040000 := by decide +kernel
  refine ⟨?_, ?_, fun m h va => (page_stable scanS m scanS_mem.1 scanS_mem.2 (fun x hx => h x (by omega) (by omega)) va).2⟩
  · obtain ⟨p, hp, e⟩ := Option.map_eq_some_iff.mp q.1
    simp only [Prod.mk.injEq] at e
    exact ⟨p, hp, e.1, e.2⟩
  · intro p pg hm hp
    obtain rfl := List.mem_singleton.mp hm
    have r := q.2
    rw [show scanS.pageIO 16 0x40000 .write = some pg from hp] at r
    simpa using r

/-- With the one tenant of these tests, hot-band marks stand in its own table alone. -/
theorem hot_first (s : State) (a : Nat) (ht : s.fw.tenants = [(1, tenant1)]) (h : s.hotByte a) : 0x100030000 ≤ a ∧ a < 0x100031000 := by
  obtain ⟨t, pa, i, hi, ha⟩ := h
  by_cases ht1 : t = 1
  · subst ht1
    have f : s.tenantField 1 111 96 = 4 ∧ s.tenantField 1 127 112 = 4 ∧ s.tenantField 1 95 80 = 0 ∧ s.tenantField 1 383 320 = 0x100030000 := by
      simp only [State.tenantField, ht]; decide +kernel
    simp only [State.hotIndex, f] at hi
    simp only [State.hotAddr, f] at ha
    split at hi
    · obtain rfl := Option.some.inj hi
      omega
    · split at hi
      · omega
      · cases hi
  · have f (hi lo : Nat) : s.tenantField t hi lo = 0 := by
      simp [State.tenantField, ht, SMap.get, SMap.find, Ne.symm ht1, bitsOf]
    simp only [State.hotIndex, f] at hi
    split at hi
    · omega
    · split at hi
      · omega
      · cases hi
def rec2 : BitVec 1024 := BitVec.ofNat 1024 (rec1.toNat + 0x45000000 <<< 448 + 0x45000000 <<< 480 + 0x44F00000 <<< 512 + 0x44F00000 <<< 544)
def pose1 : List Word := [0, 0, 0, 0x3F800000, 0, 0, 0, 0]
/-- The head before the deadline of frame 1, after a band with the same pose. -/
def fallS : State := headAt { head1 with record := rec2, due := [.deadline 1 0], live := [{ band1 with frame := 1, pose := pose1 }], prevPose := [(0, pose1)] } []
theorem fallS_mem : fallS.mem = tab ∧ fallS.fw.roots = [(16, 0x10000001)] ∧ fallS.fw.tenants = [(1, tenant1)] := by
  unfold fallS headAt onEvent
  simp only [List.append_nil, true_and]
  exact ⟨mapped_mem.2, by decide +kernel⟩
theorem wit_HeadPoints_fallback : recWidth rec2 ≤ 8192 ∧ recPresent rec2 % 128 = 0 ∧ SMap.get [] (fallS.head 0).prevPose 0 = pose1 ∧
    virgaUv rec2 virgaId 3 5 = some (halfPixel 3, halfPixel 5) ∧ uvNan (halfPixel 3, halfPixel 5) = false ∧
    (footIdx (halfPixel 3) (halfPixel 5) 16 16).all (fun q => (fallS.pageIO 16 (presentAt rec2 0 q) .read).any fun p => decide (0x100031000 ≤ p.pa)) = true := by decide +kernel
theorem wit_HeadPoints_fallback_stable (m : List Host.Cell) (h : ∀ y, ¬ fallS.hotByte y → memByte m y = memByte fallS.mem y) (va : Nat) :
    State.pageIO { fallS with mem := m } 16 va .read = fallS.pageIO 16 va .read := by
  refine (page_stable fallS m fallS_mem.1 fallS_mem.2.1 (fun x hx => h x fun c => ?_) va).2 .read
  have := hot_first fallS x fallS_mem.2.2 c
  omega
theorem wit_HeadPoints_fallback_nan : (virgaUv rec1 virgaId 3 5).all (fun o => uvNan o) = true := by decide +kernel
theorem wit_HeadPoints_points : (-36 : Int) < ({ head1 with line := -36 } : Head).pointD 0 0 ∧ head1.pointD 0 0 ≤ head1.line ∧
    recStatus rec1 % 16 = 0 ∧ recPresent rec1 % 128 = 0 ∧ scanS.fw.fcpmb = 0 ∧ scanS.frame = [] := by
  refine ⟨by decide +kernel, by decide +kernel, by decide +kernel, by decide +kernel, by decide +kernel, by decide +kernel⟩

/-- A request on queue pair 3 of tenant 1: 4 bytes, or a doubleword, at 0x3000 with the right R_Key. -/
def hostReq (a : EventArg) : State :=
  let s := onEvent mapped { a with qp := 3 }
  { s with fw := { s.fw with qps := [(3, { tenant := 1, port := 0, err := false })] } }
def reqArg : EventArg := { EventArg.zero with rkey := 1, va := 0x3000, len := 4, bytes := [1, 2, 3, 4], val := 5, cmp := 6 }
theorem hostReq_mem (a : EventArg) : (hostReq a).mem = tab ∧ (hostReq a).fw.roots = [(16, 0x10000001)] := by
  unfold hostReq onEvent
  simp only
  exact mapped_mem
theorem wit_HostRequests : (let s := hostReq reqArg
    (SMap.find s.fw.qps 3).map QPair.err = some false ∧ s.fw.up = true ∧ s.abase 1 = 16 ∧
    s.rangeOk 16 0x3000 4 .hostWrite = true ∧ s.rangeOk 16 0x3000 4 .hostRead = true ∧ s.rangeOk 16 0x40000000 4 .hostWrite = false ∧
    s.tenantField 1 319 256 = 0x100010000 ∧ s.tenantField 1 319 256 % 64 = 0) := by decide +kernel
theorem wit_HostRequests_stable : (∀ i < 8, (hostReq reqArg).PlainAt 16 (0x3000 + i) .hostWrite (0x100003000 + i) ∧
      (hostReq reqArg).PlainAt 16 (0x3000 + i) .hostRead (0x100003000 + i)) ∧
    ∀ m, (∀ x, (∀ i < 8, x ≠ 0x100003000 + i) → memByte m x = memByte (hostReq reqArg).mem x) → ∀ va need,
      State.pageIO { hostReq reqArg with mem := m } 16 va need = (hostReq reqArg).pageIO 16 va need ∧
      State.translateIO { hostReq reqArg with mem := m } 16 va = (hostReq reqArg).translateIO 16 va := by
  refine ⟨fun i hi => ?_, fun m h va need =>
    have p := page_stable (hostReq reqArg) m (hostReq_mem _).1 (hostReq_mem _).2 (fun x hx => h x (by omega)) va
    ⟨p.2 need, p.1⟩⟩
  have : ∀ i < 8, ((hostReq reqArg).pageIO 16 (0x3000 + i) .hostWrite).map (fun p => (p.kind, p.pa)) = some (0, 0x100003000 + i) ∧
    ((hostReq reqArg).pageIO 16 (0x3000 + i) .hostRead).map (fun p => (p.kind, p.pa)) = some (0, 0x100003000 + i) := by decide +kernel
  obtain ⟨a, b⟩ := this i hi
  simp only [Option.map_eq_some_iff, Prod.mk.injEq] at a b
  obtain ⟨p, hp, kp, ap⟩ := a
  obtain ⟨q, hq, kq, aq⟩ := b
  exact ⟨⟨p, hp, kp, ap⟩, ⟨q, hq, kq, aq⟩⟩
theorem wit_HostRequests_event : [0, 16].all (fun n =>
    let s := { onEvent mapped { EventArg.zero with queue := 1 } with
      mem := tab ++ (if n = 0 then [] else [(0x100020000, BitVec.ofNat 8 n)]), fw := { mapped.fw with events := [(1, 7)] } }
    s.tenantField 1 255 192 == 0x100020000 && s.tenantField 1 183 176 == 4 && s.physNat 0x100020000 8 == n && s.physNat 0x100020018 8 == 0) = true := by
  decide +kernel

theorem wit_HostRequests_zeros : [(17, true), (33, false), (16, false), (63, false)].all (fun p =>
    let s := { onEvent mapped { EventArg.zero with queue := 1 } with
      mem := tab ++ [(0x100020000 + p.1, BitVec.ofNat 8 2)], fw := { mapped.fw with events := [(1, 7)] } }
    let whole := s.physNat 0x100020000 64
    decide (whole / 2 ^ 256 = 0 ∧ whole / 2 ^ 129 % 2 ^ 7 = 0) == p.2) = true := by decide +kernel

/-- Operator messages: the first has a counter above the stored one, the second has not; whether signatures verify is Config's. -/
theorem wit_MessagesAndPower : State.reset.fw.up = true ∧ (List.replicate 48 (0 : Byte)).length = 48 ∧ State.reset.fw.flash.opctr.toNat < (1 : DWord).toNat ∧
    ¬ State.reset.fw.flash.opctr.toNat < (0 : DWord).toNat := by decide +kernel
theorem wit_MessagesAndPower_closed : (let s : State := { State.reset with fw := { Firmware.reset with
      qps := [(0, { tenant := 16, port := 0, err := true })], flash := { Flash.reset with leaf := 2 ^ 40 } } }
    ((SMap.find s.fw.qps 0).map QPair.err) = some true ∧ 2 ^ 40 ≤ s.fw.flash.leaf ∧ (SMap.find State.reset.fw.qps 0).all (fun q => !q.err) = true) := by decide +kernel
/-- A record of tenant 2 apart from tenant 1's, its control ring in its allotment, for the clause on a signed PROVISION. -/
def record2 : Nat := 2 + 8 <<< 96 + 4 <<< 112 + 32 <<< 128 + 16 <<< 144 + 4 <<< 176 + 4 <<< 184 + 0x200020000 <<< 192 +
  0x200010000 <<< 256 + 0x200030000 <<< 320 + 0x20004 <<< 448
theorem wit_MessagesAndPower_record : recordOk record2 = true ∧ mapped.tenantBusy 2 = false ∧ recordsApart record2 tenant1.toNat = true ∧
    mapped.ctlRingOk record2 = true ∧ record2 % 16 = 2 ∧ recordOk (record2 + 1 <<< 63) = false := by decide +kernel
theorem wit_MessagesAndPower_cap : (let cap := 1000 * bytesAt State.reset.fw.flash.config 36 2
    cap < 1 ∧ State.reset.fw.gate ≤ 15) ∧ 100 * 94 < 95 * 100 ∧ 95 * 100 ≤ 100 * 95 := by decide +kernel

def fault1 : FaultEntry := { tenant := 1, asid := 16, va := 0x5000, cause := 1, agent := 0, count := 1, uids := [0] }
def faulty (tenants : SMap (BitVec 512)) : State :=
  { onEvent mapped EventArg.zero with dies := [(0, { Die.zero with faults := [fault1] })], fw := { mapped.fw with tenants := tenants } }
theorem wit_LogsAndErrors : (let s := faulty [(1, tenant1)]
    (s.die 0).faults = [] ++ fault1 :: [] ∧ (SMap.find s.fw.tenants 1).isSome = true ∧ s.logRoom 1 = true ∧ (s.die 0).late = []) ∧
    ∀ d < 4, ∀ f ∈ ((faulty []).die d).faults, (SMap.find (faulty []).fw.tenants f.tenant).isSome = false := by decide +kernel
theorem wit_LogsAndErrors_errors : (let s := onEvent (onCtx group0) { EventArg.zero with soft := .group 0 1 }
    (s.group? 0).any fun g => g.uid == 0 && g.side == 0 && !g.replayed) = true ∧
    ((onEvent (onCtx { g5 with side := 1 }) EventArg.zero).group? 0).any (fun g => g.side != 0) = true ∧
    ((onLine LineCore.zero).line 0).st ≠ .idle ∧ ((({ head1 with live := [band1] } : Head).band? 0 0).isSome) = true ∧
    ((arrayOf tileCmd id []).core 0).ta.queue = [tileCmd] ∧ tileCmd.st = .queued ∧ 0 < blkK tileCmd.block / fmtGroup tileCmd.fmt := by decide +kernel

/-- A late fault on another page of tenant 1, where its 1024 places are taken, and one on the page of a queued entry. -/
theorem wit_LogsAndErrors_late : (let l := List.replicate 1023 fault1
    let h : FaultEntry := { fault1 with va := 0x50000 }
    (fault1 :: l).length ≤ 4096 ∧ ((fault1 :: l).filter fun x => x.tenant == fault1.tenant).length = 1024 ∧
    l.all (fun y => !(h.asid == y.asid && h.va / 65536 == y.va / 65536)) = true) ∧
    (let x : FaultEntry := { fault1 with va := 0x5008, count := 0xFFFF }
     [] ++ [x] = [] ++ x :: [] ∧ x.asid = fault1.asid ∧ x.va / 65536 = fault1.va / 65536 ∧ x ≠ fault1) := by decide +kernel

/-! ### A Vosis block (the worked block after R410) -/

def blockOps : List VosisOp :=
  [0x0000000080000020C000000000000000, 0x0000000080000020D000000000020000, 0x0000000080000020F000000001A20000,
   0x00000000010000210000000008000000, 0x00000000810000000000000000040000, 0x00000080820000000000000000000000]

/-- A group of a portable kernel with the block at 0x10, its warp there, with f1 true in thread 0 alone. -/
def blockGroup (ops : List VosisOp) : Group :=
  let w := withV [(0, fun _ => 7), (1, fun _ => 5)]
  let w := { w with regs := w.regs.fSet 1 0xFFFFFFFF 1, threads := startThreads 32 32 0x10 }
  { placedGroup { placedKern 0 0 with ttrap := some 0x100, vver := 1, blocks := [(0x10, ops)] } with warps := [(0, w)] }
def onBlock (ops : List VosisOp) : State := stateOf (blockGroup ops) (.warp 0 0)

theorem test_block_formed : vBlockOk blockOps [0x10, 0x80] = true ∧ vBlockOk (blockOps.set 2 ((blockOps[4]?).getD 0)) [0x10, 0x80] = false := by
  decide +kernel
theorem test_block_select : vOf ((onBlock blockOps).runWarp 0 0) 2 0 = some 12 ∧ vOf ((onBlock blockOps).runWarp 0 0) 2 1 = some 7 ∧
    (warpOf ((onBlock blockOps).runWarp 0 0)).map (fun w => w.thread 5) = some (.live 0x80) := by decide +kernel

/-- v2 := v0, and TRAP 5 at the end. -/
def trapOps : List VosisOp :=
  [0x00000000800000204000000000000000, 0x00000000810000000000000000040000, 0x000000005200000000000000000A0000,
   0x00000080820000000000000000000000]
-- R406: nothing of the block is done, TPC is its offset, TINST the operation, and the warp goes on at the trap entry
theorem test_block_trap : vBlockOk trapOps [0x10, 0x80] = true ∧ vOf ((onBlock trapOps).runWarp 0 0) 2 0 = some 0 ∧
    (warpOf ((onBlock trapOps).runWarp 0 0)).map (fun w => (w.trap.tpc, w.trap.tinst, w.trap.tinst2, w.thread 5)) =
      some (0x10, 0xA0000, 0x52000000, .live 0x100) := by decide +kernel

/-! ### Witnesses: the whole machine -/

theorem wit_EncodingsAgree : (Instr.add { tw with dst := 2, srcb := 1 }).wf KernelCtx.full = true ∧
    encode (.add { tw with dst := 2, srcb := 1 }) ≠ .none ∧ (decode KernelCtx.full (encode (.add { tw with dst := 2, srcb := 1 }))).isSome = true := by
  decide +kernel

/-- Words in the lines of core 0's instruction cache that a stream's turn reads, as `withFetchWord` places them. -/
def codeAt (w : Nat) : State := State.reset.withFetchWord 64 w
theorem wit_StepRunsDecoded : (let s := codeAt 0x4002000081800000
    s.ctl.agenda = [.warp 0 0] ∧ s.fw.stopped = false ∧ (s.group? 0).any (fun g => g.started && g.frozenIO.isNone && decide (8 ≤ g.kern.tlen) &&
      (g.warp? 0).any fun w => w.parked.isNone && w.stopDue.isNone && w.pushDue.isNone && w.headRun == some (0, 0xFFFFFFFF)) = true ∧
    (SMap.find (s.core 0).l1i (iKey 0 0)).isSome = true ∧ (s.iWord 0 0 0 0 8).2.toOption = some 0x4002000081800000 ∧
    (decodeT ((placedKern 128 128).ctx 0) 0x4002000081800000 none).isOk = true ∧ (decodeT ((placedKern 128 128).ctx 0) 0 none).isOk = false) := by decide +kernel
theorem wit_StepRunsDecoded_long : (let s := State.reset.withFetchWord 128 (0x303E000701800011 + 0x1FFFEC <<< 64)
    tLen 0x303E000701800011 = 1 ∧ ((s.iWord 0 0 0 8 8).2.toOption = some 0x1FFFEC) ∧ (s.group? 0).any (fun g => decide (16 ≤ g.kern.tlen)) = true ∧
    (decodeT ((placedKern 128 128).ctx 0) 0x303E000701800011 (some 0x1FFFEC)).isOk = true) := by decide +kernel
theorem wit_StepRunsDecoded_a : (let s := State.reset.withFetchWord 32 0x28030004
    s.ctl.agenda = [.actx 0] ∧ (s.group? 0).any (fun g => g.a.parked.isNone && !g.a.ended && g.a.pushDue.isNone && g.a.mode == .running &&
      g.kern.aentry == some 0 && decide (4 ≤ g.kern.alen)) = true ∧ (s.iWord 0 0 0 0 4).2.toOption = some 0x28030004) := by decide +kernel
theorem wit_StepRunsDecoded_bundle : (let s := { onLine LineCore.zero with
      heads := [(0, { Head.zero with prog := leBytes 16 0x0C630010200202105801082A08101100 })], ctl := { Control.reset with agenda := [.line 0] } }
    (s.line 0).st = .running ∧ (s.line 0).spc.toNat + 16 ≤ (s.head 0).prog.length ∧ (decodeBundle 0x0C630010200202105801082A08101100).isSome = true ∧
    decodeBundle 0x0C6300102002021020020210_08101100 = none) := by decide +kernel
theorem wit_StepRunsDecoded_word : (let s := { onQi { run0 with prog := some { words := [0x11E4, 0x9800], windows := [] } } with ctl := { Control.reset with agenda := [.qi] } }
    s.qi.run.any fun r => (r.words[r.pc]?).any fun w => (decodeQ w).isSome) = true ∧ (decodeQ 0x9800).isNone = true := by decide +kernel
theorem wit_StepRunsDecoded_command : (let s := { M 0 64 (List.replicate 8 0) id with ctl := { Control.reset with agenda := [.command 0 0, .event .powerMeasure EventArg.zero] } }
    s.qi.issued.any fun p => p.id == 0 && p.cmds.length == 1 && s.cmdMay p 0) = true := by decide +kernel
/-- The environment of a block's first turn; each value of it is supplied by an earlier operation. -/
def envOf (ops : List VosisOp) : BlockEnv :=
  { uid := 0, slot := 0, run := 0xFFFFFFFF, parts := 0xFFFFFFFF, ops := ops, ctx := { (blockGroup ops).kern.ctx 0 with vregs := 128, sregs := 64 } }
def supplied (x : BlockEnv) : Bool := (List.range x.ops.length).all fun i => (List.range 4).all fun n => (x.supplier i n).all fun j =>
  decide (j < i) && vOp (x.op j) != 0x81 && vOp (x.op j) != 0x82
/-- v2 := v0 divided by 2, or its remainder. -/
def divOps (rem : Bool) : List VosisOp :=
  [0x00000000800000204000000000000000, 0x000000020A0000208040000000000000#128 + (if rem then 1 <<< 88 else 0), 0x00000000810000000000000000040000,
   0x00000080820000000000000000000000]
theorem wit_StepRunsDecoded_block : [blockOps, divOps false].all (fun l => supplied (envOf l) && decide (l.length ≤ 128) &&
      ((envOf l).all (onBlock l) []).stop.isNone && ((onBlock l).group? 0).any fun g => (g.warp? 0).isSome) = true := by decide +kernel
theorem wit_StepRunsDecoded_block_run : [blockOps, divOps false].all (fun l => ((onBlock l).group? 0).any fun g => (g.warp? 0).any fun w =>
      (SMap.find g.kern.blocks 0x10).isSome && w.mode == .running && !g.stopsHere 0 w && w.block.isNone && g.uid == 0 && !w.inHandler &&
      (List.range 32).all fun th => w.thread th == .live 0x10 && ((List.range l.length).filter fun i => vOp ((envOf l).op i) == 0x82 && decide (vMod ((envOf l).op i) < 2)).length == 1) = true ∧
    (match ((envOf trapOps).all (onBlock trapOps) []).stop with | some (.trap i c v) => i == 2 && c == .trap && v == 5 | _ => false) = true := by decide +kernel
theorem wit_StepRunsDecoded_block_read : (let k : BlockRun := { s := onBlock blockOps, vals := [], stop := none }
    ((k.s.group? 0).bind fun g => g.warp? 0).isSome && [0, 2].all fun i => vOp ((envOf blockOps).op i) == 0x80) = true := by decide +kernel
theorem wit_StepRunsDecoded_block_divide : [false, true].all (fun rem =>
    let x := envOf (divOps rem)
    let k := x.perform { s := onBlock (divOps rem), vals := [], stop := none } 0
    k.stop.isNone && vOp (x.op 1) == (if rem then 0x0B else 0x0A) && (tShape (vOp (x.op 1)) (vWord (x.op 1))).isSome &&
      ((x.input k 1 0).poison ||| (x.input k 1 1).poison ||| (x.input k 1 2).poison) == 0 && (x.fires k 1) == 0xFFFFFFFF) = true := by decide +kernel
theorem wit_StepRunsDecoded_block_exec : (let x := envOf blockOps
    let k := [0, 1, 2].foldl x.perform { s := onBlock blockOps, vals := [], stop := none }
    let o := x.op 3
    k.stop.isNone && (tShape (vOp o) (vWord o)).any fun sh => !sh.emul && !crossesLanes (vOp o) && (tCheck x.ctx (vOp o) { blockWord o sh with pred := 7 }).isNone &&
      (Instr.ofT (vOp o) (blockWord o sh)).any fun ins => (k.s.group? 0).any fun g => (g.warp? 0).any fun w =>
        let own := blockRegs (x.input k 3 0) (x.input k 3 1) (x.input k 3 2) (x.fires k 3) (w.regs.fGet (vMod o % 8))
        let u := k.s.setGroup (g.setWarp 0 { w with safecnt := 0, regs := own })
        (next? (exec ins { u with ctl := { u.ctl with inBlock := true, wait := false, blockTrap := none } })).any fun t =>
          t.ctl.blockTrap.isNone && !t.ctl.wait && ((t.group? 0).bind fun g => g.warp? 0).any fun w => w.parked.isNone) = true := by decide +kernel
/-- A turn of a warp in a portable kernel; one of a part whose core clk is stopped; and a word that memory holds anew. -/
theorem wit_StepRunsDecoded_portable : (let s := onBlock blockOps
    (s.group? 0).any fun g => g.started && g.frozenIO.isNone && g.kern.vver != 0 && (g.warp? 0).any fun w =>
      w.parked.isNone && w.stopDue.isNone && w.pushDue.isNone && w.headRun == some (0x10, 0xFFFFFFFF)) = true ∧
    (Turn.warp 0 0).byCoreClk = true := by decide +kernel
theorem wit_StepRunsDecoded_word_free : (let s := { mapped with mem := [(0x100000, 1), (0x100003, 0x11), (0x110000, 0x3F), (0x110005, 1)], cores := [(0, { core0 with l1i := [(iKey 16 0, 0x1234)] })] }
    (SMap.find (s.core 0).l1i (iKey 16 0)).isSome && (s.newWord 1 16 0 8).isSome && s.newWord 1 16 0 8 != some (lineNat 0x1234 0 8)) = true := by decide +kernel

theorem reset_canonical : State.reset.canonical := rfl
theorem reset_keyed : State.reset.keyed :=
  { groups := rfl, uid := fun _ _ h => (by cases h), grids := rfl, num := fun _ _ h => (by cases h), saved := rfl,
    savedUid := fun _ _ h => (by cases h), rings := rfl, frame := rfl, ringp := rfl }
theorem wit_StepKeepsMemory : (codeAt 0x4002000081800000).canonical ∧ (next? (step (codeAt 0x4002000081800000))).isSome = true :=
  ⟨rfl, by decide +kernel⟩
theorem wit_StepKeepsRecords : (codeAt 0x4002000081800000).keyed ∧ (next? (step (codeAt 0x4002000081800000))).isSome = true := by
  have g (u : Nat) (x : Group) (h : (codeAt 0x4002000081800000).group? u = some x) : u = 0 ∧ x.uid = 0 ∧ SMap.wf 0 x.smem = true := by
    have h' : (if 0 = u then some (placedGroup (placedKern 16 0)) else none) = some x := h
    split at h'
    · rename_i e
      obtain rfl := Option.some.inj h'
      exact ⟨e.symm, rfl, rfl⟩
    · cases h'
  exact ⟨{ groups := rfl, uid := fun u x h => by obtain ⟨rfl, a, b⟩ := g u x h; exact ⟨a, b⟩, grids := rfl, num := fun _ _ h => (by cases h),
           saved := rfl, savedUid := fun _ _ h => (by cases h), rings := rfl, frame := rfl, ringp := rfl }, by decide +kernel⟩

end Sys2Proof.Tests
end

section
/-!
SUPPORT. Memory keeps its canonical form (O59), part 1: memory and its caches.

The proof follows the model's files. A function that leaves memory alone has a frame lemma `f_mem`; one that may write it has a
lemma `wf_f`, that memory stays canonical; a meaning or a turn, which answers an outcome, has a lemma `f_wf`, that the state which
its answer carries, where it carries one, has canonical memory. Every byte is written by `memPut` or dropped by `memZero`.
-/

namespace Sys2Proof.Laws

open Sys2Proof.Machine

/-- What each round of a loop keeps, the loop keeps. -/
theorem wf_foldl {α : Type} {f : State → α → State} (hf : ∀ s x, Memory.wf s.mem → Memory.wf (f s x).mem) (l : List α)
    {s : State} (h : Memory.wf s.mem) : Memory.wf (l.foldl f s).mem :=
  List.foldlRecOn (motive := fun s : State => Memory.wf s.mem = true) l f h fun s hs x _ => hf s x hs

theorem wf_foldl_fst {α β : Type} {f : State × β → α → State × β}
    (hf : ∀ r x, Memory.wf r.1.mem → Memory.wf (f r x).1.mem) (l : List α) {r : State × β} (h : Memory.wf r.1.mem) :
    Memory.wf (l.foldl f r).1.mem :=
  List.foldlRecOn (motive := fun r : State × β => Memory.wf r.1.mem = true) l f h fun r hr x _ => hf r x hr

@[simp] theorem foldl_mem {α : Type} {f : State → α → State} (hf : ∀ s x, (f s x).mem = s.mem) (l : List α) (s : State) :
    (l.foldl f s).mem = s.mem :=
  List.foldlRecOn (motive := fun t : State => t.mem = s.mem) l f rfl fun t ht x _ => (hf t x).trans ht

@[simp] theorem foldl_fst_mem {α β : Type} {f : State × β → α → State × β} (hf : ∀ r x, (f r x).1.mem = r.1.mem) (l : List α)
    (r : State × β) : (l.foldl f r).1.mem = r.1.mem :=
  List.foldlRecOn (motive := fun t : State × β => t.1.mem = r.1.mem) l f rfl fun t ht x _ => (hf t x).trans ht

@[simp] theorem mem_ite (c : Prop) [Decidable c] (s t : State) : (if c then s else t).mem = if c then s.mem else t.mem := by
  split <;> rfl

theorem wf_mem_ite {c : Prop} [Decidable c] {s t : State} (hs : Memory.wf s.mem) (ht : Memory.wf t.mem) :
    Memory.wf (if c then s else t).mem := by
  split
  · exact hs
  · exact ht

@[simp] theorem fst_ite_mem {β : Type} (c : Prop) [Decidable c] (x y : State × β) :
    (if c then x else y).1.mem = if c then x.1.mem else y.1.mem := by
  split <;> rfl

@[simp] theorem wf_ite (c : Prop) [Decidable c] (m n : List Host.Cell) :
    Memory.wf (if c then m else n) = if c then Memory.wf m else Memory.wf n := by
  split <;> rfl

@[simp] theorem closeWalks_mem (s : State) (gone : Turn → Bool) : (s.closeWalks gone).mem = s.mem := rfl
@[simp] theorem freeNat_mem (s : State) : s.freeNat.1.mem = s.mem := rfl
@[simp] theorem unmarkLine_mem (s : State) (ln : Nat) (m : BitVec 128) : (s.unmarkLine ln m).mem = s.mem := rfl

@[simp] theorem oldOrNew_mem (s : State) (old : SMap Byte) (a n v : Nat) : (s.oldOrNew old a n v).1.mem = s.mem := by
  unfold State.oldOrNew
  split <;> rfl

@[simp] theorem countComp_mem (s : State) (t d : Nat) (comp : Bool) (x : BitVec 1024) (full : Bool) :
    (s.countComp t d comp x full).mem = s.mem := by
  unfold State.countComp
  split <;> rfl

@[simp] theorem fillTlbs_mem (s : State) (c asid va : Nat) (r : WalkResult) (die : Bool) :
    (s.fillTlbs c asid va r die).1.mem = s.mem := by
  unfold State.fillTlbs
  cases r with
  | fault k => rfl
  | leaf pte size => cases die <;> rfl

@[simp] theorem translate_mem (s : State) (c tn asid va : Nat) : (s.translate c tn asid va).1.mem = s.mem := by
  unfold State.translate
  simp only
  split
  · rfl
  · split
    · simp
    · split <;> simp

@[simp] theorem touch_mem (s : State) (pa n : Nat) : (s.touch pa n).mem = s.mem := by
  unfold State.touch
  split
  · rfl
  · split <;> rfl

@[simp] theorem noteReader_mem (s : State) (c ln : Nat) : (s.noteReader c ln).mem = s.mem := by
  simp [State.noteReader]

@[simp] theorem acquire_mem (s : State) (c sc : Nat) : (s.acquire c sc).mem = s.mem := by
  simp [State.acquire]

@[simp] theorem wf_homeWrite {s : State} (ln : Nat) (mask : BitVec 128) (x : BitVec 1024) (h : Memory.wf s.mem) :
    Memory.wf (s.homeWrite ln mask x).mem := wf_homeStore ln mask x h

@[simp] theorem wf_heat {s : State} (t pa : Nat) (h : Memory.wf s.mem) : Memory.wf (s.heat t pa).mem := by
  unfold State.heat
  split
  · exact h
  · exact wf_heatMem _ h

@[simp] theorem wf_homeMiss {s : State} (t pa : Nat) (h : Memory.wf s.mem) : Memory.wf (s.homeMiss t pa).mem := by
  simp [State.homeMiss, h]

@[simp] theorem wf_devLine {s : State} (t k ln : Nat) (h : Memory.wf s.mem) : Memory.wf (s.devLine t k ln).1.mem := by
  unfold State.devLine
  simp only
  split_ifs <;> simp [h]

@[simp] theorem wf_devStore {s : State} (k ln : Nat) (mask : BitVec 128) (x : BitVec 1024) (h : Memory.wf s.mem) :
    Memory.wf (s.devStore k ln mask x).mem := by
  simp [State.devStore, h]

@[simp] theorem wf_fillDie {s : State} (t d ln : Nat) (comp : Bool) (h : Memory.wf s.mem) :
    Memory.wf (s.fillDie t d ln comp).1.mem := by
  unfold State.fillDie
  simp only
  split_ifs <;> simp [h]

@[simp] theorem wf_beyondL1 {s : State} (c t ln : Nat) (p : Page) (h : Memory.wf s.mem) :
    Memory.wf (s.beyondL1 c t ln p).1.mem := by
  unfold State.beyondL1
  split_ifs <;> simp [h]

@[simp] theorem wf_writeThrough {s : State} (c k ln : Nat) (mask : BitVec 128) (x : BitVec 1024) (h : Memory.wf s.mem) :
    Memory.wf (s.writeThrough c k ln mask x).mem := by
  simp [State.writeThrough, h]

@[simp] theorem wf_dieStore {s : State} (c k ln : Nat) (comp : Bool) (mask : BitVec 128) (x : BitVec 1024)
    (h : Memory.wf s.mem) : Memory.wf (s.dieStore c k ln comp mask x).mem := by
  simp [State.dieStore, h]

@[simp] theorem wf_flushL1Line {s : State} (t c ln sc : Nat) (h : Memory.wf s.mem) :
    Memory.wf (s.flushL1Line t c ln sc).mem := by
  simp [State.flushL1Line, h]

@[simp] theorem wf_flushDieLine {s : State} (d ln : Nat) (h : Memory.wf s.mem) : Memory.wf (s.flushDieLine d ln).mem := by
  simp [State.flushDieLine, h]

@[simp] theorem wf_release {s : State} (t c sc : Nat) (h : Memory.wf s.mem) : Memory.wf (s.release t c sc).mem := by
  have h1 : Memory.wf (((s.core c).l1.map Prod.fst).foldl (fun s ln => s.flushL1Line t c ln sc) s).mem :=
    wf_foldl (fun _ _ => wf_flushL1Line _ _ _ _) _ h
  unfold State.release
  simp only
  split_ifs
  · exact h
  · exact h1
  · exact wf_foldl (fun _ _ => wf_flushDieLine _ _) _ h1

@[simp] theorem wf_passDie {s : State} (d ln : Nat) (h : Memory.wf s.mem) : Memory.wf (s.passDie d ln).mem := by
  simp [State.passDie, h]

@[simp] theorem wf_gLoad {s : State} (c t sc : Nat) (p : Page) (n : Nat) (h : Memory.wf s.mem) :
    Memory.wf (s.gLoad c t sc p n).1.mem := by
  have hf : Memory.wf ((s.touch p.pa n).flushL1Line t c (p.pa / 128) sc).mem := wf_flushL1Line _ _ _ _ (by simpa using h)
  unfold State.gLoad
  simp only
  split_ifs <;> simp [h, hf]

@[simp] theorem wf_gStore {s : State} (c t sc : Nat) (p : Page) (n v : Nat) (h : Memory.wf s.mem) :
    Memory.wf (s.gStore c t sc p n v).mem := by
  simp [State.gStore, h]

@[simp] theorem wf_gAtomic {s : State} (c t sc : Nat) (p : Page) (n : Nat) (f : Nat → Nat) (h : Memory.wf s.mem) :
    Memory.wf (s.gAtomic c t sc p n f).1.mem := by
  have hf : Memory.wf ((s.touch p.pa n).flushL1Line t c (p.pa / 128) sc).mem := wf_flushL1Line _ _ _ _ (by simpa using h)
  unfold State.gAtomic
  simp only
  have hp : Memory.wf (((s.touch p.pa n).flushL1Line t c (p.pa / 128) sc).setL1Line c (p.pa / 128) Line.none).mem := by
    simpa using hf
  generalize ((s.touch p.pa n).flushL1Line t c (p.pa / 128) sc).setL1Line c (p.pa / 128) Line.none = u at hp
  split_ifs
  · simp [h]
  all_goals simp (disch := simp [hp])

@[simp] theorem wf_devRead {s : State} (t : Nat) (p : Page) (n : Nat) (h : Memory.wf s.mem) :
    Memory.wf (s.devRead t p n).1.mem := wf_devLine _ _ _ h

@[simp] theorem wf_devWrite {s : State} (p : Page) (n v : Nat) (h : Memory.wf s.mem) : Memory.wf (s.devWrite p n v).mem :=
  wf_devStore _ _ _ _ h

@[simp] theorem wf_vaRead {s : State} (t asid va n : Nat) (need : Need) (h : Memory.wf s.mem) :
    Memory.wf (s.vaRead t asid va n need).1.mem := by
  refine wf_foldl_fst (fun r i hr => ?_) _ h
  split
  · exact hr
  · split <;> simp [hr]

@[simp] theorem wf_vaNat {s : State} (t asid va n : Nat) (need : Need) (h : Memory.wf s.mem) :
    Memory.wf (s.vaNat t asid va n need).1.mem := wf_vaRead _ _ _ _ _ h

theorem wf_foldl_option {α : Type} {f : Option State → α → Option State}
    (hf : ∀ o x, (∀ t ∈ o, Memory.wf t.mem) → ∀ t ∈ f o x, Memory.wf t.mem) (l : List α) {o : Option State}
    (h : ∀ t ∈ o, Memory.wf t.mem) : ∀ t ∈ l.foldl f o, Memory.wf t.mem :=
  List.foldlRecOn (motive := fun o : Option State => ∀ t ∈ o, Memory.wf t.mem = true) l f h fun o ho x _ => hf o x ho

theorem wf_vaWrite {s t : State} {asid va : Nat} {need : Need} {bs : List Byte} (h : Memory.wf s.mem)
    (ht : s.vaWrite asid va need bs = some t) : Memory.wf t.mem := by
  refine wf_foldl_option (fun o b ho t ht => ?_) _ (fun t ht => ?_) t ht
  · obtain ⟨u, hu, hw⟩ := Option.mem_bind_iff.1 ht
    obtain ⟨p, -, rfl⟩ := Option.map_eq_some_iff.1 hw
    exact wf_devWrite _ _ _ (ho u hu)
  · obtain rfl := Option.some.inj ht
    exact h

end Sys2Proof.Laws

end

section
/-!
SUPPORT. Memory keeps its canonical form, part 2: the operations that the agents share.
-/

namespace Sys2Proof.Laws

open Sys2Proof.Machine

@[simp] theorem spPuts_mem (s : State) (uid a : Nat) (bs : List Byte) : (s.spPuts uid a bs).mem = s.mem := by
  induction bs generalizing s a with
  | nil => rfl
  | cons b bs ih =>
    unfold State.spPuts
    split
    · rfl
    · rw [ih]
      split <;> rfl

@[simp] theorem wf_gStoreList {s : State} (c t sc : Nat) (p : Page) (bs : List Byte) (h : Memory.wf s.mem) :
    Memory.wf (s.gStoreList c t sc p bs).mem :=
  wf_foldl (fun _ _ => wf_gStore _ _ _ _ _ _) _ h

@[simp] theorem wf_gLoadList {s : State} (c t sc : Nat) (p : Page) (n : Nat) (h : Memory.wf s.mem) :
    Memory.wf (s.gLoadList c t sc p n).1.mem := by
  refine wf_foldl_fst (fun r i hr => ?_) _ h
  exact wf_gLoad _ _ _ _ _ hr

@[simp] theorem returnWeight_mem (s : State) (graph w : Nat) : (s.returnWeight graph w).mem = s.mem := by
  unfold State.returnWeight
  split
  · rfl
  · simp

@[simp] theorem finishPacket_mem (s : State) (p : Issued) : (s.finishPacket p).mem = s.mem := by
  unfold State.finishPacket
  simp only
  split
  · split <;> simp
  · rfl

@[simp] theorem cmdUpdate_mem (s : State) (id : Nat) (f : Issued → Issued) : (s.cmdUpdate id f).mem = s.mem := by
  unfold State.cmdUpdate
  split <;> simp

@[simp] theorem endGrid_mem (s : State) (num : Nat) (fail : Option Nat) : (s.endGrid num fail).mem = s.mem := by
  unfold State.endGrid
  split
  · rfl
  · split <;> simp

@[simp] theorem dropGroup_mem (s : State) (uid : Nat) : (s.dropGroup uid).mem = s.mem := by
  unfold State.dropGroup
  split <;> rfl

@[simp] theorem killGrid_mem (s : State) (num : Nat) (fail : Option Nat) : (s.killGrid num fail).mem = s.mem := by
  unfold State.killGrid
  simp only [endGrid_mem]
  rw [foldl_mem (fun s p => by split <;> rfl)]
  simp

@[simp] theorem wf_gridFault {s : State} (g : Group) (slot code dcause : Nat) (tpc : Word) (tval : DWord) (nested : Bool)
    (h : Memory.wf s.mem) : Memory.wf (s.gridFault g slot code dcause tpc tval nested).mem := by
  simp [State.gridFault, h]

@[simp] theorem wroteOne_mem (s : State) (uid : Nat) (p : Page) (n : Nat) : (s.wroteOne uid p n).mem = s.mem := by
  simp [State.wroteOne]

@[simp] theorem semSet_mem (s : State) (c idx : Nat) (v : Word) : (s.semSet c idx v).mem = s.mem := rfl

@[simp] theorem queueFault_mem (s : State) (g : Group) (va cause agent : Nat) :
    (s.queueFault g va cause agent).mem = s.mem := rfl

@[simp] theorem wf_tTrap {s : State} (g : Group) (slot : Nat) (w : Warp) (run : BitVec 32) (pc op mod : Nat) (w0 w1 : DWord)
    (cause : Cause) (tval : DWord) (h : Memory.wf s.mem) :
    Memory.wf (s.tTrap g slot w run pc op mod w0 w1 cause tval).mem := by
  unfold State.tTrap
  simp only
  split
  · simp [h]
  · split
    · simp [h]
    · split
      · simp [h]
      · split <;> simp [h]

@[simp] theorem wf_aTrap {s : State} (g : Group) (a : ACtx) (op : Nat) (pre imm inst : Word) (cause : Cause) (tval : DWord)
    (h : Memory.wf s.mem) : Memory.wf (s.aTrap g a op pre imm inst cause tval).mem := by
  unfold State.aTrap
  simp only
  split
  · simp [h]
  · split
    · simp [h]
    · split
      · simp [h]
      · split <;> simp [h]

@[simp] theorem settleCl_mem (s : State) (g : Group) (i : Nat) : (s.settleCl g i).mem = s.mem := by
  simp [State.settleCl]

@[simp] theorem settleGd_mem (s : State) (num i : Nat) : (s.settleGd num i).mem = s.mem := by
  unfold State.settleGd
  simp only
  split <;> simp

@[simp] theorem settleAll_mem (s : State) (uid : Nat) : (s.settleAll uid).mem = s.mem := by
  unfold State.settleAll
  split
  · rfl
  · cases s.group? uid <;> simp

end Sys2Proof.Laws

end

section
/-!
SUPPORT. Memory keeps its canonical form, part 3: what an answer carries, and the issue of a T and of an A instruction.
-/

namespace Sys2Proof.Machine

/-- The state that an answer of a T meaning carries has canonical memory. -/
def TRes.Wf : TRes → Prop
  | .trapAt s _ _ | .begun s _ | .park s _ _ _ | .ok s _ _ | .late s _ => Memory.wf s.mem
  | .trap _ _ | .trapIn _ _ _ | .wait _ | .held => True

/-- The state that an answer of an A meaning carries has canonical memory. -/
def ARes.Wf : ARes → Prop
  | .trapAt s _ _ | .park s _ _ | .ok s _ _ _ => Memory.wf s.mem
  | .trap _ _ | .wait _ => True

end Sys2Proof.Machine

namespace Sys2Proof.Laws

open Sys2Proof.Machine

/-- Memory of the next state, where there is one. -/
def nextMem : Host.Outcome State Fault Refusal → List Host.Cell
  | .next t => t.mem
  | .fault _ | .refused _ => []

/-- Memory is canonical in the next state, where there is one. -/
def NextWf (r : Host.Outcome State Fault Refusal) : Prop := Memory.wf (nextMem r)

@[simp] theorem nextWf_next (t : State) : NextWf (.next t) = (Memory.wf t.mem = true) := rfl
@[simp] theorem nextWf_fault (r : Fault) : NextWf (.fault r) = True := eq_true rfl
@[simp] theorem nextWf_refused (r : Refusal) : NextWf (.refused r) = True := eq_true rfl
@[simp] theorem nextWf_notDue (s : State) : NextWf s.notDue = (Memory.wf s.mem = true) := rfl

@[simp] theorem nextWf_ite (c : Prop) [Decidable c] (a b : Host.Outcome State Fault Refusal) :
    NextWf (if c then a else b) = if c then NextWf a else NextWf b := by split <;> rfl

/-! ### The issue of a T instruction -/

@[simp] theorem tWf_trap (c : Cause) (v : DWord) : (TRes.trap c v).Wf = True := rfl
@[simp] theorem tWf_trapIn (m : BitVec 32) (c : Cause) (v : DWord) : (TRes.trapIn m c v).Wf = True := rfl
@[simp] theorem tWf_trapAt (s : State) (c : Cause) (v : DWord) : (TRes.trapAt s c v).Wf = (Memory.wf s.mem = true) := rfl
@[simp] theorem tWf_wait (w : Warp) : (TRes.wait w).Wf = True := rfl
@[simp] theorem tWf_held : TRes.held.Wf = True := rfl
@[simp] theorem tWf_begun (s : State) (w : Warp) : (TRes.begun s w).Wf = (Memory.wf s.mem = true) := rfl
@[simp] theorem tWf_park (s : State) (va k a : Nat) : (TRes.park s va k a).Wf = (Memory.wf s.mem = true) := rfl
@[simp] theorem tWf_ok (s : State) (w : Warp) (red : BitVec 32) : (TRes.ok s w red).Wf = (Memory.wf s.mem = true) := rfl
@[simp] theorem tWf_late (s : State) (w : Warp) : (TRes.late s w).Wf = (Memory.wf s.mem = true) := rfl

@[simp] theorem tWf_ite (c : Prop) [Decidable c] (a b : TRes) : (if c then a else b).Wf = if c then a.Wf else b.Wf := by
  split <;> rfl

theorem tEnv_s {s : State} {op : Nat} {i : TWord} {e : TEnv} (h : s.tEnv op i = some e) : e.s = s := by
  unfold State.tEnv at h
  split at h
  · split at h
    · cases h
    · split at h
      · cases h
      · split at h <;> cases h
        rfl
  · cases h

theorem tPopped_s {e0 e : TEnv} (h : e0.popped = some e) : e.s = e0.s := by
  unfold TEnv.popped at h
  split at h
  · cases h; rfl
  · split at h
    · cases h; rfl
    · split at h <;> cases h
      rfl

@[simp] theorem pushDone_mem (s : State) (uid slot q : Nat) : (s.pushDone uid slot q).mem = s.mem := by
  unfold State.pushDone
  split
  · rfl
  · split
    · rfl
    · split
      · rfl
      · split <;> rfl

@[simp] theorem tBase_mem (e : TEnv) : e.base.mem = e.s.mem := rfl

@[simp] theorem tKept_mem (e : TEnv) (s : State) (w : Warp) : (e.kept s w).mem = s.mem := setWarp_mem _ _ _ _

@[simp] theorem tFinish_mem (e : TEnv) (s : State) (w : Warp) (red : BitVec 32) : (e.finish s w red).mem = s.mem := by
  simp [TEnv.finish]

@[simp] theorem wf_tEnvTrap {e : TEnv} (c : Cause) (tval : DWord) (h : Memory.wf e.s.mem) : Memory.wf (e.trap c tval).mem := by
  unfold TEnv.trap
  simp only
  split
  · exact h
  · exact wf_tTrap _ _ _ _ _ _ _ _ _ _ _ h

theorem wf_tConclude {e : TEnv} {r : TRes} (h : Memory.wf e.s.mem) (hr : r.Wf) : Memory.wf (e.conclude r).mem := by
  cases r <;> simp_all [TEnv.conclude]

/-- A T instruction keeps memory canonical where its body does: popping and trapping do. -/
theorem tIssue_wf {op : Nat} {i : TWord} {s : State} {body : TEnv → TRes} (h : Memory.wf s.mem)
    (hb : ∀ e : TEnv, Memory.wf e.s.mem → (body e).Wf) : NextWf (tIssue op i s body) := by
  unfold tIssue
  split
  · trivial
  · rename_i e0 he0
    split
    · simpa using h
    · rename_i e he
      have hs : Memory.wf e.s.mem := by rw [tPopped_s he, tEnv_s he0]; exact h
      split
      · simpa using h
      · rw [nextWf_next]
        split
        · exact wf_tEnvTrap _ _ hs
        · exact wf_tConclude hs (hb e hs)

@[simp] theorem resultOf_wf {e : TEnv} (pm : BitVec 32) (n : Nat) (v : Nat → BitVec 128) (bad : Nat → Option Nat)
    (h : Memory.wf e.s.mem) : (e.resultOf pm n v bad).Wf := by
  unfold TEnv.resultOf
  simp only
  split
  · trivial
  · split
    · split <;> trivial
    · exact h

@[simp] theorem result_wf {e : TEnv} (n : Nat) (v : Nat → BitVec 128) (bad : Nat → Option Nat) (h : Memory.wf e.s.mem) :
    (e.result n v bad).Wf := resultOf_wf _ _ _ _ h

theorem onto_wf {r : TRes} {s : State} (hr : r.Wf) (h : Memory.wf s.mem) : (r.onto s).Wf := by
  cases r <;> simp_all [TRes.onto]

theorem tAlu_wf {op : Nat} {i : TWord} {s : State} (f : TEnv → Nat → Word) (h : Memory.wf s.mem) : NextWf (tAlu op i s f) :=
  tIssue_wf h fun _ => result_wf _ _ _

theorem tAlu64_wf {op : Nat} {i : TWord} {s : State} (f : TEnv → Nat → DWord) (h : Memory.wf s.mem) :
    NextWf (tAlu64 op i s f) := tIssue_wf h fun _ => result_wf _ _ _

theorem tCond_wf {op : Nat} {i : TWord} {s : State} (f : TEnv → Nat → Bool) (h : Memory.wf s.mem) : NextWf (tCond op i s f) := by
  refine tIssue_wf h fun e he => ?_
  split
  · simp only
    split
    · trivial
    · exact he
  · exact result_wf _ _ _ he

theorem tEmul_wf {op : Nat} {i : TWord} {s : State} (h : Memory.wf s.mem) : NextWf (tEmul op i s) := by
  unfold tEmul
  split
  · trivial
  · rename_i e he
    exact wf_tEnvTrap _ _ (by rw [tEnv_s he]; exact h)

/-! ### The issue of an A instruction -/

@[simp] theorem aWf_trap (c : Cause) (v : DWord) : (ARes.trap c v).Wf = True := rfl
@[simp] theorem aWf_trapAt (s : State) (c : Cause) (v : DWord) : (ARes.trapAt s c v).Wf = (Memory.wf s.mem = true) := rfl
@[simp] theorem aWf_wait (a : ACtx) : (ARes.wait a).Wf = True := rfl
@[simp] theorem aWf_park (s : State) (va k : Nat) : (ARes.park s va k).Wf = (Memory.wf s.mem = true) := rfl
@[simp] theorem aWf_ok (s : State) (a : ACtx) (v : Word) (j : Bool) : (ARes.ok s a v j).Wf = (Memory.wf s.mem = true) := rfl

@[simp] theorem aWf_ite (c : Prop) [Decidable c] (a b : ARes) : (if c then a else b).Wf = if c then a.Wf else b.Wf := by
  split <;> rfl

theorem aEnv_s {s : State} {op : Nat} {p : Option APrefix} {i : AWord} {e : AEnv} (h : s.aEnv op p i = some e) : e.s = s := by
  unfold State.aEnv at h
  split at h
  · split at h
    · cases h
    · split at h <;> cases h
      rfl
  · cases h

@[simp] theorem aAcquired_mem (e : AEnv) (v : Word) : (e.acquired v).mem = e.s.mem := by
  unfold AEnv.acquired
  split
  · split <;> simp
  · rfl

theorem aPopped_mem {e0 e : AEnv} (h : e0.popped = some e) : e.s.mem = e0.s.mem := by
  unfold AEnv.popped at h
  split at h
  · cases h; rfl
  · split at h
    · cases h; rfl
    · split at h <;> cases h
      exact aAcquired_mem _ _

@[simp] theorem aPush_mem (s : State) (uid q : Nat) (v : Word) : (s.aPush uid q v).mem = s.mem := by
  unfold State.aPush
  split
  · rfl
  · split
    · rfl
    · split <;> rfl

@[simp] theorem aBase_mem (e : AEnv) : e.base.mem = e.s.mem := rfl

@[simp] theorem aFinish_mem (e : AEnv) (s : State) (a : ACtx) (v : Word) (jumped : Bool) : (e.finish s a v jumped).mem = s.mem := by
  simp [AEnv.finish]

@[simp] theorem wf_aEnvTrap {e : AEnv} (c : Cause) (tval : DWord) (h : Memory.wf e.s.mem) : Memory.wf (e.trap c tval).mem :=
  wf_aTrap _ _ _ _ _ _ _ _ h

@[simp] theorem wf_aTrapOf {s : State} (uid : Nat) (e : AEnv) (c : Cause) (tval : DWord) (h : Memory.wf s.mem) :
    Memory.wf (s.aTrapOf uid e c tval).mem := by
  unfold State.aTrapOf
  split
  · exact h
  · exact wf_aEnvTrap _ _ h

theorem wf_aConclude {e : AEnv} {r : ARes} (h : Memory.wf e.s.mem) (hr : r.Wf) : Memory.wf (e.conclude r).mem := by
  cases r <;> simp_all [AEnv.conclude]

theorem tokenFault_mem {e : AEnv} {x : State × Cause × DWord} (h : e.tokenFault = some x) : x.1.mem = e.s.mem := by
  unfold AEnv.tokenFault at h
  split at h
  · cases h
  · split at h
    · cases h; rfl
    · split at h <;> cases h
      rfl

theorem wf_issue {e0 e : AEnv} {r : ARes} (h0 : Memory.wf e0.s.mem) (h : Memory.wf e.s.mem) (hr : r.Wf) :
    Memory.wf (e0.issue e r).mem := by
  unfold AEnv.issue
  split
  · exact wf_aConclude h0 hr
  · split
    · exact wf_aEnvTrap _ _ h
    · split
      · rename_i s' c v ht
        exact wf_aEnvTrap _ _ (by rw [show s'.mem = e.s.mem from tokenFault_mem ht]; exact h)
      · exact wf_aConclude h hr

/-- An A instruction keeps memory canonical where its body does: popping, its acquire and trapping do. -/
theorem aIssue_wf {op : Nat} {p : Option APrefix} {i : AWord} {s : State} {body : AEnv → ARes} (h : Memory.wf s.mem)
    (hb : ∀ e : AEnv, Memory.wf e.s.mem → (body e).Wf) : NextWf (aIssue op p i s body) := by
  unfold aIssue
  split
  · trivial
  · rename_i e0 he0
    have h0 : Memory.wf e0.s.mem := by rw [aEnv_s he0]; exact h
    split
    · simpa using h
    · rename_i e he
      have hs : Memory.wf e.s.mem := by rw [aPopped_mem he]; exact h0
      exact wf_issue h0 hs (hb e hs)

theorem aAlu_wf {op : Nat} {p : Option APrefix} {i : AWord} {s : State} (f : AEnv → DWord) (h : Memory.wf s.mem) :
    NextWf (aAlu op p i s f) := aIssue_wf h fun _ he => he

end Sys2Proof.Laws

end

section
/-!
SUPPORT. Memory keeps its canonical form, part 4: the T stream.
-/

namespace Sys2Proof.Laws

open Sys2Proof.Machine

/-! ### Stopping a warp -/

@[simp] theorem wf_stopWarp {s : State} (g : Group) (slot : Nat) (w : Warp) (entry : Nat) (h : Memory.wf s.mem) :
    Memory.wf (s.stopWarp g slot w entry).mem := by
  unfold State.stopWarp
  simp only
  split
  · simp [h]
  · split <;> simp [h]

@[simp] theorem wf_maybeStop {s : State} (uid slot : Nat) (sync : Bool) (h : Memory.wf s.mem) :
    Memory.wf (s.maybeStop uid slot sync).mem := by
  unfold State.maybeStop
  split
  · exact h
  · split
    · exact h
    · split
      · split
        · exact wf_stopWarp _ _ _ _ h
        · exact h
      · exact h

@[simp] theorem wf_stopAt {s : State} (uid slot n : Nat) (h : Memory.wf s.mem) : Memory.wf (s.stopAt uid slot n).mem := by
  unfold State.stopAt
  split
  · exact h
  · split
    · exact h
    · simp [h]

/-! ### Program counters, lanes and barriers -/

@[simp] theorem afterThreads_mem (s : State) (uid slot : Nat) (w : Warp) : (s.afterThreads uid slot w).mem = s.mem := by
  unfold State.afterThreads
  simp only
  split <;> simp

theorem badTarget_wf {e : TEnv} (target : Nat → Word) {r : TRes} (h : r.Wf) : ((e.badTarget target).getD r).Wf := by
  unfold TEnv.badTarget
  split
  · trivial
  · cases (lanesOf e.parts).find? fun t => (target t).toNat % 8 != 0 with
    | none => exact h
    | some t => trivial

theorem branch_wf {e : TEnv} (target : Nat → Word) (h : Memory.wf e.s.mem) : (e.branch target).Wf := h

theorem callBody_wf {e : TEnv} (target : Nat → Word) (h : Memory.wf e.s.mem) : (callBody e target).Wf := by
  have hr := result_wf (e := e) 1 (fun _ => BitVec.ofNat 128 (e.pc + tBytes e.i)) (fun _ => none) h
  unfold callBody
  split
  · rename_i heq
    rw [heq] at hr
    exact hr
  · exact hr

theorem endRestore_wf {e : TEnv} (w : Warp) (mask : BitVec 32) (h : Memory.wf e.s.mem) : (e.endRestore w mask).Wf := by
  unfold TEnv.endRestore
  simp only
  split
  · simpa using h
  · split
    · simpa using h
    · split
      · simpa using h
      · split
        · trivial
        · split
          · trivial
          · simp [h]

theorem moved_wf {e : TEnv} (w : Warp) (mask : BitVec 32) (h : Memory.wf e.s.mem) : (e.moved w mask).Wf := by
  unfold TEnv.moved
  split
  · exact endRestore_wf _ _ h
  · simpa using h

theorem setPred_wf {e : TEnv} (m : BitVec 32) (h : Memory.wf e.s.mem) : (e.setPred m).Wf := h

theorem fromLanes_wf {e : TEnv} (own : BitVec 32) (src : Nat → List Nat) (v : Nat → Word) (h : Memory.wf e.s.mem) :
    (e.fromLanes own src v).Wf := resultOf_wf _ _ _ _ h

@[simp] theorem setBarrier_mem (s : State) (g : Group) (kind i : Nat) (b : Barrier) : (s.setBarrier g kind i b).mem = s.mem := by
  unfold State.setBarrier
  split <;> rfl

@[simp] theorem wf_arrive {e : TEnv} (m : BitVec 32) (kind i : Nat) (h : Memory.wf e.s.mem) :
    Memory.wf (e.arrive m kind i).mem := by
  unfold TEnv.arrive
  simp only
  split <;> simp [h]

theorem arriveBody_wf {e : TEnv} (sync : Bool) (kind i : Nat) (h : Memory.wf e.s.mem) : (arriveBody sync e kind i).Wf := by
  simp [arriveBody, h]

theorem barIssue_wf {op : Nat} {w : TWord} {s : State} {body : TEnv → Nat → Nat → TRes} (h : Memory.wf s.mem)
    (hb : ∀ (e : TEnv) kind i, Memory.wf e.s.mem → (body e kind i).Wf) : NextWf (barIssue op w s body) := by
  refine tIssue_wf h fun e he => ?_
  simp only
  split
  · exact hb e _ _ he
  · trivial

theorem execUnpackT5_wf {s : State} (w : TWord) (h : Memory.wf s.mem) : NextWf (execUnpackT5 w s) := by
  refine tIssue_wf h fun e he => ?_
  simp only
  split
  · split
    · rename_i s' w' red heq
      have hr := result_wf (e := e) 1 (fun t => if tritLegal (byteOf (e.int 1 t) e.mod) then
        (unpackTrits (byteOf (e.int 1 t) e.mod)).setWidth 128 else 0) (fun _ => none) he
      rw [heq] at hr
      exact hr
    · exact result_wf _ _ _ he
  · exact result_wf _ _ _ he

theorem execMov_wf {s : State} (w : TWord) (h : Memory.wf s.mem) : NextWf (execMov w s) := by
  refine tIssue_wf h fun e he => ?_
  split <;> exact result_wf _ _ _ he

theorem execSafept_wf {s : State} (w : TWord) (h : Memory.wf s.mem) : NextWf (execSafept w s) := by
  unfold execSafept
  simp only
  split
  · rename_i s' heq
    have hs' : NextWf (.next s') := by
      rw [← heq]
      refine tIssue_wf h fun e he => ?_
      split
      · trivial
      · exact he
    split
    · exact wf_stopAt _ _ _ hs'
    · exact hs'
  · refine tIssue_wf h fun e he => ?_
    split
    · trivial
    · exact he

theorem execSetpc_wf {s : State} (w : TWord) (h : Memory.wf s.mem) : NextWf (execSetpc w s) := by
  refine tIssue_wf h fun e he => ?_
  split
  · trivial
  · split
    · trivial
    · split
      · trivial
      · exact moved_wf _ _ he

theorem execExit_wf {s : State} (w : TWord) (h : Memory.wf s.mem) : NextWf (execExit w s) := by
  refine tIssue_wf h fun e he => ?_
  split
  · trivial
  · exact moved_wf _ _ he

theorem execVote_wf {s : State} (w : TWord) (h : Memory.wf s.mem) : NextWf (execVote w s) := by
  refine tIssue_wf h fun e he => ?_
  simp only
  split
  · exact he
  · exact he
  · exact he
  · exact result_wf _ _ _ he

theorem execBarWt_wf {s : State} (w : TWord) (h : Memory.wf s.mem) : NextWf (execBarWt w s) := by
  refine barIssue_wf h fun e kind i he => ?_
  split
  · trivial
  · simpa using he

theorem softTrap_wf {e : TEnv} (c : Cause) (h : Memory.wf e.s.mem) : (softTrap c e).Wf := by
  unfold softTrap
  split
  · exact h
  · trivial

theorem execTret_wf {s : State} (w : TWord) (h : Memory.wf s.mem) : NextWf (execTret w s) := by
  refine tIssue_wf h fun e he => ?_
  simp only [tWf_ite, tWf_trap]
  split
  · trivial
  · split
    · simpa using he
    · simp [he]

theorem lost_wf {e : TEnv} (n : Nat) (h : Memory.wf e.s.mem) : (e.lost n).Wf := h

theorem execVget_wf {s : State} (w : TWord) (h : Memory.wf s.mem) : NextWf (execVget w s) :=
  tIssue_wf h fun e he => by simp [he, lost_wf]

theorem execVput_wf {s : State} (w : TWord) (h : Memory.wf s.mem) : NextWf (execVput w s) :=
  tIssue_wf h fun e he => by simp [he]

/-! ### Loads, stores and atomics -/

@[simp] theorem checkGlobal_mem (s : State) (g : Group) (a : DWord) (n : Nat) (need : Need) :
    (s.checkGlobal g a n need).1.mem = s.mem := by
  unfold State.checkGlobal
  split
  · rfl
  · split
    · rfl
    · exact translate_mem _ _ _ _ _

@[simp] theorem checkOne_mem (e : TEnv) (s : State) (sp : Space) (n : Nat) (need : Need) (t : Nat) :
    (e.checkOne s sp n need t).1.mem = s.mem := by
  cases sp with
  | global => exact checkGlobal_mem _ _ _ _ _
  | pad => rfl
  | cluster => rfl

@[simp] theorem checkAll_mem (e : TEnv) (s : State) (sp : Space) (n : Nat) (need : Need) (ts : List Nat) :
    (e.checkAll s sp n need ts).1.mem = s.mem := by
  simp [TEnv.checkAll]

theorem badRes_wf {s : State} (b : Bad) (agent : Nat) (h : Memory.wf s.mem) : (b.res s agent).Wf := by
  unfold Bad.res
  split
  · exact h
  · trivial

@[simp] theorem wf_placeRead {s : State} (g : Group) (sc n : Nat) (p : Place) (h : Memory.wf s.mem) :
    Memory.wf (s.placeRead g sc n p).1.mem := by
  cases p with
  | glob p => exact wf_gLoad _ _ _ _ _ h
  | pad uid a => exact h
  | away => exact h

@[simp] theorem wf_placeWrite {s : State} (g : Group) (sc n v : Nat) (p : Place) (h : Memory.wf s.mem) :
    Memory.wf (s.placeWrite g sc n v p).mem := by
  cases p with
  | glob p => exact wf_gStore _ g.tenant _ _ _ _ h
  | pad uid a => simpa [State.placeWrite] using h
  | away => exact h

@[simp] theorem wf_tPre {s : State} (e : TEnv) (h : Memory.wf s.mem) : Memory.wf (e.pre s).mem := by
  simp [TEnv.pre, h]

@[simp] theorem tPost_mem (e : TEnv) (s : State) : (e.post s).mem = s.mem := by
  simp [TEnv.post]

@[simp] theorem wf_readAll {s : State} (e : TEnv) (n : Nat) (l : List (Nat × Except Bad Place)) (h : Memory.wf s.mem) :
    Memory.wf (e.readAll n s l).1.mem := by
  refine wf_foldl_fst (fun r p hr => ?_) _ h
  split
  · exact wf_placeRead _ _ _ _ hr
  · exact hr

@[simp] theorem wf_writeAll {s : State} (e : TEnv) (n : Nat) (l : List (Nat × Except Bad Place)) (h : Memory.wf s.mem) :
    Memory.wf (e.writeAll n s l).mem := by
  refine wf_foldl (fun s p hs => ?_) _ h
  split
  · exact wf_placeWrite _ _ _ _ _ hs
  · exact hs

@[simp] theorem ringWrites_mem (e : TEnv) (more : Bool) (n : Nat) (s : State) (l : List (Nat × Except Bad Place)) :
    (e.ringWrites more n s l).mem = s.mem := by
  have hf : ∀ s : State, (l.foldl (fun s p => match p.2 with | .ok (.glob q) => s.wroteRing e.g.uid q n | _ => s) s).mem = s.mem :=
    foldl_mem (fun s p => by split <;> simp) l
  unfold TEnv.ringWrites
  simp only
  split
  · rw [sideEffect_mem]; exact hf s
  · exact hf s

theorem loadBody_wf {e : TEnv} (sp : Space) (h : Memory.wf e.s.mem) : (loadBody sp e).Wf := by
  unfold loadBody
  simp only
  split
  · trivial
  · split
    · exact badRes_wf _ _ (by simpa using h)
    · split
      · trivial
      · simp [h]

theorem storeBody_wf {e : TEnv} (sp : Space) (h : Memory.wf e.s.mem) : (storeBody sp e).Wf := by
  unfold storeBody
  simp only
  split
  · trivial
  · split
    · exact badRes_wf _ _ (by simpa using h)
    · split
      · trivial
      · split
        · exact h
        · simp [h]

@[simp] theorem wf_atomAll {s : State} (e : TEnv) (n : Nat) (run : TEnv → List Nat → Nat → Nat × List Nat)
    (l : List (Nat × Except Bad Place)) (h : Memory.wf s.mem) : Memory.wf (e.atomAll n run s l).1.mem := by
  refine wf_foldl_fst (fun r ls hr => ?_) _ h
  split
  · exact hr
  · exact wf_gAtomic _ _ _ _ _ _ hr

theorem atomBody_wf {e : TEnv} (n : Nat) (dst : Bool) (run : TEnv → List Nat → Nat → Nat × List Nat)
    (h : Memory.wf e.s.mem) : (atomBody n dst run e).Wf := by
  unfold atomBody
  simp only
  split
  · trivial
  · split
    · exact badRes_wf _ _ (by simpa using h)
    · split
      · exact onto_wf (resultOf_wf _ _ _ _ h) (by simp (disch := simp [h]))
      · simp (disch := simp [h])

/-! ### Hints, FENCE, CBLD and semaphores -/

@[simp] theorem hintPage_mem (s : State) (g : Group) (a : Nat) : (s.hintPage g a).1.mem = s.mem := by
  unfold State.hintPage
  split
  · rfl
  · exact translate_mem _ _ _ _ _

@[simp] theorem wf_prefetch {s : State} (e : TEnv) (t : Nat) (h : Memory.wf s.mem) : Memory.wf (e.prefetch s t).mem := by
  unfold TEnv.prefetch
  simp only
  split
  · simpa using h
  · simp [h]

@[simp] theorem resideChunk_mem (g : Group) (mod : Nat) (a : Reside) (va lines : Nat) :
    (resideChunk g mod a va lines).s.mem = a.s.mem := by
  unfold resideChunk
  simp only
  split
  · simp
  · split <;> simp

theorem foldl_reside_mem {α : Type} {f : Reside → α → Reside} (hf : ∀ a x, (f a x).s.mem = a.s.mem) (l : List α) (a : Reside) :
    (l.foldl f a).s.mem = a.s.mem :=
  List.foldlRecOn (motive := fun b : Reside => b.s.mem = a.s.mem) l f rfl fun b hb x _ => (hf b x).trans hb

@[simp] theorem wf_resideOne {s : State} (e : TEnv) (t : Nat) (h : Memory.wf s.mem) : Memory.wf (e.resideOne s t).mem := by
  unfold TEnv.resideOne
  simp only
  split
  · exact h
  · simp only [mem_ite, hintDrop_mem, ite_self]
    refine wf_foldl (fun _ _ => wf_heat _ _) _ ?_
    rw [foldl_reside_mem (fun _ _ => resideChunk_mem _ _ _ _ _)]
    exact h

theorem execPfh_wf {s : State} (w : TWord) (h : Memory.wf s.mem) : NextWf (execPfh w s) := by
  refine tIssue_wf h fun e he => ?_
  split
  · trivial
  · exact wf_foldl (fun _ _ => wf_prefetch _ _) _ he

theorem execReside_wf {s : State} (w : TWord) (h : Memory.wf s.mem) : NextWf (execReside w s) := by
  refine tIssue_wf h fun e he => ?_
  split
  · trivial
  · exact wf_foldl (fun _ _ => wf_resideOne _ _) _ he

theorem execFence_wf {s : State} (w : TWord) (h : Memory.wf s.mem) : NextWf (execFence w s) :=
  tIssue_wf h fun e he => by simp [he]

theorem execCbld_wf {s : State} (w : TWord) (h : Memory.wf s.mem) : NextWf (execCbld w s) := by
  refine tIssue_wf h fun e he => ?_
  have hstop : ∀ (t : Nat) c v, (if bit e.hlp t then TRes.ok e.base e.w 0 else .trap c v).Wf := by
    intro t c v
    split
    · exact he
    · trivial
  split
  · trivial
  · split
    · exact he
    · simp only
      split
      · exact hstop _ _ _
      · split
        · exact hstop _ _ _
        · split
          · exact hstop _ _ _
          · exact he

theorem execCbldFill_wf {s : State} (h : Memory.wf s.mem) : NextWf (execCbldFill s) := by
  unfold execCbldFill
  simp only
  split
  · exact h
  · split
    · exact h
    · split
      · exact h
      · split
        · exact h
        · simpa using h

theorem semIssue_wf {op : Nat} {w : TWord} {s : State} {choose : TEnv → Option Nat} {body : TEnv → Nat → Word → TRes}
    (h : Memory.wf s.mem) (hb : ∀ (e : TEnv) i b, Memory.wf e.s.mem → (body e i b).Wf) :
    NextWf (semIssue op w s choose body) := by
  refine tIssue_wf h fun e he => ?_
  split
  · exact resultOf_wf _ _ _ _ he
  · simp only
    split
    · split
      · exact he
      · trivial
    · split
      · split
        · exact he
        · trivial
      · exact hb e _ _ he

theorem semUpdate_wf {e : TEnv} (f : Word → Word → Word) (i : Nat) (b : Word) (h : Memory.wf e.s.mem) :
    (semUpdate f e i b).Wf := onto_wf (resultOf_wf _ _ _ _ h) (by simp [h])

theorem execSemwait_wf {s : State} (w : TWord) (h : Memory.wf s.mem) : NextWf (execSemwait w s) := by
  refine semIssue_wf h fun e i b he => ?_
  split
  · trivial
  · rename_i v _
    have hr := resultOf_wf (e := e) 0 1 (fun _ => v.setWidth 128) (fun _ => none) he
    split
    · rename_i heq
      rw [heq] at hr
      simpa using hr
    · exact hr

end Sys2Proof.Laws

end

section
/-!
SUPPORT. Memory keeps its canonical form, part 5: the A stream, and the commands of packets.
-/

namespace Sys2Proof.Laws

open Sys2Proof.Machine

/-! ### The access stream -/

@[simp] theorem deliverTa_mem (s : State) (g : Group) (tok : Word) : (s.deliverTa g tok).mem = s.mem := rfl

@[simp] theorem wf_aPre {s : State} (e : AEnv) (sem : BitVec 2) (sc : Nat) (h : Memory.wf s.mem) :
    Memory.wf (e.pre s sem sc).mem := by
  simp [AEnv.pre, h]

@[simp] theorem aPost_mem (e : AEnv) (s : State) (sem : BitVec 2) (sc : Nat) : (e.post s sem sc).mem = s.mem := by
  simp [AEnv.post]

theorem execAmov_wf {s : State} (w : AWord) (h : Memory.wf s.mem) : NextWf (execAmov w s) := by
  refine aIssue_wf h fun e he => ?_
  simp only
  split <;> exact he

theorem execAexit_wf {s : State} (h : Memory.wf s.mem) : NextWf (execAexit s) := by
  refine aIssue_wf h fun e he => ?_
  simp only
  split
  · trivial
  · split
    · simpa using he
    · split
      · simpa using he
      · split <;> simp [he]

theorem execAretT_wf {s : State} (h : Memory.wf s.mem) : NextWf (execAretT s) := by
  refine aIssue_wf h fun e he => ?_
  simp only [aWf_ite, aWf_trap]
  split
  · trivial
  · split
    · simpa using he
    · simp [he]

/-- The place of an access, or the answer instead of it, comes with canonical memory. -/
theorem place_wf {e : AEnv} (pad : Bool) (need : Need) (h : Memory.wf e.s.mem) :
    (∀ r, e.place pad need = .error r → r.Wf) ∧ ∀ x, e.place pad need = .ok x → Memory.wf x.1.mem := by
  unfold AEnv.place
  simp only
  split
  · simp
  · split
    · split <;> simp [h]
    · split <;> simp [h]

theorem aLoad_wf {e : AEnv} (pad : Bool) (h : Memory.wf e.s.mem) : (aLoad pad e).Wf := by
  obtain ⟨herr, hok⟩ := place_wf pad .read h
  unfold aLoad
  split
  · exact herr _ ‹_›
  · simp [hok _ ‹_›]

theorem aStore_wf {e : AEnv} (pad : Bool) (h : Memory.wf e.s.mem) : (aStore pad e).Wf := by
  obtain ⟨herr, hok⟩ := place_wf pad .write h
  unfold aStore
  split
  · exact herr _ ‹_›
  · have hs := hok _ ‹_›
    simp only [aWf_ok]
    split <;> simp [hs]

theorem aFence_wf {e : AEnv} (h : Memory.wf e.s.mem) : (aFence e).Wf := by
  simp [aFence, h]

theorem aSemUpdate_wf {e : AEnv} (f : Word → Word → Word) (h : Memory.wf e.s.mem) : (aSemUpdate f e).Wf := by
  simp [aSemUpdate, h]

theorem aSemWait_wf {e : AEnv} (h : Memory.wf e.s.mem) : (aSemWait e).Wf := by
  unfold aSemWait
  simp only
  split
  · trivial
  · split
    · trivial
    · simpa using h

/-! ### Commands of packets -/

@[simp] theorem cmdSet_mem (s : State) (f : IssuedCmd → IssuedCmd) : (s.cmdSet f).mem = s.mem := cmdUpdate_mem _ _ _
@[simp] theorem cmdDone_mem (s : State) : s.cmdDone.mem = s.mem := cmdSet_mem _ _
@[simp] theorem cmdStart_mem (s : State) : s.cmdStart.mem = s.mem := cmdSet_mem _ _
@[simp] theorem cmdFail_mem (s : State) (st : Status) : (s.cmdFail st).mem = s.mem := cmdUpdate_mem _ _ _

theorem cmdResult_wf {s : State} {r : Except Status State} (h : Memory.wf s.mem) (hr : ∀ t, r = .ok t → Memory.wf t.mem) :
    NextWf (cmdResult s r) := by
  cases r with
  | error st => simpa [cmdResult] using h
  | ok t => simpa [cmdResult] using hr t rfl

theorem cmdUnit_wf {s : State} {n : Nat} {f : State → Nat → State} (h : Memory.wf s.mem)
    (hf : ∀ i, Memory.wf (f s i).mem) : NextWf (s.cmdUnit n f) := by
  simp [State.cmdUnit, h, hf]

end Sys2Proof.Laws

end

section
/-!
SUPPORT. Memory keeps its canonical form, part 6: the scan-out processor and the heads.
-/

namespace Sys2Proof.Machine

/-- The state that an answer of a line core's operation carries has canonical memory. -/
def LRes.Wf : LRes → Prop
  | .act s => Memory.wf s.mem
  | .ok _ _ | .wait | .fault _ => True

end Sys2Proof.Machine

namespace Sys2Proof.Laws

open Sys2Proof.Machine

/-! ### The issue of a line core's operation -/

@[simp] theorem lWf_ok (c : LineCore) (t : Option Word) : (LRes.ok c t).Wf = True := rfl
@[simp] theorem lWf_act (s : State) : (LRes.act s).Wf = (Memory.wf s.mem = true) := rfl
@[simp] theorem lWf_wait : LRes.wait.Wf = True := rfl
@[simp] theorem lWf_fault (k : Nat) : (LRes.fault k).Wf = True := rfl

@[simp] theorem lWf_ite (c : Prop) [Decidable c] (a b : LRes) : (if c then a else b).Wf = if c then a.Wf else b.Wf := by
  split <;> rfl

theorem lEnv_s {s : State} {e : LEnv} (h : s.lEnv = some e) : e.s = s := by
  unfold State.lEnv at h
  split at h
  · simp only at h
    split at h
    · split at h <;> cases h <;> rfl
    · cases h
  · cases h

theorem wf_lConclude {e : LEnv} {r : LRes} (h : Memory.wf e.s.mem) (hr : r.Wf) : Memory.wf (e.conclude r).mem := by
  cases r with
  | ok lc t => cases t <;> exact h
  | act s => exact hr
  | wait => exact h
  | fault k => exact h

/-- A line core's operation keeps memory canonical where its body does. -/
theorem lIssue_wf {s : State} {body : LEnv → LRes} (h : Memory.wf s.mem) (hb : ∀ e : LEnv, Memory.wf e.s.mem → (body e).Wf) :
    NextWf (lIssue s body) := by
  unfold lIssue
  split
  · trivial
  · rename_i e he
    have hs : Memory.wf e.s.mem := by rw [lEnv_s he]; exact h
    exact wf_lConclude hs (hb e hs)

theorem sAlu_wf {s : State} (w : SSlot) (f : Word → Word → Word) (h : Memory.wf s.mem) : NextWf (sAlu w s f) :=
  lIssue_wf h fun _ _ => trivial

theorem vAlu_wf {s : State} (w : VSlot) (f : Word → Word → Word → Word) (h : Memory.wf s.mem) : NextWf (vAlu w s f) :=
  lIssue_wf h fun _ _ => trivial

theorem endBand_wf {e : LEnv} (after : LineSt) (h : Memory.wf e.s.mem) : (e.endBand after).Wf := by
  simp [LEnv.endBand, h]

theorem execSyncm_wf {s : State} (h : Memory.wf s.mem) : NextWf (execSyncm s) :=
  lIssue_wf h fun _ _ => by simp

theorem execLbld_wf {s : State} (w : MSlot) (h : Memory.wf s.mem) : NextWf (execLbld w s) :=
  lIssue_wf h fun _ _ => by simp

theorem execLbst_wf {s : State} (w : MSlot) (h : Memory.wf s.mem) : NextWf (execLbst w s) :=
  lIssue_wf h fun _ _ => by simp

@[simp] theorem wf_lRead {s : State} (e : LEnv) (va n : Nat) (h : Memory.wf s.mem) : Memory.wf (e.read s va n).1.mem := by
  unfold LEnv.read
  simp only
  split
  · exact h
  · split
    · exact h
    · simp [h]

@[simp] theorem wf_lReads {s : State} (e : LEnv) (n : Nat) (as : List Nat) (h : Memory.wf s.mem) :
    Memory.wf (e.reads s n as).1.mem := by
  induction as generalizing s with
  | nil => exact h
  | cons a as ih =>
    unfold LEnv.reads
    simp only
    split
    · exact wf_lRead _ _ _ h
    · exact ih (wf_lRead _ _ _ h)

@[simp] theorem wf_texels {s : State} (e : LEnv) (k : Nat) (ps : List (Nat × Nat)) (h : Memory.wf s.mem) :
    Memory.wf (e.texels s k ps).1.mem := by
  unfold LEnv.texels
  simp only
  split
  · exact h
  · exact wf_lReads _ _ _ h

@[simp] theorem wf_lLanes {e : LEnv} (k : Nat) (pos : Nat → List (Nat × Nat)) (h : Memory.wf e.s.mem) :
    Memory.wf (e.lanes k pos).1.mem := by
  refine wf_foldl_fst (fun r l hr => ?_) _ h
  split
  · exact hr
  · exact wf_texels _ _ _ hr

theorem execGld_wf {s : State} (w : MSlot) (h : Memory.wf s.mem) : NextWf (execGld w s) := by
  refine lIssue_wf h fun e he => ?_
  simp only
  split
  · trivial
  · split
    · trivial
    · simp [he]

theorem execWsamp_wf {s : State} (w : MSlot) (h : Memory.wf s.mem) : NextWf (execWsamp w s) := by
  refine lIssue_wf h fun e he => ?_
  simp only
  split
  · trivial
  · simp [he]

theorem execDsamp_wf {s : State} (w : MSlot) (h : Memory.wf s.mem) : NextWf (execDsamp w s) := by
  refine lIssue_wf h fun e he => ?_
  simp only
  split
  · trivial
  · simp [he]

theorem handTile_wf {e : LEnv} (kind : Nat) (w : MSlot) (h : Memory.wf e.s.mem) : (e.handTile kind w).Wf := by
  simp [LEnv.handTile, LEnv.hand, h]

theorem execMxrun_wf {s : State} (w : MSlot) (h : Memory.wf s.mem) : NextWf (execMxrun w s) :=
  lIssue_wf h fun e he => by simp [LEnv.hand, he]

theorem execEmit_wf {s : State} (w : MSlot) (h : Memory.wf s.mem) : NextWf (execEmit w s) :=
  lIssue_wf h fun e he => by simp [he]

@[simp] theorem settleMx_mem (s : State) (n : Nat) : (s.settleMx n).mem = s.mem := rfl

theorem execMatrixOperationComplete_wf {s : State} (h : Memory.wf s.mem) : NextWf (execMatrixOperationComplete s) := by
  unfold execMatrixOperationComplete
  split <;> exact h

@[simp] theorem stopLine_mem (s : State) (n : Nat) : (s.stopLine n).mem = s.mem := rfl
@[simp] theorem bandFaultOf_mem (s : State) (n cause : Nat) : (s.bandFaultOf n cause).mem = s.mem := rfl

/-! ### Heads -/

@[simp] theorem wf_headTake {s : State} (c : Command) (n : Nat) (h : Memory.wf s.mem) : Memory.wf (s.headTake c n).1.mem := by
  unfold State.headTake
  simp only
  split_ifs
  · exact h
  · exact h
  · exact h
  · exact h
  · split
    · simp [h]
    · split_ifs
      · simp [h]
      · simp [h]
      · simp [h]
      · split
        · simp [h]
        · split_ifs
          · simp [h]
          · split <;> simp [h]

@[simp] theorem wf_resizeFrame {s : State} (mb : Nat) (h : Memory.wf s.mem) : Memory.wf (s.resizeFrame mb).mem := by
  unfold State.resizeFrame
  simp only
  split
  · exact h
  · exact wf_foldl (fun s p hs => by simp [hs]) _ h

@[simp] theorem releaseLines_mem (s : State) (h : Nat) : (s.releaseLines h).mem = s.mem := by
  simp [State.releaseLines]

@[simp] theorem zeroLines_mem (s : State) (m : BitVec 32) : (s.zeroLines m).mem = s.mem := by
  unfold State.zeroLines
  refine foldl_mem (fun s n => ?_) _ _
  rfl

@[simp] theorem wf_readRs {s : State} (n : Nat) (h : Memory.wf s.mem) : Memory.wf (s.readRs n).1.mem := by
  unfold State.readRs
  simp only
  split
  · simp [h]
  · split <;> simp [h]

@[simp] theorem wf_latchRs {s : State} (n : Nat) (h : Memory.wf s.mem) : Memory.wf (s.latchRs n).mem := by
  unfold State.latchRs
  simp only
  split <;> simp [h]

@[simp] theorem wf_latchPose {s : State} (n f b : Nat) (h : Memory.wf s.mem) : Memory.wf (s.latchPose n f b).mem := by
  simp [State.latchPose, h]

@[simp] theorem changeDone_mem (s : State) (c : HeadChange) : (s.changeDone c).mem = s.mem := cmdUpdate_mem _ _ _

@[simp] theorem wf_applyHead {s : State} (n : Nat) (c : HeadChange) (line : Int) (h : Memory.wf s.mem) :
    Memory.wf (s.applyHead n c line).mem := by
  unfold State.applyHead
  simp only [changeDone_mem, setHead_mem]
  exact wf_foldl (fun s p hs => by simp [hs]) _ (by simp [h])

@[simp] theorem wf_disableHead {s : State} (n : Nat) (c : HeadChange) (h : Memory.wf s.mem) :
    Memory.wf (s.disableHead n c).mem := by
  simp [State.disableHead, h]

theorem headcfg_wf {s : State} {f : Nat → HeadChange → State} (h : Memory.wf s.mem) (hf : ∀ n c, Memory.wf (f n c).mem) :
    NextWf (s.headcfg f) := by
  unfold State.headcfg
  split
  · exact h
  · exact hf _ _

@[simp] theorem nextLine_mem (s : State) (h : Nat) : (s.nextLine h).mem = s.mem := rfl

@[simp] theorem blackLine_mem (s : State) (h : Nat) : (s.blackLine h).mem = s.mem := by
  simp [State.blackLine]

@[simp] theorem tickLine_mem (s : State) (h n : Nat) : (s.tickLine h n).mem = s.mem := by
  induction n generalizing s with
  | zero => rfl
  | succ n ih => simp [State.tickLine, ih]

@[simp] theorem passPoint_mem (s : State) (h : Nat) : (s.passPoint h).mem = s.mem := rfl

theorem execHeadcfgEnable_wf {s : State} (h : Memory.wf s.mem) : NextWf (execHeadcfgEnable s) :=
  headcfg_wf h fun n c => by simp [h]

theorem execHeadcfgEffect_wf {s : State} (h : Memory.wf s.mem) : NextWf (execHeadcfgEffect s) := by
  unfold execHeadcfgEffect
  simp only
  split
  · exact wf_foldl (fun _ _ => wf_applyHead _ _ _) _ h
  · exact h

theorem execRenderSetLatch_wf {s : State} (h : Memory.wf s.mem) : NextWf (execRenderSetLatch s) := by
  unfold execRenderSetLatch
  simp only
  split
  · simp [h]
  · exact h

theorem execPoseLatch_wf {s : State} (h : Memory.wf s.mem) : NextWf (execPoseLatch s) := by
  unfold execPoseLatch
  simp only
  split
  · simp [h]
  · exact h

theorem execBandDispatch_wf {s : State} (h : Memory.wf s.mem) : NextWf (execBandDispatch s) := by
  unfold execBandDispatch
  simp only
  split
  · exact h
  · split
    · simp [h]
    · exact h

@[simp] theorem wf_presented {s : State} (n f x y : Nat) (h : Memory.wf s.mem) : Memory.wf (s.presented n f x y).1.mem := by
  unfold State.presented
  simp only
  split
  · exact wf_devRead _ _ _ h
  · exact h

@[simp] theorem wf_virgaPixel {s : State} (n f : Nat) (m : List (List Word)) (x y : Nat) (h : Memory.wf s.mem) :
    Memory.wf (s.virgaPixel n f m x y).1.mem := by
  unfold State.virgaPixel
  simp only
  split
  · exact h
  · split
    · exact h
    · refine wf_foldl_fst (fun r p hr => ?_) _ h
      exact wf_presented _ _ _ _ hr

@[simp] theorem wf_virga {s : State} (n f b : Nat) (qd : List Word) (h : Memory.wf s.mem) :
    Memory.wf (s.virga n f b qd).1.mem := by
  unfold State.virga
  simp only
  split
  · exact h
  · refine wf_foldl_fst (fun r p hr => ?_) _ h
    exact wf_virgaPixel _ _ _ _ _ hr

theorem execBandDeadline_wf {s : State} (h : Memory.wf s.mem) : NextWf (execBandDeadline s) := by
  unfold execBandDeadline
  simp only
  split
  · split
    · exact h
    · split
      · exact h
      · simp only [nextWf_next, setHead_mem]
        split
        · exact h
        · exact wf_virga _ _ _ _ h
  · exact h

@[simp] theorem wf_headWrite {s : State} (asid va n v : Nat) (h : Memory.wf s.mem) : Memory.wf (s.headWrite asid va n v).mem := by
  unfold State.headWrite
  split
  · exact wf_devWrite _ _ _ h
  · exact h

@[simp] theorem wf_present {s : State} (n f b : Nat) (px : List (Nat × BitVec 48)) (h : Memory.wf s.mem) :
    Memory.wf (s.present n f b px).mem :=
  wf_foldl (fun _ _ => wf_headWrite _ _ _ _) _ h

@[simp] theorem scan_mem (s : State) (h b : Nat) (px : List (Nat × BitVec 48)) : (s.scan h b px).mem = s.mem := by
  simp [State.scan]

@[simp] theorem stopBand_mem (s : State) (h f b : Nat) : (s.stopBand h f b).mem = s.mem := by
  simp [State.stopBand]

theorem execBandScanOut_wf {s : State} (h : Memory.wf s.mem) : NextWf (execBandScanOut s) := by
  unfold execBandScanOut
  simp only
  split
  · split
    · simpa using h
    · simp (disch := simp [h])
  · exact h

end Sys2Proof.Laws

end

section
/-!
SUPPORT. Memory keeps its canonical form, part 7: the Trit Array and the copy engine.
-/

namespace Sys2Proof.Laws

open Sys2Proof.Machine

/-! ### The Trit Array -/

theorem trapAmong_wf {e : AEnv} (c : Cause) (x : Nat) (xs : List Nat) (h : Memory.wf e.s.mem) : (e.trapAmong c x xs).Wf := h

theorem tile_wf {e : AEnv} {r : ARes} (h : e.tile = .error r) : r.Wf := by
  unfold AEnv.tile at h
  simp only at h
  split at h
  · cases h; trivial
  · split at h
    · cases h; trivial
    · split at h
      · cases h; trivial
      · split at h <;> cases h
        trivial

theorem enqueue_wf {e : AEnv} (f : Word) (zero : Bool) (blk : BitVec 512) (h : Memory.wf e.s.mem) : (e.enqueue f zero blk).Wf := h

theorem runChecks_wf {e : AEnv} (f : Word) (h : Memory.wf e.s.mem) : (e.runChecks f).Wf := by
  unfold AEnv.runChecks
  simp only
  split
  · trivial
  · split
    · trivial
    · split
      · trivial
      · split
        · trivial
        · split
          · trivial
          · split
            · trivial
            · split
              · exact trapAmong_wf _ _ _ h
              · split
                · exact enqueue_wf _ _ _ h
                · exact trapAmong_wf _ _ _ h

theorem aFmtq_wf {e : AEnv} (h : Memory.wf e.s.mem) : (aFmtq e).Wf := by
  simp [aFmtq, h]

theorem aTaRun_wf {e : AEnv} (h : Memory.wf e.s.mem) : (aTaRun e).Wf := by
  unfold aTaRun
  split
  · exact tile_wf ‹_›
  · exact runChecks_wf _ h

theorem execTaZero_wf {s : State} (w : AWord) (h : Memory.wf s.mem) : NextWf (execTaZero w s) := by
  refine aIssue_wf h fun e he => ?_
  split
  · exact tile_wf ‹_›
  · split
    · trivial
    · exact enqueue_wf _ _ _ he

theorem execTaSwap_wf {s : State} (w : AWord) (h : Memory.wf s.mem) : NextWf (execTaSwap w s) :=
  aIssue_wf h fun e he => by simp [he]

theorem execCrownTake_wf {s : State} (w : AWord) (h : Memory.wf s.mem) : NextWf (execCrownTake w s) := by
  refine aIssue_wf h fun e he => ?_
  split
  · trivial
  · simp [he]

theorem execCrownPass_wf {s : State} (w : AWord) (h : Memory.wf s.mem) : NextWf (execCrownPass w s) := by
  refine aIssue_wf h fun e he => ?_
  split
  · trivial
  · simp [he]

theorem taStart_wf {s : State} (n : Nat) (soft : Option (Nat × Nat)) (h : Memory.wf s.mem) : NextWf (s.taStart n soft) := by
  unfold State.taStart
  simp only
  split
  · exact h
  · split
    · exact h
    · split
      · exact h
      · split <;> exact h

theorem execTaRunFault_wf {s : State} (h : Memory.wf s.mem) : NextWf (execTaRunFault s) := by
  unfold execTaRunFault
  simp only
  split
  · exact h
  · split <;> exact h

theorem execTaCommandComplete_wf {s : State} (h : Memory.wf s.mem) : NextWf (execTaCommandComplete s) := by
  unfold execTaCommandComplete
  simp only
  split
  · exact h
  · split
    · exact h
    · split <;> exact h

/-! ### The copy engine: issue and accesses -/

@[simp] theorem setChan_mem (s : State) (c n : Nat) (l : List CeCmd) : (s.setChan c n l).mem = s.mem := rfl

theorem ceEnter_wf {e : AEnv} (kind : Nat) (d : BitVec 512) (h : Memory.wf e.s.mem) : (e.ceEnter kind d).Wf := by
  simp [AEnv.ceEnter, h]

theorem ceIssue_wf {e : AEnv} (kind : Nat) (h : Memory.wf e.s.mem) : (ceIssue kind e).Wf := by
  unfold ceIssue
  simp only [aWf_ite, aWf_wait, aWf_trap]
  split
  · trivial
  · split
    · trivial
    · split
      · trivial
      · split
        · trivial
        · split
          · exact trapAmong_wf _ _ _ h
          · split
            · trivial
            · exact h
            · split
              · exact trapAmong_wf _ _ _ h
              · exact ceEnter_wf _ _ h

theorem cpywIssue_wf {e : AEnv} (h : Memory.wf e.s.mem) : (cpywIssue e).Wf := by
  simp [cpywIssue, ceEnter_wf, h]

theorem wf_ceThen {α β : Type} {r : State × Except CeStop α} {f : State → α → State × Except CeStop β}
    (hr : Memory.wf r.1.mem) (hf : ∀ s a, Memory.wf s.mem → Memory.wf (f s a).1.mem) : Memory.wf (ceThen r f).1.mem := by
  unfold ceThen
  split
  · exact hr
  · exact hf _ _ hr

theorem wf_ceFold {α β : Type} {f : State → β → α → State × Except CeStop β} {s : State} {b : β} {l : List α}
    (hf : ∀ s b x, Memory.wf s.mem → Memory.wf (f s b x).1.mem) (h : Memory.wf s.mem) : Memory.wf (ceFold f s b l).1.mem := by
  induction l generalizing s b with
  | nil => exact h
  | cons x l ih => exact wf_ceThen (hf _ _ _ h) fun s b hs => ih hs

@[simp] theorem ceAt_mem {α : Type} (i : Nat) (r : State × Except CeStop α) : (ceAt i r).1.mem = r.1.mem := rfl

@[simp] theorem ceOld_mem (s : State) (old : SMap Byte) (a n v : Nat) : (s.ceOld old a n v).1.mem = s.mem := by
  unfold State.ceOld
  simp only
  split <;> rfl

@[simp] theorem wf_ceRead {s : State} (x : CeAgent) (a n : Nat) (h : Memory.wf s.mem) : Memory.wf (s.ceRead x a n).1.mem := by
  unfold State.ceRead
  split
  · exact h
  · split
    · split
      · exact h
      · simpa using h
    · split
      · exact h
      · simp only
        split
        · simpa using h
        · split <;> simp [h]

@[simp] theorem wf_ceWrite {s : State} (x : CeAgent) (a n v keep : Nat) (h : Memory.wf s.mem) :
    Memory.wf (s.ceWrite x a n v keep).1.mem := by
  unfold State.ceWrite
  simp only
  split
  · exact h
  · split
    · split
      · exact h
      · simpa using h
    · split
      · exact h
      · split
        · simpa using h
        · split <;> simp [h]

@[simp] theorem wf_ceBytes {s : State} (x : CeAgent) (a n : Nat) (h : Memory.wf s.mem) : Memory.wf (s.ceBytes x a n).1.mem :=
  wf_ceThen (wf_ceFold (fun _ _ _ hs => wf_ceThen (wf_ceRead _ _ _ hs) fun _ _ h => h) h) fun _ _ hs => by simpa using hs

@[simp] theorem ceMay_mem (s : State) (x : CeAgent) (a : Nat) : (s.ceMay x a).1.mem = s.mem := by
  unfold State.ceMay
  split
  · rfl
  · split
    · rfl
    · split
      · rfl
      · exact translate_mem _ _ _ _ _

@[simp] theorem wf_ceBlock {s : State} (x : CeAgent) (a v i : Nat) (h : Memory.wf s.mem) : Memory.wf (s.ceBlock x a v i).1.mem :=
  wf_ceThen (by simpa using h) fun _ _ hs => wf_ceThen (by simpa using hs) fun _ _ h => h

@[simp] theorem wf_ceElem {s : State} (x : CeAgent) (fmt row off c : Nat) (h : Memory.wf s.mem) :
    Memory.wf (s.ceElem x fmt row off c).1.mem := by
  unfold State.ceElem
  split
  · exact wf_ceThen (wf_ceRead _ _ _ h) fun _ _ h => h
  · exact wf_ceRead _ _ _ h

@[simp] theorem wf_ceValue {s : State} (x : CeAgent) (d : BitVec 512) (r c : Nat) (h : Memory.wf s.mem) :
    Memory.wf (s.ceValue x d r c).1.mem := by
  unfold State.ceValue
  simp only
  split
  · exact wf_ceThen (wf_ceBytes _ _ _ h) fun _ _ h => h
  · exact wf_ceThen (wf_ceElem _ _ _ _ _ h) fun _ _ h => h

/-! ### The copy engine: the units of a command -/

@[simp] theorem wf_transUnit {s : State} (x : CeCmd) (i : Nat) (h : Memory.wf s.mem) : Memory.wf (transUnit x s i).1.mem := by
  refine wf_ceThen (wf_ceFold (fun s v j hs => ?_) h) fun _ _ hs => hs
  split
  · exact hs
  · refine wf_ceThen (wf_ceRead _ _ _ hs) fun s b hs => ?_
    split <;> exact hs

@[simp] theorem wf_ceValues {s : State} (x : CeCmd) (r c n : Nat) (h : Memory.wf s.mem) : Memory.wf (s.ceValues x r c n).1.mem :=
  wf_ceFold (fun _ _ _ hs => wf_ceThen (wf_ceValue _ _ _ _ hs) fun _ _ h => h) h

@[simp] theorem wf_qrowUnit {s : State} (x : CeCmd) (r : Nat) (h : Memory.wf s.mem) : Memory.wf (qrowUnit x s r).1.mem :=
  wf_ceThen (wf_ceValues _ _ _ _ h) fun _ _ hs => hs

@[simp] theorem wf_blockUnit {s : State} (x : CeCmd) (i : Nat) (h : Memory.wf s.mem) : Memory.wf (blockUnit x s i).1.mem := by
  unfold blockUnit
  simp only [ceAt_mem]
  split
  · exact wf_ceThen (wf_ceBytes _ _ _ h) fun _ _ hs => wf_ceBlock _ _ _ _ hs
  · exact wf_ceThen (wf_ceValues _ _ _ _ h) fun _ _ hs => wf_ceBlock _ _ _ _ hs

@[simp] theorem wf_elemUnit {s : State} (x : CeCmd) (i : Nat) (h : Memory.wf s.mem) : Memory.wf (elemUnit x s i).1.mem := by
  unfold elemUnit
  simp only [ceAt_mem]
  split
  · exact wf_ceThen (wf_ceElem _ _ _ _ _ h) fun _ _ hs => hs
  · exact wf_ceThen (wf_ceValue _ _ _ _ h) fun _ _ hs => hs

@[simp] theorem wf_cpyUnit {s : State} (x : CeCmd) (i : Nat) (h : Memory.wf s.mem) : Memory.wf (cpyUnit x s i).1.mem := by
  unfold cpyUnit
  split_ifs <;> simp [h]

@[simp] theorem wf_lvLine {s : State} (x : CeCmd) (j n : Nat) (h : Memory.wf s.mem) : Memory.wf (lvLine x s j n).1.mem := by
  refine wf_ceThen (wf_ceRead _ _ _ h) fun s v hs => ?_
  split <;> exact hs

@[simp] theorem wf_sealPage {s : State} (x : CeCmd) (n pg : Nat) (h : Memory.wf s.mem) : Memory.wf (sealPage x s n pg).1.mem := by
  refine wf_ceThen (wf_ceFold (fun s l i hs => ?_) h) fun s ks hs => wf_ceThen (wf_ceFold (fun s l i hs => ?_) hs) fun _ _ h => h
  all_goals exact wf_ceThen (wf_ceRead _ _ _ hs) fun _ _ h => h

@[simp] theorem wf_kvKeep {s : State} (x : CeCmd) (h : Memory.wf s.mem) : Memory.wf (kvKeep x s).1.mem := by
  unfold kvKeep
  split
  · exact h
  · refine wf_foldl_fst (fun r b hr => ?_) _ h
    exact wf_ceRead _ _ _ hr

@[simp] theorem wf_kvCount {s : State} (x : CeCmd) (h : Memory.wf s.mem) : Memory.wf (kvCount x s).1.mem := by
  unfold kvCount
  simp only
  split <;> simp [h]

@[simp] theorem wf_kvSeal {s : State} (x : CeCmd) (n : Nat) (h : Memory.wf s.mem) : Memory.wf (kvSeal x s n).1.mem := by
  unfold kvSeal
  split
  · exact h
  · refine wf_ceThen (wf_ceRead _ _ _ h) fun s pg hs => ?_
    split
    · exact hs
    · exact wf_sealPage _ _ _ hs

@[simp] theorem wf_kvVectors {s : State} (x : CeCmd) (n : Nat) (h : Memory.wf s.mem) : Memory.wf (kvVectors x s n).1.mem := by
  unfold kvVectors
  simp only
  split
  · exact h
  · refine wf_ceThen (wf_ceRead _ _ _ h) fun s pg hs => ?_
    split
    · exact hs
    · refine wf_ceThen (wf_ceFold (fun s l i hs => ?_) hs) fun s ks hs => wf_ceThen (wf_ceFold (fun s l i hs => ?_) hs) fun _ _ h => h
      all_goals exact wf_ceThen (wf_ceRead _ _ _ hs) fun _ _ h => h

@[simp] theorem wf_kvEnd {s : State} (x : CeCmd) (n : Nat) (h : Memory.wf s.mem) : Memory.wf (kvEnd x s n).1.mem :=
  wf_ceWrite _ _ _ _ _ h

/-! ### The copy engine: the steps of a command -/

theorem wf_planned {s : State} {plan : State → CePlan} (x : CeCmd) (g : Group) (h : Memory.wf s.mem)
    (hp : Memory.wf (plan s).1.mem) : Memory.wf (x.planned s g plan).1.mem := by
  unfold CeCmd.planned
  split
  · exact hp
  · exact h

@[simp] theorem wf_drain {s : State} (x : CeCmd) (l : List CePut) (h : Memory.wf s.mem) : Memory.wf (x.drain s l).1.mem := by
  induction l generalizing s with
  | nil => exact h
  | cons p ps ih =>
    unfold CeCmd.drain
    simp only
    split
    · exact ih (wf_ceWrite _ _ _ _ _ h)
    · exact wf_ceWrite _ _ _ _ _ h

theorem wf_unit {s : State} {plan : State → CePlan} (x : CeCmd) (g : Group) (h : Memory.wf s.mem)
    (hp : Memory.wf (plan s).1.mem) : Memory.wf (x.unit s g plan).1.mem := by
  have hr := wf_planned x g h hp
  unfold CeCmd.unit
  simp only
  split
  · exact hr
  · exact wf_drain _ _ hr

@[simp] theorem wf_ceUnits {s : State} (g : Group) (back : Bool) (fuel : Nat) (x : CeCmd) (i : Nat) (h : Memory.wf s.mem) :
    Memory.wf (ceUnits g back fuel x s i).1.mem := by
  induction fuel generalizing x s i with
  | zero => exact h
  | succ f ih =>
    unfold ceUnits
    simp only
    split
    · exact h
    · have hu := fun k => wf_unit (plan := fun s => cpyUnit x s k) x g h (wf_cpyUnit x k h)
      split
      · exact ih _ _ (hu _)
      · exact hu _

@[simp] theorem wf_cpyTurn {s : State} (x : CeCmd) (g : Group) (fuel : Nat) (h : Memory.wf s.mem) :
    Memory.wf (cpyTurn x s g fuel).1.mem := by
  unfold cpyTurn
  simp only
  split
  · split <;> simp [h]
  · simp [h]

@[simp] theorem wf_lvUnits {s : State} (g : Group) (fuel : Nat) (x : CeCmd) (i : Nat) (h : Memory.wf s.mem) :
    Memory.wf (lvUnits g fuel x s i).1.mem := by
  induction fuel generalizing x s i with
  | zero => exact h
  | succ f ih =>
    unfold lvUnits
    simp only
    split
    · split
      · exact h
      · exact wf_ceWrite _ _ _ _ _ h
    · have hp := wf_planned (plan := fun s => lvLine x s (i % 2 ^ 20) (i / 2 ^ 20)) x g h (wf_lvLine x _ _ h)
      split
      · exact hp
      · split
        · exact ih _ _ (wf_drain _ _ hp)
        · exact wf_drain _ _ hp

@[simp] theorem wf_kvUnits {s : State} (g : Group) (fuel : Nat) (x : CeCmd) (i : Nat) (h : Memory.wf s.mem) :
    Memory.wf (kvUnits g fuel x s i).1.mem := by
  induction fuel generalizing x s i with
  | zero => exact h
  | succ f ih =>
    unfold kvUnits
    simp only
    split
    · split
      · exact ih _ _ (wf_kvCount _ (wf_kvKeep _ h))
      · exact wf_kvCount _ (wf_kvKeep _ h)
    · have hu := wf_unit (plan := fun s => kvSeal x s (i / 4)) x g h (wf_kvSeal x _ h)
      split
      · split
        · exact hu
        · exact ih _ _ hu
      · exact hu
    · have hu := wf_unit (plan := fun s => kvVectors x s (i / 4)) x g h (wf_kvVectors x _ h)
      split
      · split
        · exact hu
        · exact ih _ _ hu
      · exact hu
    · have hu := wf_kvEnd x (i / 4) h
      split
      · split
        · exact hu
        · exact ih _ _ hu
      · exact hu

@[simp] theorem wf_cpywUnit {s : State} (x : CeCmd) (g : Group) (h : Memory.wf s.mem) : Memory.wf (cpywUnit x s g).1.mem := by
  unfold cpywUnit
  simp only
  split <;> simp [h]

@[simp] theorem wf_ceRun {s : State} (x : CeCmd) (g : Group) (fuel : Nat) (h : Memory.wf s.mem) : Memory.wf (ceRun x s g fuel).1.mem := by
  unfold ceRun
  split <;> simp [h]

theorem execCeCommandStart_wf {s : State} (h : Memory.wf s.mem) : NextWf (execCeCommandStart s) := by
  unfold execCeCommandStart
  simp only
  split
  · exact h
  · split
    · exact h
    · split
      · exact h
      · split <;> simp [h]

theorem execCeCommandComplete_wf {s : State} (h : Memory.wf s.mem) : NextWf (execCeCommandComplete s) := by
  unfold execCeCommandComplete
  simp only
  split
  · exact h
  · rename_i x rest _
    split
    · exact h
    · rename_i g _
      split
      · exact h
      · cases x.sem with
        | none =>
          simp only
          split
          · simp [h]
          · split <;> simp [h]
        | some i =>
          simp only
          split
          · simp [h]
          · split <;> simp [h]
      · split
        · simp [h]
        · split <;> simp [h]

end Sys2Proof.Laws

end

section
/-!
SUPPORT. Memory keeps its canonical form, part 8: the ray engine.
-/

namespace Sys2Proof.Laws

open Sys2Proof.Machine

/-! ### Ray queries: issue -/

theorem tTrapAmong_wf {e : TEnv} (c : Cause) (x : Nat) (xs : List Nat) (h : Memory.wf e.s.mem) :
    (e.trapAmong c x xs).Wf := by
  simp [TEnv.trapAmong, h]

theorem rayTrap_wf {e : TEnv} (b : RayBad) (h : Memory.wf e.s.mem) : (e.rayTrap b).Wf := by
  unfold TEnv.rayTrap
  split
  · exact h
  · exact tTrapAmong_wf _ _ _ h

theorem rqBody_wf {e : TEnv} (kind : Nat) (h : Memory.wf e.s.mem) : (rqBody kind e).Wf := by
  unfold rqBody
  simp only
  split
  · trivial
  · split
    · trivial
    · split
      · exact rayTrap_wf _ h
      · exact h

theorem rpopBody_wf {e : TEnv} (h : Memory.wf e.s.mem) : (rpopBody e).Wf := by
  simp [rpopBody, h]

@[simp] theorem updQuery_mem (s : State) (q : RayQuery) (f : QueryRef → QueryRef) : (s.updQuery q f).mem = s.mem := by
  unfold State.updQuery
  split
  · rfl
  · split <;> rfl

theorem execRayQueryTake_wf {s : State} (h : Memory.wf s.mem) : NextWf (execRayQueryTake s) := by
  unfold execRayQueryTake
  simp only
  split
  · exact h
  · simp [h]

/-! ### Ray queries: traversal -/

@[simp] theorem wf_rayUnit {s : State} (g : Group) (buf : List Byte) (a n : Nat) (h : Memory.wf s.mem) :
    Memory.wf (s.rayUnit g buf a n).1.mem := by
  unfold State.rayUnit
  simp only
  split
  · exact h
  · split
    · exact h
    · split
      · simpa using h
      · split <;> simp [h]

@[simp] theorem classes_mem (s : State) (q : RayQuery) (d : BitVec 1024) (r : Rect) : (s.classes q d r).1.mem = s.mem := by
  refine foldl_fst_mem (fun a k => ?_) _ _
  split
  · rfl
  · split <;> rfl

@[simp] theorem wf_openNode {s : State} (g : Group) (x : RayCtx) (node : Nat) (r : Rect) (h : Memory.wf s.mem) :
    Memory.wf (s.openNode g x node r).1.mem := by
  unfold State.openNode
  simp only
  split
  · simp [h]
  · simp [h]
  · split <;> simp [h]

@[simp] theorem wf_leafTest {s : State} (g : Group) (x : RayCtx) (d : BitVec 1024) (slot : Nat) (r : Rect) (h : Memory.wf s.mem) :
    Memory.wf (s.leafTest g x d slot r).1.mem := by
  unfold State.leafTest
  simp only
  split <;> simp [h]

@[simp] theorem pushFrame_mem (s : State) (x : RayCtx) (f : RayFrame) : (s.pushFrame x f).1.mem = s.mem := by
  unfold State.pushFrame
  split
  · rfl
  · split <;> simp

@[simp] theorem emitWords_mem (s : State) (q : RayQuery) (d : BitVec 1024) (node slot : Nat) (r : Rect) :
    (s.emitWords q d node slot r).1.mem = s.mem := by
  unfold State.emitWords
  split
  · rfl
  · refine foldl_fst_mem (fun a p => ?_) _ _
    simp only
    split <;> rfl

theorem wf_onRead {α : Type} (x : RayCtx) {r : State × RayGot α} {f : State → α → State × RayCtx} (h : Memory.wf r.1.mem)
    (hf : ∀ s v, Memory.wf s.mem → Memory.wf (f s v).1.mem) : Memory.wf (x.onRead r f).1.mem := by
  unfold RayCtx.onRead
  split
  · exact h
  · exact h
  · exact hf _ _ h

@[simp] theorem wf_callNode {s : State} (g : Group) (x up : RayCtx) (node : Nat) (r : Rect) (h : Memory.wf s.mem) :
    Memory.wf (s.callNode g x up node r).1.mem := by
  unfold State.callNode
  split
  · exact h
  · exact wf_onRead x (wf_openNode _ _ _ _ h) fun s f hs => by simpa using hs

@[simp] theorem callLeaf_mem (s : State) (x : RayCtx) (f : RayFrame) (slot : Nat) (r : Rect) :
    (s.callLeaf x f slot r).1.mem = s.mem := by
  unfold State.callLeaf
  split
  · rfl
  · exact pushFrame_mem _ _ _

@[simp] theorem wf_rayItem {s : State} (g : Group) (x : RayCtx) (f : RayFrame) (rest : List RayFrame) (h : Memory.wf s.mem) :
    Memory.wf (s.rayItem g x f rest).1.mem := by
  unfold State.rayItem
  simp only
  split
  · split
    · exact h
    · split
      · exact h
      · split <;> simp [h]
  · split <;> simp [h]
  · split <;> simp [h]
  · exact wf_onRead x (wf_leafTest _ _ _ _ _ h) fun s f hs => hs

@[simp] theorem wf_rayReload {s : State} (g : Group) (x : RayCtx) (h : Memory.wf s.mem) : Memory.wf (s.rayReload g x).1.mem := by
  unfold State.rayReload
  split
  · simp only
    split <;> exact h
  · exact wf_onRead x (wf_openNode _ _ _ _ h) fun s f hs => hs

@[simp] theorem wf_rayStep {s : State} (g : Group) (x : RayCtx) (h : Memory.wf s.mem) : Memory.wf (s.rayStep g x).1.mem := by
  unfold State.rayStep
  split
  · split
    · exact h
    · exact wf_callNode _ _ _ _ _ h
  · split
    · split
      · exact h
      · exact wf_rayReload _ _ h
    · exact wf_rayItem _ _ _ _ h

@[simp] theorem resultPage_mem (s : State) (g : Group) (a : Nat) : (s.resultPage g a).1.mem = s.mem := by
  unfold State.resultPage
  split
  · rfl
  · exact translate_mem _ _ _ _ _

@[simp] theorem resultPages_mem (s : State) (g : Group) (l : List Nat) : (s.resultPages g l).1.mem = s.mem := by
  induction l generalizing s with
  | nil => rfl
  | cons a rest ih =>
    unfold State.resultPages
    simp only
    split <;> simp [ih]

@[simp] theorem wf_putEntry {s : State} (g : Group) (x : RayCtx) (e : Nat × Option Page) (h : Memory.wf s.mem) :
    Memory.wf (s.putEntry g x e).mem := by
  unfold State.putEntry
  simp only
  split <;> simp [h]

@[simp] theorem wf_rayResults {s : State} (g : Group) (x : RayCtx) (h : Memory.wf s.mem) : Memory.wf (s.rayResults g x).1.mem := by
  unfold State.rayResults
  simp only
  split
  · exact h
  · split
    · split
      · exact h
      · simpa using h
    · split
      · exact h
      · exact wf_putEntry _ _ _ h

@[simp] theorem setRay_mem (s : State) (core n : Nat) (x : RayCtx) : (s.setRay core n x).mem = s.mem := rfl

@[simp] theorem wf_rayTurn {s : State} (core n : Nat) (h : Memory.wf s.mem) : Memory.wf (s.rayTurn core n).mem := by
  unfold State.rayTurn
  split
  · exact h
  · split
    · exact h
    · split
      · exact h
      · simp only
        split <;> simp [h]

/-! ### Split records, spawned warps and completion -/

theorem execSplitRecordEmit_wf {s : State} (h : Memory.wf s.mem) : NextWf (execSplitRecordEmit s) := by
  unfold execSplitRecordEmit
  simp only
  split
  · exact h
  · split
    · exact h
    · simp [h]

theorem execSpawnWarpStart_wf {s : State} (h : Memory.wf s.mem) : NextWf (execSpawnWarpStart s) := by
  unfold execSpawnWarpStart
  simp only
  split
  · exact h
  · split
    · exact h
    · simp [h]

theorem execRayQueryComplete_wf {s : State} (h : Memory.wf s.mem) : NextWf (execRayQueryComplete s) := by
  unfold execRayQueryComplete
  simp only
  split
  · exact h
  · simp [h]

end Sys2Proof.Laws

end

section
/-!
SUPPORT. Memory keeps its canonical form, part 9: page tables, TLBs, caches and fault logs.
-/

namespace Sys2Proof.Laws

open Sys2Proof.Machine

/-! ### Page tables -/

@[simp] theorem wf_putPte {s : State} (a : Nat) (e : DWord) (h : Memory.wf s.mem) : Memory.wf (s.putPte a e).mem :=
  wf_memPuts _ _ h

theorem wf_newTable {s : State} {lvl : Nat} {r : State × Nat} (h : Memory.wf s.mem) (hr : s.newTable lvl = some r) :
    Memory.wf r.1.mem := by
  unfold State.newTable at hr
  simp only at hr
  split at hr
  · cases hr
    exact wf_memZero _ _ h
  · split at hr <;> cases hr
    exact wf_memZero _ _ h

/-- By recursion on the levels of the walk: each writes an entry, or makes a table and goes below. -/
theorem wf_putLeaf {s : State} (va target : Nat) (pte : DWord) (ls : List (Nat × Nat × Nat)) (table lvl : Nat)
    (h : Memory.wf s.mem) : Memory.wf (s.putLeaf va target pte ls table lvl).mem := by
  induction ls generalizing s table lvl with
  | nil => exact h
  | cons l ls ih =>
    unfold State.putLeaf
    simp only
    split
    · exact wf_putPte _ _ h
    · split
      · exact ih _ _ h
      · split
        · exact h
        · rename_i t ht
          exact ih _ _ (wf_putPte _ _ (wf_newTable h ht))

@[simp] theorem wf_mapLeaf {s : State} (asid va lvl : Nat) (pte : DWord) (h : Memory.wf s.mem) :
    Memory.wf (s.mapLeaf asid va lvl pte).mem := by
  unfold State.mapLeaf
  simp only
  split
  · exact wf_putLeaf _ _ _ _ _ _ h
  · split
    · exact h
    · rename_i t ht
      exact wf_putLeaf _ _ _ _ _ _ (wf_newTable h ht)

theorem wf_editLeaf {s : State} (va : Nat) (f : DWord → DWord) (ls : List (Nat × Nat × Nat)) (table : Nat)
    (h : Memory.wf s.mem) : Memory.wf (s.editLeaf va f ls table).mem := by
  induction ls generalizing table with
  | nil => exact h
  | cons l ls ih =>
    unfold State.editLeaf
    simp only
    split
    · exact h
    · split
      · exact wf_putPte _ _ h
      · exact ih _

@[simp] theorem wf_editPage {s : State} (asid va : Nat) (f : DWord → DWord) (h : Memory.wf s.mem) :
    Memory.wf (s.editPage asid va f).mem := by
  unfold State.editPage
  simp only
  split
  · exact wf_editLeaf _ _ _ _ h
  · exact h

@[simp] theorem wf_mapEntry {s : State} (i : Nat) (h : Memory.wf s.mem) : Memory.wf (s.mapEntry i).mem := wf_mapLeaf _ _ _ _ h

theorem mapupd_wf {s : State} (h : Memory.wf s.mem) : NextWf s.mapupd := by
  unfold State.mapupd
  simp only
  split
  · simpa using h
  · exact cmdUnit_wf h fun i => wf_mapEntry i h

@[simp] theorem wf_decay {s : State} (i : Nat) (h : Memory.wf s.mem) : Memory.wf (s.decay i).mem := wf_memPuts _ _ h

theorem execMapupdDecay_wf {s : State} (h : Memory.wf s.mem) : NextWf (execMapupdDecay s) := by
  unfold execMapupdDecay
  simp only
  split
  · exact cmdUnit_wf h fun i => wf_decay i h
  · simpa using h

/-! ### TLBINV and CODEINV -/

@[simp] theorem wf_settleRay {s : State} (r : InvRange) (k n : Nat) (h : Memory.wf s.mem) :
    Memory.wf (s.settleRay r k n).mem := by
  unfold State.settleRay
  split
  · exact h
  · split
    · exact h
    · split
      · rw [setRay_mem]
        exact wf_foldl (fun s e => wf_putEntry _ _ _) _ h
      · exact h

@[simp] theorem wf_settleResults {s : State} (r : InvRange) (h : Memory.wf s.mem) : Memory.wf (s.settleResults r).mem :=
  wf_foldl (fun _ _ hs => wf_foldl (fun _ _ => wf_settleRay _ _ _) _ hs) _ h

@[simp] theorem tlbInv_mem (s : State) (r : InvRange) (re : Bool) : (s.tlbInv r re).mem = s.mem := rfl

theorem execTlbinv_wf {s : State} (h : Memory.wf s.mem) : NextWf (execTlbinv s) := by
  refine cmdResult_wf h fun t ht => ?_
  split_ifs at ht
  cases ht
  simpa using wf_settleResults _ h

@[simp] theorem dropL1i_mem (s : State) (p : Nat → Nat → Bool) : (s.dropL1i p).mem = s.mem := rfl

@[simp] theorem dropCode_mem (s : State) (d ln : Nat) : (s.dropCode d ln).mem = s.mem := by
  unfold State.dropCode
  split <;> rfl

@[simp] theorem codeInvRange_mem (s : State) (asid va n : Nat) : (s.codeInvRange asid va n).mem = s.mem := by
  refine foldl_mem (fun s d => ?_) _ _
  simp

@[simp] theorem codeInvAsid_mem (s : State) (asid : Nat) : (s.codeInvAsid asid).mem = s.mem := by
  refine (foldl_mem (fun s d => ?_) _ _).trans (dropL1i_mem s _)
  simp

theorem execCodeinv_wf {s : State} (h : Memory.wf s.mem) : NextWf (execCodeinv s) := by
  refine cmdResult_wf h fun t ht => ?_
  split_ifs at ht <;> obtain rfl := Except.ok.inj ht
  · rwa [codeInvRange_mem]
  · rwa [codeInvAsid_mem]

/-! ### Walks and evictions -/

theorem execPageWalk_wf {s : State} (h : Memory.wf s.mem) : NextWf (execPageWalk s) := by
  unfold execPageWalk
  simp only
  split
  · exact h
  · split <;> simpa using h

@[simp] theorem askWalk_mem (s : State) (t : Turn) (m : Miss) : (s.askWalk t m).mem = s.mem := by
  unfold State.askWalk
  simp only
  split
  · rfl
  · split <;> simp

@[simp] theorem wf_evict {s : State} (c : CacheLine) (h : Memory.wf s.mem) : Memory.wf (s.evict c).mem := by
  cases c with
  | l1 k ln => simpa [State.evict] using wf_flushL1Line _ k ln 2 h
  | dieCache d ln => simpa [State.evict] using wf_flushDieLine d ln h
  | frame ln =>
    simp only [State.evict, setPartLine_mem, mem_ite]
    split
    · exact h
    · exact wf_homeWrite _ _ _ h
  | ring ln =>
    simp only [State.evict, setPartLine_mem, mem_ite]
    split
    · exact h
    · exact wf_homeWrite _ _ _ h
  | l1i k asid ln => simpa [State.evict] using h
  | codeCache d ln => simpa [State.evict] using h
  | l1Tlb k n => simpa [State.evict] using h
  | dieTlb d n => simpa [State.evict] using h

@[simp] theorem pickKey_mem (s : State) (l : List Nat) (f : Nat → CacheLine) : (s.pickKey l f).1.mem = s.mem := rfl

theorem wf_shrink {choose : State → State × Option CacheLine} (hc : ∀ s, (choose s).1.mem = s.mem) (n : Nat) {s : State}
    (h : Memory.wf s.mem) : Memory.wf (State.shrink choose n s).mem := by
  induction n generalizing s with
  | zero => exact h
  | succ n ih =>
    unfold State.shrink
    simp only
    split
    · rwa [hc]
    · exact ih (wf_evict _ (by rwa [hc]))

theorem wf_shrink_pickKey (l : State → List Nat) (f : Nat → CacheLine) (n : Nat) {s : State} (h : Memory.wf s.mem) :
    Memory.wf (State.shrink (fun s => s.pickKey (l s) f) n s).mem := wf_shrink (fun s => pickKey_mem s (l s) f) n h

@[simp] theorem wf_fitCore {s : State} (k : Nat) (h : Memory.wf s.mem) : Memory.wf (s.fitCore k).mem := by
  unfold State.fitCore
  exact wf_shrink_pickKey _ _ _ (wf_shrink_pickKey _ _ _ (wf_shrink_pickKey _ _ _ h))

/-- The sizes are generalised first: no comparison of terms may count them down. -/
@[simp] theorem wf_fitDie {s : State} (d : Nat) (h : Memory.wf s.mem) : Memory.wf (s.fitDie d).mem := by
  unfold State.fitDie
  generalize capCode = nc
  generalize capDie = nd
  generalize capDieTlb = nt
  exact wf_shrink_pickKey _ _ _ (wf_shrink_pickKey _ _ _ (wf_shrink_pickKey _ _ _ h))

theorem wf_fitParts {s : State} (kind : State → Nat → Nat) (h : Memory.wf s.mem) :
    Memory.wf
      (let s := State.shrink (fun s => s.pickKey (s.frame.map Prod.fst) .frame) (s.frame.length - kind s 1) s
       State.shrink (fun s => s.pickKey (s.ringp.map Prod.fst) .ring) (s.ringp.length - kind s 2) s).mem :=
  wf_shrink_pickKey _ _ _ (wf_shrink_pickKey _ _ _ h)

theorem wf_fitCores {s : State} (l : List Nat) (h : Memory.wf s.mem) : Memory.wf (l.foldl State.fitCore s).mem :=
  wf_foldl (fun _ x => wf_fitCore x) l h

theorem wf_fitDies {s : State} (l : List Nat) (h : Memory.wf s.mem) : Memory.wf (l.foldl State.fitDie s).mem :=
  wf_foldl (fun _ x => wf_fitDie x) l h

@[simp] theorem wf_fitCaches {s : State} (h : Memory.wf s.mem) : Memory.wf s.fitCaches.mem := by
  rw [State.fitCaches]
  exact wf_fitParts State.capPart (wf_fitDies _ (wf_fitCores _ h))

theorem execCacheEviction_wf {s : State} (h : Memory.wf s.mem) : NextWf (execCacheEviction s) := wf_evict _ h

/-! ### Fault logs -/

@[simp] theorem wf_physPut {s : State} (a : Nat) (b : Byte) (h : Memory.wf s.mem) : Memory.wf (s.physPut a b).mem := by
  unfold State.physPut
  simp only
  split
  · simpa using h
  · split
    · simpa using h
    · exact wf_homeWrite _ _ _ h

@[simp] theorem wf_physPuts {s : State} (a : Nat) (bs : List Byte) (h : Memory.wf s.mem) : Memory.wf (s.physPuts a bs).mem :=
  wf_foldl (fun _ _ => wf_physPut _ _) _ h

@[simp] theorem wf_faultDrain {s : State} (d : Nat) (f : FaultEntry) (h : Memory.wf s.mem) : Memory.wf (s.drain d f).mem := by
  simp [State.drain, h]

theorem execFaultLogDrain_wf {s : State} (h : Memory.wf s.mem) : NextWf (execFaultLogDrain s) := by
  unfold execFaultLogDrain
  split
  · exact h
  · exact wf_faultDrain _ _ h

theorem wf_drainAll {s : State} (d n : Nat) (h : Memory.wf s.mem) : Memory.wf (s.drainAll d n).mem := by
  induction n generalizing s with
  | zero => exact h
  | succ n ih =>
    unfold State.drainAll
    split
    · exact h
    · exact ih (wf_faultDrain _ _ h)

theorem execFaultLogRetest_wf {s : State} (h : Memory.wf s.mem) : NextWf (execFaultLogRetest s) :=
  wf_foldl (fun _ _ => wf_drainAll _ _) _ h

end Sys2Proof.Laws

end

section
/-!
SUPPORT. Memory keeps its canonical form, part 10: code objects, launch records and the queue interpreter.
-/

namespace Sys2Proof.Machine

/-- The state that a bytecode instruction's answer carries has canonical memory. -/
def QRes.Wf : QRes → Prop
  | .go _ | .fail _ _ => True
  | .goWith s _ | .failWith s _ | .act s => Memory.wf s.mem

end Sys2Proof.Machine

namespace Sys2Proof.Laws

open Sys2Proof.Machine

/-! ### Code objects -/

@[simp] theorem translation_mem (s : State) (digest bs : List Byte) : (s.translation digest bs).1.mem = s.mem := by
  unfold State.translation
  split
  · rfl
  · split <;> rfl

@[simp] theorem wf_objBytes {s : State} (t asid addr : Nat) (h : Memory.wf s.mem) :
    Memory.wf (s.objBytes t asid addr).1.mem := by
  unfold State.objBytes
  simp only
  split
  · exact h
  · split
    · simp [h]
    · split <;> simp [h]

theorem wf_putTranslation {s t : State} {asid addr : Nat} {bs : List Byte} {x : Translation} (h : Memory.wf s.mem)
    (ht : s.putTranslation asid addr bs x = some t) : Memory.wf t.mem := by
  unfold State.putTranslation at ht
  simp only at ht
  split at ht
  · cases ht
  · obtain ⟨u, hu, rfl⟩ := Option.map_eq_some_iff.1 ht
    obtain ⟨v, hv, hu⟩ := Option.bind_eq_some_iff.1 hu
    obtain ⟨w, hw, hv⟩ := Option.bind_eq_some_iff.1 hv
    rw [codeInvRange_mem]
    exact wf_vaWrite (wf_vaWrite (wf_vaWrite h hw) hv) hu

@[simp] theorem wf_verify {s : State} (t asid addr : Nat) (h : Memory.wf s.mem) : Memory.wf (s.verify t asid addr).1.mem := by
  have hb : Memory.wf (s.objBytes t asid addr).1.mem := wf_objBytes _ _ _ h
  unfold State.verify
  simp only
  split
  · exact hb
  · split
    · exact hb
    · split
      · exact hb
      · split
        · exact hb
        · split
          · split <;> exact hb
          · split
            · exact hb
            · split
              · simpa using hb
              · split
                · simpa using hb
                · rename_i _ u hu
                  exact wf_putTranslation (by simpa using hb) hu

@[simp] theorem wf_useObj {s : State} (launch : Bool) (t asid addr : Nat) (h : Memory.wf s.mem) :
    Memory.wf (s.useObj launch t asid addr).1.mem := by
  have hv : Memory.wf (s.verify t asid addr).1.mem := wf_verify _ _ _ h
  unfold State.useObj
  simp only
  split
  · simpa using h
  · split
    · exact hv
    · split <;> exact hv

/-! ### Launch records -/

@[simp] theorem wf_lrRead {s : State} (t va : Nat) (h : Memory.wf s.mem) : Memory.wf (s.lrRead t va).1.mem := by
  simp [State.lrRead, h]

@[simp] theorem wf_lrOnce {s : State} (t va : Nat) (known : Option (Nat × LaunchBits)) (h : Memory.wf s.mem) :
    Memory.wf (s.lrOnce t va known).1.mem := by
  unfold State.lrOnce
  split
  · split
    · exact h
    · exact wf_lrRead _ _ h
  · exact wf_lrRead _ _ h

@[simp] theorem wf_launchTake {s : State} (t va : Nat) (invoke : Bool) (staged : Option (Nat × List DWord))
    (known : Option (Nat × LaunchBits)) (h : Memory.wf s.mem) : Memory.wf (s.launchTake t va invoke staged known).1.mem := by
  have hv : Memory.wf (s.lrOnce t va known).1.mem := wf_lrOnce _ _ _ h
  have ho (asid addr : Nat) : Memory.wf ((s.lrOnce t va known).1.useObj true t asid addr).1.mem := wf_useObj _ _ _ _ hv
  unfold State.launchTake
  simp only
  split
  · exact hv
  · split
    · exact hv
    · split
      · exact hv
      · split
        · exact ho _ _
        · split
          · exact ho _ _
          · split
            · exact ho _ _
            · split
              · exact ho _ _
              · split
                · exact ho _ _
                · split
                  · exact ho _ _
                  · split <;> exact ho _ _
                  · exact ho _ _

@[simp] theorem wf_chkres {s : State} (t slot rec_ args narg : Nat) (known : Option (Nat × LaunchBits)) (h : Memory.wf s.mem) :
    Memory.wf (s.chkres t slot rec_ args narg known).1.mem := by
  unfold State.chkres
  simp only
  split
  · exact h
  · split
    · split <;> simp [h]
    · simp [h]

/-! ### Packets -/

@[simp] theorem wf_peek {s : State} (r : Ring) (h : Memory.wf s.mem) : Memory.wf (s.peek r).1.mem := wf_vaRead _ _ _ _ _ h

@[simp] theorem failPacket_mem (s : State) (queue : Nat) (index : DWord) (p : List Word) (launches : Bool) (st : Status)
    (code : Nat) : (s.failPacket queue index p launches st code).mem = s.mem := by
  unfold State.failPacket
  simp only
  split
  · split
    · split <;> simp
    · simp
  · split <;> simp

@[simp] theorem failRun_mem (s : State) (r : QRun) (st : Status) (code : Nat) : (s.failRun r st code).mem = s.mem :=
  failPacket_mem _ _ _ _ _ _ _

@[simp] theorem takeCause_mem (s : State) (r : Ring) : (s.takeCause r).1.mem = s.mem := by
  unfold State.takeCause
  split <;> rfl

theorem wf_publish {s : State} (r : Ring) (rd : DWord) (h : Memory.wf s.mem) : Memory.wf ((s.publish r rd).getD s).mem := by
  cases hp : s.publish r rd with
  | none => exact h
  | some t => exact wf_vaWrite h hp

@[simp] theorem wf_takePacket {s : State} (q : Nat) (r : Ring) (p : List Word) (h : Memory.wf s.mem) :
    Memory.wf (s.takePacket q r p).mem := by
  have h1 : Memory.wf (s.takeCause r).1.mem := by rwa [takeCause_mem]
  unfold State.takePacket
  simp only
  split
  · rw [failPacket_mem]
    split
    · exact wf_publish _ _ h1
    · exact h1
  · split
    · exact wf_publish _ _ h1
    · exact h1

theorem execQiTakePacket_wf {s : State} (h : Memory.wf s.mem) : NextWf (execQiTakePacket s) := by
  unfold execQiTakePacket
  simp only
  split
  · exact h
  · split
    · exact h
    · split
      · exact h
      · split
        · exact h
        · exact wf_takePacket _ _ _ (wf_peek _ h)

@[simp] theorem wf_takeCmd {s : State} (ty : Nat) (c : Command) (n graph : Nat) (known : Option (Nat × LaunchBits))
    (h : Memory.wf s.mem) : Memory.wf (s.takeCmd ty c n graph known).1.mem := by
  have hl (t va : Nat) (i : Bool) : Memory.wf (s.launchTake t va i c.staged known).1.mem := wf_launchTake _ _ _ _ _ h
  unfold State.takeCmd
  simp only
  split
  case h_1 | h_2 =>
    split
    · exact h
    · split
      · exact h
      · split <;> exact hl _ _ _
  case h_3 | h_4 => split <;> exact h
  case h_5 => split <;> exact wf_headTake _ _ h
  case h_6 => exact h

theorem wf_takeCmds {s : State} (graph : Nat) (known : Option (Nat × LaunchBits)) (cs : List (Nat × Command)) (n : Nat)
    (h : Memory.wf s.mem) : Memory.wf (s.takeCmds graph known cs n).1.mem := by
  induction cs generalizing s n with
  | nil => exact h
  | cons c cs ih =>
    obtain ⟨ty, c⟩ := c
    unfold State.takeCmds
    simp only
    split
    · exact wf_takeCmd _ _ _ _ _ h
    · exact ih _ (wf_takeCmd _ _ _ _ _ h)

@[simp] theorem wf_qiDone {s : State} (r : QRun) (h : Memory.wf s.mem) : Memory.wf (s.qiDone r).mem := by
  unfold State.qiDone
  simp only
  split
  · rwa [failRun_mem]
  · split
    · rwa [failRun_mem]
    · split
      · rwa [failRun_mem]
      · split
        · rw [failRun_mem]
          exact wf_takeCmds _ _ _ _ h
        · rw [finishPacket_mem]
          exact wf_takeCmds _ _ _ _ h

/-! ### Bytecode -/

theorem wf_qConclude {s : State} {r : QRun} {x : QRes} (h : Memory.wf s.mem) (hx : x.Wf) : Memory.wf (s.qConclude r x).mem := by
  cases x <;> simp_all [State.qConclude, QRes.Wf]

/-- A bytecode instruction keeps memory canonical where its body does. -/
theorem qIssue_wf {s : State} {body : QRun → QRes} (h : Memory.wf s.mem) (hb : ∀ r, (body r).Wf) : NextWf (qIssue s body) := by
  unfold qIssue
  split
  · split
    · simpa using h
    · exact wf_qConclude h (hb _)
  · trivial

theorem qAlu_wf {s : State} (w : QWord) (f : Word → Word → Word) (h : Memory.wf s.mem) : NextWf (qAlu w s f) :=
  qIssue_wf h fun _ => trivial

theorem execLdm_wf {s : State} (w : QWord) (h : Memory.wf s.mem) : NextWf (execLdm w s) := by
  refine qIssue_wf h fun r => ?_
  simp only
  split
  · trivial
  · split
    · trivial
    · split <;> exact wf_vaNat _ _ _ _ _ h

theorem execEndb_wf {s : State} (h : Memory.wf s.mem) : NextWf (execEndb s) := by
  refine qIssue_wf h fun r => ?_
  split
  · trivial
  · split <;> trivial

theorem execChkres_wf {s : State} (w : QWord) (h : Memory.wf s.mem) : NextWf (execChkres w s) := by
  refine qIssue_wf h fun r => ?_
  simp only
  split <;> exact wf_chkres _ _ _ _ _ _ h

theorem execEmitC_wf {s : State} (w : QWord) (h : Memory.wf s.mem) : NextWf (execEmitC w s) := by
  refine qIssue_wf h fun r => ?_
  split <;> trivial

theorem execDone_wf {s : State} (h : Memory.wf s.mem) : NextWf (execDone s) := qIssue_wf h fun r => wf_qiDone r h

theorem execFail_wf {s : State} (w : QWord) (h : Memory.wf s.mem) : NextWf (execFail w s) := qIssue_wf h fun _ => trivial

end Sys2Proof.Laws

end

section
/-!
SUPPORT. Memory keeps its canonical form, part 11: the launch unit.
-/

namespace Sys2Proof.Laws

open Sys2Proof.Machine

/-! ### Launches and readiness -/

theorem launch_wf {s : State} (h : Memory.wf s.mem) : NextWf s.launch := by
  unfold State.launch
  split
  · exact h
  · split
    · exact h
    · split
      · exact h
      · simpa using h

@[simp] theorem wf_bounds {s : State} (g : Grid) (h : Memory.wf s.mem) : Memory.wf (s.bounds g).1.mem := by
  unfold State.bounds
  simp only
  generalize hr : List.foldl _ _ _ = r
  have hm : Memory.wf r.1.mem := by
    rw [← hr]
    refine wf_foldl_fst (fun a f ha => ?_) _ h
    split
    · exact ha
    · split
      · split <;> exact wf_vaNat _ _ _ _ _ ha
      · exact ha
  split
  · exact hm
  · split <;> exact hm

theorem execGridReady_wf {s : State} (h : Memory.wf s.mem) : NextWf (execGridReady s) := by
  unfold execGridReady
  split
  · exact h
  · split
    · exact h
    · split
      · simpa using h
      · exact h
      · simp only
        split
        · simp [h]
        · split
          · simp [h]
          · split
            · simp [h]
            · split <;> simp [h]

/-! ### Placement -/

@[simp] theorem seat_mem (s : State) (g : Group) : (s.seat g).mem = s.mem := by
  unfold State.seat
  simp only
  split <;> simp

theorem placeOn_mem {s t : State} {g : Group} {c : Nat} (ht : s.placeOn g c = some t) : t.mem = s.mem := by
  obtain ⟨g', -, rfl⟩ := Option.map_eq_some_iff.1 ht
  exact seat_mem s g'

theorem wf_placeAll {s t : State} {gs : List Group} {cores : List Nat} (h : Memory.wf s.mem)
    (ht : s.placeAll gs cores = some t) : Memory.wf t.mem := by
  refine wf_foldl_option (fun o x ho t ht => ?_) _ (fun t ht => ?_) t ht
  · obtain ⟨u, hu, hc⟩ := Option.mem_bind_iff.1 ht
    obtain ⟨c, -, hp⟩ := Option.bind_eq_some_iff.1 hc
    rw [placeOn_mem hp]
    exact ho u hu
  · obtain rfl := Option.some.inj ht
    exact h

theorem wf_seatAt {s t : State} {gs : List Group} {l : List (Nat × Nat)} (h : Memory.wf s.mem)
    (ht : s.seatAt gs l = some t) : Memory.wf t.mem := by
  refine wf_foldl_option (fun o x ho t ht => ?_) _ (fun t ht => ?_) t ht
  · obtain ⟨u, hu, hc⟩ := Option.mem_bind_iff.1 ht
    obtain ⟨g, -, rfl⟩ := Option.map_eq_some_iff.1 hc
    rw [seat_mem]
    exact ho u hu
  · obtain rfl := Option.some.inj ht
    exact h

@[simp] theorem tookCand_mem (s : State) (r : Grid) (gs : List Group) : (s.tookCand r gs).mem = s.mem := rfl

theorem wf_tryPlace {s t : State} {r : Grid} {gid : Nat} (h : Memory.wf s.mem) (ht : s.tryPlace r gid = some t) :
    Memory.wf t.mem := by
  obtain ⟨cores, -, hc⟩ := List.exists_of_findSome?_eq_some ht
  split at hc
  · cases hc
  · obtain ⟨u, hu, rfl⟩ := Option.map_eq_some_iff.1 (Option.filter_eq_some_iff.1 hc).1
    exact (wf_placeAll h hu :)

theorem wf_placeHeld {s t : State} {uid : Nat} (h : Memory.wf s.mem) (ht : s.placeHeld uid = some t) : Memory.wf t.mem := by
  obtain ⟨hold, -, ht⟩ := Option.bind_eq_some_iff.1 ht
  obtain ⟨c, -, ht⟩ := Option.bind_eq_some_iff.1 ht
  obtain ⟨u, hu, rfl⟩ := Option.map_eq_some_iff.1 ht
  obtain ⟨v, hv, rfl⟩ := Option.map_eq_some_iff.1 hu
  exact (wf_seatAt h hv :)

theorem wf_placeGrid {s t : State} {r : Grid} (h : Memory.wf s.mem) (ht : s.placeGrid r = some t) : Memory.wf t.mem := by
  obtain ⟨gid, -, ht⟩ := Option.bind_eq_some_iff.1 ht
  obtain ht | ⟨-, ht⟩ := Option.or_eq_some_iff.1 ht
  · exact wf_placeHeld h ht
  · exact wf_tryPlace h ht

theorem wf_placeCand {s t : State} {q : Nat} (h : Memory.wf s.mem) (ht : s.placeCand q = some t) : Memory.wf t.mem := by
  obtain ⟨r, -, ht⟩ := Option.bind_eq_some_iff.1 ht
  exact wf_placeGrid h ht

theorem wf_placeOne {s t : State} (h : Memory.wf s.mem) (ht : s.placeOne = some t) : Memory.wf t.mem := by
  obtain ⟨i, -, hi⟩ := List.exists_of_findSome?_eq_some ht
  obtain ⟨q, -, hq⟩ := Option.bind_eq_some_iff.1 hi
  obtain ⟨u, hu, rfl⟩ := Option.map_eq_some_iff.1 hq
  exact (wf_placeCand h hu :)

theorem preemptFor_mem {s t : State} {r : Grid} {gid : Nat} (ht : s.preemptFor r gid = some t) : t.mem = s.mem := by
  obtain ⟨cores, -, hc⟩ := List.exists_of_findSome?_eq_some ht
  split at hc
  · cases hc
  · obtain ⟨⟨u, places, gone⟩, -, hu⟩ := Option.bind_eq_some_iff.1 hc
    simp only at hu
    split at hu <;> cases hu
    rfl

@[simp] theorem preempts_mem (s : State) : s.preempts.mem = s.mem := by
  refine foldl_mem (fun s i => foldl_mem (fun s q => ?_) _ _) _ _
  split
  · rfl
  · rename_i r gid _
    split
    · rfl
    · cases hp : s.preemptFor r gid with
      | none => rfl
      | some t => exact preemptFor_mem hp

@[simp] theorem tidyHolds_mem (s : State) : s.tidyHolds.mem = s.mem := rfl

theorem wf_placedOr {s : State} (h : Memory.wf s.mem) : Memory.wf (s.placeOne.getD s).mem := by
  cases hp : s.placeOne with
  | none => exact h
  | some t => exact wf_placeOne h hp

theorem execGroupPlacement_wf {s : State} (h : Memory.wf s.mem) : NextWf (execGroupPlacement s) := by
  have ht : Memory.wf s.tidyHolds.mem := by rwa [tidyHolds_mem]
  unfold execGroupPlacement
  simp only
  generalize s.tidyHolds = t at ht
  simp [ht, wf_placedOr ht]

/-! ### Start, end, pre-emption and resumption -/

theorem execGroupStart_wf {s : State} (h : Memory.wf s.mem) : NextWf (execGroupStart s) := by
  unfold execGroupStart
  split
  · exact h
  · split
    · exact h
    · simpa using h

@[simp] theorem wf_endGroup {s : State} (g : Group) (h : Memory.wf s.mem) : Memory.wf (s.endGroup g).mem := by
  unfold State.endGroup
  simp only
  split
  · simp [h]
  · split <;> simp [h]

theorem execGroupEnd_wf {s : State} (h : Memory.wf s.mem) : NextWf (execGroupEnd s) := by
  unfold execGroupEnd
  split
  · exact h
  · split
    · exact wf_endGroup _ h
    · exact h

theorem execQuantumExpiry_wf {s : State} (h : Memory.wf s.mem) : NextWf (execQuantumExpiry s) := by
  unfold execQuantumExpiry
  split
  · exact h
  · split
    · split <;> exact h
    · exact h

@[simp] theorem wf_ctxFault {s : State} (g : Group) (va agent : Nat) (xl : Option Nat) (h : Memory.wf s.mem) :
    Memory.wf (s.ctxFault g va agent xl).mem := by
  unfold State.ctxFault
  split <;> simp [h]

@[simp] theorem putAway_mem (s : State) (g : Group) (toHead : Bool) : (s.putAway g toHead).mem = s.mem := rfl

theorem execGroupSaveComplete_wf {s : State} (h : Memory.wf s.mem) : NextWf (execGroupSaveComplete s) := by
  unfold execGroupSaveComplete
  split
  · exact h
  · split
    · exact h
    · simp only
      split
      · simp [h]
      · split <;> simp (disch := simp [h])

theorem execGroupResumption_wf {s : State} (h : Memory.wf s.mem) : NextWf (execGroupResumption s) := by
  unfold execGroupResumption
  split
  · exact h
  · split
    · exact h
    · simp only
      split
      · simp [h]
      · split
        · simp [h]
        · split <;> simp (disch := simp [h])

@[simp] theorem wf_strike {s : State} (uid loc : Nat) (h : Memory.wf s.mem) : Memory.wf (s.strike uid loc).mem := by
  unfold State.strike
  split
  · exact h
  · simp only
    split <;> simp [h]

end Sys2Proof.Laws

end

section
/-!
SUPPORT. Memory keeps its canonical form, part 12: the other packets, the counters, LNCH and the outside world.
-/

namespace Sys2Proof.Laws

open Sys2Proof.Machine

/-! ### Packets -/

@[simp] theorem wf_copyOne {s : State} (t asid src dst n k : Nat) (old : SMap Byte) (h : Memory.wf s.mem) :
    Memory.wf (s.copyOne t asid src dst n k old).1.mem := by
  unfold State.copyOne
  simp only
  have hr : Memory.wf (s.vaRead t asid (src + (copyUnit dst n k).1) (copyUnit dst n k).2 .read).1.mem := wf_vaRead _ _ _ _ _ h
  split
  · exact hr
  · split
    · rename_i u hu
      exact wf_vaWrite (by rwa [oldOrNew_mem]) hu
    · rwa [oldOrNew_mem]

theorem wf_copyRun {s : State} (t asid src dst n fuel k : Nat) (old : SMap Byte) (h : Memory.wf s.mem) :
    Memory.wf (s.copyRun t asid src dst n fuel k old).1.mem := by
  induction fuel generalizing s k old with
  | zero => exact h
  | succ fuel ih =>
    unfold State.copyRun
    simp only
    split
    · exact h
    · split
      · exact ih _ _ (wf_copyOne _ _ _ _ _ _ _ h)
      · exact wf_copyOne _ _ _ _ _ _ _ h

theorem execCopy_wf {s : State} (h : Memory.wf s.mem) : NextWf (execCopy s) := by
  unfold execCopy
  simp only
  split
  · simpa using h
  · split
    · simpa using h
    · split
      · simpa using h
      · split <;> simpa using wf_copyRun _ _ _ _ _ _ _ _ h

theorem execNopPacket_wf {s : State} (h : Memory.wf s.mem) : NextWf (execNopPacket s) := by simpa [execNopPacket] using h

theorem execWaitsem_wf {s : State} (h : Memory.wf s.mem) : NextWf (execWaitsem s) := by simp [execWaitsem, h]

theorem execSignalsem_wf {s : State} (h : Memory.wf s.mem) : NextWf (execSignalsem s) := by simp [execSignalsem, h]

theorem execFencePacket_wf {s : State} (h : Memory.wf s.mem) : NextWf (execFencePacket s) := by simp [execFencePacket, h]

@[simp] theorem eventPacket_mem (s : State) (c : Command) : (s.eventPacket c).mem = s.mem := by simp [State.eventPacket]

@[simp] theorem causedEvent_mem (s : State) : s.causedEvent.mem = s.mem := by
  unfold State.causedEvent
  split <;> simp

/-! ### Resident slots -/

@[simp] theorem wf_setPins {s : State} (asid : Nat) (ps : List (Nat × Nat)) (on : Bool) (h : Memory.wf s.mem) :
    Memory.wf (s.setPins asid ps on).mem := wf_foldl (fun _ _ => wf_editPage _ _ _) _ h

@[simp] theorem wf_freeSlot {s : State} (n : Nat) (h : Memory.wf s.mem) : Memory.wf (s.freeSlot n).mem := by
  unfold State.freeSlot
  split
  · exact h
  · exact wf_setPins _ _ _ h

theorem execSlotload_wf {s : State} (h : Memory.wf s.mem) : NextWf (execSlotload s) := by
  unfold execSlotload
  simp only
  generalize (if Command.bits s.ctl.cmd 1 11 0 = 0 then s.abase (Command.tenant s.ctl.cmd)
    else Command.bits s.ctl.cmd 1 11 0) = asid
  split
  · simpa using h
  · split
    · simpa using h
    · split
      · simpa using h
      · split
        · simp [h]
        · split
          · simp [h]
          · split
            · simp [h]
            · split
              · simp [h]
              · rw [nextWf_next, cmdDone_mem]
                exact wf_setPins _ _ _ (wf_freeSlot _ (wf_vaRead _ _ _ _ _ (wf_useObj _ _ _ _ h)))

theorem execSlotfree_wf {s : State} (h : Memory.wf s.mem) : NextWf (execSlotfree s) := by
  unfold execSlotfree
  simp only
  split
  · simpa using h
  · split
    · simpa using h
    · split <;> simp [h]

/-! ### Queue programs and rings -/

theorem execQprog_wf {s : State} (h : Memory.wf s.mem) : NextWf (execQprog s) := by
  unfold execQprog
  simp only
  split
  · split
    · simp [h]
    · split <;> simp [h]
  · simp [h]

theorem execRsetupRegister_wf {s : State} (h : Memory.wf s.mem) : NextWf (execRsetupRegister s) := by
  unfold execRsetupRegister
  simp only
  split
  · simpa using h
  · split
    · simpa using h
    · split
      · simpa using h
      · split
        · simp [h]
        · split <;> simp [h]

theorem execRsetupUnregister_wf {s : State} (h : Memory.wf s.mem) : NextWf (execRsetupUnregister s) := by
  simp [execRsetupUnregister, h]

theorem execRsetupKill_wf {s : State} (h : Memory.wf s.mem) : NextWf (execRsetupKill s) := by
  simp [execRsetupKill, h]

/-! ### Counters -/

@[simp] theorem wf_snapshot {s : State} (t : Nat) (h : Memory.wf s.mem) : Memory.wf (s.snapshot t).mem := by
  unfold State.snapshot
  simp only [bump_mem]
  exact wf_physPuts _ _ (wf_physPuts _ _ (wf_physPuts _ _ h))

theorem execCounterSnapshot_wf {s : State} (h : Memory.wf s.mem) : NextWf (execCounterSnapshot s) := by
  simp [execCounterSnapshot, h]

theorem execEvent_wf {s : State} (h : Memory.wf s.mem) : NextWf (execEvent s) := by
  simp [execEvent, h]

/-! ### LNCH -/

@[simp] theorem setWeight_mem (s : State) (grid w : Nat) : (s.setWeight grid w).mem = s.mem := by
  unfold State.setWeight
  split <;> rfl

@[simp] theorem wf_lnchStores {e : TEnv} {s : State} (l : List ((Nat × Except Bad Place) × Nat)) (h : Memory.wf s.mem) :
    Memory.wf (e.lnchStores s l).mem := by
  refine wf_foldl (fun s q hs => ?_) _ h
  split
  · simp [hs]
  · exact hs

theorem lnchBody_wf {e : TEnv} (h : Memory.wf e.s.mem) : (lnchBody e).Wf := by
  unfold lnchBody
  simp only
  split
  · trivial
  · split
    · exact badRes_wf _ _ (by simpa using h)
    · split
      · trivial
      · split
        · simpa using h
        · simp [h]

/-! ### Queue pairs, events and operator messages -/

theorem whenUp_wf {s : State} {r : Host.Outcome State Fault Refusal} (h : NextWf r) : NextWf (s.whenUp r) := by
  unfold State.whenUp
  split
  · exact h
  · trivial

theorem onPair_wf {s : State} {f : QPair → Host.Outcome State Fault Refusal} (h : Memory.wf s.mem) (hf : ∀ q, NextWf (f q)) :
    NextWf (s.onPair f) := by
  unfold State.onPair
  split
  · exact h
  · refine whenUp_wf ?_
    split
    · exact h
    · exact hf _

@[simp] theorem nakInvalid_mem (s : State) (n : Nat) (q : QPair) : (s.nakInvalid n q).mem = s.mem := rfl

@[simp] theorem unposted_mem (s : State) (asid va n : Nat) : (s.unposted asid va n).mem = s.mem := rfl

@[simp] theorem wf_logWritten {s : State} (t asid va n : Nat) (h : Memory.wf s.mem) :
    Memory.wf (s.logWritten t asid va n).mem := by
  unfold State.logWritten
  simp only
  split
  · exact wf_foldl (fun _ _ => wf_drainAll _ _) _ (by rwa [unposted_mem])
  · rwa [unposted_mem]

theorem execRdmaWrite_wf {s : State} (h : Memory.wf s.mem) : NextWf (execRdmaWrite s) := by
  refine onPair_wf h fun q => ?_
  simp only
  split
  · exact h
  · split
    · exact h
    · rename_i t ht
      rw [nextWf_next, send_mem]
      exact wf_logWritten _ _ _ _ (wf_vaWrite h ht)

theorem execRdmaRead_wf {s : State} (h : Memory.wf s.mem) : NextWf (execRdmaRead s) := by
  refine onPair_wf h fun q => ?_
  simp only
  split
  · exact h
  · split <;> exact wf_vaRead _ _ _ _ _ h

theorem hostAtomic_wf {s : State} (f : Nat → Nat) (h : Memory.wf s.mem) : NextWf (s.hostAtomic f) := by
  refine onPair_wf h fun q => ?_
  simp only
  split
  · exact h
  · split
    · rw [nextWf_next, send_mem]
      refine wf_logWritten _ _ _ _ (wf_devWrite _ _ _ (wf_devRead _ _ _ ?_))
      split <;> simpa using h
    · exact h

theorem execRdmaInvalidRequest_wf {s : State} (h : Memory.wf s.mem) : NextWf (execRdmaInvalidRequest s) :=
  onPair_wf h fun _ => h

theorem execCongestionNotification_wf {s : State} (h : Memory.wf s.mem) : NextWf (execCongestionNotification s) :=
  onPair_wf h fun _ => h

theorem execEventSend_wf {s : State} (h : Memory.wf s.mem) : NextWf (execEventSend s) := by
  unfold execEventSend
  simp only
  split
  · exact h
  · refine whenUp_wf ?_
    split
    · exact h
    · rw [nextWf_next, send_mem]
      exact wf_physPuts _ _ h

theorem onOperator_wf {s : State} {r : Host.Outcome State Fault Refusal} (h : Memory.wf s.mem) (hr : NextWf r) :
    NextWf (s.onOperator r) := by
  refine whenUp_wf ?_
  split
  · exact h
  · exact hr

theorem execAttest_wf {s : State} (h : Memory.wf s.mem) : NextWf (execAttest s) := by
  unfold execAttest
  split
  · exact h
  · split <;> exact onOperator_wf h h

theorem operator_wf {s : State} (kind : Nat) {f : State → Option State} (h : Memory.wf s.mem)
    (hf : ∀ s t, Memory.wf s.mem → f s = some t → Memory.wf t.mem) : NextWf (s.operator kind f) := by
  refine onOperator_wf h ?_
  simp only
  split
  · exact h
  · split
    · exact h
    · rename_i t ht
      exact hf _ _ (by exact h) ht

@[simp] theorem putTenant_mem (s : State) (t d : Nat) (pairs : List (Nat × QPair)) : (s.putTenant t d pairs).mem = s.mem := rfl

theorem wf_withQi {s : State} (q : QueueInt) (h : Memory.wf s.mem) : Memory.wf ({ s with qi := q } : State).mem := h

@[simp] theorem wf_putCtlRing {s : State} (t d : Nat) (h : Memory.wf s.mem) : Memory.wf (s.putCtlRing t d).mem := by
  unfold State.putCtlRing
  generalize leBytes 16 0 ++ leBytes 2 1 ++ leBytes 46 0 = hdr
  generalize List.range (ctlRingPages d) = pages
  extract_lets asid pa va pte mapped bytes stored ring
  have hm : Memory.wf mapped.mem := wf_foldl (fun _ _ => wf_mapLeaf _ _ _ _) _ h
  have hs : Memory.wf stored.mem := wf_foldl (fun _ _ => wf_devStore _ _ _ _) _ hm
  exact wf_withQi _ hs

@[simp] theorem wf_zeroTarget {s : State} (d : Nat) (h : Memory.wf s.mem) : Memory.wf (s.zeroTarget d).mem :=
  wf_physPuts _ _ (wf_physPuts _ _ (wf_physPuts _ _ h))

theorem wf_provision {s t : State} {bs : List Byte} (h : Memory.wf s.mem) (ht : s.provision bs = some t) : Memory.wf t.mem := by
  unfold State.provision at ht
  simp only at ht
  split at ht <;> cases ht
  exact wf_zeroTarget _ (wf_putCtlRing _ _ (by rwa [putTenant_mem]))

theorem execProvision_wf {s : State} (h : Memory.wf s.mem) : NextWf (execProvision s) := by
  refine operator_wf _ h fun s t hs ht => ?_
  obtain ⟨u, hu, rfl⟩ := Option.map_eq_some_iff.1 ht
  rw [send_mem]
  exact wf_provision hs hu

theorem execUpdate_wf {s : State} (h : Memory.wf s.mem) : NextWf (execUpdate s) := by
  refine operator_wf _ h fun s t hs ht => ?_
  obtain rfl := Option.some.inj ht
  exact hs

/-! ### Bring-up, power, heat and links -/

/-- A module without power holds no byte. -/
@[simp] theorem wf_dead (s : State) (f : Flash) : Memory.wf (s.dead f).mem := rfl

@[simp] theorem wf_bringUp {s : State} (f : Flash) {mem : List Host.Cell} (h : Memory.wf mem) :
    Memory.wf (s.bringUp f mem).mem := by
  unfold State.bringUp
  simp only
  generalize (if f.imageOk f.imageA then some 0 else if f.imageOk f.imageB then some 1 else none : Option Nat) = pick
  cases pick with
  | none => exact wf_dead _ _
  | some n =>
    simp only
    generalize (if n = 0 then f.imageA else f.imageB) = img
    split
    · exact wf_dead _ _
    · exact h

theorem execReset_wf {s : State} (h : Memory.wf s.mem) : NextWf (execReset s) := by
  refine operator_wf _ h fun s t hs ht => ?_
  obtain rfl := Option.some.inj ht
  exact wf_bringUp _ hs

theorem execPowerOn_wf (s : State) : NextWf (execPowerOn s) := wf_bringUp _ rfl

theorem execInputPowerRemoved_wf (s : State) : NextWf (execInputPowerRemoved s) := wf_nil _

theorem execPowerMeasure_wf {s : State} (h : Memory.wf s.mem) : NextWf (execPowerMeasure s) := whenUp_wf h

theorem execThermalStop_wf {s : State} (h : Memory.wf s.mem) : NextWf (execThermalStop s) := whenUp_wf h

theorem execThermalRestart_wf {s : State} (h : Memory.wf s.mem) : NextWf (execThermalRestart s) := whenUp_wf h

theorem execThermalShutdown_wf (s : State) : NextWf (execThermalShutdown s) := whenUp_wf (wf_dead s s.fw.flash)

theorem execLinkLoss_wf {s : State} (h : Memory.wf s.mem) : NextWf (execLinkLoss s) := whenUp_wf h

theorem execLinkRetrain_wf {s : State} (h : Memory.wf s.mem) : NextWf (execLinkRetrain s) := whenUp_wf h

/-! ### Errors -/

theorem execCorrectableError_wf {s : State} (h : Memory.wf s.mem) : NextWf (execCorrectableError s) := by
  unfold execCorrectableError
  simp only
  split
  · exact h
  · exact whenUp_wf h

@[simp] theorem destroyL1_mem (s : State) (c pa n : Nat) : (s.destroyL1 c pa n).mem = s.mem :=
  foldl_mem (fun _ _ => setL1Line_mem _ _ _ _) _ _

@[simp] theorem mark_mem (s : State) (mem : Bool) (pa n : Nat) : (s.mark mem pa n).mem = s.mem := rfl

theorem execUncorrectableError_wf {s : State} (h : Memory.wf s.mem) : NextWf (execUncorrectableError s) := by
  unfold execUncorrectableError
  simp only
  split
  · split
    · exact h
    · split
      · exact h
      · simp [h]
  · exact whenUp_wf (wf_evict _ h)
  · split
    · exact whenUp_wf h
    · exact h
  · exact taStart_wf _ _ h
  · split <;> exact h

end Sys2Proof.Laws

end

section
/-!
SUPPORT. Memory keeps its canonical form, part 13: SAMPLE, and instruction fetch.
-/

namespace Sys2Proof.Machine

/-- The state of a fetch's outcome has canonical memory. -/
def Fetched.Wf : Fetched → Prop
  | .run _ s | .done s | .block s _ _ _ _ _ => Memory.wf s.mem

end Sys2Proof.Machine

namespace Sys2Proof.Laws

open Sys2Proof.Machine

/-! ### SAMPLE -/

@[simp] theorem wf_descriptor {e : TEnv} {s : State} (t : Nat) (h : Memory.wf s.mem) : Memory.wf (e.descriptor s t).1.mem := by
  unfold TEnv.descriptor
  simp only
  split
  · simpa using h
  · split <;> simp [h]
  · simpa using h

@[simp] theorem texelPages_mem (e : TEnv) (s : State) (n : Nat) (l : List Nat) : (e.texelPages s n l).1.mem = s.mem := by
  induction l generalizing s with
  | nil => rfl
  | cons a as ih =>
    unfold TEnv.texelPages
    simp only
    split <;> simp [ih]

@[simp] theorem wf_sampleDescs {e : TEnv} (h : Memory.wf e.s.mem) : Memory.wf e.sampleDescs.1.mem := by
  refine wf_foldl_fst (fun a t ha => ?_) _ h
  exact wf_descriptor t ha

@[simp] theorem wf_samplePages {e : TEnv} (h : Memory.wf e.s.mem) : Memory.wf e.samplePages.1.mem := by
  refine wf_foldl_fst (fun a p ha => ?_) _ (wf_sampleDescs h)
  split
  · exact ha
  · simpa using ha

@[simp] theorem wf_sampleReads {e : TEnv} (h : Memory.wf e.s.mem) : Memory.wf e.sampleReads.1.mem := by
  refine wf_foldl_fst (fun a p ha => ?_) _ (wf_samplePages h)
  split
  · refine wf_foldl_fst (fun b q hb => ?_) _ ha
    exact wf_gLoad _ _ _ _ _ hb
  · exact ha

theorem sampleBody_wf {e : TEnv} (h : Memory.wf e.s.mem) : (sampleBody e).Wf := by
  unfold sampleBody
  simp only
  split
  · trivial
  · split
    · exact badRes_wf _ _ (wf_samplePages h)
    · exact wf_sampleReads h

/-! ### Instruction fetch -/

@[simp] theorem wf_iLine {s : State} (c tenant asid va : Nat) (h : Memory.wf s.mem) :
    Memory.wf (s.iLine c tenant asid va).1.mem := by
  unfold State.iLine
  split
  · exact h
  · simp only
    split
    · simpa using h
    · split
      · simpa using h
      · rw [setCore_mem, setDie_mem]
        split
        · simpa using h
        · exact wf_devLine _ _ _ (by simpa using h)

@[simp] theorem wf_iWord {s : State} (c tenant asid va n : Nat) (h : Memory.wf s.mem) :
    Memory.wf (s.iWord c tenant asid va n).1.mem := by
  unfold State.iWord
  simp only
  split
  · simp [h]
  · split <;> simp [h]

theorem fetchTrap_wf {s : State} (g : Group) (slot : Nat) (w : Warp) (run : BitVec 32) (pc : Nat) (w0 w1 : DWord) (t : TrapInfo)
    (h : Memory.wf s.mem) : (s.fetchTrap g slot w run pc w0 w1 t).Wf := wf_tTrap _ _ _ _ _ _ _ _ _ _ _ h

theorem fetchFail_wf {s : State} (g : Group) (slot : Nat) (w : Warp) (run : BitVec 32) (pc : Nat) (e : FetchErr)
    (h : Memory.wf s.mem) : (s.fetchFail g slot w run pc e).Wf := by
  unfold State.fetchFail
  split
  · simpa [Fetched.Wf] using h
  · exact fetchTrap_wf _ _ _ _ _ _ _ _ h

theorem fetchT_wf {s : State} (g : Group) (slot : Nat) (w : Warp) (pc : Nat) (run : BitVec 32) (h : Memory.wf s.mem) :
    (s.fetchT g slot w pc run).Wf := by
  unfold State.fetchT
  simp only
  have h1 : Memory.wf (s.iWord g.core g.tenant g.asid (g.kern.tbase + pc) 8).1.mem := wf_iWord _ _ _ _ _ h
  generalize s.iWord g.core g.tenant g.asid (g.kern.tbase + pc) 8 = f at h1
  have h2 : Memory.wf (f.1.iWord g.core g.tenant g.asid (g.kern.tbase + pc + 8) 8).1.mem := wf_iWord _ _ _ _ _ h1
  split
  · exact fetchTrap_wf _ _ _ _ _ _ _ _ h
  · split
    · exact fetchFail_wf _ _ _ _ _ _ h1
    · split
      · split
        · exact fetchTrap_wf _ _ _ _ _ _ _ _ h1
        · split
          · exact fetchFail_wf _ _ _ _ _ _ h2
          · split
            · exact fetchTrap_wf _ _ _ _ _ _ _ _ h2
            · exact h2
      · split
        · exact fetchTrap_wf _ _ _ _ _ _ _ _ h1
        · exact h1

theorem fetchFailA_wf {s : State} (g : Group) (e : FetchErr) (h : Memory.wf s.mem) : (s.fetchFailA g e).Wf := by
  unfold State.fetchFailA
  split
  · simpa [Fetched.Wf] using h
  · exact wf_aTrap _ _ _ _ _ _ _ _ h

theorem fetchA_wf {s : State} (g : Group) (h : Memory.wf s.mem) : (s.fetchA g).Wf := by
  unfold State.fetchA
  simp only
  have h1 : Memory.wf (s.iWord g.core g.tenant g.asid (g.kern.abase + g.a.apc.toNat) 4).1.mem := wf_iWord _ _ _ _ _ h
  generalize s.iWord g.core g.tenant g.asid (g.kern.abase + g.a.apc.toNat) 4 = f at h1
  have h2 : Memory.wf (f.1.iWord g.core g.tenant g.asid (g.kern.abase + g.a.apc.toNat + 4) 4).1.mem := wf_iWord _ _ _ _ _ h1
  generalize f.1.iWord g.core g.tenant g.asid (g.kern.abase + g.a.apc.toNat + 4) 4 = f1 at h2
  have h3 : Memory.wf (f1.1.iWord g.core g.tenant g.asid (g.kern.abase + g.a.apc.toNat + 8) 4).1.mem := wf_iWord _ _ _ _ _ h2
  split
  · exact h
  · split
    · exact wf_aTrap _ _ _ _ _ _ _ _ h
    · split
      · exact fetchFailA_wf _ _ h1
      · split
        · split
          · exact wf_aTrap _ _ _ _ _ _ _ _ h1
          · split
            · exact fetchFailA_wf _ _ h2
            · split
              · exact fetchFailA_wf _ _ h3
              · split
                · exact wf_aTrap _ _ _ _ _ _ _ _ h3
                · exact h3
        · split
          · exact wf_aTrap _ _ _ _ _ _ _ _ h1
          · exact h1

theorem warpTurn_wf {s : State} (uid slot : Nat) (h : Memory.wf s.mem) : (s.warpTurn uid slot).Wf := by
  unfold State.warpTurn
  split
  · exact h
  · split
    · exact h
    · split
      · exact h
      · split
        · exact wf_stopWarp _ _ _ _ h
        · simpa [Fetched.Wf] using h
        · split
          · exact h
          · split
            · exact h
            · exact fetchT_wf _ _ _ _ _ h

theorem fetchedWf_ite {c : Prop} [Decidable c] {a b : Fetched} (ha : a.Wf) (hb : b.Wf) : (if c then a else b).Wf := by
  split
  · exact ha
  · exact hb

theorem aTurn_wf {s : State} (uid : Nat) (h : Memory.wf s.mem) : (s.aTurn uid).Wf := by
  unfold State.aTurn
  split
  · exact h
  · refine fetchedWf_ite h ?_
    split
    · simpa [Fetched.Wf] using h
    · exact fetchA_wf _ h

end Sys2Proof.Laws

end

section
/-!
SUPPORT. Memory keeps its canonical form, part 14: every instruction and step, by the meaning that `exec` gives it.
-/

namespace Sys2Proof.Laws

open Sys2Proof.Machine

/-! ### Every instruction and step -/

theorem execCvt_wf {s : State} (w : TWord) (h : Memory.wf s.mem) : NextWf (execCvt w s) := by
  refine tIssue_wf h fun e he => ?_
  simp only
  split
  · exact resultOf_wf _ _ _ _ he
  · split
    · exact resultOf_wf _ _ _ _ he
    · exact result_wf _ _ _ he

theorem execCbx_wf {s : State} (w : TWord) (h : Memory.wf s.mem) : NextWf (execCbx w s) := by
  refine tIssue_wf h fun e he => ?_
  split
  · trivial
  · exact result_wf _ _ _ he

theorem execAbr_wf {s : State} (w : AWord) (h : Memory.wf s.mem) : NextWf (execAbr w s) := by
  refine aIssue_wf h fun e he => ?_
  split <;> exact he

theorem execAret_wf {s : State} (w : AWord) (h : Memory.wf s.mem) : NextWf (execAret w s) := by
  refine aIssue_wf h fun e he => ?_
  simp only
  split
  · trivial
  · exact he

theorem execAloop_wf {s : State} (w : AWord) (h : Memory.wf s.mem) : NextWf (execAloop w s) := by
  refine aIssue_wf h fun e he => ?_
  simp [he]

theorem execAend_wf {s : State} (w : AWord) (h : Memory.wf s.mem) : NextWf (execAend w s) := by
  refine aIssue_wf h fun e he => ?_
  split
  · exact he
  · trivial

theorem execAsafe_wf {s : State} (w : AWord) (h : Memory.wf s.mem) : NextWf (execAsafe w s) := by
  refine aIssue_wf h fun e he => ?_
  simp only
  split <;> exact he

theorem execAwaitq_wf {s : State} (w : AWord) (h : Memory.wf s.mem) : NextWf (execAwaitq w s) := by
  refine aIssue_wf h fun e he => ?_
  split
  · exact he
  · trivial

theorem execVpack_wf {s : State} (w : VSlot) (h : Memory.wf s.mem) : NextWf (execVpack w s) := by
  unfold execVpack
  exact vAlu_wf w _ h

/-- Each case names the shared form of the instruction's meaning, or the lemma about a meaning of its own. -/
theorem exec_wf (i : Instr) {s : State} (h : Memory.wf s.mem) : NextWf (exec i s) := by
  cases i
  case add | add3 | sub | neg | abs | mullo | mulhi | mad | min | max | lop3 | shl | shr | sra | fsh | bfx | bfi |
      popc | clz | brev | sel | movi | packT5 | fadd | fmul | ffma | fmin | fmax | frnd | frcp | frsq | fsqrt |
      fdiv | fexp2 | flog2 | fsint | fcost | hfma2 | dot2 | dot4 | dot8 | idot4 => exact tAlu_wf _ h
  case madw | lea | addW => exact tAlu64_wf _ h
  case div | rem | dadd | dmul | dfma => exact tEmul_wf h
  case cmp | fcmp | fclass => exact tCond_wf _ h
  case mov => exact execMov_wf _ h
  case unpackT5 => exact execUnpackT5_wf _ h
  case cvt => exact execCvt_wf _ h
  case dotT5 | s2v | rstat => exact tIssue_wf h fun _ => result_wf _ _ _
  case cbx => exact execCbx_wf _ h
  case cbld => exact execCbld_wf _ h
  case cbldFill => exact execCbldFill_wf h
  case bra => exact tIssue_wf h fun _ he => branch_wf _ he
  case brx | ret => exact tIssue_wf h fun _ he => badTarget_wf _ (branch_wf _ he)
  case call => exact tIssue_wf h fun _ he => callBody_wf _ he
  case callX => exact tIssue_wf h fun _ he => badTarget_wf _ (callBody_wf _ he)
  case exit => exact execExit_wf _ h
  case safept => exact execSafept_wf _ h
  case setpc => exact execSetpc_wf _ h
  case selc | nop => exact tIssue_wf h fun _ he => he
  case vote => exact execVote_wf _ h
  case elect => exact tIssue_wf h fun _ he => setPred_wf _ he
  case shfl | qswp | qbc | qdd => exact tIssue_wf h fun _ he => fromLanes_wf _ _ _ he
  case barArv | barSync => exact barIssue_wf h fun _ _ _ he => arriveBody_wf _ _ _ he
  case barWt => exact execBarWt_wf _ h
  case trap | brk => exact tIssue_wf h fun _ he => softTrap_wf _ he
  case tret => exact execTret_wf _ h
  case vget => exact execVget_wf _ h
  case vput => exact execVput_wf _ h
  case ld | lds | ldx => exact tIssue_wf h fun _ he => loadBody_wf _ he
  case st | sts | stx => exact tIssue_wf h fun _ he => storeBody_wf _ he
  case atom | cas | red => exact tIssue_wf h fun _ he => atomBody_wf _ _ _ he
  case pfh => exact execPfh_wf _ h
  case reside => exact execReside_wf _ h
  case fence => exact execFence_wf _ h
  case sample => exact tIssue_wf h fun _ he => sampleBody_wf he
  case lnch => exact tIssue_wf h fun _ he => lnchBody_wf he
  case rqRay | rqBeam | rqCone => exact tIssue_wf h fun _ he => rqBody_wf _ he
  case rpop => exact tIssue_wf h fun _ he => rpopBody_wf he
  case semadd | semset => exact semIssue_wf h fun _ _ _ he => semUpdate_wf _ _ _ he
  case semwait => exact execSemwait_wf _ h
  case aadd | aaddLong | asub | asubLong | amul | amulLong | aand | aandLong | aor | aorLong | axor | axorLong |
      ashl | ashlLong | ashr | ashrLong | amovi | amoviLong | amoviH | asel | aselLong | as2a | qpop | tastat =>
    exact aAlu_wf _ h
  case amov => exact execAmov_wf _ h
  case acmp | acmpLong | anop | ajmp | acall | qpush | qpushLong => exact aIssue_wf h fun _ he => he
  case abr => exact execAbr_wf _ h
  case aret => exact execAret_wf _ h
  case aloop => exact execAloop_wf _ h
  case aend => exact execAend_wf _ h
  case asafe => exact execAsafe_wf _ h
  case aexit => exact execAexit_wf h
  case atrap => exact aIssue_wf h fun _ _ => trivial
  case aretT => exact execAretT_wf h
  case afence | afenceLong => exact aIssue_wf h fun _ he => aFence_wf he
  case ald | aldLong | alds | aldsLong => exact aIssue_wf h fun _ he => aLoad_wf _ he
  case ast | astLong | asts | astsLong => exact aIssue_wf h fun _ he => aStore_wf _ he
  case awaitq => exact execAwaitq_wf _ h
  case semaddA | semaddALong | semsetA | semsetALong => exact aIssue_wf h fun _ he => aSemUpdate_wf _ he
  case semwaitA | semwaitALong => exact aIssue_wf h fun _ he => aSemWait_wf he
  case cpy | cpyLong | cpyx | cpyxLong | cpylv | cpylvLong | kvapp | kvappLong =>
    exact aIssue_wf h fun _ he => ceIssue_wf _ he
  case cpyw | cpywLong => exact aIssue_wf h fun _ he => cpywIssue_wf he
  case ceCommandStart => exact execCeCommandStart_wf h
  case ceCommandComplete => exact execCeCommandComplete_wf h
  case fmtq | fmtqLong => exact aIssue_wf h fun _ he => aFmtq_wf he
  case taRun | taRunLong => exact aIssue_wf h fun _ he => aTaRun_wf he
  case taZero => exact execTaZero_wf _ h
  case taSwap => exact execTaSwap_wf _ h
  case crownTake => exact execCrownTake_wf _ h
  case crownPass => exact execCrownPass_wf _ h
  case taCommandStart => exact taStart_wf _ _ h
  case taCommandComplete => exact execTaCommandComplete_wf h
  case taRunFault => exact execTaRunFault_wf h
  case snop | smovh | scmp | br | brc | loop | poseR | poseW | bandiRd | vnop | vcmp | vsel | vperm | vbcast =>
    exact lIssue_wf h fun _ _ => trivial
  case sadd | ssub | smul | sand | sor | sshl | sshr => exact sAlu_wf _ _ h
  case smov w =>
    show NextWf (execSmov w s)
    exact sAlu_wf w _ h
  case bandiNext | halt => exact lIssue_wf h fun _ he => endBand_wf _ he
  case syncm => exact execSyncm_wf h
  case vadd | vsub | vmul | vfma | vmin | vmax | vlerp => exact vAlu_wf _ _ h
  case vrcp w =>
    show NextWf (execVrcp w s)
    exact vAlu_wf w _ h
  case vrsq w =>
    show NextWf (execVrsq w s)
    exact vAlu_wf w _ h
  case vflr w =>
    show NextWf (execVflr w s)
    exact vAlu_wf w _ h
  case vcvt w =>
    show NextWf (execVcvt w s)
    exact vAlu_wf w _ h
  case vpack => exact execVpack_wf _ h
  case lbld => exact execLbld_wf _ h
  case lbst => exact execLbst_wf _ h
  case gld => exact execGld_wf _ h
  case wsamp => exact execWsamp_wf _ h
  case dsamp => exact execDsamp_wf _ h
  case mxld | mxst => exact lIssue_wf h fun _ he => handTile_wf _ _ he
  case mxrun => exact execMxrun_wf _ h
  case emit => exact execEmit_wf _ h
  case ldp | cmpb | jf | jfc | loopb | reloc => exact qIssue_wf h fun _ => trivial
  case ldm => exact execLdm_wf _ h
  case movb w =>
    show NextWf (execMovb w s)
    exact qAlu_wf w _ h
  case addb | subb | andb | orb | shlb | shrb => exact qAlu_wf _ _ h
  case endb => exact execEndb_wf h
  case chkres => exact execChkres_wf _ h
  case emitC => exact execEmitC_wf _ h
  case done => exact execDone_wf h
  case fail => exact execFail_wf _ h
  case qiTakePacket => exact execQiTakePacket_wf h
  case nopPacket => exact execNopPacket_wf h
  case launch | invoke => exact launch_wf h
  case copy => exact execCopy_wf h
  case waitsem => exact execWaitsem_wf h
  case signalsem => exact execSignalsem_wf h
  case fencePacket => exact execFencePacket_wf h
  case event => exact execEvent_wf h
  case slotload => exact execSlotload_wf h
  case slotfree => exact execSlotfree_wf h
  case qprog => exact execQprog_wf h
  case mapupd | mapupdUnmap => exact mapupd_wf h
  case mapupdDecay => exact execMapupdDecay_wf h
  case tlbinv => exact execTlbinv_wf h
  case codeinv => exact execCodeinv_wf h
  case headcfgEnable => exact execHeadcfgEnable_wf h
  case headcfgDisable => exact headcfg_wf h fun _ _ => wf_disableHead _ _ h
  case headcfgEffect => exact execHeadcfgEffect_wf h
  case rsetupRegister => exact execRsetupRegister_wf h
  case rsetupUnregister => exact execRsetupUnregister_wf h
  case rsetupKill => exact execRsetupKill_wf h
  case gridReady => exact execGridReady_wf h
  case groupPlacement => exact (execGroupPlacement_wf h :)
  case groupStart => exact execGroupStart_wf h
  case groupEnd => exact execGroupEnd_wf h
  case quantumExpiry => exact execQuantumExpiry_wf h
  case groupSaveComplete => exact execGroupSaveComplete_wf h
  case groupResumption => exact execGroupResumption_wf h
  case rayQueryTake => exact execRayQueryTake_wf h
  case splitRecordEmit => exact execSplitRecordEmit_wf h
  case spawnWarpStart => exact execSpawnWarpStart_wf h
  case rayQueryComplete => exact execRayQueryComplete_wf h
  case pageWalk => exact execPageWalk_wf h
  case cacheEviction => exact execCacheEviction_wf h
  case faultLogDrain => exact execFaultLogDrain_wf h
  case faultLogRetest => exact execFaultLogRetest_wf h
  case counterSnapshot => exact execCounterSnapshot_wf h
  case eventSend => exact execEventSend_wf h
  case renderSetLatch => exact execRenderSetLatch_wf h
  case poseLatch => exact execPoseLatch_wf h
  case bandDispatch => exact execBandDispatch_wf h
  case bandDeadline => exact execBandDeadline_wf h
  case bandScanOut => exact (execBandScanOut_wf h :)
  case rdmaWrite => exact execRdmaWrite_wf h
  case rdmaRead => exact execRdmaRead_wf h
  case rdmaFetchAdd =>
    show NextWf (execRdmaFetchAdd s)
    exact hostAtomic_wf _ h
  case rdmaCompareSwap =>
    show NextWf (execRdmaCompareSwap s)
    exact hostAtomic_wf _ h
  case attest => exact execAttest_wf h
  case provision => exact execProvision_wf h
  case update => exact execUpdate_wf h
  case reset => exact execReset_wf h
  case powerOn => exact execPowerOn_wf s
  case powerMeasure => exact execPowerMeasure_wf h
  case thermalStop => exact execThermalStop_wf h
  case thermalRestart => exact execThermalRestart_wf h
  case thermalShutdown => exact execThermalShutdown_wf s
  case linkLoss => exact execLinkLoss_wf h
  case linkRetrain => exact execLinkRetrain_wf h
  case correctableError => exact execCorrectableError_wf h
  case uncorrectableError => exact execUncorrectableError_wf h
  case matrixOperationComplete => exact execMatrixOperationComplete_wf h
  case inputPowerRemoved => exact execInputPowerRemoved_wf s
  case rdmaInvalidRequest => exact execRdmaInvalidRequest_wf h
  case congestionNotification => exact execCongestionNotification_wf h

end Sys2Proof.Laws

end

section
/-!
CLAIM. Memory keeps its canonical form, part 15: blocks, turns, the step, and obligation O59.
-/

namespace Sys2Proof.Laws

open Sys2Proof.Machine

/-! ### Blocks of a portable kernel -/

@[simp] theorem laneInput_mem (x : BlockEnv) (k : BlockRun) (i slot : Nat) : (x.laneInput k i slot).1.s.mem = k.s.mem := by
  unfold BlockEnv.laneInput
  simp only
  split
  · rfl
  · split <;> rfl

theorem wf_perform {x : BlockEnv} {k : BlockRun} (i : Nat) (h : Memory.wf k.s.mem) : Memory.wf (x.perform k i).s.mem := by
  unfold BlockEnv.perform
  simp only
  have hl : Memory.wf (x.laneInput (x.laneInput k i 0).1 i 1).1.s.mem := by simpa using h
  split
  · exact h
  · split
    · exact h
    · split
      · exact h
      · split
        · exact h
        · split
          · split <;> exact hl
          · split
            · exact hl
            · exact hl
            · split
              · exact hl
              · exact hl
              · rename_i ins _ _ _ u hu
                have hw : NextWf (.next u) := hu ▸ exec_wf ins (by simpa using hl)
                split <;> simpa using hw

/-- An operation is performed after those that supply it; `f` bounds the depth of that chain. -/
theorem wf_need {x : BlockEnv} (f : Nat) {k : BlockRun} (i : Nat) (h : Memory.wf k.s.mem) : Memory.wf (x.need f k i).s.mem := by
  induction f generalizing k i with
  | zero => exact h
  | succ f ih =>
    unfold BlockEnv.need
    simp only
    have hf : Memory.wf (((List.range 4).filterMap (x.supplier i)).foldl (x.need f) k).s.mem :=
      List.foldlRecOn (motive := fun k : BlockRun => Memory.wf k.s.mem = true) _ _ h fun _ hk j _ => ih j hk
    split
    · exact h
    · split
      · exact hf
      · exact wf_perform _ hf

theorem wf_foldl_need (x : BlockEnv) (f : Nat) (l : List Nat) {k : BlockRun} (h : Memory.wf k.s.mem) :
    Memory.wf (l.foldl (x.need f) k).s.mem :=
  List.foldlRecOn (motive := fun k : BlockRun => Memory.wf k.s.mem = true) _ _ h fun _ hk i _ => wf_need f i hk

theorem wf_blockAll {s : State} (x : BlockEnv) (vals : SMap BlockVal) (h : Memory.wf s.mem) : Memory.wf (x.all s vals).s.mem :=
  wf_foldl_need _ _ _ h

theorem wf_commit {x : BlockEnv} {k : BlockRun} (h : Memory.wf k.s.mem) : Memory.wf (x.commit k).mem := by
  unfold BlockEnv.commit
  simp only
  split
  · exact h
  · split <;> simpa using h

theorem wf_waiting {x : BlockEnv} {k k' : BlockRun} {inHandler : Bool} {isBlock : Nat → Bool} (h : Memory.wf k.s.mem)
    (hk : x.waiting k inHandler isBlock = .stands k') : Memory.wf k'.s.mem := by
  unfold BlockEnv.waiting at hk
  simp only at hk
  split at hk
  · cases hk
  · split at hk
    · cases hk
    · split at hk
      · cases hk
      · cases hk
      · split at hk
        · cases hk
        · split at hk <;> cases hk
          exact wf_foldl_need _ _ _ h

@[simp] theorem wf_blockTrap {s : State} (g : Group) (slot : Nat) (w : Warp) (run : BitVec 32) (pc : Nat) (o : VosisOp)
    (c : Cause) (tval : DWord) (h : Memory.wf s.mem) : Memory.wf (s.blockTrap g slot w run pc o c tval).mem :=
  wf_tTrap _ _ _ _ _ _ _ _ _ _ _ h

@[simp] theorem wf_runBlock {s : State} (g : Group) (slot : Nat) (w : Warp) (pc : Nat) (run : BitVec 32) (h : Memory.wf s.mem) :
    Memory.wf (s.runBlock g slot w pc run).mem := by
  unfold State.runBlock
  extract_lets off
  refine wf_mem_ite h (wf_mem_ite (wf_stopWarp _ _ _ _ h) ?_)
  split
  · exact wf_blockTrap _ _ _ _ _ _ _ _ h
  · extract_lets x k stop u w2
    have hk : Memory.wf k.s.mem := wf_blockAll _ _ h
    have hu : Memory.wf u.mem := h
    clear_value stop
    split
    · exact wf_commit hk
    · exact wf_blockTrap _ _ _ _ _ _ _ _ hu
    · simpa using hu
    · split
      · exact wf_blockTrap _ _ _ _ _ _ _ _ hu
      · simpa [off] using hu
      · rename_i k' hk'
        simpa [off] using wf_waiting hk hk'

/-! ### Turns -/

theorem onNext_wf {r : Host.Outcome State Fault Refusal} {f : State → Host.Outcome State Fault Refusal} (hr : NextWf r)
    (hf : ∀ s, Memory.wf s.mem → NextWf (f s)) : NextWf (onNext r f) := by
  cases r with
  | next s => exact hf s hr
  | fault x => trivial
  | refused x => trivial

@[simp] theorem wf_afterRead {s : State} (uid : Option Nat) (h : Memory.wf s.mem) : Memory.wf (s.afterRead uid).mem := by
  unfold State.afterRead
  split
  · exact wf_strike _ _ h
  · exact h
  · exact h

theorem runWarp_wf {s : State} (uid slot : Nat) (h : Memory.wf s.mem) : NextWf (s.runWarp uid slot) := by
  unfold State.runWarp
  have ht : ((s.actFor (.warp uid slot) EventArg.zero).warpTurn uid slot).Wf := warpTurn_wf _ _ h
  split
  · exact h
  · split
    · rename_i u hu
      rw [hu] at ht
      exact wf_afterRead _ ht
    · rename_i i u hu
      rw [hu] at ht
      exact onNext_wf (exec_wf i ht) fun t h => wf_maybeStop _ _ _ (wf_afterRead _ h)
    · rename_i hu
      rw [hu] at ht
      exact wf_afterRead _ (wf_runBlock _ _ _ _ _ ht)

theorem runActx_wf {s : State} (uid : Nat) (h : Memory.wf s.mem) : NextWf (s.runActx uid) := by
  unfold State.runActx
  have ht : ((s.actFor (.actx uid) EventArg.zero).aTurn uid).Wf := aTurn_wf _ h
  split
  · rename_i u hu
    rw [hu] at ht
    exact wf_afterRead _ ht
  · rename_i hu
    rw [hu] at ht
    exact wf_afterRead _ ht
  · rename_i i u hu
    rw [hu] at ht
    exact onNext_wf (exec_wf i ht) fun t h => wf_afterRead _ h

theorem execAll_wf (l : List Instr) {s : State} (h : Memory.wf s.mem) : NextWf (execAll l s) := by
  induction l generalizing s with
  | nil => exact h
  | cons i l ih => exact onNext_wf (exec_wf i h) fun _ hs => ih hs

theorem runBundle_wf {s : State} (n : Nat) (sl v0 v1 : Instr) (m : Option Instr) (h : Memory.wf s.mem) :
    NextWf (s.runBundle n sl v0 v1 m) := by
  refine onNext_wf (execAll_wf _ h) fun t ht => ?_
  split
  · exact h
  · split
    · exact h
    · exact ht

theorem runLine_wf {s : State} (n : Nat) (h : Memory.wf s.mem) : NextWf (s.runLine n) := by
  unfold State.runLine
  simp only
  split
  · exact h
  · split
    · exact h
    · split
      · exact h
      · exact runBundle_wf _ _ _ _ _ h

theorem runQi_wf {s : State} (h : Memory.wf s.mem) : NextWf s.runQi := by
  unfold State.runQi
  simp only
  split
  · exact h
  · split
    · simpa using h
    · exact exec_wf _ h

theorem runCommand_wf {s : State} (id n : Nat) (h : Memory.wf s.mem) : NextWf (s.runCommand id n) := by
  unfold State.runCommand
  split
  · exact h
  · split
    · exact exec_wf _ h
    · exact h

theorem wf_drainAllDies {s : State} (f : State → Nat → Nat) (h : Memory.wf s.mem) :
    Memory.wf ((List.range 4).foldl (fun s d => s.drainAll d (f s d)) s).mem :=
  wf_foldl (fun _ _ => wf_drainAll _ _) _ h

@[simp] theorem wf_tickMgmt {s : State} (h : Memory.wf s.mem) : Memory.wf s.tickMgmt.mem := by
  unfold State.tickMgmt
  extract_lets c fw counted tested
  have hc : Memory.wf counted.mem := h
  have ht : Memory.wf tested.mem := wf_mem_ite (wf_drainAllDies _ hc) hc
  exact wf_mem_ite (wf_foldl (fun _ _ => wf_snapshot _) _ ht) ht

@[simp] theorem wf_tick {s : State} (d : Domain) (n : Nat) (h : Memory.wf s.mem) : Memory.wf (s.tick d n).mem := by
  cases d with
  | core c =>
    simp only [State.tick]
    split <;> simpa using h
  | fabric => exact h
  | ssp => exact h
  | mgmt => exact wf_foldl (fun _ _ => wf_tickMgmt) _ h
  | line k => simpa [State.tick] using h

theorem gate_wf {s : State} {r : Host.Outcome State Fault Refusal} (h : Memory.wf s.mem) (hr : NextWf r) : NextWf (s.gate r) := by
  refine onNext_wf hr fun t ht => ?_
  split
  · exact h
  · exact ht

theorem takeTurn_wf {s : State} (t : Turn) (h : Memory.wf s.mem) : NextWf (s.takeTurn t) := by
  unfold State.takeTurn
  split
  · exact h
  · cases t with
    | warp uid slot => exact runWarp_wf uid slot h
    | actx uid => exact runActx_wf uid h
    | line n => exact runLine_wf n h
    | qi => exact runQi_wf h
    | command id n => exact runCommand_wf id n h
    | ray c n => exact wf_afterRead _ (wf_rayTurn c n h)
    | event i a => exact onNext_wf (exec_wf i h) fun _ ht => wf_afterRead _ ht
    | tick d n => exact wf_tick d n h

theorem walkTurn_wf {s : State} (t : Turn) (h : Memory.wf s.mem) : NextWf (s.walkTurn t) := by
  refine onNext_wf (takeTurn_wf t h) fun u hu => ?_
  split
  · simpa using h
  · simpa using hu

theorem runTurn_wf {s : State} (t : Turn) (h : Memory.wf s.mem) : NextWf (s.runTurn t) :=
  gate_wf h (onNext_wf (walkTurn_wf t h) fun _ hu => wf_fitCaches hu)

theorem ownTurn_wf {s : State} (h : Memory.wf s.mem) : NextWf s.ownTurn := by
  unfold State.ownTurn
  simp only
  split
  · exact h
  · rename_i t _
    have hr := runTurn_wf (s := { s with ctl := { s.ctl with turns := s.ctl.turns + 1 } }) t h
    split
    · rename_i u hu
      rwa [hu] at hr
    · exact h
    · trivial

/-- A step is a turn of the agenda, or one that the machine takes of itself. -/
theorem step_wf {s : State} (h : Memory.wf s.mem) : NextWf (step s) := by
  unfold step
  split
  · exact runTurn_wf _ h
  · exact ownTurn_wf h

/-- Settles O59: memory's form is kept by each function of the model that writes memory, hence by every instruction and
event (`exec_wf`), by every turn, and by the step. -/
theorem stepKeepsMemory : Obligations.StepKeepsMemory := by
  unfold Obligations.StepKeepsMemory
  intro s t hs ht
  have h : NextWf (step s) := step_wf hs
  rwa [ht, nextWf_next] at h

end Sys2Proof.Laws

end

section
/-!
SUPPORT. The records keep their keys (O60), part 1: the records, and memory and its caches.

`State.recs` is the part of the state that the invariant speaks of. The proof follows the model's files. A function that leaves the
records alone has a frame lemma `f_recs`; one that may write them has a lemma `keyed_f`, that they stay under their keys; a meaning or
a turn, which answers an outcome, has a lemma `f_keyed`, that the records of the state which its answer carries, where it carries one,
stand under their keys. A group enters the tables by `setGroup` under its own number, so that its scratchpad alone is to be watched.
-/

namespace Sys2Proof.Machine

/-- The tables whose keys the invariant speaks of: the groups, the grids, the saved groups, the rings and the partitions' lines. -/
structure Recs where
  groups : SMap Group
  grids : SMap Grid
  saved : SMap Group
  rings : SMap Ring
  frame : SMap Line
  ringp : SMap Line

/-- These tables of a state. -/
def State.recs (s : State) : Recs :=
  { groups := s.groups, grids := s.lu.grids, saved := s.lu.saved, rings := s.qi.rings, frame := s.frame, ringp := s.ringp }

/-- A group's scratchpad is in its canonical form. -/
def Group.Pad (g : Group) : Prop := SMap.wf 0 g.smem = true

/-- A table of groups is sorted, each group under its number and with a canonical scratchpad. -/
structure GroupsKeyed (m : SMap Group) : Prop where
  sorted : SMap.sorted m = true
  own : ∀ u g, SMap.find m u = some g → g.uid = u ∧ g.Pad

/-- A table of grids is sorted, each grid under its number. -/
structure GridsKeyed (m : SMap Grid) : Prop where
  sorted : SMap.sorted m = true
  own : ∀ n r, SMap.find m n = some r → r.num = n

/-- Every record stands under its own key. -/
structure Recs.Keyed (r : Recs) : Prop where
  groups : GroupsKeyed r.groups
  grids : GridsKeyed r.grids
  saved : GroupsKeyed r.saved
  rings : SMap.sorted r.rings = true
  frame : SMap.sorted r.frame = true
  ringp : SMap.sorted r.ringp = true

end Sys2Proof.Machine

namespace Sys2Proof.Laws

open Sys2Proof.Machine

/-- The invariant is one of the records alone. -/
theorem keyed_iff_recs (s : State) : s.keyed ↔ s.recs.Keyed :=
  ⟨fun h => { groups := ⟨h.groups, h.uid⟩, grids := ⟨h.grids, h.num⟩, saved := ⟨h.saved, h.savedUid⟩, rings := h.rings,
              frame := h.frame, ringp := h.ringp },
   fun h => { groups := h.groups.sorted, uid := h.groups.own, grids := h.grids.sorted, num := h.grids.own,
              saved := h.saved.sorted, savedUid := h.saved.own, rings := h.rings, frame := h.frame, ringp := h.ringp }⟩

/-! ### What is found in a sorted table is what it lists -/

section
variable {α : Type}

theorem mem_of_find {m : SMap α} {n : Nat} {x : α} (h : SMap.find m n = some x) : (n, x) ∈ m := by
  induction m with
  | nil => cases h
  | cons p t ih =>
    obtain ⟨k, v⟩ := p
    rw [find_cons] at h
    split at h
    · cases h
      subst_vars
      exact List.mem_cons_self
    · exact List.mem_cons_of_mem _ (ih h)

theorem find_of_mem {m : SMap α} {n : Nat} {x : α} (hs : SMap.sorted m = true) (h : (n, x) ∈ m) : SMap.find m n = some x := by
  induction m with
  | nil => cases h
  | cons p t ih =>
    obtain ⟨k, v⟩ := p
    obtain ⟨ha, ht⟩ := (sorted_cons k v t).1 hs
    rw [find_cons]
    rcases List.mem_cons.1 h with h | h
    · cases h
      exact if_pos rfl
    · rw [if_neg (Nat.ne_of_lt (ha _ h))]
      exact ih ht h

/-- Changing the values keeps the keys. -/
@[simp] theorem sorted_mapv {β : Type} (f : Nat → α → β) (m : SMap α) : SMap.sorted (SMap.mapv f m) = SMap.sorted m := by
  induction m with
  | nil => rfl
  | cons p t ih =>
    cases t with
    | nil => rfl
    | cons q t =>
      change (_ && SMap.sorted (SMap.mapv f (q :: t))) = (_ && SMap.sorted (q :: t))
      rw [ih]
      rfl

end

/-! ### Tables of groups and of grids -/

theorem groupsKeyed_put {m : SMap Group} {g : Group} (h : GroupsKeyed m) (hg : g.Pad) : GroupsKeyed (SMap.put m g.uid g) where
  sorted := sorted_put _ _ _ h.sorted
  own u x hx := by
    rw [find_put] at hx
    split at hx
    · obtain rfl := Option.some.inj hx
      exact ⟨‹u = _›.symm, hg⟩
    · exact h.own u x hx

theorem groupsKeyed_del {m : SMap Group} (n : Nat) (h : GroupsKeyed m) : GroupsKeyed (SMap.del m n) where
  sorted := sorted_del _ _ h.sorted
  own u x hx := by
    by_cases hu : u = n
    · rw [hu, find_del_self] at hx
      cases hx
    · rw [find_del_other _ hu] at hx
      exact h.own u x hx

/-- The groups changed in place, each with its number and its scratchpad. -/
theorem groupsKeyed_mapv {m : SMap Group} {f : Nat → Group → Group} (h : GroupsKeyed m)
    (hf : ∀ u g, (f u g).uid = g.uid ∧ (f u g).smem = g.smem) : GroupsKeyed (SMap.mapv f m) where
  sorted := by rw [sorted_mapv]; exact h.sorted
  own u x hx := by
    rw [find_mapv] at hx
    obtain ⟨g, hg, rfl⟩ := Option.map_eq_some_iff.1 hx
    obtain ⟨hu, hp⟩ := h.own u g hg
    obtain ⟨h1, h2⟩ := hf u g
    exact ⟨h1.trans hu, by unfold Group.Pad; rw [h2]; exact hp⟩

theorem groupsKeyed_filter {m : SMap Group} (q : Nat × Group → Bool) (h : GroupsKeyed m) : GroupsKeyed (m.filter q) where
  sorted := sorted_filter _ _ h.sorted
  own u x hx := h.own u x (find_of_mem h.sorted (List.mem_filter.1 (mem_of_find hx)).1)

theorem gridsKeyed_put {m : SMap Grid} {n : Nat} {r : Grid} (h : GridsKeyed m) (hr : r.num = n) : GridsKeyed (SMap.put m n r) where
  sorted := sorted_put _ _ _ h.sorted
  own k x hx := by
    rw [find_put] at hx
    split at hx
    · obtain rfl := Option.some.inj hx
      exact hr.trans ‹k = _›.symm
    · exact h.own k x hx

theorem gridsKeyed_filter {m : SMap Grid} (q : Nat × Grid → Bool) (h : GridsKeyed m) : GridsKeyed (m.filter q) where
  sorted := sorted_filter _ _ h.sorted
  own n x hx := h.own n x (find_of_mem h.sorted (List.mem_filter.1 (mem_of_find hx)).1)

/-! ### A state's records -/

theorem pad_of_group {s : State} {uid : Nat} {g : Group} (h : s.recs.Keyed) (hg : s.group? uid = some g) : g.Pad :=
  (h.groups.own uid g hg).2

@[simp] theorem keyed_setGroup {s : State} {g : Group} (h : s.recs.Keyed) (hg : g.Pad) : (s.setGroup g).recs.Keyed :=
  { h with groups := groupsKeyed_put h.groups hg }

/-- A resident group put back with its scratchpad as it was. -/
theorem keyed_setGroup_same {s : State} {uid : Nat} {g x : Group} (h : s.recs.Keyed) (hg : s.group? uid = some g)
    (hx : x.smem = g.smem) : (s.setGroup x).recs.Keyed :=
  keyed_setGroup h (by unfold Group.Pad; rw [hx]; exact pad_of_group h hg)

@[simp] theorem keyed_setWarp {s : State} (uid slot : Nat) (w : Warp) (h : s.recs.Keyed) : (s.setWarp uid slot w).recs.Keyed := by
  unfold State.setWarp
  split
  · exact h
  · rename_i g hg
    exact keyed_setGroup_same h hg rfl

@[simp] theorem keyed_setA {s : State} (uid : Nat) (a : ACtx) (h : s.recs.Keyed) : (s.setA uid a).recs.Keyed := by
  unfold State.setA
  split
  · exact h
  · rename_i g hg
    exact keyed_setGroup_same h hg rfl

@[simp] theorem keyed_setPartLine {s : State} (kind ln : Nat) (l : Line) (h : s.recs.Keyed) :
    (s.setPartLine kind ln l).recs.Keyed := by
  unfold State.setPartLine
  split
  · exact { h with frame := sorted_set _ _ _ _ h.frame }
  · exact { h with ringp := sorted_set _ _ _ _ h.ringp }

/-! ### Updates of anything else -/

/-- The records of an updated state are read off the update. -/
@[simp] theorem recs_mk (groups cores dies walks lines mx heads lu qi fw frame ringp mem ctl) :
    State.recs ⟨groups, cores, dies, walks, lines, mx, heads, lu, qi, fw, frame, ringp, mem, ctl⟩ =
      ⟨groups, lu.grids, lu.saved, qi.rings, frame, ringp⟩ := rfl

@[simp] theorem recs_eta (s : State) : Recs.mk s.groups s.lu.grids s.lu.saved s.qi.rings s.frame s.ringp = s.recs := rfl

@[simp] theorem setCore_recs (s : State) (c : Nat) (x : Core) : (s.setCore c x).recs = s.recs := rfl
@[simp] theorem setDie_recs (s : State) (d : Nat) (x : Die) : (s.setDie d x).recs = s.recs := rfl
@[simp] theorem setHead_recs (s : State) (h : Nat) (x : Head) : (s.setHead h x).recs = s.recs := rfl
@[simp] theorem setLine_recs (s : State) (n : Nat) (x : LineCore) : (s.setLine n x).recs = s.recs := rfl
@[simp] theorem setWalks_recs (s : State) (d : Nat) (l : List Walk) : (s.setWalks d l).recs = s.recs := rfl
@[simp] theorem setL1Line_recs (s : State) (c ln : Nat) (l : Line) : (s.setL1Line c ln l).recs = s.recs := rfl
@[simp] theorem setDieLine_recs (s : State) (d ln : Nat) (l : Line) : (s.setDieLine d ln l).recs = s.recs := rfl
@[simp] theorem bump_recs (s : State) (t k u n : Nat) : (s.bump t k u n).recs = s.recs := rfl
@[simp] theorem hintDrop_recs (s : State) (t n : Nat) : (s.hintDrop t n).recs = s.recs := rfl
@[simp] theorem post_recs (s : State) (t : Nat) (e : BitVec 512) : (s.post t e).recs = s.recs := rfl
@[simp] theorem send_recs (s : State) (x : Sent) : (s.send x).recs = s.recs := rfl
@[simp] theorem waits_recs (s : State) : s.waits.recs = s.recs := rfl
@[simp] theorem cmdWaits_recs (s : State) : s.cmdWaits.recs = s.recs := rfl
@[simp] theorem actFor_recs (s : State) (a : Agent) (g : EventArg) : (s.actFor a g).recs = s.recs := rfl

@[simp] theorem wroteRing_recs (s : State) (u : Nat) (p : Page) (n : Nat) : (s.wroteRing u p n).recs = s.recs := by
  unfold State.wroteRing
  split <;> rfl

/-- What each round of a loop keeps, the loop keeps. -/
theorem keyed_foldl {α : Type} {f : State → α → State} (hf : ∀ s x, s.recs.Keyed → (f s x).recs.Keyed) (l : List α)
    {s : State} (h : s.recs.Keyed) : (l.foldl f s).recs.Keyed :=
  List.foldlRecOn (motive := fun s : State => s.recs.Keyed) l f h fun s hs x _ => hf s x hs

theorem keyed_foldl_fst {α β : Type} {f : State × β → α → State × β}
    (hf : ∀ r x, r.1.recs.Keyed → (f r x).1.recs.Keyed) (l : List α) {r : State × β} (h : r.1.recs.Keyed) :
    (l.foldl f r).1.recs.Keyed :=
  List.foldlRecOn (motive := fun r : State × β => r.1.recs.Keyed) l f h fun r hr x _ => hf r x hr

@[simp] theorem foldl_recs {α : Type} {f : State → α → State} (hf : ∀ s x, (f s x).recs = s.recs) (l : List α) (s : State) :
    (l.foldl f s).recs = s.recs :=
  List.foldlRecOn (motive := fun t : State => t.recs = s.recs) l f rfl fun t ht x _ => (hf t x).trans ht

@[simp] theorem foldl_fst_recs {α β : Type} {f : State × β → α → State × β} (hf : ∀ r x, (f r x).1.recs = r.1.recs) (l : List α)
    (r : State × β) : (l.foldl f r).1.recs = r.1.recs :=
  List.foldlRecOn (motive := fun t : State × β => t.1.recs = r.1.recs) l f rfl fun t ht x _ => (hf t x).trans ht

@[simp] theorem recs_ite (c : Prop) [Decidable c] (s t : State) : (if c then s else t).recs = if c then s.recs else t.recs := by
  split <;> rfl

theorem keyed_recs_ite {c : Prop} [Decidable c] {s t : State} (hs : s.recs.Keyed) (ht : t.recs.Keyed) :
    (if c then s else t).recs.Keyed := by
  split
  · exact hs
  · exact ht

@[simp] theorem fst_ite_recs {β : Type} (c : Prop) [Decidable c] (x y : State × β) :
    (if c then x else y).1.recs = if c then x.1.recs else y.1.recs := by
  split <;> rfl

@[simp] theorem keyed_ite (c : Prop) [Decidable c] (r q : Recs) :
    (if c then r else q).Keyed = if c then r.Keyed else q.Keyed := by
  split <;> rfl

@[simp] theorem closeWalks_recs (s : State) (gone : Turn → Bool) : (s.closeWalks gone).recs = s.recs := rfl
@[simp] theorem freeNat_recs (s : State) : s.freeNat.1.recs = s.recs := rfl
@[simp] theorem unmarkLine_recs (s : State) (ln : Nat) (m : BitVec 128) : (s.unmarkLine ln m).recs = s.recs := rfl

@[simp] theorem oldOrNew_recs (s : State) (old : SMap Byte) (a n v : Nat) : (s.oldOrNew old a n v).1.recs = s.recs := by
  unfold State.oldOrNew
  split <;> rfl

@[simp] theorem countComp_recs (s : State) (t d : Nat) (comp : Bool) (x : BitVec 1024) (full : Bool) :
    (s.countComp t d comp x full).recs = s.recs := by
  unfold State.countComp
  split <;> rfl

@[simp] theorem fillTlbs_recs (s : State) (c asid va : Nat) (r : WalkResult) (die : Bool) :
    (s.fillTlbs c asid va r die).1.recs = s.recs := by
  unfold State.fillTlbs
  cases r with
  | fault k => rfl
  | leaf pte size => cases die <;> rfl

@[simp] theorem translate_recs (s : State) (c tn asid va : Nat) : (s.translate c tn asid va).1.recs = s.recs := by
  unfold State.translate
  simp only
  split
  · rfl
  · split
    · simp
    · split <;> simp

@[simp] theorem touch_recs (s : State) (pa n : Nat) : (s.touch pa n).recs = s.recs := by
  unfold State.touch
  split
  · rfl
  · split <;> rfl

@[simp] theorem noteReader_recs (s : State) (c ln : Nat) : (s.noteReader c ln).recs = s.recs := by
  simp [State.noteReader]

@[simp] theorem acquire_recs (s : State) (c sc : Nat) : (s.acquire c sc).recs = s.recs := by
  simp [State.acquire]

@[simp] theorem homeWrite_recs (s : State) (ln : Nat) (mask : BitVec 128) (x : BitVec 1024) :
    (s.homeWrite ln mask x).recs = s.recs := rfl

@[simp] theorem heat_recs (s : State) (t pa : Nat) : (s.heat t pa).recs = s.recs := by
  unfold State.heat
  split <;> rfl

@[simp] theorem homeMiss_recs (s : State) (t pa : Nat) : (s.homeMiss t pa).recs = s.recs := by
  simp [State.homeMiss]

@[simp] theorem keyed_devLine {s : State} (t k ln : Nat) (h : s.recs.Keyed) : (s.devLine t k ln).1.recs.Keyed := by
  unfold State.devLine
  simp only
  split_ifs <;> simp [h]

@[simp] theorem keyed_devStore {s : State} (k ln : Nat) (mask : BitVec 128) (x : BitVec 1024) (h : s.recs.Keyed) :
    (s.devStore k ln mask x).recs.Keyed := by
  simp [State.devStore, h]

@[simp] theorem keyed_fillDie {s : State} (t d ln : Nat) (comp : Bool) (h : s.recs.Keyed) :
    (s.fillDie t d ln comp).1.recs.Keyed := by
  unfold State.fillDie
  simp only
  split_ifs <;> simp [h]

@[simp] theorem keyed_beyondL1 {s : State} (c t ln : Nat) (p : Page) (h : s.recs.Keyed) :
    (s.beyondL1 c t ln p).1.recs.Keyed := by
  unfold State.beyondL1
  split_ifs <;> simp [h]

@[simp] theorem keyed_writeThrough {s : State} (c k ln : Nat) (mask : BitVec 128) (x : BitVec 1024) (h : s.recs.Keyed) :
    (s.writeThrough c k ln mask x).recs.Keyed := by
  simp [State.writeThrough, h]

@[simp] theorem keyed_dieStore {s : State} (c k ln : Nat) (comp : Bool) (mask : BitVec 128) (x : BitVec 1024)
    (h : s.recs.Keyed) : (s.dieStore c k ln comp mask x).recs.Keyed := by
  simp [State.dieStore, h]

@[simp] theorem keyed_flushL1Line {s : State} (t c ln sc : Nat) (h : s.recs.Keyed) :
    (s.flushL1Line t c ln sc).recs.Keyed := by
  simp [State.flushL1Line, h]

@[simp] theorem flushDieLine_recs (s : State) (d ln : Nat) : (s.flushDieLine d ln).recs = s.recs := by
  simp [State.flushDieLine]

@[simp] theorem keyed_release {s : State} (t c sc : Nat) (h : s.recs.Keyed) : (s.release t c sc).recs.Keyed := by
  have h1 : (((s.core c).l1.map Prod.fst).foldl (fun s ln => s.flushL1Line t c ln sc) s).recs.Keyed :=
    keyed_foldl (fun _ _ => keyed_flushL1Line _ _ _ _) _ h
  unfold State.release
  simp only
  split_ifs
  · exact h
  · exact h1
  · exact (foldl_recs (fun _ _ => flushDieLine_recs _ _ _) _ _).symm ▸ h1

@[simp] theorem passDie_recs (s : State) (d ln : Nat) : (s.passDie d ln).recs = s.recs := by
  simp [State.passDie]

@[simp] theorem keyed_gLoad {s : State} (c t sc : Nat) (p : Page) (n : Nat) (h : s.recs.Keyed) :
    (s.gLoad c t sc p n).1.recs.Keyed := by
  have hf : ((s.touch p.pa n).flushL1Line t c (p.pa / 128) sc).recs.Keyed := keyed_flushL1Line _ _ _ _ (by simpa using h)
  unfold State.gLoad
  simp only
  split_ifs <;> simp [h, hf]

@[simp] theorem keyed_gStore {s : State} (c t sc : Nat) (p : Page) (n v : Nat) (h : s.recs.Keyed) :
    (s.gStore c t sc p n v).recs.Keyed := by
  unfold State.gStore
  simp only
  split_ifs
  · exact h
  · exact keyed_dieStore _ _ _ _ _ _ h
  · exact keyed_writeThrough _ _ _ _ _ h

@[simp] theorem keyed_gAtomic {s : State} (c t sc : Nat) (p : Page) (n : Nat) (f : Nat → Nat) (h : s.recs.Keyed) :
    (s.gAtomic c t sc p n f).1.recs.Keyed := by
  have hf : ((s.touch p.pa n).flushL1Line t c (p.pa / 128) sc).recs.Keyed := keyed_flushL1Line _ _ _ _ (by simpa using h)
  unfold State.gAtomic
  simp only
  have hp : (((s.touch p.pa n).flushL1Line t c (p.pa / 128) sc).setL1Line c (p.pa / 128) Line.none).recs.Keyed := by
    simpa using hf
  generalize ((s.touch p.pa n).flushL1Line t c (p.pa / 128) sc).setL1Line c (p.pa / 128) Line.none = u at hp
  split_ifs
  · exact keyed_gStore _ _ _ _ _ _ (keyed_gLoad _ _ _ _ _ (by simpa using h))
  · exact keyed_dieStore _ _ _ _ _ _ (keyed_fillDie _ _ _ _ hp)
  · exact keyed_dieStore _ _ _ _ _ _ (keyed_devLine _ _ _ hp)
  · exact keyed_devStore _ _ _ _ (keyed_devLine _ _ _ (by simpa using hp))
  · exact keyed_devStore _ _ _ _ (keyed_devLine _ _ _ hp)

@[simp] theorem keyed_devRead {s : State} (t : Nat) (p : Page) (n : Nat) (h : s.recs.Keyed) :
    (s.devRead t p n).1.recs.Keyed := keyed_devLine _ _ _ h

@[simp] theorem keyed_devWrite {s : State} (p : Page) (n v : Nat) (h : s.recs.Keyed) : (s.devWrite p n v).recs.Keyed :=
  keyed_devStore _ _ _ _ h

@[simp] theorem keyed_vaRead {s : State} (t asid va n : Nat) (need : Need) (h : s.recs.Keyed) :
    (s.vaRead t asid va n need).1.recs.Keyed := by
  refine keyed_foldl_fst (fun r i hr => ?_) _ h
  split
  · exact hr
  · split <;> simp [hr]

@[simp] theorem keyed_vaNat {s : State} (t asid va n : Nat) (need : Need) (h : s.recs.Keyed) :
    (s.vaNat t asid va n need).1.recs.Keyed := keyed_vaRead _ _ _ _ _ h

theorem keyed_foldl_option {α : Type} {f : Option State → α → Option State}
    (hf : ∀ o x, (∀ t ∈ o, t.recs.Keyed) → ∀ t ∈ f o x, t.recs.Keyed) (l : List α) {o : Option State}
    (h : ∀ t ∈ o, t.recs.Keyed) : ∀ t ∈ l.foldl f o, t.recs.Keyed :=
  List.foldlRecOn (motive := fun o : Option State => ∀ t ∈ o, t.recs.Keyed) l f h fun o ho x _ => hf o x ho

theorem keyed_vaWrite {s t : State} {asid va : Nat} {need : Need} {bs : List Byte} (h : s.recs.Keyed)
    (ht : s.vaWrite asid va need bs = some t) : t.recs.Keyed := by
  refine keyed_foldl_option (fun o b ho t ht => ?_) _ (fun t ht => ?_) t ht
  · obtain ⟨u, hu, hw⟩ := Option.mem_bind_iff.1 ht
    obtain ⟨p, -, rfl⟩ := Option.map_eq_some_iff.1 hw
    exact keyed_devWrite _ _ _ (ho u hu)
  · obtain rfl := Option.some.inj ht
    exact h

end Sys2Proof.Laws

end


section
/-!
SUPPORT. The records keep their keys, part 2: the operations that the agents share.
-/

namespace Sys2Proof.Laws

open Sys2Proof.Machine

/-! ### Scratchpads and runs of bytes -/

/-- A scratchpad with a byte written. -/
theorem pad_put {g : Group} (a : Nat) (b : Byte) (h : g.Pad) : ({ g with smem := SMap.set 0 g.smem a b } : Group).Pad :=
  wf_set 0 g.smem a b h

@[simp] theorem keyed_spPuts {s : State} (uid a : Nat) (bs : List Byte) (h : s.recs.Keyed) : (s.spPuts uid a bs).recs.Keyed := by
  induction bs generalizing s a with
  | nil => exact h
  | cons b bs ih =>
    unfold State.spPuts
    split
    · exact h
    · rename_i g hg
      refine ih _ ?_
      split
      · exact keyed_setGroup h (pad_put a b (pad_of_group h hg))
      · exact h
      · exact h

@[simp] theorem keyed_gStoreList {s : State} (c t sc : Nat) (p : Page) (bs : List Byte) (h : s.recs.Keyed) :
    (s.gStoreList c t sc p bs).recs.Keyed :=
  keyed_foldl (fun _ _ => keyed_gStore _ _ _ _ _ _) _ h

@[simp] theorem keyed_gLoadList {s : State} (c t sc : Nat) (p : Page) (n : Nat) (h : s.recs.Keyed) :
    (s.gLoadList c t sc p n).1.recs.Keyed := by
  refine keyed_foldl_fst (fun r i hr => ?_) _ h
  exact keyed_gLoad _ _ _ _ _ hr

/-! ### Packets, grids and containment -/

@[simp] theorem keyed_returnWeight {s : State} (graph w : Nat) (h : s.recs.Keyed) : (s.returnWeight graph w).recs.Keyed := by
  unfold State.returnWeight
  split
  · exact h
  · rename_i g _
    have hg : GridsKeyed (if (g.counter + w) % 2 ^ 63 = 2 ^ 62 || g.done then
        s.lu.grids.filter fun p => p.2.graph != graph || !p.2.ended else s.lu.grids) := by
      split
      · exact gridsKeyed_filter _ h.grids
      · exact h.grids
    simp only
    split <;> exact { h with grids := hg }

@[simp] theorem finishPacket_recs (s : State) (p : Issued) : (s.finishPacket p).recs = s.recs := by
  unfold State.finishPacket
  simp only
  split
  · split <;> simp
  · rfl

@[simp] theorem cmdUpdate_recs (s : State) (id : Nat) (f : Issued → Issued) : (s.cmdUpdate id f).recs = s.recs := by
  unfold State.cmdUpdate
  split <;> simp

@[simp] theorem keyed_endGrid {s : State} (num : Nat) (fail : Option Nat) (h : s.recs.Keyed) : (s.endGrid num fail).recs.Keyed := by
  unfold State.endGrid
  split
  · exact h
  · rename_i r hr
    split
    · exact h
    · refine keyed_returnWeight _ _ ?_
      rw [cmdUpdate_recs]
      exact { h with
        grids := gridsKeyed_put h.grids (h.grids.own num r hr)
        saved := groupsKeyed_filter _ h.saved }

@[simp] theorem keyed_dropGroup {s : State} (uid : Nat) (h : s.recs.Keyed) : (s.dropGroup uid).recs.Keyed := by
  unfold State.dropGroup
  split
  · exact h
  · exact { h with groups := groupsKeyed_del _ h.groups }

@[simp] theorem keyed_killGrid {s : State} (num : Nat) (fail : Option Nat) (h : s.recs.Keyed) : (s.killGrid num fail).recs.Keyed := by
  unfold State.killGrid
  simp only
  refine keyed_endGrid _ _ ?_
  rw [foldl_recs (fun s p => by split <;> rfl)]
  exact keyed_foldl (fun _ _ => keyed_dropGroup _) _ h

@[simp] theorem keyed_gridFault {s : State} (g : Group) (slot code dcause : Nat) (tpc : Word) (tval : DWord) (nested : Bool)
    (h : s.recs.Keyed) : (s.gridFault g slot code dcause tpc tval nested).recs.Keyed := by
  unfold State.gridFault
  exact keyed_killGrid _ _ (keyed_release _ _ _ h)

/-! ### Side effects, semaphores, faults -/

@[simp] theorem keyed_sideEffect {s : State} (uid : Nat) (h : s.recs.Keyed) : (s.sideEffect uid).recs.Keyed := by
  unfold State.sideEffect
  split
  · exact { h with saved := groupsKeyed_mapv (f := fun u g => if u == uid then g.sideUp else g) h.saved fun u g => by split <;> exact ⟨rfl, rfl⟩ }
  · rename_i g hg
    exact keyed_setGroup_same h hg rfl

@[simp] theorem keyed_wroteOne {s : State} (uid : Nat) (p : Page) (n : Nat) (h : s.recs.Keyed) : (s.wroteOne uid p n).recs.Keyed := by
  unfold State.wroteOne
  split
  · exact keyed_sideEffect _ (by simpa using h)
  · exact h

@[simp] theorem keyed_semSet {s : State} (c idx : Nat) (v : Word) (h : s.recs.Keyed) : (s.semSet c idx v).recs.Keyed := by
  refine { h with groups := groupsKeyed_mapv (f := fun _ g => if g.core == c then g.semTest idx v else g) h.groups fun u g => ?_ }
  split <;> exact ⟨rfl, rfl⟩

@[simp] theorem queueFault_recs (s : State) (g : Group) (va cause agent : Nat) :
    (s.queueFault g va cause agent).recs = s.recs := rfl

/-! ### Exceptions -/

@[simp] theorem keyed_tTrap {s : State} {g : Group} (slot : Nat) (w : Warp) (run : BitVec 32) (pc op mod : Nat) (w0 w1 : DWord)
    (cause : Cause) (tval : DWord) (h : s.recs.Keyed) (hg : g.Pad) :
    (s.tTrap g slot w run pc op mod w0 w1 cause tval).recs.Keyed := by
  have hs : (s.setGroup (g.setWarp slot w)).recs.Keyed := keyed_setGroup h hg
  unfold State.tTrap
  simp only
  split
  · exact keyed_gridFault _ _ _ _ _ _ _ hs
  · split
    · exact keyed_gridFault _ _ _ _ _ _ _ hs
    · split
      · exact keyed_gridFault _ _ _ _ _ _ _ (by simpa using hs)
      · split
        · exact keyed_setWarp _ _ _ (keyed_gStoreList _ _ _ _ _ (by simpa using hs))
        · exact keyed_gridFault _ _ _ _ _ _ _ (by simpa using hs)

@[simp] theorem keyed_aTrap {s : State} {g : Group} (a : ACtx) (op : Nat) (pre imm inst : Word) (cause : Cause) (tval : DWord)
    (h : s.recs.Keyed) (hg : g.Pad) : (s.aTrap g a op pre imm inst cause tval).recs.Keyed := by
  have hs : (s.setGroup { g with a := a }).recs.Keyed := keyed_setGroup h hg
  unfold State.aTrap
  simp only
  split
  · exact keyed_gridFault _ _ _ _ _ _ _ hs
  · split
    · exact keyed_gridFault _ _ _ _ _ _ _ hs
    · split
      · exact keyed_gridFault _ _ _ _ _ _ _ (by simpa using hs)
      · split
        · exact keyed_setA _ _ (keyed_gStoreList _ _ _ _ _ (by simpa using hs))
        · exact keyed_gridFault _ _ _ _ _ _ _ (by simpa using hs)

/-! ### Barriers -/

@[simp] theorem settleCl_recs (s : State) (g : Group) (i : Nat) : (s.settleCl g i).recs = s.recs := by
  simp [State.settleCl]

@[simp] theorem settleGd_recs (s : State) (num i : Nat) : (s.settleGd num i).recs = s.recs := by
  unfold State.settleGd
  simp only
  split <;> simp

@[simp] theorem settleBar_smem (g : Group) (i : Nat) : (g.settleBar i).smem = g.smem := by
  unfold Group.settleBar
  simp only
  split_ifs <;> rfl

theorem foldl_settleBar_smem (l : List Nat) (g : Group) : (l.foldl (fun g i => g.settleBar i) g).smem = g.smem :=
  List.foldlRecOn (motive := fun x : Group => x.smem = g.smem) l _ rfl fun x hx i _ => (settleBar_smem x i).trans hx

@[simp] theorem keyed_settleAll {s : State} (uid : Nat) (h : s.recs.Keyed) : (s.settleAll uid).recs.Keyed := by
  unfold State.settleAll
  split
  · exact h
  · simp only
    rw [foldl_recs (fun s i => settleGd_recs s _ i), foldl_recs (fun s i => settleCl_recs s _ i)]
    split
    · rename_i g hg
      exact keyed_setGroup_same h hg (foldl_settleBar_smem _ _)
    · exact h

end Sys2Proof.Laws

end

section
/-!
SUPPORT. The records keep their keys, part 3: what an answer carries, and the issue of a T and of an A instruction.
-/

namespace Sys2Proof.Machine

/-- The state that an answer of a T meaning carries has its records under their keys. -/
def TRes.Keyed : TRes → Prop
  | .trapAt s _ _ | .begun s _ | .park s _ _ _ | .ok s _ _ | .late s _ => s.recs.Keyed
  | .trap _ _ | .trapIn _ _ _ | .wait _ | .held => True

/-- The state that an answer of an A meaning carries has its records under their keys. -/
def ARes.Keyed : ARes → Prop
  | .trapAt s _ _ | .park s _ _ | .ok s _ _ _ => s.recs.Keyed
  | .trap _ _ | .wait _ => True

/-- What a T meaning starts from: records under their keys, and the group after the pop with its scratchpad canonical. -/
structure TEnv.Keyed (e : TEnv) : Prop where
  state : e.s.recs.Keyed
  group : e.g.Pad

/-- What an A meaning starts from. -/
structure AEnv.Keyed (e : AEnv) : Prop where
  state : e.s.recs.Keyed
  group : e.g.Pad

end Sys2Proof.Machine

namespace Sys2Proof.Laws

open Sys2Proof.Machine

/-- The records of the next state, where there is one, stand under their keys. -/
def NextKeyed : Host.Outcome State Fault Refusal → Prop
  | .next t => t.recs.Keyed
  | .fault _ | .refused _ => True

@[simp] theorem nextKeyed_next (t : State) : NextKeyed (.next t) = t.recs.Keyed := rfl
@[simp] theorem nextKeyed_fault (r : Fault) : NextKeyed (.fault r) = True := rfl
@[simp] theorem nextKeyed_refused (r : Refusal) : NextKeyed (.refused r) = True := rfl
@[simp] theorem nextKeyed_notDue (s : State) : NextKeyed s.notDue = s.recs.Keyed := rfl

@[simp] theorem nextKeyed_ite (c : Prop) [Decidable c] (a b : Host.Outcome State Fault Refusal) :
    NextKeyed (if c then a else b) = if c then NextKeyed a else NextKeyed b := by split <;> rfl

/-! ### The issue of a T instruction -/

@[simp] theorem tKeyed_trap (c : Cause) (v : DWord) : (TRes.trap c v).Keyed = True := rfl
@[simp] theorem tKeyed_trapIn (m : BitVec 32) (c : Cause) (v : DWord) : (TRes.trapIn m c v).Keyed = True := rfl
@[simp] theorem tKeyed_trapAt (s : State) (c : Cause) (v : DWord) : (TRes.trapAt s c v).Keyed = s.recs.Keyed := rfl
@[simp] theorem tKeyed_wait (w : Warp) : (TRes.wait w).Keyed = True := rfl
@[simp] theorem tKeyed_held : TRes.held.Keyed = True := rfl
@[simp] theorem tKeyed_begun (s : State) (w : Warp) : (TRes.begun s w).Keyed = s.recs.Keyed := rfl
@[simp] theorem tKeyed_park (s : State) (va k a : Nat) : (TRes.park s va k a).Keyed = s.recs.Keyed := rfl
@[simp] theorem tKeyed_ok (s : State) (w : Warp) (red : BitVec 32) : (TRes.ok s w red).Keyed = s.recs.Keyed := rfl
@[simp] theorem tKeyed_late (s : State) (w : Warp) : (TRes.late s w).Keyed = s.recs.Keyed := rfl

@[simp] theorem tKeyed_ite (c : Prop) [Decidable c] (a b : TRes) : (if c then a else b).Keyed = if c then a.Keyed else b.Keyed := by
  split <;> rfl

theorem tEnv_keyed {s : State} {op : Nat} {i : TWord} {e : TEnv} (hs : s.recs.Keyed) (h : s.tEnv op i = some e) : e.Keyed := by
  unfold State.tEnv at h
  split at h
  · split at h
    · cases h
    · rename_i g hg
      split at h
      · cases h
      · split at h <;> cases h
        exact ⟨hs, pad_of_group hs hg⟩
  · cases h

theorem popT_smem {g g' : Group} {n slot : Nat} {v : Word} (h : g.popT n slot = some (g', v)) : g'.smem = g.smem := by
  unfold Group.popT at h
  split at h <;> cases h
  rfl

theorem tPopped_keyed {e0 e : TEnv} (h0 : e0.Keyed) (h : e0.popped = some e) : e.Keyed := by
  unfold TEnv.popped at h
  split at h
  · cases h; exact h0
  · split at h
    · cases h; exact ⟨h0.state, h0.group⟩
    · split at h <;> cases h
      rename_i hp
      exact ⟨h0.state, by unfold Group.Pad; rw [popT_smem hp]; exact h0.group⟩

@[simp] theorem keyed_pushDone {s : State} (uid slot q : Nat) (h : s.recs.Keyed) : (s.pushDone uid slot q).recs.Keyed := by
  unfold State.pushDone
  split
  · exact h
  · split
    · exact h
    · rename_i g hg
      split
      · rename_i g' hp
        exact keyed_setGroup_same h hg (by rw [pushT_eq hp])
      · split
        · exact keyed_setGroup_same h hg rfl
        · exact h

@[simp] theorem keyed_tBase {e : TEnv} (h : e.Keyed) : e.base.recs.Keyed := keyed_setGroup h.state h.group

@[simp] theorem keyed_tKept {s : State} (e : TEnv) (w : Warp) (h : s.recs.Keyed) : (e.kept s w).recs.Keyed := keyed_setWarp _ _ _ h

@[simp] theorem keyed_tFinish {s : State} (e : TEnv) (w : Warp) (red : BitVec 32) (h : s.recs.Keyed) :
    (e.finish s w red).recs.Keyed := by
  unfold TEnv.finish
  exact keyed_pushDone _ _ _ (by simpa using keyed_setWarp _ _ _ h)

@[simp] theorem keyed_tEnvTrap {e : TEnv} (c : Cause) (tval : DWord) (h : e.Keyed) : (e.trap c tval).recs.Keyed := by
  unfold TEnv.trap
  simp only
  split
  · exact h.state
  · exact keyed_tTrap _ _ _ _ _ _ _ _ _ _ h.state h.group

theorem keyed_tConclude {e : TEnv} {r : TRes} (h : e.Keyed) (hr : r.Keyed) : (e.conclude r).recs.Keyed := by
  cases r with
  | trap c v => exact keyed_tEnvTrap _ _ h
  | trapIn m c v => exact keyed_tEnvTrap _ _ ⟨h.state, h.group⟩
  | trapAt s c v => exact keyed_tEnvTrap _ _ ⟨hr, h.group⟩
  | wait w => exact keyed_setWarp _ _ _ h.state
  | held => exact keyed_tKept e _ (keyed_tBase h)
  | begun s w => exact keyed_tKept e _ hr
  | park s va k a => exact keyed_tKept e _ (by simpa using hr)
  | ok s w red => exact keyed_tFinish e _ _ hr
  | late s w => exact keyed_setWarp _ _ _ hr

/-- A T instruction keeps the records where its body does: popping and trapping do. -/
theorem tIssue_keyed {op : Nat} {i : TWord} {s : State} {body : TEnv → TRes} (h : s.recs.Keyed)
    (hb : ∀ e : TEnv, e.Keyed → (body e).Keyed) : NextKeyed (tIssue op i s body) := by
  unfold tIssue
  split
  · trivial
  · rename_i e0 he0
    split
    · exact h
    · rename_i e he
      have hs : e.Keyed := tPopped_keyed (tEnv_keyed h he0) he
      split
      · exact h
      · rw [nextKeyed_next]
        split
        · exact keyed_tEnvTrap _ _ hs
        · exact keyed_tConclude hs (hb e hs)

@[simp] theorem resultOf_keyed {e : TEnv} (pm : BitVec 32) (n : Nat) (v : Nat → BitVec 128) (bad : Nat → Option Nat)
    (h : e.Keyed) : (e.resultOf pm n v bad).Keyed := by
  unfold TEnv.resultOf
  simp only
  split
  · trivial
  · split
    · split <;> trivial
    · exact keyed_tBase h

@[simp] theorem result_keyed {e : TEnv} (n : Nat) (v : Nat → BitVec 128) (bad : Nat → Option Nat) (h : e.Keyed) :
    (e.result n v bad).Keyed := resultOf_keyed _ _ _ _ h

theorem onto_keyed {r : TRes} {s : State} (hr : r.Keyed) (h : s.recs.Keyed) : (r.onto s).Keyed := by
  cases r <;> simp_all [TRes.onto]

theorem tAlu_keyed {op : Nat} {i : TWord} {s : State} (f : TEnv → Nat → Word) (h : s.recs.Keyed) : NextKeyed (tAlu op i s f) :=
  tIssue_keyed h fun _ => result_keyed _ _ _

theorem tAlu64_keyed {op : Nat} {i : TWord} {s : State} (f : TEnv → Nat → DWord) (h : s.recs.Keyed) :
    NextKeyed (tAlu64 op i s f) := tIssue_keyed h fun _ => result_keyed _ _ _

theorem tCond_keyed {op : Nat} {i : TWord} {s : State} (f : TEnv → Nat → Bool) (h : s.recs.Keyed) : NextKeyed (tCond op i s f) := by
  refine tIssue_keyed h fun e he => ?_
  split
  · simp only
    split
    · trivial
    · exact keyed_tBase he
  · exact result_keyed _ _ _ he

theorem tEmul_keyed {op : Nat} {i : TWord} {s : State} (h : s.recs.Keyed) : NextKeyed (tEmul op i s) := by
  unfold tEmul
  split
  · trivial
  · rename_i e he
    exact keyed_tEnvTrap _ _ (tEnv_keyed h he)

/-! ### The issue of an A instruction -/

@[simp] theorem aKeyed_trap (c : Cause) (v : DWord) : (ARes.trap c v).Keyed = True := rfl
@[simp] theorem aKeyed_trapAt (s : State) (c : Cause) (v : DWord) : (ARes.trapAt s c v).Keyed = s.recs.Keyed := rfl
@[simp] theorem aKeyed_wait (a : ACtx) : (ARes.wait a).Keyed = True := rfl
@[simp] theorem aKeyed_park (s : State) (va k : Nat) : (ARes.park s va k).Keyed = s.recs.Keyed := rfl
@[simp] theorem aKeyed_ok (s : State) (a : ACtx) (v : Word) (j : Bool) : (ARes.ok s a v j).Keyed = s.recs.Keyed := rfl

@[simp] theorem aKeyed_ite (c : Prop) [Decidable c] (a b : ARes) : (if c then a else b).Keyed = if c then a.Keyed else b.Keyed := by
  split <;> rfl

theorem aEnv_keyed {s : State} {op : Nat} {p : Option APrefix} {i : AWord} {e : AEnv} (hs : s.recs.Keyed)
    (h : s.aEnv op p i = some e) : e.Keyed := by
  unfold State.aEnv at h
  split at h
  · split at h
    · cases h
    · rename_i g hg
      split at h <;> cases h
      exact ⟨hs, pad_of_group hs hg⟩
  · cases h

@[simp] theorem aAcquired_recs (e : AEnv) (v : Word) : (e.acquired v).recs = e.s.recs := by
  unfold AEnv.acquired
  split
  · split <;> simp
  · rfl

@[simp] theorem dropA_smem (g : Group) (n : Nat) : (g.dropA n).smem = g.smem := by
  unfold Group.dropA
  split <;> rfl

theorem aPopped_keyed {e0 e : AEnv} (h0 : e0.Keyed) (h : e0.popped = some e) : e.Keyed := by
  unfold AEnv.popped at h
  split at h
  · cases h; exact h0
  · split at h
    · cases h; exact ⟨h0.state, h0.group⟩
    · split at h <;> cases h
      exact ⟨by simpa using h0.state, by unfold Group.Pad; rw [dropA_smem]; exact h0.group⟩

@[simp] theorem keyed_aPush {s : State} (uid q : Nat) (v : Word) (h : s.recs.Keyed) : (s.aPush uid q v).recs.Keyed := by
  unfold State.aPush
  split
  · exact h
  · split
    · exact h
    · rename_i g hg
      split
      · rename_i g' hp
        exact keyed_setGroup_same h hg (by rw [pushA_eq hp])
      · exact keyed_setGroup_same h hg rfl

@[simp] theorem keyed_aBase {e : AEnv} (h : e.Keyed) : e.base.recs.Keyed := keyed_setGroup h.state h.group

@[simp] theorem keyed_aFinish {s : State} (e : AEnv) (a : ACtx) (v : Word) (jumped : Bool) (h : s.recs.Keyed) :
    (e.finish s a v jumped).recs.Keyed := by
  unfold AEnv.finish
  exact keyed_aPush _ _ _ (by simpa using keyed_setA _ _ h)

@[simp] theorem keyed_aEnvTrap {e : AEnv} (c : Cause) (tval : DWord) (h : e.Keyed) : (e.trap c tval).recs.Keyed :=
  keyed_aTrap _ _ _ _ _ _ _ h.state h.group

@[simp] theorem keyed_aTrapOf {s : State} (uid : Nat) (e : AEnv) (c : Cause) (tval : DWord) (h : s.recs.Keyed) :
    (s.aTrapOf uid e c tval).recs.Keyed := by
  unfold State.aTrapOf
  split
  · exact h
  · rename_i g hg
    exact keyed_aEnvTrap _ _ ⟨h, pad_of_group h hg⟩

theorem keyed_aConclude {e : AEnv} {r : ARes} (h : e.Keyed) (hr : r.Keyed) : (e.conclude r).recs.Keyed := by
  cases r with
  | trap c v => exact keyed_aEnvTrap _ _ h
  | trapAt s c v => exact keyed_aTrapOf _ _ _ _ hr
  | wait a => exact keyed_setA _ _ h.state
  | park s va k => exact keyed_setA _ _ (by simpa using hr)
  | ok s a v j => exact keyed_aFinish e _ _ _ hr

theorem tokenFault_recs {e : AEnv} {x : State × Cause × DWord} (h : e.tokenFault = some x) : x.1.recs = e.s.recs := by
  unfold AEnv.tokenFault at h
  split at h
  · cases h
  · split at h
    · cases h; rfl
    · split at h <;> cases h
      rfl

theorem keyed_issue {e0 e : AEnv} {r : ARes} (h0 : e0.Keyed) (h : e.Keyed) (hr : r.Keyed) :
    (e0.issue e r).recs.Keyed := by
  unfold AEnv.issue
  split
  · exact keyed_aConclude h0 hr
  · split
    · exact keyed_aEnvTrap _ _ h
    · split
      · rename_i s' c v ht
        exact keyed_aEnvTrap _ _ ⟨by rw [show s'.recs = e.s.recs from tokenFault_recs ht]; exact h.state, h.group⟩
      · exact keyed_aConclude h hr

/-- An A instruction keeps the records where its body does: popping, its acquire and trapping do. -/
theorem aIssue_keyed {op : Nat} {p : Option APrefix} {i : AWord} {s : State} {body : AEnv → ARes} (h : s.recs.Keyed)
    (hb : ∀ e : AEnv, e.Keyed → (body e).Keyed) : NextKeyed (aIssue op p i s body) := by
  unfold aIssue
  split
  · trivial
  · rename_i e0 he0
    have h0 : e0.Keyed := aEnv_keyed h he0
    split
    · simpa using h
    · rename_i e he
      have hs : e.Keyed := aPopped_keyed h0 he
      exact keyed_issue h0 hs (hb e hs)

theorem aAlu_keyed {op : Nat} {p : Option APrefix} {i : AWord} {s : State} (f : AEnv → DWord) (h : s.recs.Keyed) :
    NextKeyed (aAlu op p i s f) := aIssue_keyed h fun _ he => keyed_aBase he

end Sys2Proof.Laws

end


section
/-!
SUPPORT. The records keep their keys, part 4: the T stream.
-/

namespace Sys2Proof.Laws

open Sys2Proof.Machine

/-! ### Stopping a warp -/

@[simp] theorem keyed_stopWarp {s : State} (g : Group) (slot : Nat) (w : Warp) (entry : Nat) (h : s.recs.Keyed) :
    (s.stopWarp g slot w entry).recs.Keyed := by
  unfold State.stopWarp
  simp only
  split
  · simp [h]
  · split <;> simp [h]

@[simp] theorem keyed_maybeStop {s : State} (uid slot : Nat) (sync : Bool) (h : s.recs.Keyed) :
    (s.maybeStop uid slot sync).recs.Keyed := by
  unfold State.maybeStop
  split
  · exact h
  · split
    · exact h
    · split
      · split
        · exact keyed_stopWarp _ _ _ _ h
        · exact h
      · exact h

@[simp] theorem keyed_stopAt {s : State} (uid slot n : Nat) (h : s.recs.Keyed) : (s.stopAt uid slot n).recs.Keyed := by
  unfold State.stopAt
  split
  · exact h
  · split
    · exact h
    · simp [h]

/-! ### Program counters, lanes and barriers -/

@[simp] theorem keyed_afterThreads {s : State} (uid slot : Nat) (w : Warp) (h : s.recs.Keyed) :
    (s.afterThreads uid slot w).recs.Keyed := by
  have hs : (s.setWarp uid slot w).recs.Keyed := keyed_setWarp _ _ _ h
  unfold State.afterThreads
  simp only
  split
  · exact hs
  · rename_i g hg
    exact keyed_settleAll _ (keyed_setGroup_same hs hg rfl)

theorem badTarget_keyed {e : TEnv} (target : Nat → Word) {r : TRes} (h : r.Keyed) : ((e.badTarget target).getD r).Keyed := by
  unfold TEnv.badTarget
  split
  · trivial
  · cases (lanesOf e.parts).find? fun t => (target t).toNat % 8 != 0 with
    | none => exact h
    | some t => trivial

theorem branch_keyed {e : TEnv} (target : Nat → Word) (h : e.Keyed) : (e.branch target).Keyed := keyed_tBase h

theorem callBody_keyed {e : TEnv} (target : Nat → Word) (h : e.Keyed) : (callBody e target).Keyed := by
  have hr := result_keyed (e := e) 1 (fun _ => BitVec.ofNat 128 (e.pc + tBytes e.i)) (fun _ => none) h
  unfold callBody
  split
  · rename_i heq
    rw [heq] at hr
    exact hr
  · exact hr

theorem endRestore_keyed {e : TEnv} (w : Warp) (mask : BitVec 32) (h : e.Keyed) : (e.endRestore w mask).Keyed := by
  unfold TEnv.endRestore
  simp only
  split
  · simp [h]
  · split
    · simp [h]
    · split
      · simp [h]
      · split
        · trivial
        · split
          · trivial
          · exact keyed_afterThreads _ _ _ (keyed_gLoadList _ _ _ _ _ (by simp [h]))

theorem moved_keyed {e : TEnv} (w : Warp) (mask : BitVec 32) (h : e.Keyed) : (e.moved w mask).Keyed := by
  unfold TEnv.moved
  split
  · exact endRestore_keyed _ _ h
  · simp [h]

theorem setPred_keyed {e : TEnv} (m : BitVec 32) (h : e.Keyed) : (e.setPred m).Keyed := keyed_tBase h

theorem fromLanes_keyed {e : TEnv} (own : BitVec 32) (src : Nat → List Nat) (v : Nat → Word) (h : e.Keyed) :
    (e.fromLanes own src v).Keyed := resultOf_keyed _ _ _ _ h

@[simp] theorem keyed_setBarrier {s : State} {g : Group} (kind i : Nat) (b : Barrier) (h : s.recs.Keyed) (hg : g.Pad) :
    (s.setBarrier g kind i b).recs.Keyed := by
  unfold State.setBarrier
  split
  · exact keyed_setGroup h hg
  · exact h
  · exact h

@[simp] theorem keyed_arrive {e : TEnv} (m : BitVec 32) (kind i : Nat) (h : e.Keyed) :
    (e.arrive m kind i).recs.Keyed := by
  have hs : (e.base.release e.g.tenant e.g.core (barScope kind)).recs.Keyed := keyed_release _ _ _ (keyed_tBase h)
  unfold TEnv.arrive
  simp only
  split
  · exact hs
  · rename_i g hg
    have hb := fun b => keyed_setBarrier kind i b hs (pad_of_group hs hg)
    refine keyed_settleAll _ ?_
    split
    · exact hb _
    · exact keyed_sideEffect _ (hb _)

theorem arriveBody_keyed {e : TEnv} (sync : Bool) (kind i : Nat) (h : e.Keyed) : (arriveBody sync e kind i).Keyed := by
  simp [arriveBody, h]

theorem barIssue_keyed {op : Nat} {w : TWord} {s : State} {body : TEnv → Nat → Nat → TRes} (h : s.recs.Keyed)
    (hb : ∀ (e : TEnv) kind i, e.Keyed → (body e kind i).Keyed) : NextKeyed (barIssue op w s body) := by
  refine tIssue_keyed h fun e he => ?_
  simp only
  split
  · exact hb e _ _ he
  · trivial

theorem execUnpackT5_keyed {s : State} (w : TWord) (h : s.recs.Keyed) : NextKeyed (execUnpackT5 w s) := by
  refine tIssue_keyed h fun e he => ?_
  simp only
  split
  · split
    · rename_i s' w' red heq
      have hr := result_keyed (e := e) 1 (fun t => if tritLegal (byteOf (e.int 1 t) e.mod) then
        (unpackTrits (byteOf (e.int 1 t) e.mod)).setWidth 128 else 0) (fun _ => none) he
      rw [heq] at hr
      exact hr
    · exact result_keyed _ _ _ he
  · exact result_keyed _ _ _ he

theorem execMov_keyed {s : State} (w : TWord) (h : s.recs.Keyed) : NextKeyed (execMov w s) := by
  refine tIssue_keyed h fun e he => ?_
  split <;> exact result_keyed _ _ _ he

theorem execSafept_keyed {s : State} (w : TWord) (h : s.recs.Keyed) : NextKeyed (execSafept w s) := by
  unfold execSafept
  simp only
  split
  · rename_i s' heq
    have hs' : NextKeyed (.next s') := by
      rw [← heq]
      refine tIssue_keyed h fun e he => ?_
      split
      · trivial
      · exact keyed_tBase he
    split
    · exact keyed_stopAt _ _ _ hs'
    · exact hs'
  · refine tIssue_keyed h fun e he => ?_
    split
    · trivial
    · exact keyed_tBase he

theorem execSetpc_keyed {s : State} (w : TWord) (h : s.recs.Keyed) : NextKeyed (execSetpc w s) := by
  refine tIssue_keyed h fun e he => ?_
  split
  · trivial
  · split
    · trivial
    · split
      · trivial
      · exact moved_keyed _ _ he

theorem execExit_keyed {s : State} (w : TWord) (h : s.recs.Keyed) : NextKeyed (execExit w s) := by
  refine tIssue_keyed h fun e he => ?_
  split
  · trivial
  · exact moved_keyed _ _ he

theorem execVote_keyed {s : State} (w : TWord) (h : s.recs.Keyed) : NextKeyed (execVote w s) := by
  refine tIssue_keyed h fun e he => ?_
  simp only
  split
  · exact keyed_tBase he
  · exact keyed_tBase he
  · exact keyed_tBase he
  · exact result_keyed _ _ _ he

theorem execBarWt_keyed {s : State} (w : TWord) (h : s.recs.Keyed) : NextKeyed (execBarWt w s) := by
  refine barIssue_keyed h fun e kind i he => ?_
  split
  · trivial
  · simp [he]

theorem softTrap_keyed {e : TEnv} (c : Cause) (h : e.Keyed) : (softTrap c e).Keyed := by
  unfold softTrap
  split
  · exact keyed_tBase h
  · trivial

theorem execTret_keyed {s : State} (w : TWord) (h : s.recs.Keyed) : NextKeyed (execTret w s) := by
  refine tIssue_keyed h fun e he => ?_
  simp only [tKeyed_ite, tKeyed_trap]
  split
  · trivial
  · split
    · simp [he]
    · simp [he]

theorem lost_keyed {e : TEnv} (n : Nat) (h : e.Keyed) : (e.lost n).Keyed := keyed_tBase h

theorem execVget_keyed {s : State} (w : TWord) (h : s.recs.Keyed) : NextKeyed (execVget w s) :=
  tIssue_keyed h fun e he => by simp [he, lost_keyed]

theorem execVput_keyed {s : State} (w : TWord) (h : s.recs.Keyed) : NextKeyed (execVput w s) :=
  tIssue_keyed h fun e he => by simp [he]

/-! ### Loads, stores and atomics -/

@[simp] theorem checkGlobal_recs (s : State) (g : Group) (a : DWord) (n : Nat) (need : Need) :
    (s.checkGlobal g a n need).1.recs = s.recs := by
  unfold State.checkGlobal
  split
  · rfl
  · split
    · rfl
    · exact translate_recs _ _ _ _ _

@[simp] theorem checkOne_recs (e : TEnv) (s : State) (sp : Space) (n : Nat) (need : Need) (t : Nat) :
    (e.checkOne s sp n need t).1.recs = s.recs := by
  cases sp with
  | global => exact checkGlobal_recs _ _ _ _ _
  | pad => rfl
  | cluster => rfl

@[simp] theorem checkAll_recs (e : TEnv) (s : State) (sp : Space) (n : Nat) (need : Need) (ts : List Nat) :
    (e.checkAll s sp n need ts).1.recs = s.recs := by
  simp [TEnv.checkAll]

theorem badRes_keyed {s : State} (b : Bad) (agent : Nat) (h : s.recs.Keyed) : (b.res s agent).Keyed := by
  unfold Bad.res
  split
  · exact h
  · trivial

@[simp] theorem keyed_placeRead {s : State} (g : Group) (sc n : Nat) (p : Place) (h : s.recs.Keyed) :
    (s.placeRead g sc n p).1.recs.Keyed := by
  cases p with
  | glob p => exact keyed_gLoad _ _ _ _ _ h
  | pad uid a => exact h
  | away => exact h

@[simp] theorem keyed_placeWrite {s : State} (g : Group) (sc n v : Nat) (p : Place) (h : s.recs.Keyed) :
    (s.placeWrite g sc n v p).recs.Keyed := by
  cases p with
  | glob p => exact keyed_gStore _ g.tenant _ _ _ _ h
  | pad uid a => exact keyed_spPuts _ _ _ h
  | away => exact h

@[simp] theorem keyed_tPre {s : State} (e : TEnv) (h : s.recs.Keyed) : (e.pre s).recs.Keyed := by
  simp [TEnv.pre, h]

@[simp] theorem tPost_recs (e : TEnv) (s : State) : (e.post s).recs = s.recs := by
  simp [TEnv.post]

@[simp] theorem keyed_readAll {s : State} (e : TEnv) (n : Nat) (l : List (Nat × Except Bad Place)) (h : s.recs.Keyed) :
    (e.readAll n s l).1.recs.Keyed := by
  refine keyed_foldl_fst (fun r p hr => ?_) _ h
  split
  · exact keyed_placeRead _ _ _ _ hr
  · exact hr

@[simp] theorem keyed_writeAll {s : State} (e : TEnv) (n : Nat) (l : List (Nat × Except Bad Place)) (h : s.recs.Keyed) :
    (e.writeAll n s l).recs.Keyed := by
  refine keyed_foldl (fun s p hs => ?_) _ h
  split
  · exact keyed_placeWrite _ _ _ _ _ hs
  · exact hs

@[simp] theorem keyed_ringWrites {s : State} (e : TEnv) (more : Bool) (n : Nat) (l : List (Nat × Except Bad Place))
    (h : s.recs.Keyed) : (e.ringWrites more n s l).recs.Keyed := by
  have hf : (l.foldl (fun s p => match p.2 with | .ok (.glob q) => s.wroteRing e.g.uid q n | _ => s) s).recs.Keyed := by
    rw [foldl_recs (fun s p => by split <;> simp) l]
    exact h
  unfold TEnv.ringWrites
  simp only
  split
  · exact keyed_sideEffect _ hf
  · exact hf

theorem loadBody_keyed {e : TEnv} (sp : Space) (h : e.Keyed) : (loadBody sp e).Keyed := by
  unfold loadBody
  simp only
  split
  · trivial
  · split
    · exact badRes_keyed _ _ (by simp [h])
    · split
      · trivial
      · simp [h]

theorem storeBody_keyed {e : TEnv} (sp : Space) (h : e.Keyed) : (storeBody sp e).Keyed := by
  unfold storeBody
  simp only
  split
  · trivial
  · split
    · exact badRes_keyed _ _ (by simp [h])
    · split
      · trivial
      · split
        · exact keyed_tBase h
        · exact keyed_ringWrites _ _ _ _ (keyed_writeAll _ _ _ (keyed_tPre _ (by simp [h])))

@[simp] theorem keyed_atomAll {s : State} (e : TEnv) (n : Nat) (run : TEnv → List Nat → Nat → Nat × List Nat)
    (l : List (Nat × Except Bad Place)) (h : s.recs.Keyed) : (e.atomAll n run s l).1.recs.Keyed := by
  refine keyed_foldl_fst (fun r ls hr => ?_) _ h
  split
  · exact hr
  · exact keyed_gAtomic _ _ _ _ _ _ hr

theorem atomBody_keyed {e : TEnv} (n : Nat) (dst : Bool) (run : TEnv → List Nat → Nat → Nat × List Nat)
    (h : e.Keyed) : (atomBody n dst run e).Keyed := by
  unfold atomBody
  simp only
  split
  · trivial
  · split
    · exact badRes_keyed _ _ (by simp [h])
    · split
      · exact onto_keyed (resultOf_keyed _ _ _ _ h) (by simp (disch := simp [h]))
      · simp (disch := simp [h])

/-! ### Hints, FENCE, CBLD and semaphores -/

@[simp] theorem hintPage_recs (s : State) (g : Group) (a : Nat) : (s.hintPage g a).1.recs = s.recs := by
  unfold State.hintPage
  split
  · rfl
  · exact translate_recs _ _ _ _ _

@[simp] theorem keyed_prefetch {s : State} (e : TEnv) (t : Nat) (h : s.recs.Keyed) : (e.prefetch s t).recs.Keyed := by
  unfold TEnv.prefetch
  simp only
  split
  · simpa using h
  · simp [h]

@[simp] theorem resideChunk_recs (g : Group) (mod : Nat) (a : Reside) (va lines : Nat) :
    (resideChunk g mod a va lines).s.recs = a.s.recs := by
  unfold resideChunk
  simp only
  split
  · simp
  · split <;> simp

theorem foldl_reside_recs {α : Type} {f : Reside → α → Reside} (hf : ∀ a x, (f a x).s.recs = a.s.recs) (l : List α) (a : Reside) :
    (l.foldl f a).s.recs = a.s.recs :=
  List.foldlRecOn (motive := fun b : Reside => b.s.recs = a.s.recs) l f rfl fun b hb x _ => (hf b x).trans hb

@[simp] theorem keyed_resideOne {s : State} (e : TEnv) (t : Nat) (h : s.recs.Keyed) : (e.resideOne s t).recs.Keyed := by
  unfold TEnv.resideOne
  simp only
  split
  · exact h
  · simp only [recs_ite, hintDrop_recs, ite_self]
    rw [foldl_recs (fun _ _ => heat_recs _ _ _)]
    rw [foldl_reside_recs (fun _ _ => resideChunk_recs _ _ _ _ _)]
    exact h

theorem execPfh_keyed {s : State} (w : TWord) (h : s.recs.Keyed) : NextKeyed (execPfh w s) := by
  refine tIssue_keyed h fun e he => ?_
  split
  · trivial
  · exact keyed_foldl (fun _ _ => keyed_prefetch _ _) _ (keyed_tBase he)

theorem execReside_keyed {s : State} (w : TWord) (h : s.recs.Keyed) : NextKeyed (execReside w s) := by
  refine tIssue_keyed h fun e he => ?_
  split
  · trivial
  · exact keyed_foldl (fun _ _ => keyed_resideOne _ _) _ (keyed_tBase he)

theorem execFence_keyed {s : State} (w : TWord) (h : s.recs.Keyed) : NextKeyed (execFence w s) :=
  tIssue_keyed h fun e he => by simp [he]

theorem execCbld_keyed {s : State} (w : TWord) (h : s.recs.Keyed) : NextKeyed (execCbld w s) := by
  refine tIssue_keyed h fun e he => ?_
  have hstop : ∀ (t : Nat) c v, (if bit e.hlp t then TRes.ok e.base e.w 0 else .trap c v).Keyed := by
    intro t c v
    split
    · exact keyed_tBase he
    · trivial
  split
  · trivial
  · split
    · exact keyed_tBase he
    · simp only
      split
      · exact hstop _ _ _
      · split
        · exact hstop _ _ _
        · split
          · exact hstop _ _ _
          · exact keyed_tBase he

theorem execCbldFill_keyed {s : State} (h : s.recs.Keyed) : NextKeyed (execCbldFill s) := by
  unfold execCbldFill
  simp only
  split
  · exact h
  · split
    · exact h
    · split
      · exact h
      · split
        · exact h
        · exact keyed_pushDone _ _ _ (keyed_setWarp _ _ _ h)

theorem semIssue_keyed {op : Nat} {w : TWord} {s : State} {choose : TEnv → Option Nat} {body : TEnv → Nat → Word → TRes}
    (h : s.recs.Keyed) (hb : ∀ (e : TEnv) i b, e.Keyed → (body e i b).Keyed) :
    NextKeyed (semIssue op w s choose body) := by
  refine tIssue_keyed h fun e he => ?_
  split
  · exact resultOf_keyed _ _ _ _ he
  · simp only
    split
    · split
      · exact keyed_tBase he
      · trivial
    · split
      · split
        · exact keyed_tBase he
        · trivial
      · exact hb e _ _ he

theorem semUpdate_keyed {e : TEnv} (f : Word → Word → Word) (i : Nat) (b : Word) (h : e.Keyed) :
    (semUpdate f e i b).Keyed := onto_keyed (resultOf_keyed _ _ _ _ h) (keyed_sideEffect _ (keyed_semSet _ _ _ (keyed_tPre _ (keyed_tBase h))))

theorem execSemwait_keyed {s : State} (w : TWord) (h : s.recs.Keyed) : NextKeyed (execSemwait w s) := by
  refine semIssue_keyed h fun e i b he => ?_
  split
  · trivial
  · rename_i v _
    have hr := resultOf_keyed (e := e) 0 1 (fun _ => v.setWidth 128) (fun _ => none) he
    split
    · rename_i heq
      rw [heq] at hr
      simpa using hr
    · exact hr

end Sys2Proof.Laws

end


section
/-!
SUPPORT. The records keep their keys, part 5: the A stream, and the commands of packets.
-/

namespace Sys2Proof.Laws

open Sys2Proof.Machine

/-! ### The access stream -/

@[simp] theorem keyed_deliverTa {s : State} {g : Group} (tok : Word) (h : s.recs.Keyed) (hg : g.Pad) :
    (s.deliverTa g tok).recs.Keyed :=
  keyed_setGroup (by simpa using h) hg

@[simp] theorem keyed_aPre {s : State} (e : AEnv) (sem : BitVec 2) (sc : Nat) (h : s.recs.Keyed) :
    (e.pre s sem sc).recs.Keyed := by
  simp [AEnv.pre, h]

@[simp] theorem aPost_recs (e : AEnv) (s : State) (sem : BitVec 2) (sc : Nat) : (e.post s sem sc).recs = s.recs := by
  simp [AEnv.post]

theorem execAmov_keyed {s : State} (w : AWord) (h : s.recs.Keyed) : NextKeyed (execAmov w s) := by
  refine aIssue_keyed h fun e he => ?_
  simp only
  split <;> exact keyed_aBase he

theorem execAexit_keyed {s : State} (h : s.recs.Keyed) : NextKeyed (execAexit s) := by
  refine aIssue_keyed h fun e he => ?_
  simp only
  split
  · trivial
  · split
    · exact keyed_deliverTa _ (keyed_aBase he) he.group
    · split
      · exact keyed_setGroup he.state he.group
      · split
        · refine keyed_setGroup ?_ he.group
          split <;> simp [he]
        · rw [aKeyed_ok]
          split <;> simp [he]

theorem execAretT_keyed {s : State} (h : s.recs.Keyed) : NextKeyed (execAretT s) := by
  refine aIssue_keyed h fun e he => ?_
  simp only [aKeyed_ite, aKeyed_trap]
  split
  · trivial
  · split
    · simp [he]
    · simp [he]

/-- The place of an access, or the answer instead of it, comes with the records under their keys. -/
theorem place_keyed {e : AEnv} (pad : Bool) (need : Need) (h : e.Keyed) :
    (∀ r, e.place pad need = .error r → r.Keyed) ∧ ∀ x, e.place pad need = .ok x → x.1.recs.Keyed := by
  unfold AEnv.place
  simp only
  split
  · simp
  · split
    · split <;> simp [h]
    · split <;> simp [h]

theorem aLoad_keyed {e : AEnv} (pad : Bool) (h : e.Keyed) : (aLoad pad e).Keyed := by
  obtain ⟨herr, hok⟩ := place_keyed pad .read h
  unfold aLoad
  split
  · exact herr _ ‹_›
  · simp [hok _ ‹_›]

theorem aStore_keyed {e : AEnv} (pad : Bool) (h : e.Keyed) : (aStore pad e).Keyed := by
  obtain ⟨herr, hok⟩ := place_keyed pad .write h
  unfold aStore
  split
  · exact herr _ ‹_›
  · have hs := hok _ ‹_›
    have hw := fun e' x => keyed_placeWrite (n := e.size) e.g e.p.scope.toNat x e' (keyed_aPre e e.p.sem e.p.scope.toNat hs)
    rw [aKeyed_ok]
    split
    · exact keyed_wroteOne _ _ _ (hw _ _)
    · exact hw _ _

theorem aFence_keyed {e : AEnv} (h : e.Keyed) : (aFence e).Keyed := by
  simp [aFence, h]

theorem aSemUpdate_keyed {e : AEnv} (f : Word → Word → Word) (h : e.Keyed) : (aSemUpdate f e).Keyed := by
  unfold aSemUpdate
  simp only
  split
  · trivial
  · exact keyed_sideEffect _ (keyed_semSet _ _ _ (keyed_aPre _ _ _ (keyed_aBase h)))

theorem aSemWait_keyed {e : AEnv} (h : e.Keyed) : (aSemWait e).Keyed := by
  unfold aSemWait
  simp only
  split
  · trivial
  · split
    · trivial
    · simp [h]

/-! ### Commands of packets -/

@[simp] theorem cmdSet_recs (s : State) (f : IssuedCmd → IssuedCmd) : (s.cmdSet f).recs = s.recs := cmdUpdate_recs _ _ _
@[simp] theorem cmdDone_recs (s : State) : s.cmdDone.recs = s.recs := cmdSet_recs _ _
@[simp] theorem cmdStart_recs (s : State) : s.cmdStart.recs = s.recs := cmdSet_recs _ _
@[simp] theorem cmdFail_recs (s : State) (st : Status) : (s.cmdFail st).recs = s.recs := cmdUpdate_recs _ _ _

theorem cmdResult_keyed {s : State} {r : Except Status State} (h : s.recs.Keyed) (hr : ∀ t, r = .ok t → t.recs.Keyed) :
    NextKeyed (cmdResult s r) := by
  cases r with
  | error st => simpa [cmdResult] using h
  | ok t => simpa [cmdResult] using hr t rfl

theorem cmdUnit_keyed {s : State} {n : Nat} {f : State → Nat → State} (h : s.recs.Keyed)
    (hf : ∀ i, (f s i).recs.Keyed) : NextKeyed (s.cmdUnit n f) := by
  simp [State.cmdUnit, h, hf]

end Sys2Proof.Laws

end


section
/-!
SUPPORT. The records keep their keys, part 6: the scan-out processor and the heads.
-/

namespace Sys2Proof.Machine

/-- The state that an answer of a line core's operation carries has its records under their keys. -/
def LRes.Keyed : LRes → Prop
  | .act s => s.recs.Keyed
  | .ok _ _ | .wait | .fault _ => True

end Sys2Proof.Machine

namespace Sys2Proof.Laws

open Sys2Proof.Machine

/-! ### The issue of a line core's operation -/

@[simp] theorem lKeyed_ok (c : LineCore) (t : Option Word) : (LRes.ok c t).Keyed = True := rfl
@[simp] theorem lKeyed_act (s : State) : (LRes.act s).Keyed = s.recs.Keyed := rfl
@[simp] theorem lKeyed_wait : LRes.wait.Keyed = True := rfl
@[simp] theorem lKeyed_fault (k : Nat) : (LRes.fault k).Keyed = True := rfl

@[simp] theorem lKeyed_ite (c : Prop) [Decidable c] (a b : LRes) : (if c then a else b).Keyed = if c then a.Keyed else b.Keyed := by
  split <;> rfl

theorem keyed_lConclude {e : LEnv} {r : LRes} (h : e.s.recs.Keyed) (hr : r.Keyed) : (e.conclude r).recs.Keyed := by
  cases r with
  | ok lc t => cases t <;> exact h
  | act s => exact hr
  | wait => exact h
  | fault k => exact h

/-- A line core's operation keeps the records where its body does. -/
theorem lIssue_keyed {s : State} {body : LEnv → LRes} (h : s.recs.Keyed) (hb : ∀ e : LEnv, e.s.recs.Keyed → (body e).Keyed) :
    NextKeyed (lIssue s body) := by
  unfold lIssue
  split
  · trivial
  · rename_i e he
    have hs : e.s.recs.Keyed := by rw [lEnv_s he]; exact h
    exact keyed_lConclude hs (hb e hs)

theorem sAlu_keyed {s : State} (w : SSlot) (f : Word → Word → Word) (h : s.recs.Keyed) : NextKeyed (sAlu w s f) :=
  lIssue_keyed h fun _ _ => trivial

theorem vAlu_keyed {s : State} (w : VSlot) (f : Word → Word → Word → Word) (h : s.recs.Keyed) : NextKeyed (vAlu w s f) :=
  lIssue_keyed h fun _ _ => trivial

theorem endBand_keyed {e : LEnv} (after : LineSt) (h : e.s.recs.Keyed) : (e.endBand after).Keyed := by
  simp [LEnv.endBand, h]

theorem execSyncm_keyed {s : State} (h : s.recs.Keyed) : NextKeyed (execSyncm s) :=
  lIssue_keyed h fun _ _ => by simp

theorem execLbld_keyed {s : State} (w : MSlot) (h : s.recs.Keyed) : NextKeyed (execLbld w s) :=
  lIssue_keyed h fun _ _ => by simp

theorem execLbst_keyed {s : State} (w : MSlot) (h : s.recs.Keyed) : NextKeyed (execLbst w s) :=
  lIssue_keyed h fun _ _ => by simp

@[simp] theorem keyed_lRead {s : State} (e : LEnv) (va n : Nat) (h : s.recs.Keyed) : (e.read s va n).1.recs.Keyed := by
  unfold LEnv.read
  simp only
  split
  · exact h
  · split
    · exact h
    · simp [h]

@[simp] theorem keyed_lReads {s : State} (e : LEnv) (n : Nat) (as : List Nat) (h : s.recs.Keyed) :
    (e.reads s n as).1.recs.Keyed := by
  induction as generalizing s with
  | nil => exact h
  | cons a as ih =>
    unfold LEnv.reads
    simp only
    split
    · exact keyed_lRead _ _ _ h
    · exact ih (keyed_lRead _ _ _ h)

@[simp] theorem keyed_texels {s : State} (e : LEnv) (k : Nat) (ps : List (Nat × Nat)) (h : s.recs.Keyed) :
    (e.texels s k ps).1.recs.Keyed := by
  unfold LEnv.texels
  simp only
  split
  · exact h
  · exact keyed_lReads _ _ _ h

@[simp] theorem keyed_lLanes {e : LEnv} (k : Nat) (pos : Nat → List (Nat × Nat)) (h : e.s.recs.Keyed) :
    (e.lanes k pos).1.recs.Keyed := by
  refine keyed_foldl_fst (fun r l hr => ?_) _ h
  split
  · exact hr
  · exact keyed_texels _ _ _ hr

theorem execGld_keyed {s : State} (w : MSlot) (h : s.recs.Keyed) : NextKeyed (execGld w s) := by
  refine lIssue_keyed h fun e he => ?_
  simp only
  split
  · trivial
  · split
    · trivial
    · simp [he]

theorem execWsamp_keyed {s : State} (w : MSlot) (h : s.recs.Keyed) : NextKeyed (execWsamp w s) := by
  refine lIssue_keyed h fun e he => ?_
  simp only
  split
  · trivial
  · simp [he]

theorem execDsamp_keyed {s : State} (w : MSlot) (h : s.recs.Keyed) : NextKeyed (execDsamp w s) := by
  refine lIssue_keyed h fun e he => ?_
  simp only
  split
  · trivial
  · simp [he]

theorem handTile_keyed {e : LEnv} (kind : Nat) (w : MSlot) (h : e.s.recs.Keyed) : (e.handTile kind w).Keyed := by
  simp [LEnv.handTile, LEnv.hand, h]

theorem execMxrun_keyed {s : State} (w : MSlot) (h : s.recs.Keyed) : NextKeyed (execMxrun w s) :=
  lIssue_keyed h fun e he => by simp [LEnv.hand, he]

theorem execEmit_keyed {s : State} (w : MSlot) (h : s.recs.Keyed) : NextKeyed (execEmit w s) :=
  lIssue_keyed h fun e he => by simp [he]

@[simp] theorem settleMx_recs (s : State) (n : Nat) : (s.settleMx n).recs = s.recs := rfl

theorem execMatrixOperationComplete_keyed {s : State} (h : s.recs.Keyed) : NextKeyed (execMatrixOperationComplete s) := by
  unfold execMatrixOperationComplete
  split <;> exact h

@[simp] theorem stopLine_recs (s : State) (n : Nat) : (s.stopLine n).recs = s.recs := rfl
@[simp] theorem bandFaultOf_recs (s : State) (n cause : Nat) : (s.bandFaultOf n cause).recs = s.recs := rfl

/-! ### Heads -/

@[simp] theorem keyed_headTake {s : State} (c : Command) (n : Nat) (h : s.recs.Keyed) : (s.headTake c n).1.recs.Keyed := by
  unfold State.headTake
  simp only
  split_ifs
  · exact h
  · exact h
  · exact h
  · exact h
  · split
    · simp [h]
    · split_ifs
      · simp [h]
      · simp [h]
      · simp [h]
      · split
        · simp [h]
        · split_ifs
          · simp [h]
          · split <;> simp [h]

theorem sorted_take {α : Type} (m : SMap α) (n : Nat) (h : SMap.sorted m = true) : SMap.sorted (m.take n) = true := by
  induction m generalizing n with
  | nil => rw [List.take_nil]; exact h
  | cons p t ih =>
    obtain ⟨k, v⟩ := p
    obtain ⟨ha, ht⟩ := (sorted_cons k v t).1 h
    cases n with
    | zero => rfl
    | succ n => exact (sorted_cons k v _).2 ⟨fun x hx => ha x (List.mem_of_mem_take hx), ih n ht⟩

@[simp] theorem keyed_resizeFrame {s : State} (mb : Nat) (h : s.recs.Keyed) : (s.resizeFrame mb).recs.Keyed := by
  have hs : (s.frame.foldl (fun s p => if p.2.dirty = 0 then s else s.homeWrite p.1 p.2.dirty p.2.data) s).recs.Keyed :=
    keyed_foldl (fun s p hs => by simp [hs]) _ h
  have hf : SMap.sorted (SMap.mapv (fun _ l => { l with dirty := 0 }) s.frame) = true := by
    rw [sorted_mapv]
    exact h.frame
  unfold State.resizeFrame
  simp only
  split
  · exact h
  · exact { hs with frame := sorted_take _ _ hf }

@[simp] theorem releaseLines_recs (s : State) (h : Nat) : (s.releaseLines h).recs = s.recs := by
  simp [State.releaseLines]

@[simp] theorem zeroLines_recs (s : State) (m : BitVec 32) : (s.zeroLines m).recs = s.recs := by
  unfold State.zeroLines
  refine foldl_recs (fun s n => ?_) _ _
  rfl

@[simp] theorem keyed_readRs {s : State} (n : Nat) (h : s.recs.Keyed) : (s.readRs n).1.recs.Keyed := by
  unfold State.readRs
  simp only
  split
  · simp [h]
  · split <;> simp [h]

@[simp] theorem keyed_latchRs {s : State} (n : Nat) (h : s.recs.Keyed) : (s.latchRs n).recs.Keyed := by
  unfold State.latchRs
  simp only
  split <;> simp [h]

@[simp] theorem keyed_latchPose {s : State} (n f b : Nat) (h : s.recs.Keyed) : (s.latchPose n f b).recs.Keyed := by
  simp [State.latchPose, h]

@[simp] theorem changeDone_recs (s : State) (c : HeadChange) : (s.changeDone c).recs = s.recs := cmdUpdate_recs _ _ _

@[simp] theorem keyed_applyHead {s : State} (n : Nat) (c : HeadChange) (line : Int) (h : s.recs.Keyed) :
    (s.applyHead n c line).recs.Keyed := by
  unfold State.applyHead
  simp only [changeDone_recs, setHead_recs]
  exact keyed_foldl (fun s p hs => by simp [hs]) _ (by simp [h])

@[simp] theorem keyed_disableHead {s : State} (n : Nat) (c : HeadChange) (h : s.recs.Keyed) :
    (s.disableHead n c).recs.Keyed := by
  simp [State.disableHead, h]

theorem headcfg_keyed {s : State} {f : Nat → HeadChange → State} (h : s.recs.Keyed) (hf : ∀ n c, (f n c).recs.Keyed) :
    NextKeyed (s.headcfg f) := by
  unfold State.headcfg
  split
  · exact h
  · exact hf _ _

@[simp] theorem nextLine_recs (s : State) (h : Nat) : (s.nextLine h).recs = s.recs := rfl

@[simp] theorem blackLine_recs (s : State) (h : Nat) : (s.blackLine h).recs = s.recs := by
  simp [State.blackLine]

@[simp] theorem tickLine_recs (s : State) (h n : Nat) : (s.tickLine h n).recs = s.recs := by
  induction n generalizing s with
  | zero => rfl
  | succ n ih => simp [State.tickLine, ih]

@[simp] theorem passPoint_recs (s : State) (h : Nat) : (s.passPoint h).recs = s.recs := rfl

theorem execHeadcfgEnable_keyed {s : State} (h : s.recs.Keyed) : NextKeyed (execHeadcfgEnable s) :=
  headcfg_keyed h fun n c => by simp [h]

theorem execHeadcfgEffect_keyed {s : State} (h : s.recs.Keyed) : NextKeyed (execHeadcfgEffect s) := by
  unfold execHeadcfgEffect
  simp only
  split
  · exact keyed_foldl (fun _ _ => keyed_applyHead _ _ _) _ h
  · exact h

theorem execRenderSetLatch_keyed {s : State} (h : s.recs.Keyed) : NextKeyed (execRenderSetLatch s) := by
  unfold execRenderSetLatch
  simp only
  split
  · exact keyed_latchRs _ h
  · exact h

theorem execPoseLatch_keyed {s : State} (h : s.recs.Keyed) : NextKeyed (execPoseLatch s) := by
  unfold execPoseLatch
  simp only
  split
  · exact keyed_latchPose _ _ _ h
  · exact h

theorem execBandDispatch_keyed {s : State} (h : s.recs.Keyed) : NextKeyed (execBandDispatch s) := by
  unfold execBandDispatch
  simp only
  split
  · exact h
  · split
    · simp [h]
    · exact h

@[simp] theorem keyed_presented {s : State} (n f x y : Nat) (h : s.recs.Keyed) : (s.presented n f x y).1.recs.Keyed := by
  unfold State.presented
  simp only
  split
  · exact keyed_devRead _ _ _ h
  · exact h

@[simp] theorem keyed_virgaPixel {s : State} (n f : Nat) (m : List (List Word)) (x y : Nat) (h : s.recs.Keyed) :
    (s.virgaPixel n f m x y).1.recs.Keyed := by
  unfold State.virgaPixel
  simp only
  split
  · exact h
  · split
    · exact h
    · refine keyed_foldl_fst (fun r p hr => ?_) _ h
      exact keyed_presented _ _ _ _ hr

@[simp] theorem keyed_virga {s : State} (n f b : Nat) (qd : List Word) (h : s.recs.Keyed) :
    (s.virga n f b qd).1.recs.Keyed := by
  unfold State.virga
  simp only
  split
  · exact h
  · refine keyed_foldl_fst (fun r p hr => ?_) _ h
    exact keyed_virgaPixel _ _ _ _ _ hr

theorem execBandDeadline_keyed {s : State} (h : s.recs.Keyed) : NextKeyed (execBandDeadline s) := by
  unfold execBandDeadline
  simp only
  split
  · split
    · exact h
    · split
      · exact h
      · simp only [nextKeyed_next, setHead_recs]
        split
        · exact h
        · exact keyed_virga _ _ _ _ h
  · exact h

@[simp] theorem keyed_headWrite {s : State} (asid va n v : Nat) (h : s.recs.Keyed) : (s.headWrite asid va n v).recs.Keyed := by
  unfold State.headWrite
  split
  · exact keyed_devWrite _ _ _ h
  · exact h

@[simp] theorem keyed_present {s : State} (n f b : Nat) (px : List (Nat × BitVec 48)) (h : s.recs.Keyed) :
    (s.present n f b px).recs.Keyed :=
  keyed_foldl (fun _ _ => keyed_headWrite _ _ _ _) _ h

@[simp] theorem scan_recs (s : State) (h b : Nat) (px : List (Nat × BitVec 48)) : (s.scan h b px).recs = s.recs := by
  simp [State.scan]

@[simp] theorem stopBand_recs (s : State) (h f b : Nat) : (s.stopBand h f b).recs = s.recs := by
  simp [State.stopBand]

theorem execBandScanOut_keyed {s : State} (h : s.recs.Keyed) : NextKeyed (execBandScanOut s) := by
  unfold execBandScanOut
  simp only
  split
  · split
    · simpa using h
    · simp (disch := simp [h])
  · exact h

end Sys2Proof.Laws

end


section
/-!
SUPPORT. The records keep their keys, part 7: the Trit Array and the copy engine.
-/

namespace Sys2Proof.Laws

open Sys2Proof.Machine

/-! ### The Trit Array -/

theorem trapAmong_keyed {e : AEnv} (c : Cause) (x : Nat) (xs : List Nat) (h : e.Keyed) : (e.trapAmong c x xs).Keyed := keyed_aBase h

theorem tile_keyed {e : AEnv} {r : ARes} (h : e.tile = .error r) : r.Keyed := by
  unfold AEnv.tile at h
  simp only at h
  split at h
  · cases h; trivial
  · split at h
    · cases h; trivial
    · split at h
      · cases h; trivial
      · split at h <;> cases h
        trivial

theorem enqueue_keyed {e : AEnv} (f : Word) (zero : Bool) (blk : BitVec 512) (h : e.Keyed) : (e.enqueue f zero blk).Keyed :=
  keyed_setGroup (by simpa using h.state) h.group

theorem runChecks_keyed {e : AEnv} (f : Word) (h : e.Keyed) : (e.runChecks f).Keyed := by
  unfold AEnv.runChecks
  simp only
  split
  · trivial
  · split
    · trivial
    · split
      · trivial
      · split
        · trivial
        · split
          · trivial
          · split
            · trivial
            · split
              · exact trapAmong_keyed _ _ _ h
              · split
                · exact enqueue_keyed _ _ _ h
                · exact trapAmong_keyed _ _ _ h

theorem aFmtq_keyed {e : AEnv} (h : e.Keyed) : (aFmtq e).Keyed := by
  unfold aFmtq
  split
  · trivial
  · exact keyed_setGroup h.state h.group

theorem aTaRun_keyed {e : AEnv} (h : e.Keyed) : (aTaRun e).Keyed := by
  unfold aTaRun
  split
  · exact tile_keyed ‹_›
  · exact runChecks_keyed _ h

theorem execTaZero_keyed {s : State} (w : AWord) (h : s.recs.Keyed) : NextKeyed (execTaZero w s) := by
  refine aIssue_keyed h fun e he => ?_
  split
  · exact tile_keyed ‹_›
  · split
    · trivial
    · exact enqueue_keyed _ _ _ he

theorem execTaSwap_keyed {s : State} (w : AWord) (h : s.recs.Keyed) : NextKeyed (execTaSwap w s) := by
  refine aIssue_keyed h fun e he => ?_
  simp only
  split_ifs
  · trivial
  · trivial
  · trivial
  · exact keyed_setGroup (by simpa using he.state) he.group
  · trivial
  · simp [he]

theorem execCrownTake_keyed {s : State} (w : AWord) (h : s.recs.Keyed) : NextKeyed (execCrownTake w s) := by
  refine aIssue_keyed h fun e he => ?_
  split
  · trivial
  · simp [he]

theorem execCrownPass_keyed {s : State} (w : AWord) (h : s.recs.Keyed) : NextKeyed (execCrownPass w s) := by
  refine aIssue_keyed h fun e he => ?_
  split
  · trivial
  · simp [he]

theorem taStart_keyed {s : State} (n : Nat) (soft : Option (Nat × Nat)) (h : s.recs.Keyed) : NextKeyed (s.taStart n soft) := by
  unfold State.taStart
  simp only
  split
  · exact h
  · split
    · exact h
    · split
      · exact h
      · split <;> exact h

theorem execTaRunFault_keyed {s : State} (h : s.recs.Keyed) : NextKeyed (execTaRunFault s) := by
  unfold execTaRunFault
  simp only
  split
  · exact h
  · split <;> exact h

theorem execTaCommandComplete_keyed {s : State} (h : s.recs.Keyed) : NextKeyed (execTaCommandComplete s) := by
  unfold execTaCommandComplete
  simp only
  split
  · exact h
  · split
    · exact h
    · split
      · exact h
      · rename_i g hg
        exact keyed_setGroup_same (by simpa using h) hg rfl

/-! ### The copy engine: issue and accesses -/

@[simp] theorem setChan_recs (s : State) (c n : Nat) (l : List CeCmd) : (s.setChan c n l).recs = s.recs := rfl

theorem ceEnter_keyed {e : AEnv} (kind : Nat) (d : BitVec 512) (h : e.Keyed) : (e.ceEnter kind d).Keyed := by
  unfold AEnv.ceEnter
  simp only [aKeyed_ite]
  split_ifs
  · trivial
  · exact keyed_setGroup (by simpa using h.state) h.group

theorem ceIssue_keyed {e : AEnv} (kind : Nat) (h : e.Keyed) : (ceIssue kind e).Keyed := by
  unfold ceIssue
  simp only [aKeyed_ite, aKeyed_wait, aKeyed_trap]
  split
  · trivial
  · split
    · trivial
    · split
      · trivial
      · split
        · trivial
        · split
          · exact trapAmong_keyed _ _ _ h
          · split
            · trivial
            · exact keyed_aBase h
            · split
              · exact trapAmong_keyed _ _ _ h
              · exact ceEnter_keyed _ _ h

theorem cpywIssue_keyed {e : AEnv} (h : e.Keyed) : (cpywIssue e).Keyed := by
  simp [cpywIssue, ceEnter_keyed, h]

theorem keyed_ceThen {α β : Type} {r : State × Except CeStop α} {f : State → α → State × Except CeStop β}
    (hr : r.1.recs.Keyed) (hf : ∀ s a, s.recs.Keyed → (f s a).1.recs.Keyed) : (ceThen r f).1.recs.Keyed := by
  unfold ceThen
  split
  · exact hr
  · exact hf _ _ hr

theorem keyed_ceFold {α β : Type} {f : State → β → α → State × Except CeStop β} {s : State} {b : β} {l : List α}
    (hf : ∀ s b x, s.recs.Keyed → (f s b x).1.recs.Keyed) (h : s.recs.Keyed) : (ceFold f s b l).1.recs.Keyed := by
  induction l generalizing s b with
  | nil => exact h
  | cons x l ih => exact keyed_ceThen (hf _ _ _ h) fun s b hs => ih hs

@[simp] theorem ceAt_recs {α : Type} (i : Nat) (r : State × Except CeStop α) : (ceAt i r).1.recs = r.1.recs := rfl

@[simp] theorem ceOld_recs (s : State) (old : SMap Byte) (a n v : Nat) : (s.ceOld old a n v).1.recs = s.recs := by
  unfold State.ceOld
  simp only
  split <;> rfl

@[simp] theorem keyed_ceRead {s : State} (x : CeAgent) (a n : Nat) (h : s.recs.Keyed) : (s.ceRead x a n).1.recs.Keyed := by
  unfold State.ceRead
  split
  · exact h
  · split
    · split
      · exact h
      · simpa using h
    · split
      · exact h
      · simp only
        split
        · simpa using h
        · split <;> simp [h]

@[simp] theorem keyed_ceWrite {s : State} (x : CeAgent) (a n v keep : Nat) (h : s.recs.Keyed) :
    (s.ceWrite x a n v keep).1.recs.Keyed := by
  unfold State.ceWrite
  simp only
  split
  · exact h
  · split
    · split
      · exact h
      · exact keyed_spPuts _ _ _ h
    · split
      · exact h
      · split
        · simpa using h
        · split
          · simpa using h
          · refine keyed_wroteOne _ _ _ (keyed_gStore _ _ _ _ _ _ ?_)
            split <;> simp [h]

@[simp] theorem keyed_ceBytes {s : State} (x : CeAgent) (a n : Nat) (h : s.recs.Keyed) : (s.ceBytes x a n).1.recs.Keyed :=
  keyed_ceThen (keyed_ceFold (fun _ _ _ hs => keyed_ceThen (keyed_ceRead _ _ _ hs) fun _ _ h => h) h) fun _ _ hs => by simpa using hs

@[simp] theorem ceMay_recs (s : State) (x : CeAgent) (a : Nat) : (s.ceMay x a).1.recs = s.recs := by
  unfold State.ceMay
  split
  · rfl
  · split
    · rfl
    · split
      · rfl
      · exact translate_recs _ _ _ _ _

@[simp] theorem keyed_ceBlock {s : State} (x : CeAgent) (a v i : Nat) (h : s.recs.Keyed) : (s.ceBlock x a v i).1.recs.Keyed :=
  keyed_ceThen (by simpa using h) fun _ _ hs => keyed_ceThen (by simpa using hs) fun _ _ h => h

@[simp] theorem keyed_ceElem {s : State} (x : CeAgent) (fmt row off c : Nat) (h : s.recs.Keyed) :
    (s.ceElem x fmt row off c).1.recs.Keyed := by
  unfold State.ceElem
  split
  · exact keyed_ceThen (keyed_ceRead _ _ _ h) fun _ _ h => h
  · exact keyed_ceRead _ _ _ h

@[simp] theorem keyed_ceValue {s : State} (x : CeAgent) (d : BitVec 512) (r c : Nat) (h : s.recs.Keyed) :
    (s.ceValue x d r c).1.recs.Keyed := by
  unfold State.ceValue
  simp only
  split
  · exact keyed_ceThen (keyed_ceBytes _ _ _ h) fun _ _ h => h
  · exact keyed_ceThen (keyed_ceElem _ _ _ _ _ h) fun _ _ h => h

/-! ### The copy engine: the units of a command -/

@[simp] theorem keyed_transUnit {s : State} (x : CeCmd) (i : Nat) (h : s.recs.Keyed) : (transUnit x s i).1.recs.Keyed := by
  refine keyed_ceThen (keyed_ceFold (fun s v j hs => ?_) h) fun _ _ hs => hs
  split
  · exact hs
  · refine keyed_ceThen (keyed_ceRead _ _ _ hs) fun s b hs => ?_
    split <;> exact hs

@[simp] theorem keyed_ceValues {s : State} (x : CeCmd) (r c n : Nat) (h : s.recs.Keyed) : (s.ceValues x r c n).1.recs.Keyed :=
  keyed_ceFold (fun _ _ _ hs => keyed_ceThen (keyed_ceValue _ _ _ _ hs) fun _ _ h => h) h

@[simp] theorem keyed_qrowUnit {s : State} (x : CeCmd) (r : Nat) (h : s.recs.Keyed) : (qrowUnit x s r).1.recs.Keyed :=
  keyed_ceThen (keyed_ceValues _ _ _ _ h) fun _ _ hs => hs

@[simp] theorem keyed_blockUnit {s : State} (x : CeCmd) (i : Nat) (h : s.recs.Keyed) : (blockUnit x s i).1.recs.Keyed := by
  unfold blockUnit
  simp only [ceAt_recs]
  split
  · exact keyed_ceThen (keyed_ceBytes _ _ _ h) fun _ _ hs => keyed_ceBlock _ _ _ _ hs
  · exact keyed_ceThen (keyed_ceValues _ _ _ _ h) fun _ _ hs => keyed_ceBlock _ _ _ _ hs

@[simp] theorem keyed_elemUnit {s : State} (x : CeCmd) (i : Nat) (h : s.recs.Keyed) : (elemUnit x s i).1.recs.Keyed := by
  unfold elemUnit
  simp only [ceAt_recs]
  split
  · exact keyed_ceThen (keyed_ceElem _ _ _ _ _ h) fun _ _ hs => hs
  · exact keyed_ceThen (keyed_ceValue _ _ _ _ h) fun _ _ hs => hs

@[simp] theorem keyed_cpyUnit {s : State} (x : CeCmd) (i : Nat) (h : s.recs.Keyed) : (cpyUnit x s i).1.recs.Keyed := by
  unfold cpyUnit
  split_ifs <;> simp [h]

@[simp] theorem keyed_lvLine {s : State} (x : CeCmd) (j n : Nat) (h : s.recs.Keyed) : (lvLine x s j n).1.recs.Keyed := by
  refine keyed_ceThen (keyed_ceRead _ _ _ h) fun s v hs => ?_
  split <;> exact hs

@[simp] theorem keyed_sealPage {s : State} (x : CeCmd) (n pg : Nat) (h : s.recs.Keyed) : (sealPage x s n pg).1.recs.Keyed := by
  refine keyed_ceThen (keyed_ceFold (fun s l i hs => ?_) h) fun s ks hs => keyed_ceThen (keyed_ceFold (fun s l i hs => ?_) hs) fun _ _ h => h
  all_goals exact keyed_ceThen (keyed_ceRead _ _ _ hs) fun _ _ h => h

@[simp] theorem keyed_kvKeep {s : State} (x : CeCmd) (h : s.recs.Keyed) : (kvKeep x s).1.recs.Keyed := by
  unfold kvKeep
  split
  · exact h
  · refine keyed_foldl_fst (fun r b hr => ?_) _ h
    exact keyed_ceRead _ _ _ hr

@[simp] theorem keyed_kvCount {s : State} (x : CeCmd) (h : s.recs.Keyed) : (kvCount x s).1.recs.Keyed := by
  unfold kvCount
  simp only
  split <;> simp [h]

@[simp] theorem keyed_kvSeal {s : State} (x : CeCmd) (n : Nat) (h : s.recs.Keyed) : (kvSeal x s n).1.recs.Keyed := by
  unfold kvSeal
  split
  · exact h
  · refine keyed_ceThen (keyed_ceRead _ _ _ h) fun s pg hs => ?_
    split
    · exact hs
    · exact keyed_sealPage _ _ _ hs

@[simp] theorem keyed_kvVectors {s : State} (x : CeCmd) (n : Nat) (h : s.recs.Keyed) : (kvVectors x s n).1.recs.Keyed := by
  unfold kvVectors
  simp only
  split
  · exact h
  · refine keyed_ceThen (keyed_ceRead _ _ _ h) fun s pg hs => ?_
    split
    · exact hs
    · refine keyed_ceThen (keyed_ceFold (fun s l i hs => ?_) hs) fun s ks hs => keyed_ceThen (keyed_ceFold (fun s l i hs => ?_) hs) fun _ _ h => h
      all_goals exact keyed_ceThen (keyed_ceRead _ _ _ hs) fun _ _ h => h

@[simp] theorem keyed_kvEnd {s : State} (x : CeCmd) (n : Nat) (h : s.recs.Keyed) : (kvEnd x s n).1.recs.Keyed :=
  keyed_ceWrite _ _ _ _ _ h

/-! ### The copy engine: the steps of a command -/

theorem keyed_planned {s : State} {plan : State → CePlan} (x : CeCmd) (g : Group) (h : s.recs.Keyed)
    (hp : (plan s).1.recs.Keyed) : (x.planned s g plan).1.recs.Keyed := by
  unfold CeCmd.planned
  split
  · exact hp
  · exact h

@[simp] theorem keyed_drain {s : State} (x : CeCmd) (l : List CePut) (h : s.recs.Keyed) : (x.drain s l).1.recs.Keyed := by
  induction l generalizing s with
  | nil => exact h
  | cons p ps ih =>
    unfold CeCmd.drain
    simp only
    split
    · exact ih (keyed_ceWrite _ _ _ _ _ h)
    · exact keyed_ceWrite _ _ _ _ _ h

theorem keyed_unit {s : State} {plan : State → CePlan} (x : CeCmd) (g : Group) (h : s.recs.Keyed)
    (hp : (plan s).1.recs.Keyed) : (x.unit s g plan).1.recs.Keyed := by
  have hr := keyed_planned x g h hp
  unfold CeCmd.unit
  simp only
  split
  · exact hr
  · exact keyed_drain _ _ hr

@[simp] theorem keyed_ceUnits {s : State} (g : Group) (back : Bool) (fuel : Nat) (x : CeCmd) (i : Nat) (h : s.recs.Keyed) :
    (ceUnits g back fuel x s i).1.recs.Keyed := by
  induction fuel generalizing x s i with
  | zero => exact h
  | succ f ih =>
    unfold ceUnits
    simp only
    split
    · exact h
    · have hu := fun k => keyed_unit (plan := fun s => cpyUnit x s k) x g h (keyed_cpyUnit x k h)
      split
      · exact ih _ _ (hu _)
      · exact hu _

@[simp] theorem keyed_cpyTurn {s : State} (x : CeCmd) (g : Group) (fuel : Nat) (h : s.recs.Keyed) :
    (cpyTurn x s g fuel).1.recs.Keyed := by
  unfold cpyTurn
  simp only
  split
  · split
    · exact keyed_ceUnits g _ _ x _ h
    · exact keyed_ceUnits g _ _ x _ h
  · simp [h]

@[simp] theorem keyed_lvUnits {s : State} (g : Group) (fuel : Nat) (x : CeCmd) (i : Nat) (h : s.recs.Keyed) :
    (lvUnits g fuel x s i).1.recs.Keyed := by
  induction fuel generalizing x s i with
  | zero => exact h
  | succ f ih =>
    unfold lvUnits
    simp only
    split
    · split
      · exact h
      · exact keyed_ceWrite _ _ _ _ _ h
    · have hp := keyed_planned (plan := fun s => lvLine x s (i % 2 ^ 20) (i / 2 ^ 20)) x g h (keyed_lvLine x _ _ h)
      split
      · exact hp
      · split
        · exact ih _ _ (keyed_drain _ _ hp)
        · exact keyed_drain _ _ hp

@[simp] theorem keyed_kvUnits {s : State} (g : Group) (fuel : Nat) (x : CeCmd) (i : Nat) (h : s.recs.Keyed) :
    (kvUnits g fuel x s i).1.recs.Keyed := by
  induction fuel generalizing x s i with
  | zero => exact h
  | succ f ih =>
    unfold kvUnits
    simp only
    split
    · split
      · exact ih _ _ (keyed_kvCount _ (keyed_kvKeep _ h))
      · exact keyed_kvCount _ (keyed_kvKeep _ h)
    · have hu := keyed_unit (plan := fun s => kvSeal x s (i / 4)) x g h (keyed_kvSeal x _ h)
      split
      · split
        · exact hu
        · exact ih _ _ hu
      · exact hu
    · have hu := keyed_unit (plan := fun s => kvVectors x s (i / 4)) x g h (keyed_kvVectors x _ h)
      split
      · split
        · exact hu
        · exact ih _ _ hu
      · exact hu
    · have hu := keyed_kvEnd x (i / 4) h
      split
      · split
        · exact hu
        · exact ih _ _ hu
      · exact hu

@[simp] theorem keyed_cpywUnit {s : State} (x : CeCmd) (g : Group) (h : s.recs.Keyed) : (cpywUnit x s g).1.recs.Keyed := by
  have hr : ((s.release g.tenant g.core x.scope).ceWrite (kvMem x) (dSrc x.desc) 8 (dDst x.desc) 0).1.recs.Keyed :=
    keyed_ceWrite _ _ _ _ _ (keyed_release _ _ _ h)
  unfold cpywUnit
  simp only
  split
  · split_ifs
    · exact hr
    · exact keyed_sideEffect _ hr
  · exact hr

@[simp] theorem keyed_ceRun {s : State} (x : CeCmd) (g : Group) (fuel : Nat) (h : s.recs.Keyed) : (ceRun x s g fuel).1.recs.Keyed := by
  unfold ceRun
  split <;> simp [h]

theorem execCeCommandStart_keyed {s : State} (h : s.recs.Keyed) : NextKeyed (execCeCommandStart s) := by
  unfold execCeCommandStart
  simp only
  split
  · exact h
  · split
    · exact h
    · split
      · exact h
      · split <;> simp [h]

/-- A group that a command has left behind gets its token where it is still there. -/
theorem keyed_token {s : State} {uid : Nat} {f : Group → Group} (h : s.recs.Keyed) (hf : ∀ g, (f g).smem = g.smem) :
    NextKeyed (match s.group? uid with | none => .next s | some g => .next (s.setGroup (f g))) := by
  split
  · exact h
  · rename_i g hg
    exact keyed_setGroup_same h hg (hf g)

theorem execCeCommandComplete_keyed {s : State} (h : s.recs.Keyed) : NextKeyed (execCeCommandComplete s) := by
  unfold execCeCommandComplete
  simp only
  split
  · exact h
  · rename_i x rest _
    split
    · exact h
    · rename_i g _
      have hr : ((s.release g.tenant s.ctl.arg.core x.scope).setChan s.ctl.arg.core s.ctl.arg.ch rest).recs.Keyed :=
        keyed_release _ _ _ h
      have hsem (t : State) (ht : t.recs.Keyed) (info : Option Nat) : (match x.sem, info with
          | some i, none => (t.semSet s.ctl.arg.core i (semAdd (t.sem s.ctl.arg.core i) 1)).sideEffect x.uid
          | _, _ => t).recs.Keyed := by
        split
        · exact keyed_sideEffect _ (keyed_semSet _ _ _ ht)
        · exact ht
      split
      · exact h
      · split
        · exact hsem _ hr none
        · exact keyed_token (hsem _ hr none) fun _ => rfl
      · split
        · exact hsem _ hr (some _)
        · exact keyed_token (hsem _ hr (some _)) fun _ => rfl

end Sys2Proof.Laws

end

section
/-!
SUPPORT. The records keep their keys, part 8: the ray engine.
-/

namespace Sys2Proof.Laws

open Sys2Proof.Machine

/-! ### Ray queries: issue -/

theorem tTrapAmong_keyed {e : TEnv} (c : Cause) (x : Nat) (xs : List Nat) (h : e.Keyed) :
    (e.trapAmong c x xs).Keyed := by
  unfold TEnv.trapAmong
  split
  · trivial
  · exact h.state

theorem rayTrap_keyed {e : TEnv} (b : RayBad) (h : e.Keyed) : (e.rayTrap b).Keyed := by
  unfold TEnv.rayTrap
  split
  · exact h.state
  · exact tTrapAmong_keyed _ _ _ h

theorem rqBody_keyed {e : TEnv} (kind : Nat) (h : e.Keyed) : (rqBody kind e).Keyed := by
  unfold rqBody
  simp only
  split
  · trivial
  · split
    · trivial
    · split
      · exact rayTrap_keyed _ h
      · exact keyed_tBase h

theorem rpopBody_keyed {e : TEnv} (h : e.Keyed) : (rpopBody e).Keyed := by
  simp [rpopBody, h]

@[simp] theorem keyed_updQuery {s : State} (q : RayQuery) (f : QueryRef → QueryRef) (h : s.recs.Keyed) :
    (s.updQuery q f).recs.Keyed := by
  unfold State.updQuery
  split
  · exact h
  · rename_i g hg
    split
    · exact h
    · exact keyed_setGroup_same h hg rfl

theorem execRayQueryTake_keyed {s : State} (h : s.recs.Keyed) : NextKeyed (execRayQueryTake s) := by
  unfold execRayQueryTake
  simp only
  split
  · exact h
  · split
    · exact h
    · exact keyed_updQuery _ _ h

/-! ### Ray queries: traversal -/

@[simp] theorem keyed_rayUnit {s : State} (g : Group) (buf : List Byte) (a n : Nat) (h : s.recs.Keyed) :
    (s.rayUnit g buf a n).1.recs.Keyed := by
  unfold State.rayUnit
  simp only
  split
  · exact h
  · split
    · exact h
    · split
      · simpa using h
      · split <;> simp [h]

@[simp] theorem classes_recs (s : State) (q : RayQuery) (d : BitVec 1024) (r : Rect) : (s.classes q d r).1.recs = s.recs := by
  refine foldl_fst_recs (fun a k => ?_) _ _
  split
  · rfl
  · split <;> rfl

@[simp] theorem keyed_openNode {s : State} (g : Group) (x : RayCtx) (node : Nat) (r : Rect) (h : s.recs.Keyed) :
    (s.openNode g x node r).1.recs.Keyed := by
  unfold State.openNode
  simp only
  split
  · simp [h]
  · simp [h]
  · split <;> simp [h]

@[simp] theorem keyed_leafTest {s : State} (g : Group) (x : RayCtx) (d : BitVec 1024) (slot : Nat) (r : Rect) (h : s.recs.Keyed) :
    (s.leafTest g x d slot r).1.recs.Keyed := by
  unfold State.leafTest
  simp only
  split <;> simp [h]

@[simp] theorem keyed_pushFrame {s : State} (x : RayCtx) (f : RayFrame) (h : s.recs.Keyed) : (s.pushFrame x f).1.recs.Keyed := by
  unfold State.pushFrame
  split
  · exact h
  · split
    · exact h
    · exact keyed_spPuts _ _ _ h

@[simp] theorem emitWords_recs (s : State) (q : RayQuery) (d : BitVec 1024) (node slot : Nat) (r : Rect) :
    (s.emitWords q d node slot r).1.recs = s.recs := by
  unfold State.emitWords
  split
  · rfl
  · refine foldl_fst_recs (fun a p => ?_) _ _
    simp only
    split <;> rfl

theorem keyed_onRead {α : Type} (x : RayCtx) {r : State × RayGot α} {f : State → α → State × RayCtx} (h : r.1.recs.Keyed)
    (hf : ∀ s v, s.recs.Keyed → (f s v).1.recs.Keyed) : (x.onRead r f).1.recs.Keyed := by
  unfold RayCtx.onRead
  split
  · exact h
  · exact h
  · exact hf _ _ h

@[simp] theorem keyed_callNode {s : State} (g : Group) (x up : RayCtx) (node : Nat) (r : Rect) (h : s.recs.Keyed) :
    (s.callNode g x up node r).1.recs.Keyed := by
  unfold State.callNode
  split
  · exact h
  · exact keyed_onRead x (keyed_openNode _ _ _ _ h) fun s f hs => keyed_pushFrame _ _ hs

@[simp] theorem keyed_callLeaf {s : State} (x : RayCtx) (f : RayFrame) (slot : Nat) (r : Rect) (h : s.recs.Keyed) :
    (s.callLeaf x f slot r).1.recs.Keyed := by
  unfold State.callLeaf
  split
  · exact h
  · exact keyed_pushFrame _ _ h

@[simp] theorem keyed_rayItem {s : State} (g : Group) (x : RayCtx) (f : RayFrame) (rest : List RayFrame) (h : s.recs.Keyed) :
    (s.rayItem g x f rest).1.recs.Keyed := by
  unfold State.rayItem
  simp only
  split
  · split
    · exact h
    · split
      · exact h
      · split <;> simp [h]
  · split <;> simp [h]
  · split <;> simp [h]
  · exact keyed_onRead x (keyed_leafTest _ _ _ _ _ h) fun s f hs => hs

@[simp] theorem keyed_rayReload {s : State} (g : Group) (x : RayCtx) (h : s.recs.Keyed) : (s.rayReload g x).1.recs.Keyed := by
  unfold State.rayReload
  split
  · simp only
    split <;> exact h
  · exact keyed_onRead x (keyed_openNode _ _ _ _ h) fun s f hs => hs

@[simp] theorem keyed_rayStep {s : State} (g : Group) (x : RayCtx) (h : s.recs.Keyed) : (s.rayStep g x).1.recs.Keyed := by
  unfold State.rayStep
  split
  · split
    · exact h
    · exact keyed_callNode _ _ _ _ _ h
  · split
    · split
      · exact h
      · exact keyed_rayReload _ _ h
    · exact keyed_rayItem _ _ _ _ h

@[simp] theorem resultPage_recs (s : State) (g : Group) (a : Nat) : (s.resultPage g a).1.recs = s.recs := by
  unfold State.resultPage
  split
  · rfl
  · exact translate_recs _ _ _ _ _

@[simp] theorem resultPages_recs (s : State) (g : Group) (l : List Nat) : (s.resultPages g l).1.recs = s.recs := by
  induction l generalizing s with
  | nil => rfl
  | cons a rest ih =>
    unfold State.resultPages
    simp only
    split <;> simp [ih]

@[simp] theorem keyed_putEntry {s : State} (g : Group) (x : RayCtx) (e : Nat × Option Page) (h : s.recs.Keyed) :
    (s.putEntry g x e).recs.Keyed := by
  unfold State.putEntry
  simp only
  split <;> simp [h]

@[simp] theorem keyed_rayResults {s : State} (g : Group) (x : RayCtx) (h : s.recs.Keyed) : (s.rayResults g x).1.recs.Keyed := by
  unfold State.rayResults
  simp only
  split
  · exact h
  · split
    · split
      · exact h
      · simpa using h
    · split
      · exact h
      · exact keyed_putEntry _ _ _ h

@[simp] theorem setRay_recs (s : State) (core n : Nat) (x : RayCtx) : (s.setRay core n x).recs = s.recs := rfl

@[simp] theorem keyed_rayTurn {s : State} (core n : Nat) (h : s.recs.Keyed) : (s.rayTurn core n).recs.Keyed := by
  unfold State.rayTurn
  split
  · exact h
  · split
    · exact h
    · split
      · exact h
      · simp only
        split <;> simp [h]

/-! ### Split records, spawned warps and completion -/

theorem execSplitRecordEmit_keyed {s : State} (h : s.recs.Keyed) : NextKeyed (execSplitRecordEmit s) := by
  unfold execSplitRecordEmit
  simp only
  split
  · exact h
  · split
    · exact h
    · simp [h]

theorem execSpawnWarpStart_keyed {s : State} (h : s.recs.Keyed) : NextKeyed (execSpawnWarpStart s) := by
  unfold execSpawnWarpStart
  simp only
  split
  · exact h
  · split
    · exact h
    · rename_i g hg
      split
      · exact h
      · split
        · exact h
        · exact keyed_setGroup (by simpa using h) (pad_of_group h hg :)

theorem execRayQueryComplete_keyed {s : State} (h : s.recs.Keyed) : NextKeyed (execRayQueryComplete s) := by
  unfold execRayQueryComplete
  simp only
  split
  · exact h
  · split
    · exact h
    · exact keyed_updQuery _ _ h

end Sys2Proof.Laws

end


section
/-!
SUPPORT. The records keep their keys, part 9: page tables, TLBs, caches and fault logs.
-/

namespace Sys2Proof.Laws

open Sys2Proof.Machine

/-! ### Page tables -/

@[simp] theorem putPte_recs (s : State) (a : Nat) (e : DWord) : (s.putPte a e).recs = s.recs := rfl

theorem newTable_recs {s : State} {lvl : Nat} {r : State × Nat} (hr : s.newTable lvl = some r) : r.1.recs = s.recs := by
  unfold State.newTable at hr
  simp only at hr
  split at hr
  · cases hr
    rfl
  · split at hr <;> cases hr
    rfl

/-- By recursion on the levels of the walk: each writes an entry, or makes a table and goes below. -/
@[simp] theorem putLeaf_recs (s : State) (va target : Nat) (pte : DWord) (ls : List (Nat × Nat × Nat)) (table lvl : Nat) :
    (s.putLeaf va target pte ls table lvl).recs = s.recs := by
  induction ls generalizing s table lvl with
  | nil => rfl
  | cons l ls ih =>
    unfold State.putLeaf
    simp only
    split
    · rfl
    · split
      · exact ih _ _ _
      · split
        · rfl
        · rename_i t ht
          rw [ih, putPte_recs, newTable_recs ht]

@[simp] theorem mapLeaf_recs (s : State) (asid va lvl : Nat) (pte : DWord) : (s.mapLeaf asid va lvl pte).recs = s.recs := by
  unfold State.mapLeaf
  simp only
  split
  · exact putLeaf_recs _ _ _ _ _ _ _
  · split
    · rfl
    · rename_i t ht
      exact (putLeaf_recs _ _ _ _ _ _ _).trans (newTable_recs ht)

@[simp] theorem editLeaf_recs (s : State) (va : Nat) (f : DWord → DWord) (ls : List (Nat × Nat × Nat)) (table : Nat) :
    (s.editLeaf va f ls table).recs = s.recs := by
  induction ls generalizing table with
  | nil => rfl
  | cons l ls ih =>
    unfold State.editLeaf
    simp only
    split
    · rfl
    · split
      · rfl
      · exact ih _

@[simp] theorem editPage_recs (s : State) (asid va : Nat) (f : DWord → DWord) : (s.editPage asid va f).recs = s.recs := by
  unfold State.editPage
  simp

@[simp] theorem mapEntry_recs (s : State) (i : Nat) : (s.mapEntry i).recs = s.recs := mapLeaf_recs _ _ _ _ _

theorem mapupd_keyed {s : State} (h : s.recs.Keyed) : NextKeyed s.mapupd := by
  unfold State.mapupd
  simp only
  split
  · simpa using h
  · exact cmdUnit_keyed h fun i => by simpa using h

@[simp] theorem decay_recs (s : State) (i : Nat) : (s.decay i).recs = s.recs := rfl

theorem execMapupdDecay_keyed {s : State} (h : s.recs.Keyed) : NextKeyed (execMapupdDecay s) := by
  unfold execMapupdDecay
  simp only
  split
  · exact cmdUnit_keyed h fun i => by simpa using h
  · simpa using h

/-! ### TLBINV and CODEINV -/

@[simp] theorem keyed_settleRay {s : State} (r : InvRange) (k n : Nat) (h : s.recs.Keyed) :
    (s.settleRay r k n).recs.Keyed := by
  unfold State.settleRay
  split
  · exact h
  · split
    · exact h
    · split
      · rw [setRay_recs]
        exact keyed_foldl (fun s e => keyed_putEntry _ _ _) _ h
      · exact h

@[simp] theorem keyed_settleResults {s : State} (r : InvRange) (h : s.recs.Keyed) : (s.settleResults r).recs.Keyed :=
  keyed_foldl (fun _ _ hs => keyed_foldl (fun _ _ => keyed_settleRay _ _ _) _ hs) _ h

@[simp] theorem keyed_tlbInv {s : State} (r : InvRange) (re : Bool) (h : s.recs.Keyed) : (s.tlbInv r re).recs.Keyed := by
  refine { h with groups := ?_ }
  cases re with
  | false => exact h.groups
  | true => exact groupsKeyed_mapv (f := fun _ g => g.retry r) h.groups fun _ _ => ⟨rfl, rfl⟩

theorem execTlbinv_keyed {s : State} (h : s.recs.Keyed) : NextKeyed (execTlbinv s) := by
  refine cmdResult_keyed h fun t ht => ?_
  split_ifs at ht
  cases ht
  exact keyed_tlbInv _ _ (keyed_settleResults _ h)

@[simp] theorem dropL1i_recs (s : State) (p : Nat → Nat → Bool) : (s.dropL1i p).recs = s.recs := rfl

@[simp] theorem dropCode_recs (s : State) (d ln : Nat) : (s.dropCode d ln).recs = s.recs := by
  unfold State.dropCode
  split <;> rfl

@[simp] theorem codeInvRange_recs (s : State) (asid va n : Nat) : (s.codeInvRange asid va n).recs = s.recs := by
  refine foldl_recs (fun s d => ?_) _ _
  simp

@[simp] theorem codeInvAsid_recs (s : State) (asid : Nat) : (s.codeInvAsid asid).recs = s.recs := by
  refine (foldl_recs (fun s d => ?_) _ _).trans (dropL1i_recs s _)
  simp

theorem execCodeinv_keyed {s : State} (h : s.recs.Keyed) : NextKeyed (execCodeinv s) := by
  refine cmdResult_keyed h fun t ht => ?_
  split_ifs at ht <;> obtain rfl := Except.ok.inj ht
  · rwa [codeInvRange_recs]
  · rwa [codeInvAsid_recs]

/-! ### Walks and evictions -/

theorem execPageWalk_keyed {s : State} (h : s.recs.Keyed) : NextKeyed (execPageWalk s) := by
  unfold execPageWalk
  simp only
  split
  · exact h
  · split <;> simpa using h

@[simp] theorem askWalk_recs (s : State) (t : Turn) (m : Miss) : (s.askWalk t m).recs = s.recs := by
  unfold State.askWalk
  simp only
  split
  · rfl
  · split <;> simp

@[simp] theorem keyed_evict {s : State} (c : CacheLine) (h : s.recs.Keyed) : (s.evict c).recs.Keyed := by
  cases c with
  | l1 k ln => simpa [State.evict] using keyed_flushL1Line _ k ln 2 h
  | dieCache d ln => simpa [State.evict] using h
  | frame ln =>
    refine keyed_setPartLine _ _ _ ?_
    split <;> exact h
  | ring ln =>
    refine keyed_setPartLine _ _ _ ?_
    split <;> exact h
  | l1i k asid ln => simpa [State.evict] using h
  | codeCache d ln => simpa [State.evict] using h
  | l1Tlb k n => simpa [State.evict] using h
  | dieTlb d n => simpa [State.evict] using h

@[simp] theorem pickKey_recs (s : State) (l : List Nat) (f : Nat → CacheLine) : (s.pickKey l f).1.recs = s.recs := rfl

theorem keyed_shrink {choose : State → State × Option CacheLine} (hc : ∀ s, (choose s).1.recs = s.recs) (n : Nat) {s : State}
    (h : s.recs.Keyed) : (State.shrink choose n s).recs.Keyed := by
  induction n generalizing s with
  | zero => exact h
  | succ n ih =>
    unfold State.shrink
    simp only
    split
    · rwa [hc]
    · exact ih (keyed_evict _ (by rwa [hc]))

theorem keyed_shrink_pickKey (l : State → List Nat) (f : Nat → CacheLine) (n : Nat) {s : State} (h : s.recs.Keyed) :
    (State.shrink (fun s => s.pickKey (l s) f) n s).recs.Keyed := keyed_shrink (fun s => pickKey_recs s (l s) f) n h

@[simp] theorem keyed_fitCore {s : State} (k : Nat) (h : s.recs.Keyed) : (s.fitCore k).recs.Keyed := by
  unfold State.fitCore
  exact keyed_shrink_pickKey _ _ _ (keyed_shrink_pickKey _ _ _ (keyed_shrink_pickKey _ _ _ h))

/-- The sizes are generalised first: no comparison of terms may count them down. -/
@[simp] theorem keyed_fitDie {s : State} (d : Nat) (h : s.recs.Keyed) : (s.fitDie d).recs.Keyed := by
  unfold State.fitDie
  generalize capCode = nc
  generalize capDie = nd
  generalize capDieTlb = nt
  exact keyed_shrink_pickKey _ _ _ (keyed_shrink_pickKey _ _ _ (keyed_shrink_pickKey _ _ _ h))

theorem keyed_fitParts {s : State} (kind : State → Nat → Nat) (h : s.recs.Keyed) :
    (let s := State.shrink (fun s => s.pickKey (s.frame.map Prod.fst) .frame) (s.frame.length - kind s 1) s
     State.shrink (fun s => s.pickKey (s.ringp.map Prod.fst) .ring) (s.ringp.length - kind s 2) s).recs.Keyed :=
  keyed_shrink_pickKey _ _ _ (keyed_shrink_pickKey _ _ _ h)

theorem keyed_fitCores {s : State} (l : List Nat) (h : s.recs.Keyed) : (l.foldl State.fitCore s).recs.Keyed :=
  keyed_foldl (fun _ x => keyed_fitCore x) l h

theorem keyed_fitDies {s : State} (l : List Nat) (h : s.recs.Keyed) : (l.foldl State.fitDie s).recs.Keyed :=
  keyed_foldl (fun _ x => keyed_fitDie x) l h

@[simp] theorem keyed_fitCaches {s : State} (h : s.recs.Keyed) : s.fitCaches.recs.Keyed := by
  rw [State.fitCaches]
  exact keyed_fitParts State.capPart (keyed_fitDies _ (keyed_fitCores _ h))

theorem execCacheEviction_keyed {s : State} (h : s.recs.Keyed) : NextKeyed (execCacheEviction s) := keyed_evict _ h

/-! ### Fault logs -/

@[simp] theorem keyed_physPut {s : State} (a : Nat) (b : Byte) (h : s.recs.Keyed) : (s.physPut a b).recs.Keyed := by
  unfold State.physPut
  simp only
  split
  · exact keyed_setPartLine _ _ _ h
  · split
    · exact keyed_setPartLine _ _ _ h
    · exact h

@[simp] theorem keyed_physPuts {s : State} (a : Nat) (bs : List Byte) (h : s.recs.Keyed) : (s.physPuts a bs).recs.Keyed :=
  keyed_foldl (fun _ _ => keyed_physPut _ _) _ h

@[simp] theorem keyed_faultDrain {s : State} (d : Nat) (f : FaultEntry) (h : s.recs.Keyed) : (s.drain d f).recs.Keyed := by
  simp [State.drain, h]

theorem execFaultLogDrain_keyed {s : State} (h : s.recs.Keyed) : NextKeyed (execFaultLogDrain s) := by
  unfold execFaultLogDrain
  split
  · exact h
  · exact keyed_faultDrain _ _ h

theorem keyed_drainAll {s : State} (d n : Nat) (h : s.recs.Keyed) : (s.drainAll d n).recs.Keyed := by
  induction n generalizing s with
  | zero => exact h
  | succ n ih =>
    unfold State.drainAll
    split
    · exact h
    · exact ih (keyed_faultDrain _ _ h)

theorem execFaultLogRetest_keyed {s : State} (h : s.recs.Keyed) : NextKeyed (execFaultLogRetest s) :=
  keyed_foldl (fun _ _ => keyed_drainAll _ _) _ h

end Sys2Proof.Laws

end


section
/-!
SUPPORT. The records keep their keys, part 10: code objects, launch records and the queue interpreter.
-/

namespace Sys2Proof.Machine

/-- The state that a bytecode instruction's answer carries has its records under their keys. -/
def QRes.Keyed : QRes → Prop
  | .go _ | .fail _ _ => True
  | .goWith s _ | .failWith s _ | .act s => s.recs.Keyed

end Sys2Proof.Machine

namespace Sys2Proof.Laws

open Sys2Proof.Machine

/-! ### Code objects -/

@[simp] theorem translation_recs (s : State) (digest bs : List Byte) : (s.translation digest bs).1.recs = s.recs := by
  unfold State.translation
  split
  · rfl
  · split <;> rfl

@[simp] theorem keyed_objBytes {s : State} (t asid addr : Nat) (h : s.recs.Keyed) :
    (s.objBytes t asid addr).1.recs.Keyed := by
  unfold State.objBytes
  simp only
  split
  · exact h
  · split
    · simp [h]
    · split <;> simp [h]

theorem keyed_putTranslation {s t : State} {asid addr : Nat} {bs : List Byte} {x : Translation} (h : s.recs.Keyed)
    (ht : s.putTranslation asid addr bs x = some t) : t.recs.Keyed := by
  unfold State.putTranslation at ht
  simp only at ht
  split at ht
  · cases ht
  · obtain ⟨u, hu, rfl⟩ := Option.map_eq_some_iff.1 ht
    obtain ⟨v, hv, hu⟩ := Option.bind_eq_some_iff.1 hu
    obtain ⟨w, hw, hv⟩ := Option.bind_eq_some_iff.1 hv
    rw [codeInvRange_recs]
    exact keyed_vaWrite (keyed_vaWrite (keyed_vaWrite h hw) hv) hu

@[simp] theorem keyed_verify {s : State} (t asid addr : Nat) (h : s.recs.Keyed) : (s.verify t asid addr).1.recs.Keyed := by
  have hb : (s.objBytes t asid addr).1.recs.Keyed := keyed_objBytes _ _ _ h
  unfold State.verify
  simp only
  split
  · exact hb
  · split
    · exact hb
    · split
      · exact hb
      · split
        · exact hb
        · split
          · split <;> exact hb
          · split
            · exact hb
            · split
              · simpa using hb
              · split
                · simpa using hb
                · rename_i _ u hu
                  exact keyed_putTranslation (by simpa using hb) hu

@[simp] theorem keyed_useObj {s : State} (launch : Bool) (t asid addr : Nat) (h : s.recs.Keyed) :
    (s.useObj launch t asid addr).1.recs.Keyed := by
  have hv : (s.verify t asid addr).1.recs.Keyed := keyed_verify _ _ _ h
  unfold State.useObj
  simp only
  split
  · simpa using h
  · split
    · exact hv
    · split <;> exact hv

/-! ### Launch records -/

@[simp] theorem keyed_lrRead {s : State} (t va : Nat) (h : s.recs.Keyed) : (s.lrRead t va).1.recs.Keyed := by
  simp [State.lrRead, h]

@[simp] theorem keyed_lrOnce {s : State} (t va : Nat) (known : Option (Nat × LaunchBits)) (h : s.recs.Keyed) :
    (s.lrOnce t va known).1.recs.Keyed := by
  unfold State.lrOnce
  split
  · split
    · exact h
    · exact keyed_lrRead _ _ h
  · exact keyed_lrRead _ _ h

@[simp] theorem keyed_launchTake {s : State} (t va : Nat) (invoke : Bool) (staged : Option (Nat × List DWord))
    (known : Option (Nat × LaunchBits)) (h : s.recs.Keyed) : (s.launchTake t va invoke staged known).1.recs.Keyed := by
  have hv : (s.lrOnce t va known).1.recs.Keyed := keyed_lrOnce _ _ _ h
  have ho (asid addr : Nat) : ((s.lrOnce t va known).1.useObj true t asid addr).1.recs.Keyed := keyed_useObj _ _ _ _ hv
  unfold State.launchTake
  simp only
  split
  · exact hv
  · split
    · exact hv
    · split
      · exact hv
      · split
        · exact ho _ _
        · split
          · exact ho _ _
          · split
            · exact ho _ _
            · split
              · exact ho _ _
              · split
                · exact ho _ _
                · split
                  · exact ho _ _
                  · split <;> exact ho _ _
                  · exact ho _ _

@[simp] theorem keyed_chkres {s : State} (t slot rec_ args narg : Nat) (known : Option (Nat × LaunchBits)) (h : s.recs.Keyed) :
    (s.chkres t slot rec_ args narg known).1.recs.Keyed := by
  unfold State.chkres
  simp only
  split
  · exact h
  · split
    · split <;> simp [h]
    · simp [h]

/-! ### Packets -/

@[simp] theorem keyed_peek {s : State} (r : Ring) (h : s.recs.Keyed) : (s.peek r).1.recs.Keyed := keyed_vaRead _ _ _ _ _ h

@[simp] theorem keyed_failPacket {s : State} (queue : Nat) (index : DWord) (p : List Word) (launches : Bool) (st : Status)
    (code : Nat) (h : s.recs.Keyed) : (s.failPacket queue index p launches st code).recs.Keyed := by
  unfold State.failPacket
  simp only
  split
  · split
    · split
      · exact keyed_returnWeight _ _ h
      · exact h
    · exact h
  · split <;> exact h

@[simp] theorem keyed_failRun {s : State} (r : QRun) (st : Status) (code : Nat) (h : s.recs.Keyed) :
    (s.failRun r st code).recs.Keyed := keyed_failPacket _ _ _ _ _ _ h

@[simp] theorem takeCause_recs (s : State) (r : Ring) : (s.takeCause r).1.recs = s.recs := by
  unfold State.takeCause
  split <;> rfl

theorem keyed_publish {s : State} (r : Ring) (rd : DWord) (h : s.recs.Keyed) : ((s.publish r rd).getD s).recs.Keyed := by
  cases hp : s.publish r rd with
  | none => exact h
  | some t => exact keyed_vaWrite h hp

@[simp] theorem keyed_takePacket {s : State} (q : Nat) (r : Ring) (p : List Word) (h : s.recs.Keyed) :
    (s.takePacket q r p).recs.Keyed := by
  have h0 : (s.takeCause r).1.recs.Keyed := by rwa [takeCause_recs]
  have h1 (x : Ring) : ({ (s.takeCause r).1 with
      qi := { (s.takeCause r).1.qi with rings := SMap.put (s.takeCause r).1.qi.rings q x } } : State).recs.Keyed :=
    { h0 with rings := sorted_put _ _ _ h0.rings }
  unfold State.takePacket
  simp only
  split
  · refine keyed_failPacket _ _ _ _ _ _ ?_
    split
    · exact keyed_publish _ _ (h1 _)
    · exact h1 _
  · split
    · exact keyed_publish _ _ (h1 _)
    · exact h1 _

theorem execQiTakePacket_keyed {s : State} (h : s.recs.Keyed) : NextKeyed (execQiTakePacket s) := by
  unfold execQiTakePacket
  simp only
  split
  · exact h
  · split
    · exact h
    · split
      · exact h
      · split
        · exact h
        · exact keyed_takePacket _ _ _ (keyed_peek _ h)

@[simp] theorem keyed_takeCmd {s : State} (ty : Nat) (c : Command) (n graph : Nat) (known : Option (Nat × LaunchBits))
    (h : s.recs.Keyed) : (s.takeCmd ty c n graph known).1.recs.Keyed := by
  have hl (t va : Nat) (i : Bool) : (s.launchTake t va i c.staged known).1.recs.Keyed := keyed_launchTake _ _ _ _ _ h
  unfold State.takeCmd
  simp only
  split
  case h_1 | h_2 =>
    split
    · exact h
    · split
      · exact h
      · split <;> exact hl _ _ _
  case h_3 | h_4 => split <;> exact h
  case h_5 => split <;> exact keyed_headTake _ _ h
  case h_6 => exact h

theorem keyed_takeCmds {s : State} (graph : Nat) (known : Option (Nat × LaunchBits)) (cs : List (Nat × Command)) (n : Nat)
    (h : s.recs.Keyed) : (s.takeCmds graph known cs n).1.recs.Keyed := by
  induction cs generalizing s n with
  | nil => exact h
  | cons c cs ih =>
    obtain ⟨ty, c⟩ := c
    unfold State.takeCmds
    simp only
    split
    · exact keyed_takeCmd _ _ _ _ _ h
    · exact ih _ (keyed_takeCmd _ _ _ _ _ h)

@[simp] theorem keyed_qiDone {s : State} (r : QRun) (h : s.recs.Keyed) : (s.qiDone r).recs.Keyed := by
  have ht (graph : Nat) (cs : List (Nat × Command)) : (s.takeCmds graph r.record cs 0).1.recs.Keyed := keyed_takeCmds _ _ _ _ h
  unfold State.qiDone
  simp only
  split
  · exact keyed_failRun _ _ _ h
  · split
    · exact keyed_failRun _ _ _ h
    · split
      · exact keyed_failRun _ _ _ h
      · split
        · exact keyed_failRun _ _ _ (ht _ _)
        · rw [finishPacket_recs]
          split_ifs <;> exact ht _ _

/-! ### Bytecode -/

theorem keyed_qConclude {s : State} {r : QRun} {x : QRes} (h : s.recs.Keyed) (hx : x.Keyed) : (s.qConclude r x).recs.Keyed := by
  cases x with
  | go r => exact h
  | fail st code => exact keyed_failRun _ _ _ h
  | goWith s r => exact hx
  | failWith s st => exact keyed_failRun _ _ _ hx
  | act s => exact hx

/-- A bytecode instruction keeps the records where its body does. -/
theorem qIssue_keyed {s : State} {body : QRun → QRes} (h : s.recs.Keyed) (hb : ∀ r, (body r).Keyed) : NextKeyed (qIssue s body) := by
  unfold qIssue
  split
  · split
    · exact keyed_failRun _ _ _ h
    · exact keyed_qConclude h (hb _)
  · trivial

theorem qAlu_keyed {s : State} (w : QWord) (f : Word → Word → Word) (h : s.recs.Keyed) : NextKeyed (qAlu w s f) :=
  qIssue_keyed h fun _ => trivial

theorem execLdm_keyed {s : State} (w : QWord) (h : s.recs.Keyed) : NextKeyed (execLdm w s) := by
  refine qIssue_keyed h fun r => ?_
  simp only
  split
  · trivial
  · split
    · trivial
    · split <;> exact keyed_vaNat _ _ _ _ _ h

theorem execEndb_keyed {s : State} (h : s.recs.Keyed) : NextKeyed (execEndb s) := by
  refine qIssue_keyed h fun r => ?_
  split
  · trivial
  · split <;> trivial

theorem execChkres_keyed {s : State} (w : QWord) (h : s.recs.Keyed) : NextKeyed (execChkres w s) := by
  refine qIssue_keyed h fun r => ?_
  simp only
  split <;> exact keyed_chkres _ _ _ _ _ _ h

theorem execEmitC_keyed {s : State} (w : QWord) (h : s.recs.Keyed) : NextKeyed (execEmitC w s) := by
  refine qIssue_keyed h fun r => ?_
  split <;> trivial

theorem execDone_keyed {s : State} (h : s.recs.Keyed) : NextKeyed (execDone s) := qIssue_keyed h fun r => keyed_qiDone r h

theorem execFail_keyed {s : State} (w : QWord) (h : s.recs.Keyed) : NextKeyed (execFail w s) := qIssue_keyed h fun _ => trivial

end Sys2Proof.Laws

end


section
/-!
SUPPORT. The records keep their keys, part 11: the launch unit.
-/

namespace Sys2Proof.Laws

open Sys2Proof.Machine

/-! ### Launches and readiness -/

theorem launch_keyed {s : State} (h : s.recs.Keyed) : NextKeyed s.launch := by
  unfold State.launch
  split
  · exact h
  · split
    · exact h
    · split
      · exact h
      · simp only [nextKeyed_next, cmdSet_recs]
        exact { h with grids := gridsKeyed_put h.grids rfl }

@[simp] theorem keyed_bounds {s : State} (g : Grid) (h : s.recs.Keyed) : (s.bounds g).1.recs.Keyed := by
  unfold State.bounds
  simp only
  generalize hr : List.foldl _ _ _ = r
  have hm : r.1.recs.Keyed := by
    rw [← hr]
    refine keyed_foldl_fst (fun a f ha => ?_) _ h
    split
    · exact ha
    · split
      · split <;> exact keyed_vaNat _ _ _ _ _ ha
      · exact ha
  split
  · exact hm
  · split <;> exact hm

theorem execGridReady_keyed {s : State} (h : s.recs.Keyed) : NextKeyed (execGridReady s) := by
  unfold execGridReady
  split
  · exact h
  · rename_i g _
    have hb : (s.bounds g).1.recs.Keyed := keyed_bounds g h
    split
    · exact h
    · split
      · exact keyed_endGrid _ _ h
      · exact h
      · simp only
        split
        · exact keyed_endGrid _ _ hb
        · split
          · exact keyed_endGrid _ _ hb
          · split
            · exact keyed_endGrid _ _ hb
            · split
              · exact keyed_endGrid _ _ hb
              · exact { hb with grids := gridsKeyed_put hb.grids rfl }

/-! ### Placement -/

/-- A group that a quarter takes: the core is enabled, its scratchpad suffices, and of the group its place alone changes. -/
theorem fitAt_some {s : State} {gs : List Group} {g g' : Group} {c q : Nat} (h : s.fitAt gs g c q = some g') :
    bit s.fw.cores c = true ∧ (gs.map fun x => x.kern.smem).foldl (· + ·) 0 + g.kern.smem ≤ 2097152 ∧
      (g.ln.crown = true → g'.ring.isSome = true) ∧
      g' = { g with core := c, quarter := q, pipes := g'.pipes, ring := g'.ring, actx := g'.actx } := by
  unfold State.fitAt at h
  simp only at h
  split at h
  · cases h
  · rename_i hc
    simp only [Bool.or_eq_true, Bool.not_eq_true', decide_eq_true_eq, not_or, Bool.not_eq_false, not_lt] at hc
    obtain ⟨r, hr, h⟩ := Option.bind_eq_some_iff.1 h
    obtain ⟨pipes, -, rfl⟩ := Option.map_eq_some_iff.1 h
    refine ⟨hc.1, hc.2, fun hcr => ?_, rfl⟩
    rw [if_neg (by simp [hcr])] at hr
    split at hr
    · cases hr; rfl
    · obtain ⟨p, -, rfl⟩ := Option.map_eq_some_iff.1 hr
      rfl

theorem fitAt_smem {s : State} {gs : List Group} {g g' : Group} {c q : Nat} (h : s.fitAt gs g c q = some g') :
    g'.smem = g.smem := by
  obtain ⟨-, -, -, hg⟩ := fitAt_some h
  rw [hg]

@[simp] theorem keyed_seat {s : State} {g : Group} (h : s.recs.Keyed) (hg : g.Pad) : (s.seat g).recs.Keyed := by
  unfold State.seat
  refine keyed_setGroup ?_ hg
  split <;> exact h

/-- Groups that are to be placed, each with a canonical scratchpad. -/
def Pads (gs : List Group) : Prop := ∀ g ∈ gs, g.Pad

theorem keyed_seat_fit {s : State} {gs : List Group} {g g' : Group} {c q : Nat} (h : s.recs.Keyed) (hg : g.Pad)
    (hf : s.fitAt gs g c q = some g') : (s.seat g').recs.Keyed :=
  keyed_seat h (by unfold Group.Pad; rw [fitAt_smem hf]; exact hg)

theorem keyed_placeOn {s t : State} {g : Group} {c : Nat} (h : s.recs.Keyed) (hg : g.Pad) (ht : s.placeOn g c = some t) :
    t.recs.Keyed := by
  obtain ⟨g', hf, rfl⟩ := Option.map_eq_some_iff.1 ht
  obtain ⟨q, -, hq⟩ := List.exists_of_findSome?_eq_some hf
  exact keyed_seat_fit h hg hq

/-- A loop over members of a list that may fail keeps the records where each round does. -/
theorem keyed_foldl_mem {α : Type} {f : Option State → α → Option State} {s : State} (l : List α) (h : s.recs.Keyed)
    (hf : ∀ x ∈ l, ∀ u t, u.recs.Keyed → f (some u) x = some t → t.recs.Keyed) (hn : ∀ x, f none x = none) :
    ∀ t, l.foldl f (some s) = some t → t.recs.Keyed :=
  List.foldlRecOn (motive := fun o : Option State => ∀ t, o = some t → t.recs.Keyed) l f
    (fun _ ht => Option.some.inj ht ▸ h) fun o ho x hx t ht => by
      cases o with
      | none => rw [hn] at ht; cases ht
      | some u => exact hf x hx u t (ho u rfl) ht

theorem keyed_placeAll {s t : State} {gs : List Group} {cores : List Nat} (h : s.recs.Keyed) (hg : Pads gs)
    (ht : s.placeAll gs cores = some t) : t.recs.Keyed := by
  refine keyed_foldl_mem _ h (fun x hx u t hu hc => ?_) (fun _ => rfl) t ht
  rw [Option.bind_some] at hc
  obtain ⟨c, -, hp⟩ := Option.bind_eq_some_iff.1 hc
  exact keyed_placeOn hu (hg x.1 (List.fst_mem_of_mem_zipIdx hx)) hp

theorem keyed_seatAt {s t : State} {gs : List Group} {l : List (Nat × Nat)} (h : s.recs.Keyed) (hg : Pads gs)
    (ht : s.seatAt gs l = some t) : t.recs.Keyed := by
  refine keyed_foldl_mem _ h (fun x hx u t hu hc => ?_) (fun _ => rfl) t ht
  obtain ⟨g', hf, rfl⟩ := Option.map_eq_some_iff.1 hc
  exact keyed_seat_fit hu (hg x.1 (List.of_mem_zip hx).1) hf

@[simp] theorem took_num (r : Grid) (n : Nat) : (r.took n).num = r.num := by
  unfold Grid.took
  split
  · rfl
  · split <;> rfl

theorem groupsKeyed_dels {m : SMap Group} (gs : List Group) (h : GroupsKeyed m) :
    GroupsKeyed (gs.foldl (fun m g => SMap.del m g.uid) m) :=
  List.foldlRecOn (motive := GroupsKeyed) gs _ h fun _ hm g _ => groupsKeyed_del g.uid hm

theorem keyed_tookCand {s : State} (r : Grid) (gs : List Group) (h : s.recs.Keyed) : (s.tookCand r gs).recs.Keyed :=
  { h with grids := gridsKeyed_put h.grids (took_num r _), saved := groupsKeyed_dels gs h.saved }

/-- A candidate's groups: one that is saved, or groups that have never started. -/
theorem pads_candGroups {s : State} (r : Grid) (gid : Nat) (h : s.recs.Keyed) : Pads (s.candGroups r gid) := by
  unfold State.candGroups
  split
  · rename_i g hg
    intro x hx
    obtain rfl := List.mem_singleton.1 hx
    exact (h.saved.own _ _ hg).2
  · intro x hx
    obtain ⟨k, -, rfl⟩ := List.mem_map.1 hx
    exact wf_nil 0

theorem keyed_tryPlace {s t : State} {r : Grid} {gid : Nat} (h : s.recs.Keyed) (ht : s.tryPlace r gid = some t) :
    t.recs.Keyed := by
  obtain ⟨cores, -, hc⟩ := List.exists_of_findSome?_eq_some ht
  split at hc
  · cases hc
  · obtain ⟨u, hu, rfl⟩ := Option.map_eq_some_iff.1 (Option.filter_eq_some_iff.1 hc).1
    exact keyed_tookCand _ _ (keyed_placeAll h (pads_candGroups _ _ h) hu)

theorem keyed_placeHeld {s t : State} {uid : Nat} (h : s.recs.Keyed) (ht : s.placeHeld uid = some t) : t.recs.Keyed := by
  obtain ⟨hold, -, ht⟩ := Option.bind_eq_some_iff.1 ht
  obtain ⟨c, hc, ht⟩ := Option.bind_eq_some_iff.1 ht
  obtain ⟨u, hu, rfl⟩ := Option.map_eq_some_iff.1 ht
  obtain ⟨v, hv, rfl⟩ := Option.map_eq_some_iff.1 hu
  obtain ⟨r, -, hr⟩ := Option.bind_eq_some_iff.1 hc
  split at hr <;> cases hr
  have hv : v.recs.Keyed := keyed_seatAt h (pads_candGroups r _ h) hv
  exact keyed_tookCand _ _ hv

theorem keyed_placeGrid {s t : State} {r : Grid} (h : s.recs.Keyed) (ht : s.placeGrid r = some t) : t.recs.Keyed := by
  obtain ⟨gid, -, ht⟩ := Option.bind_eq_some_iff.1 ht
  obtain ht | ⟨-, ht⟩ := Option.or_eq_some_iff.1 ht
  · exact keyed_placeHeld h ht
  · exact keyed_tryPlace h ht

theorem keyed_placeCand {s t : State} {q : Nat} (h : s.recs.Keyed) (ht : s.placeCand q = some t) : t.recs.Keyed := by
  obtain ⟨r, -, ht⟩ := Option.bind_eq_some_iff.1 ht
  exact keyed_placeGrid h ht

theorem keyed_placeOne {s t : State} (h : s.recs.Keyed) (ht : s.placeOne = some t) : t.recs.Keyed := by
  obtain ⟨i, -, hi⟩ := List.exists_of_findSome?_eq_some ht
  obtain ⟨q, -, hq⟩ := Option.bind_eq_some_iff.1 hi
  obtain ⟨u, hu, rfl⟩ := Option.map_eq_some_iff.1 hq
  exact (keyed_placeCand h hu :)

theorem keyed_preemptFor {s t : State} {r : Grid} {gid : Nat} (h : s.recs.Keyed) (ht : s.preemptFor r gid = some t) :
    t.recs.Keyed := by
  obtain ⟨cores, -, hc⟩ := List.exists_of_findSome?_eq_some ht
  split at hc
  · cases hc
  · obtain ⟨⟨u, places, gone⟩, -, hu⟩ := Option.bind_eq_some_iff.1 hc
    simp only at hu
    split at hu <;> cases hu
    refine { h with groups := groupsKeyed_mapv (f := fun u g => if gone.contains u then g.askedToHead else g) h.groups fun u g => ?_ }
    split <;> exact ⟨rfl, rfl⟩

@[simp] theorem keyed_preempts {s : State} (h : s.recs.Keyed) : s.preempts.recs.Keyed := by
  refine keyed_foldl (fun s i hs => keyed_foldl (fun s q hs => ?_) _ hs) _ h
  split
  · exact hs
  · rename_i r gid _
    split
    · exact hs
    · cases hp : s.preemptFor r gid with
      | none => exact hs
      | some t => exact keyed_preemptFor hs hp

@[simp] theorem tidyHolds_recs (s : State) : s.tidyHolds.recs = s.recs := rfl

theorem keyed_placedOr {s : State} (h : s.recs.Keyed) : (s.placeOne.getD s).recs.Keyed := by
  cases hp : s.placeOne with
  | none => exact h
  | some t => exact keyed_placeOne h hp

theorem execGroupPlacement_keyed {s : State} : s.recs.Keyed → NextKeyed (execGroupPlacement s) := by
  intro h
  have ht : s.tidyHolds.recs.Keyed := by rwa [tidyHolds_recs]
  unfold execGroupPlacement
  simp only
  generalize s.tidyHolds = t at ht
  simp [ht, keyed_placedOr ht]

/-! ### Start, end, pre-emption and resumption -/

theorem execGroupStart_keyed {s : State} (h : s.recs.Keyed) : NextKeyed (execGroupStart s) := by
  unfold execGroupStart
  split
  · exact h
  · split
    · exact h
    · exact keyed_setGroup (by simpa using h) (wf_nil 0)

/-- A grid's record changed under its own number. -/
theorem keyed_putGrid {s : State} {r x : Grid} (h : s.recs.Keyed) (hx : x.num = r.num) :
    ({ s with lu := { s.lu with grids := SMap.put s.lu.grids r.num x } } : State).recs.Keyed :=
  { h with grids := gridsKeyed_put h.grids hx }

@[simp] theorem keyed_endGroup {s : State} (g : Group) (h : s.recs.Keyed) : (s.endGroup g).recs.Keyed := by
  have hd : ((s.release g.tenant g.core 3).dropGroup g.uid).recs.Keyed := keyed_dropGroup _ (keyed_release _ _ _ h)
  unfold State.endGroup
  simp only
  split
  · exact hd
  · split
    · exact keyed_endGrid _ _ (keyed_putGrid hd rfl)
    · rw [foldl_recs (fun s i => settleGd_recs s _ i), foldl_recs (fun s i => settleCl_recs s _ i)]
      exact keyed_putGrid hd rfl

theorem execGroupEnd_keyed {s : State} (h : s.recs.Keyed) : NextKeyed (execGroupEnd s) := by
  unfold execGroupEnd
  split
  · exact h
  · split
    · exact keyed_endGroup _ h
    · exact h

/-- The oldest group of a grid is one of the resident groups. -/
theorem oldest_mem {s : State} {num : Nat} {g : Group} (h : s.oldest num = some g) : ∃ u, (u, g) ∈ s.groups := by
  suffices hm : g ∈ (s.groups.map Prod.snd).filter fun g => g.grid == num && g.started by
    obtain ⟨p, hp, rfl⟩ := List.mem_map.1 (List.mem_filter.1 hm).1
    exact ⟨p.1, hp⟩
  refine List.foldlRecOn (motive := fun o : Option Group => ∀ x, o = some x → x ∈ _) _ _ (fun _ hx => by cases hx)
    (fun o ho y hy x hx => ?_) g h
  split at hx
  · exact Option.some.inj hx ▸ hy
  · split at hx
    · exact Option.some.inj hx ▸ hy
    · exact ho x hx

theorem execQuantumExpiry_keyed {s : State} (h : s.recs.Keyed) : NextKeyed (execQuantumExpiry s) := by
  unfold execQuantumExpiry
  split
  · exact h
  · split
    · rename_i g _ hg _
      split
      · exact h
      · obtain ⟨u, hu⟩ := oldest_mem hg
        have hp : g.Pad := (h.groups.own u g (find_of_mem h.groups.sorted hu)).2
        exact keyed_setGroup (keyed_putGrid h rfl) hp
    · exact h

@[simp] theorem keyed_ctxFault {s : State} {g : Group} (va agent : Nat) (xl : Option Nat) (h : s.recs.Keyed) (hg : g.Pad) :
    (s.ctxFault g va agent xl).recs.Keyed := by
  unfold State.ctxFault
  split
  · exact keyed_setGroup (by simpa using h) hg
  · exact keyed_gridFault _ _ _ _ _ _ _ h

@[simp] theorem keyed_putAway {s : State} {g : Group} (toHead : Bool) (h : s.recs.Keyed) (hg : g.Pad) :
    (s.putAway g toHead).recs.Keyed := by
  refine { h with groups := groupsKeyed_del _ h.groups, saved := groupsKeyed_put h.saved hg, grids := ?_ }
  change GridsKeyed (match SMap.find s.lu.grids g.grid with
    | some r => SMap.put s.lu.grids r.num (r.giveBack g.gid toHead)
    | none => s.lu.grids)
  split
  · exact gridsKeyed_put h.grids rfl
  · exact h.grids

theorem execGroupSaveComplete_keyed {s : State} (h : s.recs.Keyed) : NextKeyed (execGroupSaveComplete s) := by
  unfold execGroupSaveComplete
  split
  · exact h
  · rename_i g hg
    have hp : g.Pad := pad_of_group h hg
    split
    · exact h
    · simp only
      split
      · exact keyed_ctxFault _ _ _ (by simpa using h) hp
      · split
        · exact keyed_ctxFault _ _ _ (by simpa using h) hp
        · exact keyed_putAway _ (keyed_release _ _ _ (keyed_gStoreList _ _ _ _ _ (by simpa using h))) hp

theorem execGroupResumption_keyed {s : State} (h : s.recs.Keyed) : NextKeyed (execGroupResumption s) := by
  unfold execGroupResumption
  split
  · exact h
  · rename_i g hg
    have hp : g.Pad := pad_of_group h hg
    split
    · exact h
    · simp only
      split
      · exact keyed_ctxFault _ _ _ (by simpa using h) hp
      · split
        · exact keyed_ctxFault _ _ _ (by simpa using h) hp
        · split
          · exact keyed_ctxFault _ _ _ (keyed_gLoadList _ _ _ _ _ (by simpa using h)) hp
          · exact keyed_setGroup (keyed_gLoadList _ _ _ _ _ (by simpa using h)) (wf_nil 0)

@[simp] theorem keyed_strike {s : State} (uid loc : Nat) (h : s.recs.Keyed) : (s.strike uid loc).recs.Keyed := by
  unfold State.strike
  split
  · exact h
  · simp only
    split
    · exact keyed_putAway _ (by simp [h]) (wf_nil 0)
    · exact keyed_gridFault _ _ _ _ _ _ _ (by simp [h])

end Sys2Proof.Laws

end

section
/-!
SUPPORT. The records keep their keys, part 12: the other packets, the counters, LNCH and the outside world.
-/

namespace Sys2Proof.Laws

open Sys2Proof.Machine

/-! ### Packets -/

@[simp] theorem keyed_copyOne {s : State} (t asid src dst n k : Nat) (old : SMap Byte) (h : s.recs.Keyed) :
    (s.copyOne t asid src dst n k old).1.recs.Keyed := by
  unfold State.copyOne
  simp only
  have hr : (s.vaRead t asid (src + (copyUnit dst n k).1) (copyUnit dst n k).2 .read).1.recs.Keyed := keyed_vaRead _ _ _ _ _ h
  split
  · exact hr
  · split
    · rename_i u hu
      exact keyed_vaWrite (by rwa [oldOrNew_recs]) hu
    · rwa [oldOrNew_recs]

theorem keyed_copyRun {s : State} (t asid src dst n fuel k : Nat) (old : SMap Byte) (h : s.recs.Keyed) :
    (s.copyRun t asid src dst n fuel k old).1.recs.Keyed := by
  induction fuel generalizing s k old with
  | zero => exact h
  | succ fuel ih =>
    unfold State.copyRun
    simp only
    split
    · exact h
    · split
      · exact ih _ _ (keyed_copyOne _ _ _ _ _ _ _ h)
      · exact keyed_copyOne _ _ _ _ _ _ _ h

theorem execCopy_keyed {s : State} (h : s.recs.Keyed) : NextKeyed (execCopy s) := by
  unfold execCopy
  simp only
  split
  · simpa using h
  · split
    · simpa using h
    · split
      · simpa using h
      · split <;> simpa using keyed_copyRun _ _ _ _ _ _ _ _ h

theorem execNopPacket_keyed {s : State} (h : s.recs.Keyed) : NextKeyed (execNopPacket s) := by simpa [execNopPacket] using h

theorem execWaitsem_keyed {s : State} (h : s.recs.Keyed) : NextKeyed (execWaitsem s) := by simp [execWaitsem, h]

theorem execSignalsem_keyed {s : State} (h : s.recs.Keyed) : NextKeyed (execSignalsem s) := by
  rw [execSignalsem, nextKeyed_next, cmdDone_recs]
  exact keyed_semSet _ _ _ h

theorem execFencePacket_keyed {s : State} (h : s.recs.Keyed) : NextKeyed (execFencePacket s) := by simp [execFencePacket, h]

@[simp] theorem eventPacket_recs (s : State) (c : Command) : (s.eventPacket c).recs = s.recs := by simp [State.eventPacket]

@[simp] theorem keyed_causedEvent {s : State} (h : s.recs.Keyed) : s.causedEvent.recs.Keyed := by
  unfold State.causedEvent
  split
  · exact keyed_sideEffect _ h
  · exact h

/-! ### Resident slots -/

@[simp] theorem setPins_recs (s : State) (asid : Nat) (ps : List (Nat × Nat)) (on : Bool) :
    (s.setPins asid ps on).recs = s.recs := foldl_recs (fun _ _ => editPage_recs _ _ _ _) _ _

@[simp] theorem freeSlot_recs (s : State) (n : Nat) : (s.freeSlot n).recs = s.recs := by
  unfold State.freeSlot
  split
  · rfl
  · exact setPins_recs _ _ _ _

theorem execSlotload_keyed {s : State} (h : s.recs.Keyed) : NextKeyed (execSlotload s) := by
  unfold execSlotload
  simp only
  generalize (if Command.bits s.ctl.cmd 1 11 0 = 0 then s.abase (Command.tenant s.ctl.cmd)
    else Command.bits s.ctl.cmd 1 11 0) = asid
  split
  · simpa using h
  · split
    · simpa using h
    · split
      · simpa using h
      · split
        · simp [h]
        · split
          · simp [h]
          · split
            · simp [h]
            · split
              · simp [h]
              · rw [nextKeyed_next, cmdDone_recs]
                simp [h]

theorem execSlotfree_keyed {s : State} (h : s.recs.Keyed) : NextKeyed (execSlotfree s) := by
  unfold execSlotfree
  simp only
  split
  · simpa using h
  · split
    · simpa using h
    · split <;> simp [h]

/-! ### Queue programs and rings -/

theorem execQprog_keyed {s : State} (h : s.recs.Keyed) : NextKeyed (execQprog s) := by
  unfold execQprog
  simp only
  split
  · split
    · simp [h]
    · split <;> simp [h]
  · simp [h]

theorem execRsetupRegister_keyed {s : State} (h : s.recs.Keyed) : NextKeyed (execRsetupRegister s) := by
  unfold execRsetupRegister
  simp only
  split
  · simpa using h
  · split
    · simpa using h
    · split
      · simpa using h
      · split
        · simp [h]
        · split
          · simp [h]
          · rw [nextKeyed_next, cmdDone_recs]
            have hv := keyed_vaNat (Command.tenant s.ctl.cmd) (s.abase (Command.tenant s.ctl.cmd)) (Command.addr s.ctl.cmd 2) 64 .read h
            exact { hv with rings := sorted_put _ _ _ hv.rings }

theorem execRsetupUnregister_keyed {s : State} (h : s.recs.Keyed) : NextKeyed (execRsetupUnregister s) := by
  unfold execRsetupUnregister
  simp only
  split
  · simpa using h
  · rw [nextKeyed_next, cmdDone_recs]
    exact { h with rings := sorted_del _ _ h.rings }

theorem execRsetupKill_keyed {s : State} (h : s.recs.Keyed) : NextKeyed (execRsetupKill s) := by
  rw [execRsetupKill, nextKeyed_next, cmdDone_recs]
  exact keyed_foldl (fun _ _ => keyed_killGrid _ _) _ h

/-! ### Counters -/

@[simp] theorem keyed_snapshot {s : State} (t : Nat) (h : s.recs.Keyed) : (s.snapshot t).recs.Keyed := by
  unfold State.snapshot
  simp only [bump_recs]
  exact keyed_physPuts _ _ (keyed_physPuts _ _ (keyed_physPuts _ _ h))

theorem execCounterSnapshot_keyed {s : State} (h : s.recs.Keyed) : NextKeyed (execCounterSnapshot s) := by
  simp [execCounterSnapshot, h]

theorem execEvent_keyed {s : State} (h : s.recs.Keyed) : NextKeyed (execEvent s) := by
  simp [execEvent, h]

/-! ### LNCH -/

@[simp] theorem keyed_setWeight {s : State} (grid w : Nat) (h : s.recs.Keyed) : (s.setWeight grid w).recs.Keyed := by
  unfold State.setWeight
  split
  · rename_i r hr
    exact { h with grids := gridsKeyed_put h.grids (h.grids.own grid r hr) }
  · exact h

@[simp] theorem keyed_lnchStores {e : TEnv} {s : State} (l : List ((Nat × Except Bad Place) × Nat)) (h : s.recs.Keyed) :
    (e.lnchStores s l).recs.Keyed := by
  refine keyed_foldl (fun s q hs => ?_) _ h
  split
  · simp [hs]
  · exact hs

theorem lnchBody_keyed {e : TEnv} (h : e.Keyed) : (lnchBody e).Keyed := by
  unfold lnchBody
  simp only
  split
  · trivial
  · split
    · exact badRes_keyed _ _ (by simp [keyed_tBase h])
    · split
      · trivial
      · split
        · exact keyed_tBase h
        · exact keyed_sideEffect _ (keyed_lnchStores _ (keyed_release _ _ _ (keyed_setWeight _ _ (by simp [keyed_tBase h]))))

/-! ### Queue pairs, events and operator messages -/

theorem whenUp_keyed {s : State} {r : Host.Outcome State Fault Refusal} (h : NextKeyed r) : NextKeyed (s.whenUp r) := by
  unfold State.whenUp
  split
  · exact h
  · trivial

theorem onPair_keyed {s : State} {f : QPair → Host.Outcome State Fault Refusal} (h : s.recs.Keyed) (hf : ∀ q, NextKeyed (f q)) :
    NextKeyed (s.onPair f) := by
  unfold State.onPair
  split
  · exact h
  · refine whenUp_keyed ?_
    split
    · exact h
    · exact hf _

@[simp] theorem nakInvalid_recs (s : State) (n : Nat) (q : QPair) : (s.nakInvalid n q).recs = s.recs := rfl

@[simp] theorem unposted_recs (s : State) (asid va n : Nat) : (s.unposted asid va n).recs = s.recs := rfl

@[simp] theorem keyed_logWritten {s : State} (t asid va n : Nat) (h : s.recs.Keyed) :
    (s.logWritten t asid va n).recs.Keyed := by
  unfold State.logWritten
  simp only
  split
  · exact keyed_foldl (fun _ _ => keyed_drainAll _ _) _ (by rwa [unposted_recs])
  · rwa [unposted_recs]

theorem execRdmaWrite_keyed {s : State} (h : s.recs.Keyed) : NextKeyed (execRdmaWrite s) := by
  refine onPair_keyed h fun q => ?_
  simp only
  split
  · exact h
  · split
    · exact h
    · rename_i t ht
      rw [nextKeyed_next, send_recs]
      exact keyed_logWritten _ _ _ _ (keyed_vaWrite h ht)

theorem execRdmaRead_keyed {s : State} (h : s.recs.Keyed) : NextKeyed (execRdmaRead s) := by
  refine onPair_keyed h fun q => ?_
  simp only
  split
  · exact h
  · split <;> exact keyed_vaRead _ _ _ _ _ h

theorem hostAtomic_keyed {s : State} (f : Nat → Nat) (h : s.recs.Keyed) : NextKeyed (s.hostAtomic f) := by
  refine onPair_keyed h fun q => ?_
  simp only
  split
  · exact h
  · split
    · rw [nextKeyed_next, send_recs]
      refine keyed_logWritten _ _ _ _ (keyed_devWrite _ _ _ (keyed_devRead _ _ _ ?_))
      split <;> simpa using h
    · exact h

theorem execRdmaInvalidRequest_keyed {s : State} (h : s.recs.Keyed) : NextKeyed (execRdmaInvalidRequest s) :=
  onPair_keyed h fun _ => h

theorem execCongestionNotification_keyed {s : State} (h : s.recs.Keyed) : NextKeyed (execCongestionNotification s) :=
  onPair_keyed h fun _ => h

theorem execEventSend_keyed {s : State} (h : s.recs.Keyed) : NextKeyed (execEventSend s) := by
  unfold execEventSend
  simp only
  split
  · exact h
  · refine whenUp_keyed ?_
    split
    · exact h
    · rw [nextKeyed_next, send_recs]
      exact keyed_physPuts _ _ h

theorem onOperator_keyed {s : State} {r : Host.Outcome State Fault Refusal} (h : s.recs.Keyed) (hr : NextKeyed r) :
    NextKeyed (s.onOperator r) := by
  refine whenUp_keyed ?_
  split
  · exact h
  · exact hr

theorem execAttest_keyed {s : State} (h : s.recs.Keyed) : NextKeyed (execAttest s) := by
  unfold execAttest
  split
  · exact h
  · split <;> exact onOperator_keyed h h

theorem operator_keyed {s : State} (kind : Nat) {f : State → Option State} (h : s.recs.Keyed)
    (hf : ∀ s t, s.recs.Keyed → f s = some t → t.recs.Keyed) : NextKeyed (s.operator kind f) := by
  refine onOperator_keyed h ?_
  simp only
  split
  · exact h
  · split
    · exact h
    · rename_i t ht
      exact hf _ _ (by exact h) ht

@[simp] theorem putTenant_recs (s : State) (t d : Nat) (pairs : List (Nat × QPair)) : (s.putTenant t d pairs).recs = s.recs := rfl

/-- A ring put into its table. -/
theorem keyed_putRing {s : State} {q : QueueInt} (n : Nat) (r : Ring) (h : s.recs.Keyed) (hq : q.rings = SMap.put s.qi.rings n r) :
    ({ s with qi := q } : State).recs.Keyed :=
  { h with rings := by rw [recs_mk, hq]; exact sorted_put _ _ _ h.rings }

@[simp] theorem keyed_putCtlRing {s : State} (t d : Nat) (h : s.recs.Keyed) : (s.putCtlRing t d).recs.Keyed := by
  unfold State.putCtlRing
  generalize leBytes 16 0 ++ leBytes 2 1 ++ leBytes 46 0 = hdr
  generalize List.range (ctlRingPages d) = pages
  extract_lets asid pa va pte mapped bytes stored ring
  have hm : mapped.recs.Keyed := (foldl_recs (fun _ _ => mapLeaf_recs _ _ _ _ _) _ s).symm ▸ h
  have hs : stored.recs.Keyed := keyed_foldl (fun _ _ => keyed_devStore _ _ _ _) _ hm
  exact keyed_putRing _ _ hs rfl

@[simp] theorem keyed_zeroTarget {s : State} (d : Nat) (h : s.recs.Keyed) : (s.zeroTarget d).recs.Keyed :=
  keyed_physPuts _ _ (keyed_physPuts _ _ (keyed_physPuts _ _ h))

theorem keyed_provision {s t : State} {bs : List Byte} (h : s.recs.Keyed) (ht : s.provision bs = some t) : t.recs.Keyed := by
  unfold State.provision at ht
  simp only at ht
  split at ht <;> cases ht
  exact keyed_zeroTarget _ (keyed_putCtlRing _ _ (by rwa [putTenant_recs]))

theorem execProvision_keyed {s : State} (h : s.recs.Keyed) : NextKeyed (execProvision s) := by
  refine operator_keyed _ h fun s t hs ht => ?_
  obtain ⟨u, hu, rfl⟩ := Option.map_eq_some_iff.1 ht
  rw [send_recs]
  exact keyed_provision hs hu

theorem execUpdate_keyed {s : State} (h : s.recs.Keyed) : NextKeyed (execUpdate s) := by
  refine operator_keyed _ h fun s t hs ht => ?_
  obtain rfl := Option.some.inj ht
  exact hs

/-! ### Bring-up, power, heat and links -/

/-- A module without power holds no record. -/
@[simp] theorem keyed_dead (s : State) (f : Flash) : (s.dead f).recs.Keyed where
  groups := ⟨rfl, fun _ _ h => nomatch h⟩
  grids := ⟨rfl, fun _ _ h => nomatch h⟩
  saved := ⟨rfl, fun _ _ h => nomatch h⟩
  rings := rfl
  frame := rfl
  ringp := rfl

@[simp] theorem keyed_bringUp (s : State) (f : Flash) (mem : List Host.Cell) : (s.bringUp f mem).recs.Keyed := by
  unfold State.bringUp
  simp only
  generalize (if f.imageOk f.imageA then some 0 else if f.imageOk f.imageB then some 1 else none : Option Nat) = pick
  cases pick with
  | none => exact keyed_dead _ _
  | some n =>
    simp only
    generalize (if n = 0 then f.imageA else f.imageB) = img
    split
    · exact keyed_dead _ _
    · exact keyed_dead s f

theorem execReset_keyed {s : State} (h : s.recs.Keyed) : NextKeyed (execReset s) := by
  refine operator_keyed _ h fun s t hs ht => ?_
  obtain rfl := Option.some.inj ht
  exact keyed_bringUp _ _ _

theorem execPowerOn_keyed (s : State) : NextKeyed (execPowerOn s) := keyed_bringUp _ _ _

theorem execInputPowerRemoved_keyed (s : State) : NextKeyed (execInputPowerRemoved s) := by
  unfold execInputPowerRemoved
  exact keyed_dead s (if s.ctl.arg.ch = 1 ∧ s.fw.up then s.fw.flash.nextLeaf false else s.fw.flash)

theorem execPowerMeasure_keyed {s : State} (h : s.recs.Keyed) : NextKeyed (execPowerMeasure s) := whenUp_keyed h

theorem execThermalStop_keyed {s : State} (h : s.recs.Keyed) : NextKeyed (execThermalStop s) := whenUp_keyed h

theorem execThermalRestart_keyed {s : State} (h : s.recs.Keyed) : NextKeyed (execThermalRestart s) := whenUp_keyed h

theorem execThermalShutdown_keyed (s : State) : NextKeyed (execThermalShutdown s) := whenUp_keyed (keyed_dead s s.fw.flash)

theorem execLinkLoss_keyed {s : State} (h : s.recs.Keyed) : NextKeyed (execLinkLoss s) := whenUp_keyed h

theorem execLinkRetrain_keyed {s : State} (h : s.recs.Keyed) : NextKeyed (execLinkRetrain s) := whenUp_keyed h

/-! ### Errors -/

theorem execCorrectableError_keyed {s : State} (h : s.recs.Keyed) : NextKeyed (execCorrectableError s) := by
  unfold execCorrectableError
  simp only
  split
  · exact h
  · exact whenUp_keyed h

@[simp] theorem destroyL1_recs (s : State) (c pa n : Nat) : (s.destroyL1 c pa n).recs = s.recs :=
  foldl_recs (fun _ _ => setL1Line_recs _ _ _ _) _ _

@[simp] theorem mark_recs (s : State) (mem : Bool) (pa n : Nat) : (s.mark mem pa n).recs = s.recs := rfl

theorem execUncorrectableError_keyed {s : State} (h : s.recs.Keyed) : NextKeyed (execUncorrectableError s) := by
  unfold execUncorrectableError
  simp only
  split
  · split
    · exact h
    · split
      · exact h
      · simp [h]
  · exact whenUp_keyed (keyed_evict _ h)
  · split
    · exact whenUp_keyed h
    · exact h
  · exact taStart_keyed _ _ h
  · split <;> exact h

end Sys2Proof.Laws

end


section
/-!
SUPPORT. The records keep their keys, part 13: SAMPLE, and instruction fetch.
-/

namespace Sys2Proof.Machine

/-- The records of the state of a fetch's outcome stand under their keys, and the group that a block is of has its scratchpad so. -/
def Fetched.Keyed : Fetched → Prop
  | .run _ s | .done s => s.recs.Keyed
  | .block s g _ _ _ _ => s.recs.Keyed ∧ g.Pad

end Sys2Proof.Machine

namespace Sys2Proof.Laws

open Sys2Proof.Machine

/-! ### SAMPLE -/

@[simp] theorem keyed_descriptor {e : TEnv} {s : State} (t : Nat) (h : s.recs.Keyed) : (e.descriptor s t).1.recs.Keyed := by
  unfold TEnv.descriptor
  simp only
  split
  · simpa using h
  · split <;> simp [h]
  · simpa using h

@[simp] theorem texelPages_recs (e : TEnv) (s : State) (n : Nat) (l : List Nat) : (e.texelPages s n l).1.recs = s.recs := by
  induction l generalizing s with
  | nil => rfl
  | cons a as ih =>
    unfold TEnv.texelPages
    simp only
    split <;> simp [ih]

@[simp] theorem keyed_sampleDescs {e : TEnv} (h : e.Keyed) : e.sampleDescs.1.recs.Keyed := by
  refine keyed_foldl_fst (fun a t ha => ?_) _ (keyed_tBase h)
  exact keyed_descriptor t ha

@[simp] theorem keyed_samplePages {e : TEnv} (h : e.Keyed) : e.samplePages.1.recs.Keyed := by
  refine keyed_foldl_fst (fun a p ha => ?_) _ (keyed_sampleDescs h)
  split
  · exact ha
  · simpa using ha

@[simp] theorem keyed_sampleReads {e : TEnv} (h : e.Keyed) : e.sampleReads.1.recs.Keyed := by
  refine keyed_foldl_fst (fun a p ha => ?_) _ (keyed_samplePages h)
  split
  · refine keyed_foldl_fst (fun b q hb => ?_) _ ha
    exact keyed_gLoad _ _ _ _ _ hb
  · exact ha

theorem sampleBody_keyed {e : TEnv} (h : e.Keyed) : (sampleBody e).Keyed := by
  unfold sampleBody
  simp only
  split
  · trivial
  · split
    · exact badRes_keyed _ _ (keyed_samplePages h)
    · exact keyed_sampleReads h

/-! ### Instruction fetch -/

@[simp] theorem keyed_iLine {s : State} (c tenant asid va : Nat) (h : s.recs.Keyed) :
    (s.iLine c tenant asid va).1.recs.Keyed := by
  unfold State.iLine
  split
  · exact h
  · simp only
    split
    · simpa using h
    · split
      · simpa using h
      · rw [setCore_recs, setDie_recs]
        split
        · simpa using h
        · exact keyed_devLine _ _ _ (by simpa using h)

@[simp] theorem keyed_iWord {s : State} (c tenant asid va n : Nat) (h : s.recs.Keyed) :
    (s.iWord c tenant asid va n).1.recs.Keyed := by
  unfold State.iWord
  simp only
  split
  · simp [h]
  · split <;> simp [h]

theorem fetchTrap_keyed {s : State} {g : Group} (slot : Nat) (w : Warp) (run : BitVec 32) (pc : Nat) (w0 w1 : DWord) (t : TrapInfo)
    (h : s.recs.Keyed) (hg : g.Pad) : (s.fetchTrap g slot w run pc w0 w1 t).Keyed := keyed_tTrap _ _ _ _ _ _ _ _ _ _ h hg

theorem fetchFail_keyed {s : State} {g : Group} (slot : Nat) (w : Warp) (run : BitVec 32) (pc : Nat) (e : FetchErr)
    (h : s.recs.Keyed) (hg : g.Pad) : (s.fetchFail g slot w run pc e).Keyed := by
  unfold State.fetchFail
  split
  · exact keyed_setWarp _ _ _ (by simpa using h)
  · exact fetchTrap_keyed _ _ _ _ _ _ _ h hg

theorem fetchT_keyed {s : State} {g : Group} (slot : Nat) (w : Warp) (pc : Nat) (run : BitVec 32) (h : s.recs.Keyed) (hg : g.Pad) :
    (s.fetchT g slot w pc run).Keyed := by
  unfold State.fetchT
  simp only
  have h1 : (s.iWord g.core g.tenant g.asid (g.kern.tbase + pc) 8).1.recs.Keyed := keyed_iWord _ _ _ _ _ h
  generalize s.iWord g.core g.tenant g.asid (g.kern.tbase + pc) 8 = f at h1
  have h2 : (f.1.iWord g.core g.tenant g.asid (g.kern.tbase + pc + 8) 8).1.recs.Keyed := keyed_iWord _ _ _ _ _ h1
  split
  · exact fetchTrap_keyed _ _ _ _ _ _ _ h hg
  · split
    · exact fetchFail_keyed _ _ _ _ _ h1 hg
    · split
      · split
        · exact fetchTrap_keyed _ _ _ _ _ _ _ h1 hg
        · split
          · exact fetchFail_keyed _ _ _ _ _ h2 hg
          · split
            · exact fetchTrap_keyed _ _ _ _ _ _ _ h2 hg
            · exact h2
      · split
        · exact fetchTrap_keyed _ _ _ _ _ _ _ h1 hg
        · exact h1

theorem fetchFailA_keyed {s : State} {g : Group} (e : FetchErr) (h : s.recs.Keyed) (hg : g.Pad) : (s.fetchFailA g e).Keyed := by
  unfold State.fetchFailA
  split
  · exact keyed_setA _ _ (by simpa using h)
  · exact keyed_aTrap _ _ _ _ _ _ _ h hg

theorem fetchA_keyed {s : State} {g : Group} (h : s.recs.Keyed) (hg : g.Pad) : (s.fetchA g).Keyed := by
  unfold State.fetchA
  simp only
  have h1 : (s.iWord g.core g.tenant g.asid (g.kern.abase + g.a.apc.toNat) 4).1.recs.Keyed := keyed_iWord _ _ _ _ _ h
  generalize s.iWord g.core g.tenant g.asid (g.kern.abase + g.a.apc.toNat) 4 = f at h1
  have h2 : (f.1.iWord g.core g.tenant g.asid (g.kern.abase + g.a.apc.toNat + 4) 4).1.recs.Keyed := keyed_iWord _ _ _ _ _ h1
  generalize f.1.iWord g.core g.tenant g.asid (g.kern.abase + g.a.apc.toNat + 4) 4 = f1 at h2
  have h3 : (f1.1.iWord g.core g.tenant g.asid (g.kern.abase + g.a.apc.toNat + 8) 4).1.recs.Keyed := keyed_iWord _ _ _ _ _ h2
  split
  · exact h
  · split
    · exact keyed_aTrap _ _ _ _ _ _ _ h hg
    · split
      · exact fetchFailA_keyed _ h1 hg
      · split
        · split
          · exact keyed_aTrap _ _ _ _ _ _ _ h1 hg
          · split
            · exact fetchFailA_keyed _ h2 hg
            · split
              · exact fetchFailA_keyed _ h3 hg
              · split
                · exact keyed_aTrap _ _ _ _ _ _ _ h3 hg
                · exact h3
        · split
          · exact keyed_aTrap _ _ _ _ _ _ _ h1 hg
          · exact h1

theorem warpTurn_keyed {s : State} (uid slot : Nat) (h : s.recs.Keyed) : (s.warpTurn uid slot).Keyed := by
  unfold State.warpTurn
  split
  · exact h
  · rename_i g hg
    split
    · exact h
    · split
      · exact h
      · split
        · exact keyed_stopWarp _ _ _ _ h
        · exact keyed_pushDone _ _ _ (keyed_setWarp _ _ _ h)
        · split
          · exact h
          · split
            · exact ⟨h, (pad_of_group h hg :)⟩
            · exact fetchT_keyed _ _ _ _ h (pad_of_group h hg :)

theorem fetchedKeyed_ite {c : Prop} [Decidable c] {a b : Fetched} (ha : a.Keyed) (hb : b.Keyed) : (if c then a else b).Keyed := by
  split
  · exact ha
  · exact hb

theorem aTurn_keyed {s : State} (uid : Nat) (h : s.recs.Keyed) : (s.aTurn uid).Keyed := by
  unfold State.aTurn
  split
  · exact h
  · rename_i g hg
    refine fetchedKeyed_ite h ?_
    split
    · exact keyed_aPush _ _ _ (keyed_setA _ _ h)
    · exact fetchA_keyed h (pad_of_group h hg :)

end Sys2Proof.Laws

end


section
/-!
SUPPORT. The records keep their keys, part 14: every instruction and step, by the meaning that `exec` gives it.
-/

namespace Sys2Proof.Laws

open Sys2Proof.Machine

/-! ### Every instruction and step -/

theorem execCvt_keyed {s : State} (w : TWord) (h : s.recs.Keyed) : NextKeyed (execCvt w s) := by
  refine tIssue_keyed h fun e he => ?_
  simp only
  split
  · exact resultOf_keyed _ _ _ _ he
  · split
    · exact resultOf_keyed _ _ _ _ he
    · exact result_keyed _ _ _ he

theorem execCbx_keyed {s : State} (w : TWord) (h : s.recs.Keyed) : NextKeyed (execCbx w s) := by
  refine tIssue_keyed h fun e he => ?_
  split
  · trivial
  · exact result_keyed _ _ _ he

theorem execAbr_keyed {s : State} (w : AWord) (h : s.recs.Keyed) : NextKeyed (execAbr w s) := by
  refine aIssue_keyed h fun e he => ?_
  split <;> exact keyed_aBase he

theorem execAret_keyed {s : State} (w : AWord) (h : s.recs.Keyed) : NextKeyed (execAret w s) := by
  refine aIssue_keyed h fun e he => ?_
  simp only
  split
  · trivial
  · exact keyed_aBase he

theorem execAloop_keyed {s : State} (w : AWord) (h : s.recs.Keyed) : NextKeyed (execAloop w s) := by
  refine aIssue_keyed h fun e he => ?_
  simp [he]

theorem execAend_keyed {s : State} (w : AWord) (h : s.recs.Keyed) : NextKeyed (execAend w s) := by
  refine aIssue_keyed h fun e he => ?_
  split
  · exact keyed_aBase he
  · trivial

theorem execAsafe_keyed {s : State} (w : AWord) (h : s.recs.Keyed) : NextKeyed (execAsafe w s) := by
  refine aIssue_keyed h fun e he => ?_
  simp only
  split <;> exact keyed_aBase he

theorem execAwaitq_keyed {s : State} (w : AWord) (h : s.recs.Keyed) : NextKeyed (execAwaitq w s) := by
  refine aIssue_keyed h fun e he => ?_
  split
  · exact keyed_aBase he
  · trivial

theorem execVpack_keyed {s : State} (w : VSlot) (h : s.recs.Keyed) : NextKeyed (execVpack w s) := by
  unfold execVpack
  exact vAlu_keyed w _ h

/-- Each case names the shared form of the instruction's meaning, or the lemma about a meaning of its own. -/
theorem exec_keyed (i : Instr) {s : State} (h : s.recs.Keyed) : NextKeyed (exec i s) := by
  cases i
  case add | add3 | sub | neg | abs | mullo | mulhi | mad | min | max | lop3 | shl | shr | sra | fsh | bfx | bfi |
      popc | clz | brev | sel | movi | packT5 | fadd | fmul | ffma | fmin | fmax | frnd | frcp | frsq | fsqrt |
      fdiv | fexp2 | flog2 | fsint | fcost | hfma2 | dot2 | dot4 | dot8 | idot4 => exact tAlu_keyed _ h
  case madw | lea | addW => exact tAlu64_keyed _ h
  case div | rem | dadd | dmul | dfma => exact tEmul_keyed h
  case cmp | fcmp | fclass => exact tCond_keyed _ h
  case mov => exact execMov_keyed _ h
  case unpackT5 => exact execUnpackT5_keyed _ h
  case cvt => exact execCvt_keyed _ h
  case dotT5 | s2v | rstat => exact tIssue_keyed h fun _ => result_keyed _ _ _
  case cbx => exact execCbx_keyed _ h
  case cbld => exact execCbld_keyed _ h
  case cbldFill => exact execCbldFill_keyed h
  case bra => exact tIssue_keyed h fun _ he => branch_keyed _ he
  case brx | ret => exact tIssue_keyed h fun _ he => badTarget_keyed _ (branch_keyed _ he)
  case call => exact tIssue_keyed h fun _ he => callBody_keyed _ he
  case callX => exact tIssue_keyed h fun _ he => badTarget_keyed _ (callBody_keyed _ he)
  case exit => exact execExit_keyed _ h
  case safept => exact execSafept_keyed _ h
  case setpc => exact execSetpc_keyed _ h
  case selc | nop => exact tIssue_keyed h fun _ he => keyed_tBase he
  case vote => exact execVote_keyed _ h
  case elect => exact tIssue_keyed h fun _ he => setPred_keyed _ he
  case shfl | qswp | qbc | qdd => exact tIssue_keyed h fun _ he => fromLanes_keyed _ _ _ he
  case barArv | barSync => exact barIssue_keyed h fun _ _ _ he => arriveBody_keyed _ _ _ he
  case barWt => exact execBarWt_keyed _ h
  case trap | brk => exact tIssue_keyed h fun _ he => softTrap_keyed _ he
  case tret => exact execTret_keyed _ h
  case vget => exact execVget_keyed _ h
  case vput => exact execVput_keyed _ h
  case ld | lds | ldx => exact tIssue_keyed h fun _ he => loadBody_keyed _ he
  case st | sts | stx => exact tIssue_keyed h fun _ he => storeBody_keyed _ he
  case atom | cas | red => exact tIssue_keyed h fun _ he => atomBody_keyed _ _ _ he
  case pfh => exact execPfh_keyed _ h
  case reside => exact execReside_keyed _ h
  case fence => exact execFence_keyed _ h
  case sample => exact tIssue_keyed h fun _ he => sampleBody_keyed he
  case lnch => exact tIssue_keyed h fun _ he => lnchBody_keyed he
  case rqRay | rqBeam | rqCone => exact tIssue_keyed h fun _ he => rqBody_keyed _ he
  case rpop => exact tIssue_keyed h fun _ he => rpopBody_keyed he
  case semadd | semset => exact semIssue_keyed h fun _ _ _ he => semUpdate_keyed _ _ _ he
  case semwait => exact execSemwait_keyed _ h
  case aadd | aaddLong | asub | asubLong | amul | amulLong | aand | aandLong | aor | aorLong | axor | axorLong |
      ashl | ashlLong | ashr | ashrLong | amovi | amoviLong | amoviH | asel | aselLong | as2a | qpop | tastat =>
    exact aAlu_keyed _ h
  case amov => exact execAmov_keyed _ h
  case acmp | acmpLong | anop | ajmp | acall | qpush | qpushLong => exact aIssue_keyed h fun _ he => keyed_aBase he
  case abr => exact execAbr_keyed _ h
  case aret => exact execAret_keyed _ h
  case aloop => exact execAloop_keyed _ h
  case aend => exact execAend_keyed _ h
  case asafe => exact execAsafe_keyed _ h
  case aexit => exact execAexit_keyed h
  case atrap => exact aIssue_keyed h fun _ _ => trivial
  case aretT => exact execAretT_keyed h
  case afence | afenceLong => exact aIssue_keyed h fun _ he => aFence_keyed he
  case ald | aldLong | alds | aldsLong => exact aIssue_keyed h fun _ he => aLoad_keyed _ he
  case ast | astLong | asts | astsLong => exact aIssue_keyed h fun _ he => aStore_keyed _ he
  case awaitq => exact execAwaitq_keyed _ h
  case semaddA | semaddALong | semsetA | semsetALong => exact aIssue_keyed h fun _ he => aSemUpdate_keyed _ he
  case semwaitA | semwaitALong => exact aIssue_keyed h fun _ he => aSemWait_keyed he
  case cpy | cpyLong | cpyx | cpyxLong | cpylv | cpylvLong | kvapp | kvappLong =>
    exact aIssue_keyed h fun _ he => ceIssue_keyed _ he
  case cpyw | cpywLong => exact aIssue_keyed h fun _ he => cpywIssue_keyed he
  case ceCommandStart => exact execCeCommandStart_keyed h
  case ceCommandComplete => exact execCeCommandComplete_keyed h
  case fmtq | fmtqLong => exact aIssue_keyed h fun _ he => aFmtq_keyed he
  case taRun | taRunLong => exact aIssue_keyed h fun _ he => aTaRun_keyed he
  case taZero => exact execTaZero_keyed _ h
  case taSwap => exact execTaSwap_keyed _ h
  case crownTake => exact execCrownTake_keyed _ h
  case crownPass => exact execCrownPass_keyed _ h
  case taCommandStart => exact taStart_keyed _ _ h
  case taCommandComplete => exact execTaCommandComplete_keyed h
  case taRunFault => exact execTaRunFault_keyed h
  case snop | smovh | scmp | br | brc | loop | poseR | poseW | bandiRd | vnop | vcmp | vsel | vperm | vbcast =>
    exact lIssue_keyed h fun _ _ => trivial
  case sadd | ssub | smul | sand | sor | sshl | sshr => exact sAlu_keyed _ _ h
  case smov w =>
    show NextKeyed (execSmov w s)
    exact sAlu_keyed w _ h
  case bandiNext | halt => exact lIssue_keyed h fun _ he => endBand_keyed _ he
  case syncm => exact execSyncm_keyed h
  case vadd | vsub | vmul | vfma | vmin | vmax | vlerp => exact vAlu_keyed _ _ h
  case vrcp w =>
    show NextKeyed (execVrcp w s)
    exact vAlu_keyed w _ h
  case vrsq w =>
    show NextKeyed (execVrsq w s)
    exact vAlu_keyed w _ h
  case vflr w =>
    show NextKeyed (execVflr w s)
    exact vAlu_keyed w _ h
  case vcvt w =>
    show NextKeyed (execVcvt w s)
    exact vAlu_keyed w _ h
  case vpack => exact execVpack_keyed _ h
  case lbld => exact execLbld_keyed _ h
  case lbst => exact execLbst_keyed _ h
  case gld => exact execGld_keyed _ h
  case wsamp => exact execWsamp_keyed _ h
  case dsamp => exact execDsamp_keyed _ h
  case mxld | mxst => exact lIssue_keyed h fun _ he => handTile_keyed _ _ he
  case mxrun => exact execMxrun_keyed _ h
  case emit => exact execEmit_keyed _ h
  case ldp | cmpb | jf | jfc | loopb | reloc => exact qIssue_keyed h fun _ => trivial
  case ldm => exact execLdm_keyed _ h
  case movb w =>
    show NextKeyed (execMovb w s)
    exact qAlu_keyed w _ h
  case addb | subb | andb | orb | shlb | shrb => exact qAlu_keyed _ _ h
  case endb => exact execEndb_keyed h
  case chkres => exact execChkres_keyed _ h
  case emitC => exact execEmitC_keyed _ h
  case done => exact execDone_keyed h
  case fail => exact execFail_keyed _ h
  case qiTakePacket => exact execQiTakePacket_keyed h
  case nopPacket => exact execNopPacket_keyed h
  case launch | invoke => exact launch_keyed h
  case copy => exact execCopy_keyed h
  case waitsem => exact execWaitsem_keyed h
  case signalsem => exact execSignalsem_keyed h
  case fencePacket => exact execFencePacket_keyed h
  case event => exact execEvent_keyed h
  case slotload => exact execSlotload_keyed h
  case slotfree => exact execSlotfree_keyed h
  case qprog => exact execQprog_keyed h
  case mapupd | mapupdUnmap => exact mapupd_keyed h
  case mapupdDecay => exact execMapupdDecay_keyed h
  case tlbinv => exact execTlbinv_keyed h
  case codeinv => exact execCodeinv_keyed h
  case headcfgEnable => exact execHeadcfgEnable_keyed h
  case headcfgDisable => exact headcfg_keyed h fun _ _ => keyed_disableHead _ _ h
  case headcfgEffect => exact execHeadcfgEffect_keyed h
  case rsetupRegister => exact execRsetupRegister_keyed h
  case rsetupUnregister => exact execRsetupUnregister_keyed h
  case rsetupKill => exact execRsetupKill_keyed h
  case gridReady => exact execGridReady_keyed h
  case groupPlacement =>
    -- as an implication: applied to `h`, it would have its elaborator run the placement
    revert h
    exact @execGroupPlacement_keyed s
  case groupStart => exact execGroupStart_keyed h
  case groupEnd => exact execGroupEnd_keyed h
  case quantumExpiry => exact execQuantumExpiry_keyed h
  case groupSaveComplete => exact execGroupSaveComplete_keyed h
  case groupResumption => exact execGroupResumption_keyed h
  case rayQueryTake => exact execRayQueryTake_keyed h
  case splitRecordEmit => exact execSplitRecordEmit_keyed h
  case spawnWarpStart => exact execSpawnWarpStart_keyed h
  case rayQueryComplete => exact execRayQueryComplete_keyed h
  case pageWalk => exact execPageWalk_keyed h
  case cacheEviction => exact execCacheEviction_keyed h
  case faultLogDrain => exact execFaultLogDrain_keyed h
  case faultLogRetest => exact execFaultLogRetest_keyed h
  case counterSnapshot => exact execCounterSnapshot_keyed h
  case eventSend => exact execEventSend_keyed h
  case renderSetLatch => exact execRenderSetLatch_keyed h
  case poseLatch => exact execPoseLatch_keyed h
  case bandDispatch => exact execBandDispatch_keyed h
  case bandDeadline => exact execBandDeadline_keyed h
  case bandScanOut => exact (execBandScanOut_keyed h :)
  case rdmaWrite => exact execRdmaWrite_keyed h
  case rdmaRead => exact execRdmaRead_keyed h
  case rdmaFetchAdd =>
    show NextKeyed (execRdmaFetchAdd s)
    exact hostAtomic_keyed _ h
  case rdmaCompareSwap =>
    show NextKeyed (execRdmaCompareSwap s)
    exact hostAtomic_keyed _ h
  case attest => exact execAttest_keyed h
  case provision => exact execProvision_keyed h
  case update => exact execUpdate_keyed h
  case reset => exact execReset_keyed h
  case powerOn => exact execPowerOn_keyed s
  case powerMeasure => exact execPowerMeasure_keyed h
  case thermalStop => exact execThermalStop_keyed h
  case thermalRestart => exact execThermalRestart_keyed h
  case thermalShutdown => exact execThermalShutdown_keyed s
  case linkLoss => exact execLinkLoss_keyed h
  case linkRetrain => exact execLinkRetrain_keyed h
  case correctableError => exact execCorrectableError_keyed h
  case uncorrectableError => exact execUncorrectableError_keyed h
  case matrixOperationComplete => exact execMatrixOperationComplete_keyed h
  case inputPowerRemoved => exact execInputPowerRemoved_keyed s
  case rdmaInvalidRequest => exact execRdmaInvalidRequest_keyed h
  case congestionNotification => exact execCongestionNotification_keyed h

end Sys2Proof.Laws

end


section
/-!
CLAIM. The records keep their keys, part 15: blocks, turns, the step, and obligation O60.
-/

namespace Sys2Proof.Laws

open Sys2Proof.Machine

/-! ### Blocks of a portable kernel -/

@[simp] theorem laneInput_recs (x : BlockEnv) (k : BlockRun) (i slot : Nat) : (x.laneInput k i slot).1.s.recs = k.s.recs := by
  unfold BlockEnv.laneInput
  simp only
  split
  · rfl
  · split <;> rfl

theorem keyed_perform {x : BlockEnv} {k : BlockRun} (i : Nat) (h : k.s.recs.Keyed) : (x.perform k i).s.recs.Keyed := by
  unfold BlockEnv.perform
  simp only
  have hpad : ∀ {g : Group} {w : Warp}, ((k.s.group? x.uid).bind fun g => (g.warp? x.slot).map fun w => (g, w)) = some (g, w) →
      g.Pad := by
    intro g w hp
    obtain ⟨y, hy, hw⟩ := Option.bind_eq_some_iff.1 hp
    obtain ⟨v, -, hv⟩ := Option.map_eq_some_iff.1 hw
    cases hv
    exact pad_of_group h hy
  have hl : (x.laneInput (x.laneInput k i 0).1 i 1).1.s.recs.Keyed := by simpa using h
  split
  · exact h
  · rename_i g w hp
    split
    · exact h
    · split
      · exact h
      · split
        · exact h
        · split
          · split <;> exact hl
          · split
            · exact hl
            · exact hl
            · split
              · exact hl
              · exact hl
              · rename_i ins _ _ _ u hu
                have hw : NextKeyed (.next u) := hu ▸ exec_keyed ins (keyed_setGroup hl (show g.Pad from hpad hp))
                split <;> exact keyed_setWarp _ _ _ hw

/-- An operation is performed after those that supply it; `f` bounds the depth of that chain. -/
theorem keyed_need {x : BlockEnv} (f : Nat) {k : BlockRun} (i : Nat) (h : k.s.recs.Keyed) : (x.need f k i).s.recs.Keyed := by
  induction f generalizing k i with
  | zero => exact h
  | succ f ih =>
    unfold BlockEnv.need
    simp only
    have hf : (((List.range 4).filterMap (x.supplier i)).foldl (x.need f) k).s.recs.Keyed :=
      List.foldlRecOn (motive := fun k : BlockRun => k.s.recs.Keyed) _ _ h fun _ hk j _ => ih j hk
    split
    · exact h
    · split
      · exact hf
      · exact keyed_perform _ hf

theorem keyed_foldl_need (x : BlockEnv) (f : Nat) (l : List Nat) {k : BlockRun} (h : k.s.recs.Keyed) :
    (l.foldl (x.need f) k).s.recs.Keyed :=
  List.foldlRecOn (motive := fun k : BlockRun => k.s.recs.Keyed) _ _ h fun _ hk i _ => keyed_need f i hk

theorem keyed_blockAll {s : State} (x : BlockEnv) (vals : SMap BlockVal) (h : s.recs.Keyed) : (x.all s vals).s.recs.Keyed :=
  keyed_foldl_need _ _ _ h

theorem keyed_commit {x : BlockEnv} {k : BlockRun} (h : k.s.recs.Keyed) : (x.commit k).recs.Keyed := by
  unfold BlockEnv.commit
  simp only
  split
  · exact h
  · split
    · exact keyed_setWarp _ _ _ h
    · exact keyed_afterThreads _ _ _ h

theorem keyed_waiting {x : BlockEnv} {k k' : BlockRun} {inHandler : Bool} {isBlock : Nat → Bool} (h : k.s.recs.Keyed)
    (hk : x.waiting k inHandler isBlock = .stands k') : k'.s.recs.Keyed := by
  unfold BlockEnv.waiting at hk
  simp only at hk
  split at hk
  · cases hk
  · split at hk
    · cases hk
    · split at hk
      · cases hk
      · cases hk
      · split at hk
        · cases hk
        · split at hk <;> cases hk
          exact keyed_foldl_need _ _ _ h

@[simp] theorem keyed_blockTrap {s : State} {g : Group} (slot : Nat) (w : Warp) (run : BitVec 32) (pc : Nat) (o : VosisOp)
    (c : Cause) (tval : DWord) (h : s.recs.Keyed) (hg : g.Pad) : (s.blockTrap g slot w run pc o c tval).recs.Keyed :=
  keyed_tTrap _ _ _ _ _ _ _ _ _ _ h hg

@[simp] theorem keyed_runBlock {s : State} {g : Group} (slot : Nat) (w : Warp) (pc : Nat) (run : BitVec 32) (h : s.recs.Keyed)
    (hg : g.Pad) : (s.runBlock g slot w pc run).recs.Keyed := by
  unfold State.runBlock
  extract_lets off
  refine keyed_recs_ite h (keyed_recs_ite (keyed_stopWarp _ _ _ _ h) ?_)
  split
  · exact keyed_blockTrap _ _ _ _ _ _ _ h hg
  · extract_lets x k stop u w2
    have hk : k.s.recs.Keyed := keyed_blockAll _ _ h
    have hu : u.recs.Keyed := h
    clear_value stop
    split
    · exact keyed_commit hk
    · exact keyed_blockTrap _ _ _ _ _ _ _ hu hg
    · exact keyed_setWarp _ _ _ (by simpa using hu)
    · split
      · exact keyed_blockTrap _ _ _ _ _ _ _ hu hg
      · exact keyed_setWarp _ _ _ hu
      · rename_i k' hk'
        exact keyed_setWarp _ _ _ (keyed_waiting hk hk')

/-! ### Turns -/

theorem onNext_keyed {r : Host.Outcome State Fault Refusal} {f : State → Host.Outcome State Fault Refusal} (hr : NextKeyed r)
    (hf : ∀ s, s.recs.Keyed → NextKeyed (f s)) : NextKeyed (onNext r f) := by
  cases r with
  | next s => exact hf s hr
  | fault x => trivial
  | refused x => trivial

@[simp] theorem keyed_afterRead {s : State} (uid : Option Nat) (h : s.recs.Keyed) : (s.afterRead uid).recs.Keyed := by
  unfold State.afterRead
  split
  · exact keyed_strike _ _ h
  · exact h
  · exact h

theorem runWarp_keyed {s : State} (uid slot : Nat) (h : s.recs.Keyed) : NextKeyed (s.runWarp uid slot) := by
  unfold State.runWarp
  have ht : ((s.actFor (.warp uid slot) EventArg.zero).warpTurn uid slot).Keyed := warpTurn_keyed _ _ h
  split
  · exact h
  · split
    · rename_i u hu
      rw [hu] at ht
      exact keyed_afterRead _ ht
    · rename_i i u hu
      rw [hu] at ht
      exact onNext_keyed (exec_keyed i ht) fun t h => keyed_maybeStop _ _ _ (keyed_afterRead _ h)
    · rename_i hu
      rw [hu] at ht
      exact keyed_afterRead _ (keyed_runBlock _ _ _ _ ht.1 ht.2)

theorem runActx_keyed {s : State} (uid : Nat) (h : s.recs.Keyed) : NextKeyed (s.runActx uid) := by
  unfold State.runActx
  have ht : ((s.actFor (.actx uid) EventArg.zero).aTurn uid).Keyed := aTurn_keyed _ h
  split
  · rename_i u hu
    rw [hu] at ht
    exact keyed_afterRead _ ht
  · rename_i hu
    rw [hu] at ht
    exact keyed_afterRead _ ht.1
  · rename_i i u hu
    rw [hu] at ht
    exact onNext_keyed (exec_keyed i ht) fun t h => keyed_afterRead _ h

theorem execAll_keyed (l : List Instr) {s : State} (h : s.recs.Keyed) : NextKeyed (execAll l s) := by
  induction l generalizing s with
  | nil => exact h
  | cons i l ih => exact onNext_keyed (exec_keyed i h) fun _ hs => ih hs

theorem runBundle_keyed {s : State} (n : Nat) (sl v0 v1 : Instr) (m : Option Instr) (h : s.recs.Keyed) :
    NextKeyed (s.runBundle n sl v0 v1 m) := by
  refine onNext_keyed (execAll_keyed _ h) fun t ht => ?_
  split
  · exact h
  · split
    · exact h
    · exact ht

theorem runLine_keyed {s : State} (n : Nat) (h : s.recs.Keyed) : NextKeyed (s.runLine n) := by
  unfold State.runLine
  simp only
  split
  · exact h
  · split
    · exact h
    · split
      · exact h
      · exact runBundle_keyed _ _ _ _ _ h

theorem runQi_keyed {s : State} (h : s.recs.Keyed) : NextKeyed s.runQi := by
  unfold State.runQi
  simp only
  split
  · exact h
  · split
    · exact keyed_failRun _ _ _ h
    · exact exec_keyed _ h

theorem runCommand_keyed {s : State} (id n : Nat) (h : s.recs.Keyed) : NextKeyed (s.runCommand id n) := by
  unfold State.runCommand
  split
  · exact h
  · split
    · exact exec_keyed _ h
    · exact h

theorem keyed_drainAllDies {s : State} (f : State → Nat → Nat) (h : s.recs.Keyed) :
    ((List.range 4).foldl (fun s d => s.drainAll d (f s d)) s).recs.Keyed :=
  keyed_foldl (fun _ _ => keyed_drainAll _ _) _ h

@[simp] theorem keyed_tickMgmt {s : State} (h : s.recs.Keyed) : s.tickMgmt.recs.Keyed := by
  unfold State.tickMgmt
  extract_lets c fw counted tested
  have hc : counted.recs.Keyed := h
  have ht : tested.recs.Keyed := keyed_recs_ite (keyed_drainAllDies _ hc) hc
  exact keyed_recs_ite (keyed_foldl (fun _ _ => keyed_snapshot _) _ ht) ht

theorem groupTick_uid (g : Group) (c n : Nat) : (g.tick c n).uid = g.uid := by
  unfold Group.tick
  split <;> rfl

theorem groupTick_smem (g : Group) (c n : Nat) : (g.tick c n).smem = g.smem := by
  unfold Group.tick
  split <;> rfl

@[simp] theorem keyed_tick {s : State} (d : Domain) (n : Nat) (h : s.recs.Keyed) : (s.tick d n).recs.Keyed := by
  cases d with
  | core c =>
    simp only [State.tick]
    split
    · exact { h with groups := groupsKeyed_mapv h.groups fun _ g => ⟨groupTick_uid g c n, groupTick_smem g c n⟩ }
    · exact h
  | fabric => exact h
  | ssp => exact h
  | mgmt => exact keyed_foldl (fun _ _ => keyed_tickMgmt) _ h
  | line k => simpa [State.tick] using h

theorem gate_keyed {s : State} {r : Host.Outcome State Fault Refusal} (h : s.recs.Keyed) (hr : NextKeyed r) : NextKeyed (s.gate r) := by
  refine onNext_keyed hr fun t ht => ?_
  split
  · exact h
  · exact ht

theorem takeTurn_keyed {s : State} (t : Turn) (h : s.recs.Keyed) : NextKeyed (s.takeTurn t) := by
  unfold State.takeTurn
  split
  · exact h
  · cases t with
    | warp uid slot => exact runWarp_keyed uid slot h
    | actx uid => exact runActx_keyed uid h
    | line n => exact runLine_keyed n h
    | qi => exact runQi_keyed h
    | command id n => exact runCommand_keyed id n h
    | ray c n => exact keyed_afterRead _ (keyed_rayTurn c n h)
    | event i a => exact onNext_keyed (exec_keyed i h) fun _ ht => keyed_afterRead _ ht
    | tick d n => exact keyed_tick d n h

theorem walkTurn_keyed {s : State} (t : Turn) (h : s.recs.Keyed) : NextKeyed (s.walkTurn t) := by
  refine onNext_keyed (takeTurn_keyed t h) fun u hu => ?_
  split
  · simpa using h
  · simpa using hu

theorem runTurn_keyed {s : State} (t : Turn) (h : s.recs.Keyed) : NextKeyed (s.runTurn t) :=
  gate_keyed h (onNext_keyed (walkTurn_keyed t h) fun _ hu => keyed_fitCaches hu)

theorem ownTurn_keyed {s : State} (h : s.recs.Keyed) : NextKeyed s.ownTurn := by
  unfold State.ownTurn
  simp only
  split
  · exact h
  · rename_i t _
    have hr := runTurn_keyed (s := { s with ctl := { s.ctl with turns := s.ctl.turns + 1 } }) t h
    split
    · rename_i u hu
      rwa [hu] at hr
    · exact h
    · trivial

/-- A step is a turn of the agenda, or one that the machine takes of itself. -/
theorem step_keyed {s : State} (h : s.recs.Keyed) : NextKeyed (step s) := by
  unfold step
  split
  · exact runTurn_keyed _ h
  · exact ownTurn_keyed h

/-- Settles O60: the tables' keys are kept by each function of the model that writes a table or a scratchpad, hence by every instruction
and event (`exec_keyed`), by every turn, and by the step. -/
theorem stepKeepsRecords : Obligations.StepKeepsRecords := by
  unfold Obligations.StepKeepsRecords
  intro s t hs ht
  have h : NextKeyed (step s) := step_keyed ((keyed_iff_recs s).1 hs)
  rw [ht, nextKeyed_next] at h
  exact (keyed_iff_recs t).2 h

end Sys2Proof.Laws

end

section
/-!
SUPPORT. Reads, write-backs and invalidations at every scope leave memory as it reads: a load, a translation, a release and an acquire
are `Warmed`.

A write-back is one by this argument: the bytes that it writes are bytes that some level holds (`BytesFrom`), and every level that it
changes, it changes to those bytes (`Stores`).
-/

namespace Sys2Proof.Laws

open Sys2Proof.Machine

/-! ### A table changed value by value -/

theorem get_mapSet {α : Type} [DecidableEq α] {d : α} {f : α → α} (hd : f d = d) (m : SMap α) (n : Nat) :
    SMap.get d (SMap.mapSet d f m) n = f (SMap.get d m n) := by
  have fold : ∀ (l acc : SMap α), SMap.get d (l.foldl (fun acc p => SMap.set d acc p.1 (f (SMap.get d m p.1))) acc) n =
      if (SMap.find l n).isSome then f (SMap.get d m n) else SMap.get d acc n := by
    intro l
    induction l with
    | nil => intro acc; rfl
    | cons p t ih =>
      intro acc
      rw [List.foldl_cons, ih, find_cons, get_set]
      by_cases hp : p.1 = n
      · subst hp
        simp
      · simp [hp, Ne.symm hp]
  unfold SMap.mapSet
  rw [fold m m]
  cases hm : SMap.find m n with
  | none => simp [SMap.get, hm, hd]
  | some x => rfl

/-! ### Write-backs -/

/-- The bytes of a mask in a line of data are bytes that some level of the state holds. -/
def BytesFrom (s : State) (ln : Nat) (mask : BitVec 128) (x : BitVec 1024) : Prop :=
  ∀ a, a / 128 = ln → bit mask (a % 128) = true → ∃ v, Held (s.levelByte v a) ∧ lineByte x (a % 128) = (s.levelByte v a).2.2

/-- Whatever a level holds differently in the second state is a byte of the masked data. -/
def Stores (s t : State) (ln : Nat) (mask : BitVec 128) (x : BitVec 1024) : Prop :=
  ∀ v a, t.levelByte v a = s.levelByte v a ∨
    (a / 128 = ln ∧ bit mask (a % 128) = true ∧ (t.levelByte v a).2.2 = lineByte x (a % 128))

theorem stores_trans {s t u : State} {ln : Nat} {mask : BitVec 128} {x : BitVec 1024} (h1 : Stores s t ln mask x)
    (h2 : Stores t u ln mask x) : Stores s u ln mask x := fun v a =>
  (h2 v a).elim (fun h => (h1 v a).imp (h.trans ·) fun ⟨hl, hb, hx⟩ => ⟨hl, hb, by rw [h]; exact hx⟩) .inr

/-- A store of bytes that the first state holds, made in one that reads have led to, is a read's doing too. -/
theorem warmed_stores {s t u : State} {ln : Nat} {mask : BitVec 128} {x : BitVec 1024} (h : Warmed s t)
    (hx : BytesFrom s ln mask x) (hs : Stores t u ln mask x)
    (hr : u = { t with cores := u.cores, dies := u.dies, frame := u.frame, ringp := u.ringp, mem := u.mem,
                       fw := { t.fw with marked := u.fw.marked } }) : Warmed s u := by
  refine ⟨by rw [hr, h.rest], fun v a ha hh => ?_⟩
  rcases hs v a with he | ⟨hl, hb, he⟩
  · rw [he] at hh ⊢
    exact h.bytes v a ha hh
  · obtain ⟨v', hv', hd⟩ := hx a hl hb
    exact ⟨v', hv', he.trans hd⟩

theorem homeWrite_stores (s : State) (ln : Nat) (mask : BitVec 128) (x : BitVec 1024) : Stores s (s.homeWrite ln mask x) ln mask x := by
  intro v a
  rw [levelByte_homeWrite]
  split
  · rename_i h
    exact .inr ⟨h.2.1, h.2.2, rfl⟩
  · exact .inl rfl

/-- A level's line with the bytes written. -/
theorem line_write_stores {s : State} {v : Level} {a : Nat} {l : Line} (hl : l.byteAt (a % 128) = s.levelByte v a) (mask : BitVec 128)
    (x : BitVec 1024) (d : Bool) : (l.write mask x d).byteAt (a % 128) = s.levelByte v a ∨
      (bit mask (a % 128) = true ∧ ((l.write mask x d).byteAt (a % 128)).2.2 = lineByte x (a % 128)) := by
  rw [write_byteAt _ _ _ _ (by omega)]
  split
  · exact .inr ⟨‹_›, rfl⟩
  · exact .inl hl

theorem partLine_byteAt (s : State) (k k' a : Nat) (h : isPart k (.part k') = true) :
    (s.partLine k (a / 128)).byteAt (a % 128) = s.levelByte (.part k') a := by
  simp only [isPart, decide_eq_true_eq] at h
  unfold State.levelByte State.partLine
  simp only [h]

theorem devStore_stores (s : State) (k ln : Nat) (mask : BitVec 128) (x : BitVec 1024) :
    Stores s (s.devStore k ln mask x) ln mask x := by
  unfold State.devStore
  split
  · exact homeWrite_stores s ln mask x
  · intro v a
    rw [levelByte_unmarkLine, levelByte_setPartLine]
    split
    · rename_i h
      obtain ⟨hv, rfl⟩ := h
      cases v with
      | part k' =>
        exact (line_write_stores (partLine_byteAt s k k' a hv) mask x true).imp id fun h => ⟨rfl, h⟩
      | _ => cases hv
    · exact .inl rfl

theorem setDieLine_stores (s : State) (d ln : Nat) {l : Line} {mask : BitVec 128} {x : BitVec 1024} {m : Bool}
    (hl : ∀ i, l.byteAt i = ((s.dieLine d ln).write mask x m).byteAt i) : Stores s (s.setDieLine d ln l) ln mask x := by
  intro v a
  rw [levelByte_setDieLine]
  split
  · rename_i h
    obtain ⟨rfl, rfl⟩ := h
    rw [hl]
    exact (line_write_stores (s := s) (v := .die d) rfl mask x m).imp id fun h => ⟨rfl, h⟩
  · exact .inl rfl

theorem writeThrough_stores (s : State) (c k ln : Nat) (mask : BitVec 128) (x : BitVec 1024) :
    Stores s (s.writeThrough c k ln mask x) ln mask x := by
  unfold State.writeThrough
  simp only
  split
  · exact stores_trans (setDieLine_stores s _ ln fun i => landed_byteAt _ _ i) (devStore_stores _ k ln mask x)
  · exact devStore_stores s k ln mask x

theorem dieStore_stores (s : State) (c k ln : Nat) (cp : Bool) (mask : BitVec 128) (x : BitVec 1024) :
    Stores s (s.dieStore c k ln cp mask x) ln mask x := by
  unfold State.dieStore
  split
  · exact setDieLine_stores s _ ln fun _ => rfl
  · exact devStore_stores s k ln mask x

/-! ### What the stores leave -/

/-- A state in which only what a store may change has changed. -/
def StoreFrame (s t : State) : Prop :=
  t = { s with cores := t.cores, dies := t.dies, frame := t.frame, ringp := t.ringp, mem := t.mem,
               fw := { s.fw with marked := t.fw.marked } }

theorem devStore_frame (s : State) (k ln : Nat) (mask : BitVec 128) (x : BitVec 1024) : StoreFrame s (s.devStore k ln mask x) := by
  unfold State.devStore
  split
  · rfl
  · unfold State.setPartLine
    split <;> rfl

theorem writeThrough_frame (s : State) (c k ln : Nat) (mask : BitVec 128) (x : BitVec 1024) :
    StoreFrame s (s.writeThrough c k ln mask x) := by
  unfold State.writeThrough
  simp only
  split
  · exact devStore_frame _ k ln mask x
  · exact devStore_frame s k ln mask x

theorem dieStore_frame (s : State) (c k ln : Nat) (cp : Bool) (mask : BitVec 128) (x : BitVec 1024) :
    StoreFrame s (s.dieStore c k ln cp mask x) := by
  unfold State.dieStore
  split
  · rfl
  · exact devStore_frame s k ln mask x

/-! ### Write-backs, invalidations and releases -/

theorem l1_bytesFrom (s : State) (c ln : Nat) : BytesFrom s ln (s.l1Line c ln).dirty (s.l1Line c ln).data := by
  rintro a rfl hb
  exact ⟨.l1 c, .inr hb, rfl⟩

theorem die_bytesFrom (s : State) (d ln : Nat) : BytesFrom s ln (s.dieLine d ln).dirty (s.dieLine d ln).data := by
  rintro a rfl hb
  exact ⟨.die d, .inr hb, rfl⟩

/-- A line with fewer of its bytes held, in its own place. -/
theorem setL1Line_less_warmed {s : State} {c ln : Nat} {l : Line}
    (h : ∀ i, Held (l.byteAt i) → Held ((s.l1Line c ln).byteAt i) ∧ (l.byteAt i).2.2 = ((s.l1Line c ln).byteAt i).2.2) :
    Warmed s (s.setL1Line c ln l) :=
  setL1Line_warmed fun a ha _ hh => ⟨.l1 c, by subst ha; exact (h _ hh).1, by subst ha; exact (h _ hh).2⟩

theorem setDieLine_less_warmed {s : State} {d ln : Nat} {l : Line}
    (h : ∀ i, Held (l.byteAt i) → Held ((s.dieLine d ln).byteAt i) ∧ (l.byteAt i).2.2 = ((s.dieLine d ln).byteAt i).2.2) :
    Warmed s (s.setDieLine d ln l) :=
  setDieLine_warmed fun a ha _ hh => ⟨.die d, by subst ha; exact (h _ hh).1, by subst ha; exact (h _ hh).2⟩

theorem flushL1Line_warmed (s : State) (tn c ln sc : Nat) : Warmed s (s.flushL1Line tn c ln sc) := by
  unfold State.flushL1Line
  simp only
  split
  · exact warmed_refl s
  · have hc : Warmed s (s.setL1Line c ln { s.l1Line c ln with dirty := 0 }) :=
      setL1Line_less_warmed fun i hh => ⟨hh.elim .inl fun h => by simp [Line.byteAt, bit] at h, rfl⟩
    have hw := fun n b x y => warmed_trans hc (countComp_warmed _ tn n b x y)
    split
    · exact warmed_stores (hw _ _ _ _) (l1_bytesFrom s c ln) (dieStore_stores _ _ _ _ _ _ _) (by
        rw [dieStore_frame])
    · exact warmed_stores (hw _ _ _ _) (l1_bytesFrom s c ln) (writeThrough_stores _ _ _ _ _ _) (by
        rw [writeThrough_frame])

theorem flushDieLine_warmed (s : State) (d ln : Nat) : Warmed s (s.flushDieLine d ln) := by
  unfold State.flushDieLine
  simp only
  split
  · exact warmed_refl s
  · have hc : Warmed s (s.setDieLine d ln { s.dieLine d ln with dirty := 0, owners := [], readers := 0 }) :=
      setDieLine_less_warmed fun i hh => ⟨hh.elim .inl fun h => by simp [Line.byteAt, bit] at h, rfl⟩
    exact warmed_stores hc (die_bytesFrom s d ln) (homeWrite_stores _ ln _ _) (by unfold State.homeWrite; rfl)

theorem warmed_foldl {α : Type} {f : State → α → State} (hf : ∀ s x, Warmed s (f s x)) (l : List α) (s : State) :
    Warmed s (l.foldl f s) :=
  List.foldlRecOn (motive := fun t => Warmed s t) l f (warmed_refl s) fun _ h x _ => warmed_trans h (hf _ x)

theorem release_warmed (s : State) (tn c sc : Nat) : Warmed s (s.release tn c sc) := by
  unfold State.release
  simp only
  have h := warmed_foldl (fun s ln => flushL1Line_warmed s tn c ln sc) ((s.core c).l1.map Prod.fst) s
  split
  · exact warmed_refl s
  · split
    · exact h
    · refine warmed_trans h ?_
      exact warmed_foldl (fun _ _ => flushDieLine_warmed _ _ _) _ _

theorem dropClean_byteAt (l : Line) (i : Nat) (h : Held (l.dropClean.byteAt i)) :
    Held (l.byteAt i) ∧ (l.dropClean.byteAt i).2.2 = (l.byteAt i).2.2 := by
  unfold Line.dropClean at h ⊢
  split
  · rw [if_pos ‹_›, none_byteAt] at h
    simp [Held] at h
  · rw [if_neg ‹_›] at h
    exact ⟨.inr (h.elim id id), rfl⟩

@[simp] theorem dropClean_none : Line.none.dropClean = Line.none := rfl

/-- Lines that keep their dirty bytes alone, in the L1 of a core and in the cache of a die or in neither. -/
theorem warmed_dropped {s t : State} (hr : t = { s with cores := t.cores, dies := t.dies })
    (h1 : ∀ c ln, t.l1Line c ln = s.l1Line c ln ∨ t.l1Line c ln = (s.l1Line c ln).dropClean)
    (h2 : ∀ d ln, t.dieLine d ln = s.dieLine d ln ∨ t.dieLine d ln = (s.dieLine d ln).dropClean) : Warmed s t := by
  refine ⟨by rw [hr], fun v a _ hh => ⟨v, ?_⟩⟩
  cases v with
  | l1 c =>
    change Held ((t.l1Line c (a / 128)).byteAt (a % 128)) at hh
    change _ ∧ ((t.l1Line c (a / 128)).byteAt (a % 128)).2.2 = _
    rcases h1 c (a / 128) with h | h <;> rw [h] at hh ⊢
    · exact ⟨hh, rfl⟩
    · exact dropClean_byteAt _ _ hh
  | die d =>
    change Held ((t.dieLine d (a / 128)).byteAt (a % 128)) at hh
    change _ ∧ ((t.dieLine d (a / 128)).byteAt (a % 128)).2.2 = _
    rcases h2 d (a / 128) with h | h <;> rw [h] at hh ⊢
    · exact ⟨hh, rfl⟩
    · exact dropClean_byteAt _ _ hh
  | part k => rw [hr] at hh ⊢; exact ⟨hh, rfl⟩
  | home => rw [hr] at hh ⊢; exact ⟨hh, rfl⟩

theorem dropL1_warmed (s : State) (c : Nat) :
    Warmed s (s.setCore c { s.core c with l1 := SMap.mapSet Line.none Line.dropClean (s.core c).l1 }) := by
  refine warmed_dropped rfl (fun c' ln => ?_) fun _ _ => .inl rfl
  unfold State.l1Line
  rw [core_setCore]
  split
  · subst_vars
    exact .inr (get_mapSet dropClean_none _ _)
  · exact .inl rfl

theorem dropDie_warmed (s : State) (d : Nat) :
    Warmed s (s.setDie d { s.die d with dcache := SMap.mapSet Line.none Line.dropClean (s.die d).dcache }) := by
  refine warmed_dropped rfl (fun _ _ => .inl rfl) fun d' ln => ?_
  unfold State.dieLine
  rw [die_setDie]
  split
  · subst_vars
    exact .inr (get_mapSet dropClean_none _ _)
  · exact .inl rfl

theorem acquire_warmed (s : State) (c sc : Nat) : Warmed s (s.acquire c sc) := by
  unfold State.acquire
  simp only
  split
  · exact warmed_refl s
  · split
    · exact dropL1_warmed s c
    · exact warmed_trans (dropL1_warmed s c) (dropDie_warmed _ _)

/-! ### Loads -/

theorem fillTlbs_warmed (s : State) (c asid va : Nat) (r : WalkResult) (die : Bool) :
    Warmed s (s.fillTlbs c asid va r die).1 := by
  have hcore : ∀ (t : State) (l : List TlbEntry), Warmed t (t.setCore c { t.core c with tlb := l }) := fun t l =>
    warmed_of_lines rfl (fun c' => by rw [core_setCore]; split <;> simp [*]) (fun _ => rfl) rfl rfl rfl
  have hdie : ∀ (t : State) (l : List TlbEntry), Warmed t (t.setDie (dieOf c) { t.die (dieOf c) with tlb := l }) := fun t l =>
    warmed_of_lines rfl (fun _ => rfl) (fun d => by rw [die_setDie]; split <;> simp [*]) rfl rfl rfl
  unfold State.fillTlbs
  cases r with
  | fault k => exact warmed_refl s
  | leaf pte size =>
    cases die with
    | false => exact hcore s _
    | true => exact warmed_trans (hcore s _) (hdie _ _)

theorem translate_warmed (s : State) (c tn asid va : Nat) : Warmed s (s.translate c tn asid va).1 := by
  unfold State.translate
  simp only
  split
  · exact warmed_refl s
  · split
    · exact fillTlbs_warmed _ _ _ _ _ _
    · split
      · exact fillTlbs_warmed _ _ _ _ _ _
      · refine warmed_trans ?_ (fillTlbs_warmed _ _ _ _ _ _)
        exact warmed_of_lines rfl (fun _ => rfl) (fun _ => rfl) rfl rfl rfl

theorem fillDie_warmed (s : State) (tn d ln : Nat) (comp : Bool) :
    Warmed s (s.fillDie tn d ln comp).1 ∧ DataFrom s ln (s.fillDie tn d ln comp).2 := by
  have hdie : ∀ a, a / 128 = ln → (s.dieLine d ln).byteAt (a % 128) = s.levelByte (.die d) a := by
    rintro a rfl
    rfl
  unfold State.fillDie
  simp only
  split
  · exact ⟨warmed_refl s, dataFrom_level ‹_› hdie⟩
  · have hfill := fun a ha hh => fill_from (v := .die d) hdie (dataFrom_home s ln) a ha hh
    have hm : Warmed s ((s.bump tn 7 d 1).homeMiss tn (128 * ln)) := warmed_trans (bump_warmed _ _ _ _ _) (homeMiss_warmed _ _ _)
    refine ⟨warmed_trans hm (setDieLine_warmed fun a ha hh _ => ?_), fun a ha hh => hfill a ha hh⟩
    have hh' : ¬ s.hotByte a := fun hx => hh ((hotByte_of_tenants (warmed_tenants hm) a).2 hx)
    obtain ⟨v, hv, he⟩ := hfill a ha hh'
    have hlev : ((s.bump tn 7 d 1).homeMiss tn (128 * ln)).levelByte v a = s.levelByte v a := homeMiss_level (s.bump tn 7 d 1) _ _ hh'
    exact ⟨v, by rw [hlev]; exact hv, by rw [hlev]; exact he⟩

theorem noteReader_warmed (s : State) (c ln : Nat) : Warmed s (s.noteReader c ln) := by
  unfold State.noteReader
  simp only
  split
  · exact warmed_refl s
  · exact setDieLine_less_warmed fun i hh => ⟨hh, rfl⟩

theorem beyondL1_warmed (s : State) (c tn ln : Nat) (p : Page) :
    Warmed s (s.beyondL1 c tn ln p).1 ∧ DataFrom s ln (s.beyondL1 c tn ln p).2 := by
  unfold State.beyondL1
  split
  · obtain ⟨hw, hd⟩ := fillDie_warmed s tn (dieOf c) ln p.comp
    exact ⟨warmed_trans hw (warmed_trans (noteReader_warmed _ _ _) (countComp_warmed _ _ _ _ _ _)), hd⟩
  · exact devLine_warmed s tn p.kind ln

theorem passDie_warmed (s : State) (d ln : Nat) : Warmed s (s.passDie d ln) :=
  warmed_trans (flushDieLine_warmed s d ln) (setDieLine_less_warmed fun i hh => by simp [Held] at hh)

/-- The L1's line filled with data that the state holds. -/
theorem fillL1_warmed {s u : State} (c ln : Nat) {x : BitVec 1024} (p : Page) (h : Warmed s u) (hx : DataFrom s ln x) :
    Warmed s (u.setL1Line c ln (tagLine ((u.l1Line c ln).fill x) p)) := by
  refine ⟨by conv_rhs => rw [h.rest]
             exact congrArg (fun t : State => t.setL1Line c ln (tagLine ((u.l1Line c ln).fill x) p)) h.rest, fun v a ha hh => ?_⟩
  rw [levelByte_setL1Line] at hh ⊢
  split
  · rename_i hc
    obtain ⟨rfl, rfl⟩ := hc
    rw [tagLine_byteAt, fill_byteAt _ _ (by omega)]
    by_cases hd : bit (u.l1Line c (a / 128)).dirty (a % 128) = true
    · simp only [hd, if_true]
      exact h.bytes (.l1 c) a ha (.inr hd)
    · simp only [hd, Bool.false_eq_true, if_false]
      exact hx a rfl ha
  · rename_i hc
    rw [if_neg hc] at hh
    exact h.bytes v a ha hh

theorem gLoad_warmed (s : State) (c tn sc : Nat) (p : Page) (n : Nat) : Warmed s (s.gLoad c tn sc p n).1 := by
  have ht := touch_warmed s p.pa n
  unfold State.gLoad
  simp only
  generalize s.touch p.pa n = t at ht
  split
  · split
    · exact ht
    · obtain ⟨hw, hd⟩ := beyondL1_warmed (t.bump tn 6 (dieOf c) 1) c tn (p.pa / 128) p
      exact warmed_trans ht (warmed_trans (bump_warmed t _ _ _ _) (fillL1_warmed c _ p hw hd))
  · have hf := warmed_trans ht (flushL1Line_warmed t tn c (p.pa / 128) sc)
    generalize t.flushL1Line tn c (p.pa / 128) sc = u at hf
    split_ifs with h2 hk
    · obtain ⟨hw, hd⟩ := beyondL1_warmed u c tn (p.pa / 128) p
      exact warmed_trans hf (fillL1_warmed c _ p hw hd)
    · have hp := passDie_warmed u (dieOf c) (p.pa / 128)
      obtain ⟨hw, hd⟩ := devLine_warmed (u.passDie (dieOf c) (p.pa / 128)) tn 0 (p.pa / 128)
      exact warmed_trans (warmed_trans hf hp) (fillL1_warmed c _ p (warmed_trans hw (countComp_warmed _ _ _ _ _ _)) hd)
    · obtain ⟨hw, hd⟩ := devLine_warmed u tn p.kind (p.pa / 128)
      exact warmed_trans hf (fillL1_warmed c _ p hw hd)

theorem gLoadList_warmed (s : State) (c tn sc : Nat) (p : Page) (n : Nat) : Warmed s (s.gLoadList c tn sc p n).1 :=
  List.foldlRecOn (motive := fun r : State × List Byte => Warmed s r.1) _ _ (warmed_refl s)
    fun _ h _ _ => warmed_trans h (gLoad_warmed _ _ _ _ _ _)

/-- The units of a load make up its length. -/
theorem gLoadList_length (s : State) (c tn sc : Nat) (p : Page) (n : Nat) : (s.gLoadList c tn sc p n).2.length = n := by
  have fold : ∀ k, 16 * k < n + 16 → ((List.range k).foldl (fun (a : State × List Byte) i =>
      let k := min 16 (n - 16 * i)
      let r := a.1.gLoad c tn sc (p.at (16 * i)) k
      (r.1, a.2 ++ leBytes k r.2)) (s, [])).2.length = min (16 * k) n := by
    intro k
    induction k with
    | zero => intro _; simp
    | succ k ih =>
      intro hk
      rw [List.range_succ, List.foldl_append]
      simp only [List.foldl_cons, List.foldl_nil, List.length_append, leBytes_length]
      rw [ih (by omega)]
      omega
  have h := fold ((n + 15) / 16) (by omega)
  exact h.trans (by omega)

end Sys2Proof.Laws

end

section
/-!
SUPPORT. Thread states: the threads of the head run, what an instruction that changes them leaves of its warp, and of its group's
queues and barriers.
-/

namespace Sys2Proof.Machine

/-- The head run of the environment is its warp's, and the active threads lie in it. -/
structure TEnv.Heads (e : TEnv) : Prop where
  run : e.w.headRun = some (e.pc, e.run)
  act : ∀ th, bit e.act th = true → bit e.run th = true

/-- The barriers of clusters and grids alone have changed, each by the end of a phase. -/
structure BarsOnly (s t : State) : Prop where
  rest : t = { s with lu := { s.lu with clBars := t.lu.clBars, gdBars := t.lu.gdBars } }
  cl : OnlyFlips s.lu.clBars t.lu.clBars
  gd : OnlyFlips s.lu.gdBars t.lu.gdBars

end Sys2Proof.Machine

namespace Sys2Proof.Laws

open Sys2Proof.Machine

/-! ### Masks -/

theorem bit_maskOf {w n : Nat} {p : Nat → Bool} {i : Nat} : bit (maskOf w n p) i = (decide (i < n) && decide (i < w) && p i) := by
  induction n with
  | zero => simp [maskOf, bit]
  | succ n ih =>
    unfold maskOf at ih ⊢
    rw [List.range_succ, List.foldl_append, List.foldl_cons, List.foldl_nil]
    by_cases hi : i = n
    · subst hi
      split
      · simp only [bit, BitVec.getLsbD_or] at ih ⊢
        rw [ih]
        simp [*]
        omega
      · rw [ih]
        simp [*]
    · have hlt : (i < n + 1) ↔ (i < n) := by omega
      split
      · simp only [bit, BitVec.getLsbD_or] at ih ⊢
        rw [ih]
        have : ¬ (i < w ∧ i - n = 0 ∧ n ≤ i) := by omega
        by_cases hw : i < w <;> by_cases hn : i < n <;> simp [hw, hn, hlt]
        omega
      · rw [ih]
        simp only [hlt]

theorem bit_and {w : Nat} (a b : BitVec w) (i : Nat) : bit (a &&& b) i = (bit a i && bit b i) := BitVec.getLsbD_and

theorem bit_or {w : Nat} (a b : BitVec w) (i : Nat) : bit (a ||| b) i = (bit a i || bit b i) := BitVec.getLsbD_or

/-! ### The environment of an issue -/

theorem tEnv_heads {s : State} {op : Nat} {i : TWord} {e : TEnv} (h : s.tEnv op i = some e) : e.Heads ∧ e.op = op := by
  unfold State.tEnv at h
  split at h
  · split at h
    · cases h
    · split at h
      · cases h
      · split at h
        · cases h
        · cases h
          exact ⟨⟨‹_›, fun th ht => by rw [bit_and, Bool.and_eq_true] at ht; exact ht.1⟩, rfl⟩
  · cases h

/-- A pop takes nothing from the warp. -/
theorem tPopped_eq {e0 e : TEnv} (h : e0.popped = some e) : e = { e0 with g := e.g, q := e.q } := by
  unfold TEnv.popped at h
  split at h
  · cases h; rfl
  · split at h
    · cases h; rfl
    · split at h
      · cases h
      · cases h; rfl

theorem tReady_heads {s : State} {op : Nat} {i : TWord} {e : TEnv} (h : s.tReady op i = some e) : e.Heads ∧ e.op = op := by
  unfold State.tReady at h
  split at h
  · cases h
  · rename_i e0 h0
    obtain ⟨e1, hp, h1⟩ := Option.bind_eq_some_iff.1 h
    split at h1
    · cases h1
    · cases h1
      obtain ⟨⟨hr, ha⟩, ho⟩ := tEnv_heads h0
      rw [tPopped_eq hp]
      exact ⟨⟨hr, ha⟩, ho⟩

/-! ### Threads -/

/-- A table of threads changed thread by thread, where the change leaves an unlisted thread. -/
theorem thread_mapv {w : Warp} {f : Nat → TState → TState} {th : Nat} (h : SMap.find w.threads th = none → f th .exited = .exited) :
    ({ w with threads := SMap.mapv f w.threads } : Warp).thread th = f th (w.thread th) := by
  unfold Warp.thread SMap.get
  rw [find_mapv]
  cases hf : SMap.find w.threads th with
  | none => exact (h hf).symm
  | some x => rfl

theorem table_mem {w : Warp} {t pc : Nat} (h : (t, pc) ∈ w.table) : ∃ x, (t, x) ∈ w.threads := by
  obtain ⟨p, hp, hx⟩ := List.mem_filterMap.1 h
  split at hx
  · split at hx
    · cases hx
    · cases hx
      exact ⟨p.2, hp⟩
  · cases hx

theorem find_isSome_of_mem {α : Type} {m : SMap α} {n : Nat} {x : α} (h : (n, x) ∈ m) : (SMap.find m n).isSome = true := by
  induction m with
  | nil => cases h
  | cons p t ih =>
    obtain ⟨k, v⟩ := p
    rw [find_cons]
    split
    · rfl
    · rcases List.mem_cons.1 h with h | h
      · cases h; contradiction
      · exact ih h

/-- The threads of the head run are listed. -/
theorem headRun_listed {w : Warp} {pc : Nat} {run : BitVec 32} (h : w.headRun = some (pc, run)) {th : Nat} (ht : bit run th = true) :
    (SMap.find w.threads th).isSome = true := by
  unfold Warp.headRun at h
  split at h
  · cases h
  · cases h
    rw [bit_or, Bool.or_eq_true] at ht
    rcases ht with ht | ht
    · rw [bit_maskOf, Bool.and_eq_true] at ht
      obtain ⟨x, hx⟩ := table_mem (by simpa using ht.2)
      exact find_isSome_of_mem hx
    · rw [bit_maskOf] at ht
      simp only [Bool.and_eq_true] at ht
      have hh := ht.2.1.1
      unfold Warp.thread SMap.get at hh
      cases hf : SMap.find w.threads th with
      | none => rw [hf] at hh; cases hh
      | some x => rfl

theorem unlisted_of_exited {w : Warp} (h : w.exited = true) (th : Nat) : (w.thread th).isLive = false := by
  unfold Warp.thread SMap.get
  cases hf : SMap.find w.threads th with
  | none => rfl
  | some x =>
    have := List.all_eq_true.1 h _ (mem_of_find hf)
    simpa using this

/-- Changed threads that live where they lived leave the warp exited or not. -/
theorem all_mapv {f : Nat → TState → TState} (hf : ∀ t x, (f t x).isLive = x.isLive) (q : Nat → Bool) (m : SMap TState) :
    (SMap.mapv f m).all (fun p => !p.2.isLive || q p.1) = m.all fun p => !p.2.isLive || q p.1 := by
  unfold SMap.mapv
  rw [List.all_map]
  congr 1
  funext p
  simp [hf]

theorem exited_mapv {f : Nat → TState → TState} (hf : ∀ t x, (f t x).isLive = x.isLive) (m : SMap TState) :
    (SMap.mapv f m).all (fun p => !p.2.isLive) = m.all fun p => !p.2.isLive := by
  simpa using all_mapv hf (fun _ => false) m

theorem settleQuads_thread (w : Warp) (th : Nat) : Settled w.thread th (w.settleQuads.thread th) := by
  have hq : ((List.range 4).any fun i => (w.thread (4 * (th / 4) + i)).isLive) = true ↔ quadAlive w.thread th := by
    simp [quadAlive, List.any_eq_true]
  have ht := thread_mapv (w := w) (f := fun t x => if x.isHelper && !(List.range 4).any (fun i => (w.thread (4 * (t / 4) + i)).isLive)
    then .exited else x) (th := th) fun _ => by simp [TState.isHelper]
  change Warp.thread (Warp.settleQuads w) th = _ at ht
  rw [ht]
  refine ⟨fun h ha => ?_, fun h ha => ?_, fun h => ?_⟩
  · rw [← hq] at ha
    rw [h, ha]
    rfl
  · rw [← hq, Bool.not_eq_true] at ha
    rw [h, ha]
    rfl
  · cases hw : w.thread th with
    | helper => exact absurd hw h
    | live q => rfl
    | exited => rfl

theorem settleQuads_isLive (w : Warp) (th : Nat) : (w.settleQuads.thread th).isLive = (w.thread th).isLive := by
  obtain ⟨h1, h2, h3⟩ := settleQuads_thread w th
  by_cases hh : w.thread th = .helper
  · by_cases ha : quadAlive w.thread th
    · rw [h1 hh ha, hh]
    · rw [h2 hh ha, hh]; rfl
  · rw [h3 hh]

theorem settleQuads_exited (w : Warp) : w.settleQuads.exited = w.exited := by
  have hf : ∀ (a : Nat → Bool) (t : Nat) (x : TState), (if x.isHelper && !a (t / 4) then .exited else x : TState).isLive = x.isLive := by
    intro a t x
    cases x with
    | helper => simp only [TState.isHelper, Bool.true_and]; split <;> rfl
    | live q => rfl
    | exited => rfl
  exact exited_mapv (hf fun q => (List.range 4).any fun i => (w.thread (4 * q + i)).isLive) w.threads

/-! ### Registers that are free -/

theorem unmap_zero (n : Nat) : Regs.zero.unmap n = Regs.zero := by
  simp [Regs.unmap, Regs.zero, setBit]

theorem drop_zero (e : TEnv) : e.drop Regs.zero = Regs.zero := by
  unfold TEnv.drop
  split
  · exact List.foldlRecOn (motive := fun r => r = Regs.zero) _ _ rfl fun _ h n _ => by rw [h]; exact unmap_zero n
  · rfl

/-! ### Barriers after a warp's threads have changed -/

theorem onlyFlips_refl (m : SMap Barrier) : OnlyFlips m m := fun _ => .inl rfl

theorem onlyFlips_trans {m m' m'' : SMap Barrier} (h1 : OnlyFlips m m') (h2 : OnlyFlips m' m'') : OnlyFlips m m'' := by
  intro k
  rcases h1 k with h1 | ⟨ha, h1⟩
  · have := h2 k
    rwa [h1] at this
  · rcases h2 k with h2 | ⟨hb, -⟩
    · exact .inr ⟨ha, h2.trans h1⟩
    · rw [h1] at hb
      exact absurd rfl hb

theorem get_put {α : Type} (d : α) (m : SMap α) (n k : Nat) (x : α) :
    SMap.get d (SMap.put m n x) k = if k = n then x else SMap.get d m k := by
  unfold SMap.get
  rw [find_put]
  split <;> rfl

theorem onlyFlips_put (m : SMap Barrier) (k : Nat) (h : (SMap.get Barrier.zero m k).arrived ≠ []) :
    OnlyFlips m (SMap.put m k (SMap.get Barrier.zero m k).flip) := by
  intro j
  simp only [get_put]
  split
  · subst_vars
    exact .inr ⟨h, rfl⟩
  · exact .inl rfl

theorem barsOnly_refl (s : State) : BarsOnly s s := ⟨rfl, onlyFlips_refl _, onlyFlips_refl _⟩

theorem barsOnly_trans {s t u : State} (h1 : BarsOnly s t) (h2 : BarsOnly t u) : BarsOnly s u :=
  ⟨by rw [h2.rest, h1.rest], onlyFlips_trans h1.cl h2.cl, onlyFlips_trans h1.gd h2.gd⟩

theorem barsOnly_foldl {α : Type} {f : State → α → State} (hf : ∀ s x, BarsOnly s (f s x)) (l : List α) (s : State) :
    BarsOnly s (l.foldl f s) :=
  List.foldlRecOn (motive := fun t => BarsOnly s t) l f (barsOnly_refl s) fun _ h x _ => barsOnly_trans h (hf _ x)

theorem settleCl_barsOnly (s : State) (g : Group) (i : Nat) : BarsOnly s (s.settleCl g i) := by
  unfold State.settleCl
  simp only
  split
  · exact barsOnly_refl s
  · split
    · rename_i h _
      exact ⟨rfl, onlyFlips_put _ _ (by simpa using h), onlyFlips_refl _⟩
    · exact barsOnly_refl s

theorem settleGd_barsOnly (s : State) (num i : Nat) : BarsOnly s (s.settleGd num i) := by
  unfold State.settleGd
  simp only
  split
  · exact barsOnly_refl s
  · split
    · exact barsOnly_refl s
    · split
      · rename_i h _
        exact ⟨rfl, onlyFlips_refl _, onlyFlips_put _ _ (by simpa using h)⟩
      · exact barsOnly_refl s

/-- A barrier of a group once it is settled: flipped where it is one of the first n and its members have arrived. -/
def settledBar (g : Group) (n k : Nat) : Barrier :=
  let b := SMap.get Barrier.zero g.bars k
  if k < n ∧ b.arrived ≠ [] ∧ g.arrived b (g.barMask k) = true then { phase := !b.phase, arrived := [] } else b

theorem settleBar_bars (g : Group) (i k : Nat) : SMap.get Barrier.zero (g.settleBar i).bars k =
    if k = i then settledBar g (i + 1) i else SMap.get Barrier.zero g.bars k := by
  unfold Group.settleBar settledBar
  by_cases ha : (SMap.get Barrier.zero g.bars i).arrived = []
  · simp only [ha, List.isEmpty_nil, if_true, ne_eq, not_true_eq_false, false_and, and_false, if_false]
    split
    · subst_vars; rfl
    · rfl
  · by_cases hb : g.arrived (SMap.get Barrier.zero g.bars i) (g.barMask i) = true
    · simp [ha, hb, get_put, Barrier.flip]
    · simp only [List.isEmpty_iff, ha, hb, if_false, and_false, Bool.false_eq_true]
      split
      · subst_vars; rfl
      · rfl

theorem settleBar_eq (g : Group) (i : Nat) : g.settleBar i = { g with bars := (g.settleBar i).bars } := by
  unfold Group.settleBar
  simp only
  split
  · rfl
  · split <;> rfl

theorem settleBars (g : Group) (n : Nat) :
    (List.range n).foldl (fun g i => g.settleBar i) g = { g with bars := ((List.range n).foldl (fun g i => g.settleBar i) g).bars } ∧
    ∀ k, SMap.get Barrier.zero ((List.range n).foldl (fun g i => g.settleBar i) g).bars k = settledBar g n k := by
  induction n with
  | zero => exact ⟨rfl, fun k => by simp [settledBar]⟩
  | succ n ih =>
    obtain ⟨he, hb⟩ := ih
    rw [List.range_succ, List.foldl_append, List.foldl_cons, List.foldl_nil]
    set x := (List.range n).foldl (fun g i => g.settleBar i) g
    refine ⟨(settleBar_eq x n).trans (congrArg (fun y : Group => { y with bars := (x.settleBar n).bars }) he), fun k => ?_⟩
    rw [settleBar_bars]
    have hx : ∀ b m, x.arrived b m = g.arrived b m := fun b m => by rw [he]; rfl
    have hm : ∀ i, x.barMask i = g.barMask i := fun i => by rw [he]; rfl
    have hn : SMap.get Barrier.zero x.bars n = SMap.get Barrier.zero g.bars n := by
      rw [hb]
      simp [settledBar]
    by_cases hk : k = n
    · subst hk
      rw [if_pos rfl]
      unfold settledBar
      simp only [hn, hm, hx]
    · rw [if_neg hk, hb]
      unfold settledBar
      have : k < n + 1 ↔ k < n := by omega
      simp only [this]

/-- What settling a group's barriers leaves of the state and of the group. -/
theorem settleAll_spec {s : State} {g : Group} (hg : s.group? g.uid = some g) :
    ∃ m, (∀ k, SMap.get Barrier.zero m k = settledBar g 16 k) ∧ BarsOnly (s.setGroup { g with bars := m }) (s.settleAll g.uid) := by
  obtain ⟨he, hb⟩ := settleBars g 16
  refine ⟨_, hb, ?_⟩
  rw [← he]
  unfold State.settleAll State.anyGroup
  simp only [hg]
  exact barsOnly_trans (barsOnly_foldl (fun s i => settleCl_barsOnly s g i) _ _)
    (barsOnly_foldl (fun s i => settleGd_barsOnly s g.grid i) _ _)

/-- What `afterThreads` leaves of the state, and of the group whose warp it puts back. -/
theorem afterThreads_spec {s : State} {g : Group} (slot : Nat) (w : Warp) (hg : s.group? g.uid = some g) :
    ∃ x, x = { g.setWarp slot w with queues := g.queues.retire (g.setWarp slot w).liveSet, bars := x.bars } ∧
      (∀ k, SMap.get Barrier.zero x.bars k = settledBar (g.setWarp slot w) 16 k) ∧
      (s.afterThreads g.uid slot w).group? g.uid = some x ∧
      (∀ uid, uid ≠ g.uid → (s.afterThreads g.uid slot w).group? uid = s.group? uid) ∧
      BarsOnly { s with groups := (s.afterThreads g.uid slot w).groups } (s.afterThreads g.uid slot w) := by
  let gr : Group := { g.setWarp slot w with queues := g.queues.retire (g.setWarp slot w).liveSet }
  let s1 : State := (s.setGroup (g.setWarp slot w)).setGroup gr
  have hat : s.afterThreads g.uid slot w = s1.settleAll g.uid := by
    unfold State.afterThreads
    have hfirst : (s.setGroup (g.setWarp slot w)).group? g.uid = some (g.setWarp slot w) := setGroup_self _ _
    simp only [setWarp_of_group hg, hfirst]
    rfl
  obtain ⟨m, hm, hb⟩ := settleAll_spec (s := s1) (g := gr) (setGroup_self _ _)
  rw [hat]
  change BarsOnly _ (s1.settleAll g.uid) at hb
  have hgrp : (s1.settleAll g.uid).groups = (s1.setGroup { gr with bars := m }).groups := by rw [hb.rest]
  have hof : ∀ uid, (s1.settleAll g.uid).group? uid = (s1.setGroup { gr with bars := m }).group? uid := fun uid => by
    unfold State.group?
    rw [hgrp]
  refine ⟨{ gr with bars := m }, rfl, hm, ?_, fun uid hne => ?_, ?_, hb.cl, hb.gd⟩
  · rw [hof]
    exact setGroup_self s1 { gr with bars := m }
  · rw [hof]
    exact (setGroup_other s1 { gr with bars := m } hne).trans <| (setGroup_other _ gr hne).trans (setGroup_other _ (g.setWarp slot w) hne)
  · rw [hgrp]
    exact hb.rest

end Sys2Proof.Laws

end

section
/-!
SUPPORT. Thread states, continued: a T instruction that has given threads new states completes as `TEnv.Rethreads` says.
-/

namespace Sys2Proof.Machine

/-- The mode of a warp whose threads have all ended: its routine has ended too (R18, R228). -/
def RunMode.ended (m : RunMode) : RunMode := match m with | .saving n => .saved n | .restoring _ => .running | m => m

/-- What a warp whose threads have all ended keeps of the threads noted at its stop. -/
def RunMode.endedStop (m : RunMode) (l : SMap TState) : SMap TState := match m with | .restoring _ => [] | _ => l

/-- A warp counts as arrived in a barrier by the threads that it had at its stop, where a save routine runs in it (R143, R228). -/
def Warp.arrivedIn (w : Warp) (b : Barrier) (uid slot : Nat) : Bool :=
  match w.mode with
  | .saving _ | .saved _ => b.arrivedBy uid slot { w with threads := w.stop }
  | _ => b.arrivedBy uid slot w

/-- The warp v comes of the warp w1 by giving its threads the states f: a warp without a live thread has ended. -/
structure TEnv.Rethreaded (e : TEnv) (v w1 : Warp) (f : Nat → TState) : Prop where
  rest : v = { w1 with threads := v.threads, safecnt := v.safecnt, regs := if v.exited then Regs.zero else w1.regs,
                       mode := if v.exited then e.w.mode.ended else w1.mode,
                       stop := if v.exited then e.w.mode.endedStop w1.stop else w1.stop }
  settled : ∀ th, Settled f th (v.thread th)
  safecnt : (if safeOps.contains e.op then v.safecnt else countIssue v.safecnt) = if e.op = 0x46 then 0 else countIssue e.w.safecnt
  push : w1.pushDue = e.w.pushDue

end Sys2Proof.Machine

namespace Sys2Proof.Laws

open Sys2Proof.Machine

/-! ### Groups that differ in a warp's threads alone -/

theorem liveSet_congr {g g' : Group} (hl : g'.ln = g.ln) (h : ∀ k, (g'.warp? k).map Warp.gone = (g.warp? k).map Warp.gone) :
    g'.liveSet = g.liveSet := by
  unfold Group.liveSet
  rw [hl]
  congr 1
  funext k
  have hk := h k
  cases h1 : g'.warp? k <;> cases h2 : g.warp? k <;> rw [h1, h2] at hk <;> simp_all

theorem arrived_eq (g : Group) (b : Barrier) (mask : Nat) : g.arrived b mask =
    (!g.warps.isEmpty && (List.range g.ln.warps).all fun k =>
      (mask / 2 ^ k) % 2 == 0 || ((g.warp? k).map fun w => w.arrivedIn b g.uid k).getD true) := by
  unfold Group.arrived
  congr 2
  funext k
  congr 1
  cases g.warp? k with
  | none => rfl
  | some w => simp only [Option.map_some, Option.getD_some, Warp.arrivedIn]; cases w.mode <;> rfl

theorem arrived_congr {g g' : Group} (hl : g'.ln = g.ln) (hu : g'.uid = g.uid) (he : g'.warps.isEmpty = g.warps.isEmpty)
    (h : ∀ b uid k, (g'.warp? k).map (fun w => w.arrivedIn b uid k) = (g.warp? k).map fun w => w.arrivedIn b uid k)
    (b : Barrier) (mask : Nat) : g'.arrived b mask = g.arrived b mask := by
  rw [arrived_eq, arrived_eq, hl, hu, he]
  simp only [h]

theorem warps_isEmpty_of_find {g : Group} {k : Nat} {w : Warp} (h : g.warp? k = some w) : g.warps.isEmpty = false := by
  cases hw : g.warps with
  | nil =>
    unfold Group.warp? at h
    rw [hw] at h
    cases h
  | cons p t => rfl

/-! ### Queues -/

theorem retire_bcast (q : Queues) (live : BitVec 32) (n : Nat) :
    (q.retire live).bcast n = (q.bcast n).filter fun x => live &&& ~~~x.pops != 0 := by
  unfold Queues.bcast
  split <;> rfl

/-- A push changes the gathering queues alone. -/
theorem pushT_queues {g g' : Group} {n slot : Nat} (h : g.pushT n slot = some g') :
    g'.queues = { g.queues with g4 := g'.queues.g4, g5 := g'.queues.g5 } := by
  have hset : ∀ l, g.queues.setGath n l = { g.queues with g4 := (g.queues.setGath n l).g4, g5 := (g.queues.setGath n l).g5 } := by
    intro l
    unfold Queues.setGath
    split <;> rfl
  unfold Group.pushT at h
  simp only at h
  split at h
  · cases h
    exact hset _
  · split at h
    · cases h
      exact hset _
    · cases h

theorem done_queues {e : TEnv} {s1 t : State} {g1 g' : Group} {w1 w' : Warp} {red : BitVec 32} (h : e.Done s1 g1 w1 red t g' w') :
    g'.queues = { g1.queues with g4 := g'.queues.g4, g5 := g'.queues.g5 } := by
  have hp := h.push
  split at hp
  · rw [hp.1]
  · split at hp
    · rename_i hq
      rw [hp.1]
      exact pushT_queues hq
    · rw [hp.1]

/-! ### The warp that a completed instruction leaves -/

/-- Its list of threads, which `TEnv.Done` gives thread by thread. -/
theorem finish_threads {e : TEnv} {s : State} {g g' : Group} {w w' : Warp} {red : BitVec 32} (hg : s.group? e.g.uid = some g)
    (hu : g.uid = e.g.uid) (hg' : (e.finish s w red).group? e.g.uid = some g') (hw' : g'.warp? e.slot = some w') :
    w'.threads = (e.complete w red).threads := by
  unfold TEnv.finish at hg'
  rw [setWarp_of_group hg] at hg'
  set g1 := g.setWarp e.slot (e.complete w red) with hg1
  have hu1 : g1.uid = e.g.uid := hu
  have hgrp : ((s.setGroup g1).bump e.g.tenant 10 e.g.core 1).group? g1.uid = some g1 := by simp
  have hw1 : g1.warp? e.slot = some (e.complete w red) := by simp [hg1]
  clear_value g1
  rw [← hu1] at hg'
  rcases pushDone_cases _ g1 e.slot e.i.pushq.toNat _ hgrp hw1 with ⟨-, h⟩ | ⟨-, x, hp, h⟩ | ⟨-, -, h⟩
  · rw [h, hgrp] at hg'
    cases hg'
    rw [hw1] at hw'
    cases hw'
    rfl
  · have hx := pushT_eq hp
    have hux : x.uid = g1.uid := by rw [hx]
    rw [h, ← hux, setGroup_self] at hg'
    cases hg'
    have hww : g'.warp? e.slot = g1.warp? e.slot := by rw [hx]; rfl
    rw [hww, hw1] at hw'
    cases hw'
    rfl
  · rw [h, ← setWarp_uid g1 e.slot, setGroup_self] at hg'
    cases hg'
    rw [warp_setWarp_self] at hw'
    cases hw'
    rfl

/-- An advance moves live threads on and leaves them live. -/
theorem complete_all (e : TEnv) (w : Warp) (red : BitVec 32) (q : Nat → Bool) :
    (e.complete w red).threads.all (fun p => !p.2.isLive || q p.1) = w.threads.all fun p => !p.2.isLive || q p.1 := by
  have hf : ∀ (t : Nat) (x : TState), (match x with
      | .live p => if bit (e.run &&& ~~~red) t && p.toNat == e.pc then .live (BitVec.ofNat 32 (e.pc + tBytes e.i)) else x
      | y => y : TState).isLive = x.isLive := by
    intro t x
    cases x with
    | live p => simp only; split <;> rfl
    | _ => rfl
  exact all_mapv hf q w.threads

theorem complete_exited {e : TEnv} {w w' : Warp} {red : BitVec 32} (h : w'.threads = (e.complete w red).threads) :
    w'.exited = w.exited := by
  unfold Warp.exited
  rw [h]
  simpa using complete_all e w red fun _ => false

/-! ### Completion -/

/-- The group that a completed instruction leaves differs from the group before in no warp's standing. -/
theorem done_standing {e : TEnv} {s1 t : State} {g1 g' : Group} {w1 w' : Warp} {red : BitVec 32} (h : e.Done s1 g1 w1 red t g' w')
    (hg1 : g1.warp? e.slot = some w1) (ht : w'.threads = (e.complete w1 red).threads) :
    g'.liveSet = g1.liveSet ∧ ∀ b mask, g'.arrived b mask = g1.arrived b mask := by
  have hmode : w'.mode = w1.mode := by rw [h.warp]
  have hstop : w'.stop = w1.stop := by rw [h.warp]
  have hex : w'.exited = w1.exited := complete_exited ht
  have hgone : w'.gone = w1.gone := by
    unfold Warp.gone
    rw [hmode, hex]
  have harr : ∀ b uid, w'.arrivedIn b uid e.slot = w1.arrivedIn b uid e.slot := by
    intro b uid
    unfold Warp.arrivedIn Barrier.arrivedBy
    rw [hmode, hstop, ht]
    cases w1.mode with
    | running => exact complete_all e w1 red _
    | restoring n => exact complete_all e w1 red _
    | saving n => rfl
    | saved n => rfl
  have hk : ∀ {β : Type} (f : Warp → β) k, (k = e.slot → f w' = f w1) → (g'.warp? k).map f = (g1.warp? k).map f := by
    intro β f k hf
    by_cases hk : k = e.slot
    · rw [hk, h.slot, hg1, Option.map_some, Option.map_some, hf hk]
    · rw [h.mates k hk]
  refine ⟨liveSet_congr (by rw [h.group]) fun k => hk _ k fun _ => hgone, arrived_congr (by rw [h.group]) (by rw [h.group]) ?_ ?_⟩
  · rw [warps_isEmpty_of_find h.slot, warps_isEmpty_of_find hg1]
  · exact fun b uid k => hk _ k fun hk => by rw [hk]; exact harr b uid

/-- An instruction whose warp has come to v completes, and its group's queues and barriers are settled. The state s0 is the one
before the group was put back with its pop. -/
theorem rethreads_of_finish {e : TEnv} {s0 s1 : State} {v w1 : Warp} {red : BitVec 32} {f : Nat → TState}
    (hg : s1.group? e.g.uid = some e.g) (ho : ∀ uid, uid ≠ e.g.uid → s1.group? uid = e.s.group? uid)
    (hs : s1 = { s0 with groups := s1.groups }) (hlu : s1.lu = e.s.lu) (h : e.Rethreaded v w1 f) :
    e.Rethreads (.next (e.finish (s1.afterThreads e.g.uid e.slot v) v red)) s0 w1 red f := by
  obtain ⟨x, hx, hbars, hxg, hxo, hb⟩ := afterThreads_spec e.slot v hg
  generalize s1.afterThreads e.g.uid e.slot v = u at hxg hxo hb
  have hxu : x.uid = e.g.uid := by rw [hx]; rfl
  have hxw : x.warp? e.slot = some v := by rw [hx]; exact warp_setWarp_self _ _ _
  have hxm : ∀ k, k ≠ e.slot → x.warp? k = e.g.warp? k := fun k hk => by rw [hx]; exact warp_setWarp_other _ _ _ hk
  obtain ⟨g', w', hd⟩ := finish_done e u x v red hxg hxu
  have hth := finish_threads hxg hxu hd.here hd.slot
  have hex : w'.exited = v.exited := complete_exited hth
  obtain ⟨hlive, harr⟩ := done_standing hd hxw hth
  have hxlive : x.liveSet = (e.g.setWarp e.slot v).liveSet := by rw [hx]; rfl
  have hxarr : ∀ b mask, x.arrived b mask = (e.g.setWarp e.slot v).arrived b mask := fun b mask => by rw [hx]; rfl
  have hq := done_queues hd
  have hxq : x.queues = e.g.queues.retire (e.g.setWarp e.slot v).liveSet := by rw [hx]
  have hsafe : w'.safecnt = if e.op = 0x46 then 0 else countIssue e.w.safecnt := hd.safecnt.trans h.safecnt
  have hregs : e.drop (if v.exited = true then Regs.zero else w1.regs) = if v.exited = true then Regs.zero else e.drop w1.regs := by
    split
    · exact drop_zero e
    · rfl
  refine ⟨_, g', w', rfl, ?_, fun uid hne => ?_, hd.here, ?_, hd.slot, fun k hk => ?_, fun th => ⟨_, h.settled th, hd.pcs th⟩, ?_,
    ⟨fun n y => ?_, ?_⟩, fun k => ?_, ?_, ?_, fun hp => ?_⟩
  · have hr := hd.rest
    generalize e.finish u v red = t at hr
    rw [hr, hb.rest, hs]
  · exact (hd.others uid hne).trans ((hxo uid hne).trans (ho uid hne))
  · rw [hd.group, hx]
    rfl
  · exact (hd.mates k hk).trans (hxm k hk)
  · have h2 := congrArg (fun y : Warp => { y with
      regs := e.drop y.regs, threads := w'.threads, safecnt := w'.safecnt, held := none,
      keptPop := if e.w.mode.routine then y.keptPop else none, synced := none, pushDue := w'.pushDue }) h.rest
    refine (hd.warp.trans h2).trans ?_
    simp only [hregs, hex, hsafe]
    rfl
  · have hbc : g'.queues.bcast n = x.queues.bcast n := by
      rw [hq]
      unfold Queues.bcast
      split <;> rfl
    rw [hbc, hxq, retire_bcast, List.mem_filter, hlive, hxlive, bne_iff_ne]
  · rw [hq, hxq]
    exact ⟨rfl, rfl, rfl⟩
  · have hbg : g'.bars = x.bars := by rw [hd.group]
    rw [hbg, hbars]
    unfold settledBar
    simp only [harr, hxarr]
    rfl
  · have hcl := hb.cl
    have : (e.finish u v red).lu = u.lu := by rw [hd.rest]
    rw [this]
    rw [hlu] at hcl
    exact hcl
  · have hgd := hb.gd
    have : (e.finish u v red).lu = u.lu := by rw [hd.rest]
    rw [this]
    rw [hlu] at hgd
    exact hgd
  · have hpd := hd.push
    rw [if_pos hp] at hpd
    obtain ⟨hpq, hpp⟩ := hpd
    rw [hpq, hxq, hpp, h.rest]
    exact ⟨rfl, rfl, h.push⟩

end Sys2Proof.Laws

end

section
/-!
SUPPORT. EXIT and SETPC: the states that they give their threads, the end of a restore routine, and obligation O7.
-/

namespace Sys2Proof.Machine

/-- A warp with its threads changed, its quads settled. -/
def Warp.changed (w : Warp) (f : Nat → TState → TState) : Warp := Warp.settleQuads { w with threads := SMap.mapv f w.threads }

/-- One word of a poison map taken into the registers, unless it is that of a name that is not mapped. -/
def takePoison (m : Nat → BitVec 32) (r : Regs) (n : Nat) : Regs := if n < 128 && !bit r.vmap n then r else r.setPoi n (m n)

/-- The warp out of its restore routine, with its poison from a map. -/
def TEnv.remap (e : TEnv) (bs : List Byte) : Warp :=
  Warp.lanes (Warp.fromMap { e.w with mode := .running, stop := [] } bs) e.g.kern.width

/-- The warp with other threads and another SAFECNT. -/
def TEnv.restated (e : TEnv) (l : SMap TState) (c : Word) : Warp := { e.w with threads := l, safecnt := c }

/-- The threads of a mask have the states f, their quads are settled, and SAFECNT is as EXIT or SETPC leaves it. -/
structure TEnv.Restates (e : TEnv) (l : SMap TState) (c : Word) (red : BitVec 32) (f : Nat → TState → TState) : Prop where
  settled : ∀ th, Settled (fun th => f th (e.w.thread th)) th ((e.restated l c).thread th)
  exited : (e.restated l c).exited = true ↔ ∀ p ∈ e.w.threads, (f p.1 p.2).isLive = false
  keeps : ∀ th, bit red th = false → ((e.restated l c).thread th).isLive = (e.w.thread th).isLive
  safecnt : (if safeOps.contains e.op then c else countIssue c) = if e.op = 0x46 then 0 else countIssue e.w.safecnt

end Sys2Proof.Machine

namespace Sys2Proof.Laws

open Sys2Proof.Machine

/-! ### Threads given new states -/

section
variable {w : Warp} {f : Nat → TState → TState} (hf : ∀ th, SMap.find w.threads th = none → f th .exited = .exited)
include hf

theorem changed_settled (th : Nat) : Settled (fun th => f th (w.thread th)) th ((w.changed f).thread th) := by
  have h := settleQuads_thread { w with threads := SMap.mapv f w.threads } th
  rwa [show Warp.thread { w with threads := SMap.mapv f w.threads } = fun th => f th (w.thread th) from
    funext fun th => thread_mapv (hf th)] at h

theorem changed_keeps {th : Nat} (h : ∀ x, f th x = x) : ((w.changed f).thread th).isLive = (w.thread th).isLive := by
  refine (settleQuads_isLive _ th).trans ?_
  rw [thread_mapv (hf th), h]

end

theorem changed_exited (w : Warp) (f : Nat → TState → TState) :
    (w.changed f).exited = true ↔ ∀ p ∈ w.threads, (f p.1 p.2).isLive = false := by
  unfold Warp.changed
  rw [settleQuads_exited]
  unfold Warp.exited SMap.mapv
  simp [List.all_eq_true]

theorem ifExited_eq (w : Warp) : w.ifExited =
    { w with regs := if w.exited then Regs.zero else w.regs, mode := if w.exited then w.mode.ended else w.mode } := by
  unfold Warp.ifExited
  cases w.exited
  · rfl
  · cases w.mode <;> rfl

/-! ### A poison map read back -/

theorem takePoison_frame (m : Nat → BitVec 32) (r : Regs) (n : Nat) :
    takePoison m r n = { r with poison := (takePoison m r n).poison } := by
  unfold takePoison
  split <;> rfl

theorem takePoison_foldl (m : Nat → BitVec 32) (r : Regs) (n : Nat) :
    (List.range n).foldl (takePoison m) r = { r with poison := ((List.range n).foldl (takePoison m) r).poison } ∧
    ∀ k, ((List.range n).foldl (takePoison m) r).poi k =
      if k < n ∧ ¬ (k < 128 ∧ bit r.vmap k = false) then m k else r.poi k := by
  induction n with
  | zero => exact ⟨rfl, fun k => by simp⟩
  | succ n ih =>
    obtain ⟨he, hp⟩ := ih
    rw [List.range_succ, List.foldl_append, List.foldl_cons, List.foldl_nil]
    set x := (List.range n).foldl (takePoison m) r
    refine ⟨(takePoison_frame m x n).trans (congrArg (fun y : Regs => { y with poison := (takePoison m x n).poison }) he), fun k => ?_⟩
    have hv : x.vmap = r.vmap := by rw [he]
    unfold takePoison
    rw [hv]
    by_cases hc : n < 128 ∧ bit r.vmap n = false
    · rw [if_pos (by simpa using hc), hp]
      by_cases hk : k = n
      · subst hk
        simp [hc]
      · have : k < n + 1 ↔ k < n := by omega
        simp only [this]
    · rw [if_neg (by simpa using hc)]
      unfold Regs.poi Regs.setPoi
      rw [get_set]
      by_cases hk : k = n
      · subst hk
        rw [if_pos rfl, if_pos ⟨by omega, hc⟩]
      · have : k < n + 1 ↔ k < n := by omega
        rw [if_neg hk]
        simp only [this]
        exact hp k

theorem bit_lowMask {n t : Nat} (hn : n ≤ 32) (ht : t < n) : bit (BitVec.ofNat 32 (2 ^ n - 1)) t = true := by
  simp only [bit, BitVec.getLsbD_ofNat, Nat.testBit_two_pow_sub_one]
  simp
  omega

section
variable (r : Regs) {n t : Nat} (ht : t < n)
include ht

theorem lanes_poi (k : Nat) : bit ((r.lanes n).poi k) t = bit (r.poi k) t := by
  unfold Regs.lanes
  split
  · rfl
  · unfold Regs.poi
    simp only
    rw [get_mapSet (by simp), bit_and, bit_lowMask (by omega) ht, Bool.and_true]

theorem lanes_get (k : Nat) (hn : n ≤ 32) : (r.lanes n).get k t = r.get k t := by
  unfold Regs.lanes
  split
  · rfl
  · unfold Regs.get SMap.get
    simp only
    have hk : (32 * k + t) % 32 = t := by omega
    rw [find_filter (fun k => decide (k % 32 < n)), hk, if_pos (by simpa using ht)]

theorem lanes_fGet (k : Nat) : bit ((r.lanes n).fGet k) t = bit (r.fGet k) t := by
  unfold Regs.lanes
  split
  · rfl
  · unfold Regs.fGet
    split
    · rfl
    · simp only
      rw [get_mapSet (by simp), bit_and, bit_lowMask (by omega) ht, Bool.and_true]

end

theorem lanes_frame (r : Regs) (n : Nat) : (r.lanes n).vmap = r.vmap ∧ (r.lanes n).sreg = r.sreg := by
  unfold Regs.lanes
  split <;> exact ⟨rfl, rfl⟩

theorem width_le (k : Kern) : k.width ≤ 32 := by
  unfold Kern.width
  split <;> omega

theorem remap_regs (e : TEnv) (bs : List Byte) : (e.remap bs).regs =
    ((List.range 138).foldl (takePoison fun n => BitVec.ofNat 32 (wordAt bs (4 * n) 4)) e.w.regs).lanes e.g.kern.width := by
  unfold TEnv.remap Warp.lanes Warp.fromMap
  generalize List.range 138 = names
  rfl

theorem remap_remapped (e : TEnv) (bs : List Byte) : TEnv.Remapped e bs (e.remap bs) := by
  obtain ⟨he, hp⟩ := takePoison_foldl (fun n => BitVec.ofNat 32 (wordAt bs (4 * n) 4)) e.w.regs 138
  set r := (List.range 138).foldl (takePoison fun n => BitVec.ofNat 32 (wordAt bs (4 * n) 4)) e.w.regs with hr
  have hregs : (e.remap bs).regs = r.lanes e.g.kern.width := remap_regs e bs
  have hval : r.val = e.w.regs.val := by rw [he]
  have hvm : r.vmap = e.w.regs.vmap := by rw [he]
  have hsr : r.sreg = e.w.regs.sreg := by rw [he]
  have hpr : r.pred = e.w.regs.pred := by rw [he]
  refine { rest := rfl, poison := fun n hn t ht => ?_, values := fun n t ht => ?_, names := ?_, scalars := fun n => ?_,
           preds := fun n t ht => ?_ }
  · rw [hregs, lanes_poi r ht, hp]
    by_cases hc : n < 128 ∧ bit e.w.regs.vmap n = false
    · rw [if_pos hc, if_neg fun h => h.2 hc]
    · rw [if_neg hc, if_pos ⟨hn, hc⟩]
  · rw [hregs, lanes_get r ht n (width_le _)]
    unfold Regs.get
    rw [hval]
  · rw [hregs, (lanes_frame r _).1, hvm]
  · rw [hregs]
    unfold Regs.sGet
    rw [(lanes_frame r _).2, hsr]
  · rw [hregs, lanes_fGet r ht]
    unfold Regs.fGet
    rw [hpr]

/-! ### A parked instruction -/

theorem updFirst_mem {α : Type} {p : α → Bool} (f : α → α) {l : List α} (h : l.any p = true) :
    ∃ x ∈ l, p x = true ∧ f x ∈ updFirst p f l := by
  induction l with
  | nil => cases h
  | cons a t ih =>
    unfold updFirst
    cases ha : p a with
    | true => exact ⟨a, List.mem_cons_self, ha, List.mem_cons_self⟩
    | false =>
      obtain ⟨x, hx, hpx, hf⟩ := ih (by simpa [ha] using h)
      exact ⟨x, List.mem_cons_of_mem _ hx, hpx, List.mem_cons_of_mem _ hf⟩

/-- A queued fault stands in its die's queue, in an entry of its own or in one for its page. -/
theorem die_queueFault (d : Die) (f : FaultEntry) : ∃ x ∈ (d.queueFault f).faults ++ (d.queueFault f).late,
    x.asid = f.asid ∧ x.va / 65536 = f.va / 65536 ∧ ∀ u ∈ f.uids, u ∈ x.uids := by
  unfold Die.queueFault
  simp only
  split
  · rename_i h
    obtain ⟨x, -, hp, hm⟩ := updFirst_mem
      (fun x : FaultEntry => { x with count := min 0xFFFF (x.count + f.count), uids := x.uids ++ f.uids }) h
    simp only [Bool.and_eq_true, beq_iff_eq] at hp
    exact ⟨_, List.mem_append_left _ hm, hp.1, hp.2, fun u hu => List.mem_append_right _ hu⟩
  · split
    · exact ⟨f, by simp, rfl, rfl, fun _ h => h⟩
    · exact ⟨f, by simp, rfl, rfl, fun _ h => h⟩

theorem queueFault_waits (s : State) (g : Group) (va cause agent : Nat) : (s.queueFault g va cause agent).FaultWaits g va := by
  have hd : (s.queueFault g va cause agent).die (dieOf g.core) = (s.die (dieOf g.core)).queueFault
      { tenant := g.tenant, asid := g.asid, va := va, cause := cause, agent := agent, count := 1, uids := [g.uid] } :=
    (die_setDie s _ _ _).trans (if_pos rfl)
  unfold State.FaultWaits
  rw [hd]
  obtain ⟨x, hx, ha, hv, hu⟩ := die_queueFault (s.die (dieOf g.core))
    { tenant := g.tenant, asid := g.asid, va := va, cause := cause, agent := agent, count := 1, uids := [g.uid] }
  exact ⟨x, hx, ha, hv, hu _ List.mem_cons_self⟩

theorem faultWaits_setGroup {s : State} {g x : Group} {va : Nat} (h : s.FaultWaits g va) : (s.setGroup x).FaultWaits g va := h

theorem parks_of_park {e : TEnv} {s : State} (va k agent : Nat) (hg : s.group? e.g.uid = some e.g) :
    e.Parks (.next (e.conclude (.park s va k agent))) va k agent := by
  have hq : (s.queueFault e.g va k agent).group? e.g.uid = some e.g := hg
  have hc : e.conclude (.park s va k agent) = (s.queueFault e.g va k agent).setGroup (e.g.setWarp e.slot
      { e.w with held := if e.i.popq = 0 then none else some e.q, parked := some (Park.mk e.g.asid va k agent) }) :=
    setWarp_of_group hq
  rw [hc]
  exact ⟨_, _, _, rfl, setGroup_self _ _, warp_setWarp_self _ _ _, rfl, rfl, faultWaits_setGroup (queueFault_waits _ _ _ _ _)⟩

/-! ### The threads that leave the code they ran -/

section
variable {e : TEnv} {l : SMap TState} {c : Word} {red : BitVec 32} {f : Nat → TState → TState} (h : e.Restates l c red f)
include h

/-- A warp whose threads stand as restated comes of w1 by their new states. -/
theorem restates_rethreaded {v w1 : Warp} (hl : v.threads = l) (hc : v.safecnt = c)
    (hr : v = { w1 with threads := v.threads, safecnt := v.safecnt, regs := if v.exited then Regs.zero else w1.regs,
                        mode := if v.exited then e.w.mode.ended else w1.mode,
                        stop := if v.exited then e.w.mode.endedStop w1.stop else w1.stop })
    (hp : w1.pushDue = e.w.pushDue) : e.Rethreaded v w1 fun th => f th (e.w.thread th) where
  rest := hr
  settled th := by
    have := h.settled th
    unfold Warp.thread at this ⊢
    rwa [hl]
  safecnt := by rw [hc]; exact h.safecnt
  push := hp

theorem left_eq_toRestore :
    ((e.restated l c).stop.filter fun p => !bit red p.1 && ((e.restated l c).thread p.1).isLive) = e.toRestore red := by
  refine List.filter_congr fun p _ => ?_
  cases hb : bit red p.1 with
  | true => rfl
  | false => rw [h.keeps _ hb]

/-- Outside a restore routine. -/
theorem ifExited_rethreaded (hm : ∀ n, e.w.mode ≠ .restoring n) :
    e.Rethreaded (e.restated l c).ifExited e.w fun th => f th (e.w.thread th) := by
  have hstop : e.w.mode.endedStop e.w.stop = e.w.stop := by
    unfold RunMode.endedStop
    cases hmode : e.w.mode with
    | restoring n => exact absurd hmode (hm n)
    | _ => rfl
  rw [ifExited_eq]
  refine restates_rethreaded h rfl rfl ?_ rfl
  rw [hstop, ite_self]
  rfl

/-- In a restore routine, where every thread of the warp ends. -/
theorem ended_rethreaded {n : Nat} (hm : e.w.mode = .restoring n) (hx : (e.restated l c).exited = true) (m : SMap TState) :
    e.Rethreaded (Warp.ifExited { e.restated l c with stop := [] }) { e.w with stop := m } fun th => f th (e.w.thread th) := by
  rw [ifExited_eq]
  refine restates_rethreaded h rfl rfl ?_ rfl
  simp only [Warp.exited, TEnv.restated] at hx ⊢
  simp only [hx, if_true, hm, RunMode.endedStop]

/-- In a restore routine, where the threads go on, with others left that have to leave it or with the map read. -/
theorem left_rethreaded (hx : (e.restated l c).exited = false) (w1 : Warp) (hp : w1.pushDue = e.w.pushDue) :
    e.Rethreaded { w1 with threads := l, safecnt := c } w1 fun th => f th (e.w.thread th) := by
  refine restates_rethreaded h rfl rfl ?_ hp
  rw [show Warp.exited { w1 with threads := l, safecnt := c } = false from hx]
  rfl

end

/-! ### What leaving the code comes to -/

section
variable {op : Nat} {i : TWord} {s : State} {e : TEnv} {body : TEnv → TRes} {l : SMap TState} {c : Word} {red : BitVec 32}
  {f : Nat → TState → TState}

/-- The answer of an instruction that has settled its group's queues and barriers over a state to which reads have led. -/
theorem rethreads_of_answer {s1 : State} {v w1 : Warp} {g : Nat → TState} (h : s.tReady op i = some e)
    (hb : body e = .ok (s1.afterThreads e.g.uid e.slot v) v red) (hw : Warmed e.base s1) (hv : e.Rethreaded v w1 g) :
    e.Rethreads (tIssue op i s body) s1 w1 red g := by
  rw [tIssue_ready h, hb]
  have hg : ∀ uid, s1.group? uid = e.base.group? uid := fun uid => by unfold State.group?; rw [hw.rest]
  exact rethreads_of_finish ((hg _).trans (setGroup_self _ _)) (fun uid hne => (hg uid).trans (setGroup_other _ _ hne)) rfl
    (by rw [hw.rest]; rfl) hv

/-- The same over the state before the group was put back. -/
theorem rethreads_of_base {v w1 : Warp} {g : Nat → TState} (h : s.tReady op i = some e)
    (hb : body e = .ok (e.base.afterThreads e.g.uid e.slot v) v red) (hv : e.Rethreaded v w1 g) :
    e.Rethreads (tIssue op i s body) e.s w1 red g := by
  rw [tIssue_ready h, hb]
  exact rethreads_of_finish (setGroup_self _ _) (fun uid hne => setGroup_other _ _ hne) rfl rfl hv

theorem exited_false {w : Warp} {th : Nat} (h : (w.thread th).isLive = true) : w.exited = false := by
  cases hx : w.exited with
  | false => rfl
  | true => rw [unlisted_of_exited hx] at h; cases h

/-- A settled thread is live exactly where its new state is. -/
theorem settled_isLive {g : Nat → TState} {th : Nat} {x : TState} (h : Settled g th x) (hl : (g th).isLive = true) :
    x.isLive = true := by
  have hn : g th ≠ .helper := fun hh => by rw [hh] at hl; cases hl
  rw [h.2.2 hn, hl]

/-- EXIT and SETPC once they have their threads' states (R136, R138, R230). -/
theorem moved_leaves (h : s.tReady op i = some e) (hb : body e = e.moved (e.restated l c) red) (hr : e.Restates l c red f) :
    e.Leaves (tIssue op i s body) red f := by
  unfold TEnv.moved at hb
  refine ⟨fun hm => ?_, fun n hm ⟨th, hth⟩ hleft => ?_⟩
  · cases hmode : e.w.mode with
    | restoring n =>
      simp only [hmode, TEnv.endRestore, left_eq_toRestore hr] at hb
      cases hx : (e.restated l c).exited with
      | true =>
        rw [hx, if_pos rfl] at hb
        exact rethreads_of_base h hb (ended_rethreaded hr hmode hx _)
      | false =>
        have hleft : e.toRestore red ≠ [] := (hm n hmode).resolve_left fun hall => by
          rw [hr.exited.2 hall] at hx
          cases hx
        rw [hx, if_neg (by simp), if_pos (by simpa using hleft)] at hb
        exact rethreads_of_base h hb (left_rethreaded hr hx { e.w with stop := e.toRestore red } rfl)
    | running | saving | saved =>
      simp only [hmode] at hb
      exact rethreads_of_base h hb (ifExited_rethreaded hr fun n hn => by rw [hmode] at hn; cases hn)
  · have hx : (e.restated l c).exited = false := exited_false (settled_isLive (hr.settled th) hth)
    simp only [hm, TEnv.endRestore, left_eq_toRestore hr, hx, hleft, List.isEmpty_nil, Bool.not_true, Bool.false_eq_true, if_false]
      at hb
    have hw := translate_warmed e.base e.g.core e.g.tenant e.g.asid (e.w.tframe.toNat + 0xA00)
    have hg : (e.base.translate e.g.core e.g.tenant e.g.asid (e.w.tframe.toNat + 0xA00)).1.group? e.g.uid = some e.g := by
      unfold State.group?
      rw [hw.rest]
      exact setGroup_self _ _
    change body e = (match (e.base.translate e.g.core e.g.tenant e.g.asid (e.w.tframe.toNat + 0xA00)).2 with | .error k => _ | .ok p => _)
      at hb
    refine ⟨fun k hk => ?_, fun p hp hpr => ?_, fun p hp hpr => ?_⟩
    · rw [hk] at hb
      rw [tIssue_ready h, hb]
      exact parks_of_park _ k 0 hg
    · rw [hp] at hb
      simp only [hpr] at hb
      exact traps_of_trap h hb
    · rw [hp] at hb
      simp only [hpr, Bool.not_true, Bool.false_eq_true, if_false] at hb
      have hm1 := warmed_trans hw (gLoadList_warmed (e.base.translate e.g.core e.g.tenant e.g.asid (e.w.tframe.toNat + 0xA00)).1
        e.g.core e.g.tenant 3 p 560)
      refine ⟨hm1, gLoadList_length _ _ _ _ _ _, fun hz => ?_, fun hz => ?_⟩
      · rw [if_pos (by exact hz)] at hb
        exact traps_of_trap h hb
      · rw [if_neg (by exact not_not.2 hz)] at hb
        exact ⟨_, remap_remapped e _, rethreads_of_answer h hb hm1 (left_rethreaded hr hx (e.remap _) rfl)⟩

end

end Sys2Proof.Laws

end

section
/-!
CLAIM. Obligation O7: EXIT and SETPC give their threads the states that the rules name, and trap where they say.
-/

namespace Sys2Proof.Laws

open Sys2Proof.Machine

/-! ### Lanes -/

theorem mem_lanesOf {m : BitVec 32} {t : Nat} : t ∈ lanesOf m ↔ bit m t = true := by
  unfold lanesOf
  rw [List.mem_filter, List.mem_range]
  exact ⟨fun h => h.2, fun h => ⟨BitVec.lt_of_getLsbD h, h⟩⟩

/-- The lanes rise: the first that satisfies a test is the lowest. -/
theorem find_lanesOf {m : BitVec 32} {q : Nat → Bool} {t : Nat} (hb : bit m t = true) (hq : q t = true)
    (hl : ∀ u, u < t → bit m u = true → q u = false) : (lanesOf m).find? q = some t := by
  unfold lanesOf
  rw [List.find?_filter, List.find?_range_eq_some]
  refine ⟨decide_eq_true ⟨hb, hq⟩, List.mem_range.2 (BitVec.lt_of_getLsbD hb), fun u hu => ?_⟩
  cases hbu : m.getLsbD u with
  | false => rfl
  | true => simp [hl u hu hbu]

/-! ### SETPC's values -/

theorem setpcState_eq (a : Word) : setpcState a = if setTakes a then some (setTo a) else none := by
  unfold setpcState setTakes setTo
  by_cases h1 : a = 0xFFFFFFFE
  · rw [if_pos h1, if_pos (.inl h1), if_pos h1]
  · by_cases h2 : a = 0xFFFFFFFF
    · rw [if_neg h1, if_pos h2, if_pos (.inr (.inl h2)), if_neg h1, if_pos h2]
    · rw [if_neg h1, if_neg h2]
      by_cases h3 : a.toNat % 8 = 0
      · rw [if_pos h3, if_pos (.inr (.inr h3)), if_neg h1, if_neg h2]
      · rw [if_neg h3, if_neg fun h => h.elim h1 fun h => h.elim h2 h3]

theorem setpcState_isNone (a : Word) : (setpcState a).isNone = true ↔ ¬ setTakes a := by
  rw [setpcState_eq]
  split <;> simp [*]

/-- The state that SETPC gives a thread of the head run (R138). -/
theorem setpc_new (e : TEnv) (t : Nat) (x : TState) :
    (if bit e.act t && !bit e.poisoned t then (setpcState (e.int 1 t)).getD x else x) =
      if bit e.act t && !bit e.poisoned t && decide (setTakes (e.src 1 .int t)) then setTo (e.src 1 .int t) else x := by
  have ha : e.int 1 t = e.src 1 .int t := rfl
  rw [setpcState_eq, ha]
  by_cases h : setTakes (e.src 1 .int t)
  · rw [if_pos h]
    simp [h]
  · rw [if_neg h]
    simp [h]

/-! ### The states that the two instructions give -/

/-- Threads that change only in the head run: a thread that is not listed stays as it is. -/
theorem heads_unlisted {e : TEnv} {f : Nat → TState → TState} (h : e.Heads) (hf : ∀ th x, bit e.act th = false → f th x = x) (th : Nat)
    (hn : SMap.find e.w.threads th = none) : f th .exited = .exited := by
  refine hf th _ ?_
  cases hb : bit e.act th with
  | false => rfl
  | true =>
    have := headRun_listed h.run (h.act th hb)
    rw [hn] at this
    cases this

theorem changed_restates {e : TEnv} {red : BitVec 32} {f : Nat → TState → TState} (c : Word) (h : e.Heads)
    (hf : ∀ th x, bit red th = false → f th x = x) (hr : ∀ th, bit red th = true → bit e.act th = true)
    (hc : (if safeOps.contains e.op then c else countIssue c) = if e.op = 0x46 then 0 else countIssue e.w.safecnt) :
    e.Restates (e.w.changed f).threads c red f := by
  have hu := heads_unlisted (f := f) h fun th x hb => hf th x (by
    cases hd : bit red th with
    | false => rfl
    | true => rw [hr th hd] at hb; cases hb)
  exact { settled := changed_settled hu, exited := changed_exited e.w f, safecnt := hc,
          keeps := fun th hb => changed_keeps hu fun x => hf th x hb }

theorem parts_act {e : TEnv} {th : Nat} (h : bit e.parts th = true) : bit e.act th = true := by
  unfold TEnv.parts at h
  rw [bit_and, Bool.and_eq_true] at h
  exact h.1

theorem exit_restates {e : TEnv} (h : e.Heads) (ho : e.op = 0x44) :
    e.Restates (e.w.exiting e.parts).threads e.w.safecnt e.parts fun th x => if bit e.parts th then .helper else x :=
  changed_restates _ h (fun th x hb => by simp [hb]) (fun _ => parts_act) (by rw [ho]; rfl)

/-- SETPC's meaning, in a warp in no handler whose threads are not poisoned. -/
theorem setpc_body (i : TWord) (s : State) {e : TEnv} (hh : e.w.inHandler = false)
    (hp : e.poisoned &&& e.parts = 0) : ∃ body : TEnv → TRes, exec (.setpc i) s = tIssue 0x46 i s body ∧
      body e = match (lanesOf e.parts).find? fun t => (setpcState (e.int 1 t)).isNone with
        | some t => .trap .align ((e.int 1 t).setWidth 64)
        | none => e.moved (e.restated (e.w.changed fun t x =>
            if bit e.act t && !bit e.poisoned t then (setpcState (e.int 1 t)).getD x else x).threads 0) e.act :=
  ⟨_, rfl, by rw [if_neg (by rw [hh]; simp), if_neg (by rw [hp]; simp)]; rfl⟩

/-- Settles O7: `moved_leaves` says what follows once the threads have their states, for both instructions. -/
theorem threadStates : Obligations.ThreadStates := by
  unfold Obligations.ThreadStates
  refine ⟨fun i s e h => ⟨fun hh => ?_, fun hh => traps_of_trap h (if_pos hh)⟩,
    fun i s e h => ⟨fun hh hp ht => ?_, fun hh => traps_of_trap h (if_pos hh), fun hh hp => ?_, fun hh hp t hb ht hl => ?_⟩⟩
  · obtain ⟨hheads, ho⟩ := tReady_heads h
    exact moved_leaves h (if_neg (by rw [hh]; simp)) (exit_restates hheads ho)
  · obtain ⟨hheads, ho⟩ := tReady_heads h
    obtain ⟨body, hx, hb⟩ := setpc_body i s hh hp
    have hnone : ((lanesOf e.parts).find? fun t => (setpcState (e.int 1 t)).isNone) = none := by
      rw [List.find?_eq_none]
      exact fun t hm => by rw [setpcState_isNone]; exact not_not.2 (ht t (mem_lanesOf.1 hm))
    rw [hnone] at hb
    simp only [setpc_new] at hb
    rw [hx]
    exact moved_leaves h hb (changed_restates 0 hheads (fun th x hb => by simp [hb]) (fun _ hb => hb) (by rw [ho]; rfl))
  · refine traps_of_trap h ?_
    rw [if_neg (by rw [hh]; simp), if_pos (by simpa using hp)]
  · obtain ⟨body, hx, hb'⟩ := setpc_body i s hh hp
    have hfind : ((lanesOf e.parts).find? fun t => (setpcState (e.int 1 t)).isNone) = some t :=
      find_lanesOf hb ((setpcState_isNone _).2 ht) fun u hu hub => by
        rw [← Bool.not_eq_true, setpcState_isNone]
        exact not_not.2 (hl u hu hub)
    rw [hfind] at hb'
    rw [hx]
    exact traps_of_trap h hb'

end Sys2Proof.Laws

end

section
/-!
CLAIM. Obligation O47: its second clause bounds a new group's quarter in a placement held after a pre-emption too, and nothing in it
bounds the quarter that the hold names.
-/

namespace Sys2Proof.Laws

open Sys2Proof.Machine

/-- A ready grid of one group, none of it placed. -/
def strayGrid : Grid :=
  { num := 5, id := 0, seq := 0, queue := 65, index := 0, tag := 0, dep := 0, thresh := 0, parent := 0, graph := 1, weight := 0,
    indaddr := 0, gx := 1, gy := 1, gz := 1, ln := placedLaunch (placedKern 128 128), slot := none, ready := true, head := [],
    nextGid := 0, tail := [], placed := [], endedCount := 0, ended := false, asked := none }

/-- The reset state with that grid and a hold of its group's place at quarter 4 of core 0. No placement of the launch unit names such a
quarter, so no hold that it makes is this one; the obligation's hypotheses speak of no hold. -/
def strayHold : State :=
  { State.reset with lu := { LaunchUnit.reset with
      grids := [(5, strayGrid)], holds := [{ uid := 5 * 2 ^ 32, places := [(0, 4)], gone := [] }] } }

theorem strayHold_placement : ∃ t g, exec .groupPlacement strayHold = .next t ∧ t.group? (5 * 2 ^ 32) = some g ∧ g.quarter = 4 := by
  have h : (match exec .groupPlacement strayHold with
      | .next t => (t.group? (5 * 2 ^ 32)).map Group.quarter
      | _ => none) = some 4 := by decide +kernel
  split at h
  next t ht =>
    obtain ⟨g, hg, hq⟩ := Option.map_eq_some_iff.1 h
    exact ⟨t, g, ht, hg, hq⟩
  next => exact nomatch h

/-- The only grid of `strayHold`. -/
theorem strayHold_grid {n : Nat} {r : Grid} (h : SMap.find strayHold.lu.grids n = some r) : n = 5 ∧ r = strayGrid := by
  have hm := mem_of_find h
  simpa [strayHold] using hm

theorem strayGrid_waiting : strayGrid.waiting = some 0 := by decide

/-- Refutes O47: a hold at quarter 4 places its group there, though every new group is said to stand in a quarter below 4. -/
theorem not_groupPlacements : ¬ Obligations.GroupPlacements := by
  unfold Obligations.GroupPlacements
  rintro ⟨-, h⟩
  obtain ⟨t, g, ht, hg, hq⟩ := strayHold_placement
  have hnone : ∀ u, strayHold.group? u = none := fun _ => rfl
  obtain ⟨-, -, -, hnew⟩ := h strayHold t (by decide)
    (fun n r hr => by obtain ⟨rfl, rfl⟩ := strayHold_grid hr; rfl)
    (fun _ _ _ _ _ _ _ => hnone _)
    (fun u g hu => nomatch hu)
    (fun n r hr => by
      obtain ⟨rfl, rfl⟩ := strayHold_grid hr
      refine ⟨by decide, fun gid hgid => ?_⟩
      rw [strayGrid_waiting] at hgid
      cases hgid
      decide)
    ht
  obtain ⟨-, hlt, -⟩ := hnew _ g (hnone _) hg
  omega

end Sys2Proof.Laws

end

section
/-!
SUPPORT. The registers and the thread states with which a launched warp begins (R17, R41, R128).
-/

namespace Sys2Proof.Machine

/-- The preloads of a warp's threads, each with its bit of the header (R41). -/
def Group.threadPre (g : Group) (slot : Nat) : List (Nat × (Nat → Word)) :=
  let width := if g.ln.kern.legacy then 16 else 32
  [(0, fun t => BitVec.ofNat 32 (startTid width slot t)), (1, fun t => BitVec.ofNat 32 (startTxyz g.ln slot (startTid width slot t))),
   (2, fun t => BitVec.ofNat 32 t)]

/-- The preloads of a warp, each with its bit and whether it takes a pair (R41). -/
def Group.warpPre (g : Group) (slot : Nat) : List (Nat × Bool × Nat) :=
  [(3, false, slot), (4, false, g.gid), (5, true, g.gid % g.gx + 2 ^ 32 * (g.gid / g.gx % g.gy) + 2 ^ 48 * (g.gid / (g.gx * g.gy))),
   (6, false, g.gid % g.ln.clg), (7, false, g.gid / g.ln.clg), (8, false, g.grid)]

/-- What a thread starts with of a preloaded value: 0 beyond the warp's width. -/
def Group.liveValue (g : Group) (p : Nat × (Nat → Word)) (t : Nat) : Word :=
  if t < (if g.ln.kern.legacy then 16 else 32) then p.2 t else 0

end Sys2Proof.Machine

namespace Sys2Proof.Laws

open Sys2Proof.Machine

/-! ### Thread states -/

/-- The state in which thread t of a warp starts, n of its threads existing. -/
theorem startThread (width n pc t : Nat) : (SMap.find (startThreads width n pc) t).getD .exited =
    if t < width ∧ t < n then .live (BitVec.ofNat 32 pc) else if t < width ∧ t / 4 * 4 < n then .helper else .exited := by
  have key : ∀ l : List Nat, SMap.find (l.filterMap fun t =>
      if t < n then some (t, TState.live (BitVec.ofNat 32 pc)) else if t / 4 * 4 < n then some (t, .helper) else none) t =
      if t ∈ l then (if t < n then some (.live (BitVec.ofNat 32 pc)) else if t / 4 * 4 < n then some .helper else none) else none := by
    intro l
    induction l with
    | nil => rfl
    | cons x l ih =>
      rw [List.filterMap_cons]
      rcases eq_or_ne t x with rfl | hx
      · split_ifs at ih ⊢ <;> simp_all [find_cons]
      · simp only [List.mem_cons, or_iff_right hx]
        split_ifs at ih ⊢ <;> simp_all [find_cons, hx.symm]
  rw [startThreads, key]
  simp only [List.mem_range]
  split_ifs <;> simp_all

/-! ### Registers -/

theorem bit_setBit {w : Nat} (m : BitVec w) (n k : Nat) (h : n < w) : bit (setBit m n true) k = (bit m k || decide (k = n)) := by
  unfold bit setBit
  by_cases hk : k = n
  · subst hk; simp [h]
  · have : (1#w <<< n).getLsbD k = false := by
      simp only [BitVec.getLsbD_shiftLeft, BitVec.getLsbD_one]
      grind
    simp [this, hk]

/-- The values of the lanes in a list, written one after another. -/
theorem foldl_set_get (reg : Nat) (v : Nat → Word) (l : List Nat) (r : Regs) (reg' t : Nat) (ht : t < 32) (hl : ∀ u ∈ l, u < 32) :
    (l.foldl (fun r t => r.set reg t (v t)) r).get reg' t = if reg' = reg ∧ t ∈ l then v t else r.get reg' t := by
  induction l generalizing r with
  | nil => simp
  | cons u l ih =>
    have hu := hl u List.mem_cons_self
    rw [List.foldl_cons, ih _ fun x hx => hl x (List.mem_cons_of_mem _ hx)]
    have hs : (r.set reg u (v u)).get reg' t = if reg' = reg ∧ t = u then v u else r.get reg' t := by
      rw [Regs.set, Regs.get, get_set]
      exact if_congr ⟨fun h => by omega, fun ⟨h, h'⟩ => by rw [h, h']⟩ rfl rfl
    rw [hs]
    simp only [List.mem_cons]
    split_ifs <;> simp_all

theorem foldl_set_frame (reg : Nat) (v : Nat → Word) (l : List Nat) (r : Regs) :
    (l.foldl (fun r t => r.set reg t (v t)) r).vmap = r.vmap ∧ (l.foldl (fun r t => r.set reg t (v t)) r).sreg = r.sreg := by
  induction l generalizing r with
  | nil => exact ⟨rfl, rfl⟩
  | cons u l ih => exact ih (r.set reg u (v u))

theorem preV_get (r : Regs) (n : Nat) (v : Nat → Word) (reg t : Nat) (ht : t < 32) :
    (r.preV n v).get reg t = if reg = n then v t else r.get reg t := by
  have h := foldl_set_get n v (lanesOf (BitVec.allOnes 32)) { r with vmap := setBit r.vmap n true } reg t ht
    fun u hu => List.mem_range.1 (List.mem_filter.1 hu).1
  have hm : t ∈ lanesOf (BitVec.allOnes 32) := mem_lanesOf.2 ((BitVec.getLsbD_allOnes).trans (decide_eq_true ht))
  exact h.trans (if_congr (and_iff_left hm) rfl rfl)

theorem preV_vmap (r : Regs) (n : Nat) (v : Nat → Word) : (r.preV n v).vmap = setBit r.vmap n true :=
  (foldl_set_frame n v _ _).1

/-! ### Preloads -/

/-- One preload of each thread. -/
def preStep (base : Nat) (f : Nat × (Nat → Word) → Nat → Word) (r : Regs) (p : (Nat × (Nat → Word)) × Nat) : Regs :=
  r.preV (base + p.2) (f p.1)

theorem foldl_preStep_vmap (base : Nat) (f : Nat × (Nat → Word) → Nat → Word) (l : List (Nat × (Nat → Word))) (n m : Nat) (r : Regs)
    (h : base + n + l.length ≤ 128) :
    bit ((l.zipIdx n).foldl (preStep base f) r).vmap m = true ↔ bit r.vmap m = true ∨ base + n ≤ m ∧ m < base + n + l.length := by
  induction l generalizing n r with
  | nil => simp
  | cons x l ih =>
    rw [List.length_cons] at h ⊢
    rw [List.zipIdx_cons, List.foldl_cons, ih (n + 1) _ (by omega), preStep, preV_vmap, bit_setBit _ _ _ (by omega), Bool.or_eq_true,
      decide_eq_true_iff]
    grind

/-- A later preload leaves a register below its own as it was. -/
theorem foldl_preStep_get (base : Nat) (f : Nat × (Nat → Word) → Nat → Word) (l : List (Nat × (Nat → Word))) (n reg t : Nat) (r : Regs)
    (ht : t < 32) (h : reg < base + n) : ((l.zipIdx n).foldl (preStep base f) r).get reg t = r.get reg t := by
  induction l generalizing n r with
  | nil => rfl
  | cons x l ih =>
    rw [List.zipIdx_cons, List.foldl_cons, ih (n + 1) _ (by omega), preStep, preV_get _ _ _ _ _ ht, if_neg (by omega)]

/-- One preload of a warp: a register, or a pair at an even one, from the next free register on. -/
def sStep (a : Regs × Nat) (p : Nat × Bool × Nat) : Regs × Nat :=
  let n := a.2
  if p.2.1 then
    let n := (n + 1) / 2 * 2
    ((a.1.sSet n (BitVec.ofNat 32 p.2.2)).sSet (n + 1) (BitVec.ofNat 32 (p.2.2 / 2 ^ 32)), n + 2)
  else (a.1.sSet n (BitVec.ofNat 32 p.2.2), n + 1)

theorem sSet_get (r : Regs) (n k : Nat) (v : Word) : (r.sSet n v).sGet k = if k = n then v else r.sGet k := get_set _ _ _ _ _

/-- The preloads of a warp leave the v registers, and s0 once it is taken. -/
theorem foldl_sStep (l : List (Nat × Bool × Nat)) (a : Regs × Nat) :
    (l.foldl sStep a).1.vmap = a.1.vmap ∧ (l.foldl sStep a).1.val = a.1.val ∧
    (1 ≤ a.2 → (l.foldl sStep a).1.sGet 0 = a.1.sGet 0) := by
  induction l generalizing a with
  | nil => exact ⟨rfl, rfl, fun _ => rfl⟩
  | cons p l ih =>
    have hs : (sStep a p).1.vmap = a.1.vmap ∧ (sStep a p).1.val = a.1.val ∧
        (1 ≤ a.2 → (sStep a p).1.sGet 0 = a.1.sGet 0 ∧ 1 ≤ (sStep a p).2) := by
      unfold sStep
      split
      · exact ⟨rfl, rfl, fun h => ⟨by rw [sSet_get, sSet_get, if_neg (by omega), if_neg (by omega)], by simp⟩⟩
      · exact ⟨rfl, rfl, fun h => ⟨by rw [sSet_get, if_neg (by omega)], by simp⟩⟩
    obtain ⟨hv, hval, hs0⟩ := ih (sStep a p)
    obtain ⟨hv', hval', hs'⟩ := hs
    exact ⟨hv.trans hv', hval.trans hval', fun h => (hs0 (hs' h).2).trans (hs' h).1⟩

/-- The value in s0 of the preload that comes first, where it is one word. -/
theorem foldl_sStep_head (r : Regs) (m v : Nat) (l : List (Nat × Bool × Nat)) :
    (((m, false, v) :: l).foldl sStep (r, 0)).1.sGet 0 = BitVec.ofNat 32 v := by
  rw [List.foldl_cons, (foldl_sStep l _).2.2 (by simp [sStep])]
  simp [sStep, sSet_get]

/-- The preloads of a warp: of its threads, then its own. -/
theorem preload_eq (g : Group) (slot : Nat) (r : Regs) : preload g slot 0 r =
    (((g.warpPre slot).filter fun p => bit g.ln.kern.preload p.1).foldl sStep
      ((((g.threadPre slot).filter fun p => bit g.ln.kern.preload p.1).zipIdx).foldl (preStep 0 g.liveValue) r, 0)).1 := rfl

theorem preload_vmap (g : Group) (slot m : Nat) : bit (preload g slot 0 Regs.zero).vmap m = true ↔
    m < (bit g.ln.kern.preload 0).toNat + (bit g.ln.kern.preload 1).toNat + (bit g.ln.kern.preload 2).toNat := by
  have hlen : ((g.threadPre slot).filter fun p => bit g.ln.kern.preload p.1).length =
      (bit g.ln.kern.preload 0).toNat + (bit g.ln.kern.preload 1).toNat + (bit g.ln.kern.preload 2).toNat := by
    rw [← List.countP_eq_length_filter]
    simp only [Group.threadPre, List.countP_cons, List.countP_nil, Bool.toNat, Bool.cond_eq_ite]
    omega
  have hle := List.length_filter_le (fun p => bit g.ln.kern.preload p.1) (g.threadPre slot)
  have h3 : (g.threadPre slot).length = 3 := rfl
  rw [preload_eq, (foldl_sStep _ _).1, foldl_preStep_vmap _ _ _ _ _ _ (by omega), hlen]
  have h0 : bit Regs.zero.vmap m = false := BitVec.getLsbD_zero
  simp [h0]

/-- $tid stands in v0. -/
theorem preload_tid {g : Group} (h : bit g.ln.kern.preload 0 = true) (slot : Nat) {t : Nat} (ht : t < if g.ln.kern.legacy then 16 else 32) :
    (preload g slot 0 Regs.zero).get 0 t = BitVec.ofNat 32 (startTid (if g.ln.kern.legacy then 16 else 32) slot t) := by
  have ht' : t < 32 := by split at ht <;> omega
  have hval : ∀ a b : Regs, a.val = b.val → a.get 0 t = b.get 0 t := fun a b hab => by rw [Regs.get, Regs.get, hab]
  rw [preload_eq, hval _ _ (foldl_sStep _ _).2.1]
  rw [Group.threadPre, List.filter_cons_of_pos (p := fun p : Nat × (Nat → Word) => bit g.ln.kern.preload p.1) h,
    List.zipIdx_cons, List.foldl_cons, foldl_preStep_get _ _ _ _ _ _ _ ht' (by omega),
    preStep, preV_get _ _ _ _ _ ht']
  exact (if_pos rfl).trans (if_pos ht)

/-- s0 after the preloads, where a preload of one word comes first. -/
theorem preload_s0 {g : Group} {slot : Nat} {r : Regs} {m v : Nat} {l : List (Nat × Bool × Nat)}
    (h : (g.warpPre slot).filter (fun p => bit g.ln.kern.preload p.1) = (m, false, v) :: l) :
    (preload g slot 0 r).sGet 0 = BitVec.ofNat 32 v := by
  rw [preload_eq, h, foldl_sStep_head]

/-! ### A group that starts -/

theorem find_map_key {α : Type} (f : Nat → α) (l : List Nat) (k : Nat) :
    SMap.find (l.map fun j => (j, f j)) k = if k ∈ l then some (f k) else none := by
  induction l with
  | nil => rfl
  | cons x l ih =>
    rw [List.map_cons, find_cons, ih]
    rcases eq_or_ne x k with rfl | hx
    · simp
    · simp [hx, hx.symm]

theorem begin_warp (g : Group) (j : Nat) : g.begin.warp? j = if j < g.ln.warps then some (g.startWarp g.ctx j) else none := by
  refine (find_map_key (g.startWarp g.ctx) (List.range g.ln.warps) j).trans ?_
  simp only [List.mem_range]

/-- The registers and threads of a warp at its start (R17, R39, R41, R128). -/
theorem startWarp_spec (g : Group) (j : Nat) :
    let k := g.ln.kern
    let width := if k.legacy then 16 else 32
    let n := g.ln.threads - width * j
    let w := g.startWarp g.ctx j
    (∀ t, w.thread t = if t < width ∧ t < n then .live (BitVec.ofNat 32 k.tentry)
      else if t < width ∧ t / 4 * 4 < n then .helper else .exited) ∧
    w = { Warp.fresh w.threads (g.ctx + 0x8000 * j) with regs := w.regs } ∧
    (bit k.preload 0 = true → j < 32 → bit w.regs.vmap 0 = true ∧ ∀ t < width, w.regs.get 0 t = BitVec.ofNat 32 (width * j + t)) ∧
    (∀ m < 128, bit w.regs.vmap m = true ↔ m < (bit k.preload 0).toNat + (bit k.preload 1).toNat + (bit k.preload 2).toNat) ∧
    (bit k.preload 3 = true → w.regs.sGet 0 = BitVec.ofNat 32 j) ∧
    (bit k.preload 3 = false → bit k.preload 4 = true → w.regs.sGet 0 = BitVec.ofNat 32 g.gid) ∧
    (k.preload = 0x100 → w.regs.sGet 0 = BitVec.ofNat 32 g.grid) := by
  intro k width n w
  have hv (m : Nat) := preload_vmap g j m
  refine ⟨startThread width n k.tentry, rfl, fun h0 hj => ⟨(hv 0).2 (by simp only [k] at h0; simp [h0]), fun t ht => ?_⟩,
    fun m _ => hv m, fun h => preload_s0 (g := g) (List.filter_cons_of_pos h), fun h3 h4 => ?_, fun h => ?_⟩
  · refine (preload_tid h0 j ht).trans ?_
    rw [startTid, if_pos hj]
  · have h3' : bit g.ln.kern.preload 3 = false := h3
    have h4' : bit g.ln.kern.preload 4 = true := h4
    exact preload_s0 (g := g) (m := 4) (l := ((g.warpPre j).drop 2).filter fun p => bit g.ln.kern.preload p.1) (by simp [Group.warpPre, h3', h4'])
  · have hp : g.ln.kern.preload = 0x100 := h
    refine preload_s0 (g := g) (m := 8) (l := []) ?_
    simp [hp, Group.warpPre, bit]

/-- The start of a group (R17, R41, R239, R272). -/
theorem groupStart_spec {s : State} {g : Group} (hg : s.group? s.ctl.arg.uid = some g) (hs : g.started = false) (hi : g.image = false) :
    exec .groupStart s = .next ((s.acquire g.core 3).setGroup g.begin) := by
  change execGroupStart s = _
  rw [execGroupStart, hg]
  simp [hs, hi]

end Sys2Proof.Laws

end

section
/-!
SUPPORT. The end of a group (R18, R272): what its release, its departure and the end of its grid leave.
-/

namespace Sys2Proof.Laws

open Sys2Proof.Machine

/-! ### A release leaves no dirty byte in the L1 -/

theorem devStore_cores (s : State) (k ln : Nat) (mask : BitVec 128) (x : BitVec 1024) : (s.devStore k ln mask x).cores = s.cores := by
  unfold State.devStore State.setPartLine
  split
  · rfl
  · split <;> rfl

theorem writeThrough_cores (s : State) (c k ln : Nat) (mask : BitVec 128) (x : BitVec 1024) :
    (s.writeThrough c k ln mask x).cores = s.cores := by
  unfold State.writeThrough
  simp only [devStore_cores]
  split <;> rfl

theorem countComp_cores (s : State) (t d : Nat) (b : Bool) (x : BitVec 1024) (full : Bool) : (s.countComp t d b x full).cores = s.cores := by
  unfold State.countComp
  split <;> rfl

theorem l1Line_of_cores {s t : State} (h : t.cores = s.cores) (c ln : Nat) : t.l1Line c ln = s.l1Line c ln := by
  unfold State.l1Line State.core
  rw [h]

theorem flushL1Line_dirty (s : State) (tn c ln k : Nat) :
    ((s.flushL1Line tn c ln 3).l1Line c k).dirty = if k = ln then 0 else (s.l1Line c k).dirty := by
  unfold State.flushL1Line
  simp only
  split
  · rename_i h
    have hd : (s.l1Line c ln).dirty = 0 := by simpa using h
    split
    · rename_i hk; rw [hk, hd]
    · rfl
  · rw [if_neg (by omega), l1Line_of_cores (writeThrough_cores _ _ _ _ _ _), l1Line_of_cores (countComp_cores _ _ _ _ _ _), l1Line_setL1Line]
    by_cases hk : k = ln
    · rw [if_pos ⟨rfl, hk⟩, if_pos hk]
    · rw [if_neg fun h => hk h.2, if_neg hk]

theorem flushL1Lines_dirty (tn c k : Nat) (l : List Nat) (s : State) :
    ((l.foldl (fun s ln => s.flushL1Line tn c ln 3) s).l1Line c k).dirty = if k ∈ l then 0 else (s.l1Line c k).dirty := by
  induction l generalizing s with
  | nil => simp
  | cons ln l ih =>
    rw [List.foldl_cons, ih, flushL1Line_dirty]
    simp only [List.mem_cons]
    split_ifs <;> simp_all

theorem flushDieLine_cores (s : State) (d ln : Nat) : (s.flushDieLine d ln).cores = s.cores := by
  unfold State.flushDieLine
  simp only
  split <;> rfl

theorem find_of_not_key {α : Type} {m : SMap α} {n : Nat} (h : n ∉ m.map Prod.fst) : SMap.find m n = none := by
  cases hf : SMap.find m n with
  | none => rfl
  | some x => exact absurd (List.mem_map_of_mem (mem_of_find hf)) h

/-- After a release at .dev no byte of the core's L1 is dirty. -/
theorem release_clean (s : State) (tn c ln : Nat) : ((s.release tn c 3).l1Line c ln).dirty = 0 := by
  unfold State.release
  simp only
  rw [if_neg (by omega), if_neg (by omega)]
  have hd : ∀ (l : List (Nat × Line)) (t : State), (l.foldl (fun s p => s.flushDieLine (dieOf c) p.1) t).cores = t.cores := fun l t =>
    List.foldlRecOn (motive := fun u : State => u.cores = t.cores) l _ rfl fun _ h p _ => (flushDieLine_cores _ _ p.1).trans h
  rw [l1Line_of_cores (hd _ _), flushL1Lines_dirty]
  split
  · rfl
  · rename_i h
    rw [State.l1Line, SMap.get, find_of_not_key h]
    rfl

/-! ### The group gone -/

theorem purge_kept (c : Core) (uid : Nat) : (c.purge uid).l1 = c.l1 ∧ (c.purge uid).ta.ring = c.ta.ring := ⟨rfl, rfl⟩

theorem leave_ring (t : TritArray) (p : Nat) : SMap.find (t.leave p true).ring p = none := by
  have h : (t.leave p true).ring = SMap.del t.ring p := by
    unfold TritArray.leave
    simp only [if_true]
    split
    · split <;> rfl
    · rfl
  rw [h, find_del_self]

/-- A group removed: its place in the ring is free, and no core's L1 has changed. -/
theorem dropGroup_spec {s : State} {g : Group} (hg : s.group? g.uid = some g) :
    (s.dropGroup g.uid).group? g.uid = none ∧ (s.dropGroup g.uid).lu = s.lu ∧
    (∀ c, ((s.dropGroup g.uid).core c).l1 = (s.core c).l1) ∧
    ∀ p, g.ring = some p → SMap.find ((s.dropGroup g.uid).core g.core).ta.ring p = none := by
  have hcore : ∀ c, (s.dropGroup g.uid).core c = if c = g.core then
      Core.purge { s.core g.core with ta := match g.ring with | some p => (s.core g.core).ta.leave p true | none => (s.core g.core).ta } g.uid
      else s.core c := by
    intro c
    unfold State.dropGroup
    rw [hg]
    exact core_setCore _ _ _ _
  refine ⟨?_, ?_, fun c => ?_, fun p hp => ?_⟩
  · unfold State.dropGroup
    rw [hg]
    exact find_del_self _ _
  · unfold State.dropGroup
    rw [hg]
    rfl
  · rw [hcore]
    split
    · rename_i h; subst h; rfl
    · rfl
  · rw [hcore, if_pos rfl, (purge_kept _ _).2]
    simp only [hp]
    exact leave_ring _ _

/-! ### The end of a grid -/

theorem returnWeight_frame (s : State) (n w : Nat) :
    s.returnWeight n w = { s with lu := (s.returnWeight n w).lu, fw := (s.returnWeight n w).fw } := by
  unfold State.returnWeight
  split
  · rfl
  · simp only
    split <;> rfl

theorem returnWeight_grids (s : State) (n w : Nat) {m : Nat} {r : Grid} (hs : SMap.sorted s.lu.grids = true)
    (h : SMap.find (s.returnWeight n w).lu.grids m = some r) : SMap.find s.lu.grids m = some r := by
  have hm := mem_of_find h
  unfold State.returnWeight at hm
  split at hm
  · exact find_of_mem hs hm
  · simp only [apply_ite State.lu, State.post, ite_self] at hm
    split at hm
    · exact find_of_mem hs (List.mem_filter.1 hm).1
    · exact find_of_mem hs hm

theorem finishPacket_frame (s : State) (p : Issued) :
    s.finishPacket p = { s with qi := (s.finishPacket p).qi, fw := (s.finishPacket p).fw } := by
  unfold State.finishPacket
  simp only
  split
  · split
    · rfl
    · split <;> rfl
  · rfl

theorem cmdUpdate_frame (s : State) (id : Nat) (f : Issued → Issued) :
    s.cmdUpdate id f = { s with qi := (s.cmdUpdate id f).qi, fw := (s.cmdUpdate id f).fw } := by
  unfold State.cmdUpdate
  split
  · rfl
  · simp only
    rw [finishPacket_frame]

theorem endGrid_frame (s : State) (num : Nat) (fail : Option Nat) :
    s.endGrid num fail = { s with lu := (s.endGrid num fail).lu, qi := (s.endGrid num fail).qi, fw := (s.endGrid num fail).fw } := by
  unfold State.endGrid
  split
  · rfl
  · split
    · rfl
    · simp only
      rw [returnWeight_frame, cmdUpdate_frame]

theorem endGrid_ended (s : State) (num : Nat) (fail : Option Nat) {r : Grid} (hs : SMap.sorted s.lu.grids = true)
    (h : SMap.find (s.endGrid num fail).lu.grids num = some r) : r.ended = true := by
  unfold State.endGrid at h
  split at h
  · rename_i hn; rw [hn] at h; cases h
  · rename_i g hg
    split at h
    · rename_i he
      rw [hg] at h; cases h; exact he
    · have hp := sorted_put s.lu.grids num { g with ended := true, weight := 0, head := [], tail := [], placed := [] } hs
      have h' := returnWeight_grids _ _ _ (by rw [cmdUpdate_frame]; exact hp) h
      rw [cmdUpdate_frame] at h'
      rw [find_put_self] at h'
      cases h'
      rfl

/-! ### The end of a group -/

/-- A grid that loses a group which has ended (R18). -/
def countedEnd (r : Grid) (gid : Nat) : Grid :=
  { r with placed := r.placed.erase gid, endedCount := r.endedCount + 1, asked := r.asked.filter (· != gid) }

/-- The last group ends its grid; another's end settles the barriers that it no longer holds up. -/
theorem endGroup_eq {s : State} {g : Group} {r : Grid} (hr : SMap.find s.lu.grids g.grid = some r) (hu : s.group? g.uid = some g) :
    let u := (s.release g.tenant g.core 3).dropGroup g.uid
    let v := { u with lu := { u.lu with grids := SMap.put s.lu.grids r.num (countedEnd r g.gid) } }
    (r.endedCount + 1 = r.total → s.endGroup g = v.endGrid r.num none) ∧
    (r.endedCount + 1 ≠ r.total → BarsOnly v (s.endGroup g)) := by
  intro u v
  have hrel := (release_warmed s g.tenant g.core 3).rest
  have hlu : u.lu = s.lu := by
    refine (dropGroup_spec (s := s.release g.tenant g.core 3) ?_).2.1.trans (by rw [hrel])
    rw [hrel]; exact hu
  have heq : s.endGroup g = if r.endedCount + 1 = r.total then v.endGrid r.num none
      else (List.range 4).foldl (fun s i => s.settleGd g.grid i) ((List.range 8).foldl (fun s i => s.settleCl g i) v) := by
    unfold State.endGroup
    simp only [u, v] at hlu ⊢
    rw [hlu, hr]
    rfl
  rw [heq]
  refine ⟨fun h => if_pos h, fun h => ?_⟩
  rw [if_neg h]
  exact barsOnly_trans (barsOnly_foldl (fun s i => settleCl_barsOnly s g i) _ _) (barsOnly_foldl (fun s i => settleGd_barsOnly s g.grid i) _ _)

theorem endGroup_spec {s : State} {g : Group} {r : Grid} (hr : SMap.find s.lu.grids g.grid = some r) (hu : s.group? g.uid = some g) :
    (s.endGroup g).group? g.uid = none ∧ (∀ a, ((s.endGroup g).levelByte (.l1 g.core) a).2.1 = false) ∧
    (∀ p, g.ring = some p → SMap.find ((s.endGroup g).core g.core).ta.ring p = none) ∧
    (r.endedCount + 1 ≠ r.total → SMap.find (s.endGroup g).lu.grids r.num = some (countedEnd r g.gid)) ∧
    (r.endedCount + 1 = r.total → SMap.sorted s.lu.grids = true →
      ∀ r', SMap.find (s.endGroup g).lu.grids r.num = some r' → r'.ended = true) := by
  obtain ⟨hlast, hmore⟩ := endGroup_eq hr hu
  have hrel := (release_warmed s g.tenant g.core 3).rest
  obtain ⟨hgone, hlu, hl1, hring⟩ := dropGroup_spec (s := s.release g.tenant g.core 3) (g := g) (by rw [hrel]; exact hu)
  have hkept : (s.endGroup g).groups = ((s.release g.tenant g.core 3).dropGroup g.uid).groups ∧
      (s.endGroup g).cores = ((s.release g.tenant g.core 3).dropGroup g.uid).cores := by
    by_cases h : r.endedCount + 1 = r.total
    · rw [hlast h, endGrid_frame]; exact ⟨rfl, rfl⟩
    · rw [(hmore h).rest]; exact ⟨rfl, rfl⟩
  obtain ⟨hgs, hcs⟩ := hkept
  refine ⟨by rw [State.group?, hgs]; exact hgone, fun a => ?_, fun p hp => ?_, fun h => ?_, fun h hs r' hr' => ?_⟩
  · have hd : ((s.endGroup g).l1Line g.core (a / 128)).dirty = 0 := by
      rw [l1Line_of_cores hcs, State.l1Line, hl1]
      exact release_clean s g.tenant g.core _
    change bit ((s.endGroup g).l1Line g.core (a / 128)).dirty _ = false
    rw [hd]
    exact BitVec.getLsbD_zero
  · rw [State.core, hcs]
    exact hring p hp
  · rw [(hmore h).rest]
    exact find_put_self _ _ _
  · rw [hlast h] at hr'
    exact endGrid_ended _ _ _ (sorted_put _ _ _ hs) hr'

theorem groupEnd_eq {s : State} {g : Group} (hg : s.group? s.ctl.arg.uid = some g) (hf : s.finished g = true) :
    exec .groupEnd s = .next (s.endGroup g) := by
  change execGroupEnd s = _
  rw [execGroupEnd, hg]
  simp [hf]

theorem quiet_of {c : Core} {uid : Nat} (h : (∀ x ∈ c.ta.queue, x.uid ≠ uid) ∧ (∀ p ∈ c.chans, ∀ x ∈ p.2, x.uid ≠ uid) ∧
    (∀ x ∈ c.fifo, x.uid ≠ uid) ∧ (∀ x ∈ c.rays, x.q.uid ≠ uid) ∧ ∀ x ∈ c.splits, x.uid ≠ uid) : c.quiet uid = true := by
  obtain ⟨h1, h2, h3, h4, h5⟩ := h
  unfold Core.quiet
  simp only [Bool.and_eq_true, List.all_eq_true, bne_iff_ne]
  exact ⟨⟨⟨⟨h1, h2⟩, h3⟩, h4⟩, h5⟩

/-- A started group whose routines have ended, with no work left in its core, has finished (R18). -/
theorem finished_of {s : State} {g : Group} (hs : g.started = true) (ha : g.a.ended = true)
    (hw : ∀ k w, (k, w) ∈ g.warps → w.exited = true ∧ w.mode = .running ∧ w.pushDue = none) (hq : (s.core g.core).quiet g.uid = true) :
    s.finished g = true := by
  unfold State.finished
  simp only [hs, ha, hq, Bool.true_and, Bool.and_true, List.all_eq_true, Bool.and_eq_true]
  rintro ⟨k, w⟩ hm
  obtain ⟨he, hmode, hp⟩ := hw k w hm
  exact ⟨⟨he, by simp [hmode]⟩, by simp [hp]⟩

end Sys2Proof.Laws

end

section
/-!
SUPPORT. The quantum's expiry (R353): the oldest group of a grid is the one whose run timer is the largest.
-/

namespace Sys2Proof.Laws

open Sys2Proof.Machine

/-- One of two groups that has run longer, the lower $gid on a tie (R353). -/
def older (a : Option Group) (g : Group) : Option Group :=
  match a with
  | none => some g
  | some b => if b.timer < g.timer ∨ (b.timer = g.timer ∧ g.gid < b.gid) then some g else some b

theorem foldl_older_beaten (g : Group) (l : List Group)
    (h : ∀ x ∈ l, x = g ∨ x.timer < g.timer ∨ (x.timer = g.timer ∧ g.gid < x.gid)) : l.foldl older (some g) = some g := by
  refine List.foldlRecOn (motive := fun o => o = some g) l older rfl fun o ho x hx => ?_
  subst ho
  rcases h x hx with rfl | hlt
  · simp [older]
  · simp only [older]
    rw [if_neg (by omega)]

/-- The one that has run longest of all comes out of the search. -/
theorem foldl_older {g : Group} {l : List Group} (hg : g ∈ l)
    (h : ∀ x ∈ l, x = g ∨ x.timer < g.timer ∨ (x.timer = g.timer ∧ g.gid < x.gid)) : l.foldl older none = some g := by
  obtain ⟨l1, l2, rfl⟩ := List.append_of_mem hg
  rw [List.foldl_append, List.foldl_cons]
  have h1 : ∀ o, l1.foldl older none = o → older o g = some g := by
    rintro o rfl
    refine List.foldlRecOn (motive := fun o => older o g = some g) l1 older rfl fun o ho x hx => ?_
    rcases h x (List.mem_append_left _ hx) with rfl | hlt
    · cases o with
      | none => simp [older]
      | some b =>
        rw [ho]
        simp [older]
    · cases o with
      | none => simp [older, hlt]
      | some b =>
        simp only [older] at ho ⊢
        grind
  rw [h1 _ rfl]
  exact foldl_older_beaten g l2 fun x hx => h x (List.mem_append_right _ (List.mem_cons_of_mem _ hx))

theorem oldest_eq {s : State} {num : Nat} {g : Group} (hg : (g.uid, g) ∈ s.groups) (hgrid : g.grid = num) (hst : g.started = true)
    (hs : SMap.sorted s.groups = true) (hown : ∀ p ∈ s.groups, p.2.uid = p.1)
    (h : ∀ p ∈ s.groups, p.2.grid = num → p.2.started = true → p.2.uid ≠ g.uid →
      p.2.timer < g.timer ∨ (p.2.timer = g.timer ∧ g.gid < p.2.gid)) : s.oldest num = some g := by
  refine foldl_older (List.mem_filter.2 ⟨List.mem_map.2 ⟨_, hg, rfl⟩, by simp [hgrid, hst]⟩) fun x hx => ?_
  obtain ⟨hm, hq⟩ := List.mem_filter.1 hx
  obtain ⟨⟨u, x⟩, hmem, rfl⟩ := List.mem_map.1 hm
  simp only [Bool.and_eq_true, beq_iff_eq] at hq
  by_cases hu : x.uid = g.uid
  · have hux : u = g.uid := (hown _ hmem).symm.trans hu
    exact .inl (Option.some.inj ((find_of_mem hs (hux ▸ hmem)).symm.trans (find_of_mem hs hg)))
  · exact .inr (h _ hmem hq.1 hq.2 hu)

/-- The oldest group of a grid at its quantum is asked to stop. -/
theorem quantumExpiry_eq {s : State} {r : Grid} {g : Group} {gid : Nat} (hr : SMap.find s.lu.grids s.ctl.arg.uid = some r)
    (hready : r.ready = true) (hasked : r.asked = none) (hw : r.waiting = some gid) (hp : s.placeGrid r = none)
    (ho : s.oldest r.num = some g) (hpre : g.preempt = false) (hq : 2 ^ r.ln.quantum ≤ g.timer) :
    exec .quantumExpiry s = .next ({ s with lu := { s.lu with grids := SMap.put s.lu.grids r.num { r with asked := some g.gid } } }.setGroup
      { g with preempt := true, toHead := false }) := by
  change execQuantumExpiry s = _
  unfold execQuantumExpiry
  simp only [hr, ho, hw, hready, hasked, hpre, hp, Option.isSome_none, Bool.not_true, Bool.or_false]
  exact if_neg (by simpa using hq)

end Sys2Proof.Laws

end

section
/-!
SUPPORT. Bytes stored run by run in aligned 16-byte units, as a group's image is (R222, R228).
-/

namespace Sys2Proof.Machine

/-- One unit of a run of bytes stored. -/
def State.storeUnit (c tenant sc : Nat) (p : Page) (bs : List Byte) (s : State) (i : Nat) : State :=
  s.gStore c tenant sc (p.at (16 * i)) ((bs.drop (16 * i)).take 16).length (leNat ((bs.drop (16 * i)).take 16))

end Sys2Proof.Machine

namespace Sys2Proof.Laws

open Sys2Proof.Machine

theorem sameBytes_refl (s : State) (r : Nat → Prop) : SameBytes s s r := fun _ _ _ => rfl

theorem sameBytes_trans {s t u : State} {r : Nat → Prop} (h1 : SameBytes s t r) (h2 : SameBytes t u r) : SameBytes s u r :=
  fun v a ha => (h2 v a ha).trans (h1 v a ha)

theorem memByte_of_sameBytes {s t : State} {r : Nat → Prop} (h : SameBytes s t r) {a : Nat} (ha : ¬ r a) :
    memByte t.mem a = memByte s.mem a := congrArg (fun x => x.2.2) (h .home a ha)

theorem gStore_kept (s : State) (c tn sc : Nat) (p : Page) (n v : Nat) :
    (s.gStore c tn sc p n v).groups = s.groups ∧ (s.gStore c tn sc p n v).lu = s.lu := by
  unfold State.gStore
  simp only
  split
  · exact ⟨rfl, rfl⟩
  · split
    · rw [dieStore_frame]; exact ⟨rfl, rfl⟩
    · rw [writeThrough_frame]; exact ⟨rfl, rfl⟩

/-- A store at .dev on an ordinary page stands in memory at once (R263). -/
theorem gStore_home (s : State) (c tn : Nat) (p : Page) (u : List Byte) (a : Nat) (hk : p.kind = 0) (h : p.pa % 128 + u.length ≤ 128)
    (ha : inAccess p u.length a) : some (memByte (s.gStore c tn 3 p u.length (leNat u)).mem a) = u[a - p.pa]? := by
  obtain ⟨h1, h2⟩ := ha
  obtain ⟨hl, hb⟩ := (inAccess_iff h).1 ⟨h1, h2⟩
  have hlt : leNat u % 2 ^ (8 * u.length) = leNat u := by
    refine Nat.mod_eq_of_lt ?_
    rw [pow_mul]
    exact leNat_lt u
  have hmem : memByte (s.gStore c tn 3 p u.length (leNat u)).mem a = lineByte (natLine (leNat u) (p.pa % 128)) (a % 128) := by
    unfold State.gStore State.writeThrough State.devStore
    simp only [hk, hlt]
    rw [if_neg (by omega), if_neg (by omega), if_pos (by simp)]
    exact (memByte_homeStore _ _ _ _ _).trans (if_pos ⟨hl, hb⟩)
  have hi : a - p.pa < u.length := by omega
  rw [hmem, lineByte_natLine (leNat_lt u) h, if_pos (by omega), show a % 128 - p.pa % 128 = a - p.pa by omega, List.getElem?_eq_getElem hi]
  refine congrArg some (BitVec.eq_of_toNat_eq ?_)
  rw [BitVec.toNat_ofNat, leNat_byte, List.getElem?_eq_getElem hi]
  rfl

section
variable (c tn : Nat) {p : Page} (bs : List Byte) (h : p.pa % 128 = 0)

include h in
theorem storeUnit_sameBytes (sc : Nat) (s : State) (i : Nat) :
    SameBytes s (s.storeUnit c tn sc p bs i) (inAccess (p.at (16 * i)) ((bs.drop (16 * i)).take 16).length) := by
  refine gStore_others _ _ _ _ _ _ _ ?_
  have hl : ((bs.drop (16 * i)).take 16).length ≤ 16 := List.length_take_le _ _
  change (p.pa + 16 * i) % 128 + _ ≤ 128
  omega

include h in
theorem storeUnits_spec (sc : Nat) (s : State) (n : Nat) :
    let t := (List.range n).foldl (State.storeUnit c tn sc p bs) s
    SameBytes s t (fun a => p.pa ≤ a ∧ a < p.pa + bs.length) ∧ t.groups = s.groups ∧ t.lu = s.lu := by
  refine List.foldlRecOn (motive := fun t => SameBytes s t (fun a => p.pa ≤ a ∧ a < p.pa + bs.length) ∧ t.groups = s.groups ∧ t.lu = s.lu)
    _ _ ⟨sameBytes_refl s _, rfl, rfl⟩ fun t ht i _ => ?_
  obtain ⟨hb, hg, hl⟩ := ht
  obtain ⟨hg', hl'⟩ := gStore_kept t c tn sc (p.at (16 * i)) ((bs.drop (16 * i)).take 16).length (leNat ((bs.drop (16 * i)).take 16))
  refine ⟨sameBytes_trans hb fun v a ha => storeUnit_sameBytes c tn bs h sc t i v a fun hin => ha ?_, hg'.trans hg, hl'.trans hl⟩
  obtain ⟨h1, h2⟩ := hin
  rw [List.length_take, List.length_drop] at h2
  change p.pa + 16 * i ≤ a at h1
  change a < p.pa + 16 * i + _ at h2
  omega

include h in
theorem storeUnits_home (hk : p.kind = 0) (s : State) (n : Nat) :
    ∀ i, i < 16 * n → i < bs.length →
      some (memByte ((List.range n).foldl (State.storeUnit c tn 3 p bs) s).mem (p.pa + i)) = bs[i]? := by
  induction n with
  | zero => intro i hi; omega
  | succ n ih =>
    intro i hi hlen
    rw [List.range_succ, List.foldl_append]
    change some (memByte (State.storeUnit c tn 3 p bs _ n).mem _) = _
    have hul : ((bs.drop (16 * n)).take 16).length = min 16 (bs.length - 16 * n) := by rw [List.length_take, List.length_drop]
    by_cases hin : i < 16 * n
    · rw [memByte_of_sameBytes (storeUnit_sameBytes c tn bs h 3 _ n) fun hh => by
        have h1 : p.pa + 16 * n ≤ p.pa + i := hh.1
        omega]
      exact ih i hin hlen
    · refine (gStore_home _ c tn (p.at (16 * n)) _ _ hk ?_ ⟨?_, ?_⟩).trans ?_
      · change (p.pa + 16 * n) % 128 + _ ≤ 128
        omega
      · change p.pa + 16 * n ≤ p.pa + i
        omega
      · change p.pa + i < p.pa + 16 * n + _
        omega
      · change ((bs.drop (16 * n)).take 16)[p.pa + i - (p.pa + 16 * n)]? = _
        rw [List.getElem?_take_of_lt (by omega), List.getElem?_drop]
        congr 1
        omega

include h in
/-- A run of bytes stored at .dev: they alone change, and on an ordinary page they stand in memory. -/
theorem gStoreList_spec (s : State) :
    let t := s.gStoreList c tn 3 p bs
    SameBytes s t (fun a => p.pa ≤ a ∧ a < p.pa + bs.length) ∧ t.groups = s.groups ∧ t.lu = s.lu ∧
    (p.kind = 0 → ∀ i < bs.length, some (memByte t.mem (p.pa + i)) = bs[i]?) := by
  obtain ⟨hb, hg, hl⟩ := storeUnits_spec c tn bs h 3 s ((bs.length + 15) / 16)
  exact ⟨hb, hg, hl, fun hk i hi => storeUnits_home c tn bs h hk s _ i (by omega) hi⟩

end

end Sys2Proof.Laws

end

section
/-!
SUPPORT. The group image (R228, R230): where its fields stand, and that reading it back gives the queues that it was made of.
-/

namespace Sys2Proof.Machine

/-- The queues of a group as its image lists them: entries of two words (R228). -/
def Group.imageLists (g : Group) : List (List (Nat × Nat)) :=
  let q := g.queues
  let words (l : List Word) : List (Nat × Nat) := l.map fun w => (w.toNat, 0)
  let bc (l : List BEntry) : List (Nat × Nat) := l.map fun e => (e.payload.toNat, e.pops.toNat)
  let ga (l : List (BitVec 32)) : List (Nat × Nat) := l.map fun m => (m.toNat, m.toNat)
  [words q.fmt, bc q.b1, bc q.b2, bc q.b3, ga q.g4, ga q.g5, words q.t6, words q.t7]

/-- The first field of the image: the crown's mark and the ring position. -/
def Group.imageMark (g : Group) : Nat := (if g.heldAtSave then 1 else 0) + 2 * g.ring.getD 0

end Sys2Proof.Machine

namespace Sys2Proof.Laws

open Sys2Proof.Machine

/-! ### Words of a run of bytes -/

theorem wordAt_append_left {a b : List Byte} {o n : Nat} (h : o + n ≤ a.length) : wordAt (a ++ b) o n = wordAt a o n := by
  unfold wordAt
  rw [List.drop_append_of_le_length (by omega), List.take_append_of_le_length (by rw [List.length_drop]; omega)]

theorem wordAt_append_right (a b : List Byte) (o n : Nat) : wordAt (a ++ b) (a.length + o) n = wordAt b o n := by
  unfold wordAt
  rw [List.drop_length_add_append]

theorem wordAt_leBytes (n v : Nat) : wordAt (leBytes n v) 0 n = v % 256 ^ n := by
  unfold wordAt
  rw [List.drop_zero, List.take_of_length_le (leBytes_length n v).le, leNat_leBytes]

theorem length_flatMap_blocks {α : Type} {f : α → List Byte} {w : Nat} (hf : ∀ x, (f x).length = w) (l : List α) :
    (l.flatMap f).length = w * l.length := by
  induction l with
  | nil => rfl
  | cons x l ih => rw [List.flatMap_cons, List.length_append, hf, ih, List.length_cons]; ring

/-- A word within block k of blocks of one length. -/
theorem wordAt_flatMap {α : Type} {f : α → List Byte} {w : Nat} (hf : ∀ x, (f x).length = w) {l : List α} {k : Nat} {x : α}
    (hk : l[k]? = some x) {o n : Nat} (h : o + n ≤ w) : wordAt (l.flatMap f) (w * k + o) n = wordAt (f x) o n := by
  induction l generalizing k with
  | nil => cases hk
  | cons y l ih =>
    rw [List.flatMap_cons]
    cases k with
    | zero =>
      cases hk
      rw [Nat.mul_zero, Nat.zero_add, wordAt_append_left (by rw [hf]; omega)]
    | succ k =>
      rw [show w * (k + 1) + o = (f y).length + (w * k + o) by rw [hf]; ring, wordAt_append_right]
      exact ih hk

/-! ### One queue of an image -/

/-- An entry of a queue in an image. -/
def entryBytes (x : Nat × Nat) : List Byte := leBytes 4 x.1 ++ leBytes 4 x.2

theorem entryBytes_length (x : Nat × Nat) : (entryBytes x).length = 8 := by simp [entryBytes]

theorem queueImage_eq (l : List (Nat × Nat)) : queueImage l =
    (leBytes 4 l.length ++ leBytes 4 0) ++ (List.range 16).flatMap fun i => entryBytes (l.getD i (0, 0)) := rfl

theorem queueImage_length (l : List (Nat × Nat)) : (queueImage l).length = 136 := by
  rw [queueImage_eq, List.length_append, length_flatMap_blocks fun _ => entryBytes_length _]
  simp

theorem queueImage_count (l : List (Nat × Nat)) : wordAt (queueImage l) 0 4 = l.length % 256 ^ 4 := by
  rw [queueImage_eq, wordAt_append_left (by simp), wordAt_append_left (by simp), wordAt_leBytes]

theorem queueImage_gap (l : List (Nat × Nat)) : wordAt (queueImage l) 4 4 = 0 := by
  rw [queueImage_eq, wordAt_append_left (by simp)]
  have h := wordAt_append_right (leBytes 4 l.length) (leBytes 4 0) 0 4
  rw [leBytes_length, wordAt_leBytes] at h
  exact h

theorem queueImage_entry (l : List (Nat × Nat)) {i : Nat} (hi : i < 16) :
    wordAt (queueImage l) (8 + 8 * i) 4 = (l.getD i (0, 0)).1 % 256 ^ 4 ∧
    wordAt (queueImage l) (12 + 8 * i) 4 = (l.getD i (0, 0)).2 % 256 ^ 4 := by
  have hk : (List.range 16)[i]? = some i := List.getElem?_range hi
  have h8 (o : Nat) (ho : o + 4 ≤ 8) : wordAt (queueImage l) (8 + (8 * i + o)) 4 = wordAt (entryBytes (l.getD i (0, 0))) o 4 := by
    have hr := wordAt_append_right (leBytes 4 l.length ++ leBytes 4 0) ((List.range 16).flatMap fun i => entryBytes (l.getD i (0, 0))) (8 * i + o) 4
    rw [List.length_append, leBytes_length, leBytes_length] at hr
    exact hr.trans (wordAt_flatMap (f := fun i => entryBytes (l.getD i (0, 0))) (fun _ => entryBytes_length _) hk ho)
  constructor
  · refine (h8 0 (by omega)).trans ?_
    rw [entryBytes, wordAt_append_left (by simp), wordAt_leBytes]
  · rw [show 12 + 8 * i = 8 + (8 * i + 4) by ring, h8 4 (by omega), entryBytes]
    have h := wordAt_append_right (leBytes 4 (l.getD i (0, 0)).1) (leBytes 4 (l.getD i (0, 0)).2) 0 4
    rw [leBytes_length, wordAt_leBytes] at h
    exact h

/-! ### The whole image -/

theorem imageBytes_eq (g : Group) : g.imageBytes = leBytes 8 g.imageMark ++ g.imageLists.flatMap queueImage := by
  simp [Group.imageBytes, Group.imageLists, Group.imageMark]

theorem imageBytes_length (g : Group) : g.imageBytes.length = 1096 := by
  rw [imageBytes_eq, List.length_append, leBytes_length, length_flatMap_blocks queueImage_length,
    show g.imageLists.length = 8 from rfl]

theorem imageBytes_mark (g : Group) : wordAt g.imageBytes 0 8 = g.imageMark % 256 ^ 8 := by
  rw [imageBytes_eq, wordAt_append_left (by simp), wordAt_leBytes]

section
variable {g : Group} {k : Nat} {l : List (Nat × Nat)} (hk : g.imageLists[k]? = some l)

include hk in
/-- A word of queue k stands in block k. -/
theorem imageBytes_word {o n : Nat} (h : o + n ≤ 136) : wordAt g.imageBytes (8 + 136 * k + o) n = wordAt (queueImage l) o n := by
  rw [imageBytes_eq]
  have hr := wordAt_append_right (leBytes 8 g.imageMark) (g.imageLists.flatMap queueImage) (136 * k + o) n
  rw [leBytes_length, ← Nat.add_assoc] at hr
  exact hr.trans (wordAt_flatMap queueImage_length hk h)

include hk in
theorem imageBytes_count (hl : l.length ≤ 16) : wordAt g.imageBytes (8 + 136 * k) 4 = l.length := by
  have h := imageBytes_word hk (o := 0) (n := 4) (by omega)
  rw [queueImage_count, Nat.mod_eq_of_lt (by omega)] at h
  exact h

include hk in
theorem imageQueue_eq (hl : l.length ≤ 16) :
    imageQueue g.imageBytes k = l.map fun x => (BitVec.ofNat 32 x.1, BitVec.ofNat 32 x.2) := by
  have hmod (v : Nat) : BitVec.ofNat 32 (v % 256 ^ 4) = BitVec.ofNat 32 v :=
    BitVec.eq_of_toNat_eq (by rw [BitVec.toNat_ofNat, BitVec.toNat_ofNat]; omega)
  unfold imageQueue
  simp only [imageBytes_count hk hl, Nat.min_eq_right hl]
  refine List.ext_getElem? fun i => ?_
  by_cases hi : i < l.length
  · obtain ⟨h1, h2⟩ := queueImage_entry l (i := i) (by omega)
    have hw1 := imageBytes_word hk (o := 8 + 8 * i) (n := 4) (by omega)
    have hw2 := imageBytes_word hk (o := 12 + 8 * i) (n := 4) (by omega)
    rw [← Nat.add_assoc] at hw1 hw2
    have hg : l.getD i (0, 0) = l[i] := List.getD_eq_getElem l _ hi
    rw [List.getElem?_map, List.getElem?_map, List.getElem?_range hi, List.getElem?_eq_getElem hi, Option.map_some, Option.map_some,
      hw1, hw2, h1, h2, hmod, hmod, hg]
  · rw [List.getElem?_eq_none (by simp; omega), List.getElem?_eq_none (by simp; omega)]

end

/-- No queue of a group is longer than an image has room for. -/
structure Short (q : Queues) : Prop where
  fmt : q.fmt.length ≤ 16
  b1 : q.b1.length ≤ 16
  b2 : q.b2.length ≤ 16
  b3 : q.b3.length ≤ 16
  g4 : q.g4.length ≤ 16
  g5 : q.g5.length ≤ 16
  t6 : q.t6.length ≤ 16
  t7 : q.t7.length ≤ 16

theorem map_eq_self {α : Type} {f : α → α} (hf : ∀ x, f x = x) (l : List α) : l.map f = l := by
  rw [funext hf]
  exact List.map_id' l

theorem imageQueue_words {g : Group} {k : Nat} {l : List Word} (hk : g.imageLists[k]? = some (l.map fun w => (w.toNat, 0)))
    (hl : l.length ≤ 16) : (imageQueue g.imageBytes k).map Prod.fst = l := by
  rw [imageQueue_eq hk (by simpa using hl), List.map_map, List.map_map]
  exact map_eq_self (fun x => by simp) l

theorem imageQueue_entries {g : Group} {k : Nat} {l : List BEntry} (hk : g.imageLists[k]? = some (l.map fun e => (e.payload.toNat, e.pops.toNat)))
    (hl : l.length ≤ 16) : ((imageQueue g.imageBytes k).map fun x => ({ payload := x.1, pops := x.2 } : BEntry)) = l := by
  rw [imageQueue_eq hk (by simpa using hl), List.map_map, List.map_map]
  exact map_eq_self (fun x => by simp) l

theorem imageQueue_masks {g : Group} {k : Nat} {l : List (BitVec 32)} (hk : g.imageLists[k]? = some (l.map fun m => (m.toNat, m.toNat)))
    (hl : l.length ≤ 16) : (imageQueue g.imageBytes k).map Prod.snd = l := by
  rw [imageQueue_eq hk (by simpa using hl), List.map_map, List.map_map]
  exact map_eq_self (fun x => by simp) l

/-- The image read back gives the queues. -/
theorem imageQueues_imageBytes {g : Group} (h : Short g.queues) : imageQueues g.imageBytes = g.queues := by
  unfold imageQueues
  simp only [imageQueue_words (g := g) (k := 0) rfl h.fmt, imageQueue_entries (g := g) (k := 1) rfl h.b1,
    imageQueue_entries (g := g) (k := 2) rfl h.b2, imageQueue_entries (g := g) (k := 3) rfl h.b3,
    imageQueue_masks (g := g) (k := 4) rfl h.g4, imageQueue_masks (g := g) (k := 5) rfl h.g5,
    imageQueue_words (g := g) (k := 6) rfl h.t6, imageQueue_words (g := g) (k := 7) rfl h.t7]

/-- The lists of an image fit, and those of queues 0, 6 and 7 have no masks. -/
theorem imageLists_fit {g : Group} (h : Short g.queues) {k : Nat} {l : List (Nat × Nat)} (hk : g.imageLists[k]? = some l) :
    l.length ≤ 16 ∧ (1 ≤ k ∧ k ≤ 5 ∨ ∀ x ∈ l, x.2 = 0) := by
  obtain ⟨h0, h1, h2, h3, h4, h5, h6, h7⟩ := h
  have hwords (q : List Word) : ∀ x ∈ q.map fun w => (w.toNat, 0), x.2 = 0 := by simp
  match k, hk with
  | 0, rfl => exact ⟨by simpa using h0, .inr (hwords _)⟩
  | 1, rfl => exact ⟨by simpa using h1, .inl (by omega)⟩
  | 2, rfl => exact ⟨by simpa using h2, .inl (by omega)⟩
  | 3, rfl => exact ⟨by simpa using h3, .inl (by omega)⟩
  | 4, rfl => exact ⟨by simpa using h4, .inl (by omega)⟩
  | 5, rfl => exact ⟨by simpa using h5, .inl (by omega)⟩
  | 6, rfl => exact ⟨by simpa using h6, .inr (hwords _)⟩
  | 7, rfl => exact ⟨by simpa using h7, .inr (hwords _)⟩

/-- The image of a group in a ring position, or in none, has its reserved fields at zero. -/
theorem imageZeros_imageBytes {g : Group} (h : Short g.queues) (hr : ∀ p, g.ring = some p → p < 8) : imageZeros g.imageBytes = true := by
  have hmark : g.imageMark < 16 := by
    unfold Group.imageMark
    cases hg : g.ring with
    | none => split <;> simp
    | some p => have := hr p hg; simp only [Option.getD_some]; split <;> omega
  unfold imageZeros
  rw [Bool.and_eq_true, beq_iff_eq, imageBytes_mark, List.all_eq_true]
  refine ⟨by omega, fun k hk => ?_⟩
  obtain ⟨l, hl⟩ : ∃ l, g.imageLists[k]? = some l := ⟨_, List.getElem?_eq_getElem (List.mem_range.1 hk)⟩
  obtain ⟨hlen, hzero⟩ := imageLists_fit h hl
  have hgap := (imageBytes_word hl (o := 4) (n := 4) (by omega)).trans (queueImage_gap l)
  simp only [imageBytes_count hl hlen, hgap, hlen, decide_true, beq_self_eq_true, Bool.true_and, Bool.or_eq_true, Bool.and_eq_true,
    decide_eq_true_eq, List.all_eq_true, beq_iff_eq, List.mem_range]
  refine hzero.imp_right fun hz i hi => ?_
  have hw := (imageBytes_word hl (o := 12 + 8 * i) (n := 4) (by omega)).trans (queueImage_entry l (by omega)).2
  rw [← Nat.add_assoc] at hw
  rw [hw, List.getD_eq_getElem l _ hi, hz _ (List.getElem_mem hi)]
  rfl

end Sys2Proof.Laws

end

section
/-!
SUPPORT. A group that is saved and resumed (R228 to R230): what its record keeps of each stream, and how each starts again.
-/

namespace Sys2Proof.Machine

/-- The entry of a completed save routine. -/
def RunMode.savedEntry (m : RunMode) : Option Nat := match m with | .saved n => some n | _ => none

end Sys2Proof.Machine

namespace Sys2Proof.Laws

open Sys2Proof.Machine

theorem savedEntry_eq (m : RunMode) (n : Nat) : m.savedEntry = some n ↔ m = .saved n := by
  cases m <;> simp [RunMode.savedEntry]

/-! ### The record of a save -/

/-- A table with some of its values mapped and the others left out. -/
theorem find_filterMap {α β : Type} (f : α → Option β) {m : SMap α} (hs : SMap.sorted m = true) (k : Nat) :
    SMap.find (m.filterMap fun p => (f p.2).map (p.1, ·)) k = (SMap.find m k).bind f := by
  induction m with
  | nil => rfl
  | cons p t ih =>
    obtain ⟨n, x⟩ := p
    obtain ⟨ha, ht⟩ := (sorted_cons n x t).1 hs
    rw [List.filterMap_cons, find_cons]
    cases hx : f x with
    | none =>
      refine (ih ht).trans ?_
      by_cases hn : n = k
      · subst hn
        have hnone : SMap.find t n = none := find_of_not_key fun h => by
          obtain ⟨p, hp, he⟩ := List.mem_map.1 h
          exact absurd (ha p hp) (by omega)
        rw [hnone, if_pos rfl]
        exact hx.symm
      · rw [if_neg hn]
    | some y =>
      change SMap.find ((n, y) :: _) k = _
      rw [find_cons, ih ht]
      by_cases hn : n = k
      · rw [if_pos hn, if_pos hn]; exact hx.symm
      · rw [if_neg hn, if_neg hn]

theorem saveRec_warps (g : Group) : g.saveRec.warps = g.warps.filterMap fun p => p.2.mode.savedEntry.map (p.1, ·) := by
  refine congrArg (fun f => List.filterMap f g.warps) (funext fun p => ?_)
  unfold RunMode.savedEntry
  cases p.2.mode <;> rfl

/-- What the record of a save keeps (R228, log 45). -/
theorem saveRec_spec (g : Group) :
    (∀ n, g.saveRec.aEntry = some n ↔ g.a.mode = .saved n) ∧
    (∀ k w n, g.warp? k = some w → SMap.sorted g.warps = true → (SMap.find g.saveRec.warps k = some n ↔ w.mode = .saved n)) ∧
    (∀ k w n, g.warp? k = some w → SMap.sorted g.warps = true → (SMap.find g.saveRec.held k = some n ↔ w.keptPop = some n)) ∧
    ∀ k w, g.warp? k = some w → SMap.get 0 g.saveRec.counts k = w.safecnt := by
  refine ⟨fun n => savedEntry_eq g.a.mode n, fun k w n hw hs => ?_, fun k w n hw hs => ?_, fun k w hw => ?_⟩
  · rw [saveRec_warps, find_filterMap (fun w : Warp => w.mode.savedEntry) hs, show SMap.find g.warps k = some w from hw]
    exact savedEntry_eq w.mode n
  · have h := find_filterMap (fun w : Warp => w.keptPop) hs k
    rw [show SMap.find g.warps k = some w from hw] at h
    exact iff_of_eq (congrArg (· = some n) h)
  · have h := find_mapv (fun _ (w : Warp) => w.safecnt) g.warps k
    rw [show SMap.find g.warps k = some w from hw] at h
    exact congrArg (Option.getD · 0) h

/-! ### The step of a save -/

/-- Where the image goes: the page of the group's context area that holds it (R225, R228). -/
def imageVa (g : Group) : Nat := g.ctx + 0x200080

section
variable {s : State} {g : Group} (hg : s.group? s.ctl.arg.uid = some g) (he : s.routinesEnded g = true)

include hg he

theorem groupSave_ok {p : Page} (hp : (s.translate g.core g.tenant g.asid (imageVa g)).2 = .ok p) (hw : p.w = true) :
    exec .groupSaveComplete s = .next ((((s.translate g.core g.tenant g.asid (imageVa g)).1.gStoreList g.core g.tenant 3 p
      g.imageBytes).release g.tenant g.core 3).putAway g.parted g.toHead) := by
  rw [imageVa] at hp ⊢
  change execGroupSaveComplete s = _
  simp [execGroupSaveComplete, hg, he, hp, hw]

theorem groupSave_readOnly {p : Page} (hp : (s.translate g.core g.tenant g.asid (imageVa g)).2 = .ok p) (hw : p.w = false) :
    exec .groupSaveComplete s = .next
      ((s.translate g.core g.tenant g.asid (imageVa g)).1.gridFault g 64 Cause.prot.code 0 g.a.apc (BitVec.ofNat 64 (imageVa g)) true) := by
  rw [imageVa] at hp ⊢
  change execGroupSaveComplete s = _
  simp [execGroupSaveComplete, hg, he, hp, hw, State.ctxFault]

theorem groupSave_untranslated {k : Nat} (hp : (s.translate g.core g.tenant g.asid (imageVa g)).2 = .error k) :
    exec .groupSaveComplete s = .next ((s.translate g.core g.tenant g.asid (imageVa g)).1.ctxFault g (imageVa g) 1 (some k)) := by
  rw [imageVa] at hp ⊢
  change execGroupSaveComplete s = _
  simp [execGroupSaveComplete, hg, he, hp]

end

/-- A group's warps once it has left its core: their open queries are gone with its engine work. -/
theorem parted_warp (g : Group) (k : Nat) : g.parted.warp? k = (g.warp? k).map fun w => { w with queries := [] } :=
  find_mapv (fun _ (w : Warp) => ({ w with queries := [] } : Warp)) g.warps k

/-- A context-area step without a translation freezes the group (R229). -/
theorem ctxFault_frozen (s : State) (g : Group) (va agent k : Nat) : (s.ctxFault g va agent (some k)).group? g.uid =
    some { g with frozenIO := some { asid := g.asid, va := va, cause := k, agent := agent } } :=
  setGroup_self (s.queueFault g va k agent) { g with frozenIO := some { asid := g.asid, va := va, cause := k, agent := agent } }

/-- A group that leaves its core for its grid's wait list. -/
theorem putAway_eq {s t : State} {g : Group} {r : Grid} (hgs : t.groups = s.groups) (hlu : t.lu = s.lu)
    (hr : SMap.find s.lu.grids g.grid = some r) (toHead : Bool) : t.putAway g.parted toHead =
      { t with
        groups := SMap.del s.groups g.uid,
        lu := { s.lu with saved := SMap.put s.lu.saved g.uid g.parted, grids := SMap.put s.lu.grids r.num (r.giveBack g.gid toHead) } } := by
  unfold State.putAway
  simp only [hgs, hlu, show g.parted.grid = g.grid from rfl, hr]
  rfl

/-! ### The step of a resumption -/

section
variable {s : State} {g : Group} (hg : s.group? s.ctl.arg.uid = some g) (hst : g.started = false) (him : g.image = true)
  (hfr : g.frozenIO = none)

include hg hst him hfr

theorem groupResume_ok {p : Page} (hp : ((s.acquire g.core 3).translate g.core g.tenant g.asid (imageVa g)).2 = .ok p) (hr : p.r = true)
    {rd : State × List Byte} (hrd : ((s.acquire g.core 3).translate g.core g.tenant g.asid (imageVa g)).1.gLoadList g.core g.tenant 3 p 1096 = rd)
    (hz : imageZeros rd.2 = true) : exec .groupResumption s = .next (rd.1.setGroup (g.resume rd.2)) := by
  rw [imageVa] at hp hrd
  change execGroupResumption s = _
  simp [execGroupResumption, hg, hst, him, hfr, hp, hr, hrd, hz]

theorem groupResume_reserved {p : Page} (hp : ((s.acquire g.core 3).translate g.core g.tenant g.asid (imageVa g)).2 = .ok p) (hr : p.r = true)
    {rd : State × List Byte} (hrd : ((s.acquire g.core 3).translate g.core g.tenant g.asid (imageVa g)).1.gLoadList g.core g.tenant 3 p 1096 = rd)
    (hz : imageZeros rd.2 = false) :
    exec .groupResumption s = .next (rd.1.gridFault g 64 Cause.prot.code 0 g.a.apc (BitVec.ofNat 64 (imageVa g)) true) := by
  rw [imageVa] at hp hrd ⊢
  change execGroupResumption s = _
  simp [execGroupResumption, hg, hst, him, hfr, hp, hr, hrd, hz, State.ctxFault]

theorem groupResume_unreadable {p : Page} (hp : ((s.acquire g.core 3).translate g.core g.tenant g.asid (imageVa g)).2 = .ok p) (hr : p.r = false) :
    exec .groupResumption s =
      .next (((s.acquire g.core 3).translate g.core g.tenant g.asid (imageVa g)).1.gridFault g 64 Cause.prot.code 0 g.a.apc
        (BitVec.ofNat 64 (imageVa g)) true) := by
  rw [imageVa] at hp ⊢
  change execGroupResumption s = _
  simp [execGroupResumption, hg, hst, him, hfr, hp, hr, State.ctxFault]

theorem groupResume_untranslated {k : Nat} (hp : ((s.acquire g.core 3).translate g.core g.tenant g.asid (imageVa g)).2 = .error k) :
    exec .groupResumption s =
      .next (((s.acquire g.core 3).translate g.core g.tenant g.asid (imageVa g)).1.ctxFault g (imageVa g) 0 (some k)) := by
  rw [imageVa] at hp ⊢
  change execGroupResumption s = _
  simp [execGroupResumption, hg, hst, him, hfr, hp]

end

/-! ### The streams of a resumed group -/

section
variable {g : Group} {v : SaveRec} (bs : List Byte) (hv : g.savedAs = some v) (hk : v.kept = [])

include hv hk

/-- A warp that stopped on an entry starts at its restore routine (R227, R230). -/
theorem resume_stopped {k n : Nat} {w : Warp} (hw : g.warp? k = some w) (hn : SMap.find v.warps k = some n) :
    (g.resume bs).warp? k =
      some { w.toRestore g.kern n with safecnt := SMap.get 0 v.counts k, keptPop := SMap.find v.held k } := by
  unfold Group.resume Group.warp?
  simp only [hv, Option.getD_some, hk]
  rw [find_mapv, show SMap.find g.warps k = some w from hw, Option.map_some, hn]
  rfl

omit hk in
/-- A warp that had exited stays so. -/
theorem resume_exited {k : Nat} {w : Warp} (hw : g.warp? k = some w) (hn : SMap.find v.warps k = none) :
    ∃ w', (g.resume bs).warp? k = some w' ∧ w'.exited = true := by
  refine ⟨{ w with threads := SMap.mapv (fun _ _ => TState.exited) w.threads, mode := .running }, ?_, ?_⟩
  · unfold Group.resume Group.warp?
    simp only [hv, Option.getD_some]
    rw [find_mapv, show SMap.find g.warps k = some w from hw, Option.map_some, hn]
  · simp [Warp.exited, SMap.mapv, TState.isLive]

omit hk in
/-- The context that stopped on an entry starts at its restore routine; one that had ended stays so. -/
theorem resume_a : (∀ n, v.aEntry = some n → (g.resume bs).a = { g.a with
      mode := .restoring n, apc := BitVec.ofNat 32 (g.kern.routine n 3), restart := true, inHandler := false, ended := false, held := none,
      pushDue := none, crownWait := false, semWait := none, parked := none }) ∧
    (v.aEntry = none → (g.resume bs).a = { g.a with ended := true, mode := .running }) := by
  unfold Group.resume
  simp only [hv, Option.getD_some]
  exact ⟨fun n hn => by rw [hn], fun hn => by rw [hn]⟩

end

/-- Every lane of a warp at a restore routine is live there. -/
theorem toRestore_thread (w : Warp) (k : Kern) (n t : Nat) : (w.toRestore k n).thread t =
    if t < (if k.legacy then 16 else 32) then .live (BitVec.ofNat 32 (k.routine n 1)) else .exited := by
  have h := find_map_key (fun _ => TState.live (BitVec.ofNat 32 (k.routine n 1))) (List.range (if k.legacy then 16 else 32)) t
  simp only [List.mem_range] at h
  refine (congrArg (Option.getD · .exited) h).trans ?_
  by_cases ht : t < (if k.legacy then 16 else 32)
  · rw [if_pos ht, if_pos ht]; rfl
  · rw [if_neg ht, if_neg ht]; rfl

end Sys2Proof.Laws

end

section
/-!
CLAIM. Obligation O48: the start, the end, the quantum, the save and the resumption of a group, and its image.
-/

namespace Sys2Proof.Laws

open Sys2Proof.Machine

/-- The state that a completed save leaves: the image stored and written back, the group in its grid's wait list (R228, R352, R353). -/
theorem groupSave_spec {s : State} {g : Group} {r : Grid} {p : Page} (hg : s.group? s.ctl.arg.uid = some g) (he : s.routinesEnded g = true)
    (hr : SMap.find s.lu.grids g.grid = some r) (hp : (s.translate g.core g.tenant g.asid (imageVa g)).2 = .ok p) (hw : p.w = true)
    (ha : p.pa % 128 = 0) :
    let u := s.translate g.core g.tenant g.asid (imageVa g)
    let s1 := u.1.gStoreList g.core g.tenant 3 p g.imageBytes
    SameBytes u.1 s1 (fun a => p.pa ≤ a ∧ a < p.pa + 1096) ∧
    (p.kind = 0 → ∀ i < 1096, some (memByte s1.mem (p.pa + i)) = g.imageBytes[i]?) ∧
    exec .groupSaveComplete s = .next { s1.release g.tenant g.core 3 with
      groups := SMap.del s.groups g.uid,
      lu := { s.lu with saved := SMap.put s.lu.saved g.uid g.parted, grids := SMap.put s.lu.grids r.num (r.giveBack g.gid g.toHead) } } := by
  intro u s1
  obtain ⟨hb, hgs, hlu, hmem⟩ := gStoreList_spec g.core g.tenant g.imageBytes ha u.1
  rw [imageBytes_length] at hb hmem
  have hu := (translate_warmed s g.core g.tenant g.asid (imageVa g)).rest
  have hrel := (release_warmed s1 g.tenant g.core 3).rest
  refine ⟨hb, hmem, (groupSave_ok hg he hp hw).trans (congrArg _ (putAway_eq ?_ ?_ hr g.toHead))⟩
  · rw [hrel]
    exact hgs.trans (by rw [hu])
  · rw [hrel]
    exact hlu.trans (by rw [hu])

/-- A resumption reads and invalidates alone before it sets its group (R230, R239). -/
theorem groupResume_warmed (s : State) (g : Group) (p : Page) :
    Warmed s (((s.acquire g.core 3).translate g.core g.tenant g.asid (imageVa g)).1.gLoadList g.core g.tenant 3 p 1096).1 :=
  warmed_trans (acquire_warmed s g.core 3) (warmed_trans (translate_warmed _ _ _ _ _) (gLoadList_warmed _ _ _ _ _ _))

/-- Settles O48, clause by clause: each step's equation, then what its group, its grid and its streams are afterwards. -/
theorem groupLives : Obligations.GroupLives := by
  unfold Obligations.GroupLives
  refine ⟨fun s => ⟨fun g hg hu hst him => ?start, fun g r hg hu hst hae hw hq hr hn => ?theEnd,
    fun r g gid hr hn hready hasked hwait hplace hmem hs hgrid hst hpre htimer hold hown => ?quantum⟩,
    fun s g r hg hu he hr hn => ?save, fun s g hg hu hst him hfr => ?resume,
    fun g h0 h1 h2 h3 h4 h5 h6 h7 => ⟨imageQueues_imageBytes ⟨h0, h1, h2, h3, h4, h5, h6, h7⟩,
      imageZeros_imageBytes ⟨h0, h1, h2, h3, h4, h5, h6, h7⟩⟩⟩
  case start =>
    intro ctx k width
    refine ⟨g.begin, acquire_warmed s g.core 3, groupStart_spec hg hst him, rfl, fun j => ?_, fun j w hw => ?_, rfl, rfl, rfl, rfl, rfl,
      fun n => ite_self _⟩
    · rw [begin_warp]
      split <;> simp_all
    · rw [begin_warp] at hw
      split at hw
      · cases hw
        exact startWarp_spec g j
      · cases hw
  case theEnd =>
    rw [← hu] at hg
    obtain ⟨hgone, hclean, hring, hmore, hlast⟩ := endGroup_spec hr hg
    exact ⟨s.endGroup g, groupEnd_eq (hu ▸ hg) (finished_of hst hae hw (quiet_of hq)), hgone, hclean, hring, hmore, hlast⟩
  case quantum =>
    have ho := oldest_eq hmem hgrid hst hs hown hold
    exact ⟨_, quantumExpiry_eq hr hready hasked hwait hplace ho hpre htimer, setGroup_self _ { g with preempt := true, toHead := false },
      fun u hu => setGroup_other _ { g with preempt := true, toHead := false } hu, rfl⟩
  case save =>
    have hva : imageVa g = g.ln.ctxbase.toNat + 0x411000 * g.gid + 0x200080 := rfl
    rw [← hva]
    intro va u
    refine ⟨fun p hp hw ha => ?_, fun p hp hw => groupSave_readOnly hg he hp hw,
      fun k hk => ⟨_, groupSave_untranslated hg he hk, ctxFault_frozen _ g _ 1 k⟩⟩
    obtain ⟨hb, hmem, hexec⟩ := groupSave_spec hg he hr hp hw ha
    refine ⟨_, _, g.parted, hexec, rfl, imageBytes_length g, hb, hmem, rfl, rfl, ⟨g.saveRec, rfl, rfl, saveRec_spec g⟩, fun k w hw => ?_⟩
    rw [parted_warp, hw, Option.map_some]
  case resume =>
    have hva : imageVa g = g.ln.ctxbase.toNat + 0x411000 * g.gid + 0x200080 := rfl
    rw [← hva]
    intro va u
    refine ⟨fun p hp hr hz => groupResume_reserved hg hst him hfr hp hr rfl hz, fun p v hp hr hv hk hz => ?_,
      fun p hp hr => groupResume_unreadable hg hst him hfr hp hr,
      fun k hk => ⟨_, groupResume_untranslated hg hst him hfr hk, ctxFault_frozen _ g _ 0 k⟩⟩
    obtain ⟨hsome, hnone⟩ := resume_a _ hv
    refine ⟨g.resume _, groupResume_ok hg hst him hfr hp hr rfl hz, groupResume_warmed s g p, gLoadList_length _ _ _ _ _ _, rfl, rfl,
      fun k w n hw hn => ⟨_, resume_stopped _ hv hk hw hn, rfl, rfl, rfl, rfl, rfl, rfl, rfl, rfl, ?_, rfl, toRestore_thread w g.kern n⟩,
      fun k w hw hn => resume_exited _ hv hw hn, fun n hn => ?_, fun hn => ?_⟩
    · change (BitVec.ofNat 64 w.tframe.toNat).toNat = _
      rw [BitVec.ofNat_toNat, BitVec.setWidth_eq]
    · rw [hsome n hn]
      exact ⟨rfl, rfl, rfl, rfl⟩
    · rw [hnone hn]

end Sys2Proof.Laws

end

section
/-!
SUPPORT. What stands before an instruction's own effect (R29, R36, R86, R220): for a row of results, whose instruction issues
one body, its wait, SAFEOVER and POISON are said once.
-/

namespace Sys2Proof.Machine

/-- The row's instruction issues a body that is a result for the row's poisoned threads, but where the row has to wait; no issue
of it is free of SAFECNT's limit. -/
def TRow.Issues (r : TRow) : Prop :=
  safeOps.contains r.op = false ∧
  ∃ body : TEnv → TRes, (∀ i s, exec (r.ins i) s = tIssue r.op i s body) ∧
    ∀ e : TEnv, r.ready e → ∃ n v, body e = e.resultOf (r.pm e) n v fun _ => none

end Sys2Proof.Machine

namespace Sys2Proof.Laws

open Sys2Proof.Machine

/-! ### The environment -/

theorem tEnv_i {s : State} {op : Nat} {i : TWord} {e : TEnv} (h : s.tEnv op i = some e) : e.i = i := by
  unfold State.tEnv at h
  split at h
  · split at h
    · cases h
    · split at h
      · cases h
      · split at h <;> cases h
        rfl
  · cases h

theorem tReady_i {s : State} {op : Nat} {i : TWord} {e : TEnv} (h : s.tReady op i = some e) : e.i = i := by
  unfold State.tReady at h
  split at h
  · cases h
  · rename_i e0 h0
    obtain ⟨e1, hp, h1⟩ := Option.bind_eq_some_iff.1 h
    split at h1 <;> cases h1
    have he := congrArg TEnv.i (tPopped_eq hp)
    exact he.trans (show e0.i = i from tEnv_i h0)

/-! ### The waits and SAFEOVER -/

section
variable {op : Nat} {i : TWord} {s : State} {e0 e : TEnv} (h0 : s.tEnv op i = some e0) (body : TEnv → TRes)
include h0

theorem tIssue_unpopped (hp : e0.popped = none) : tIssue op i s body = .next s.waits := by
  simp only [tIssue, h0, hp]

theorem tIssue_stalled (hp : e0.popped = some e) (hs : e.stalls = true) : tIssue op i s body = .next s.waits := by
  simp only [tIssue, h0, hp, hs, if_true]

theorem tIssue_overrun (hp : e0.popped = some e) (hs : e.stalls = false) (ho : e.overrun = true) (hb : (body e).idle = false) :
    tIssue op i s body = .next (e.trap .safeover (e.w.safecnt.setWidth 64)) := by
  simp only [tIssue, h0, hp, hs, ho, hb, Bool.false_eq_true, if_false, Bool.not_false, Bool.and_self, if_true]

end

/-- A pop finds nothing where no entry is kept and the queue has none that the warp has not popped (R296, R297). -/
theorem popped_none {e : TEnv} (hq : e.i.popq ≠ 0) (hh : e.w.held = none) (hk : e.w.mode.routine = true ∨ e.w.keptPop = none)
    (hp : e.g.popT e.i.popq.toNat e.slot = none) : e.popped = none := by
  have hkept : e.w.popKept = none := by
    unfold Warp.popKept
    rw [hh]
    rcases hk with hk | hk <;> simp [hk]
  simp only [TEnv.popped, if_neg hq, hkept, hp]

theorem popT_kern {g g' : Group} {n slot : Nat} {v : Word} (h : g.popT n slot = some (g', v)) : g'.kern = g.kern := by
  unfold Group.popT at h
  split at h
  · cases h
  · cases h; rfl

/-- A pop leaves the group's launch. -/
theorem popped_kern {e0 e : TEnv} (h : e0.popped = some e) : e.g.kern = e0.g.kern := by
  unfold TEnv.popped at h
  split at h
  · cases h; rfl
  · split at h
    · cases h; rfl
    · split at h
      · cases h
      · cases h
        exact popT_kern ‹_›

theorem resultOf_idle (e : TEnv) (pm : BitVec 32) (n : Nat) (v : Nat → BitVec 128) :
    (e.resultOf pm n v fun _ => none).idle = false := by
  unfold TEnv.resultOf
  dsimp only
  split
  · rfl
  · split
    · split <;> rfl
    · rfl

/-- POISON comes before any effect (R36, R86). -/
theorem resultOf_poison {e : TEnv} {pm : BitVec 32} (hs : e.i.spec = 0) (hp : pm &&& e.parts ≠ 0) (n : Nat) (v : Nat → BitVec 128)
    (bad : Nat → Option Nat) : e.resultOf pm n v bad = .trap .poison 0 := if_pos (by simpa [hs] using hp)

/-! ### Rows of results -/

section
variable {r : TRow} (h : r.Issues)
include h

theorem traps_of_issues : r.Traps := by
  obtain ⟨-, body, hx, hb⟩ := h
  intro i s e hr hready hs hp
  obtain ⟨n, v, he⟩ := hb e hready
  rw [hx]
  exact traps_of_trap hr (he.trans (resultOf_poison hs hp n v _))

theorem unpopped_of_issues {i : TWord} {s : State} {e : TEnv} (h0 : s.tEnv r.op i = some e) (hp : e.popped = none) :
    exec (r.ins i) s = .next s.waits := by
  obtain ⟨-, body, hx, -⟩ := h
  rw [hx, tIssue_unpopped h0 body hp]

theorem stalled_of_issues {i : TWord} {s : State} {e e' : TEnv} (h0 : s.tEnv r.op i = some e) (hp : e.popped = some e')
    (hs : e'.stalls = true) : exec (r.ins i) s = .next s.waits := by
  obtain ⟨-, body, hx, -⟩ := h
  rw [hx, tIssue_stalled h0 body hp hs]

theorem safeover_of_issues {i : TWord} {s : State} {e e' : TEnv} (h0 : s.tEnv r.op i = some e) (hp : e.popped = some e')
    (hs : e'.stalls = false) (hr : r.ready e') (ho : 4 * e.g.kern.maxdist < e.w.safecnt.toNat + 1) :
    exec (r.ins i) s = .next (e'.trap .safeover (e.w.safecnt.setWidth 64)) := by
  obtain ⟨hop, body, hx, hb⟩ := h
  obtain ⟨n, v, he⟩ := hb e' hr
  have hover : e'.overrun = true := by
    unfold TEnv.overrun
    rw [popped_kern hp, tPopped_eq hp, (tEnv_heads h0).2, hop]
    simpa using ho
  rw [hx, tIssue_overrun h0 body hp hs hover (by rw [he]; exact resultOf_idle _ _ _ _), tPopped_eq hp]

end

/-! ### The rows -/

theorem issues_of_result {r : TRow} {body : TEnv → TRes} (hx : ∀ i s, exec (r.ins i) s = tIssue r.op i s body)
    (hb : ∀ e, ∃ n v, body e = e.result n v fun _ => none) (hp : r.pm = fun e => e.poisoned &&& e.act)
    (ho : safeOps.contains r.op = false) : r.Issues := by
  refine ⟨ho, body, hx, fun e _ => ?_⟩
  rw [hp]
  exact hb e

theorem intRows_issue : ∀ r ∈ intRows, r.Issues := by
  simp only [intRows, List.forall_mem_cons, List.not_mem_nil, false_imp_iff, implies_true, and_true]
  refine ⟨?_, ?_, ?_, ?_, ?_, ?_, ?_, ?_, ?_, ?_, ?_, ?_, ?_, ?_, ?_, ?_, ?_, ?_, ?_, ?_, ?_, ?_, ?mov, ?_, ?_, ?_, ?_⟩
  case mov =>
    refine issues_of_result (fun _ _ => rfl) (fun e => ?_) rfl rfl
    split
    · exact ⟨2, _, rfl⟩
    · exact ⟨1, _, rfl⟩
  all_goals exact issues_of_result (fun _ _ => rfl) (fun _ => ⟨_, _, rfl⟩) rfl rfl

theorem floatRows_issue : ∀ r ∈ floatRows, r.Issues := by
  simp only [floatRows, List.forall_mem_cons, List.not_mem_nil, false_imp_iff, implies_true, and_true]
  refine ⟨?_, ?_, ?_, ?_, ?_, ?_, ?_, ?_, ?_, ?_, ?_, ?_, ?_, ?_, ?_, ?_, ?_, ?_, ?_⟩
  all_goals exact issues_of_result (fun _ _ => rfl) (fun _ => ⟨_, _, rfl⟩) rfl rfl

/-! ### The lanes' rows (R111, R112, R117, R140, R141) -/

theorem shflLane_eq (mod n l : Nat) (b : Word) : shflLane mod n l b = shuffleFrom mod n l b := by
  unfold shflLane shuffleFrom
  split
  · rfl
  · simp only [Nat.one_ne_zero, if_false, if_true]
    split_ifs <;> omega
  · rfl
  · rw [if_neg ‹_›, if_neg ‹_›, if_neg ‹_›]

theorem quadLane_eq (t k : Nat) : quadLane t k = 4 * (t / 4) + k % 4 := by
  unfold quadLane
  rw [Nat.mul_comm]

theorem qddLanes_eq (mod j : Nat) : qddLanes mod j = diffLanes mod j := by
  unfold qddLanes diffLanes
  split
  · rfl
  · rfl
  · rfl
  · rw [if_neg ‹_›, if_neg ‹_›, if_neg ‹_›]

theorem diffLanes_lt (mod : Nat) {j : Nat} (h : j < 4) : (diffLanes mod j).1 < 4 ∧ (diffLanes mod j).2 < 4 := by
  unfold diffLanes
  split_ifs <;> interval_cases j <;> decide

theorem codeOf_eq (b : BitVec 9) : codeOf b = b.toNat % 256 := by
  simp [codeOf]

theorem slotPending_eq (w : Warp) (k : Nat) : w.slotPending k = true ↔ ¬ ∀ p ∈ w.cbPend, p.1 ≠ k := by
  simp [Warp.slotPending]

/-- A result taken from lanes is one for the threads that the lanes' poison reaches. -/
theorem issues_of_lanes {r : TRow} {own : TEnv → BitVec 32} {src : TEnv → Nat → List Nat} {v : TEnv → Nat → Word}
    (hx : ∀ i s, exec (r.ins i) s = tIssue r.op i s fun e => e.fromLanes (own e) (src e) (v e))
    (hp : ∀ e, r.pm e = maskOf 32 32 fun t => bit e.act t && (bit (own e) t || (src e t).any fun l => bit (e.srcPoi 1 1) l))
    (ho : safeOps.contains r.op = false) : r.Issues :=
  ⟨ho, _, hx, fun e _ => ⟨1, fun t => (v e t).setWidth 128, by rw [hp]; rfl⟩⟩

theorem quad_issues {ins : TWord → Instr} {op : Nat} {lanes : TWord → Nat → List Nat} {val : TEnv → Nat → Word}
    {src : TEnv → Nat → List Nat} {v : TEnv → Nat → Word} (hx : ∀ i s, exec (ins i) s = tIssue op i s fun e => e.fromLanes 0 (src e) (v e))
    (hl : ∀ e t, src e t = lanes e.i t) (ho : safeOps.contains op = false) : (TRow.quad ins op lanes val).Issues :=
  issues_of_lanes hx (fun e => by simp [TRow.quad, TEnv.aPoison, hl, bit]) ho

theorem cvtPoison_eq (e : TEnv) : e.cvtPoison =
    if e.mod = 7 then (if e.srcPoi 1 1 &&& e.act &&& 0xFFFFFF = 0 then 0 else e.act)
    else if cvtFs e.i.srcb = 7 then (if e.srcPoi 1 1 &&& 0xF = 0 then 0 else e.act) else e.poisoned &&& e.act := by
  have : cvtFs e.i.srcb = e.i.srcb.toNat % 16 := by simp [cvtFs]
  rw [this]
  rfl

theorem laneRows_issue : ∀ r ∈ laneRows, r.Issues := by
  simp only [laneRows, List.forall_mem_cons, List.not_mem_nil, false_imp_iff, implies_true, and_true]
  refine ⟨?shfl, ?qswp, ?qbc, ?qdd, ?cvt, ?s2v, ?cbx⟩
  case shfl =>
    refine issues_of_lanes (fun _ _ => rfl) (fun e => ?_) rfl
    simp only [shflLane_eq, List.any_cons, List.any_nil, Bool.or_false]
    rfl
  case qswp => exact quad_issues (fun _ _ => rfl) (fun e t => by simp only [quadLane_eq]; rfl) rfl
  case qbc => exact quad_issues (fun _ _ => rfl) (fun e t => by simp only [quadLane_eq]; rfl) rfl
  case qdd =>
    refine quad_issues (fun _ _ => rfl) (fun e t => ?_) rfl
    obtain ⟨h1, h2⟩ := diffLanes_lt e.i.mod.toNat (j := t % 4) (by omega)
    simp only [quadLane_eq, qddLanes_eq, TEnv.mod, Nat.mod_eq_of_lt h1, Nat.mod_eq_of_lt h2]
  case cvt =>
    refine ⟨rfl, _, fun _ _ => rfl, fun e _ => ?_⟩
    simp only [cvtPoison_eq]
    split_ifs <;> exact ⟨1, _, rfl⟩
  case s2v => exact issues_of_result (fun _ _ => rfl) (fun _ => ⟨_, _, rfl⟩) rfl rfl
  case cbx =>
    refine ⟨rfl, _, fun _ _ => rfl, fun e hr => ⟨1, _, if_neg ?_⟩⟩
    rw [slotPending_eq]
    exact not_not.2 hr

/-! ### Conditions -/

theorem and_act_parts (e : TEnv) (m : BitVec 32) : m &&& e.act &&& e.parts = m &&& e.parts := by
  unfold TEnv.parts
  rw [BitVec.and_assoc, ← BitVec.and_assoc e.act, BitVec.and_self]

theorem condRows_issue : ∀ r ∈ condRows, ∃ f, ∀ i s, exec (r.ins i) s = tCond r.op i s f := by
  simp only [condRows, List.forall_mem_cons, List.not_mem_nil, false_imp_iff, implies_true, and_true]
  exact ⟨⟨_, fun _ _ => rfl⟩, ⟨_, fun _ _ => rfl⟩, ⟨_, fun _ _ => rfl⟩⟩

/-- A condition raises POISON without .SPEC, and under .P whatever SPEC says (R86). -/
theorem tCond_poison {op : Nat} {i : TWord} {s : State} {e : TEnv} (f : TEnv → Nat → Bool) (h : s.tReady op i = some e)
    (hp : e.poisoned &&& e.parts ≠ 0) (hs : bit i.ext.xmod 0 = true ∨ e.i.spec = 0) :
    tCond op i s f = .next (e.trap .poison 0) := by
  rw [← and_act_parts] at hp
  refine traps_of_trap h ?_
  cases hx : bit i.ext.xmod 0 with
  | true => rw [if_pos rfl, if_pos (by simpa using hp)]
  | false =>
    rw [if_neg (by simp)]
    exact resultOf_poison (hs.resolve_left (by simp [hx])) hp 1 _ _

/-! ### Instructions whose one effect is a trap -/

theorem tEmul_trap {op : Nat} {i : TWord} {s : State} {e : TEnv} (h : s.tEnv op i = some e) : tEmul op i s = .next (e.trap .emul 0) := by
  simp only [tEmul, h]

section
variable {op : Nat} {i : TWord} {s : State} {e : TEnv} (h : s.tReady op i = some e) (c : Cause)
include h

/-- TRAP and BRK with an active thread (R146): the trap of the active threads. -/
theorem softTrap_taken (hp : e.parts ≠ 0) :
    tIssue op i s (softTrap c) = .next (TEnv.trap { e with run := e.act } c (BitVec.ofNat 64 (i.srca.toNat % 256))) := by
  rw [tIssue_ready h, ← tReady_i h, ← codeOf_eq, softTrap, if_neg hp]
  rfl

/-- Without one they do nothing. -/
theorem softTrap_nothing (hp : e.parts = 0) : e.Completes (tIssue op i s (softTrap c)) e.s e.g e.w 0 :=
  completes_of_ok h (if_pos hp)

end

end Sys2Proof.Laws

end

section
/-!
CLAIM. Obligation O4: where T arithmetic traps or waits, and TRAP and BRK.
-/

namespace Sys2Proof.Laws

open Sys2Proof.Machine

theorem resultRows_issue : ∀ r ∈ intRows ++ floatRows ++ laneRows, r.Issues :=
  List.forall_mem_append.2 ⟨List.forall_mem_append.2 ⟨intRows_issue, floatRows_issue⟩, laneRows_issue⟩

/-- Settles O4, by row: every row of results issues one body (`TRow.Issues`), a condition's row `tCond`, and the last two clauses'
instructions are `tEmul` and `softTrap`. -/
theorem issueTraps : Obligations.IssueTraps := by
  unfold Obligations.IssueTraps
  refine ⟨⟨fun r hr => traps_of_issues (resultRows_issue r hr), fun r hr i s e h hp hs => ?_⟩, fun r hr i s e h0 => ?_, ?emul, ?soft⟩
  · obtain ⟨f, hx⟩ := condRows_issue r hr
    rw [hx]
    exact tCond_poison f h hp hs
  · have hi := resultRows_issue r hr
    exact ⟨fun hq hh hk hn => unpopped_of_issues hi h0 (popped_none hq hh hk hn),
      fun e' hp => ⟨stalled_of_issues hi h0 hp, safeover_of_issues hi h0 hp⟩⟩
  case emul =>
    simp only [List.forall_mem_cons, List.not_mem_nil, false_imp_iff, implies_true, and_true]
    exact ⟨fun _ _ _ => tEmul_trap, fun _ _ _ => tEmul_trap, fun _ _ _ => tEmul_trap, fun _ _ _ => tEmul_trap, fun _ _ _ => tEmul_trap⟩
  case soft =>
    simp only [List.forall_mem_cons, List.not_mem_nil, false_imp_iff, implies_true, and_true]
    exact ⟨fun _ _ _ h => ⟨softTrap_taken h _, softTrap_nothing h _⟩, fun _ _ _ h => ⟨softTrap_taken h _, softTrap_nothing h _⟩⟩

end Sys2Proof.Laws

end

section
/-!
SUPPORT. A T trap frame read back (R222, R223): where each of its fields stands, and that TRET's reload of the registers writes
to each what it holds already.
-/

namespace Sys2Proof.Machine

/-- The registers of a frame's columns, in their order (R222). -/
def frameKeys : List Nat := List.range 8 ++ (List.range 8).map (· + 128) ++ [136, 137]

/-- The fields of a frame behind its registers (R222). -/
def trapFields (w : Warp) (tr : TrapRegs) : List Byte :=
  leBytes 4 tr.tcause.toNat ++ (leBytes 4 tr.tpc.toNat ++ (leBytes 8 tr.tinst.toNat ++ (leBytes 8 tr.tinst2.toNat ++
    (leBytes 4 tr.tmask.toNat ++ (leBytes 4 w.safecnt.toNat ++ (leBytes 8 tr.tval.toNat ++ (leBytes 8 w.dfrec.toNat ++
      (leBytes 4 (bitsOf w.regs.vmap.toNat 7 0) ++ leBytes 68 0))))))))

/-- A frame from its scalar registers on. -/
def fromScalars (w : Warp) (tr : TrapRegs) : List Byte := ((List.range 8).flatMap fun n => leBytes 4 (w.regs.sGet n).toNat) ++ trapFields w tr

/-- A frame from its predicates on, with the zero word behind them. -/
def fromPreds (w : Warp) (tr : TrapRegs) : List Byte :=
  ((List.range 7).flatMap fun n => leBytes 4 (w.regs.fGet n).toNat) ++ (leBytes 4 0 ++ fromScalars w tr)

/-- A frame from its poison masks on. -/
def fromPoison (w : Warp) (tr : TrapRegs) : List Byte := (frameKeys.flatMap fun n => leBytes 4 (w.regs.poi n).toNat) ++ fromPreds w tr

/-- One column of a frame restored: the register p.1 from column p.2. -/
def reloadColumn (bs : List Byte) (r : Regs) (p : Nat × Nat) : Regs :=
  if p.1 < 8 ∧ (wordAt bs 0x9B8 4 / 2 ^ p.1) % 2 = 0 then r.unmap p.1
  else
    let r := (List.range 32).foldl (fun r t => r.set p.1 t (BitVec.ofNat 32 (wordAt bs (0x80 * p.2 + 4 * t) 4))) r
    let r := r.setPoi p.1 (BitVec.ofNat 32 (wordAt bs (0x900 + 4 * p.2) 4))
    if p.1 < 8 then { r with vmap := setBit r.vmap p.1 true } else r

/-- A register file holds what the first does, in every register of a frame or beyond it but the unmapped of v0 to v7. -/
structure Regs.Agrees (r0 r : Regs) : Prop where
  value : ∀ t < 32, ∀ reg, (reg < 8 → bit r0.vmap reg = true) → r.get reg t = r0.get reg t
  poison : ∀ reg, (reg < 8 → bit r0.vmap reg = true) → r.poi reg = r0.poi reg
  names : r.vmap = r0.vmap
  preds : ∀ n, r.fGet n = r0.fGet n
  scalars : ∀ n, r.sGet n = r0.sGet n

end Sys2Proof.Machine

namespace Sys2Proof.Laws

open Sys2Proof.Machine

/-! ### Words of a run of bytes -/

theorem wordAt_skip {a : List Byte} {m o : Nat} (b : List Byte) (n : Nat) (ha : a.length = m) (h : m ≤ o) :
    wordAt (a ++ b) o n = wordAt b (o - m) n := by
  obtain ⟨k, rfl⟩ := Nat.exists_eq_add_of_le h
  rw [← ha, wordAt_append_right, Nat.add_sub_cancel_left]

/-- A word of 32 bits that starts a run. -/
theorem wordAt_leBytes_word (v : Word) (b : List Byte) : BitVec.ofNat 32 (wordAt (leBytes 4 v.toNat ++ b) 0 4) = v := by
  rw [wordAt_append_left (by simp), wordAt_leBytes]
  exact BitVec.eq_of_toNat_eq (by rw [BitVec.toNat_ofNat]; omega)

/-- Word k of a run of words of 32 bits. -/
theorem wordAt_words {α : Type} (f : α → Word) {l : List α} {k : Nat} {x : α} (hk : l[k]? = some x) {b : List Byte} :
    BitVec.ofNat 32 (wordAt ((l.flatMap fun y => leBytes 4 (f y).toNat) ++ b) (4 * k) 4) = f x := by
  have hlen := length_flatMap_blocks (f := fun y => leBytes 4 (f y).toNat) (fun _ => leBytes_length 4 _) l
  have hlt : k < l.length := (List.getElem?_eq_some_iff.1 hk).1
  have h := wordAt_flatMap (f := fun y => leBytes 4 (f y).toNat) (fun _ => leBytes_length 4 _) hk (o := 0) (n := 4) (by omega)
  rw [wordAt_append_left (by omega), ← Nat.add_zero (4 * k), h]
  have h0 := wordAt_leBytes_word (f x) []
  rwa [List.append_nil] at h0

theorem leNat_eq_zero (l : List Byte) : leNat l = 0 ↔ ∀ b ∈ l, b = 0 := by
  induction l with
  | nil => simp [leNat]
  | cons b l ih =>
    rw [leNat, List.forall_mem_cons, ← ih, ← BitVec.toNat_inj]
    simp

/-! ### The fields of a frame -/

theorem column_length (r : Regs) (reg : Nat) : (r.column reg).length = 128 :=
  length_flatMap_blocks (f := fun t => leBytes 4 (r.get reg t).toNat) (fun _ => leBytes_length 4 _) (List.range 32)

theorem words_length {α : Type} (f : α → Word) (l : List α) : (l.flatMap fun x => leBytes 4 (f x).toNat).length = 4 * l.length :=
  length_flatMap_blocks (fun _ => leBytes_length 4 _) l

section
variable (w : Warp) (tr : TrapRegs)

theorem tFrameBytes_eq : tFrameBytes w tr = frameKeys.flatMap w.regs.column ++ fromPoison w tr := by
  simp only [tFrameBytes, fromPoison, fromPreds, fromScalars, trapFields, List.append_assoc]
  rfl

theorem frame_value {k reg t : Nat} (hk : frameKeys[k]? = some reg) (ht : t < 32) :
    BitVec.ofNat 32 (wordAt (tFrameBytes w tr) (0x80 * k + 4 * t) 4) = w.regs.get reg t := by
  have hlt : k < 18 := (List.getElem?_eq_some_iff.1 hk).1
  rw [tFrameBytes_eq, wordAt_append_left (by rw [length_flatMap_blocks (column_length w.regs)]; change _ ≤ 128 * 18; omega),
    wordAt_flatMap (column_length w.regs) hk (by omega)]
  have h := wordAt_words (w.regs.get reg) (List.getElem?_range ht) (b := [])
  rwa [List.append_nil] at h

theorem wordAt_fromPoison {o : Nat} (h : 0x900 ≤ o) (n : Nat) : wordAt (tFrameBytes w tr) o n = wordAt (fromPoison w tr) (o - 0x900) n := by
  rw [tFrameBytes_eq, wordAt_skip _ _ (length_flatMap_blocks (column_length w.regs) frameKeys) h]
  rfl

theorem wordAt_fromPreds {o : Nat} (h : 0x948 ≤ o) (n : Nat) : wordAt (tFrameBytes w tr) o n = wordAt (fromPreds w tr) (o - 0x948) n := by
  rw [wordAt_fromPoison w tr (by omega), fromPoison, wordAt_skip _ _ (words_length _ frameKeys) (by change 72 ≤ _; omega), Nat.sub_sub]
  rfl

theorem wordAt_fromScalars {o : Nat} (h : 0x968 ≤ o) (n : Nat) : wordAt (tFrameBytes w tr) o n = wordAt (fromScalars w tr) (o - 0x968) n := by
  rw [wordAt_fromPreds w tr (by omega), fromPreds, wordAt_skip _ _ (words_length _ (List.range 7)) (by simp; omega),
    wordAt_skip _ _ (leBytes_length 4 _) (by simp; omega), Nat.sub_sub, Nat.sub_sub]
  rfl

theorem wordAt_trapFields {o : Nat} (h : 0x988 ≤ o) (n : Nat) : wordAt (tFrameBytes w tr) o n = wordAt (trapFields w tr) (o - 0x988) n := by
  rw [wordAt_fromScalars w tr (by omega), fromScalars, wordAt_skip _ _ (words_length _ (List.range 8)) (by simp; omega), Nat.sub_sub]
  rfl

theorem frame_poison {k reg : Nat} (hk : frameKeys[k]? = some reg) :
    BitVec.ofNat 32 (wordAt (tFrameBytes w tr) (0x900 + 4 * k) 4) = w.regs.poi reg := by
  rw [wordAt_fromPoison w tr (by omega), Nat.add_sub_cancel_left]
  exact wordAt_words w.regs.poi hk

theorem frame_pred {n : Nat} (h : n < 7) : BitVec.ofNat 32 (wordAt (tFrameBytes w tr) (0x948 + 4 * n) 4) = w.regs.fGet n := by
  rw [wordAt_fromPreds w tr (by omega), Nat.add_sub_cancel_left]
  exact wordAt_words w.regs.fGet (List.getElem?_range h)

theorem frame_scalar {n : Nat} (h : n < 8) : BitVec.ofNat 32 (wordAt (tFrameBytes w tr) (0x968 + 4 * n) 4) = w.regs.sGet n := by
  rw [wordAt_fromScalars w tr (by omega), Nat.add_sub_cancel_left]
  exact wordAt_words w.regs.sGet (List.getElem?_range h)

theorem frame_tpc : BitVec.ofNat 32 (wordAt (tFrameBytes w tr) 0x98C 4) = tr.tpc := by
  rw [wordAt_trapFields w tr (by omega), trapFields, wordAt_skip _ _ (leBytes_length 4 _) (by omega)]
  exact wordAt_leBytes_word _ _

theorem frame_safecnt : BitVec.ofNat 32 (wordAt (tFrameBytes w tr) 0x9A4 4) = w.safecnt := by
  rw [wordAt_trapFields w tr (by omega), trapFields]
  iterate 5 rw [wordAt_skip _ _ (leBytes_length _ _) (by omega)]
  exact wordAt_leBytes_word _ _

theorem frame_names : wordAt (tFrameBytes w tr) 0x9B8 4 = w.regs.vmap.toNat % 256 := by
  rw [wordAt_trapFields w tr (by omega), trapFields]
  iterate 8 rw [wordAt_skip _ _ (leBytes_length _ _) (by omega)]
  rw [wordAt_append_left (by simp), wordAt_leBytes, bitsOf]
  omega

theorem frame_name {n : Nat} (h : n < 8) : (wordAt (tFrameBytes w tr) 0x9B8 4 / 2 ^ n) % 2 = 0 ↔ bit w.regs.vmap n = false := by
  have hb : (w.regs.vmap.toNat % 256).testBit n = w.regs.vmap.toNat.testBit n := by
    rw [show 256 = 2 ^ 8 from rfl, Nat.testBit_mod_two_pow, decide_eq_true h, Bool.true_and]
  rw [frame_names, bit, BitVec.getLsbD, ← hb, Nat.testBit_eq_decide_div_mod_eq, decide_eq_false_iff_not]
  exact Nat.mod_two_ne_one.symm

end

/-! ### Registers written with what they hold -/

theorem setBit_self {w : Nat} {m : BitVec w} {n : Nat} {b : Bool} (h : bit m n = b) : setBit m n b = m := by
  refine BitVec.eq_of_getLsbD_eq fun k hk => ?_
  unfold bit at h
  unfold setBit
  have h1 : (1#w <<< n).getLsbD k = decide (k = n) := by
    rw [BitVec.getLsbD_shiftLeft, BitVec.getLsbD_one]
    grind
  cases b with
  | true =>
    rw [if_pos rfl, BitVec.getLsbD_or, h1]
    rcases eq_or_ne k n with rfl | hn
    · rw [h, Bool.true_or]
    · rw [decide_eq_false hn, Bool.or_false]
  | false =>
    rw [if_neg (by simp), BitVec.getLsbD_and, BitVec.getLsbD_not, h1, decide_eq_true hk, Bool.true_and]
    rcases eq_or_ne k n with rfl | hn
    · rw [h, Bool.false_and]
    · rw [decide_eq_false hn, Bool.not_false, Bool.and_true]

theorem fSet_frame (r : Regs) (n : Nat) (act m : BitVec 32) : r.fSet n act m = { r with pred := (r.fSet n act m).pred } := by
  unfold Regs.fSet
  split <;> rfl

/-- A predicate written in every thread. -/
theorem fGet_fSet_all (r : Regs) (n : Nat) (m : BitVec 32) (k : Nat) :
    (r.fSet n (BitVec.allOnes 32) m).fGet k = if k = n ∧ n ≠ 7 then m else r.fGet k := by
  unfold Regs.fSet
  by_cases hn : n = 7
  · simp [hn]
  · rw [if_neg hn, BitVec.not_allOnes, BitVec.and_zero, BitVec.zero_or, BitVec.and_allOnes]
    unfold Regs.fGet
    simp only
    rw [get_set]
    by_cases hk : k = n
    · subst hk
      simp [hn]
    · simp [hk]

section
variable {r0 r : Regs} (h : r0.Agrees r)
include h

theorem agrees_unmap {n : Nat} (hn : n < 8) (hb : bit r0.vmap n = false) : r0.Agrees (r.unmap n) := by
  have hne {reg : Nat} (hr : reg < 8 → bit r0.vmap reg = true) : reg ≠ n := fun he => by
    subst he
    rw [hr hn] at hb
    cases hb
  refine { value := fun t ht reg hr => ?_, poison := fun reg hr => ?_, names := ?_, preds := h.preds, scalars := h.scalars }
  · rw [← h.value t ht reg hr]
    have hk : (32 * reg + t) / 32 = reg := by omega
    unfold Regs.get Regs.unmap SMap.get
    simp only
    rw [find_filter (fun k => k / 32 != n), hk, if_pos (by simpa using hne hr)]
  · rw [← h.poison reg hr]
    unfold Regs.poi Regs.unmap SMap.get
    simp only
    rw [find_del_other _ (hne hr)]
  · unfold Regs.unmap
    simp only
    rw [h.names, setBit_self hb]

theorem agrees_set (reg : Nat) {t : Nat} (ht : t < 32) (hr : reg < 8 → bit r0.vmap reg = true) :
    r0.Agrees (r.set reg t (r0.get reg t)) :=
  { h with
    value := fun u hu reg' hr' => by
      rw [← h.value u hu reg' hr', ← h.value t ht reg hr]
      unfold Regs.get Regs.set
      simp only
      rw [get_set]
      split
      · rename_i he
        rw [he]
      · rfl }

theorem agrees_setPoi (reg : Nat) : r0.Agrees (r.setPoi reg (r0.poi reg)) :=
  { h with
    poison := fun reg' hr => by
      unfold Regs.poi Regs.setPoi
      simp only
      rw [get_set]
      split
      · rename_i he
        rw [he]
      · exact h.poison reg' hr }

theorem agrees_map {n : Nat} (hb : bit r0.vmap n = true) : r0.Agrees { r with vmap := setBit r.vmap n true } :=
  { h with names := by simp only; rw [h.names, setBit_self hb] }

theorem agrees_fSet (n : Nat) : r0.Agrees (r.fSet n (BitVec.allOnes 32) (r0.fGet n)) := by
  have hf := fGet_fSet_all r n (r0.fGet n)
  rw [fSet_frame] at hf ⊢
  refine { h with preds := fun k => ?_ }
  rw [hf]
  split
  · rename_i he
    rw [he.1]
  · exact h.preds k

theorem agrees_sSet (n : Nat) : r0.Agrees (r.sSet n (r0.sGet n)) :=
  { h with
    scalars := fun k => by
      unfold Regs.sGet Regs.sSet
      simp only
      rw [get_set]
      split
      · rename_i he
        rw [he]
      · exact h.scalars k }

end

/-! ### The registers of a frame -/

theorem reload_eq (r : Regs) (bs : List Byte) : r.reload bs =
    (List.range 8).foldl (fun r n => r.sSet n (BitVec.ofNat 32 (wordAt bs (0x968 + 4 * n) 4)))
      ((List.range 7).foldl (fun r n => r.fSet n (BitVec.allOnes 32) (BitVec.ofNat 32 (wordAt bs (0x948 + 4 * n) 4)))
        (frameKeys.zipIdx.foldl (reloadColumn bs) r)) := rfl

theorem agrees_reloadColumn {w : Warp} {r : Regs} (tr : TrapRegs) (h : w.regs.Agrees r) {p : Nat × Nat} (hp : frameKeys[p.2]? = some p.1) :
    w.regs.Agrees (reloadColumn (tFrameBytes w tr) r p) := by
  unfold reloadColumn
  split
  · rename_i hc
    exact agrees_unmap h hc.1 ((frame_name w tr hc.1).1 hc.2)
  · rename_i hc
    have hm (hn : p.1 < 8) : bit w.regs.vmap p.1 = true := by
      rw [← Bool.not_eq_false, ← frame_name w tr hn]
      exact fun hz => hc ⟨hn, hz⟩
    have hcol := List.foldlRecOn (motive := w.regs.Agrees) (List.range 32)
      (fun r t => r.set p.1 t (BitVec.ofNat 32 (wordAt (tFrameBytes w tr) (0x80 * p.2 + 4 * t) 4))) h fun r hr t ht => by
        have ht := List.mem_range.1 ht
        rw [frame_value w tr hp ht]
        exact agrees_set hr p.1 ht hm
    have hpoi := agrees_setPoi hcol p.1
    rw [← frame_poison w tr hp] at hpoi
    dsimp only
    split
    · exact agrees_map hpoi (hm ‹_›)
    · exact hpoi

/-- TRET reloads from a trap's frame the registers that the trap found. -/
theorem agrees_reload (w : Warp) (tr : TrapRegs) : w.regs.Agrees (w.regs.reload (tFrameBytes w tr)) := by
  rw [reload_eq]
  have hcols := List.foldlRecOn (motive := w.regs.Agrees) frameKeys.zipIdx (reloadColumn (tFrameBytes w tr))
    (b := w.regs) { value := fun _ _ _ _ => rfl, poison := fun _ _ => rfl, names := rfl, preds := fun _ => rfl, scalars := fun _ => rfl }
    fun r hr p hp => agrees_reloadColumn tr hr (List.mk_mem_zipIdx_iff_getElem?.1 hp)
  have hpreds := List.foldlRecOn (motive := w.regs.Agrees) (List.range 7)
    (fun r n => r.fSet n (BitVec.allOnes 32) (BitVec.ofNat 32 (wordAt (tFrameBytes w tr) (0x948 + 4 * n) 4))) hcols fun r hr n hn => by
      rw [frame_pred w tr (List.mem_range.1 hn)]
      exact agrees_fSet hr n
  exact List.foldlRecOn (motive := w.regs.Agrees) (List.range 8)
    (fun r n => r.sSet n (BitVec.ofNat 32 (wordAt (tFrameBytes w tr) (0x968 + 4 * n) 4))) hpreds fun r hr n hn => by
      rw [frame_scalar w tr (List.mem_range.1 hn)]
      exact agrees_sSet hr n

/-! ### Threads -/

theorem enter_thread (w : Warp) (tr : TrapRegs) (entry th : Nat) : (w.enter tr entry).thread th =
    match w.thread th with
    | .live q => .live (if bit tr.tmask th then BitVec.ofNat 32 entry else q)
    | x => x := by
  unfold Warp.thread Warp.enter SMap.get
  simp only [find_mapv]
  cases SMap.find w.threads th with
  | none => rfl
  | some x => cases x <;> rfl

theorem leave_thread (w : Warp) (bs : List Byte) (th : Nat) : (w.leave bs).thread th =
    match w.thread th with
    | .live q => .live (if bit w.trap.tmask th then BitVec.ofNat 32 (wordAt bs 0x98C 4) else q)
    | x => x := by
  unfold Warp.thread Warp.leave SMap.get
  simp only [find_mapv]
  cases SMap.find w.threads th with
  | none => rfl
  | some x => cases x <;> rfl

end Sys2Proof.Laws

end

section
/-!
SUPPORT. TRET's answer, where its frame can be read (R29, R223).
-/

namespace Sys2Proof.Machine

/-- TRET's answer over the state that reading its frame leaves, and the frame's bytes. -/
def TEnv.returns (e : TEnv) (r : State × List Byte) : TRes :=
  let w := (e.w.leave r.2).lanes e.g.kern.width
  if wordAt r.2 0x98C 4 % 8 ≠ 0 || !tFrameZeros r.2 then .trap .align (BitVec.ofNat 64 (wordAt r.2 0x98C 4))
  else if e.s.renameStall e.g e.slot e.w (w.regs.mapped - e.w.regs.mapped) then .held
  else .ok r.1 w (BitVec.allOnes 32)

end Sys2Proof.Machine

namespace Sys2Proof.Laws

open Sys2Proof.Machine

theorem wordAt_eq_zero {bs : List Byte} {o n : Nat} (h : bs.length = o + n) : wordAt bs o n = 0 ↔ ∀ k < n, bs[o + k]? = some 0 := by
  unfold wordAt
  rw [leNat_eq_zero, List.take_of_length_le (by rw [List.length_drop]; omega), List.forall_mem_iff_forall_getElem]
  simp only [List.getElem_drop, List.length_drop]
  constructor
  · intro hz k hk
    rw [List.getElem?_eq_getElem (by omega), hz k (by omega)]
  · intro hz k hk
    have := hz k (by omega)
    rwa [List.getElem?_eq_getElem (by omega), Option.some_inj] at this

/-- The zero fields of a frame (R222, R6). -/
theorem tFrameZeros_iff {bs : List Byte} (h : bs.length = 2560) : tFrameZeros bs = true ↔
    wordAt bs 0x964 4 = 0 ∧ wordAt bs 0x9B8 4 < 256 ∧ ∀ k < 68, bs[0x9BC + k]? = some 0 := by
  unfold tFrameZeros
  rw [Bool.and_eq_true, Bool.and_eq_true, beq_iff_eq, beq_iff_eq, beq_iff_eq, wordAt_eq_zero (o := 0x9BC) (n := 68) h, and_assoc,
    Nat.div_eq_zero_iff_lt (by omega)]

section
variable {i : TWord} {s : State} {e : TEnv} (h : s.tReady 0x53 i = some e)
include h

theorem tret_outside (hh : e.w.inHandler = false) : exec (.tret i) s = .next (e.trap .illinst 0) :=
  traps_of_trap h (if_pos (by rw [hh]; rfl))

end

/-- TRET's meaning in a handler whose frame has a translation. -/
theorem tret_body (i : TWord) (s : State) {e : TEnv} {p : Page} (hh : e.w.inHandler = true)
    (hp : (e.base.translate e.g.core e.g.tenant e.g.asid e.w.tframe.toNat).2 = .ok p) :
    ∃ body : TEnv → TRes, exec (.tret i) s = tIssue 0x53 i s body ∧
      body e = if !p.r then .trap .prot (BitVec.ofNat 64 e.w.tframe.toNat) else
        e.returns ((e.base.translate e.g.core e.g.tenant e.g.asid e.w.tframe.toNat).1.gLoadList e.g.core e.g.tenant 0 p 2560) :=
  ⟨_, rfl, by rw [if_neg (by rw [hh]; simp)]; simp only [hp]; rfl⟩

/-! ### The answer over a frame that has been read -/

section
variable {e : TEnv} {r : State × List Byte}

theorem returns_align (hl : r.2.length = 2560) (h : wordAt r.2 0x98C 4 % 8 ≠ 0 ∨
    ¬ (wordAt r.2 0x964 4 = 0 ∧ wordAt r.2 0x9B8 4 < 256 ∧ ∀ k < 68, r.2[0x9BC + k]? = some 0)) :
    e.returns r = .trap .align (BitVec.ofNat 64 (wordAt r.2 0x98C 4)) := by
  rw [← tFrameZeros_iff hl] at h
  exact if_pos (by simpa using h)

variable (hl : r.2.length = 2560) (hpc : wordAt r.2 0x98C 4 % 8 = 0)
  (hz : wordAt r.2 0x964 4 = 0 ∧ wordAt r.2 0x9B8 4 < 256 ∧ ∀ k < 68, r.2[0x9BC + k]? = some 0)
include hl hpc hz

theorem returns_aligned : e.returns r =
    if e.s.renameStall e.g e.slot e.w (((e.w.leave r.2).lanes e.g.kern.width).regs.mapped - e.w.regs.mapped) then .held
    else .ok r.1 ((e.w.leave r.2).lanes e.g.kern.width) (BitVec.allOnes 32) :=
  if_neg (by rw [(tFrameZeros_iff hl).2 hz, hpc]; simp)

end

end Sys2Proof.Laws

end

section
/-!
CLAIM. Obligation O11: TRET restores what its frame holds, and undoes a trap entry.
-/

namespace Sys2Proof.Laws

open Sys2Proof.Machine

/-- The T stream's group stands, after reads alone, as the instruction has put it. -/
theorem group_of_warmed {e : TEnv} {s : State} (h : Warmed e.base s) : s.group? e.g.uid = some e.g := by
  unfold State.group?
  rw [h.rest]
  exact setGroup_self _ _

/-- Settles O11: TRET answers `TEnv.returns` of the bytes that it reads, and of the bytes that a trap entry wrote it reloads
into every register what stands there (`agrees_reload`). -/
theorem trapReturn : Obligations.TrapReturn := by
  unfold Obligations.TrapReturn
  refine ⟨fun i s e h => ⟨tret_outside h, fun p => ?_⟩, fun w tr entry => ?_⟩
  · intro t hh hp
    obtain ⟨body, hx, hb⟩ := tret_body i s hh hp
    refine ⟨fun hr => ?_, fun hr => ?_⟩
    · rw [hr, if_pos (by rfl), BitVec.ofNat_toNat, BitVec.setWidth_eq] at hb
      rw [hx]
      exact traps_of_trap h hb
    · intro r pc
      rw [hr, if_neg (by simp)] at hb
      have hw : Warmed e.base r.1 := warmed_trans (translate_warmed _ _ _ _ _) (gLoadList_warmed _ _ _ _ _ _)
      have hl : r.2.length = 2560 := gLoadList_length _ _ _ _ _ _
      rw [hx]
      refine ⟨hw, hl, fun hpc hz hst => ?_, fun hpc hz hst => ?_, fun hbad => ?_⟩
      · exact completes_of_ok_at h (hb.trans ((returns_aligned hl hpc hz).trans (if_neg (by rw [hst]; simp)))) (group_of_warmed hw) rfl
      · rw [tIssue_ready h, hb, returns_aligned hl hpc hz, if_pos hst]
        rfl
      · exact traps_of_trap h (hb.trans (returns_align hl hbad))
  · intro w'
    obtain ⟨hval, hpoi, hnames, hpreds, hscalars⟩ := agrees_reload w tr
    refine ⟨fun t ht reg hr _ => hval t ht reg hr, fun reg hr _ => hpoi reg hr, hnames, hpreds, hscalars, frame_safecnt w tr, rfl, rfl,
      ?_, fun th => ?_⟩
    · change (if bitsOf tr.tcause.toNat 7 0 = 8 then _ else _) = _
      simp [bitsOf, Warp.enter]
    · rw [leave_thread, enter_thread, frame_tpc]
      cases w.thread th with
      | live q => by_cases hb : bit tr.tmask th = true <;> simp [hb, Warp.enter]
      | _ => rfl

end Sys2Proof.Laws

end

section
/-!
SUPPORT. What a request of the aggregator and one of CAS come to (R62, R255 to R257).

One lemma (`foldl_collect`) says what a loop over the lanes leaves and notes; the aggregator's request and a request of CAS are
such loops. For an integer operation the rest is that it is associative; for a float operation, that a word or an element of a
word goes through the loop unchanged.
-/

namespace Sys2Proof.Laws

open Sys2Proof.Machine

/-- A loop that notes `g` of what it has so far before each of its steps. -/
theorem foldl_collect {α β γ : Type} (op : α → β → α) (g : α → γ) (l : List β) (a : α) (out : List γ) :
    l.foldl (fun (p : α × List γ) x => (op p.1 x, p.2 ++ [g p.1])) (a, out) =
      (l.foldl op a, out ++ (List.range l.length).map fun k => g ((l.take k).foldl op a)) := by
  induction l generalizing a out with
  | nil => simp
  | cons x l ih => simp [ih, List.range_succ_eq_map, Function.comp_def]

/-- The aggregator combines the lanes' operands first, and memory's value with what they come to (R256). -/
theorem aggregate_cons (mod v m : Nat) (vs : List Nat) : aggregate mod (v :: vs) m =
    (atomOp mod m (vs.foldl (atomOp mod) v),
      m :: (List.range vs.length).map fun k => atomOp mod m ((vs.take k).foldl (atomOp mod) v)) := by
  unfold aggregate
  simp only [foldl_collect, List.singleton_append]

/-- A request of CAS is its lanes one after another (R257). -/
theorem casLanes_eq (vs : List (Nat × Nat)) (m : Nat) : casLanes vs m =
    (vs.foldl (fun x p => if x = p.1 then p.2 else x) m,
      (List.range vs.length).map fun k => (vs.take k).foldl (fun x p => if x = p.1 then p.2 else x) m) :=
  foldl_collect (fun x (p : Nat × Nat) => if x = p.1 then p.2 else x) id vs m []

/-! ### Integer operations -/

/-- The least by a key, the first of equals, is associative. -/
theorem leastBy_assoc (key : Nat → Int) (a b c : Nat) :
    (if key c < key (if key b < key a then b else a) then c else if key b < key a then b else a) =
      if key (if key c < key b then c else b) < key a then (if key c < key b then c else b) else a := by
  by_cases hb : key b < key a <;> by_cases hc : key c < key b <;> by_cases hca : key c < key a <;>
    simp only [hb, hc, hca, if_true, if_false] <;> omega

/-- Every integer operation of R255 is associative: a sum modulo 2^w, a minimum or maximum, a bitwise operation, an exchange. -/
theorem atomOp_assoc {mod : Nat} (h : mod ≤ 0xA) (a b c : Nat) :
    atomOp mod (atomOp mod a b) c = atomOp mod a (atomOp mod b c) := by
  interval_cases mod <;> simp only [atomOp]
  · omega
  · omega
  · exact Nat.min_assoc a b c
  · exact leastBy_assoc (fun x => (BitVec.ofNat 32 x).toInt) a b c
  · exact Nat.max_assoc a b c
  · have hk := leastBy_assoc (fun x => -(BitVec.ofNat 32 x).toInt) a b c
    simpa only [neg_lt_neg_iff] using hk
  · exact Nat.and_assoc a b c
  · exact Nat.or_assoc a b c
  · exact Nat.xor_assoc a b c

/-- The aggregator's request of an associative operation is the lanes' operations one after another. -/
theorem aggregate_assoc {mod : Nat} (h : ∀ a b c, atomOp mod (atomOp mod a b) c = atomOp mod a (atomOp mod b c)) (vs : List Nat)
    (m : Nat) : aggregate mod vs m =
      (vs.foldl (atomOp mod) m, (List.range vs.length).map fun k => (vs.take k).foldl (atomOp mod) m) := by
  have : Std.Associative (atomOp mod) := ⟨h⟩
  cases vs with
  | nil => rfl
  | cons v vs => simp [aggregate_cons, List.range_succ_eq_map, Function.comp_def, List.foldl_assoc]

/-! ### Float operations -/

/-- An operation whose result an interpretation carries over to `f`: the aggregator's request under it (R256, R62). -/
theorem aggregate_hom {α : Type} {mod : Nat} {f : α → α → α} {g : Nat → α} (h : ∀ a b, g (atomOp mod a b) = f (g a) (g b))
    (v m : Nat) (vs : List Nat) :
    g (aggregate mod (v :: vs) m).1 = f (g m) ((vs.map g).foldl f (g v)) ∧
    (aggregate mod (v :: vs) m).2.map g =
      g m :: (List.range vs.length).map fun k => f (g m) (((vs.map g).take k).foldl f (g v)) := by
  have hf (l : List Nat) : g (l.foldl (atomOp mod) v) = (l.map g).foldl f (g v) := by
    rw [List.foldl_map, List.foldl_hom g fun x y => (h x y).symm]
  simp [aggregate_cons, h, hf, List.map_take, Function.comp_def]

/-- The aggregator's request of an operation `f` on words. -/
theorem aggregate_words {mod : Nat} {f : Word → Word → Word} (h : ∀ a b : Word, atomOp mod a.toNat b.toNat = (f a b).toNat)
    (m v : Word) (vs : List Word) : aggregate mod ((v :: vs).map BitVec.toNat) m.toNat =
      ((f m (vs.foldl f v)).toNat,
        m.toNat :: (List.range vs.length).map fun k => (f m ((vs.take k).foldl f v)).toNat) := by
  have hf (l : List Word) : (l.map BitVec.toNat).foldl (atomOp mod) v.toNat = (l.foldl f v).toNat := by
    rw [List.foldl_map, List.foldl_hom BitVec.toNat h]
  simp only [List.map_cons, aggregate_cons, List.length_map, ← List.map_take, hf, h]

/-- An FP32 operation of R255 acts on the words that the memory's and the lane's bits make. -/
theorem atomOp_word {p : Nat × (Word → Word → Word)}
    (hp : p ∈ [(0xB, fadd .rne), (0xD, fminmax false false), (0xE, fminmax true false)]) (a b : Word) :
    atomOp p.1 a.toNat b.toNat = (p.2 a b).toNat := by
  simp only [List.mem_cons, List.not_mem_nil, or_false] at hp
  rcases hp with rfl | rfl | rfl <;> simp only [atomOp, BitVec.ofNat_toNat, BitVec.setWidth_eq]

/-- A code of bf16 is its low 16 bits. -/
theorem bf16_decode_mod (c : Nat) : bf16.decode (c % 2 ^ 16) = bf16.decode c := by
  have hsign : c % 2 ^ 16 / 2 ^ (bf16.ew + bf16.fw) % 2 = c / 2 ^ (bf16.ew + bf16.fw) % 2 := by
    change c % 2 ^ 16 / 2 ^ 15 % 2 = c / 2 ^ 15 % 2
    omega
  have hexp : c % 2 ^ 16 / 2 ^ bf16.fw % 2 ^ bf16.ew = c / 2 ^ bf16.fw % 2 ^ bf16.ew := by
    change c % 2 ^ 16 / 2 ^ 7 % 2 ^ 8 = c / 2 ^ 7 % 2 ^ 8
    omega
  have hfrac : c % 2 ^ 16 % 2 ^ bf16.fw = c % 2 ^ bf16.fw := Nat.mod_mod_of_dvd c (by decide)
  unfold Fmt.decode
  rw [hsign, hexp, hfrac]

theorem bf16_signed_lt {c : Nat} (h : c < 2 ^ 15) (neg : Bool) : bf16.signed neg c < 2 ^ 16 := by
  have hs : bf16.signed neg c = if neg then 2 ^ 15 + c else c := rfl
  rw [hs]
  split <;> omega

/-- A value rounded to bf16 is a code of 16 bits. -/
theorem bf16_round_lt (m : RMode) (ns : Bool) (v : FVal) : bf16.round m ns v < 2 ^ 16 := by
  have hmax : bf16.maxCode < 2 ^ 15 := by decide
  have hinf (neg : Bool) : bf16.toInf ns neg < 2 ^ 16 := bf16_signed_lt (c := bf16.infCode) (by decide) neg
  cases v with
  | nan => exact (by decide : bf16.nanCode < 2 ^ 16)
  | inf neg => exact hinf neg
  | fin neg q =>
    simp only [Fmt.round]
    split
    · exact bf16_signed_lt (by omega) neg
    · split
      · exact hinf neg
      · exact bf16_signed_lt hmax neg

/-- .FADD.bf16x2 adds in each element for itself (R255). -/
theorem atomOp_bf16x2 {h : Nat} (hh : h < 2) (a b : Nat) : atomOp 0xC a b / 2 ^ (16 * h) % 2 ^ 16 =
    bf16.round .rne false (FVal.sum .rne [bf16.decode (a / 2 ^ (16 * h) % 2 ^ 16), bf16.decode (b / 2 ^ (16 * h) % 2 ^ 16)]) := by
  simp only [atomOp, pairwise, bf16_decode_mod]
  have hlo := bf16_round_lt .rne false (FVal.sum .rne [bf16.decode a, bf16.decode b])
  have hhi := bf16_round_lt .rne false (FVal.sum .rne [bf16.decode (a / 2 ^ 16), bf16.decode (b / 2 ^ 16)])
  obtain rfl | rfl : h = 0 ∨ h = 1 := by omega
  · simp only [Nat.mul_zero, Nat.pow_zero, Nat.div_one]
    omega
  · simp only [Nat.mul_one]
    omega

end Sys2Proof.Laws

end

section
/-!
CLAIM. Obligation O16: an aggregated request equals the lanes' operations one after another.
-/

namespace Sys2Proof.Laws

open Sys2Proof.Machine

/-- Settles O16: integer operations are associative (`atomOp_assoc`), FP32 operations act on words (`atomOp_word`), and
.FADD.bf16x2 element by element (`atomOp_bf16x2`). -/
theorem aggregation : Obligations.Aggregation := by
  unfold Obligations.Aggregation
  refine ⟨?_, ?_, ?_, ?_⟩
  · intro mod m vs w hmod _ _
    rw [aggregate_assoc (atomOp_assoc hmod)]
    exact ⟨rfl, rfl⟩
  · intro p hp m v vs
    rw [aggregate_words (atomOp_word hp)]
    exact ⟨rfl, rfl⟩
  · intro m v vs _ _ _ r h hh e add
    exact aggregate_hom (atomOp_bf16x2 hh) v m vs
  · intro m vs
    rw [casLanes_eq]
    exact ⟨rfl, rfl⟩

end Sys2Proof.Laws

end

section
/-!
SUPPORT. What a matrix operation does to its line core (R61, R213).
-/

namespace Sys2Proof.Machine

/-- The line core with m numbers of n bytes each put in its line buffer, one after another. -/
def LineCore.lbPuts (c : LineCore) (a n m : Nat) (v : Nat → Nat) : LineCore :=
  (List.range m).foldl (fun d j => d.lbPut (a + n * j) n (v j)) c

/-- Value j of the result as MXST stores it (R213). -/
def LineCore.mxStored (c : LineCore) (useRelu : Bool) (j : Nat) : Word :=
  if useRelu then relu (SMap.get 0 c.mxO j) else SMap.get 0 c.mxO j

end Sys2Proof.Machine

namespace Sys2Proof.Laws

open Sys2Proof.Machine

/-! ### Values written at consecutive keys -/

section
variable {α : Type} [DecidableEq α] (d : α)

theorem get_setList_other {m : SMap α} {n k : Nat} {l : List α} (h : ¬ (n ≤ k ∧ k < n + l.length)) :
    SMap.get d (SMap.setList d m n l) k = SMap.get d m k := by
  induction l generalizing m n with
  | nil => rfl
  | cons x l ih =>
    rw [List.length_cons] at h
    rw [SMap.setList, ih (by omega), get_set_other d m x (by omega)]

theorem get_setList {m : SMap α} {n i : Nat} {l : List α} (h : i < l.length) :
    SMap.get d (SMap.setList d m n l) (n + i) = l[i] := by
  induction l generalizing m n i with
  | nil => exact absurd h (Nat.not_lt_zero i)
  | cons x l ih =>
    rw [SMap.setList]
    cases i with
    | zero => rw [get_setList_other d (by omega)]; exact get_set_self d m n x
    | succ i =>
      rw [show n + (i + 1) = n + 1 + i by omega, ih (Nat.lt_of_succ_lt_succ h)]
      rfl

/-- A tile made of its values in order. -/
theorem get_tile (v : Nat → α) {n k : Nat} (h : k < n) : SMap.get d (SMap.setList d [] 0 ((List.range n).map v)) k = v k := by
  have hk := get_setList d (m := []) (n := 0) (l := (List.range n).map v) (i := k) (by simpa using h)
  simpa using hk

end

/-! ### The line buffer -/

theorem lbPut_frame (c : LineCore) (a n v : Nat) : c.lbPut a n v = { c with lb := (c.lbPut a n v).lb } := rfl

/-- Byte i of what is put in the line buffer. -/
theorem get_lbPut (c : LineCore) (a : Nat) {n i : Nat} (v : Nat) (h : i < n) :
    SMap.get 0 (c.lbPut a n v).lb (a + i) = BitVec.ofNat 8 (v / 256 ^ i) := by
  have hi : i < (leBytes n v).length := by rwa [leBytes_length]
  rw [← leBytes_get n v i h, List.getElem?_eq_getElem hi, Option.getD_some]
  exact get_setList 0 hi

theorem get_lbPut_other (c : LineCore) {a n b : Nat} (v : Nat) (h : ¬ (a ≤ b ∧ b < a + n)) :
    SMap.get 0 (c.lbPut a n v).lb b = SMap.get 0 c.lb b :=
  get_setList_other 0 (by rwa [leBytes_length])

section
variable (c : LineCore) (a n : Nat) (v : Nat → Nat)

theorem lbPuts_succ (m : Nat) : c.lbPuts a n (m + 1) v = (c.lbPuts a n m v).lbPut (a + n * m) n (v m) := by
  simp [LineCore.lbPuts, List.range_succ]

theorem lbPuts_frame (m : Nat) : c.lbPuts a n m v = { c with lb := (c.lbPuts a n m v).lb } := by
  induction m with
  | zero => rfl
  | succ m ih => rw [lbPuts_succ, lbPut_frame, ih]

theorem get_lbPuts_other {m b : Nat} (h : ¬ (a ≤ b ∧ b < a + n * m)) :
    SMap.get 0 (c.lbPuts a n m v).lb b = SMap.get 0 c.lb b := by
  induction m with
  | zero => rfl
  | succ m ih =>
    rw [Nat.mul_succ] at h
    rw [lbPuts_succ, get_lbPut_other _ _ (by omega), ih (by omega)]

/-- Byte i of the number j. -/
theorem get_lbPuts {m i j : Nat} (hi : i < n) (hj : j < m) :
    SMap.get 0 (c.lbPuts a n m v).lb (a + n * j + i) = BitVec.ofNat 8 (v j / 256 ^ i) := by
  induction m with
  | zero => omega
  | succ m ih =>
    rw [lbPuts_succ]
    obtain hlt | rfl : j < m ∨ j = m := by omega
    · have hle : n * (j + 1) ≤ n * m := Nat.mul_le_mul_left n hlt
      rw [Nat.mul_succ] at hle
      rw [get_lbPut_other _ _ (by omega), ih hlt]
    · exact get_lbPut _ _ _ hi

end

/-! ### Values and words -/

/-- The high part and the low part of a number. -/
theorem ofNat_append (a b v : Nat) : BitVec.ofNat a (v / 2 ^ b) ++ BitVec.ofNat b v = BitVec.ofNat (a + b) v := by
  apply BitVec.eq_of_getLsbD_eq
  intro i hi
  rw [BitVec.getLsbD_append, BitVec.getLsbD_ofNat, BitVec.getLsbD_ofNat, BitVec.getLsbD_ofNat, Nat.testBit_div_two_pow]
  by_cases hb : i < b
  · simp [hb, hi]
  · simp [hb, hi, show i - b < a by omega, show i - b + b = i by omega]

/-- The two bytes of a number. -/
theorem bytes_two (v : Nat) : BitVec.ofNat 8 (v / 256 ^ 1) ++ BitVec.ofNat 8 (v / 256 ^ 0) = BitVec.ofNat 16 v := by
  simpa using ofNat_append 8 8 v

/-- The four bytes of a number. -/
theorem bytes_four (v : Nat) :
    BitVec.ofNat 8 (v / 256 ^ 3) ++ BitVec.ofNat 8 (v / 256 ^ 2) ++ BitVec.ofNat 8 (v / 256 ^ 1) ++ BitVec.ofNat 8 (v / 256 ^ 0) =
      BitVec.ofNat 32 v := by
  have h2 := ofNat_append 8 8 (v / 2 ^ 16)
  have h3 := ofNat_append 16 8 (v / 2 ^ 8)
  have h4 := ofNat_append 24 8 v
  simp only [Nat.div_div_eq_div_mul, Nat.reducePow, Nat.reduceMul, Nat.reduceAdd] at h2 h3 h4
  simp only [Nat.reducePow, Nat.div_one]
  rw [h2, h3, h4]

/-- The value of a code in a format with infinities and NaNs (R44). -/
theorem decode_ieee {f : Fmt} (hk : f.kind = .ieee) (c : Nat) :
    let sign := decide (c / 2 ^ (f.ew + f.fw) % 2 = 1)
    let e := c / 2 ^ f.fw % 2 ^ f.ew
    let frac := c % 2 ^ f.fw
    f.decode c =
      if e = 2 ^ f.ew - 1 then (if frac = 0 then .inf sign else .nan)
      else if e = 0 then .fin sign ((frac : Rat) * pow2 (1 - (f.bias : Int) - f.fw))
      else .fin sign (((2 ^ f.fw + frac : Nat) : Rat) * pow2 ((e : Int) - f.bias - f.fw)) := by
  intro sign e frac
  simp only [Fmt.decode, hk]
  by_cases he : e = 2 ^ f.ew - 1
  · rw [if_pos he, if_pos he]
  · rw [if_neg he, if_neg he]

theorem f32v_zero : f32v 0 = .fin false 0 := by
  simp [f32v, decode_ieee, fp32]

/-- The sign of an FP32 value other than a NaN is its word's highest bit. -/
theorem f32v_neg {o : Word} (h : (f32v o).isNan = false) : (f32v o).neg = o.msb := by
  have hs : decide (o.toNat / 2 ^ (fp32.ew + fp32.fw) % 2 = 1) = o.msb := by
    rw [BitVec.msb_eq_decide, decide_eq_decide]
    have ho := o.isLt
    change o.toNat / 2 ^ 31 % 2 = 1 ↔ 2 ^ 31 ≤ o.toNat
    omega
  rw [f32v, decode_ieee rfl, hs] at h ⊢
  split_ifs at h ⊢ with hmax hfrac hzero
  case neg => cases h
  all_goals rfl

/-- A value as MXST clips it (R213). -/
theorem relu_eq (o : Word) : relu o = if (f32v o).isNan then 0x7FC00000 else if o.msb then 0 else o := by
  unfold relu
  split
  · rfl
  · rw [f32v_neg (Bool.eq_false_of_not_eq_true ‹_›)]

/-! ### The operations -/

@[simp] theorem flag_zero (v : Nat) : bit (BitVec.ofNat 8 v) 0 = decide (v % 2 = 1) := by
  simp [bit, BitVec.getLsbD_ofNat, Nat.testBit_eq_decide_div_mod_eq, -BitVec.getLsbD_eq_getElem]

@[simp] theorem flag_one (v : Nat) : bit (BitVec.ofNat 8 v) 1 = decide (v / 2 % 2 = 1) := by
  simp [bit, BitVec.getLsbD_ofNat, Nat.testBit_eq_decide_div_mod_eq, -BitVec.getLsbD_eq_getElem]

theorem lbNat_one (c : LineCore) (a : Nat) : c.lbNat a 1 = (SMap.get 0 c.lb a).toNat := by
  simp [LineCore.lbNat, leNat, List.range_succ]

theorem lbNat_two (c : LineCore) (a : Nat) : c.lbNat a 2 = (SMap.get 0 c.lb a).toNat + 256 * (SMap.get 0 c.lb (a + 1)).toNat := by
  simp [LineCore.lbNat, leNat, List.range_succ]

section
variable (c : LineCore) (a : Nat)

/-- MXLD changes one of the two tiles. -/
theorem mxLoad_frame (toW e4 : Bool) : c.mxLoad a toW e4 = { c with mxX := (c.mxLoad a toW e4).mxX, mxW := (c.mxLoad a toW e4).mxW } ∧
    if toW then (c.mxLoad a toW e4).mxX = c.mxX else (c.mxLoad a toW e4).mxW = c.mxW := by
  unfold LineCore.mxLoad
  cases toW <;> simp only [if_true, if_false, Bool.false_eq_true, and_self]

/-- The tile that MXLD loads. -/
theorem mxLoad_get (toW e4 : Bool) {k : Nat} (hk : k < 4096) :
    SMap.get 0 (if toW then (c.mxLoad a toW e4).mxW else (c.mxLoad a toW e4).mxX) k =
      f32r .rne (if e4 then e4m3.decode (SMap.get 0 c.lb (a + k)).toNat
        else bf16.decode ((SMap.get 0 c.lb (a + 2 * k)).toNat + 256 * (SMap.get 0 c.lb (a + 2 * k + 1)).toNat)) := by
  rw [← lbNat_one, ← lbNat_two, apply_ite (f32r .rne)]
  unfold LineCore.mxLoad
  cases toW <;> simp only [if_true, if_false, Bool.false_eq_true, get_tile (0 : Word) _ hk]

/-- A dot product that MXRUN leaves (R61). -/
theorem mxRun_get (k : Nat) (acc : Bool) {p n : Nat} (hp : p < 64) (hn : n < 64) :
    SMap.get 0 (c.mxRun k acc).mxO (64 * p + n) =
      dotRound .rne ((List.range k).map fun i => (f32v (SMap.get 0 c.mxX (64 * p + i)), f32v (SMap.get 0 c.mxW (64 * i + n))))
        (if acc then SMap.get 0 c.mxO (64 * p + n) else 0) := by
  have hrow : (64 * p + n) / 64 = p := by omega
  have hcol : (64 * p + n) % 64 = n := by omega
  rw [dotRound, apply_ite f32v, f32v_zero]
  unfold LineCore.mxRun
  simp only [get_tile (0 : Word) _ (show 64 * p + n < 4096 by omega), hrow, hcol, fdot]

/-- MXRUN changes the result alone. -/
theorem mxRun_frame (k : Nat) (acc : Bool) : c.mxRun k acc = { c with mxO := (c.mxRun k acc).mxO } := by
  unfold LineCore.mxRun
  simp only

theorem mxStored_eq (useRelu : Bool) (j : Nat) : c.mxStored useRelu j =
    let o := SMap.get 0 c.mxO j
    if useRelu then (if (f32v o).isNan then 0x7FC00000 else if o.msb then 0 else o) else o := by
  unfold LineCore.mxStored
  rw [relu_eq]

/-- MXST puts 4,096 numbers of 2 or of 4 bytes each. -/
theorem mxStore_eq (bf useRelu : Bool) : c.mxStore a bf useRelu =
    (if bf then c.lbPuts a 2 4096 fun j => bf16.round .rne false (f32v (c.mxStored useRelu j))
      else c.lbPuts a 4 4096 fun j => (c.mxStored useRelu j).toNat) := by
  unfold LineCore.mxStore LineCore.lbPuts LineCore.mxStored
  cases bf <;> simp only [if_true, if_false, Bool.false_eq_true]

/-- MXST changes the line buffer alone. -/
theorem mxStore_frame (bf useRelu : Bool) : c.mxStore a bf useRelu = { c with lb := (c.mxStore a bf useRelu).lb } := by
  rw [mxStore_eq]
  cases bf <;> exact lbPuts_frame _ _ _ _ _

/-- No byte outside the tile changes. -/
theorem mxStore_other (bf useRelu : Bool) {b : Nat} (h : ¬ (a ≤ b ∧ b < a + if bf then 8192 else 16384)) :
    SMap.get 0 (c.mxStore a bf useRelu).lb b = SMap.get 0 c.lb b := by
  rw [mxStore_eq]
  cases bf <;> exact get_lbPuts_other _ _ _ _ h

variable {j : Nat} (hj : j < 4096)
include hj

theorem mxStore_bf16 (useRelu : Bool) :
    SMap.get 0 (c.mxStore a true useRelu).lb (a + 2 * j + 1) ++ SMap.get 0 (c.mxStore a true useRelu).lb (a + 2 * j) =
      BitVec.ofNat 16 (bf16.round .rne false (f32v (c.mxStored useRelu j))) := by
  rw [mxStore_eq, if_pos rfl, get_lbPuts c a 2 _ (i := 1) (by omega) hj]
  exact (congrArg _ (get_lbPuts c a 2 _ (i := 0) (by omega) hj)).trans (bytes_two _)

theorem mxStore_fp32 (useRelu : Bool) :
    SMap.get 0 (c.mxStore a false useRelu).lb (a + 4 * j + 3) ++ SMap.get 0 (c.mxStore a false useRelu).lb (a + 4 * j + 2) ++
      SMap.get 0 (c.mxStore a false useRelu).lb (a + 4 * j + 1) ++ SMap.get 0 (c.mxStore a false useRelu).lb (a + 4 * j) =
      c.mxStored useRelu j := by
  rw [mxStore_eq, if_neg Bool.false_ne_true, get_lbPuts c a 4 _ (i := 3) (by omega) hj, get_lbPuts c a 4 _ (i := 2) (by omega) hj,
    get_lbPuts c a 4 _ (i := 1) (by omega) hj]
  refine (congrArg _ (get_lbPuts c a 4 _ (i := 0) (by omega) hj)).trans ((bytes_four _).trans ?_)
  rw [BitVec.ofNat_toNat, BitVec.setWidth_eq]

end

section
variable {x : MxOp} (c : LineCore)

theorem perform_load (h : x.kind = 0) : x.perform c = c.mxLoad x.addr (decide (x.flags % 2 = 1)) (decide (x.flags / 2 % 2 = 1)) := by
  simp only [MxOp.perform, h, flag_zero, flag_one]

theorem perform_run (h : x.kind = 1) : x.perform c = c.mxRun x.addr (decide (x.flags % 2 = 1)) := by
  simp only [MxOp.perform, h, flag_zero]

theorem perform_store (h : x.kind = 2) : x.perform c = c.mxStore x.addr (decide (x.flags % 2 = 1)) (decide (x.flags / 2 % 2 = 1)) := by
  simp only [MxOp.perform, h, flag_zero, flag_one]

end

/-- The bytes that an operation moves (R213). -/
theorem span_eq (x : MxOp) : x.span = tileBytes x.kind x.flags := by
  unfold MxOp.span tileBytes
  split
  case h_1 h => simp [h]
  case h_2 h => simp [h]
  case h_3 h0 h2 => rw [if_neg h0, if_neg h2]

/-! ### Issue and completion -/

section
variable {s : State} {e : LEnv} (h : s.lEnv = some e) {body : LEnv → LRes}
include h

theorem hands_of_hand {kind addr flags : Nat} (hb : body e = e.hand kind addr flags) :
    lIssue s body = .next { e.s with mx := e.s.mx ++ [{ line := e.n, kind := kind, addr := addr, flags := flags }] } := by
  rw [lIssue_env h, hb]
  rfl

theorem faults_of_fault {cause : Nat} (hb : body e = .fault cause) : e.Faults (lIssue s body) cause := by
  rw [lIssue_env h, hb]
  rfl

end

/-- The check of MXLD and MXST. -/
theorem handTile_eq (e : LEnv) (kind : Nat) (i : MSlot) : e.handTile kind i =
    if (e.zr i.a.toNat).toNat % 64 = 0 ∧ (e.zr i.a.toNat).toNat + tileBytes kind i.sub.toNat ≤ 0x100000
      then e.hand kind (e.zr i.a.toNat).toNat i.sub.toNat else .fault 3 := by
  unfold LEnv.handTile
  simp only [span_eq]
  rw [← ite_not]
  exact if_congr (by omega) rfl rfl

/-- MATRIX_OPERATION_COMPLETE at an engine that has an operation. -/
theorem matrixOperationComplete_of_find {s : State} {x : MxOp} (h : s.mx.find? (fun y => y.line / 8 == s.ctl.arg.ch) = some x) :
    exec .matrixOperationComplete s = .next ({ s with mx := s.mx.erase x }.setLine x.line (x.perform (s.line x.line))) := by
  change execMatrixOperationComplete s = _
  unfold execMatrixOperationComplete
  rw [h]

theorem setLine_line (s : State) (n k : Nat) (c : LineCore) : (s.setLine n c).line k = if k = n then c else s.line k :=
  get_set LineCore.zero s.lines n k c

end Sys2Proof.Laws

end

section
/-!
CLAIM. Obligation O38: the matrix operations.
-/

namespace Sys2Proof.Laws

open Sys2Proof.Machine

/-- Settles O38: what the operations hand over or note is `handTile_eq` and MXRUN's own check, and what is performed of each kind
is `mxLoad_get`, `mxRun_get` and `mxStore_eq`. -/
theorem matrixEngine : Obligations.MatrixEngine := by
  unfold Obligations.MatrixEngine
  refine ⟨?_, ?_⟩
  · intro i s e h a fl handed
    refine ⟨?_, fun hk => ?_, fun hk => ?_⟩
    · intro p hp
      simp only [List.mem_cons, List.not_mem_nil, or_false] at hp
      rcases hp with rfl | rfl
      · exact ⟨fun hk => hands_of_hand h ((handTile_eq e 0 i).trans (if_pos hk)),
          fun hk => faults_of_fault h ((handTile_eq e 0 i).trans (if_neg hk))⟩
      · exact ⟨fun hk => hands_of_hand h ((handTile_eq e 2 i).trans (if_pos hk)),
          fun hk => faults_of_fault h ((handTile_eq e 2 i).trans (if_neg hk))⟩
    · exact hands_of_hand h (if_neg (by omega))
    · exact faults_of_fault h (if_pos (by omega))
  · intro s x hx c f0 f1
    refine ⟨_, x.perform c, matrixOperationComplete_of_find hx, rfl, fun n => setLine_line _ _ _ _, fun hk => ?_, fun hk => ?_,
      fun hk => ?_⟩
    · rw [perform_load c hk]
      obtain ⟨hframe, hkept⟩ := mxLoad_frame c x.addr f0 f1
      exact ⟨hframe, hkept, fun k hlt => mxLoad_get c x.addr f0 f1 hlt⟩
    · rw [perform_run c hk]
      exact ⟨mxRun_frame c x.addr f0, fun p hp n hn => mxRun_get c x.addr f0 hp hn⟩
    · have hs : x.perform c = c.mxStore x.addr f0 f1 := perform_store c hk
      rw [hs]
      refine ⟨mxStore_frame c x.addr f0 f1, ?_⟩
      intro v
      have hv (j : Nat) : c.mxStored f1 j = v j := mxStored_eq c f1 j
      refine ⟨fun j hj hf => ?_, fun j hj hf => ?_, fun b hb => mxStore_other c x.addr f0 f1 ?_⟩
      · rw [← hv, hf]
        exact mxStore_bf16 c x.addr hj f1
      · rw [← hv, hf]
        exact mxStore_fp32 c x.addr hj f1
      · simpa [tileBytes, f0] using hb

end Sys2Proof.Laws

end

section
/-!
SUPPORT. Fields and words (R64, R68, R154, R156, R204 to R206, R345): the words of a row hold its opcode and its fields, and the
fields of a word, put together again, are the word. An opcode's map answers with an instruction of that opcode and those fields.
-/

namespace Sys2Proof.Laws

open Sys2Proof.Machine

/-! ### Words and their fields -/

section
open BitVec

theorem TWord.op_bits (op : BitVec 8) (w : TWord) : fld64 (w.bits op) 56 8 = op := by
  simp (disch := decide) only [fld64, TWord.bits, extractLsb'_append_eq_of_le, Nat.reduceSub, extractLsb'_eq_self]

theorem TWord.len_bits (op : BitVec 8) (w : TWord) : tLen (w.bits op) = if w.long.isSome then 1#2 else 0#2 := by
  simp (disch := decide) only [tLen, fld64, TWord.bits, extractLsb'_append_eq_of_add_le, extractLsb'_eq_self]

theorem TWord.ofBits_bits (op : BitVec 8) (w : TWord) : TWord.ofBits (w.bits op) w.long = w := by
  simp (disch := decide) only [TWord.ofBits, fld64, TWord.bits, extractLsb'_append_eq_of_le, extractLsb'_append_eq_of_add_le,
    Nat.reduceSub, extractLsb'_eq_self]

theorem TWord.bits_ofBits (x : BitVec 64) (long : Option TLong) (h : tLen x = if long.isSome then 1#2 else 0#2) :
    (TWord.ofBits x long).bits (fld64 x 56 8) = x := by
  have h : (if (TWord.ofBits x long).long.isSome then 1#2 else 0#2) = extractLsb' 0 2 x := h.symm
  rw [TWord.bits, h]
  simp (disch := decide) only [TWord.ofBits, fld64, extractLsb'_append_extractLsb'_eq_extractLsb', extractLsb'_eq_self]

theorem TLong.zero_bits (e : TLong) : fld64 e.bits 0 1 = 0 := by
  simp (disch := decide) only [fld64, TLong.bits, extractLsb'_append_eq_of_add_le, extractLsb'_eq_self]
  rfl

theorem TLong.ofBits_bits (e : TLong) : TLong.ofBits e.bits = e := by
  simp (disch := decide) only [TLong.ofBits, fld64, TLong.bits, extractLsb'_append_eq_of_le, extractLsb'_append_eq_of_add_le,
    Nat.reduceSub, extractLsb'_eq_self]

theorem TLong.bits_ofBits (x : BitVec 64) (h : fld64 x 0 1 = 0) : (TLong.ofBits x).bits = x := by
  have h : 0#1 = extractLsb' 0 1 x := h.symm
  simp (disch := decide) only [TLong.ofBits, fld64, TLong.bits, h, extractLsb'_append_extractLsb'_eq_extractLsb',
    extractLsb'_eq_self]

theorem AWord.op_bits (op : BitVec 6) (w : AWord) : fld32 (w.bits op) 26 6 = op := by
  simp (disch := decide) only [fld32, AWord.bits, extractLsb'_append_eq_of_le, Nat.reduceSub, extractLsb'_eq_self]

theorem AWord.ofBits_bits (op : BitVec 6) (w : AWord) : AWord.ofBits (w.bits op) = w := by
  simp (disch := decide) only [AWord.ofBits, fld32, AWord.bits, extractLsb'_append_eq_of_le, extractLsb'_append_eq_of_add_le,
    Nat.reduceSub, extractLsb'_eq_self]

theorem AWord.bits_ofBits (x : BitVec 32) : (AWord.ofBits x).bits (fld32 x 26 6) = x := by
  simp (disch := decide) only [AWord.ofBits, fld32, AWord.bits, extractLsb'_append_extractLsb'_eq_extractLsb', extractLsb'_eq_self]

theorem APrefix.op_bits (p : APrefix) : fld32 p.bits 26 6 = 0x3F := by
  simp (disch := decide) only [fld32, APrefix.bits, extractLsb'_append_eq_of_le, Nat.reduceSub, extractLsb'_eq_self]
  rfl

theorem APrefix.zero_bits (p : APrefix) : fld32 p.bits 0 15 = 0 := by
  simp (disch := decide) only [fld32, APrefix.bits, extractLsb'_append_eq_of_add_le, extractLsb'_eq_self]
  rfl

theorem APrefix.ofBits_bits (p : APrefix) : APrefix.ofBits p.bits p.imm32 = p := by
  simp (disch := decide) only [APrefix.ofBits, fld32, APrefix.bits, extractLsb'_append_eq_of_le, extractLsb'_append_eq_of_add_le,
    Nat.reduceSub, extractLsb'_eq_self]

theorem APrefix.bits_ofBits (x imm : BitVec 32) (hop : fld32 x 26 6 = 0x3F) (hz : fld32 x 0 15 = 0) :
    (APrefix.ofBits x imm).bits = x := by
  have hop : 0x3F#6 = extractLsb' 26 6 x := hop.symm
  have hz : 0#15 = extractLsb' 0 15 x := hz.symm
  simp (disch := decide) only [APrefix.ofBits, fld32, APrefix.bits, hop, hz, extractLsb'_append_extractLsb'_eq_extractLsb',
    extractLsb'_eq_self]

theorem SSlot.op_bits (op : BitVec 5) (w : SSlot) : fld32 (w.bits op) 27 5 = op := by
  simp (disch := decide) only [fld32, SSlot.bits, extractLsb'_append_eq_of_le, Nat.reduceSub, extractLsb'_eq_self]

theorem SSlot.ofBits_bits (op : BitVec 5) (w : SSlot) : SSlot.ofBits (w.bits op) = w := by
  simp (disch := decide) only [SSlot.ofBits, fld32, SSlot.bits, extractLsb'_append_eq_of_le, extractLsb'_append_eq_of_add_le,
    Nat.reduceSub, extractLsb'_eq_self]

theorem SSlot.bits_ofBits (x : BitVec 32) : (SSlot.ofBits x).bits (fld32 x 27 5) = x := by
  simp (disch := decide) only [SSlot.ofBits, fld32, SSlot.bits, extractLsb'_append_extractLsb'_eq_extractLsb', extractLsb'_eq_self]

theorem VSlot.op_bits (op : BitVec 5) (w : VSlot) : fld32 (w.bits op) 27 5 = op := by
  simp (disch := decide) only [fld32, VSlot.bits, extractLsb'_append_eq_of_le, Nat.reduceSub, extractLsb'_eq_self]

theorem VSlot.ofBits_bits (op : BitVec 5) (w : VSlot) : VSlot.ofBits (w.bits op) = w := by
  simp (disch := decide) only [VSlot.ofBits, fld32, VSlot.bits, extractLsb'_append_eq_of_le, extractLsb'_append_eq_of_add_le,
    Nat.reduceSub, extractLsb'_eq_self]

theorem VSlot.bits_ofBits (x : BitVec 32) : (VSlot.ofBits x).bits (fld32 x 27 5) = x := by
  simp (disch := decide) only [VSlot.ofBits, fld32, VSlot.bits, extractLsb'_append_extractLsb'_eq_extractLsb', extractLsb'_eq_self]

theorem MSlot.op_bits (op : BitVec 5) (w : MSlot) : fld32 (w.bits op) 27 5 = op := by
  simp (disch := decide) only [fld32, MSlot.bits, extractLsb'_append_eq_of_le, Nat.reduceSub, extractLsb'_eq_self]

theorem MSlot.ofBits_bits (op : BitVec 5) (w : MSlot) : MSlot.ofBits (w.bits op) = w := by
  simp (disch := decide) only [MSlot.ofBits, fld32, MSlot.bits, extractLsb'_append_eq_of_le, extractLsb'_append_eq_of_add_le,
    Nat.reduceSub, extractLsb'_eq_self]

theorem MSlot.bits_ofBits (x : BitVec 32) : (MSlot.ofBits x).bits (fld32 x 27 5) = x := by
  simp (disch := decide) only [MSlot.ofBits, fld32, MSlot.bits, extractLsb'_append_extractLsb'_eq_extractLsb', extractLsb'_eq_self]

theorem QWord.op_bits (op : BitVec 5) (w : QWord) : fld16 (w.bits op) 11 5 = op := by
  simp (disch := decide) only [fld16, QWord.bits, extractLsb'_append_eq_of_le, Nat.reduceSub, extractLsb'_eq_self]

theorem QWord.ofBits_bits (op : BitVec 5) (w : QWord) : QWord.ofBits (w.bits op) = w := by
  simp (disch := decide) only [QWord.ofBits, fld16, QWord.bits, extractLsb'_append_eq_of_le, extractLsb'_append_eq_of_add_le,
    Nat.reduceSub, extractLsb'_eq_self]

theorem QWord.bits_ofBits (x : BitVec 16) : (QWord.ofBits x).bits (fld16 x 11 5) = x := by
  simp (disch := decide) only [QWord.ofBits, fld16, QWord.bits, extractLsb'_append_extractLsb'_eq_extractLsb', extractLsb'_eq_self]

end

/-! ### An opcode's map and the instruction's view -/

/-- What a T opcode's map answers has that opcode and those fields, and the opcode fits its 8 bits (R64, R77). -/
theorem view_of_ofT {op : Nat} {w : TWord} {i : Instr} (h : Instr.ofT op w = some i) : i.view = .t op w ∧ op < 256 := by
  unfold Instr.ofT at h
  split at h
  case h_62 => split at h <;> cases h <;> exact ⟨rfl, by decide⟩
  case h_106 => cases h
  all_goals cases h; exact ⟨rfl, by decide⟩

/-- AEXIT and ARET.T have no field but zeros (R171, R224). -/
theorem AWord.eq_zero {w : AWord} (h : (w.d == 0 && w.s1 == 0 && w.s2 == 0 && noQueues w) = true) : w = AWord.zero := by
  obtain ⟨popq, pushq, d, s1, s2⟩ := w
  simp only [noQueues, Bool.and_eq_true, beq_iff_eq] at h
  obtain ⟨⟨⟨rfl, rfl⟩, rfl⟩, rfl, rfl⟩ := h
  rfl

theorem view_of_ofA {safe : List (Bool × Bool)} {op n : Nat} {w : AWord} {i : Instr} (hf : aFieldsOk safe op n w = true)
    (h : Instr.ofA op w = some i) : i.view = .a op w ∧ op < 64 := by
  unfold Instr.ofA at h
  split at h
  case h_1 | h_2 => cases AWord.eq_zero hf; cases h; exact ⟨rfl, by decide⟩
  case h_48 => cases h
  all_goals cases h; exact ⟨rfl, by decide⟩

theorem view_of_ofALong {op : Nat} {p : APrefix} {w : AWord} {i : Instr} (h : Instr.ofALong op p w = some i) :
    i.view = .aLong op p w ∧ op < 64 := by
  unfold Instr.ofALong at h
  split at h
  case h_9 => split at h <;> cases h <;> exact ⟨rfl, by decide⟩
  case h_28 => cases h
  all_goals cases h; exact ⟨rfl, by decide⟩

/-- SNOP, SYNCM and HALT have no field but zeros (R208). -/
theorem SSlot.eq_zero {w : SSlot} (h : (w.i == 0 && w.d == 0 && w.a == 0 && w.b == 0) = true) : w = SSlot.zero := by
  obtain ⟨i, d, a, b⟩ := w
  simp only [Bool.and_eq_true, beq_iff_eq] at h
  obtain ⟨⟨⟨rfl, rfl⟩, rfl⟩, rfl⟩ := h
  rfl

theorem view_of_ofS {op : Nat} {w : SSlot} {i : Instr} (hf : sFieldsOk op w = true) (h : Instr.ofS op w = some i) :
    i.view = .s op w ∧ op < 32 := by
  unfold Instr.ofS at h
  split at h
  case h_1 | h_2 | h_3 => cases SSlot.eq_zero hf; cases h; exact ⟨rfl, by decide⟩
  case h_17 | h_18 => split at h <;> cases h <;> exact ⟨rfl, by decide⟩
  case h_19 => cases h
  all_goals cases h; exact ⟨rfl, by decide⟩

/-- VNOP has no field but zeros (R205). -/
theorem VSlot.eq_zero {w : VSlot} (h : vFieldsOk 0 w = true) : w = VSlot.zero := by
  obtain ⟨mreg, mke, ty, d, a, b, sub⟩ := w
  simp only [vFieldsOk, Bool.and_eq_true, beq_iff_eq, decide_eq_true_eq] at h
  obtain ⟨⟨⟨⟨⟨⟨rfl, rfl⟩, hty⟩, rfl⟩, rfl⟩, rfl⟩, rfl⟩ := h
  cases BitVec.eq_of_toNat_eq (y := 0) hty
  rfl

theorem view_of_ofV {op : Nat} {w : VSlot} {i : Instr} (hf : vFieldsOk op w = true) (h : Instr.ofV op w = some i) :
    i.view = .v op w ∧ op < 32 := by
  unfold Instr.ofV at h
  split at h
  case h_1 => cases VSlot.eq_zero hf; cases h; exact ⟨rfl, by decide⟩
  case h_18 => cases h
  all_goals cases h; exact ⟨rfl, by decide⟩

theorem view_of_ofM {op : Nat} {w : MSlot} {i : Instr} (h : Instr.ofM op w = some i) : i.view = .m op w ∧ op < 32 := by
  unfold Instr.ofM at h
  split at h
  case h_10 => cases h
  all_goals cases h; exact ⟨rfl, by decide⟩

/-- ENDB and DONE have no field but zeros (R345). -/
theorem QWord.eq_zero {w : QWord} (h : (w.r == 0 && w.x == 0) = true) : w = QWord.zero := by
  obtain ⟨r, x⟩ := w
  simp only [Bool.and_eq_true, beq_iff_eq] at h
  obtain ⟨rfl, rfl⟩ := h
  rfl

theorem view_of_ofQ {op : Nat} {w : QWord} {i : Instr} (hf : qFieldsOk op w = true) (h : Instr.ofQ op w = some i) :
    i.view = .q op w ∧ op < 32 := by
  unfold Instr.ofQ at h
  split at h
  case h_1 | h_2 => cases QWord.eq_zero hf; cases h; exact ⟨rfl, by decide⟩
  case h_20 => cases h
  all_goals cases h; exact ⟨rfl, by decide⟩

end Sys2Proof.Laws

end

section
/-!
SUPPORT. What each stream's decoder answers: an instruction exactly where the fields pass its checks and the opcode's map has an entry.
-/

namespace Sys2Proof.Laws

open Sys2Proof.Machine


theorem aFieldsOk_of_aCheck {safe : List (Bool × Bool)} {op : Nat} {p : Option APrefix} {w : AWord} (h : aCheck safe op p w = none) :
    aFieldsOk safe op ((p.map fun q => q.iuse.toNat).getD 0) w = true := by
  by_contra hf
  simp only [aCheck, Bool.not_eq_true _ |>.mp hf, Bool.false_and, Bool.not_false, if_true, reduceCtorEq] at h

/-! ### Well-formed instructions by their view -/

section
variable {ctx : KernelCtx} {i : Instr}

theorem wf_of_t {op : Nat} {w : TWord} (hv : i.view = .t op w) :
    i.wf ctx = true ↔ tCheck ctx op w = none ∧ Instr.ofT op w = some i := by
  simp [Instr.wf, hv]

theorem wf_of_a {op : Nat} {w : AWord} (hv : i.view = .a op w) :
    i.wf ctx = true ↔ aCheck ctx.safe op none w = none ∧ Instr.ofA op w = some i := by
  simp [Instr.wf, hv]

theorem wf_of_aLong {op : Nat} {p : APrefix} {w : AWord} (hv : i.view = .aLong op p w) :
    i.wf ctx = true ↔ aCheck ctx.safe op (some p) w = none ∧ Instr.ofALong op p w = some i := by
  simp [Instr.wf, hv]

theorem wf_of_s {op : Nat} {w : SSlot} (hv : i.view = .s op w) :
    i.wf ctx = true ↔ sFieldsOk op w = true ∧ Instr.ofS op w = some i := by
  simp [Instr.wf, hv]

theorem wf_of_v {op : Nat} {w : VSlot} (hv : i.view = .v op w) :
    i.wf ctx = true ↔ vFieldsOk op w = true ∧ Instr.ofV op w = some i := by
  simp [Instr.wf, hv]

theorem wf_of_m {op : Nat} {w : MSlot} (hv : i.view = .m op w) :
    i.wf ctx = true ↔ mFieldsOk op w = true ∧ Instr.ofM op w = some i := by
  simp [Instr.wf, hv]

theorem wf_of_q {op : Nat} {w : QWord} (hv : i.view = .q op w) :
    i.wf ctx = true ↔ qFieldsOk op w = true ∧ Instr.ofQ op w = some i := by
  simp [Instr.wf, hv]

end

/-! ### The decoders -/

section
variable {ctx : KernelCtx} {w0 : BitVec 64} {w1 : Option (BitVec 64)} {i : Instr}

theorem decodeT_short (h : tLen w0 = 0) : (decodeT ctx w0 w1).toOption = some i ↔
    tCheck ctx (fld64 w0 56 8).toNat (TWord.ofBits w0 none) = none ∧
      Instr.ofT (fld64 w0 56 8).toNat (TWord.ofBits w0 none) = some i := by
  unfold decodeT
  rw [if_pos h]
  cases hc : tCheck ctx (fld64 w0 56 8).toNat (TWord.ofBits w0 none) <;>
    cases ho : Instr.ofT (fld64 w0 56 8).toNat (TWord.ofBits w0 none) <;> simp [Except.toOption, hc, ho]

theorem decodeT_long (h : tLen w0 = 1) : (decodeT ctx w0 w1).toOption = some i ↔
    ∃ x, w1 = some x ∧ fld64 x 0 1 = 0 ∧ tCheck ctx (fld64 w0 56 8).toNat (TWord.ofBits w0 (some (TLong.ofBits x))) = none ∧
      Instr.ofT (fld64 w0 56 8).toNat (TWord.ofBits w0 (some (TLong.ofBits x))) = some i := by
  have h0 : tLen w0 ≠ 0 := by simp [h]
  unfold decodeT
  rw [if_neg h0, if_pos h]
  cases w1 with
  | none => simp [Except.toOption]
  | some x =>
    by_cases hz : fld64 x 0 1 = 0
    · cases hc : tCheck ctx (fld64 w0 56 8).toNat (TWord.ofBits w0 (some (TLong.ofBits x))) <;>
        cases ho : Instr.ofT (fld64 w0 56 8).toNat (TWord.ofBits w0 (some (TLong.ofBits x))) <;>
        simp [Except.toOption, hz, hc, ho]
    · simp only [if_neg hz]
      simp [Except.toOption, show fld64 x 0 1 ≠ 0#1 from hz]

theorem decodeT_reserved (h0 : tLen w0 ≠ 0) (h1 : tLen w0 ≠ 1) : decodeT ctx w0 w1 = .error illinst := by
  unfold decodeT
  rw [if_neg h0, if_neg h1]

end

theorem decodeA_some {safe : List (Bool × Bool)} {x : BitVec 32} {i : Instr} : (decodeA safe x).toOption = some i ↔
    aCheck safe (aOp x) none (AWord.ofBits x) = none ∧ Instr.ofA (aOp x) (AWord.ofBits x) = some i := by
  unfold decodeA
  cases aCheck safe (aOp x) none (AWord.ofBits x) <;> cases Instr.ofA (aOp x) (AWord.ofBits x) <;> simp [Except.toOption]

theorem decodeALong_some {safe : List (Bool × Bool)} {pre imm x : BitVec 32} {i : Instr} :
    (decodeALong safe pre imm x).toOption = some i ↔ (aOp pre = 0x3F ∧ fld32 pre 0 15 = 0) ∧
      aCheck safe (aOp x) (some (APrefix.ofBits pre imm)) (AWord.ofBits x) = none ∧
      Instr.ofALong (aOp x) (APrefix.ofBits pre imm) (AWord.ofBits x) = some i := by
  unfold decodeALong
  by_cases hp : aOp pre = 0x3F ∧ fld32 pre 0 15 = 0
  · rw [if_neg (by simp [hp]), and_iff_right hp]
    cases aCheck safe (aOp x) (some (APrefix.ofBits pre imm)) (AWord.ofBits x) <;>
      cases Instr.ofALong (aOp x) (APrefix.ofBits pre imm) (AWord.ofBits x) <;> simp [Except.toOption]
  · rw [if_pos (by rwa [← not_and_or]), iff_false_right fun h => hp h.1]
    simp [Except.toOption]

theorem decodeS_some {x : BitVec 32} {i : Instr} : decodeS x = some i ↔
    sFieldsOk (slotOp x) (SSlot.ofBits x) = true ∧ Instr.ofS (slotOp x) (SSlot.ofBits x) = some i := Option.ite_none_right_eq_some

theorem decodeV_some {x : BitVec 32} {i : Instr} : decodeV x = some i ↔
    vFieldsOk (slotOp x) (VSlot.ofBits x) = true ∧ Instr.ofV (slotOp x) (VSlot.ofBits x) = some i := Option.ite_none_right_eq_some

theorem decodeM_some {x : BitVec 32} {i : Instr} : decodeM x = some i ↔
    mFieldsOk (slotOp x) (MSlot.ofBits x) = true ∧ Instr.ofM (slotOp x) (MSlot.ofBits x) = some i := Option.ite_none_right_eq_some

theorem decodeQ_some {x : BitVec 16} {i : Instr} : decodeQ x = some i ↔
    qFieldsOk (fld16 x 11 5).toNat (QWord.ofBits x) = true ∧ Instr.ofQ (fld16 x 11 5).toNat (QWord.ofBits x) = some i :=
  Option.ite_none_right_eq_some

end Sys2Proof.Laws

end

section
/-!
CLAIM. Obligation O55: encodings and decoders agree.
-/

namespace Sys2Proof.Laws

open Sys2Proof.Machine

/-- Decoding the words of a well-formed instruction gives it back. -/
theorem decode_encode {ctx : KernelCtx} {i : Instr} (h : i.wf ctx = true) (hw : encode i ≠ .none) :
    decode ctx (encode i) = some i := by
  unfold encode at hw ⊢
  cases hv : i.view with
  | t op w =>
    obtain ⟨hc, ho⟩ := (wf_of_t hv).mp h
    have hop : (fld64 (w.bits (BitVec.ofNat 8 op)) 56 8).toNat = op := by
      rw [TWord.op_bits, BitVec.toNat_ofNat, Nat.mod_eq_of_lt (view_of_ofT ho).2]
    have hlen := TWord.len_bits (BitVec.ofNat 8 op) w
    have hw := TWord.ofBits_bits (BitVec.ofNat 8 op) w
    cases hl : w.long with
    | none =>
      rw [hl] at hlen hw
      refine (decodeT_short hlen).mpr ?_
      rw [hop, hw]
      exact ⟨hc, ho⟩
    | some e =>
      rw [hl] at hlen hw
      refine (decodeT_long hlen).mpr ⟨e.bits, by rw [hl]; rfl, TLong.zero_bits e, ?_⟩
      rw [hop, TLong.ofBits_bits, hw]
      exact ⟨hc, ho⟩
  | a op w =>
    obtain ⟨hc, ho⟩ := (wf_of_a hv).mp h
    have hop := (view_of_ofA (aFieldsOk_of_aCheck hc) ho).2
    refine decodeA_some.mpr ?_
    rwa [aOp, AWord.op_bits, BitVec.toNat_ofNat, Nat.mod_eq_of_lt hop, AWord.ofBits_bits, and_iff_right hc]
  | aLong op p w =>
    obtain ⟨hc, ho⟩ := (wf_of_aLong hv).mp h
    have hop := (view_of_ofALong ho).2
    refine decodeALong_some.mpr ⟨⟨?_, APrefix.zero_bits p⟩, ?_⟩
    · rw [aOp, APrefix.op_bits]
      rfl
    · rw [aOp, AWord.op_bits, BitVec.toNat_ofNat, Nat.mod_eq_of_lt hop, AWord.ofBits_bits, APrefix.ofBits_bits]
      exact ⟨hc, ho⟩
  | s op w =>
    obtain ⟨hc, ho⟩ := (wf_of_s hv).mp h
    refine decodeS_some.mpr ?_
    rw [slotOp, SSlot.op_bits, BitVec.toNat_ofNat, Nat.mod_eq_of_lt (view_of_ofS hc ho).2, SSlot.ofBits_bits]
    exact ⟨hc, ho⟩
  | v op w =>
    obtain ⟨hc, ho⟩ := (wf_of_v hv).mp h
    refine decodeV_some.mpr ?_
    rw [slotOp, VSlot.op_bits, BitVec.toNat_ofNat, Nat.mod_eq_of_lt (view_of_ofV hc ho).2, VSlot.ofBits_bits]
    exact ⟨hc, ho⟩
  | m op w =>
    obtain ⟨hc, ho⟩ := (wf_of_m hv).mp h
    refine decodeM_some.mpr ?_
    rw [slotOp, MSlot.op_bits, BitVec.toNat_ofNat, Nat.mod_eq_of_lt (view_of_ofM ho).2, MSlot.ofBits_bits]
    exact ⟨hc, ho⟩
  | q op w =>
    obtain ⟨hc, ho⟩ := (wf_of_q hv).mp h
    refine decodeQ_some.mpr ?_
    rw [QWord.op_bits, BitVec.toNat_ofNat, Nat.mod_eq_of_lt (view_of_ofQ hc ho).2, QWord.ofBits_bits]
    exact ⟨hc, ho⟩
  | none => exact absurd (by rw [hv]) hw

/-- What the decoder reads from words is well formed and has those words, but for the second word after a first whose LEN is 00. -/
theorem encode_decode {ctx : KernelCtx} {i : Instr} {x : Words} (h : decode ctx x = some i) : i.wf ctx = true ∧
    (encode i = x ∨ ∃ w0 w1, x = .t w0 (some w1) ∧ tLen w0 = 0 ∧ encode i = .t w0 none) := by
  cases x with
  | t w0 w1 =>
    by_cases h0 : tLen w0 = 0
    · obtain ⟨hc, ho⟩ := (decodeT_short h0).mp h
      have hv := (view_of_ofT ho).1
      have he : encode i = .t w0 none := by
        rw [encode, hv]
        simp only [BitVec.ofNat_toNat, BitVec.setWidth_eq]
        rw [TWord.bits_ofBits w0 none h0]
        rfl
      refine ⟨(wf_of_t hv).mpr ⟨hc, ho⟩, ?_⟩
      cases w1 with
      | none => exact .inl he
      | some w1 => exact .inr ⟨w0, w1, rfl, h0, he⟩
    · by_cases h1 : tLen w0 = 1
      · obtain ⟨y, rfl, hz, hc, ho⟩ := (decodeT_long h1).mp h
        have hv := (view_of_ofT ho).1
        refine ⟨(wf_of_t hv).mpr ⟨hc, ho⟩, .inl ?_⟩
        rw [encode, hv]
        simp only [BitVec.ofNat_toNat, BitVec.setWidth_eq]
        rw [TWord.bits_ofBits w0 (some (TLong.ofBits y)) h1]
        change Words.t w0 (some (TLong.ofBits y).bits) = _
        rw [TLong.bits_ofBits y hz]
      · rw [decode, decodeT_reserved h0 h1] at h
        cases h
  | a x =>
    obtain ⟨hc, ho⟩ := decodeA_some.mp h
    have hv := (view_of_ofA (aFieldsOk_of_aCheck hc) ho).1
    refine ⟨(wf_of_a hv).mpr ⟨hc, ho⟩, .inl ?_⟩
    simp only [encode, hv, aOp, BitVec.ofNat_toNat, BitVec.setWidth_eq, AWord.bits_ofBits]
  | aLong pre imm x =>
    obtain ⟨⟨hop, hz⟩, hc, ho⟩ := decodeALong_some.mp h
    have hv := (view_of_ofALong ho).1
    refine ⟨(wf_of_aLong hv).mpr ⟨hc, ho⟩, .inl ?_⟩
    simp only [encode, hv, aOp, BitVec.ofNat_toNat, BitVec.setWidth_eq, AWord.bits_ofBits,
      APrefix.bits_ofBits pre imm (BitVec.eq_of_toNat_eq hop) hz]
    rfl
  | s x =>
    obtain ⟨hc, ho⟩ := decodeS_some.mp h
    have hv := (view_of_ofS hc ho).1
    refine ⟨(wf_of_s hv).mpr ⟨hc, ho⟩, .inl ?_⟩
    simp only [encode, hv, slotOp, BitVec.ofNat_toNat, BitVec.setWidth_eq, SSlot.bits_ofBits]
  | v x =>
    obtain ⟨hc, ho⟩ := decodeV_some.mp h
    have hv := (view_of_ofV hc ho).1
    refine ⟨(wf_of_v hv).mpr ⟨hc, ho⟩, .inl ?_⟩
    simp only [encode, hv, slotOp, BitVec.ofNat_toNat, BitVec.setWidth_eq, VSlot.bits_ofBits]
  | m x =>
    obtain ⟨hc, ho⟩ := decodeM_some.mp h
    have hv := (view_of_ofM ho).1
    refine ⟨(wf_of_m hv).mpr ⟨hc, ho⟩, .inl ?_⟩
    simp only [encode, hv, slotOp, BitVec.ofNat_toNat, BitVec.setWidth_eq, MSlot.bits_ofBits]
  | q x =>
    obtain ⟨hc, ho⟩ := decodeQ_some.mp h
    have hv := (view_of_ofQ hc ho).1
    refine ⟨(wf_of_q hv).mpr ⟨hc, ho⟩, .inl ?_⟩
    simp only [encode, hv, BitVec.ofNat_toNat, BitVec.setWidth_eq, QWord.bits_ofBits]
  | none => cases h

/-- Settles O55: the two directions are `decode_encode` and `encode_decode`. -/
theorem encodingsAgree : Obligations.EncodingsAgree :=
  ⟨fun _ _ => decode_encode, fun _ _ _ => encode_decode⟩

end Sys2Proof.Laws

end

section
/-!
SUPPORT. An atomic access changes no byte but those that it names: what it reads of the levels beyond is a read's doing, and then it
stores. The checks of an access's threads only translate.
-/

namespace Sys2Proof.Laws

open Sys2Proof.Machine

/-! ### States that reads and named stores lead to -/

theorem updated_of_warmed {s t : State} (h : Warmed s t) (P : Nat → Prop) : Updated s t P :=
  ⟨h.rest, fun v a ha _ hh => h.bytes v a ha hh⟩

theorem updated_trans {s t u : State} {P : Nat → Prop} (h1 : Updated s t P) (h2 : Updated t u P) : Updated s u P := by
  refine ⟨by rw [h2.rest, h1.rest], fun v a ha hp hh => ?_⟩
  have ht : t.fw.tenants = s.fw.tenants := by rw [h1.rest]
  obtain ⟨v1, hv1, he1⟩ := h2.bytes v a (fun hx => ha ((hotByte_of_tenants ht a).1 hx)) hp hh
  obtain ⟨v2, hv2, he2⟩ := h1.bytes v1 a ha hp hv1
  exact ⟨v2, hv2, he1.trans he2⟩

theorem updated_mono {s t : State} {P Q : Nat → Prop} (h : Updated s t P) (hpq : ∀ a, P a → Q a) : Updated s t Q :=
  ⟨h.rest, fun v a ha hq hh => h.bytes v a ha (fun hp => hq (hpq a hp)) hh⟩

/-- A masked store changes the masked bytes alone. -/
theorem updated_stores {s t : State} {ln : Nat} {mask : BitVec 128} {x : BitVec 1024} {P : Nat → Prop} (hs : Stores s t ln mask x)
    (hf : StoreFrame s t) (hp : ∀ a, a / 128 = ln → bit mask (a % 128) = true → P a) : Updated s t P := by
  refine ⟨by rw [hf], fun v a _ ha hh => ?_⟩
  rcases hs v a with he | ⟨hl, hb, -⟩
  · exact ⟨v, by rw [← he]; exact hh, by rw [he]⟩
  · exact absurd (hp a hl hb) ha

/-- The mask of an access names bytes of the access alone, also where the access would leave its line. -/
theorem inAccess_of_byteMask {p : Page} {n a : Nat} (hl : a / 128 = p.pa / 128) (hb : bit (byteMask (p.pa % 128) n) (a % 128) = true) :
    inAccess p n a := by
  unfold bit byteMask at hb
  rw [BitVec.getLsbD_ofNat, ← Nat.shiftLeft_eq, Nat.testBit_shiftLeft, Nat.testBit_two_pow_sub_one] at hb
  simp only [Bool.and_eq_true, decide_eq_true_eq] at hb
  unfold inAccess
  omega

/-! ### Atomic accesses -/

theorem gStore_grp_stores (s : State) (c tn : Nat) (p : Page) (n v : Nat) :
    Stores s (s.gStore c tn 0 p n v) (p.pa / 128) (byteMask (p.pa % 128) n) (natLine (v % 2 ^ (8 * n)) (p.pa % 128)) := by
  intro lv a
  unfold State.gStore
  simp only [if_true]
  rw [levelByte_unmarkLine, levelByte_setL1Line]
  split
  · rename_i h
    obtain ⟨rfl, hl⟩ := h
    rw [tagLine_byteAt]
    exact (line_write_stores (s := s) (v := .l1 c) (by rw [← hl]; rfl) _ _ _).imp id fun h => ⟨hl, h⟩
  · exact .inl rfl

theorem dropL1Line_warmed (s : State) (c ln : Nat) : Warmed s (s.setL1Line c ln Line.none) :=
  setL1Line_less_warmed fun i hh => by simp [Held] at hh

theorem gAtomic_updated (s : State) (c tn sc : Nat) (p : Page) (n : Nat) (f : Nat → Nat) :
    Updated s (s.gAtomic c tn sc p n f).1 (inAccess p n) := by
  have named (a : Nat) := inAccess_of_byteMask (p := p) (n := n) (a := a)
  have ht := touch_warmed s p.pa n
  unfold State.gAtomic
  simp only
  generalize s.touch p.pa n = t at ht
  split
  · exact updated_trans (updated_of_warmed (warmed_trans ht (gLoad_warmed t c tn 0 p n)) _)
      (updated_stores (gStore_grp_stores _ c tn p n _) rfl named)
  · have hd := warmed_trans ht (warmed_trans (flushL1Line_warmed t tn c (p.pa / 128) sc) (dropL1Line_warmed _ c (p.pa / 128)))
    generalize (t.flushL1Line tn c (p.pa / 128) sc).setL1Line c (p.pa / 128) Line.none = u at hd
    split
    · refine updated_trans (updated_of_warmed (warmed_trans hd ?_) _) (updated_stores (dieStore_stores _ _ _ _ _ _ _)
        (dieStore_frame _ _ _ _ _ _ _) named)
      split
      · exact (fillDie_warmed _ _ _ _ _).1
      · exact (devLine_warmed _ _ _ _).1
    · refine updated_trans (updated_of_warmed (warmed_trans hd ?_) _) (updated_stores (devStore_stores _ _ _ _ _)
        (devStore_frame _ _ _ _ _) named)
      refine warmed_trans ?_ (devLine_warmed _ _ _ _).1
      split
      · exact warmed_trans (passDie_warmed _ _ _) (bump_warmed _ _ _ _ _)
      · exact warmed_refl u

/-! ### The checks of an access's threads -/

theorem checkOne_warmed (e : TEnv) (s : State) (sp : Space) (n : Nat) (need : Need) (t : Nat) :
    Warmed s (e.checkOne s sp n need t).1 := by
  cases sp with
  | global =>
    change Warmed s (s.checkGlobal e.g (e.globalAddr t) n need).1
    unfold State.checkGlobal
    split
    · exact warmed_refl s
    · split
      · exact warmed_refl s
      · exact translate_warmed _ _ _ _ _
  | pad => exact warmed_refl s
  | cluster => exact warmed_refl s

/-- The threads are checked in their order, each in a state that only the translations of those before it have moved. -/
theorem checkAll_spec (e : TEnv) (s : State) (sp : Space) (n : Nat) (need : Need) (ts : List Nat) :
    let c := e.checkAll s sp n need ts
    Warmed s c.1 ∧ c.2.map Prod.fst = ts ∧ ∀ p ∈ c.2, ∃ s', Warmed s s' ∧ p.2 = (e.checkOne s' sp n need p.1).2 := by
  induction ts using List.reverseRecOn with
  | nil => exact ⟨warmed_refl s, rfl, by simp [TEnv.checkAll]⟩
  | append_singleton ts t ih =>
    obtain ⟨hw, hm, hp⟩ := ih
    have hc : e.checkAll s sp n need (ts ++ [t]) = ((e.checkOne (e.checkAll s sp n need ts).1 sp n need t).1,
        (e.checkAll s sp n need ts).2 ++ [(t, (e.checkOne (e.checkAll s sp n need ts).1 sp n need t).2)]) := by
      simp only [TEnv.checkAll, List.foldl_append, List.foldl_cons, List.foldl_nil]
    rw [hc]
    refine ⟨warmed_trans hw (checkOne_warmed _ _ _ _ _ _), by simp [hm], fun p h => ?_⟩
    rcases List.mem_append.1 h with h | h
    · exact hp p h
    · cases List.mem_singleton.1 h
      exact ⟨_, hw, rfl⟩

/-- The checks of a global access place each thread, or say its fault (R251). -/
theorem checks_global_places (e : TEnv) (n : Nat) (need : Need) (m : BitVec 32) :
    e.Places .global n need m (e.checks .global n need m).2 := by
  obtain ⟨-, hm, hp⟩ := checkAll_spec e e.base .global n need (lanesOf m)
  refine ⟨hm, fun t pl h _ => ?_, fun t b h => ?_⟩
  · obtain ⟨s', hw, hc⟩ := hp _ h
    change Except.ok pl = (s'.checkGlobal e.g (e.globalAddr t) n need).2 at hc
    unfold State.checkGlobal at hc
    split at hc
    · cases hc
    · split at hc
      · cases hc
      · dsimp only at hc
        split at hc
        · cases hc
        · split at hc
          · cases hc
            exact ⟨not_not.1 ‹_›, Nat.lt_of_not_le ‹_›, s', _, hw, ‹_›, ‹_›, rfl⟩
          · cases hc
  · obtain ⟨s', hw, hc⟩ := hp _ h
    change Except.error b = (s'.checkGlobal e.g (e.globalAddr t) n need).2 at hc
    unfold State.checkGlobal at hc
    split at hc
    · cases hc
      exact ⟨rfl, .inl ⟨rfl, rfl, ‹_›⟩⟩
    · have hal := not_not.1 ‹¬ _ ≠ _›
      split at hc
      · cases hc
        exact ⟨rfl, .inr (.inr ⟨rfl, rfl, hal, fun _ => .inl ‹_›, fun h => by cases h⟩)⟩
      · dsimp only at hc
        split at hc
        · cases hc
          exact ⟨rfl, .inr (.inl ⟨rfl, rfl, rfl, hal, s', hw, ‹_›⟩)⟩
        · split at hc
          · cases hc
          · cases hc
            exact ⟨rfl, .inr (.inr ⟨rfl, rfl, hal, fun _ => .inr ⟨s', _, hw, ‹_›, Bool.eq_false_of_not_eq_true ‹¬ Page.allows _ _ = true›⟩,
              fun h => by cases h⟩)⟩

end Sys2Proof.Laws

end

section
/-!
SUPPORT. The requests of an atomic instruction (R256): its threads by their addresses, performed one after another.
-/

namespace Sys2Proof.Machine

/-- One request performed as one atomic access, and its threads' old values noted. -/
def TEnv.request (e : TEnv) (n : Nat) (op : List Nat → Nat → Nat × List Nat) (l : List (Nat × Except Bad Place)) (a : State × SMap Nat)
    (ls : List Nat) : State × SMap Nat :=
  match ls.head?.bind (pageFor l) with
  | none => a
  | some p =>
    let r := a.1.gAtomic e.g.core e.g.tenant e.scope p n fun m => (op ls m).1
    (r.1, (ls.zip (op ls r.2).2).foldl (fun o q => SMap.put o q.1 q.2) a.2)

/-- A global write of a thread noted where it may publish a packet (R235). -/
def State.noteRing (uid n : Nat) (s : State) (p : Nat × Except Bad Place) : State :=
  match p.2 with
  | .ok (.glob q) => s.wroteRing uid q n
  | _ => s

end Sys2Proof.Machine

namespace Sys2Proof.Laws

open Sys2Proof.Machine

/-! ### The threads of one address -/

theorem lanesOf_sorted (m : BitVec 32) : (lanesOf m).Pairwise (· < ·) := List.pairwise_lt_range.filter _

/-- A thread of a list whose address no thread before it has. -/
def leads (l : List Nat) (f : Nat → DWord) (t : Nat) : Bool := l.find? (fun u => f u == f t) == some t

theorem requests_eq (l : List Nat) (f : Nat → DWord) :
    requests (l.map fun t => (t, f t)) = (l.filter (leads l f)).map fun t => l.filter fun u => f u == f t := by
  have hinj : Function.Injective fun t => (t, f t) := fun a b h => congrArg Prod.fst h
  have hlead (o : Option Nat) (t : Nat) : (o.map (fun t => (t, f t)) == some (t, f t)) = (o == some t) := by
    rw [Bool.eq_iff_iff, beq_iff_eq, beq_iff_eq]
    exact (Option.map_injective hinj).eq_iff (a := o) (b := some t)
  unfold requests leads
  simp only [List.filter_map, List.find?_map, List.map_map, Function.comp_def, List.map_id', hlead]

section
variable {l : List Nat} {f : Nat → DWord}

theorem mem_requests {ls : List Nat} : ls ∈ requests (l.map fun t => (t, f t)) ↔
    ∃ t, (t ∈ l ∧ leads l f t = true) ∧ l.filter (fun u => f u == f t) = ls := by
  rw [requests_eq, List.mem_map]
  simp only [List.mem_filter]

/-- Two leading threads of one address are one. -/
theorem leads_inj {t u : Nat} (ht : leads l f t = true) (hu : leads l f u = true) (h : f t = f u) : t = u := by
  simp only [leads, beq_iff_eq] at ht hu
  rw [h] at ht
  exact Option.some.inj (ht.symm.trans hu)

/-- Every thread has the address of a leading one. -/
theorem exists_leads {u : Nat} (hu : u ∈ l) : ∃ t ∈ l, leads l f t = true ∧ f t = f u := by
  obtain ⟨t, ht⟩ := Option.isSome_iff_exists.1 (List.find?_isSome (p := fun v => f v == f u) |>.2 ⟨u, hu, beq_self_eq_true (f u)⟩)
  have hf : f t = f u := by simpa using List.find?_some ht
  exact ⟨t, List.mem_of_find?_eq_some ht, by simpa [leads, hf] using ht, hf⟩

theorem requests_nodup (h : l.Pairwise (· < ·)) : (requests (l.map fun t => (t, f t))).flatten.Nodup := by
  have hl : l.Nodup := h.imp fun h => Nat.ne_of_lt h
  rw [List.nodup_flatten]
  refine ⟨fun ls hls => ?_, ?_⟩
  · obtain ⟨t, -, rfl⟩ := mem_requests.1 hls
    exact hl.filter _
  · rw [requests_eq, List.pairwise_map]
    refine (hl.filter _).imp_of_mem fun {t u} ht hu hne => ?_
    intro x hx hy
    have ha : f x = f t := by simpa using (List.mem_filter.1 hx).2
    have hb : f x = f u := by simpa using (List.mem_filter.1 hy).2
    exact hne (leads_inj (List.mem_filter.1 ht).2 (List.mem_filter.1 hu).2 (ha.symm.trans hb))

theorem requests_perm (h : l.Pairwise (· < ·)) : (requests (l.map fun t => (t, f t))).flatten.Perm l := by
  refine (List.perm_ext_iff_of_nodup (requests_nodup h) (h.imp fun h => Nat.ne_of_lt h)).2 fun u => ⟨fun hu => ?_, fun hu => ?_⟩
  · obtain ⟨ls, hls, hu⟩ := List.mem_flatten.1 hu
    obtain ⟨t, -, rfl⟩ := mem_requests.1 hls
    exact (List.mem_filter.1 hu).1
  · obtain ⟨t, ht, hlead, hf⟩ := exists_leads (f := f) hu
    exact List.mem_flatten.2 ⟨_, mem_requests.2 ⟨t, ⟨ht, hlead⟩, rfl⟩, List.mem_filter.2 ⟨hu, by simp [hf]⟩⟩

end

/-- The requests of an instruction are its threads, ascending, those of one address together (R256). -/
theorem requests_grouped (e : TEnv) : e.Grouped (requests ((lanesOf e.parts).map fun t => (t, e.globalAddr t))) := by
  refine ⟨requests_perm (lanesOf_sorted _), fun ls hls => ?_, fun ls hls t ht u => ?_⟩
  · obtain ⟨t, ⟨ht, -⟩, rfl⟩ := mem_requests.1 hls
    exact ⟨List.ne_nil_of_mem (List.mem_filter.2 ⟨ht, beq_self_eq_true (e.globalAddr t)⟩), (lanesOf_sorted _).filter _⟩
  · obtain ⟨v, -, rfl⟩ := mem_requests.1 hls
    have hv : e.globalAddr t = e.globalAddr v := by simpa using (List.mem_filter.1 ht).2
    rw [List.mem_filter, mem_lanesOf, beq_iff_eq, ← hv]
    rfl

/-! ### Old values noted -/

/-- Values put under the keys of a list, one by one, leave every other entry. -/
theorem find_putAll_other {β : Type} {ls : List Nat} (vs : List β) (m : SMap β) {t : Nat} (h : t ∉ ls) :
    SMap.find ((ls.zip vs).foldl (fun o q => SMap.put o q.1 q.2) m) t = SMap.find m t := by
  induction ls generalizing vs m with
  | nil => rfl
  | cons u ls ih =>
    cases vs with
    | nil => rfl
    | cons v vs =>
      rw [List.mem_cons, not_or] at h
      obtain ⟨hu, hls⟩ := h
      exact (ih vs _ hls).trans (find_put_other m v hu)

theorem find_putAll {β : Type} {ls : List Nat} (hnd : ls.Nodup) {vs : List β} (hl : vs.length = ls.length) (m : SMap β) {j t : Nat}
    (h : ls[j]? = some t) : SMap.find ((ls.zip vs).foldl (fun o q => SMap.put o q.1 q.2) m) t = vs[j]? := by
  induction ls generalizing vs m j with
  | nil => cases h
  | cons u ls ih =>
    obtain ⟨hu, hls⟩ := List.nodup_cons.1 hnd
    cases vs with
    | nil => cases hl
    | cons v vs =>
      cases j with
      | zero =>
        cases h
        exact (find_putAll_other vs _ hu).trans (find_put_self m _ v)
      | succ j => exact ih hls (Nat.succ.inj hl) _ h

/-! ### Requests performed -/

theorem mem_of_pageFor {l : List (Nat × Except Bad Place)} {t : Nat} {q : Page} (h : pageFor l t = some q) :
    (t, Except.ok (Place.glob q)) ∈ l := by
  obtain ⟨p, hp, hq⟩ := Option.bind_eq_some_iff.1 h
  have ht : p.1 = t := by simpa using List.find?_some hp
  obtain ⟨u, pl⟩ := p
  cases ht
  split at hq
  · cases hq
    have hx := List.mem_of_find?_eq_some hp
    rwa [show pl = _ from ‹_›] at hx
  · cases hq

/-- The requests are performed in their order, and what is noted of a thread is its request's result for it. -/
theorem requests_performed {e : TEnv} {n : Nat} {l : List (Nat × Except Bad Place)} {op : List Nat → Nat → Nat × List Nat}
    (hop : ∀ ls m, (op ls m).2.length = ls.length) {rs : List (List Nat)} (s : State) (m : SMap Nat)
    (hq : ∀ ls ∈ rs, ls ≠ [] ∧ ∃ q, pageFor l (ls.headD 0) = some q) (hnd : rs.flatten.Nodup) :
    let r := rs.foldl (e.request n op l) (s, m)
    e.Performs n l op (fun t => (SMap.find r.2 t).getD 0) rs s r.1 ∧ ∀ t, t ∉ rs.flatten → SMap.find r.2 t = SMap.find m t := by
  induction rs generalizing s m with
  | nil => exact ⟨rfl, fun _ _ => rfl⟩
  | cons ls rs ih =>
    obtain ⟨hne, q, hpage⟩ := hq ls List.mem_cons_self
    rw [List.flatten_cons, List.nodup_append'] at hnd
    obtain ⟨hls, hrs, hdis⟩ := hnd
    obtain ⟨u, us, rfl⟩ := List.exists_cons_of_ne_nil hne
    set r := s.gAtomic e.g.core e.g.tenant e.scope q n fun m => (op (u :: us) m).1 with hr
    set noted := ((u :: us).zip (op (u :: us) r.2).2).foldl (fun o q => SMap.put o q.1 q.2) m with hnoted
    have hstep : e.request n op l (s, m) (u :: us) = (r.1, noted) := by
      unfold TEnv.request
      rw [show (u :: us).head?.bind (pageFor l) = some q from hpage]
    rw [List.foldl_cons, hstep]
    obtain ⟨hperf, hkeep⟩ := ih r.1 noted (fun ls h => hq ls (List.mem_cons_of_mem _ h)) hrs
    refine ⟨⟨q, mem_of_pageFor hpage, fun j th hj => ?_, hperf⟩, fun t ht => ?_⟩
    · have hlen : (op (u :: us) r.2).2.length = (u :: us).length := hop _ _
      have hget := (hkeep th (hdis (List.mem_of_getElem? hj))).trans (find_putAll hls hlen m hj)
      obtain ⟨hlt, -⟩ := List.getElem?_eq_some_iff.1 hj
      have hv : (op (u :: us) r.2).2[j]? = some _ := List.getElem?_eq_getElem (hlen ▸ hlt)
      exact hv.trans (congrArg some (congrArg (Option.getD · 0) (hget.trans hv)).symm)
    · rw [List.flatten_cons, List.mem_append, not_or] at ht
      exact (hkeep t ht.2).trans (find_putAll_other _ _ ht.1)

theorem performs_updated {e : TEnv} {n : Nat} {l : List (Nat × Except Bad Place)} {op : List Nat → Nat → Nat × List Nat}
    {out : Nat → Nat} {rs : List (List Nat)} {s t : State} (h : e.Performs n l op out rs s t) : Updated s t (globBytes l n) := by
  induction rs generalizing s with
  | nil => exact (show t = s from h) ▸ updated_of_warmed (warmed_refl s) _
  | cons ls rs ih =>
    obtain ⟨q, hq, -, hrest⟩ := h
    exact updated_trans (updated_mono (gAtomic_updated s _ _ _ q n _) fun a ha => ⟨_, q, hq, ha⟩) (ih hrest)

end Sys2Proof.Laws

end

section
/-!
CLAIM. Obligation O15: atomic instructions that pass their checks.
-/

namespace Sys2Proof.Machine

/-- The warp that an atomic instruction leaves: ATOM and CAS write each thread's old value. -/
def TEnv.atomWarp (e : TEnv) (n : Nat) (dst : Bool) (out : Nat → Nat) : Warp :=
  if dst then e.wrote (n / 4) (fun t => if bit e.parts t then BitVec.ofNat 128 (out t) else 0) 0 else e.w

end Sys2Proof.Machine

namespace Sys2Proof.Laws

open Sys2Proof.Machine

theorem sideEffect_of_group {s : State} {uid : Nat} {g : Group} (h : s.group? uid = some g) :
    s.sideEffect uid = s.setGroup g.sideUp := by
  unfold State.sideEffect
  rw [h]

/-- The writes of an instruction to RING pages note who wrote, and make at most one side effect (R235). -/
theorem ringWrites_eq (e : TEnv) (more : Bool) (n : Nat) {s : State} {g : Group} (hg : s.group? e.g.uid = some g)
    (l : List (Nat × Except Bad Place)) : ∃ ps, e.ringWrites more n s l =
      let t : State := { s with qi := { s.qi with posters := ps } }
      if more || onRing l then t.setGroup g.sideUp else t := by
  have hfold (l : List (Nat × Except Bad Place)) (t : State) : ∃ ps,
      l.foldl (State.noteRing e.g.uid n) t = { t with qi := { t.qi with posters := ps } } := by
    induction l generalizing t with
    | nil => exact ⟨t.qi.posters, rfl⟩
    | cons p l ih =>
      rw [List.foldl_cons]
      unfold State.noteRing
      split
      · unfold State.wroteRing
        split
        · exact ih _
        · exact ih _
      · exact ih t
  obtain ⟨ps, hps⟩ := hfold l s
  refine ⟨ps, ?_⟩
  change (let t := l.foldl (State.noteRing e.g.uid n) s; if more || onRing l then t.sideEffect e.g.uid else t) = _
  rw [hps]
  exact if_congr Iff.rfl (sideEffect_of_group hg) rfl

/-- A result that no thread is poisoned for, and that meets no fault. -/
theorem resultOf_clean (e : TEnv) (n : Nat) (v : Nat → BitVec 128) :
    e.resultOf 0 n v (fun _ => none) = .ok e.base (e.wrote n v 0) 0 := by
  have hmask : maskOf 32 32 (fun t => bit e.act t && !bit (0 : BitVec 32) t && (none : Option Nat).isSome) = 0 := by
    simp [maskOf]
  have hlow : lowest (0 &&& e.parts) = none := by simp [lowest, lanesOf]
  unfold TEnv.resultOf
  simp only [hmask, hlow]
  simp [TEnv.wrote, bit]

theorem firstBad_placed {l : List (Nat × Except Bad Place)} (h : AllPlaced l) : firstBad l = none := by
  refine List.findSome?_eq_none_iff.2 fun o _ => List.find?_eq_none.2 fun x hx => ?_
  obtain ⟨p, hp, hx⟩ := List.mem_filterMap.1 hx
  obtain ⟨pl, hpl, -⟩ := h p hp
  rw [hpl] at hx
  cases hx

/-- Where every check of a global access passes, each of its threads has a page. -/
theorem pageFor_placed {e : TEnv} {n : Nat} {need : Need} {m : BitVec 32} (h : AllPlaced (e.checks .global n need m).2) {t : Nat}
    (ht : t ∈ lanesOf m) : ∃ q, pageFor (e.checks .global n need m).2 t = some q := by
  obtain ⟨hm, hpl, -⟩ := checks_global_places e n need m
  obtain ⟨p, hp, rfl⟩ := List.mem_map.1 (hm ▸ ht)
  obtain ⟨x, hx⟩ := Option.isSome_iff_exists.1 (List.find?_isSome (p := fun x : Nat × Except Bad Place => x.1 == p.1) |>.2
    ⟨p, hp, beq_self_eq_true p.1⟩)
  obtain ⟨pl, hx2, haway⟩ := h x (List.mem_of_find?_eq_some hx)
  obtain ⟨-, -, -, q, -, -, -, rfl⟩ := hpl x.1 pl (by rw [← hx2]; exact List.mem_of_find?_eq_some hx) haway
  exact ⟨q, by rw [pageFor, hx]; simp only [Option.bind_some, hx2]⟩

theorem group_of_updated {s t : State} {P : Nat → Prop} (h : Updated s t P) (uid : Nat) : t.group? uid = s.group? uid := by
  unfold State.group?
  rw [h.rest]

theorem tPre_warmed (e : TEnv) (s : State) : Warmed s (e.pre s) := by
  unfold TEnv.pre
  split
  · exact release_warmed _ _ _ _
  · exact warmed_refl s

theorem tPost_warmed (e : TEnv) (s : State) : Warmed s (e.post s) := by
  unfold TEnv.post
  split
  · exact acquire_warmed _ _ _
  · exact warmed_refl s

theorem atomAll_none {e : TEnv} (hp : e.parts = 0) (n : Nat) (run : TEnv → List Nat → Nat → Nat × List Nat) (s : State)
    (l : List (Nat × Except Bad Place)) : e.atomAll n run s l = (s, []) := by
  unfold TEnv.atomAll
  rw [hp]
  rfl

theorem atomAll_eq (e : TEnv) (n : Nat) (run : TEnv → List Nat → Nat → Nat × List Nat) (s : State) (l : List (Nat × Except Bad Place)) :
    e.atomAll n run s l = (requests ((lanesOf e.parts).map fun t => (t, e.globalAddr t))).foldl (e.request n (run e) l) (s, []) := rfl

theorem atomBody_eq {e : TEnv} {n : Nat} {dst : Bool} {run : TEnv → List Nat → Nat → Nat × List Nat}
    (hp : e.poisoned &&& e.parts = 0) (hb : firstBad (e.checks .global n .atomic e.parts).2 = none) :
    let c := e.checks .global n .atomic e.parts
    let r := e.atomAll n run (if e.parts = 0 then c.1 else e.pre c.1) c.2
    atomBody n dst run e = .ok (if e.parts = 0 then r.1 else e.ringWrites (e.scope != 0) n (e.post r.1) c.2)
      (if dst then e.wrote (n / 4) (fun t => BitVec.ofNat 128 ((SMap.find r.2 t).getD 0)) 0 else e.w) 0 := by
  unfold atomBody
  unfold TEnv.checks at hb ⊢
  dsimp only
  rw [if_neg (by simp [hp]), hb]
  dsimp only
  have hres := fun v => resultOf_clean e (n / 4) v
  by_cases hz : e.parts = 0
  · cases dst <;> simp only [if_pos hz, hres, if_true] <;> rfl
  · cases dst <;> simp only [if_neg hz, hres, if_true] <;> rfl

section
variable {op : Nat} {i : TWord} {s : State} {e : TEnv} (hr : s.tReady op i = some e) {n : Nat} {dst : Bool}
  {run : TEnv → List Nat → Nat → Nat × List Nat}
include hr

/-- Without a thread that takes part an atomic instruction changes nothing but its destination. -/
theorem atom_none_completes (hp : e.parts = 0) : e.Completes (tIssue op i s (atomBody n dst run)) e.s e.g
    (e.atomWarp n dst fun _ => 0) 0 := by
  have hc : e.checks .global n .atomic e.parts = (e.base, []) := by
    unfold TEnv.checks
    rw [hp]
    rfl
  refine completes_of_ok hr ((atomBody_eq (by simp [hp]) (by rw [hc]; rfl)).trans ?_)
  have hzero : (fun t => if bit e.parts t then BitVec.ofNat 128 0 else 0) = fun _ => (0 : BitVec 128) := funext fun _ => ite_self _
  simp only [atomAll_none hp, hc, if_pos hp, TEnv.atomWarp, hzero]
  rfl

/-- An atomic instruction whose checks pass performs its threads' requests, and completes (R235, R256 to R258). -/
theorem atom_completes (hrun : ∀ ls m, (run e ls m).2.length = ls.length) (hpl : AllPlaced (e.checks .global n .atomic e.parts).2)
    (hpo : e.poisoned &&& e.parts = 0) (hp : e.parts ≠ 0) :
    let c := e.checks .global n .atomic e.parts
    let side := if e.i.ext.scope ≠ 0 ∨ onRing c.2 = true then min 0xFFFF (e.g.side + 1) else e.g.side
    ∃ rs s0 s1, ∃ out : Nat → Nat, e.Grouped rs ∧ e.Performs n c.2 (run e) out rs (e.pre c.1) s0 ∧
      Updated e.base s0 (globBytes c.2 n) ∧
      s1 = { e.post s0 with groups := s1.groups, qi := { e.s.qi with posters := s1.qi.posters } } ∧
      (∀ uid, uid ≠ e.g.uid → s1.group? uid = e.s.group? uid) ∧
      e.Completes (tIssue op i s (atomBody n dst run)) s1 { e.g with side := side }
        (e.atomWarp n dst out) 0 := by
  intro c side
  set rs := requests ((lanesOf e.parts).map fun t => (t, e.globalAddr t)) with hrs
  have hgrouped : e.Grouped rs := requests_grouped e
  obtain ⟨hperm, hlists, -⟩ := hgrouped
  have hpages : ∀ ls ∈ rs, ls ≠ [] ∧ ∃ q, pageFor c.2 (ls.headD 0) = some q := by
    intro ls hls
    obtain ⟨hne, -⟩ := hlists ls hls
    obtain ⟨u, us, rfl⟩ := List.exists_cons_of_ne_nil hne
    exact ⟨hne, pageFor_placed hpl (hperm.mem_iff.1 (List.mem_flatten.2 ⟨_, hls, List.mem_cons_self⟩))⟩
  obtain ⟨hperf, hkeep⟩ := requests_performed hrun (e.pre c.1) [] hpages (requests_nodup (lanesOf_sorted _))
  rw [← atomAll_eq] at hperf hkeep
  set r := e.atomAll n run (e.pre c.1) c.2 with hrdef
  have hupd : Updated e.base r.1 (globBytes c.2 n) :=
    updated_trans (updated_of_warmed (warmed_trans (checkAll_spec e e.base .global n .atomic _).1 (tPre_warmed e _)) _)
      (performs_updated hperf)
  have hpost : Updated e.base (e.post r.1) (globBytes c.2 n) := updated_trans hupd (updated_of_warmed (tPost_warmed e _) _)
  have hgroup : (e.post r.1).group? e.g.uid = some e.g := (group_of_updated hpost _).trans (setGroup_self _ _)
  obtain ⟨ps, hring⟩ := ringWrites_eq e (e.scope != 0) n hgroup c.2
  have hqi : (e.post r.1).qi = e.s.qi := by rw [hpost.rest]; rfl
  refine ⟨rs, r.1, e.ringWrites (e.scope != 0) n (e.post r.1) c.2, fun t => (SMap.find r.2 t).getD 0, requests_grouped e, hperf, hupd,
    ?_, ?_, ?_⟩
  · rw [hring, ← hqi]
    dsimp only
    split <;> rfl
  · intro uid hne
    have hother : (e.post r.1).group? uid = e.s.group? uid := (group_of_updated hpost _).trans (setGroup_other _ _ hne)
    rw [hring]
    dsimp only
    split
    · exact (setGroup_other _ e.g.sideUp hne).trans hother
    · exact hother
  · have hbody : atomBody n dst run e = .ok (e.ringWrites (e.scope != 0) n (e.post r.1) c.2)
        (if dst then e.wrote (n / 4) (fun t => BitVec.ofNat 128 ((SMap.find r.2 t).getD 0)) 0 else e.w) 0 := by
      simpa only [if_neg hp] using atomBody_eq (n := n) (dst := dst) (run := run) hpo (firstBad_placed hpl)
    have hwarp : (fun t => if bit e.parts t then BitVec.ofNat 128 ((SMap.find r.2 t).getD 0) else 0) =
        fun t => BitVec.ofNat 128 ((SMap.find r.2 t).getD 0) := by
      funext t
      split
      · rfl
      · rw [hkeep t fun ht => ‹¬ _› (mem_lanesOf.1 (hperm.mem_iff.1 ht))]
        rfl
    rw [TEnv.atomWarp, hwarp]
    refine completes_of_ok_at hr hbody ?_ rfl
    have hside : side = if e.scope != 0 || onRing c.2 then min 0xFFFF (e.g.side + 1) else e.g.side := by
      refine if_congr ?_ rfl rfl
      simp [TEnv.scope, BitVec.toNat_eq]
    rw [hring, hside]
    dsimp only
    split
    · exact setGroup_self _ _
    · exact hgroup

end

theorem atomRun_eq (e : TEnv) : atomRun e = fun ls m => aggregate e.i.mod.toNat (ls.map e.operand) m := by
  have hdata : e.atomData = e.operand := by
    funext t
    unfold TEnv.atomData TEnv.operand TEnv.mod atomBytes TEnv.data
    refine if_congr (by simp [BitVec.toNat_eq]) rfl ?_
    cases atomIs64 e.i.mod.toNat <;> rfl
  funext ls m
  rw [atomRun, hdata]
  rfl

theorem casRun_eq (e : TEnv) : casRun e = fun ls m => casLanes (ls.map e.casPair) m := by
  funext ls m
  unfold casRun TEnv.casPair TEnv.mod
  simp [BitVec.toNat_eq]

/-- Every lane of a request has its old value. -/
theorem atomRun_length (e : TEnv) (ls : List Nat) (m : Nat) : (atomRun e ls m).2.length = ls.length := by
  unfold atomRun
  cases ls with
  | nil => rfl
  | cons t ts => simp [aggregate_cons]

theorem casRun_length (e : TEnv) (ls : List Nat) (m : Nat) : (casRun e ls m).2.length = ls.length := by
  simp [casRun, casLanes_eq]

/-- Settles O15: the three instructions issue one body, `atomBody`, of which `atom_completes` says what it does; what their requests
do is `atomRun_eq` and `casRun_eq`. -/
theorem atomics : Obligations.Atomics := by
  unfold Obligations.Atomics
  intro i s e
  refine ⟨fun hr => ?_, fun hr => ?_, fun hr => ?_⟩
  · obtain rfl := tReady_i hr
    exact ⟨checks_global_places e _ _ _, atom_none_completes hr, fun hpl hpo hp =>
      atomRun_eq e ▸ atom_completes (dst := true) hr (atomRun_length e) hpl hpo hp⟩
  · obtain rfl := tReady_i hr
    exact ⟨checks_global_places e _ _ _, atom_none_completes hr, fun hpl hpo hp =>
      casRun_eq e ▸ atom_completes (dst := true) hr (casRun_length e) hpl hpo hp⟩
  · obtain rfl := tReady_i hr
    exact ⟨checks_global_places e _ _ _, atom_none_completes hr, fun hpl hpo hp =>
      atomRun_eq e ▸ atom_completes (dst := false) hr (atomRun_length e) hpl hpo hp⟩

end Sys2Proof.Laws

end

section
/-!
CLAIM. Obligation O57, refuted: the words above a 32-bit source in a thread in which its operation is guarded off.

Such a thread gets input A (R404). Where IMMUSE gives IMM32 as a 32-bit source A, the model delivers its 32 bits and no more, for
only a 64-bit operand takes IMM32 by its sign (R71); the statement has every word above the lowest be copies of the sign. The two
differ in the upper word that MADW, which reads a 32-bit A and writes 64 bits, delivers for a negative IMM32.
-/

namespace Sys2Proof.Laws

open Sys2Proof.Machine

/-- MADW of IMM32 0x80000000, guarded by its slot P. -/
def offMadw : VosisOp := 0x80000000090000000020000008000000

/-- A block of the one operation: nothing supplies its slot P, and it is guarded off in every thread. -/
def offEnv : BlockEnv :=
  { uid := 0, slot := 0, run := 0xFFFFFFFF, parts := 0xFFFFFFFF, ops := [offMadw], ctx := (placedKern 16 0).ctx 0 }

/-- A group of one warp, and that warp: 32 live threads, every register 0. -/
def offGroup : Group := placedGroup (placedKern 16 0)

def offWarp : Warp := Warp.fresh (startThreads 32 32 0) 0

/-- The block's start, in a group of one warp. -/
def offStart : BlockRun :=
  { s := { State.reset with groups := [(0, offGroup)], ctl := { Control.reset with cur := .warp 0 0 } }, vals := [], stop := none }

/-- The form of MADW: a 32-bit A and B, a 64-bit C and result. -/
def offShape : TShape := aluShape .r64 .r32 .r32 .r64 0

/-- What `perform` runs the operation's instruction on. -/
def offState : State :=
  let regs := blockRegs (offEnv.input offStart 0 0) (offEnv.input offStart 0 1) (offEnv.input offStart 0 2) (offEnv.fires offStart 0)
    (offWarp.regs.fGet (vMod (offEnv.op 0) % 8))
  let u := offStart.s.setGroup (offGroup.setWarp 0 { offWarp with safecnt := 0, regs := regs })
  { u with ctl := { u.ctl with inBlock := true, wait := false, blockTrap := none } }

theorem offMadw_fires : offEnv.fires offStart 0 = 0 := by decide +kernel

theorem offMadw_shape : tShape (vOp offMadw) (vWord offMadw) = some offShape := by decide +kernel

theorem offMadw_check : tCheck offEnv.ctx (vOp offMadw) { blockWord offMadw offShape with pred := 7 } = none := by decide +kernel

/-- In thread 0 the operation delivers IMM32's 32 bits, with zero above them. -/
theorem offMadw_delivers : (SMap.find (offEnv.perform offStart 0).vals 0).map (·.word 0 1) = some 0 := by decide +kernel

/-- The statement's word above it: IMM32 is negative. -/
theorem offMadw_sign : bit (BitVec.ofNat 32 (vImm offMadw)) 31 = true := by decide +kernel

/-- An operation's instruction has completed: what `blockOutcome` answers with its warp. -/
theorem blockOutcome_ok {s : State} {x : BlockEnv} {i : Nat} {w : Warp} (h : s.blockOutcome x i = .ok w) :
    s.ctl.blockTrap = none ∧ (∃ g, s.group? x.uid = some g ∧ g.warp? x.slot = some w) ∧ w.parked = none ∧ s.ctl.wait = false := by
  unfold State.blockOutcome at h
  split at h <;> try contradiction
  next ht hw =>
    split at h <;> try contradiction
    next hp =>
      split at h <;> try contradiction
      next hwait =>
        obtain rfl := Except.ok.inj h
        exact ⟨ht, by simpa [Option.bind_eq_some_iff] using hw, hp, by simpa using hwait⟩

/-- The guarded-off instruction completes. -/
theorem offMadw_completes : (match exec (.madw (blockWord offMadw offShape)) offState with
    | .next s => (s.blockOutcome offEnv 0).isOk
    | _ => false) = true := by decide +kernel

theorem offMadw_next : ∃ s w, exec (.madw (blockWord offMadw offShape)) offState = .next s ∧ s.blockOutcome offEnv 0 = .ok w := by
  have h := offMadw_completes
  split at h
  next s hs =>
    cases ho : s.blockOutcome offEnv 0 with
    | ok w => exact ⟨s, w, hs, ho⟩
    | error st => simp [ho, Except.isOk, Except.toBool] at h
  · cases h

/-- Refutes O57: a thread in which `offMadw` is guarded off gets zero in the word above IMM32, not IMM32's sign. -/
theorem not_stepRunsDecoded : ¬ Obligations.StepRunsDecoded := by
  unfold Obligations.StepRunsDecoded
  intro h
  obtain ⟨-, -, hperform, -⟩ := h
  obtain ⟨-, -, -, -, hop⟩ := hperform offEnv offStart 0 offGroup offWarp rfl rfl rfl rfl
  obtain ⟨s, w, hexec, hok⟩ := offMadw_next
  obtain ⟨htrap, ⟨g, hg, hw⟩, hpark, hwait⟩ := blockOutcome_ok hok
  obtain ⟨-, v, hv, -, -, hoff, -⟩ := hop offShape _ (by decide +kernel) offMadw_shape rfl (by decide +kernel) offMadw_check rfl
    s g w hexec htrap hg hw hpark hwait
  have hfires : bit (offEnv.fires offStart 0) 0 = false := by rw [offMadw_fires]; rfl
  have hword : v.word 0 1 = if bit (BitVec.ofNat 32 (vImm offMadw)) 31 then BitVec.allOnes 32 else 0 :=
    hoff 1 rfl 0 (by decide) 1 (by decide) hfires
  have hzero : v.word 0 1 = 0 := by simpa [hv] using offMadw_delivers
  rw [hzero, offMadw_sign] at hword
  exact absurd hword (by decide)

end Sys2Proof.Laws

end

section
/-!
SUPPORT. What a result answers where it does not trap (R35, R36, R86, R129), and a row's claim from the body that its instruction
issues.
-/

namespace Sys2Proof.Machine

/-- The threads that meet a fault of their own: active, not poisoned, with a value at fault (R36). -/
def TEnv.faulted (e : TEnv) (pm : BitVec 32) (bad : Nat → Option Nat) : BitVec 32 :=
  maskOf 32 32 fun t => bit e.act t && !bit pm t && (bad t).isSome

end Sys2Proof.Machine

namespace Sys2Proof.Laws

open Sys2Proof.Machine

/-! ### Results -/

/-- A fault that only .SPEC lets pass, or helpers alone meet, raises nothing (R36). -/
theorem spec_or_parts {e : TEnv} {m : BitVec 32} (h : e.i.spec = 1 ∨ m &&& e.parts = 0) :
    ¬ (e.i.spec = 0 && m &&& e.parts != 0) = true := by
  rcases h with h | h <;> simp [h]

theorem resultOf_ok {e : TEnv} {pm : BitVec 32} {bad : Nat → Option Nat} (hp : e.i.spec = 1 ∨ pm &&& e.parts = 0)
    (hb : e.i.spec = 1 ∨ e.faulted pm bad &&& e.parts = 0) (n : Nat) (v : Nat → BitVec 128) :
    let zero := pm ||| e.faulted pm bad
    e.resultOf pm n v bad = .ok e.base
      { e.wrote n (fun t => if bit zero t then 0 else v t) zero with
        dfrec := deferred e.w.dfrec 0x07 ((lowest (e.faulted pm bad &&& e.parts)).map fun t => (bad t).getD 0) } 0 := by
  intro zero
  refine (if_neg (spec_or_parts hp)).trans ((if_neg (spec_or_parts hb)).trans ?_)
  have hdfrec : (match lowest (e.faulted pm bad &&& e.parts) with
      | some t => if bit e.w.dfrec 8 then e.w.dfrec else BitVec.ofNat 64 (2 ^ 12 * (bad t).getD 0 + 2 ^ 8 + Cause.illtrit.code)
      | none => e.w.dfrec) =
      deferred e.w.dfrec 0x07 ((lowest (e.faulted pm bad &&& e.parts)).map fun t => (bad t).getD 0) := by
    cases lowest (e.faulted pm bad &&& e.parts) with
    | none => rfl
    | some t =>
      refine if_congr Iff.rfl rfl (congrArg (BitVec.ofNat 64) ?_)
      change 2 ^ 12 * (bad t).getD 0 + 2 ^ 8 + 7 = 7 + 2 ^ 8 + 2 ^ 12 * (bad t).getD 0
      omega
  exact congrArg (fun d => TRes.ok e.base
    { e.wrote n (fun t => if bit zero t then 0 else v t) zero with dfrec := d } 0) hdfrec

/-- ILLTRIT names the value of the lowest thread at fault that is not a helper (R100). -/
theorem resultOf_illtrit {e : TEnv} {pm : BitVec 32} {bad : Nat → Option Nat} {t : Nat} (hs : e.i.spec = 0)
    (hp : pm &&& e.parts = 0) (ht : lowest (e.faulted pm bad &&& e.parts) = some t) (n : Nat) (v : Nat → BitVec 128) :
    e.resultOf pm n v bad = .trap .illtrit (BitVec.ofNat 64 ((bad t).getD 0)) := by
  have hfault : (e.i.spec = 0 && e.faulted pm bad &&& e.parts != 0) = true := by
    have hne : e.faulted pm bad &&& e.parts ≠ 0 := by
      intro h0
      simp [h0, lowest, lanesOf] at ht
    simpa [hs] using hne
  refine (if_neg (spec_or_parts (.inr hp))).trans ((if_pos hfault).trans ?_)
  change (match lowest (e.faulted pm bad &&& e.parts) with | some t => TRes.trap .illtrit _ | none => _) = _
  rw [ht]

/-- A result without faults of its own. -/
theorem resultOf_gives {e : TEnv} {pm : BitVec 32} (hp : e.i.spec = 1 ∨ pm &&& e.parts = 0) (n : Nat) (v : Nat → BitVec 128) :
    e.resultOf pm n v (fun _ => none) = .ok e.base (e.wrote n (fun t => if bit pm t then 0 else v t) pm) 0 := by
  have hnone : e.faulted pm (fun _ => none) = 0#32 := by simp [TEnv.faulted, maskOf]
  have hlow : lowest 0#32 = none := by simp [lowest, lanesOf]
  rw [resultOf_ok hp (.inr (by rw [hnone]; exact BitVec.zero_and))]
  simp only [hnone, hlow, BitVec.zero_and, BitVec.or_zero]
  rfl

theorem unpoisoned_act {e : TEnv} (h : e.unpoisoned) : e.i.spec = 1 ∨ e.poisoned &&& e.act &&& e.parts = 0 := by
  rwa [and_act_parts]

/-! ### Rows -/

/-- An instruction that issues the row's result gives it. -/
theorem gives_of_body {r : TRow} {body : TEnv → TRes} (hx : ∀ i s, exec (r.ins i) s = tIssue r.op i s body)
    (hb : ∀ e, r.ready e → body e = e.resultOf (r.pm e) (r.regs e.i) (r.val e) fun _ => none) : r.Gives := by
  intro i s e hr hready hp
  obtain rfl := tReady_i hr
  rw [hx]
  exact completes_of_ok hr ((hb e hready).trans (resultOf_gives hp _ _))

/-- An instruction whose body is a result of the row's own value. -/
theorem gives_of_result {r : TRow} {n : TEnv → Nat} {v : TEnv → Nat → BitVec 128}
    (hx : ∀ i s, exec (r.ins i) s = tIssue r.op i s fun e => e.result (n e) (v e) fun _ => none)
    (hp : r.pm = fun e => e.poisoned &&& e.act) (hn : ∀ e, n e = r.regs e.i) (hv : ∀ e t, v e t = r.val e t) : r.Gives := by
  refine gives_of_body hx fun e _ => ?_
  rw [TEnv.result, hp, hn, funext (hv e)]

section
variable {ins : TWord → Instr} {op : Nat}

theorem gives_word {f : TWord → Word → Word → Word → Word} {g : TEnv → Nat → Word} (hx : ∀ i s, exec (ins i) s = tAlu op i s g)
    (hv : ∀ e t, g e t = f e.i (e.int 1 t) (e.int 2 t) (e.int 3 t)) : (TRow.word ins op f).Gives :=
  gives_of_result hx rfl (fun _ => rfl) fun e t => congrArg _ (hv e t)

theorem gives_fp {f : TWord → Word → Word → Word → Word} {g : TEnv → Nat → Word} (hx : ∀ i s, exec (ins i) s = tAlu op i s g)
    (hv : ∀ e t, g e t = f e.i (e.fp 1 t) (e.fp 2 t) (e.fp 3 t)) : (TRow.fp ins op f).Gives :=
  gives_of_result hx rfl (fun _ => rfl) fun e t => congrArg _ (hv e t)

theorem gives_packed {f : TWord → Word → Word → Word → Word} {g : TEnv → Nat → Word} (hx : ∀ i s, exec (ins i) s = tAlu op i s g)
    (hv : ∀ e t, g e t = f e.i (e.int 1 t) (e.int 2 t) (e.fp 3 t)) : (TRow.packed ins op f).Gives :=
  gives_of_result hx rfl (fun _ => rfl) fun e t => congrArg _ (hv e t)

theorem gives_pair {f : TWord → Word → Word → DWord → DWord → DWord → DWord} {g : TEnv → Nat → DWord}
    (hx : ∀ i s, exec (ins i) s = tAlu64 op i s g)
    (hv : ∀ e t, g e t = f e.i (e.int 1 t) (e.int 2 t) (e.src64 1 t) (e.src64 2 t) (e.src64 3 t)) : (TRow.pair ins op f).Gives :=
  gives_of_result hx rfl (fun _ => rfl) fun e t => congrArg _ (hv e t)

end

/-- MOD as a number and as a field. -/
theorem mod_eq_iff (e : TEnv) (k : BitVec 4) : e.mod = k.toNat ↔ e.i.mod = k := BitVec.toNat_inj

theorem mod_eq_one (e : TEnv) : (e.mod == 1) = decide (e.i.mod = 1) :=
  (beq_eq_decide _ _).trans (decide_eq_decide.2 (mod_eq_iff e 1))

end Sys2Proof.Laws

end

section
/-!
SUPPORT. Integer, logic, shift and trit-packing results (R91, R93, R96 to R99): what the model computes is what the rules' table gives.
-/

namespace Sys2Proof.Laws

open Sys2Proof.Machine

/-! ### Exact results narrowed (R91) -/

theorem ofInt_readInt (signed : Bool) (a : Word) : BitVec.ofInt 32 (readInt signed a) = a := by
  cases signed <;> simp [readInt]

theorem readInt_eq_asInt (c : Prop) [Decidable c] (a : Word) : readInt (decide c) a = asInt c a := by
  simp [readInt, asInt]

theorem satInt_eq_clampInt {lo hi : Int} (h : lo ≤ hi) (x : Int) : satInt x lo hi = clampInt lo hi x := by
  unfold satInt clampInt
  split_ifs <;> omega

/-- A form narrows one exact result; the table names it three times, as the form reads it. -/
theorem narrowInt_eq_byForm {mod : BitVec 4} {x s u : Int} {wrap : Word} (hwrap : BitVec.ofInt 32 x = wrap) (hs : mod = 1 → x = s)
    (hu : mod ≠ 1 → x = u) : narrowInt mod.toNat x = byForm mod wrap s u := by
  unfold narrowInt byForm
  split
  case h_1 h => rw [if_pos (BitVec.eq_of_toNat_eq h), hwrap]
  case h_2 h =>
    obtain rfl : mod = 1 := BitVec.eq_of_toNat_eq h
    rw [if_neg (by decide), if_pos rfl, satInt_eq_clampInt (by decide), hs rfl]
    rfl
  case h_3 h0 h1 =>
    have h1 : mod ≠ 1 := fun h => h1 (congrArg BitVec.toNat h)
    rw [if_neg fun h => h0 (congrArg BitVec.toNat h), if_neg h1, satInt_eq_clampInt (by decide), hu h1]
    rfl

section
variable (mod : BitVec 4) (a b : Word)

theorem narrowInt_add : narrowInt mod.toNat (readInt (decide (mod = 1)) a + readInt (decide (mod = 1)) b) =
    byForm mod (a + b) (a.toInt + b.toInt) (a.toNat + b.toNat) :=
  narrowInt_eq_byForm (by simp only [BitVec.ofInt_add, ofInt_readInt]) (fun h => by rw [decide_eq_true h]; rfl)
    (fun h => by rw [decide_eq_false h]; rfl)

theorem narrowInt_sub : narrowInt mod.toNat (readInt (decide (mod = 1)) a - readInt (decide (mod = 1)) b) =
    byForm mod (a - b) (a.toInt - b.toInt) ((a.toNat : Int) - b.toNat) :=
  narrowInt_eq_byForm (by simp only [Int.sub_eq_add_neg, BitVec.ofInt_add, BitVec.ofInt_neg, ofInt_readInt, BitVec.sub_eq_add_neg])
    (fun h => by rw [decide_eq_true h]; rfl)
    (fun h => by rw [decide_eq_false h]; rfl)

theorem narrowInt_neg : narrowInt mod.toNat (-a.toInt) = byForm mod (-a) (-a.toInt) (-a.toInt) :=
  narrowInt_eq_byForm (by rw [BitVec.ofInt_neg, BitVec.ofInt_toInt]) (fun _ => rfl) (fun _ => rfl)

theorem ofInt_abs : BitVec.ofInt 32 |a.toInt| = if a.msb then -a else a := by
  rw [BitVec.msb_eq_toInt]
  split
  next h => rw [abs_of_neg (by simpa using h), BitVec.ofInt_neg, BitVec.ofInt_toInt]
  next h => rw [abs_of_nonneg (by simpa using h), BitVec.ofInt_toInt]

theorem narrowInt_abs : narrowInt mod.toNat (a.toInt.natAbs : Int) =
    byForm mod (if a.msb then -a else a) |a.toInt| |a.toInt| := by
  rw [Int.natCast_natAbs]
  exact narrowInt_eq_byForm (ofInt_abs a) (fun _ => rfl) (fun _ => rfl)

end

/-- An exact product in 64 bits. -/
theorem ofInt_mul_readInt (signed : Bool) (a b : Word) : BitVec.ofInt 64 (readInt signed a * readInt signed b) =
    if signed then a.signExtend 64 * b.signExtend 64 else a.setWidth 64 * b.setWidth 64 := by
  rw [BitVec.ofInt_mul]
  cases signed
  · simp [readInt, BitVec.ofInt_natCast]
  · rfl

/-! ### Logic and counts (R93) -/

theorem getLsbD_maskOf {p : Nat → Bool} {j : Nat} (hj : j < 32) : (maskOf 32 32 p).getLsbD j = p j := by
  have h := bit_maskOf (w := 32) (n := 32) (p := p) (i := j)
  rwa [decide_eq_true hj, Bool.true_and, Bool.true_and] at h

theorem lop3_eq (lut : BitVec 8) (a b c : Word) : lop3 lut a b c =
    maskOf 32 32 fun j => bit lut ((bit a j).toNat + 2 * (bit b j).toNat + 4 * (bit c j).toNat) := by
  unfold lop3
  congr 1
  funext j
  cases bit a j <;> cases bit b j <;> cases bit c j <;> rfl

theorem takeWhile_congr {α : Type} {p q : α → Bool} {l : List α} (h : ∀ x ∈ l, p x = q x) : l.takeWhile p = l.takeWhile q := by
  induction l with
  | nil => rfl
  | cons x l ih =>
    rw [List.forall_mem_cons] at h
    rw [List.takeWhile_cons, List.takeWhile_cons, h.1, ih h.2]

theorem leadZeros_eq (a : Word) : leadZeros a = ((List.range 32).takeWhile fun j => !a.getMsbD j).length := by
  refine congrArg List.length (takeWhile_congr fun j hj => ?_)
  have hlt : j < 32 := List.mem_range.1 hj
  simp [bit, BitVec.getMsbD, hlt]

theorem reverseBits_eq (a : Word) : reverseBits a = a.reverse := by
  refine BitVec.eq_of_getLsbD_eq fun j hj => ?_
  rw [reverseBits, getLsbD_maskOf hj, BitVec.getLsbD_reverse]
  simp [bit, hj, BitVec.getMsbD]

/-! ### Shifts and fields (R96, R97) -/

section
variable (a b c : Word)

theorem shl_eq (wrap : Prop) [Decidable wrap] : (if 32 ≤ shiftAmount (decide wrap) b then 0 else a <<< shiftAmount (decide wrap) b) =
    if wrap then a <<< (b.toNat % 32) else if 32 ≤ b.toNat then 0 else a <<< b.toNat := by
  by_cases h : wrap <;> simp [shiftAmount, h]
  omega

theorem shr_eq (wrap : Prop) [Decidable wrap] : (if 32 ≤ shiftAmount (decide wrap) b then 0 else a >>> shiftAmount (decide wrap) b) =
    if wrap then a >>> (b.toNat % 32) else if 32 ≤ b.toNat then 0 else a >>> b.toNat := by
  by_cases h : wrap <;> simp [shiftAmount, h]
  omega

theorem sra_eq (wrap : Prop) [Decidable wrap] : a.sshiftRight (min 32 (shiftAmount (decide wrap) b)) =
    if wrap then a.sshiftRight (b.toNat % 32)
    else if 32 ≤ b.toNat then (if a.msb then 0xFFFFFFFF else 0) else a.sshiftRight b.toNat := by
  by_cases h : wrap
  · simp [shiftAmount, h, Nat.min_eq_right (show b.toNat % 32 ≤ 32 by omega)]
  · simp only [shiftAmount, h, decide_false, Bool.false_eq_true, if_false]
    split
    next hb =>
      rw [Nat.min_eq_left hb]
      refine BitVec.eq_of_getLsbD_eq fun j hj => ?_
      rw [BitVec.getLsbD_sshiftRight, if_neg (by omega), decide_eq_false (by omega)]
      cases a.msb
      · simp
      · exact ((BitVec.getLsbD_allOnes (v := 32)).trans (decide_eq_true hj)).symm
    next hb => rw [Nat.min_eq_right (by omega)]

theorem funnel_eq (left : Prop) [Decidable left] : funnel (decide left) a b c =
    if left then ((b ++ a) <<< (c.toNat % 32)).extractLsb' 32 32 else ((b ++ a) >>> (c.toNat % 32)).extractLsb' 0 32 := by
  by_cases h : left <;> simp [funnel, h]

theorem fieldPos_eq : fieldPos b = b.toNat % 256 := by simp [fieldPos]

theorem fieldLen_eq : fieldLen b = min (b.toNat / 256 % 256) 32 := by
  simp [fieldLen, Nat.shiftRight_eq_div_pow]

theorem bitExtract_signed : bitExtract true a b =
    ((a.sshiftRight (b.toNat % 256)).setWidth (min (b.toNat / 256 % 256) 32)).signExtend 32 := by
  have hn : min (b.toNat / 256 % 256) 32 ≤ 32 := Nat.min_le_right _ _
  have hshift : a.toInt / 2 ^ (b.toNat % 256) = (a.sshiftRight (b.toNat % 256)).toInt := by
    rw [BitVec.toInt_sshiftRight, Int.shiftRight_eq_div_pow]
    rfl
  simp only [bitExtract, fieldPos_eq, fieldLen_eq, readInt, if_true, hshift]
  generalize min (b.toNat / 256 % 256) 32 = n at *
  generalize a.sshiftRight (b.toNat % 256) = x
  have hfield : BitVec.ofNat n (x.toInt % 2 ^ n).toNat = x.setWidth n := by
    rw [← BitVec.signExtend_eq_setWidth_of_le _ hn]
    refine BitVec.eq_of_toNat_eq ?_
    rw [BitVec.signExtend, BitVec.toNat_ofInt, BitVec.toNat_ofNat, Nat.mod_eq_of_lt]
    · push_cast
      rfl
    · have hlt := Int.emod_lt_of_pos x.toInt (b := 2 ^ n) (by positivity)
      zify
      rw [Int.toNat_of_nonneg (Int.emod_nonneg _ (by positivity))]
      exact hlt
  split
  next h =>
    subst h
    rw [BitVec.signExtend, BitVec.toInt_zero_length]
    rfl
  next => rw [sextI, hfield, BitVec.signExtend]

theorem bitExtract_unsigned : bitExtract false a b =
    ((a >>> (b.toNat % 256)).setWidth (min (b.toNat / 256 % 256) 32)).setWidth 32 := by
  simp only [bitExtract, fieldPos_eq, fieldLen_eq, readInt, Bool.false_eq_true, if_false]
  generalize min (b.toNat / 256 % 256) 32 = n
  refine BitVec.eq_of_toNat_eq ?_
  have hint : (a.toNat : Int) / 2 ^ (b.toNat % 256) % 2 ^ n = ((a >>> (b.toNat % 256)).toNat % 2 ^ n : Nat) := by
    rw [BitVec.toNat_ushiftRight, Nat.shiftRight_eq_div_pow]
    push_cast
    rfl
  rw [hint, BitVec.toNat_setWidth, BitVec.toNat_setWidth, BitVec.ofInt_natCast]
  split
  next h => simp [h, Nat.mod_one]
  next => rw [BitVec.toNat_ofNat]

theorem bitExtract_eq (signed : Prop) [Decidable signed] :
    let len := min (b.toNat / 256 % 256) 32
    bitExtract (decide signed) a b =
      if signed then ((a.sshiftRight (b.toNat % 256)).setWidth len).signExtend 32
      else ((a >>> (b.toNat % 256)).setWidth len).setWidth 32 := by
  intro len
  split
  next h => rw [decide_eq_true h, bitExtract_signed]
  next h => rw [decide_eq_false h, bitExtract_unsigned]

theorem getLsbD_field {n : Nat} (hn : n ≤ 32) (k : Nat) : (BitVec.setWidth 32 (BitVec.allOnes n)).getLsbD k = decide (k < n) := by
  rw [BitVec.getLsbD_setWidth, BitVec.getLsbD_allOnes, ← Bool.decide_and]
  exact decide_eq_decide.2 (by omega)

theorem bitInsert_eq :
    let field := BitVec.setWidth 32 (BitVec.allOnes (min (b.toNat / 256 % 256) 32))
    bitInsert a b c = ((a &&& field) <<< (b.toNat % 256)) ||| (c &&& ~~~(field <<< (b.toNat % 256))) := by
  intro field
  refine BitVec.eq_of_getLsbD_eq fun j hj => ?_
  have hfield := getLsbD_field (Nat.min_le_right (b.toNat / 256 % 256) 32)
  rw [bitInsert, getLsbD_maskOf hj]
  simp only [fieldPos_eq, fieldLen_eq, BitVec.getLsbD_or, BitVec.getLsbD_and, BitVec.getLsbD_shiftLeft,
    BitVec.getLsbD_not, hfield, hj, decide_true, Bool.true_and, bit, field]
  generalize b.toNat % 256 = p
  generalize min (b.toNat / 256 % 256) 32 = n
  by_cases hp : j < p
  · rw [if_neg (by omega)]
    simp [hp]
  · by_cases hn : j - p < n
    · rw [if_pos (by omega)]
      simp [hp, hn]
    · rw [if_neg (by omega)]
      simp [hp, hn]

end

/-! ### Addresses and trits (R98, R99) -/

theorem leaAddr_eq (mod : BitVec 4) (a : DWord) (b : Word) : leaAddr mod a b =
    a + (if bit mod 2 then b.signExtend 64 else b.setWidth 64) <<< (mod.toNat % 4) := by
  have hpow : BitVec.ofNat 64 (2 ^ (mod.toNat % 4)) = BitVec.twoPow 64 (mod.toNat % 4) :=
    BitVec.eq_of_toNat_eq (by rw [BitVec.toNat_ofNat, BitVec.toNat_twoPow])
  rw [leaAddr, BitVec.shiftLeft_eq_mul_twoPow, hpow]

theorem packTrits_eq (a : Word) : packTrits a =
    if code2 a 0 = 3 ∨ code2 a 1 = 3 ∨ code2 a 2 = 3 ∨ code2 a 3 = 3 ∨ code2 a 4 = 3 then 0xFF
    else BitVec.ofNat 32 (code2 a 0 + 3 * code2 a 1 + 9 * code2 a 2 + 27 * code2 a 3 + 81 * code2 a 4) := by
  have hcode (i : Nat) : (a.extractLsb' (2 * i) 2).toNat = code2 a i := by
    rw [BitVec.extractLsb'_toNat, code2, BitVec.toNat_ushiftRight]
  have hfive : List.range 5 = [0, 1, 2, 3, 4] := rfl
  simp only [packTrits, hcode, hfive, List.any_cons, List.any_nil, List.foldl_cons, List.foldl_nil]
  refine if_congr (by simp) rfl (congrArg _ (by omega))

end Sys2Proof.Laws

end

section
/-!
SUPPORT. The integer rows (R91, R93, R95 to R99) give their results.
-/

namespace Sys2Proof.Laws

open Sys2Proof.Machine

theorem intRows_give : ∀ r ∈ intRows, r.Gives := by
  simp only [intRows, List.forall_mem_cons, List.not_mem_nil, false_imp_iff, implies_true, and_true]
  refine ⟨?add, ?add3, ?sub, ?neg, ?abs, ?mullo, ?mulhi, ?mad, ?madw, ?min, ?max, ?lop3, ?shl, ?shr, ?sra, ?fsh, ?bfx, ?bfi, ?popc,
    ?clz, ?brev, ?sel, ?mov, ?movi, ?lea, ?addW, ?packT5⟩
  case add => exact gives_word (fun _ _ => rfl) fun e t => by rw [mod_eq_one]; exact narrowInt_add _ _ _
  case add3 => exact gives_word (fun _ _ => rfl) fun _ _ => rfl
  case sub => exact gives_word (fun _ _ => rfl) fun e t => by rw [mod_eq_one]; exact narrowInt_sub _ _ _
  case neg => exact gives_word (fun _ _ => rfl) fun e t => narrowInt_neg _ _
  case abs => exact gives_word (fun _ _ => rfl) fun e t => narrowInt_abs _ _
  case mullo => exact gives_word (fun _ _ => rfl) fun _ _ => rfl
  case mulhi =>
    exact gives_word (fun _ _ => rfl) fun e t => by
      rw [mod_eq_one, mulHi, ofInt_mul_readInt, apply_ite (BitVec.extractLsb' 32 32), if_congr decide_eq_true_iff rfl rfl]
  case mad => exact gives_word (fun _ _ => rfl) fun _ _ => rfl
  case madw =>
    exact gives_pair (fun _ _ => rfl) fun e t => by
      rw [mod_eq_one, ofInt_mul_readInt, if_congr decide_eq_true_iff rfl rfl]
  case min =>
    exact gives_word (fun _ _ => rfl) fun e t => by
      rw [mod_eq_one, readInt_eq_asInt, readInt_eq_asInt, ← ite_not, if_congr Int.not_lt rfl rfl]
  case max =>
    exact gives_word (fun _ _ => rfl) fun e t => by
      rw [mod_eq_one, readInt_eq_asInt, readInt_eq_asInt, ← ite_not, if_congr Int.not_lt rfl rfl]
  case lop3 => exact gives_word (fun _ _ => rfl) fun e t => lop3_eq _ _ _ _
  case shl => exact gives_word (fun _ _ => rfl) fun e t => by rw [mod_eq_one]; exact shl_eq _ _ _
  case shr => exact gives_word (fun _ _ => rfl) fun e t => by rw [mod_eq_one]; exact shr_eq _ _ _
  case sra => exact gives_word (fun _ _ => rfl) fun e t => by rw [mod_eq_one]; exact sra_eq _ _ _
  case fsh => exact gives_word (fun _ _ => rfl) fun e t => by rw [mod_eq_one]; exact funnel_eq _ _ _ _
  case bfx => exact gives_word (fun _ _ => rfl) fun e t => by rw [mod_eq_one]; exact bitExtract_eq _ _ _
  case bfi => exact gives_word (fun _ _ => rfl) fun e t => bitInsert_eq _ _ _
  case popc => exact gives_word (fun _ _ => rfl) fun _ _ => rfl
  case clz => exact gives_word (fun _ _ => rfl) fun e t => congrArg _ (leadZeros_eq _)
  case brev => exact gives_word (fun _ _ => rfl) fun e t => reverseBits_eq _
  case sel =>
    refine gives_of_result (fun _ _ => rfl) rfl (fun _ => rfl) fun e t => congrArg _ ?_
    rw [← ite_not]
    exact if_congr (by simp [TEnv.mod]) rfl rfl
  case mov =>
    refine gives_of_body (fun _ _ => rfl) fun e _ => ?_
    have hmod : e.mod = 1 ↔ e.i.mod = 1 := mod_eq_iff e 1
    by_cases h : e.i.mod = 1
    · simp only [hmod, h, if_true]
      rfl
    · simp only [hmod, h, if_false]
      rfl
  case movi => exact gives_word (fun _ _ => rfl) fun _ _ => rfl
  case lea => exact gives_pair (fun _ _ => rfl) fun e t => leaAddr_eq _ _ _
  case addW => exact gives_pair (fun _ _ => rfl) fun e t => if_congr (mod_eq_iff e 1) rfl rfl
  case packT5 => exact gives_word (fun _ _ => rfl) fun e t => packTrits_eq _

end Sys2Proof.Laws

end

section
/-!
SUPPORT. Floating-point and dot-product results (R104, R105, R107, R108, R113 to R115): what the model computes of packed elements is
what the rules' table gives.
-/

namespace Sys2Proof.Laws

open Sys2Proof.Machine

/-! ### Elements of packed words -/

theorem elemOf_eq_packedElem (w : Nat) (x : Word) (k : Nat) : elemOf w x k = packedElem w x k := by
  rw [elemOf, packedElem, BitVec.toNat_ushiftRight, Nat.shiftRight_eq_div_pow]

/-- A byte of a number is the byte of its word. -/
theorem readByte_eq {w : Nat} (signed : Bool) (x : BitVec w) (k : Nat) : readByte signed x.toNat k =
    if signed then (x.extractLsb' (8 * k) 8).toInt else ((x.extractLsb' (8 * k) 8).toNat : Int) := by
  have hbyte : (x.extractLsb' (8 * k) 8).toNat = x.toNat / 2 ^ (8 * k) % 256 := by
    rw [BitVec.extractLsb'_toNat, Nat.shiftRight_eq_div_pow]
  have hword : BitVec.ofNat 8 (x.toNat / 2 ^ (8 * k) % 256) = x.extractLsb' (8 * k) 8 := by
    rw [← hbyte, BitVec.ofNat_toNat, BitVec.setWidth_eq]
  simp only [readByte, sextI, hword, hbyte]

/-! ### Codes of 16 bits (R113) -/

/-- A rounded value is a code of the format's width. -/
theorem round_lt {f : Fmt} (hk : f.kind = .ieee) (hmax : f.maxCode < 2 ^ (f.ew + f.fw)) (hinf : f.infCode < 2 ^ (f.ew + f.fw))
    (hnan : f.nanCode < 2 ^ (f.ew + f.fw)) (m : RMode) (ns : Bool) (v : FVal) : f.round m ns v < 2 ^ (f.ew + f.fw + 1) := by
  have hsigned {c : Nat} (h : c < 2 ^ (f.ew + f.fw)) (neg : Bool) : f.signed neg c < 2 ^ (f.ew + f.fw + 1) := by
    rw [Fmt.signed, Nat.pow_succ]
    split <;> omega
  have htoInf (neg : Bool) : f.toInf ns neg < 2 ^ (f.ew + f.fw + 1) := by
    rw [Fmt.toInf, hk]
    exact hsigned hinf neg
  cases v with
  | nan => exact hnan.trans (Nat.pow_lt_pow_succ Nat.one_lt_two)
  | inf neg => exact htoInf neg
  | fin neg q =>
    simp only [Fmt.round]
    split
    next h => exact hsigned (h.trans_lt hmax) neg
    next =>
      split
      · exact htoInf neg
      · exact hsigned hmax neg

theorem half_round_lt (p : Prop) [Decidable p] (m : RMode) (ns : Bool) (v : FVal) :
    (if p then fp16 else bf16).round m ns v < 2 ^ 16 := by
  split
  · exact round_lt (f := fp16) rfl (by decide) (by decide) (by decide) m ns v
  · exact bf16_round_lt m ns v

/-- Two codes of 16 bits side by side. -/
theorem ofNat_codes {x : Nat} (h : x < 2 ^ 16) (y : Nat) : BitVec.ofNat 32 (x + 2 ^ 16 * y) = BitVec.ofNat 16 y ++ BitVec.ofNat 16 x := by
  have happend := ofNat_append 16 16 (x + 2 ^ 16 * y)
  have hhigh : (x + 2 ^ 16 * y) / 2 ^ 16 = y := by omega
  have hlow : BitVec.ofNat 16 (x + 2 ^ 16 * y) = BitVec.ofNat 16 x := BitVec.eq_of_toNat_eq (by simp)
  rw [hhigh, hlow] at happend
  exact happend.symm

theorem hfma2_eq (p : Prop) [Decidable p] (m : RMode) (a b c : Word) :
    let f := if p then fp16 else bf16
    let one (k : Nat) : BitVec 16 := BitVec.ofNat 16 (f.round m false (FVal.sum m
      [(f.decode (packedElem 16 a k)).mul (f.decode (packedElem 16 b k)), f.decode (packedElem 16 c k)]))
    hfma2 f m a b c = one 1 ++ one 0 := by
  intro f one
  simp only [hfma2, fmaCode, elemOf_eq_packedElem]
  exact ofNat_codes (half_round_lt p m false _) _

/-! ### Dot products (R114, R115) -/

theorem dotPacked_eq {fa fb : Fmt} {w : Nat} (ha : fa.width = w) (hb : fb.width = w) (n : Nat) (m : RMode) (a b c : Word) :
    dotPacked n fa fb m a b c =
      dotRound m ((List.range n).map fun k => (fa.decode (packedElem w a k), fb.decode (packedElem w b k))) c := by
  simp only [dotPacked, ha, hb, elemOf_eq_packedElem]
  rfl

theorem dot8Block_eq_laneBlock (x : DWord) : dot8Block x = laneBlock x := by
  simp only [dot8Block, laneBlock, BitVec.extractLsb'_toNat, Nat.shiftRight_eq_div_pow, Nat.reducePow, Nat.div_one]

theorem dot8_eq (m : RMode) (a b : DWord) (c : Word) : dot8 m a b c =
    dotRound m ([0, 1, 2, 3, 4, 5, 6, 7].map fun k => (decodeE2m1x (laneBlock a) k, decodeE2m1x (laneBlock b) k)) c := by
  rw [dot8, dot8Block_eq_laneBlock, dot8Block_eq_laneBlock]
  rfl

theorem idot4_eq (mod : BitVec 4) (a b c : Word) :
    let n := c.toInt + dotByte (bit mod 1) a 0 * dotByte (bit mod 0) b 0 + dotByte (bit mod 1) a 1 * dotByte (bit mod 0) b 1 +
      dotByte (bit mod 1) a 2 * dotByte (bit mod 0) b 2 + dotByte (bit mod 1) a 3 * dotByte (bit mod 0) b 3
    idot4 mod a b c = BitVec.ofInt 32 (if bit mod 2 then clampInt (-2147483648) 2147483647 n else n) := by
  intro n
  have hn : (List.range 4).foldl (fun s i => s + readByte (bit mod 1) a.toNat i * readByte (bit mod 0) b.toNat i) c.toInt = n := by
    simp only [readByte_eq]
    rfl
  rw [idot4, hn]
  cases bit mod 2
  · rfl
  · exact congrArg (BitVec.ofInt 32) (satInt_eq_clampInt (lo := -(2 ^ 31)) (hi := 2 ^ 31 - 1) (by decide) n)

/-! ### The rows -/

theorem floatRows_give : ∀ r ∈ floatRows, r.Gives := by
  simp only [floatRows, List.forall_mem_cons, List.not_mem_nil, false_imp_iff, implies_true, and_true]
  refine ⟨?fadd, ?fmul, ?ffma, ?fmin, ?fmax, ?frnd, ?frcp, ?frsq, ?fsqrt, ?fdiv, ?fexp2, ?flog2, ?fsint, ?fcost, ?hfma2, ?dot2, ?dot4,
    ?dot8, ?idot4⟩
  case hfma2 =>
    exact gives_word (fun _ _ => rfl) fun e t => by
      have hmod : e.mod = 0 ↔ e.i.mod = 0 := mod_eq_iff e 0
      rw [if_congr hmod rfl rfl]
      exact hfma2_eq _ _ _ _ _
  case dot2 =>
    exact gives_packed (fun _ _ => rfl) fun e t => by
      have hmod : e.mod = 0 ↔ e.i.mod = 0 := mod_eq_iff e 0
      have hwidth : (if e.i.mod = 0 then bf16 else fp16).width = 16 := by split <;> rfl
      simp only [hmod]
      exact dotPacked_eq hwidth hwidth 2 _ _ _ _
  case dot4 =>
    have hwidth (b : Bool) : (if b then e5m2 else e4m3).width = 8 := by cases b <;> rfl
    exact gives_packed (fun _ _ => rfl) fun e t => dotPacked_eq (hwidth _) (hwidth _) 4 _ _ _ _
  case dot8 => exact gives_of_result (fun _ _ => rfl) rfl (fun _ => rfl) fun e t => congrArg _ (dot8_eq _ _ _ _)
  case idot4 => exact gives_word (fun _ _ => rfl) fun e t => idot4_eq _ _ _ _
  all_goals exact gives_fp (fun _ _ => rfl) fun _ _ => rfl

end Sys2Proof.Laws

end

section
/-!
CLAIM. Obligation O1: the results of integer, logic, floating-point and dot-product instructions.
-/

namespace Sys2Proof.Laws

open Sys2Proof.Machine

/-- Settles O1: each row's instruction issues a result (`gives_of_result`), and what the model computes is the rules' value. -/
theorem integerAndFloatResults : Obligations.IntegerAndFloatResults := by
  unfold Obligations.IntegerAndFloatResults
  exact ⟨intRows_give, floatRows_give⟩

end Sys2Proof.Laws

end

section
/-!
SUPPORT. The conditions of CMP, FCMP and FCLASS (R94, R106), as their codes and the fields of an FP32 pattern give them.
-/

namespace Sys2Proof.Laws

open Sys2Proof.Machine

theorem condInt_eq (c : Nat) (a b : Int) : condInt c a b = byCode c (decide (a = b)) (decide (a < b)) (decide (b < a)) := by
  have hle {x y : Int} {p : Prop} [Decidable p] (hp : p ↔ x = y) : decide (x ≤ y) = (decide (x < y) || decide p) := by
    rw [← Bool.decide_or, decide_eq_decide, hp]
    exact Int.le_iff_lt_or_eq
  unfold condInt byCode
  split
  case h_1 => exact beq_eq_decide _ _
  case h_2 => exact congrArg (! ·) (beq_eq_decide _ _)
  case h_3 => rfl
  case h_4 => exact hle Iff.rfl
  case h_5 => rfl
  case h_6 h0 h1 h2 h3 h4 =>
    rw [if_neg h0, if_neg h1, if_neg h2, if_neg h3, if_neg h4]
    exact hle eq_comm

theorem condCmp_eq (mod : BitVec 4) (x y : Word) :
    let a := asInt (bit mod 3 = true) x
    let b := asInt (bit mod 3 = true) y
    condCmp mod x y = byCode (mod.toNat % 8) (decide (a = b)) (decide (a < b)) (decide (b < a)) := by
  intro a b
  have hread (z : Word) : readInt (bit mod 3) z = asInt (bit mod 3 = true) z := rfl
  have hcode : (mod.extractLsb' 0 3).toNat = mod.toNat % 8 := by simp [BitVec.extractLsb'_toNat]
  rw [condCmp, hread, hread, hcode]
  exact condInt_eq _ a b

theorem condFloat_eq (c : Nat) (x y : Word) :
    let a := f32v x
    let b := f32v y
    condFloat c x y = if 6 ≤ c then a.isNan || b.isNan else byCode c (a.eq b) (a.lt b) (b.lt a) := by
  intro a b
  rcases Nat.lt_or_ge c 6 with h | h
  · interval_cases c <;> rfl
  · obtain ⟨k, rfl⟩ := Nat.exists_eq_add_of_le' h
    rw [if_pos h]
    rfl

/-! ### Classes -/

theorem pow2_ne_zero (e : Int) : pow2 e ≠ 0 := by
  unfold pow2
  split <;> positivity

/-- The value of an FP32 word from its fields (R44). -/
theorem f32v_eq (x : Word) :
    let e : Nat := x.toNat / 2 ^ 23 % 256
    let frac : Nat := x.toNat % 2 ^ 23
    f32v x =
      if e = 255 then (if frac = 0 then .inf x.msb else .nan)
      else if e = 0 then .fin x.msb ((frac : Rat) * pow2 (-149))
      else .fin x.msb (((2 ^ 23 + frac : Nat) : Rat) * pow2 ((e : Int) - 127 - 23)) := by
  have hsign : decide (x.toNat / 2 ^ (fp32.ew + fp32.fw) % 2 = 1) = x.msb := by
    rw [BitVec.msb_eq_decide, decide_eq_decide]
    have hx := x.isLt
    change x.toNat / 2 ^ 31 % 2 = 1 ↔ 2 ^ 31 ≤ x.toNat
    omega
  rw [f32v, decode_ieee rfl, hsign]
  rfl

theorem floatClass_eq (a : Word) : floatClass a = classOf a := by
  have hexp : (a.extractLsb' 23 8).toNat = a.toNat / 2 ^ 23 % 256 := by
    rw [BitVec.extractLsb'_toNat, Nat.shiftRight_eq_div_pow]
  rw [floatClass, classOf, hexp, f32v_eq]
  generalize a.toNat / 2 ^ 23 % 256 = e
  generalize a.toNat % 2 ^ 23 = frac
  by_cases hmax : e = 255
  · by_cases hfrac : frac = 0 <;> simp [hmax, hfrac]
  · by_cases hzero : e = 0
    · by_cases hfrac : frac = 0 <;> simp [hzero, hfrac, pow2_ne_zero]
    · have hmag : ((2 ^ 23 + frac : Nat) : Rat) * pow2 ((e : Int) - 127 - 23) ≠ 0 :=
        mul_ne_zero (by positivity) (pow2_ne_zero _)
      simp only [hmax, hzero, hmag, if_false, false_and, ne_eq, not_false_eq_true, if_true]

/-! ### The rows -/

/-- A condition as a register result, and under .P as a predicate. -/
theorem gives_of_cond {r : CRow} {f : TEnv → Nat → Bool} (hx : ∀ i s, exec (r.ins i) s = tCond r.op i s f)
    (hf : ∀ e t, f e t = r.cond e t) : r.Gives := by
  intro i s e hr
  obtain rfl := tReady_i hr
  rw [hx, funext fun e => funext (hf e)]
  refine ⟨fun hform hp => completes_of_ok hr ?_, fun hform hp => completes_of_ok hr ?_⟩
  · rw [if_neg (by simp [hform])]
    refine (resultOf_gives (unpoisoned_act hp) 1 _).trans ?_
    refine congrArg (fun v => TRes.ok e.base (e.wrote 1 v (e.poisoned &&& e.act)) 0) (funext fun t => ?_)
    cases bit (e.poisoned &&& e.act) t <;> cases r.cond e t <;> rfl
  · rw [if_pos hform]
    refine (if_neg (by rw [and_act_parts, hp]; simp)).trans ?_
    refine congrArg (fun m => TRes.ok e.base (e.predicated (maskOf 32 32 m)) 0) (funext fun t => ?_)
    rw [bit_and]
    cases bit e.act t <;> cases bit e.poisoned t <;> cases r.cond e t <;> rfl

theorem condRows_give : ∀ r ∈ condRows, r.Gives := by
  simp only [condRows, List.forall_mem_cons, List.not_mem_nil, false_imp_iff, implies_true, and_true]
  refine ⟨?cmp, ?fcmp, ?fclass⟩
  case cmp => exact gives_of_cond (fun _ _ => rfl) fun e t => condCmp_eq _ _ _
  case fcmp => exact gives_of_cond (fun _ _ => rfl) fun e t => condFloat_eq _ _ _
  case fclass => exact gives_of_cond (fun _ _ => rfl) fun e t => congrArg _ (floatClass_eq _)

end Sys2Proof.Laws

end

section
/-!
SUPPORT. Results that threads take from other lanes, from the warp's blocks and codebooks (R111, R112, R117, R119, R140, R141, R147).
-/

namespace Sys2Proof.Laws

open Sys2Proof.Machine

/-! ### Lanes (R140, R141) -/

/-- An instruction that issues a result taken from lanes gives it. -/
theorem gives_of_lanes {r : TRow} {own : TEnv → BitVec 32} {src : TEnv → Nat → List Nat} {v : TEnv → Nat → Word}
    (hx : ∀ i s, exec (r.ins i) s = tIssue r.op i s fun e => e.fromLanes (own e) (src e) (v e)) (hn : ∀ i, r.regs i = 1)
    (hp : ∀ e, r.pm e = maskOf 32 32 fun t => bit e.act t && (bit (own e) t || (src e t).any fun l => bit (e.srcPoi 1 1) l))
    (hv : ∀ e t, (v e t).setWidth 128 = r.val e t) : r.Gives :=
  gives_of_body hx fun e _ => by
    rw [hp, hn, ← funext (hv e)]
    rfl

theorem quad_gives {ins : TWord → Instr} {op : Nat} {lanes : TWord → Nat → List Nat} {val : TEnv → Nat → Word}
    {src : TEnv → Nat → List Nat} {v : TEnv → Nat → Word} (hx : ∀ i s, exec (ins i) s = tIssue op i s fun e => e.fromLanes 0 (src e) (v e))
    (hl : ∀ e t, src e t = lanes e.i t) (hv : ∀ e t, v e t = val e t) : (TRow.quad ins op lanes val).Gives :=
  gives_of_lanes hx (fun _ => rfl) (fun e => by simp [TRow.quad, TEnv.aPoison, hl, bit]) fun e t => congrArg _ (hv e t)

/-- Inverting a word's highest bit negates its value, a NaN staying one (R104). -/
theorem f32v_negIf (x : Word) : f32v (negIf true x) = (f32v x).negate := by
  have hfrac : (x ^^^ 0x80000000).toNat % 2 ^ 23 = x.toNat % 2 ^ 23 := by
    rw [BitVec.toNat_xor, Nat.xor_mod_two_pow]
    exact Nat.xor_zero _
  have hexp : (x ^^^ 0x80000000).toNat / 2 ^ 23 % 256 = x.toNat / 2 ^ 23 % 256 := by
    rw [BitVec.toNat_xor, Nat.xor_div_two_pow, show 256 = 2 ^ 8 from rfl, Nat.xor_mod_two_pow]
    exact Nat.xor_zero _
  have hsign : (x ^^^ 0x80000000).msb = !x.msb := by
    rw [BitVec.msb_xor]
    exact Bool.xor_true _
  rw [negIf, if_pos rfl, f32v_eq, f32v_eq, hfrac, hexp, hsign]
  split_ifs <;> rfl

theorem fsub_eq_addRound (m : RMode) (a b : Word) : fsub m a b = addRound m a (negIf true b) := by
  rw [fsub, addRound, f32v_negIf]

/-! ### CVT (R110 to R112) -/

theorem cvtFs_eq (b : BitVec 9) : cvtFs b = b.toNat % 16 := by simp [cvtFs]

theorem cvtElem_eq (b : BitVec 9) : cvtElem b = b.toNat / 16 % 8 := by
  rw [cvtElem, BitVec.extractLsb'_toNat, Nat.shiftRight_eq_div_pow]

theorem cvtKind_eq (fs : Nat) : cvtKind fs = if fs = 0 then .f32 else if fs = 1 then .f16 else if fs = 2 then .bf16 else .int := by
  unfold cvtKind
  split
  case h_4 h0 h1 h2 => rw [if_neg h0, if_neg h1, if_neg h2]
  all_goals rfl

theorem cvtInput_eq (e : TEnv) (t : Nat) : cvtInput (cvtFs e.i.srcb) (e.src 1 (cvtKind (cvtFs e.i.srcb)) t) (cvtElem e.i.srcb) =
    e.cvtValue t := by
  rw [cvtInput, elemOf_eq_packedElem, cvtFs_eq, cvtElem_eq, cvtKind_eq]
  rfl

section
variable {e : TEnv}

theorem cvtResult_toBlock (h : e.cvtTo = 7) (t : Nat) : e.cvtResult t =
    if t < 4 then
      BitVec.ofNat 128 (encodeE2m1x ((List.range 24).map fun u => if bit e.act u then e.cvtValue u else .fin false 0) / 2 ^ (32 * t) % 2 ^ 32)
    else 0 := if_pos h

theorem cvtResult_ofBlock (h : e.cvtTo ≠ 7) (hs : e.cvtFrom = 7) (t : Nat) : e.cvtResult t =
    (cvtEncode e.cvtTo (TWord.mode e.i) (bit e.i.ext.xmod 2) (if t < 24 then decodeE2m1x e.cvtBlock t else .fin false 0)).setWidth 128 :=
  (if_neg h).trans (if_pos hs)

theorem cvtResult_element (h : e.cvtTo ≠ 7) (hs : e.cvtFrom ≠ 7) (t : Nat) : e.cvtResult t =
    (cvtEncode e.cvtTo (TWord.mode e.i) (bit e.i.ext.xmod 2) (e.cvtValue t)).setWidth 128 := (if_neg h).trans (if_neg hs)

end

/-! ### CBX (R117, R119) -/

section
variable {w : Nat} {x : Nat → Nat} (hx : ∀ e, x e < 2 ^ w)
include hx

/-- Entries of w bits, side by side. -/
theorem foldl_entries_lt (n : Nat) : (List.range n).foldl (fun s e => s + x e * 2 ^ (w * e)) 0 < 2 ^ (w * n) := by
  induction n with
  | zero => simp
  | succ n ih =>
    rw [List.range_succ, List.foldl_append, List.foldl_cons, List.foldl_nil, Nat.mul_succ, Nat.pow_add, Nat.mul_comm (2 ^ (w * n))]
    have hn : (x n + 1) * 2 ^ (w * n) ≤ 2 ^ w * 2 ^ (w * n) := Nat.mul_le_mul_right _ (hx n)
    rw [Nat.add_mul, Nat.one_mul] at hn
    omega

theorem foldl_entries {n i : Nat} (h : i < n) :
    (List.range n).foldl (fun s e => s + x e * 2 ^ (w * e)) 0 / 2 ^ (w * i) % 2 ^ w = x i := by
  induction n with
  | zero => exact absurd h (Nat.not_lt_zero i)
  | succ n ih =>
    rw [List.range_succ, List.foldl_append, List.foldl_cons, List.foldl_nil]
    rcases Nat.lt_succ_iff_lt_or_eq.1 h with hlt | rfl
    · obtain ⟨k, rfl⟩ := Nat.exists_eq_add_of_lt hlt
      have hpow : x (i + k + 1) * 2 ^ (w * (i + k + 1)) = 2 ^ w * (x (i + k + 1) * 2 ^ (w * k)) * 2 ^ (w * i) := by
        rw [Nat.mul_succ, Nat.mul_add, Nat.pow_add, Nat.pow_add]
        ring
      rw [hpow, Nat.add_mul_div_right _ _ (by positivity), Nat.add_mul_mod_self_left]
      exact ih hlt
    · rw [Nat.add_mul_div_right _ _ (by positivity), Nat.div_eq_of_lt (foldl_entries_lt hx i), Nat.zero_add, Nat.mod_eq_of_lt (hx i)]

end

theorem slotBits_entry (w : Warp) (k : Nat) {i : Nat} (h : i < 8) : (w.slotBits k).extractLsb' (16 * i) 16 = SMap.get 0 w.cb (8 * k + i) := by
  have hx (e : Nat) : (SMap.get 0 w.cb (8 * k + e)).toNat < 2 ^ 16 := (SMap.get 0 w.cb (8 * k + e)).isLt
  refine BitVec.eq_of_toNat_eq ?_
  rw [BitVec.extractLsb'_toNat, Nat.shiftRight_eq_div_pow, Warp.slotBits, BitVec.toNat_ofNat,
    Nat.mod_eq_of_lt (foldl_entries_lt hx 8), foldl_entries hx h]

theorem cbxPair_eq (w : Warp) (k : Nat) (a b c : Word) :
    let x : BitVec 64 := (b ++ a) >>> (c.toNat % 32)
    let entry (j : Nat) : BitVec 16 := SMap.get 0 w.cb (8 * k + j % 8)
    cbxPair (w.slotBits k) a b c = entry (x.toNat / 8) ++ entry x.toNat := by
  intro x entry
  have hlow : ((b ++ a : BitVec 64).extractLsb' (c.toNat % 32) 3).toNat = x.toNat % 8 := by
    rw [BitVec.extractLsb'_toNat, BitVec.toNat_ushiftRight]
  have hhigh : ((b ++ a : BitVec 64).extractLsb' (c.toNat % 32 + 3) 3).toNat = x.toNat / 8 % 8 := by
    rw [BitVec.extractLsb'_toNat, BitVec.toNat_ushiftRight, Nat.shiftRight_add, Nat.shiftRight_eq_div_pow _ 3]
  rw [cbxPair]
  simp only [hlow, hhigh]
  rw [slotBits_entry w k (Nat.mod_lt _ (by decide)), slotBits_entry w k (Nat.mod_lt _ (by decide))]

/-! ### The rows -/

theorem laneRows_give : ∀ r ∈ laneRows, r.Gives := by
  simp only [laneRows, List.forall_mem_cons, List.not_mem_nil, false_imp_iff, implies_true, and_true]
  refine ⟨?shfl, ?qswp, ?qbc, ?qdd, ?cvt, ?s2v, ?cbx⟩
  case shfl =>
    refine gives_of_lanes (fun _ _ => rfl) (fun _ => rfl) (fun e => ?_) fun e t => ?_
    · simp only [shflLane_eq, List.any_cons, List.any_nil, Bool.or_false]
      rfl
    · simp only [shflLane_eq]
      rfl
  case qswp => exact quad_gives (fun _ _ => rfl) (fun e t => by simp only [quadLane_eq]; rfl) fun e t => by simp only [quadLane_eq]; rfl
  case qbc => exact quad_gives (fun _ _ => rfl) (fun e t => by simp only [quadLane_eq]; rfl) fun e t => by simp only [quadLane_eq]; rfl
  case qdd =>
    have hlane (e : TEnv) (t : Nat) : quadLane t (qddLanes e.mod (t % 4)).1 = 4 * (t / 4) + (diffLanes e.i.mod.toNat (t % 4)).1 ∧
        quadLane t (qddLanes e.mod (t % 4)).2 = 4 * (t / 4) + (diffLanes e.i.mod.toNat (t % 4)).2 := by
      obtain ⟨h1, h2⟩ := diffLanes_lt e.i.mod.toNat (j := t % 4) (Nat.mod_lt _ (by decide))
      rw [qddLanes_eq, TEnv.mod, quadLane_eq, quadLane_eq, Nat.mod_eq_of_lt h1, Nat.mod_eq_of_lt h2]
      exact ⟨rfl, rfl⟩
    refine quad_gives (fun _ _ => rfl) (fun e t => ?_) fun e t => ?_
    · simp only [hlane]
    · simp only [hlane, fsub_eq_addRound]
  case cvt =>
    refine gives_of_body (fun _ _ => rfl) fun e _ => ?_
    change _ = e.resultOf e.cvtPoison 1 e.cvtResult fun _ => none
    rw [cvtPoison_eq]
    have hfs : cvtFs e.i.srcb = e.cvtFrom := cvtFs_eq _
    by_cases hto : e.mod = 7
    · refine (if_pos hto).trans ?_
      rw [if_pos hto, funext (cvtResult_toBlock hto)]
      simp only [cvtInput_eq]
    · refine (if_neg hto).trans ?_
      rw [if_neg hto]
      by_cases hfrom : cvtFs e.i.srcb = 7
      · refine (if_pos hfrom).trans ?_
        rw [if_pos hfrom, funext (cvtResult_ofBlock hto (hfs.symm.trans hfrom)), hfrom]
        rfl
      · refine (if_neg hfrom).trans ?_
        rw [if_neg hfrom, funext (cvtResult_element hto fun h => hfrom (hfs.trans h))]
        simp only [← cvtInput_eq]
        rfl
  case s2v =>
    refine gives_of_result (fun _ _ => rfl) rfl (fun e => ?_) fun e t => ?_
    · rw [codeOf_eq]
    · rw [codeOf_eq]
  case cbx =>
    refine gives_of_body (fun _ _ => rfl) fun e hr => ?_
    have hfilled : ¬ e.w.slotPending e.mod = true := by
      rw [slotPending_eq]
      exact not_not.2 hr
    refine (if_neg hfilled).trans ?_
    simp only [cbxPair_eq]
    rfl

end Sys2Proof.Laws

end

section
/-!
CLAIM. Obligation O2: the results of CMP, FCMP, FCLASS, the lane operations, CVT, S2V and CBX.
-/

namespace Sys2Proof.Laws

open Sys2Proof.Machine

/-- Settles O2: a condition's row issues `tCond` (`gives_of_cond`), every other row a result, for the threads that its sources poison. -/
theorem conditionAndLaneResults : Obligations.ConditionAndLaneResults := by
  unfold Obligations.ConditionAndLaneResults
  exact ⟨condRows_give, laneRows_give⟩

end Sys2Proof.Laws

end

section
/-!
SUPPORT. Trit bytes (R49, R100, R116): the bytes that UNPACK.T5 and DOT.T5 read, what a legal one gives, and the threads at fault.
-/

namespace Sys2Proof.Laws

open Sys2Proof.Machine

/-! ### The value of a byte -/

theorem byteOf_eq (a : Word) (k : Nat) : byteOf a k = (a >>> (8 * k)).toNat % 256 := by
  rw [byteOf, BitVec.extractLsb'_toNat, BitVec.toNat_ushiftRight]

theorem unpackTrits_eq (b : Nat) : unpackTrits b =
    BitVec.ofNat 32 (digit3 b 0 + 4 * digit3 b 1 + 16 * digit3 b 2 + 64 * digit3 b 3 + 256 * digit3 b 4) := by
  have hdigit (i : Nat) : tritDigit b i = digit3 b i := rfl
  have hfive : List.range 5 = [0, 1, 2, 3, 4] := rfl
  simp only [unpackTrits, hfive, List.foldl_cons, List.foldl_nil, hdigit]
  exact congrArg _ (by omega)

theorem tritOf_eq (b k : Nat) : tritOf b k = if digit3 b k = 2 then -1 else (digit3 b k : Int) := by
  have hlt : digit3 b k < 3 := Nat.mod_lt _ (by decide)
  change (match digit3 b k with | 0 => (0 : Int) | 1 => 1 | _ => -1) = _
  interval_cases digit3 b k <;> rfl

theorem dotTrits_eq (unsigned : Bool) (a : DWord) (b : Nat) (c : Word) :
    let trit (k : Nat) : Int := if digit3 b k = 2 then -1 else (digit3 b k : Int)
    let act (k : Nat) : Int :=
      let x := a.extractLsb' (8 * k) 8
      if unsigned then (x.toNat : Int) else x.toInt
    dotTrits unsigned a b c =
      BitVec.ofInt 32 (c.toInt + trit 0 * act 0 + trit 1 * act 1 + trit 2 * act 2 + trit 3 * act 3 + trit 4 * act 4) := by
  intro trit act
  have hact (k : Nat) : readByte (!unsigned) a.toNat k = act k := by
    rw [readByte_eq]
    cases unsigned <;> rfl
  simp only [dotTrits, hact, tritOf_eq]
  rfl

/-! ### Threads at fault -/

theorem lowest_mem {m : BitVec 32} {t : Nat} (h : lowest m = some t) : bit m t = true := mem_lanesOf.1 (List.mem_of_head? h)

/-- The fault of a trit byte: an illegal one is the fault's value. -/
def tritFault (b : Nat) : Option Nat := if tritLegal b then none else some b

theorem tritLegal_eq (b : Nat) : tritLegal b = !decide (243 ≤ b) := by
  rw [tritLegal, ← decide_not]
  exact decide_eq_decide.2 Nat.not_le.symm

theorem tritFault_isSome (b : Nat) : (tritFault b).isSome = decide (243 ≤ b) := by
  rw [tritFault, tritLegal_eq]
  cases decide (243 ≤ b) <;> rfl

theorem tritFault_illegal {b : Nat} (h : 243 ≤ b) : tritFault b = some b := if_neg (by simp [tritLegal_eq, h])

section
variable {r : XRow} {e : TEnv}

theorem faulted_eq_bad : e.faulted (e.poisoned &&& e.act) (fun t => tritFault (r.byte e t)) = r.bad e := by
  refine congrArg (maskOf 32 32) (funext fun t => ?_)
  rw [tritFault_isSome, bit_and]
  cases bit e.act t <;> cases bit e.poisoned t <;> rfl

theorem fault_of_lowest {t : Nat} (h : lowest (r.bad e &&& e.parts) = some t) : (tritFault (r.byte e t)).getD 0 = r.byte e t := by
  have hbad := lowest_mem h
  rw [bit_and, XRow.bad, bit_maskOf] at hbad
  simp only [Bool.and_eq_true, decide_eq_true_eq] at hbad
  rw [tritFault_illegal (by tauto)]
  rfl

end

/-- An instruction that issues the value of a trit byte, with an illegal one at fault. -/
theorem gives_of_trit {r : XRow} {body : TEnv → TRes} (hx : ∀ i s, exec (r.ins i) s = tIssue r.op i s body)
    (hb : ∀ e, (r.op = 0x1F → bit e.i.ext.xmod 0 = false) →
      body e = e.result 1 (fun t => (r.val e t).setWidth 128) fun t => tritFault (r.byte e t)) : r.Gives := by
  intro i s e hr hz hp
  obtain rfl := tReady_i hr
  have hp := unpoisoned_act hp
  have hbody := hb e hz
  rw [hx]
  refine ⟨fun hbad => completes_of_ok hr ?_, fun hs t ht => traps_of_trap hr ?_⟩
  · have hvalue : (lowest (r.bad e &&& e.parts)).map (fun t => (tritFault (r.byte e t)).getD 0) =
        (lowest (r.bad e &&& e.parts)).map (r.byte e) := Option.map_congr fun t ht => fault_of_lowest ht
    rw [← faulted_eq_bad] at hbad
    rw [hbody, TEnv.result, resultOf_ok hp hbad, faulted_eq_bad, hvalue]
  · have hclean : e.poisoned &&& e.act &&& e.parts = 0 := hp.resolve_left (by simp [hs])
    rw [hbody, TEnv.result, resultOf_illtrit hs hclean (by rw [faulted_eq_bad]; exact ht), fault_of_lowest ht]

theorem tritRows_give : ∀ r ∈ tritRows, r.Gives := by
  simp only [tritRows, List.forall_mem_cons, List.not_mem_nil, false_imp_iff, implies_true, and_true]
  refine ⟨?unpack, ?dot⟩
  case unpack =>
    refine gives_of_trit (fun _ _ => rfl) fun e hz => ?_
    refine (if_neg (by simp [hz rfl])).trans ?_
    simp only [byteOf_eq, unpackTrits_eq]
    rfl
  case dot =>
    refine gives_of_trit (fun _ _ => rfl) fun e _ => ?_
    simp only [byteOf_eq, dotTrits_eq]
    rfl

end Sys2Proof.Laws

end

section
/-!
CLAIM. Obligation O3: the instructions on trit bytes.
-/

namespace Sys2Proof.Laws

open Sys2Proof.Machine

/-- The .Z form of UNPACK.T5 (R100): an illegal byte gives 0 and makes the guard false. -/
theorem unpackZ_completes {i : TWord} {s : State} {e : TEnv} (hr : s.tReady 0x1F i = some e) (hz : bit i.ext.xmod 0 = true)
    (hp : e.unpoisoned) :
    let byte (t : Nat) : Nat := (e.src 1 .int t >>> (8 * i.mod.toNat)).toNat % 256
    let bad := maskOf 32 32 fun t => bit e.act t && !bit e.poisoned t && decide (243 ≤ byte t)
    let w := e.wrote 1 (fun t => if bit (e.poisoned &&& e.act) t || decide (243 ≤ byte t) then 0 else
      (BitVec.ofNat 32 (digit3 (byte t) 0 + 4 * digit3 (byte t) 1 + 16 * digit3 (byte t) 2 + 64 * digit3 (byte t) 3 +
        256 * digit3 (byte t) 4)).setWidth 128) (e.poisoned &&& e.act)
    e.Completes (exec (.unpackT5 i) s) e.s e.g
      { w with regs := w.regs.fSet i.pred.toNat bad (if i.pneg = 1 then BitVec.allOnes 32 else 0) } 0 := by
  obtain rfl := tReady_i hr
  intro byte bad w
  refine completes_of_ok hr ((if_pos hz).trans ?_)
  have hbyte (t : Nat) : byteOf (e.int 1 t) e.mod = byte t := byteOf_eq _ _
  have hresult : e.result 1 (fun t => if tritLegal (byte t) then (unpackTrits (byte t)).setWidth 128 else 0) (fun _ => none) =
      .ok e.base w 0 := by
    refine (resultOf_gives (unpoisoned_act hp) 1 _).trans ?_
    refine congrArg (fun v => TRes.ok e.base (e.wrote 1 v (e.poisoned &&& e.act)) 0) (funext fun t => ?_)
    rw [tritLegal_eq, unpackTrits_eq]
    cases bit (e.poisoned &&& e.act) t <;> cases decide (243 ≤ byte t) <;> rfl
  have hbad : (maskOf 32 32 fun t => bit e.act t && !bit (e.poisoned &&& e.act) t && !tritLegal (byte t)) = bad := by
    refine congrArg (maskOf 32 32) (funext fun t => ?_)
    rw [tritLegal_eq, Bool.not_not, bit_and]
    cases bit e.act t <;> cases bit e.poisoned t <;> rfl
  simp only [hbyte, hresult, hbad]

/-- Settles O3: legal bytes, ILLTRIT and .SPEC by row (`gives_of_trit`), and the .Z form of UNPACK.T5. -/
theorem tritLaneResults : Obligations.TritLaneResults := by
  unfold Obligations.TritLaneResults
  exact ⟨tritRows_give, fun _ _ _ => unpackZ_completes⟩

end Sys2Proof.Laws

end

section
/-!
SUPPORT. CBLD at its issue (R118): the check that its chosen thread fails first, what it answers, and that an instruction which
leaves its push for later completes as one that makes none.
-/

namespace Sys2Proof.Machine

/-- The first check of CBLD that thread t fails, with its TVAL: POISON, then ALIGN, then PROT (R118). -/
def TEnv.cbldFault (e : TEnv) (t : Nat) : Option (Cause × DWord) :=
  let a := (e.padAddr t).toNat
  if bit e.poisoned t then some (.poison, 0)
  else if a % 16 ≠ 0 then some (.align, BitVec.ofNat 64 a)
  else if e.g.kern.smem < a + 16 then some (.prot, BitVec.ofNat 64 a)
  else none

/-- The warp whose slot CBLD has marked pending, with the 16 bytes at thread t's address and the push that its fill makes. -/
def TEnv.cbldWarp (e : TEnv) (t : Nat) : Warp :=
  { e.w with cbPend := e.w.cbPend ++ [(e.mod, e.i.pushq.toNat, BitVec.ofNat 128 (e.s.spNat e.g (e.padAddr t).toNat 16))] }

/-- What CBLD answers whose chosen thread is t: a check that fails in a helper raises nothing (R118). -/
def TEnv.cbldAnswer (e : TEnv) (t : Nat) : TRes :=
  match e.cbldFault t with
  | some (c, v) => if bit e.hlp t then .ok e.base e.w 0 else .trap c v
  | none => .late e.base (e.cbldWarp t)

end Sys2Proof.Machine

namespace Sys2Proof.Laws

open Sys2Proof.Machine

/-! ### An issue that waits, and a push left for later -/

/-- A meaning that leaves its push for later completes as the same instruction without its push. -/
theorem completes_of_late {op : Nat} {i : TWord} {s : State} {e : TEnv} {body : TEnv → TRes} {w : Warp}
    (h : s.tReady op i = some e) (hb : body e = .late e.base w) :
    ({ e with i := { e.i with pushq := 0 } } : TEnv).Completes (tIssue op i s body) e.s e.g w 0 := by
  obtain ⟨g', w', hd⟩ := finish_base_done { e with i := { e.i with pushq := 0 } } w 0
  exact ⟨_, g', w', by rw [tIssue_ready h, hb]; rfl, hd⟩

/-- A meaning that answers a wait leaves its warp as it answers. -/
theorem waits_of_wait {op : Nat} {i : TWord} {s : State} {e : TEnv} {body : TEnv → TRes} {w : Warp}
    (h : s.tReady op i = some e) (hb : body e = .wait w) :
    tIssue op i s body = .next (e.s.setWarp e.g.uid e.slot w).waits := by
  rw [tIssue_ready h, hb]; rfl

/-! ### The checks of the chosen thread -/

section
variable {e : TEnv} {t : Nat}

theorem cbldFault_poisoned (hp : bit e.poisoned t = true) : e.cbldFault t = some (.poison, 0) := if_pos hp

theorem cbldFault_misaligned (hp : bit e.poisoned t = false) (ha : (e.padAddr t).toNat % 16 ≠ 0) :
    e.cbldFault t = some (.align, BitVec.ofNat 64 (e.padAddr t).toNat) :=
  (if_neg (Bool.eq_false_iff.1 hp)).trans (if_pos ha)

theorem cbldFault_outside (hp : bit e.poisoned t = false) (ha : (e.padAddr t).toNat % 16 = 0)
    (hs : e.g.kern.smem < (e.padAddr t).toNat + 16) : e.cbldFault t = some (.prot, BitVec.ofNat 64 (e.padAddr t).toNat) :=
  (if_neg (Bool.eq_false_iff.1 hp)).trans ((if_neg (not_not_intro ha)).trans (if_pos hs))

theorem cbldFault_none (hp : bit e.poisoned t = false) (ha : (e.padAddr t).toNat % 16 = 0)
    (hs : (e.padAddr t).toNat + 16 ≤ e.g.kern.smem) : e.cbldFault t = none :=
  (if_neg (Bool.eq_false_iff.1 hp)).trans ((if_neg (not_not_intro ha)).trans (if_neg (Nat.not_lt.2 hs)))

/-- A thread that is poisoned, misaligned or outside the scratchpad fails some check. -/
theorem cbldFault_some (h : bit e.poisoned t = true ∨ (e.padAddr t).toNat % 16 ≠ 0 ∨ e.g.kern.smem < (e.padAddr t).toNat + 16) :
    ∃ f, e.cbldFault t = some f := by
  by_cases hp : bit e.poisoned t = true
  · exact ⟨_, cbldFault_poisoned hp⟩
  · have hp' : bit e.poisoned t = false := Bool.eq_false_iff.2 hp
    by_cases ha : (e.padAddr t).toNat % 16 = 0
    · exact ⟨_, cbldFault_outside hp' ha ((h.resolve_left hp).resolve_left (not_not_intro ha))⟩
    · exact ⟨_, cbldFault_misaligned hp' ha⟩

end

/-! ### The answers -/

/-- CBLD with a chosen thread issues an answer that is `cbldAnswer`. -/
theorem cbld_issues (i : TWord) (s : State) {e : TEnv} {t : Nat} (hfree : ∀ p ∈ e.w.cbPend, p.1 ≠ e.mod)
    (hl : lowest e.act = some t) : ∃ body, exec (.cbld i) s = tIssue 0x38 i s body ∧ body e = e.cbldAnswer t := by
  refine ⟨_, rfl, (if_neg fun hp => (slotPending_eq e.w e.mod).1 hp hfree).trans ?_⟩
  simp only [hl, TEnv.cbldAnswer, TEnv.cbldFault]
  split
  · rfl
  · split
    · rfl
    · split <;> rfl

section
variable {i : TWord} {s : State} {e : TEnv} (hr : s.tReady 0x38 i = some e)
include hr

/-- A pending slot makes CBLD wait. -/
theorem cbld_waits (h : ∃ p ∈ e.w.cbPend, p.1 = e.mod) :
    exec (.cbld i) s = .next (e.s.setWarp e.g.uid e.slot e.w).waits :=
  waits_of_wait hr (if_pos ((slotPending_eq e.w e.mod).2 fun hfree =>
    let ⟨p, hm, hk⟩ := h
    hfree p hm hk))

variable (hfree : ∀ p ∈ e.w.cbPend, p.1 ≠ e.mod)
include hfree

theorem cbld_idle_completes (hl : lowest e.act = none) : e.Completes (exec (.cbld i) s) e.s e.g e.w 0 := by
  refine completes_of_ok hr ((if_neg fun hp => (slotPending_eq e.w e.mod).1 hp hfree).trans ?_)
  simp only [hl]

variable {t : Nat} (hl : lowest e.act = some t)
include hl

theorem cbld_traps {c : Cause} {v : DWord} (hf : e.cbldFault t = some (c, v)) (hh : bit e.hlp t = false) :
    exec (.cbld i) s = .next (e.trap c v) := by
  obtain ⟨body, hx, hb⟩ := cbld_issues i s hfree hl
  rw [hx]
  exact traps_of_trap hr (by simp only [hb, TEnv.cbldAnswer, hf, hh, Bool.false_eq_true, if_false])

theorem cbld_helper_completes {f : Cause × DWord} (hf : e.cbldFault t = some f) (hh : bit e.hlp t = true) :
    e.Completes (exec (.cbld i) s) e.s e.g e.w 0 := by
  obtain ⟨body, hx, hb⟩ := cbld_issues i s hfree hl
  rw [hx]
  exact completes_of_ok hr (by simp only [hb, TEnv.cbldAnswer, hf, hh, if_true])

theorem cbld_marks_completes (hf : e.cbldFault t = none) :
    ({ e with i := { e.i with pushq := 0 } } : TEnv).Completes (exec (.cbld i) s) e.s e.g (e.cbldWarp t) 0 := by
  obtain ⟨body, hx, hb⟩ := cbld_issues i s hfree hl
  rw [hx]
  exact completes_of_late hr (by simp only [hb, TEnv.cbldAnswer, hf])

end

end Sys2Proof.Laws

end

section
/-!
CLAIM. Obligation O19: CBLD and the fill of its slot.
-/

namespace Sys2Proof.Machine

/-- The warp once the fill of slot k has arrived with the 16 bytes x. -/
def Warp.cbFilled (w : Warp) (k : Nat) (x : BitVec 128) : Warp :=
  { w with cb := SMap.setList 0 w.cb (8 * k) ((List.range 8).map fun n => x.extractLsb' (16 * n) 16),
           cbPend := w.cbPend.filter fun p => p.1 != k }

end Sys2Proof.Machine

namespace Sys2Proof.Laws

open Sys2Proof.Machine

theorem cbFilled_entry (w : Warp) (k : Nat) (x : BitVec 128) {n : Nat} (h : n < 8) :
    SMap.get 0 (w.cbFilled k x).cb (8 * k + n) = x.extractLsb' (16 * n) 16 :=
  (get_setList 0 (by simpa using h)).trans (by simp)

theorem cbFilled_other (w : Warp) (k : Nat) (x : BitVec 128) {j : Nat} (h : ¬ (8 * k ≤ j ∧ j < 8 * k + 8)) :
    SMap.get 0 (w.cbFilled k x).cb j = SMap.get 0 w.cb j :=
  get_setList_other 0 (by simpa using h)

/-- A fill that is due, of a warp with no push due, fills its slot and makes its push. -/
theorem cbldFill_fills {s : State} {g : Group} {w : Warp} {k q : Nat} {x : BitVec 128} (hg : s.group? s.ctl.arg.uid = some g)
    (hw : g.warp? s.ctl.arg.slot = some w) (hf : w.cbPend.find? (fun p => p.1 == s.ctl.arg.ch) = some (k, q, x))
    (hd : w.pushDue = none) :
    exec .cbldFill s =
      .next ((s.setGroup (g.setWarp s.ctl.arg.slot (w.cbFilled k x))).pushDone s.ctl.arg.uid s.ctl.arg.slot q) := by
  have hx : exec .cbldFill s = execCbldFill s := rfl
  rw [hx, ← setWarp_of_group hg]
  simp only [execCbldFill, hg, hw, hf, Warp.cbFilled]
  exact if_neg (by simp [hd])

/-- Settles O19: the issue by the check that the chosen thread fails first (`cbldFault`), then the fill (`cbldFill_fills`). -/
theorem codebookLoads : Obligations.CodebookLoads := by
  unfold Obligations.CodebookLoads
  refine ⟨fun i s e hr => ?issue, fun s g w k q x hg _ hw hf hd => ?fill⟩
  case issue =>
    obtain rfl := tReady_i hr
    refine ⟨cbld_waits hr, fun hfree => ⟨cbld_idle_completes hr hfree, fun t hl => ⟨?marks, fun hh => ⟨?poison, ?align, ?prot⟩, ?helper⟩⟩⟩
    case marks => exact fun hp ha hs => cbld_marks_completes hr hfree hl (cbldFault_none hp ha hs)
    case poison => exact fun hp => cbld_traps hr hfree hl (cbldFault_poisoned hp) hh
    case align => exact fun hp ha => cbld_traps hr hfree hl (cbldFault_misaligned hp ha) hh
    case prot => exact fun hp ha hs => cbld_traps hr hfree hl (cbldFault_outside hp ha hs) hh
    case helper =>
      intro hh hfail
      obtain ⟨f, hf⟩ := cbldFault_some hfail
      exact cbld_helper_completes hr hfree hl hf hh
  case fill =>
    exact ⟨w.cbFilled k x, rfl, fun n => cbFilled_entry w k x, fun j => cbFilled_other w k x, cbldFill_fills hg hw hf hd⟩

end Sys2Proof.Laws

end

section
/-!
SUPPORT. Masks of threads: the votes that VOTE counts and the thread that ELECT names (R139).
-/

namespace Sys2Proof.Machine

/-- The threads whose vote is true: those that take part and whose predicate is (R139). -/
def TEnv.votes (e : TEnv) : BitVec 32 :=
  let f := e.w.regs.fGet (e.i.srca.extractLsb' 0 3).toNat
  (if bit e.i.srca 3 then ~~~f else f) &&& e.parts

end Sys2Proof.Machine

namespace Sys2Proof.Laws

open Sys2Proof.Machine

/-! ### Masks of threads -/

theorem eq_of_bits {a b : BitVec 32} (h : ∀ t < 32, bit a t = bit b t) : a = b := BitVec.eq_of_getLsbD_eq h

theorem bit_maskOf_lt {p : Nat → Bool} {t : Nat} (ht : t < 32) : bit (maskOf 32 32 p) t = p t := getLsbD_maskOf ht

theorem bit_not {a : BitVec 32} {t : Nat} (ht : t < 32) : bit (~~~a) t = !bit a t := by
  simp [bit, ht]

theorem bit_none (t : Nat) : bit (0 : BitVec 32) t = false := BitVec.getLsbD_zero

theorem code3_eq (b : BitVec 9) : (b.extractLsb' 0 3).toNat = b.toNat % 8 := by
  simp [BitVec.extractLsb'_toNat]

/-! ### VOTE -/

/-- A thread's vote, as the rule gives it. -/
theorem votes_eq (e : TEnv) : e.votes =
    maskOf 32 32 fun t => bit e.parts t && (bit (e.w.regs.fGet (e.i.srca.toNat % 8)) t != bit e.i.srca 3) := by
  refine eq_of_bits fun t ht => ?_
  rw [bit_maskOf_lt ht, TEnv.votes, bit_and, code3_eq]
  cases bit e.i.srca 3 with
  | false => simp [Bool.and_comm]
  | true => simp [bit_not ht, Bool.and_comm]

section
variable {e : TEnv} {vote : Nat → Bool} (h : e.votes = maskOf 32 32 vote)
include h

/-- Every thread that takes part votes true. -/
theorem votes_all : (e.votes == e.parts) = (List.range 32).all fun t => !bit e.parts t || vote t := by
  have hsub : ∀ t < 32, vote t = true → bit e.parts t = true := fun t ht hv => by
    have hb : bit e.votes t = true := by rw [h, bit_maskOf_lt ht, hv]
    rw [TEnv.votes, bit_and, Bool.and_eq_true] at hb
    exact hb.2
  rw [Bool.eq_iff_iff, beq_iff_eq, List.all_eq_true]
  constructor
  · intro heq t ht
    rw [← heq, h, bit_maskOf_lt (List.mem_range.1 ht)]
    exact Bool.not_or_self _
  · intro hall
    refine eq_of_bits fun t ht => ?_
    have hvote := hall t (List.mem_range.2 ht)
    rw [h, bit_maskOf_lt ht]
    cases hp : bit e.parts t with
    | false => exact Bool.eq_false_iff.2 fun hv => by simp [hsub t ht hv] at hp
    | true => simpa [hp] using hvote

/-- Some thread votes true. -/
theorem votes_any : (e.votes != 0) = (List.range 32).any vote := by
  rw [Bool.eq_iff_iff, bne_iff_ne, List.any_eq_true, h]
  constructor
  · intro hne
    by_contra hnone
    refine hne (eq_of_bits fun t ht => ?_)
    rw [bit_maskOf_lt ht, bit_none]
    exact Bool.eq_false_iff.2 fun hv => hnone ⟨t, List.mem_range.2 ht, hv⟩
  · rintro ⟨t, ht, hv⟩ hzero
    have hb := bit_maskOf_lt (p := vote) (List.mem_range.1 ht)
    rw [hzero, hv, bit_none] at hb
    cases hb

end

/-! ### ELECT -/

theorem lowest_eq_some {m : BitVec 32} {t : Nat} (h : lowest m = some t) : bit m t = true ∧ ∀ u < t, bit m u = false := by
  unfold lowest lanesOf at h
  rw [List.head?_filter, List.find?_range_eq_some] at h
  obtain ⟨hb, -, hl⟩ := h
  exact ⟨hb, fun u hu => Bool.not_eq_eq_eq_not.1 (hl u hu)⟩

theorem lowest_eq_none {m : BitVec 32} (h : lowest m = none) : m = 0 := by
  rw [lowest, List.head?_eq_none_iff, List.eq_nil_iff_forall_not_mem] at h
  refine eq_of_bits fun t _ => ?_
  rw [bit_none]
  exact Bool.eq_false_iff.2 fun hb => h t (mem_lanesOf.2 hb)

theorem elected_eq (m : BitVec 32) : (match lowest m with | some t => setBit 0 t true | none => 0) =
    maskOf 32 32 fun t => bit m t && (List.range t).all fun u => !bit m u := by
  refine eq_of_bits fun t ht => ?_
  rw [bit_maskOf_lt ht]
  cases h : lowest m with
  | none => rw [lowest_eq_none h, bit_none]; rfl
  | some l =>
    obtain ⟨hb, hl⟩ := lowest_eq_some h
    have hset : bit (setBit (0 : BitVec 32) l true) t = decide (t = l) := by
      rw [bit_setBit 0 l t (BitVec.lt_of_getLsbD hb), bit_none, Bool.false_or]
    refine hset.trans ?_
    rw [Bool.eq_iff_iff, Bool.and_eq_true, List.all_eq_true, decide_eq_true_iff]
    constructor
    · rintro rfl
      exact ⟨hb, fun u hu => by rw [hl u (List.mem_range.1 hu)]; rfl⟩
    · rintro ⟨hbt, hlt⟩
      rcases Nat.lt_trichotomy t l with hbelow | heq | habove
      · rw [hl t hbelow] at hbt
        cases hbt
      · exact heq
      · have hclear := hlt l (List.mem_range.2 habove)
        rw [hb] at hclear
        cases hclear

end Sys2Proof.Laws

end

section
/-!
CLAIM. Obligation O5: selection, the register moves by index, votes and the elected thread.
-/

namespace Sys2Proof.Laws

open Sys2Proof.Machine

/-! ### VGET and VPUT (R148) -/

theorem indexBad_iff (e : TEnv) (k : Nat) : e.indexBad k = true ↔ 128 ≤ k ∨ e.g.kern.vregs ≤ k := by
  simp [TEnv.indexBad]

theorem indexBad_not {e : TEnv} {k : Nat} (h : k < 128) (hv : k < e.g.kern.vregs) : ¬ e.indexBad k = true := by
  rw [indexBad_iff]
  omega

/-- VPUT waits for a register only where its name has none (R29). -/
theorem putStalls_eq (e : TEnv) (k : Nat) : e.base.renameStall e.g e.slot e.w (if bit e.w.regs.vmap k then 0 else 1) =
    (!bit e.w.regs.vmap k && e.base.renameStall e.g e.slot e.w 1) := by
  cases bit e.w.regs.vmap k <;> rfl

section
variable {i : TWord} {s : State} {e : TEnv}

/-- VGET of a register that exists, of one that does not, and where no thread but helpers is active (R33, R129, R148). -/
theorem vget_answers (hr : s.tReady 0x56 i = some e) :
    let k := (e.src 1 .int 0).toNat
    (k < 128 → k < e.g.kern.vregs →
      e.Completes (exec (.vget i) s) e.s e.g (e.wrote 1 (fun t => (e.w.regs.get k t).setWidth 128) (e.w.regs.poi k)) 0) ∧
    (128 ≤ k ∨ e.g.kern.vregs ≤ k →
      (e.parts ≠ 0 → exec (.vget i) s = .next (e.trap .regrange (BitVec.ofNat 64 k))) ∧
      (e.parts = 0 → e.Completes (exec (.vget i) s) e.s e.g (e.wrote 1 (fun _ => 0) e.act) 0)) := by
  intro k
  refine ⟨fun h hv => completes_of_ok hr (if_neg (indexBad_not h hv)), fun h => ?_⟩
  have hbad := (indexBad_iff e k).2 h
  exact ⟨fun hp => traps_of_trap hr ((if_pos hbad).trans (if_neg hp)), fun hp => completes_of_ok hr ((if_pos hbad).trans (if_pos hp))⟩

/-- VPUT likewise, which waits where it needs a register and none is free (R29). -/
theorem vput_answers (hr : s.tReady 0x57 i = some e) :
    let k := (e.src 1 .int 0).toNat
    (k < 128 → k < e.g.kern.vregs → (bit e.w.regs.vmap k = true ∨ e.base.renameStall e.g e.slot e.w 1 = false) →
      e.Completes (exec (.vput i) s) e.s e.g (e.putReg k) 0) ∧
    (k < 128 → k < e.g.kern.vregs → bit e.w.regs.vmap k = false → e.base.renameStall e.g e.slot e.w 1 = true →
      exec (.vput i) s = .next (e.s.setWarp e.g.uid e.slot e.w).waits) ∧
    (128 ≤ k ∨ e.g.kern.vregs ≤ k →
      (e.parts ≠ 0 → exec (.vput i) s = .next (e.trap .regrange (BitVec.ofNat 64 k))) ∧
      (e.parts = 0 → e.Completes (exec (.vput i) s) e.s e.g e.w 0)) := by
  intro k
  have hneeds := putStalls_eq e k
  refine ⟨fun h hv hfree => completes_of_ok hr ((if_neg (indexBad_not h hv)).trans (if_neg fun hs => ?_)),
    fun h hv hmap hstall => waits_of_wait hr ((if_neg (indexBad_not h hv)).trans (if_pos (hneeds.trans ?_))), fun h => ?_⟩
  · have hstalls := hneeds.symm.trans hs
    rcases hfree with hmap | hfree
    · simp [hmap] at hstalls
    · simp [hfree] at hstalls
  · simp [hmap, hstall]
  · have hbad := (indexBad_iff e k).2 h
    exact ⟨fun hp => traps_of_trap hr ((if_pos hbad).trans (if_neg hp)), fun hp => completes_of_ok hr ((if_pos hbad).trans (if_pos hp))⟩

end

/-! ### The rest -/

/-- VOTE by its form: all, any, uniform, and the votes themselves as a register result (R139). -/
theorem vote_answers {s : State} {e : TEnv} (hr : s.tReady 0x48 e.i = some e) :
    let vote (t : Nat) : Bool := bit e.parts t && (bit (e.w.regs.fGet (e.i.srca.toNat % 8)) t != bit e.i.srca 3)
    let all (b : Bool) : BitVec 32 := if b then BitVec.allOnes 32 else 0
    (e.i.mod = 0 → e.Completes (exec (.vote e.i) s) e.s e.g
      (e.predicated (all ((List.range 32).all fun t => !bit e.parts t || vote t))) 0) ∧
    (e.i.mod = 1 → e.Completes (exec (.vote e.i) s) e.s e.g (e.predicated (all ((List.range 32).any vote))) 0) ∧
    (e.i.mod = 2 → e.Completes (exec (.vote e.i) s) e.s e.g
      (e.predicated (all (((List.range 32).all fun t => !bit e.parts t || vote t) || !(List.range 32).any vote))) 0) ∧
    (e.i.mod = 3 → e.unpoisoned → e.Completes (exec (.vote e.i) s) e.s e.g
      (e.wrote 1 (fun t => if bit (e.poisoned &&& e.act) t then 0 else (maskOf 32 32 vote).setWidth 128) (e.poisoned &&& e.act)) 0) := by
  intro vote all
  have hvotes : e.votes = maskOf 32 32 vote := votes_eq e
  have hform {k : BitVec 4} (hm : e.i.mod = k) : e.mod = k.toNat := (mod_eq_iff e k).2 hm
  have hnone : (e.votes == 0) = !(e.votes != 0) := (Bool.not_not _).symm
  rw [← votes_all hvotes, ← votes_any hvotes, ← hvotes]
  refine ⟨fun hm => completes_of_ok hr ?_, fun hm => completes_of_ok hr ?_, fun hm => completes_of_ok hr ?_,
    fun hm hp => completes_of_ok hr ?_⟩
  all_goals simp only [hform hm]
  · rfl
  · rfl
  · exact congrArg (fun b => TRes.ok e.base (e.predicated (all b)) 0) (congrArg (e.votes == e.parts || ·) hnone)
  · exact resultOf_gives (unpoisoned_act hp) 1 _

/-- Settles O5: `vget_answers`, `vput_answers` and `vote_answers` by case; ELECT's predicate is `elected_eq`, and SELC and NOP answer
their effect outright. -/
theorem moveResults : Obligations.MoveResults := by
  unfold Obligations.MoveResults
  refine ⟨fun i s e hr => ?selc, fun i s e hr => vget_answers hr, fun i s e hr => vput_answers hr, fun i s e hr => ?vote,
    fun i s e hr => ?elect, fun i s e hr => completes_of_ok hr rfl⟩
  case selc =>
    obtain rfl := tReady_i hr
    have hpoison := fun t => apply_ite (bit · t) ((bit (e.w.regs.fGet (e.mod % 8)) t != bit e.i.mod 3) = true) (e.rawPoi 1 1) (e.rawPoi 2 1)
    exact completes_of_ok hr (congrArg (fun p => TRes.ok e.base (e.wrote 1 _ (maskOf 32 32 p)) 0) (funext hpoison))
  case vote =>
    obtain rfl := tReady_i hr
    exact vote_answers hr
  case elect =>
    rw [← elected_eq]
    exact completes_of_ok hr rfl

end Sys2Proof.Laws

end

section
/-!
CLAIM. Obligation O6: the branches and calls, and the check of the targets that BRX, CALL.X and RET compute (R134, R135).
-/

namespace Sys2Proof.Machine

/-- The registers that a call leaves: its return address in every active thread, 0 with poison in a poisoned one. -/
def TEnv.returnRegs (e : TEnv) : Regs :=
  (e.wrote 1 (fun t => if bit (e.poisoned &&& e.act) t then 0 else BitVec.ofNat 128 (e.pc + tBytes e.i)) (e.poisoned &&& e.act)).regs

end Sys2Proof.Machine

namespace Sys2Proof.Laws

open Sys2Proof.Machine

/-! ### Computed targets (R135) -/

section
variable {e : TEnv} {target : Nat → Word}

theorem badTarget_poisoned (hp : e.poisoned &&& e.parts ≠ 0) : e.badTarget target = some (.trap .poison 0) :=
  if_pos (by simpa using hp)

theorem badTarget_of_clean (hp : e.poisoned &&& e.parts = 0) : e.badTarget target =
    ((lanesOf e.parts).find? fun t => (target t).toNat % 8 != 0).map fun t => .trap .align ((target t).setWidth 64) :=
  if_neg (by simp [hp])

theorem badTarget_misaligned {t : Nat} (hp : e.poisoned &&& e.parts = 0) (ht : e.firstMisaligned target t) :
    e.badTarget target = some (.trap .align ((target t).setWidth 64)) := by
  obtain ⟨⟨hact, hodd⟩, hfirst⟩ := ht
  have hfind : ((lanesOf e.parts).find? fun t => (target t).toNat % 8 != 0) = some t :=
    find_lanesOf hact (bne_iff_ne.2 hodd) fun u hu hub => by simp [hfirst u hu hub]
  rw [badTarget_of_clean hp, hfind]
  rfl

theorem badTarget_none (hp : e.poisoned &&& e.parts = 0) (ha : e.aligned target) : e.badTarget target = none := by
  have hnone : ((lanesOf e.parts).find? fun t => (target t).toNat % 8 != 0) = none :=
    List.find?_eq_none.2 fun t ht => by simp [ha t (mem_lanesOf.1 ht)]
  rw [badTarget_of_clean hp, hnone]
  rfl

end

/-- An instruction that checks the targets that it computes and then jumps, with the registers that it leaves by then. -/
theorem computed_jump {ins : TWord → Instr} {op : Nat} {target : TEnv → Nat → Word} {jump : TEnv → TRes} {regs : TEnv → Regs}
    (hx : ∀ i s, exec (ins i) s = tIssue op i s fun e => (e.badTarget (target e)).getD (jump e))
    (hj : ∀ e, e.poisoned &&& e.parts = 0 → jump e = .ok e.base (e.jumped (regs e) (target e)) e.parts)
    {i : TWord} {s : State} {e : TEnv} (hr : s.tReady op i = some e) :
    (e.poisoned &&& e.parts = 0 → e.aligned (target e) →
      e.Completes (exec (ins i) s) e.s e.g (e.jumped (regs e) (target e)) e.parts) ∧
    (e.poisoned &&& e.parts ≠ 0 → exec (ins i) s = .next (e.trap .poison 0)) ∧
    (e.poisoned &&& e.parts = 0 → ∀ t, e.firstMisaligned (target e) t →
      exec (ins i) s = .next (e.trap .align ((target e t).setWidth 64))) := by
  rw [hx]
  refine ⟨fun hp ha => completes_of_ok hr ?_, fun hp => traps_of_trap hr ?_, fun hp t ht => traps_of_trap hr ?_⟩
  · rw [badTarget_none hp ha]
    exact hj e hp
  · rw [badTarget_poisoned hp]
    rfl
  · rw [badTarget_misaligned hp ht]
    rfl

/-! ### Calls (R134) -/

theorem callBody_eq {e : TEnv} (target : Nat → Word) (hp : e.unpoisoned) :
    callBody e target = .ok e.base (e.jumped e.returnRegs target) e.parts := by
  rw [callBody, TEnv.result, resultOf_gives (unpoisoned_act hp)]
  rfl

/-- Settles O6: BRA and CALL jump at once, the other three once their targets have passed the check (`computed_jump`). -/
theorem branchTargets : Obligations.BranchTargets := by
  unfold Obligations.BranchTargets
  refine ⟨fun i s e hr => ?bra, fun i s e hr hp => ?call, fun i s e hr => ?callX, ?computed⟩
  case bra => exact completes_of_ok hr rfl
  case call =>
    obtain rfl := tReady_i hr
    exact completes_of_ok hr (callBody_eq _ hp)
  case callX =>
    obtain rfl := tReady_i hr
    exact computed_jump (ins := .callX) (target := fun e t => e.src 1 .int t + e.src 2 .int t) (fun _ _ => rfl)
      (fun _ hp => callBody_eq _ (.inr hp)) hr
  case computed =>
    refine List.forall_mem_cons.2 ⟨fun _ _ _ hr => ?brx, List.forall_mem_singleton.2 fun _ _ _ hr => ?ret⟩
    case brx =>
      exact computed_jump (ins := .brx) (target := fun e t => e.src 1 .int t + e.src 2 .int t) (fun _ _ => rfl) (fun _ _ => rfl) hr
    case ret => exact computed_jump (ins := .ret) (target := fun e t => e.src 1 .int t) (fun _ _ => rfl) (fun _ _ => rfl) hr

end Sys2Proof.Laws

end

section
/-!
CLAIM. Obligation O8: SAFEPT looks for its group under the number by which its stream names it, and notes its effect under the number
that the group itself bears; the statement does not say that the two agree.
-/

namespace Sys2Proof.Laws

open Sys2Proof.Machine

/-- A group under a pending request that stands in the table under 0 and bears the number 1, which no keyed state holds. -/
def strayGroup : Group := { placedGroup (placedKern 128 128) with uid := 1, preempt := true }

/-- A translation of the first GiB: ordinary pages that may be read and written. -/
def strayTlb : TlbEntry := { asid := 0, va := 0, size := .g1, pte := 0x0C }

/-- The reset state with that group and translation on core 0, at a turn of the group's warp 0. -/
def strayWarp : State :=
  { State.reset with groups := [(0, strayGroup)], cores := [(0, { Core.zero with tlb := [strayTlb] })],
                     ctl := { Control.reset with cur := .warp 0 0 } }

/-- The words of SAFEPT 0. -/
def safept0 : TWord :=
  { mod := 0, pred := 7, pneg := 0, popq := 0, pushq := 0, spec := 0, dst := 0, srca := 0x100, srcb := 0, srcc := 0, lr := 0, long := none }

/-- What SAFEPT 0 sees there. -/
def strayEnv : TEnv :=
  { s := strayWarp, g := strayGroup, slot := 0, w := Warp.fresh (startThreads 32 32 0) 0, pc := 0, run := 0xFFFFFFFF, act := 0xFFFFFFFF,
    hlp := 0, q := 0, i := safept0, op := 0x45 }

theorem strayEnv_ready : strayWarp.tReady 0x45 safept0 = some strayEnv := by
  rfl

/-- The group that SAFEPT finds under 0 has noted no entry, and the one under 1, which has, goes on. -/
theorem strayWarp_goes_on : ∃ t g w, exec (.safept safept0) strayWarp = .next t ∧ t.group? 1 = some g ∧ g.warp? 0 = some w ∧
    w.mode = .running := by
  have h : (match exec (.safept safept0) strayWarp with
      | .next t => ((t.group? 1).bind fun g => g.warp? 0).map Warp.mode
      | _ => none) = some .running := by decide +kernel
  split at h
  next t ht =>
    obtain ⟨w, hw, hm⟩ := Option.map_eq_some_iff.1 h
    obtain ⟨g, hg, hw⟩ := Option.bind_eq_some_iff.1 hw
    exact ⟨t, g, w, ht, hg, hw, hm⟩
  next => exact nomatch h

theorem strayTlb_hits : strayTlb.hits 0 0xA00 = true := by decide +kernel

theorem translate_stray {t : State} (h : t.cores = strayWarp.cores) :
    t.translate 0 0 0 0xA00 = (t, .ok (pageOf 0x0C .g1 0xA00)) := by
  have htlb : (t.core 0).tlb.find? (fun x => x.hits 0 0xA00) = some strayTlb := by
    unfold State.core
    rw [h]
    exact List.find?_cons_of_pos strayTlb_hits
  simp only [State.translate, htlb]
  rfl

/-- Refutes O8: where the group's own number is not the one it stands under, the warp does not stop. -/
theorem not_safePoints : ¬ Obligations.SafePoints := by
  unfold Obligations.SafePoints
  intro h
  obtain ⟨-, hstop, -⟩ := h safept0 strayWarp strayEnv strayEnv_ready
  obtain ⟨t, g', w', t2, hd, hx, hok, -, -⟩ := hstop rfl rfl rfl rfl
  have hcores : t.cores = strayWarp.cores := by rw [hd.rest]; rfl
  have hframe : w'.tframe.toNat + 0xA00 = 0xA00 := by rw [hd.warp]; rfl
  rw [hframe] at hok
  have htr := translate_stray hcores
  obtain ⟨w2, hg2, -, -, -, hsave, -⟩ := hok (pageOf 0x0C .g1 0xA00) (congrArg Prod.snd htr) (by decide +kernel) (by decide +kernel)
  have hmode : w2.mode = .saving 0 := by rw [(hsave rfl).1]; rfl
  obtain ⟨t3, g3, w3, hx3, hg3, hw3, hm3⟩ := strayWarp_goes_on
  rw [hx3] at hx
  cases hx
  have hg : g3 = g'.setWarp 0 w2 := Option.some.inj (hg3.symm.trans hg2)
  rw [hg, warp_setWarp_self] at hw3
  cases hw3
  rw [hmode] at hm3
  cases hm3

end Sys2Proof.Laws

end

section
/-!
SUPPORT. Barriers (R142 to R145): what an arrival leaves of its warp's group, and what the three instructions answer.
-/

namespace Sys2Proof.Machine

/-- A barrier in which the threads of a mask have arrived from the warp of a key. -/
def Barrier.joined (b : Barrier) (key : Nat) (m : BitVec 32) : Barrier :=
  { b with arrived := SMap.put b.arrived key (SMap.get 0 b.arrived key ||| m) }

/-- The state in which an arrival is counted and no phase has completed yet. -/
def TEnv.counted (e : TEnv) (m : BitVec 32) (kind i : Nat) : State :=
  let s := e.base.release e.g.tenant e.g.core (barScope kind)
  let t := s.setBarrier e.g kind i ((s.barrier e.g kind i).joined (warpKey e.g.uid e.slot) m)
  if kind = 0 then t else t.sideEffect e.g.uid

/-- The state that BAR.ARV or BAR.SYNC has made by its arrivals. -/
def TEnv.arrivedState (e : TEnv) (kind i : Nat) : State :=
  if e.arriving kind i = 0 then e.base else e.arrive (e.arriving kind i) kind i

/-- The threads that have arrived once this issue's arrivals are made. -/
def TEnv.arrivedAll (e : TEnv) (kind i : Nat) : BitVec 32 := e.w.arrivals ||| e.arriving kind i

/-- BAR.ARV has all its arrivals, and BAR.SYNC the phase's completion as well (R143). -/
def TEnv.barrierPassed (e : TEnv) (sync : Bool) (kind i : Nat) : Prop :=
  e.parts &&& ~~~e.arrivedAll kind i = 0 ∧ (sync = true → e.pending (e.arrivedState kind i) kind i &&& e.parts = 0)

/-- What BAR.WT answers in a member warp (R143). -/
def waitBody (e : TEnv) (kind i : Nat) : TRes :=
  if e.pending e.base kind i &&& e.parts ≠ 0 then .wait e.w else .ok (e.base.acquire e.g.core (barScope kind)) e.w 0

end Sys2Proof.Machine

namespace Sys2Proof.Laws

open Sys2Proof.Machine

theorem barScope_eq (kind : Nat) : barScope kind = if kind = 0 then 0 else if kind = 1 then 1 else 3 := by
  unfold barScope
  split
  · rfl
  · rfl
  · rw [if_neg ‹_›, if_neg ‹_›]

/-! ### Arrivals -/

theorem settleAll_group {s : State} {g : Group} (hg : s.group? g.uid = some g) :
    ∃ m, (∀ k, SMap.get Barrier.zero m k = settledBar g 16 k) ∧ (s.settleAll g.uid).group? g.uid = some { g with bars := m } := by
  obtain ⟨m, hm, hb⟩ := settleAll_spec hg
  refine ⟨m, hm, ?_⟩
  unfold State.group?
  rw [hb.rest]
  exact setGroup_self s { g with bars := m }

theorem setBarrier_group {s : State} {g : Group} (hg : s.group? g.uid = some g) (kind i : Nat) (b : Barrier) :
    ∃ m, (s.setBarrier g kind i b).group? g.uid = some { g with bars := m } := by
  unfold State.setBarrier
  split
  · exact ⟨_, setGroup_self s { g with bars := SMap.put g.bars i b }⟩
  · exact ⟨_, hg⟩
  · exact ⟨_, hg⟩

theorem release_group (e : TEnv) (sc : Nat) : (e.base.release e.g.tenant e.g.core sc).group? e.g.uid = some e.g :=
  group_of_warmed (release_warmed _ _ _ _)

theorem counted_group (e : TEnv) (m : BitVec 32) (kind i : Nat) :
    ∃ g, (e.counted m kind i).group? e.g.uid = some g ∧ g.uid = e.g.uid := by
  obtain ⟨bars, hb⟩ := setBarrier_group (release_group e (barScope kind)) kind i
    (((e.base.release e.g.tenant e.g.core (barScope kind)).barrier e.g kind i).joined (warpKey e.g.uid e.slot) m)
  unfold TEnv.counted
  dsimp only
  split
  · exact ⟨_, hb, rfl⟩
  · rw [sideEffect_of_group hb]
    exact ⟨_, setGroup_self _ (Group.sideUp { e.g with bars := bars }), rfl⟩

/-- An arrival is counted and then every barrier of the group is settled (R144). -/
theorem arrive_eq (e : TEnv) (m : BitVec 32) (kind i : Nat) : e.arrive m kind i = (e.counted m kind i).settleAll e.g.uid := by
  unfold TEnv.arrive
  simp only [release_group]
  rfl

theorem arrivedState_group (e : TEnv) (kind i : Nat) :
    ∃ g, (e.arrivedState kind i).group? e.g.uid = some g ∧ g.uid = e.g.uid := by
  unfold TEnv.arrivedState
  split
  · exact ⟨e.g, setGroup_self _ _, rfl⟩
  · obtain ⟨g, hg, hu⟩ := counted_group e (e.arriving kind i) kind i
    rw [← hu] at hg
    obtain ⟨m, -, hs⟩ := settleAll_group hg
    rw [arrive_eq, ← hu]
    exact ⟨_, hs, rfl⟩

theorem acquire_group (s : State) (c sc uid : Nat) : (s.acquire c sc).group? uid = s.group? uid := by
  unfold State.group?
  rw [(acquire_warmed s c sc).rest]

/-! ### The issue of a barrier's instruction -/

/-- A meaning that answers an arrival which is not all of the instruction waits with it noted. -/
theorem begins_of_begun {op : Nat} {i : TWord} {s s1 : State} {e : TEnv} {body : TEnv → TRes} {w : Warp}
    (h : s.tReady op i = some e) (hb : body e = .begun s1 w) : tIssue op i s body = .next (e.kept s1 w).waits := by
  rw [tIssue_ready h, hb]
  rfl

section
variable {op : Nat} {s : State} {e : TEnv} (hr : s.tReady op e.i = some e) (body : TEnv → Nat → Nat → TRes)

theorem barIssue_member (hm : e.g.barMember e.slot e.mod (e.i.srca.toNat % 256) = true) : ∃ b, barIssue op e.i s body = tIssue op e.i s b ∧
    b e = body e e.mod (e.i.srca.toNat % 256) := by
  refine ⟨_, rfl, ?_⟩
  rw [codeOf_eq]
  exact if_pos hm

include hr in
/-- A warp that is no member of the barrier raises PROT (R142). -/
theorem barIssue_prot (hm : e.g.barMember e.slot e.mod (e.i.srca.toNat % 256) = false) :
    barIssue op e.i s body = .next (e.trap .prot 0) := by
  refine traps_of_trap hr ?_
  rw [codeOf_eq]
  exact if_neg (by simp [hm])

end

/-! ### BAR.ARV and BAR.SYNC (R143) -/

section
variable {e : TEnv} {sync : Bool} {kind k : Nat}

theorem arriveBody_passed (h : e.barrierPassed sync kind k) : arriveBody sync e kind k =
    .ok (if sync || e.w.synced.isSome then (e.arrivedState kind k).acquire e.g.core (barScope kind) else e.arrivedState kind k) e.w 0 := by
  obtain ⟨hall, hdone⟩ := h
  refine if_pos ⟨hall, ?_⟩
  cases sync with
  | false => exact .inl rfl
  | true => exact .inr (hdone rfl)

theorem not_passed (h : ¬ e.barrierPassed sync kind k) :
    ¬ (e.parts &&& ~~~e.arrivedAll kind k = 0 ∧ ((!sync) = true ∨ e.pending (e.arrivedState kind k) kind k &&& e.parts = 0)) :=
  fun ⟨hall, hdone⟩ => h ⟨hall, fun hs => hdone.resolve_left (by simp [hs])⟩

theorem arriveBody_unarrived (h : ¬ e.barrierPassed sync kind k) (h0 : e.arrivedAll kind k = 0) :
    arriveBody sync e kind k = .wait { e.w with synced := some 0 } :=
  (if_neg (not_passed h)).trans (if_pos h0)

theorem arriveBody_begun (h : ¬ e.barrierPassed sync kind k) (h0 : e.arrivedAll kind k ≠ 0) :
    arriveBody sync e kind k = .begun (e.arrivedState kind k) { e.w with synced := some (e.arrivedAll kind k) } :=
  (if_neg (not_passed h)).trans (if_neg h0)

end

/-- A BAR.ARV or BAR.SYNC that has passed completes, with an acquire where others' arrivals may have let it pass (R145). -/
theorem arrive_completes {op : Nat} {i : TWord} {s : State} {e : TEnv} {body : TEnv → TRes} {sync : Bool} {kind k : Nat}
    (hr : s.tReady op i = some e) (hb : body e = arriveBody sync e kind k) (h : e.barrierPassed sync kind k) :
    let s1 := e.arrivedState kind k
    ∃ g1, s1.group? e.g.uid = some g1 ∧ e.Completes (tIssue op i s body)
      (if sync = true ∨ e.w.synced ≠ none then s1.acquire e.g.core (barScope kind) else s1) g1 e.w 0 := by
  intro s1
  obtain ⟨g1, hg, hu⟩ := arrivedState_group e kind k
  have hwaited : (sync || e.w.synced.isSome) = true ↔ sync = true ∨ e.w.synced ≠ none := by
    rw [Bool.or_eq_true, Option.isSome_iff_ne_none]
  refine ⟨g1, hg, completes_of_ok_at hr (hb.trans ((arriveBody_passed h).trans ?_)) ?_ hu⟩
  · rw [if_congr hwaited rfl rfl]
  · split
    · exact (acquire_group _ _ _ _).trans hg
    · exact hg

end Sys2Proof.Laws

end

section
/-!
CLAIM. Obligation O9: the three instructions of a barrier, and the phase of a group's own barrier.
-/

namespace Sys2Proof.Laws

open Sys2Proof.Machine

/-! ### The three instructions -/

section
variable {ins : TWord → Instr} {op : Nat} {s : State} {e : TEnv}

/-- BAR.ARV and BAR.SYNC of a member: they complete, wait without an arrival, or wait with those that they have made. -/
theorem arrive_answers {sync : Bool} (hx : ∀ i s, exec (ins i) s = barIssue op i s (arriveBody sync)) (hr : s.tReady op e.i = some e)
    (hm : e.g.barMember e.slot e.mod (e.i.srca.toNat % 256) = true) :
    let k := e.i.srca.toNat % 256
    let sc := if e.mod = 0 then 0 else if e.mod = 1 then 1 else 3
    let s1 := e.arrivedState e.mod k
    (e.barrierPassed sync e.mod k → ∃ g1, s1.group? e.g.uid = some g1 ∧ e.Completes (exec (ins e.i) s)
      (if sync = true ∨ e.w.synced ≠ none then s1.acquire e.g.core sc else s1) g1 e.w 0) ∧
    (¬ e.barrierPassed sync e.mod k → e.arrivedAll e.mod k = 0 →
      exec (ins e.i) s = .next (e.s.setWarp e.g.uid e.slot { e.w with synced := some 0 }).waits) ∧
    (¬ e.barrierPassed sync e.mod k → e.arrivedAll e.mod k ≠ 0 →
      exec (ins e.i) s = .next (e.kept s1 { e.w with synced := some (e.arrivedAll e.mod k) }).waits) := by
  intro k sc s1
  obtain ⟨body, hbar, hb⟩ := barIssue_member (op := op) (s := s) (arriveBody sync) hm
  rw [hx, hbar, show sc = barScope e.mod from (barScope_eq e.mod).symm]
  exact ⟨arrive_completes hr hb, fun h h0 => waits_of_wait hr (hb.trans (arriveBody_unarrived h h0)),
    fun h h0 => begins_of_begun hr (hb.trans (arriveBody_begun h h0))⟩

/-- BAR.WT of a member: it completes with an acquire, or waits while an arrival of its threads is pending. -/
theorem barWt_answers (hr : s.tReady 0x4F e.i = some e) (hm : e.g.barMember e.slot e.mod (e.i.srca.toNat % 256) = true) :
    let k := e.i.srca.toNat % 256
    let sc := if e.mod = 0 then 0 else if e.mod = 1 then 1 else 3
    (e.pending e.base e.mod k &&& e.parts = 0 → e.Completes (exec (.barWt e.i) s) (e.base.acquire e.g.core sc) e.g e.w 0) ∧
    (e.pending e.base e.mod k &&& e.parts ≠ 0 → exec (.barWt e.i) s = .next (e.s.setWarp e.g.uid e.slot e.w).waits) := by
  intro k sc
  obtain ⟨body, hbar, hb⟩ := barIssue_member (op := 0x4F) (s := s) waitBody hm
  have hx : exec (.barWt e.i) s = tIssue 0x4F e.i s body := hbar
  rw [hx, show sc = barScope e.mod from (barScope_eq e.mod).symm]
  exact ⟨fun hp => completes_of_ok_at hr (hb.trans (if_neg (not_not_intro hp))) ((acquire_group _ _ _ _).trans (setGroup_self _ _)) rfl,
    fun hp => waits_of_wait hr (hb.trans (if_pos hp))⟩

end

/-! ### A group's own barrier (R143, R144) -/

theorem joined_arrived (b : Barrier) (key : Nat) (m : BitVec 32) : (b.joined key m).arrived ≠ [] := by
  intro h
  have hself := find_put_self b.arrived key (SMap.get 0 b.arrived key ||| m)
  rw [show SMap.put b.arrived key (SMap.get 0 b.arrived key ||| m) = [] from h] at hself
  cases hself

/-- An arrival at a group's own barrier records its threads and completes the phase exactly where every member has arrived. -/
theorem arrive_settles (e : TEnv) (m : BitVec 32) {k : Nat} (hk : k < 16) :
    let b := SMap.get Barrier.zero e.g.bars k
    let b' := b.joined (warpKey e.g.uid e.slot) m
    ∃ g', (e.arrive m 0 k).group? e.g.uid = some g' ∧ g' = { e.g with bars := g'.bars } ∧
      BarsSettled { e.g with bars := SMap.put e.g.bars k b' } g' ∧
      SMap.get Barrier.zero g'.bars k = if e.g.arrived b' (e.g.barMask k) then { phase := !b.phase, arrived := [] } else b' := by
  intro b b'
  obtain ⟨bars, hbars, hg⟩ := settleAll_group (s := e.counted m 0 k) (g := { e.g with bars := SMap.put e.g.bars k b' })
    (setGroup_self e.base { e.g with bars := SMap.put e.g.bars k b' })
  refine ⟨{ e.g with bars := bars }, by rw [arrive_eq]; exact hg, rfl, hbars, (hbars k).trans ?_⟩
  have hb : SMap.get Barrier.zero (SMap.put e.g.bars k b') k = b' := (get_put _ _ _ _ _).trans (if_pos rfl)
  unfold settledBar
  simp only [hb]
  exact if_congr ⟨fun h => h.2.2, fun h => ⟨hk, joined_arrived _ _ _, h⟩⟩ rfl rfl

/-- Settles O9: `arrive_answers` and `barWt_answers` for a member, `barIssue_prot` for any other, and `arrive_settles`. -/
theorem barriers : Obligations.Barriers := by
  unfold Obligations.Barriers
  refine ⟨fun i s e => ⟨?arrive, fun hr hm => ?wt, ?prot⟩, fun e m k hk => arrive_settles e m hk⟩
  case arrive =>
    refine List.forall_mem_cons.2 ⟨fun hr hm => ?arv, List.forall_mem_singleton.2 fun hr hm => ?sync⟩
    case arv => obtain rfl := tReady_i hr; exact arrive_answers (ins := .barArv) (sync := false) (fun _ _ => rfl) hr hm
    case sync => obtain rfl := tReady_i hr; exact arrive_answers (ins := .barSync) (sync := true) (fun _ _ => rfl) hr hm
  case wt => obtain rfl := tReady_i hr; exact barWt_answers hr hm
  case prot =>
    refine List.forall_mem_cons.2 ⟨fun hr hm => ?arv, List.forall_mem_cons.2 ⟨fun hr hm => ?wt, List.forall_mem_singleton.2 fun hr hm => ?sync⟩⟩
    case arv => obtain rfl := tReady_i hr; exact barIssue_prot hr (arriveBody false) hm
    case wt => obtain rfl := tReady_i hr; exact barIssue_prot hr waitBody hm
    case sync => obtain rfl := tReady_i hr; exact barIssue_prot hr (arriveBody true) hm

end Sys2Proof.Laws

end

section
/-!
SUPPORT. Semaphores of a core (R235, R423 to R426): what is left of the state when one takes a value from an instruction of a group.
-/

namespace Sys2Proof.Machine

/-- A group once semaphore k of core c has taken the value v: its waits are tested where it runs on that core. -/
def Group.semTested (g : Group) (c k : Nat) (v : Word) : Group := if g.core == c then g.semTest k v else g

/-- The same with a side effect counted in the group whose instruction it was (R235). -/
def Group.semTook (g : Group) (c k : Nat) (v : Word) (own : Bool) : Group :=
  if own then (g.semTested c k v).sideUp else g.semTested c k v

end Sys2Proof.Machine

namespace Sys2Proof.Laws

open Sys2Proof.Machine

/-! ### The waits of a group -/

theorem test_hit {x : SemWait} {v : Word} (hh : x.hit = none) (hv : x.thresh.toNat ≤ v.toNat) :
    x.test x.idx v = { x with hit := some v } :=
  if_pos (by simp [hh, hv])

section
variable (g : Group) (c k : Nat) (v : Word) (own : Bool)

/-- Nothing of the group changes but its streams' waits and the count of its side effects. -/
theorem semTook_frame :
    let x := g.semTook c k v own
    x = { g with warps := x.warps, a := { g.a with semWait := x.a.semWait }, side := x.side } ∧
    x.side = (if own then min 0xFFFF (g.side + 1) else g.side) ∧ x.warps = (g.semTested c k v).warps := by
  unfold Group.semTook Group.semTested
  cases own with
  | false => simp only [Bool.false_eq_true, if_false, and_true]; split <;> exact ⟨rfl, rfl⟩
  | true => simp only [if_true]; split <;> exact ⟨rfl, rfl, rfl⟩

theorem semTook_warp (n : Nat) : (g.semTook c k v own).warp? n = (g.semTested c k v).warp? n := by
  unfold Group.warp?
  rw [(semTook_frame g c k v own).2.2]

theorem semTest_warp (n : Nat) : (g.semTest k v).warp? n =
    (g.warp? n).map fun w => { w with semWait := w.semWait.map fun x => x.test k v } :=
  find_mapv (fun _ (w : Warp) => ({ w with semWait := w.semWait.map fun x => x.test k v } : Warp)) g.warps n

/-- A group's warps keep everything but their waits. -/
theorem semTested_warp (n : Nat) : ∃ f : Warp → Option SemWait,
    (g.semTested c k v).warp? n = (g.warp? n).map fun w => { w with semWait := f w } := by
  unfold Group.semTested
  split
  · exact ⟨_, semTest_warp g k v n⟩
  · exact ⟨Warp.semWait, by simp⟩

end

/-! ### The state -/

section
variable (s : State) (c k : Nat) (v : Word)

theorem semSet_group (u : Nat) : (s.semSet c k v).group? u = (s.group? u).map fun g => g.semTested c k v :=
  find_mapv (fun _ (g : Group) => g.semTested c k v) s.groups u

theorem semSet_core (c' : Nat) :
    (s.semSet c k v).core c' = if c' = c then { s.core c with sems := SMap.set 0 (s.core c).sems k v } else s.core c' :=
  core_setCore s c c' _

theorem semSet_sem (c' j : Nat) : (s.semSet c k v).sem c' j = if c' = c ∧ j = k then v else s.sem c' j := by
  unfold State.sem
  rw [semSet_core]
  by_cases hc : c' = c
  · subst hc
    simp only [if_pos, true_and]
    exact get_set _ _ _ _ _
  · rw [if_neg hc, if_neg fun h => hc h.1]

variable {s} {g : Group} (hg : s.group? g.uid = some g)
include hg

theorem semSideEffect_eq : (s.semSet c k v).sideEffect g.uid = (s.semSet c k v).setGroup (g.semTook c k v true) :=
  sideEffect_of_group (by rw [semSet_group, hg]; rfl)

theorem semSideEffect_group (u : Nat) : ((s.semSet c k v).sideEffect g.uid).group? u =
    (s.group? u).map fun x => x.semTook c k v (decide (u = g.uid)) := by
  have hu : (g.semTook c k v true).uid = g.uid := by rw [(semTook_frame g c k v true).1]
  rw [semSideEffect_eq c k v hg]
  by_cases h : u = g.uid
  · subst h
    have hself := setGroup_self (s.semSet c k v) (g.semTook c k v true)
    rw [hu] at hself
    rw [hself, hg]
    simp
  · rw [setGroup_other _ _ (by rw [hu]; exact h), semSet_group, decide_eq_false h]
    rfl

/-- What an instruction of the group leaves that gives the semaphore a value (R235, R424). -/
theorem semSideEffect_taken : SemTaken s ((s.semSet c k v).sideEffect g.uid) (some g.uid) c k v where
  rest := by
    rw [semSideEffect_eq c k v hg]
    rfl
  here := by
    rw [semSideEffect_eq c k v hg]
    exact (semSet_sem s c k v c k).trans (if_pos ⟨rfl, rfl⟩)
  others c' j h := by
    rw [semSideEffect_eq c k v hg]
    exact (semSet_sem s c k v c' j).trans (if_neg fun ⟨hc, hj⟩ => h.elim (· hc) (· hj))
  cores c' := by
    rw [semSideEffect_eq c k v hg]
    refine (semSet_core s c k v c').trans ?_
    change _ = { s.core c' with sems := ((s.semSet c k v).core c').sems }
    rw [semSet_core]
    split
    · subst_vars; rfl
    · rfl
  groups u := by
    rw [semSideEffect_group c k v hg]
    cases s.group? u with
    | none => trivial
    | some x =>
      obtain ⟨hframe, hside, -⟩ := semTook_frame x c k v (decide (u = g.uid))
      refine ⟨hframe, hside.trans (by simp), fun n => ?_⟩
      obtain ⟨f, hf⟩ := semTested_warp x c k v n
      rw [semTook_warp, hf]
      cases x.warp? n with
      | none => trivial
      | some w => rfl
  seen u x n w y hx hc hw hy hi hh hv := by
    subst hi
    refine ⟨x.semTook c y.idx v (decide (u = g.uid)), { w with semWait := some { y with hit := some v } }, ?_, ?_, rfl⟩
    · rw [semSideEffect_group c y.idx v hg, hx]
      rfl
    · rw [semTook_warp, Group.semTested, if_pos (by simp [hc]), semTest_warp, hw, Option.map_some, hy, Option.map_some, test_hit hh hv]

end

end Sys2Proof.Laws

end

section
/-!
CLAIM. Obligation O20: the semaphore instructions of a warp.
-/

namespace Sys2Proof.Machine

/-- What SEMWAIT answers for its chosen thread's semaphore and threshold (R424, R426). -/
def semwaitBody (e : TEnv) (k : Nat) (b : Word) : TRes :=
  match e.base.semHit e.w.semWait e.g.core k b with
  | none => .wait { e.w with semWait := some (e.w.semWait.getD { idx := k, thresh := b, hit := none }) }
  | some v =>
    match e.resultOf 0 1 (fun _ => v.setWidth 128) fun _ => none with
    | .ok s w' red => .ok (e.post s) { w' with semWait := none } red
    | r => r

end Sys2Proof.Machine

namespace Sys2Proof.Laws

open Sys2Proof.Machine

/-! ### The checks of the chosen thread -/

theorem semOwned_eq (tenant k : Nat) : semOwned tenant k = true ↔ owns tenant k := by
  simp [semOwned, owns]

theorem parts_hlp {e : TEnv} {t : Nat} (h : bit e.parts t = true) : bit e.hlp t = false := by
  have hlt : t < 32 := BitVec.lt_of_getLsbD h
  rw [TEnv.parts, bit_and, Bool.and_eq_true] at h
  simpa [bit, hlt] using h.2

theorem lowest_zero : lowest 0 = none := by simp [lowest, lanesOf]

/-- A result that poisons no thread is written as it is. -/
theorem resultOf_clear (e : TEnv) (v : BitVec 128) :
    e.resultOf 0 1 (fun _ => v) (fun _ => none) = .ok e.base (e.wrote 1 (fun _ => v) 0) 0 := by
  refine (resultOf_gives (.inr BitVec.zero_and) 1 _).trans ?_
  simp [bit]

section
variable {op : Nat} {s : State} {e : TEnv} (hr : s.tReady op e.i = some e) {choose : TEnv → Option Nat} {body : TEnv → Nat → Word → TRes}
include hr

/-- Without a chosen thread the result is 0. -/
theorem semIssue_idle (hc : choose e = none) : e.Completes (semIssue op e.i s choose body) e.s e.g (e.wrote 1 (fun _ => 0) 0) 0 := by
  refine completes_of_ok hr ?_
  simp only [hc]
  exact resultOf_clear e 0

variable {t : Nat} (hc : choose e = some t)
include hc

theorem semIssue_poison (hp : bit e.poisoned t = true) (hh : bit e.hlp t = false) :
    semIssue op e.i s choose body = .next (e.trap .poison 0) :=
  traps_of_trap hr (by simp [hc, hp, hh])

theorem semIssue_prot (hp : bit e.poisoned t = false) (ho : ¬ owns e.g.tenant (e.src 1 .int t).toNat) (hh : bit e.hlp t = false) :
    semIssue op e.i s choose body = .next (e.trap .prot (BitVec.ofNat 64 (e.src 1 .int t).toNat)) := by
  rw [← semOwned_eq] at ho
  exact traps_of_trap hr (by simp [hc, hp, hh, ho, TEnv.int])

/-- A check that fails in a helper raises nothing (R129). -/
theorem semIssue_helper (hf : bit e.poisoned t = true ∨ ¬ owns e.g.tenant (e.src 1 .int t).toNat) (hh : bit e.hlp t = true) :
    e.Completes (semIssue op e.i s choose body) e.s e.g (e.wrote 1 (fun _ => 0) e.act) 0 := by
  refine completes_of_ok hr ?_
  simp only [hc, hh, if_true]
  by_cases hp : bit e.poisoned t = true
  · exact if_pos hp
  · have ho := hf.resolve_left hp
    rw [← semOwned_eq] at ho
    exact (if_neg hp).trans (if_pos (by simpa [TEnv.int] using ho))

omit hr in
/-- Where the checks pass, the instruction's own effect follows. -/
theorem semIssue_passes (hp : bit e.poisoned t = false) (ho : owns e.g.tenant (e.src 1 .int t).toNat) :
    ∃ b, semIssue op e.i s choose body = tIssue op e.i s b ∧ b e = body e (e.src 1 .int t).toNat (e.src 2 .int t) := by
  rw [← semOwned_eq] at ho
  refine ⟨_, rfl, ?_⟩
  simp only [hc, hp, Bool.false_eq_true, if_false]
  exact if_neg (by simpa [TEnv.int] using ho)

end

/-! ### SEMADD and SEMSET -/

/-- The new value is taken after the release, and the old value is the result (R425, R426). -/
theorem semUpdate_completes {op : Nat} {i : TWord} {s : State} {e : TEnv} {body : TEnv → TRes} {f : Word → Word → Word} {k : Nat} {b : Word}
    (hr : s.tReady op i = some e) (hb : body e = semUpdate f e k b) :
    let s0 := e.pre e.base
    let old := s0.sem e.g.core k
    ∃ s1 g1, SemTaken s0 s1 (some e.g.uid) e.g.core k (f old b) ∧ s1.group? e.g.uid = some g1 ∧
      e.Completes (tIssue op i s body) s1 g1 (e.wrote 1 (fun _ => old.setWidth 128) 0) 0 := by
  intro s0 old
  have hg : s0.group? e.g.uid = some e.g := group_of_warmed (tPre_warmed e e.base)
  have hgroup : ((s0.semSet e.g.core k (f old b)).sideEffect e.g.uid).group? e.g.uid = some (e.g.semTook e.g.core k (f old b) true) := by
    rw [semSideEffect_group _ _ _ hg, hg]
    simp
  refine ⟨_, _, semSideEffect_taken _ _ _ hg, hgroup, completes_of_ok_at hr (hb.trans ?_) hgroup ?_⟩
  · rw [semUpdate, resultOf_clear]
    rfl
  · rw [(semTook_frame e.g e.g.core k (f old b) true).1]

section
variable {ins : TWord → Instr} {op : Nat} {f : Word → Word → Word} {s : State} {e : TEnv}

/-- SEMADD and SEMSET by the lowest thread that takes part, which is no helper. -/
theorem semUpdate_answers (hx : ∀ i s, exec (ins i) s = semIssue op i s (fun e => lowest e.parts) (semUpdate f))
    (hr : s.tReady op e.i = some e) :
    (e.parts = 0 → e.Completes (exec (ins e.i) s) e.s e.g (e.wrote 1 (fun _ => 0) 0) 0) ∧
    ∀ t, lowest e.parts = some t → let k := (e.src 1 .int t).toNat; let s0 := e.pre e.base; let old := s0.sem e.g.core k
      (bit e.poisoned t = false → owns e.g.tenant k →
        ∃ s1 g1, SemTaken s0 s1 (some e.g.uid) e.g.core k (f old (e.src 2 .int t)) ∧ s1.group? e.g.uid = some g1 ∧
          e.Completes (exec (ins e.i) s) s1 g1 (e.wrote 1 (fun _ => old.setWidth 128) 0) 0) ∧
      (bit e.poisoned t = true → exec (ins e.i) s = .next (e.trap .poison 0)) ∧
      (bit e.poisoned t = false → ¬ owns e.g.tenant k → exec (ins e.i) s = .next (e.trap .prot (BitVec.ofNat 64 k))) := by
  rw [hx]
  refine ⟨fun hp => semIssue_idle hr (by rw [hp]; exact lowest_zero), fun t ht => ⟨fun hp ho => ?_, fun hp => ?_, fun hp ho => ?_⟩⟩
  · obtain ⟨body, hissue, hb⟩ := semIssue_passes (op := op) (s := s) (choose := fun e => lowest e.parts) (body := semUpdate f) ht hp ho
    rw [hissue]
    exact semUpdate_completes hr hb
  · exact semIssue_poison hr ht hp (parts_hlp (lowest_mem ht))
  · exact semIssue_prot hr ht hp ho (parts_hlp (lowest_mem ht))

end

/-! ### SEMWAIT -/

section
variable {e : TEnv} {k : Nat} {b : Word}

/-- The first value that has satisfied the wait, or the one that does now, lets it pass (R424). -/
theorem semHit_some {v : Word} (h : match e.w.semWait with
    | some x => x.hit = some v
    | none => b.toNat ≤ (e.s.sem e.g.core k).toNat ∧ v = e.s.sem e.g.core k) :
    e.base.semHit e.w.semWait e.g.core k b = some v := by
  unfold State.semHit
  cases hw : e.w.semWait with
  | some x => rw [hw] at h; exact h
  | none => rw [hw] at h; obtain ⟨hle, rfl⟩ := h; exact if_pos hle

theorem semwaitBody_hit {v : Word} (h : e.base.semHit e.w.semWait e.g.core k b = some v) : semwaitBody e k b =
    .ok (e.post e.base) { e.wrote 1 (fun _ => v.setWidth 128) 0 with semWait := none } 0 := by
  simp only [semwaitBody, h, resultOf_clear]

theorem semwaitBody_known {x : SemWait} (hw : e.w.semWait = some x) (hh : x.hit = none) : semwaitBody e k b = .wait e.w := by
  simp only [semwaitBody, State.semHit, hw, hh, Option.getD_some]
  rw [← hw]

theorem semwaitBody_new (hw : e.w.semWait = none) (hlt : (e.s.sem e.g.core k).toNat < b.toNat) :
    semwaitBody e k b = .wait { e.w with semWait := some { idx := k, thresh := b, hit := none } } := by
  have hhit : e.base.semHit none e.g.core k b = none := if_neg (Nat.not_le.2 hlt)
  simp only [semwaitBody, hw, hhit, Option.getD_none]

end

theorem post_group (e : TEnv) : (e.post e.base).group? e.g.uid = some e.g := group_of_warmed (tPost_warmed e e.base)

/-- Settles O20: SEMADD, whose `semAdd` is by definition the rule's `semSum`, and SEMSET by `semUpdate_answers`; SEMWAIT by the checks of
`semIssue` and then by what its wait has seen. -/
theorem warpSemaphores : Obligations.WarpSemaphores := by
  unfold Obligations.WarpSemaphores
  refine ⟨List.forall_mem_cons.2 ⟨fun i s e hr => ?add, List.forall_mem_singleton.2 fun i s e hr => ?set⟩, fun i s e hr => ?wait⟩
  case add => obtain rfl := tReady_i hr; exact semUpdate_answers (ins := .semadd) (f := semSum) (fun _ _ => rfl) hr
  case set => obtain rfl := tReady_i hr; exact semUpdate_answers (ins := .semset) (f := fun _ b => b) (fun _ _ => rfl) hr
  case wait =>
    obtain rfl := tReady_i hr
    rw [show exec (.semwait e.i) s = semIssue 0x77 e.i s (fun e => lowest e.act) semwaitBody from rfl]
    refine ⟨fun ha => semIssue_idle hr (by rw [ha]; exact lowest_zero), fun t ht => ?_⟩
    have hpass := fun hp ho => semIssue_passes (op := 0x77) (s := s) (choose := fun e => lowest e.act) (body := semwaitBody) ht hp ho
    refine ⟨fun hp ho v hv => ?hit, fun hp ho => ?waits, fun hh => ⟨fun hp => ?poison, fun hp ho => ?prot⟩, fun hh hf => ?helper⟩
    case hit =>
      obtain ⟨body, hissue, hb⟩ := hpass hp ho
      rw [hissue]
      exact completes_of_ok_at hr (hb.trans (semwaitBody_hit (semHit_some hv))) (post_group e) rfl
    case waits =>
      obtain ⟨body, hissue, hb⟩ := hpass hp ho
      rw [hissue]
      exact ⟨fun x hw hh => waits_of_wait hr (hb.trans (semwaitBody_known hw hh)),
        fun hw hlt => waits_of_wait hr (hb.trans (semwaitBody_new hw hlt))⟩
    case poison => exact semIssue_poison hr ht hp hh
    case prot => exact semIssue_prot hr ht hp ho hh
    case helper => exact semIssue_helper hr ht hf hh

end Sys2Proof.Laws

end

section
/-!
SUPPORT. What stands before an A instruction's own effect (R158, R172, R195, R220, R282): for a row of results, whose forms issue one
body, its wait, SAFEOVER and its token's fault are said once.
-/

namespace Sys2Proof.Machine

/-- The forms of an instruction issue one body. -/
def AForms.Issue (fs : AForms) (op : Nat) (body : AWord → AEnv → ARes) : Prop :=
  ∀ f ∈ fs, ∀ (p : APrefix) (i : AWord) (s : State), exec (f.2 p i) s = aIssue op (if f.1 then some p else none) i s (body i)

/-- The forms of the row issue one body, which never waits and where the row is ready has the row's effect; no issue of it is free of
SAFECNT's limit. -/
def ARow.Issues (r : ARow) : Prop :=
  aSafeOps.contains r.op = false ∧
  ∃ body : AWord → AEnv → ARes, r.forms.Issue r.op body ∧
    ∀ e : AEnv, (body e.i e).idle = false ∧ (r.ready e → body e.i e = .ok e.base (r.ctx e) (r.push e) (r.jump e))

/-- The body of an instruction that writes D, with nothing else. -/
def valueBody (f : AEnv → DWord) (i : AWord) (e : AEnv) : ARes :=
  .ok e.base (e.a.setReg i.d.toNat (f e)) ((f e).setWidth 32) false

end Sys2Proof.Machine

namespace Sys2Proof.Laws

open Sys2Proof.Machine

/-! ### The forms of an instruction -/

section
variable {op : Nat} {body : AWord → AEnv → ARes} {a : AWord → Instr} {b : APrefix → AWord → Instr}

theorem issue_short (ha : ∀ i s, exec (a i) s = aIssue op none i s (body i)) : (AForms.short a).Issue op body :=
  List.forall_mem_singleton.2 fun _ => ha

theorem exec_short (h : (AForms.short a).Issue op body) (i : AWord) (s : State) : exec (a i) s = aIssue op none i s (body i) :=
  h _ List.mem_cons_self APrefix.none i s

theorem issue_long (hb : ∀ p i s, exec (b p i) s = aIssue op (some p) i s (body i)) : (AForms.long b).Issue op body :=
  List.forall_mem_singleton.2 hb

theorem issue_both (ha : ∀ i s, exec (a i) s = aIssue op none i s (body i))
    (hb : ∀ p i s, exec (b p i) s = aIssue op (some p) i s (body i)) : (AForms.both a b).Issue op body :=
  List.forall_mem_cons.2 ⟨fun _ => ha, issue_long hb⟩

end

/-! ### The environment -/

theorem aEnv_fields {s : State} {op : Nat} {p : Option APrefix} {i : AWord} {e : AEnv} (h : s.aEnv op p i = some e) :
    e.s = s ∧ e.i = i ∧ e.op = op := by
  unfold State.aEnv at h
  split at h
  · split at h
    · cases h
    · split at h <;> cases h
      exact ⟨rfl, rfl, rfl⟩
  · cases h

/-- A pop takes nothing from the context. -/
theorem aPopped_eq {e0 e : AEnv} (h : e0.popped = some e) : e = { e0 with s := e.s, g := e.g, q := e.q } := by
  unfold AEnv.popped at h
  split at h
  · cases h; rfl
  · split at h
    · cases h; rfl
    · split at h
      · cases h
      · cases h; rfl

theorem aReady_i {s : State} {op : Nat} {p : Option APrefix} {i : AWord} {e : AEnv} (h : s.aReady op p i = some e) : e.i = i := by
  unfold State.aReady at h
  split at h
  · cases h
  · rename_i e0 h0
    obtain ⟨e1, hp, h1⟩ := Option.bind_eq_some_iff.1 h
    split at h1 <;> cases h1
    rw [aPopped_eq hp]
    exact (aEnv_fields h0).2.1

/-! ### The pop (R158, R272, R299) -/

section
variable {e : AEnv}

theorem aPopped_none (h : e.i.popq.toNat = 0) : e.popped = some e := if_pos (BitVec.eq_of_toNat_eq h)

theorem popq_ne_zero (h : e.i.popq.toNat ≠ 0) : e.i.popq ≠ 0 := fun h0 => h (by rw [h0]; rfl)

theorem aPopped_empty (h : e.i.popq.toNat ≠ 0) (hh : e.a.held = none) (hv : e.g.visible e.i.popq.toNat = []) : e.popped = none := by
  simp only [AEnv.popped, if_neg (popq_ne_zero h), hh, hv]

theorem aPopped_oldest {v : Word} {l : List Word} (h : e.i.popq.toNat ≠ 0) (hh : e.a.held = none)
    (hv : e.g.visible e.i.popq.toNat = v :: l) :
    e.popped = some { e with s := e.acquired v, g := e.g.dropA e.i.popq.toNat, q := v } := by
  simp only [AEnv.popped, if_neg (popq_ne_zero h), hh, hv]

/-- The number of a copy engine token's command. -/
theorem tokenNumber_eq (v : Word) : bitsOf v.toNat 15 0 = v.toNat % 2 ^ 16 := by simp [bitsOf]

theorem acquired_of_scope {v : Word} {x : Nat × Nat} (h : e.i.popq.toNat = 7)
    (hx : (e.g.ceScope.find? fun x => x.1 == v.toNat % 2 ^ 16) = some x) : e.acquired v = e.s.acquire e.g.core x.2 := by
  simp only [AEnv.acquired, if_pos (BitVec.eq_of_toNat_eq h : e.i.popq = 7), tokenNumber_eq, hx]

theorem acquired_none {v : Word} (h : e.i.popq.toNat = 7 → (e.g.ceScope.find? fun x => x.1 == v.toNat % 2 ^ 16) = none) :
    e.acquired v = e.s := by
  unfold AEnv.acquired
  split
  · rename_i h7
    rw [tokenNumber_eq, h (by rw [h7]; rfl)]
  · rfl

end

theorem dropA_eq (g : Group) (n : Nat) : g.dropA n = { g with queues := (g.dropA n).queues } := by
  unfold Group.dropA
  split <;> rfl

/-- A pop changes the group's queues alone. -/
theorem aPopped_group {e0 e : AEnv} (h : e0.popped = some e) : e.g = { e0.g with queues := e.g.queues } := by
  unfold AEnv.popped at h
  split at h
  · cases h; rfl
  · split at h
    · cases h; rfl
    · split at h
      · cases h
      · cases h; exact dropA_eq _ _

/-! ### SAFEOVER and the faults of tokens (R172, R195, R220, R282) -/

theorem aOverrun_iff {e0 e : AEnv} (h : e0.popped = some e) (hop : aSafeOps.contains e0.op = false) :
    e.overrun = true ↔ e0.a.restart = false ∧ 4 * e0.g.kern.maxdist < e0.a.safecnt.toNat + 1 := by
  have hk : e.g.kern = e0.g.kern := by rw [aPopped_group h]; rfl
  unfold AEnv.overrun
  rw [hk, aPopped_eq h, hop]
  simp

section
variable {e : AEnv} (hb : bit e.q 31 = true) (hh : e.a.held = none)
include hb hh

/-- A run's token: FPEND is cleared where it is that run's, and TVAL is TASTAT after that (log 27). -/
theorem tokenFault_array (h : e.i.popq.toNat = 6) : ∃ s1, e.tokenFault = some (s1, .tafault, (s1.core e.g.core).ta.status) ∧
    s1 = { e.s with cores := s1.cores } ∧
    ∀ c, s1.core c = { e.s.core c with ta := { (e.s.core c).ta with fpend := (s1.core c).ta.fpend } } ∧
      (c ≠ e.g.core → s1.core c = e.s.core c) := by
  have h6 : e.i.popq = 6 := BitVec.eq_of_toNat_eq h
  let c := e.s.core e.g.core
  let mine := c.ta.fpend && c.ta.fowner == e.g.uid && c.ta.fseq == bitsOf e.q.toNat 15 0
  refine ⟨e.s.setCore e.g.core { c with ta := { c.ta with fpend := c.ta.fpend && !mine } }, ?_, rfl, fun c' => ?_⟩
  · unfold AEnv.tokenFault
    rw [hb, hh, if_neg (by simp), if_pos h6, core_setCore, if_pos rfl]
  · rw [core_setCore]
    split
    · rename_i hc
      subst hc
      exact ⟨rfl, fun hne => absurd rfl hne⟩
    · exact ⟨rfl, fun _ => rfl⟩

/-- A copy command's token, with its failing index and cause. -/
theorem tokenFault_copy (h : e.i.popq.toNat = 7) : e.tokenFault = some (e.s, .cefault, BitVec.ofNat 64 (e.q.toNat + 2 ^ 32 *
    ((e.g.ceInfo.find? fun x => x.1 == e.q.toNat % 2 ^ 16).map Prod.snd).getD 0)) := by
  have h7 : e.i.popq = 7 := BitVec.eq_of_toNat_eq h
  unfold AEnv.tokenFault
  rw [hb, hh, h7, if_neg (by simp), if_neg (by decide), if_pos rfl, tokenNumber_eq]

end

/-! ### The issue -/

section
variable {op : Nat} {p : Option APrefix} {i : AWord} {s : State} {e0 e : AEnv} {body : AEnv → ARes} (h0 : s.aEnv op p i = some e0)
include h0

theorem aIssue_unpopped (hp : e0.popped = none) : aIssue op p i s body = .next s.waits := by
  simp only [aIssue, h0, hp]

variable (hp : e0.popped = some e) (hb : (body e).idle = false)
include hp hb

theorem aIssue_overrun (ho : e.overrun = true) : aIssue op p i s body = .next (e.trap .safeover (e.a.safecnt.setWidth 64)) := by
  simp only [aIssue, h0, hp, AEnv.issue, hb, ho, Bool.false_eq_true, if_false, if_true]

theorem aIssue_tokenFault (ho : e.overrun = false) {s1 : State} {c : Cause} {v : DWord} (ht : e.tokenFault = some (s1, c, v)) :
    aIssue op p i s body = .next (AEnv.trap { e with s := s1 } c v) := by
  simp only [aIssue, h0, hp, AEnv.issue, hb, ho, ht, Bool.false_eq_true, if_false]

end

/-! ### Rows -/

theorem gives_of_aIssues {r : ARow} (h : r.Issues) : r.Gives := by
  obtain ⟨-, body, hx, hb⟩ := h
  intro f hf p i s e hr hready
  obtain rfl := aReady_i hr
  rw [hx f hf]
  exact aCompletes_of_ok hr ((hb e).2 hready)

/-- A row whose forms issue one value. -/
theorem issues_of_value {forms : AForms} {op : Nat} {f g : AEnv → DWord} (hop : aSafeOps.contains op = false)
    (hx : forms.Issue op (valueBody g)) (hv : ∀ e, g e = f e) : (ARow.value forms op f).Issues := by
  obtain rfl := funext hv
  exact ⟨hop, _, hx, fun _ => ⟨rfl, fun _ => rfl⟩⟩

end Sys2Proof.Laws

end

section
/-!
SUPPORT. The rows of the A stream (R152, R162 to R167, R189, R302, R303): what the model computes of an instruction's fields and of its
context's registers is the rules' value.
-/

namespace Sys2Proof.Laws

open Sys2Proof.Machine

/-! ### Fields -/

/-- Bits h:l of a field as a number. -/
theorem s2bits_eq (w : AWord) (h l : Nat) : w.s2bits h l = w.s2.toNat / 2 ^ l % 2 ^ (h + 1 - l) := by
  rw [AWord.s2bits, BitVec.extractLsb'_toNat, Nat.shiftRight_eq_div_pow]

theorem s2_register (w : AWord) : w.s2bits 4 0 = w.s2.toNat % 32 := by simp [s2bits_eq]

theorem s2_loop (w : AWord) : w.s2bits 1 0 = w.s2.toNat % 4 := by simp [s2bits_eq]

theorem s2_amount (w : AWord) : w.s2bits 5 0 = w.s2.toNat % 64 := by simp [s2bits_eq]

theorem s2_scale (w : AWord) : w.s2bits 6 5 = w.s2.toNat / 32 % 4 := by simp [s2bits_eq]

theorem s2_form (w : AWord) : w.s2bits 9 5 = w.s2.toNat / 32 := by
  have := w.s2.isLt
  rw [s2bits_eq]
  omega

theorem s2_whole (w : AWord) : w.s2bits 9 0 = w.s2.toNat := by
  have := w.s2.isLt
  rw [s2bits_eq]
  omega

theorem d_low (d : BitVec 5) : (d.extractLsb' 0 2).toNat = d.toNat % 4 := by simp [BitVec.extractLsb'_toNat]

theorem d_high (d : BitVec 5) : (d.extractLsb' 2 3).toNat = d.toNat / 4 := by
  have := d.isLt
  rw [BitVec.extractLsb'_toNat, Nat.shiftRight_eq_div_pow]
  omega

/-! ### Registers (R152) -/

theorem reg_setReg (a : ACtx) (n m : Nat) (v : DWord) :
    (a.setReg n v).reg m = if m = 0 then 0 else if m = n then v else a.reg m := by
  unfold ACtx.reg ACtx.setReg
  by_cases hm : m = 0
  · rw [if_pos hm, if_pos hm]
  · by_cases hn : n = 0
    · subst hn
      simp [hm]
    · simp only [if_neg hm, if_neg hn, get_set]

theorem loop_setLoop (a : ACtx) (n m : Nat) (v : Word) : (a.setLoop n v).loop m = if m = n then v else a.loop m := get_set _ _ _ _ _

/-! ### TASTAT (R189) -/

theorem toNat_append_add {m n : Nat} (x : BitVec m) (y : BitVec n) : (x ++ y).toNat = x.toNat * 2 ^ n + y.toNat := by
  rw [BitVec.toNat_append, ← Nat.shiftLeft_add_eq_or_of_lt y.isLt, Nat.shiftLeft_eq]

theorem status_fields (t : TritArray) : StatusFields t := by
  have hb (b : Bool) : b.toNat < 2 := b.toNat_lt
  have hv : t.status.toNat = 2 ^ 37 * (t.faddr % 2 ^ 22) + 2 ^ 24 * (t.fchunk % 2 ^ 13) + 2 ^ 22 * (t.fcause % 4) + 2 ^ 20 * (t.fqtr % 4) +
      2 ^ 16 * (t.fctx % 16) + 2 ^ 15 * t.poison.toNat + 2 ^ 14 * t.fpend.toNat + 2 ^ 13 * t.epset.toNat + 2 ^ 12 * t.eprs.toNat +
      2 ^ 11 * t.held.toNat + 2 ^ 8 * ((if t.held then t.holder else 0) % 8) + t.queue.length % 2 ^ 5 := by
    unfold TritArray.status
    simp only [toNat_append_add, BitVec.toNat_ofNat, BitVec.toNat_ofBool, BitVec.reduceToNat]
    omega
  have hh : (if t.held then t.holder else 0) % 8 = if t.held then t.holder % 8 else 0 := apply_ite (· % 8) _ _ _
  have h1 := hb t.poison
  have h2 := hb t.fpend
  have h3 := hb t.epset
  have h4 := hb t.eprs
  have h5 := hb t.held
  unfold StatusFields
  rw [hv, ← hh]
  generalize (if t.held then t.holder else 0) = holder
  omega

/-! ### Shifts and selections (R162, R163) -/

theorem shift_eq (e : AEnv) : e.shift = e.amount := by
  rw [AEnv.shift, AEnv.amount, s2_amount, s2_register]

theorem shiftSigned_eq (e : AEnv) : e.shiftSigned = e.arithmetic := by
  unfold AEnv.shiftSigned AEnv.arithmetic
  exact if_congr (by simp) rfl rfl

/-- An arithmetic shift by the width leaves copies of the sign. -/
theorem sshiftRight_width (x : DWord) : x.sshiftRight 64 = BitVec.ofInt 64 (if x.msb then -1 else 0) := by
  refine BitVec.eq_of_toInt_eq ?_
  have h := x.toInt_lt
  have h' := x.le_toInt
  rw [BitVec.toInt_sshiftRight, Int.shiftRight_eq_div_pow, BitVec.msb_eq_toInt]
  by_cases hn : x.toInt < 0
  · rw [decide_eq_true hn, if_pos rfl, BitVec.toInt_ofInt]
    simp only [Int.bmod]
    omega
  · rw [decide_eq_false hn, if_neg (by simp), BitVec.toInt_ofInt]
    simp only [Int.bmod]
    omega

theorem aShl_eq (e : AEnv) : aShl e = if 64 ≤ e.amount then 0 else e.s1 <<< e.amount := by
  rw [aShl, shift_eq]

theorem aShr_eq (e : AEnv) : aShr e = if e.arithmetic then
      (if 64 ≤ e.amount then BitVec.ofInt 64 (if e.s1.msb then -1 else 0) else e.s1.sshiftRight e.amount)
    else if 64 ≤ e.amount then 0 else e.s1 >>> e.amount := by
  rw [aShr, shift_eq, shiftSigned_eq]
  refine if_congr Iff.rfl ?_ rfl
  by_cases h : 64 ≤ e.amount
  · rw [if_pos h, Nat.min_eq_left h, sshiftRight_width]
  · rw [if_neg h, Nat.min_eq_right (Nat.le_of_not_le h)]

theorem aSel_eq (e : AEnv) : aSel e =
    if bit e.a.p (e.i.s2.toNat / 32 % 4) = bit e.i.s2 7 then e.a.reg (e.i.s2.toNat % 32) else e.s1 := by
  rw [aSel, s2_scale, s2_register]
  cases bit e.a.p (e.i.s2.toNat / 32 % 4) <;> cases bit e.i.s2 7 <;> rfl

theorem condA_eq (c : Nat) (x y : DWord) : condA c x y =
    if c = 6 then decide (x.toNat < y.toNat) else if c = 7 then decide (y.toNat ≤ x.toNat)
    else byCode c (decide (x = y)) (decide (x.toInt < y.toInt)) (decide (y.toInt < x.toInt)) := by
  unfold condA
  split
  case h_1 => rfl
  case h_2 => rfl
  case h_3 h6 h7 => rw [if_neg h6, if_neg h7, condInt_eq, decide_eq_decide.2 BitVec.toInt_inj]

theorem aCmp_eq (e : AEnv) : aCmp e =
    let c := e.i.d.toNat / 4
    let v := if c = 6 then decide (e.s1.toNat < e.s2.toNat) else if c = 7 then decide (e.s2.toNat ≤ e.s1.toNat)
      else byCode c (decide (e.s1 = e.s2)) (decide (e.s1.toInt < e.s2.toInt)) (decide (e.s2.toInt < e.s1.toInt))
    .ok e.base { e.a with p := setBit e.a.p (e.i.d.toNat % 4) v } 0 false := by
  dsimp only [aCmp]
  rw [condA_eq, d_low, d_high]

/-! ### AMOV (R164) -/

/-- What AMOV's body answers by its form. -/
theorem amov_issue : ∃ body : AWord → AEnv → ARes, (AForms.short .amov).Issue 0x09 body ∧ ∀ e : AEnv, (body e.i e).idle = false ∧
    (e.i.s2.toNat / 32 = 0 → body e.i e = valueBody (fun e => e.a.reg (e.i.s2.toNat % 32)) e.i e) ∧
    (e.i.s2.toNat / 32 = 1 → body e.i e =
      .ok e.base (e.a.setLoop (e.i.d.toNat % 4) ((e.a.reg (e.i.s2.toNat % 32)).setWidth 32)) 0 false) ∧
    (e.i.s2.toNat / 32 = 2 → body e.i e = valueBody (fun e => (e.a.loop (e.i.s2.toNat % 4)).setWidth 64) e.i e) := by
  refine ⟨_, issue_short fun _ _ => rfl, fun e => ⟨?idle, fun h => ?register, fun h => ?toLoop, fun h => ?fromLoop⟩⟩
  case idle => dsimp only; split <;> rfl
  case register => simp only [s2_form, s2_register, h]; rfl
  case toLoop => simp only [s2_form, s2_register, d_low, h]
  case fromLoop =>
    have hw (v : Word) : (v.setWidth 64).setWidth 32 = v := by simp
    simp only [s2_form, s2_loop, h, valueBody, hw]

/-! ### The rows of results -/

theorem aRows_issue : ∀ r ∈ aRows, r.Issues := by
  obtain ⟨amov, hamov, hb⟩ := amov_issue
  simp only [aRows, List.forall_mem_cons, List.not_mem_nil, false_imp_iff, implies_true, and_true]
  refine ⟨?_, ?_, ?_, ?_, ?_, ?_, ?ashl, ?ashr, ?amov, ?toLoop, ?fromLoop, ?amovi, ?amoviLong, ?amoviH, ?asel, ?qpush, ?qpop, ?as2a,
    ?tastat⟩
  case ashl => exact issues_of_value rfl (issue_both (fun _ _ => rfl) fun _ _ _ => rfl) aShl_eq
  case ashr => exact issues_of_value rfl (issue_both (fun _ _ => rfl) fun _ _ _ => rfl) aShr_eq
  case asel => exact issues_of_value rfl (issue_both (fun _ _ => rfl) fun _ _ _ => rfl) aSel_eq
  case amov => exact ⟨rfl, amov, hamov, fun e => have ⟨hi, h, _, _⟩ := hb e; ⟨hi, h⟩⟩
  case toLoop => exact ⟨rfl, amov, hamov, fun e => have ⟨hi, _, h, _⟩ := hb e; ⟨hi, h⟩⟩
  case fromLoop => exact ⟨rfl, amov, hamov, fun e => have ⟨hi, _, _, h⟩ := hb e; ⟨hi, h⟩⟩
  case amovi => exact issues_of_value rfl (issue_short fun _ _ => rfl) fun _ => rfl
  case amoviLong => exact issues_of_value rfl (issue_long fun _ _ _ => rfl) fun _ => rfl
  case amoviH =>
    refine issues_of_value rfl (issue_long fun _ _ _ => rfl) fun e => ?_
    rw [BitVec.setWidth_eq_extractLsb' (by decide)]
  case qpush => exact ⟨rfl, fun _ => aQpush, issue_both (fun _ _ => rfl) fun _ _ _ => rfl, fun _ => ⟨rfl, fun _ => rfl⟩⟩
  case qpop => exact issues_of_value rfl (issue_short fun _ _ => rfl) fun _ => rfl
  case as2a => exact issues_of_value rfl (issue_short fun _ _ => rfl) fun e => by rw [s2_whole]
  case tastat => exact issues_of_value rfl (issue_short fun _ _ => rfl) fun _ => rfl
  all_goals exact issues_of_value rfl (issue_both (fun _ _ => rfl) fun _ _ _ => rfl) fun _ => rfl

/-! ### The rows of program flow -/

theorem idle_ite {c : Prop} [Decidable c] {r r' : ARes} (h : r.idle = false) (h' : r'.idle = false) :
    (if c then r else r').idle = false := by
  split <;> assumption

/-- ABR's answer (R166). -/
theorem abr_issue : ∃ body : AWord → AEnv → ARes, (AForms.short .abr).Issue 0x10 body ∧ ∀ e : AEnv, body e.i e =
    if bit e.a.p (e.i.d.toNat % 4) = bit e.i.d 2 then .ok e.base e.a 0 false
    else .ok e.base { e.a with apc := e.a.apc + 4 * (e.i.s1 ++ e.i.s2).signExtend 32 } 0 true := by
  refine ⟨_, issue_short fun _ _ => rfl, fun e => ?_⟩
  dsimp only
  rw [d_low]
  cases bit e.a.p (e.i.d.toNat % 4) <;> cases bit e.i.d 2 <;> rfl

/-- AJMP's answer (R166, R230). -/
theorem ajmp_issue : ∃ body : AWord → AEnv → ARes, (AForms.short .ajmp).Issue 0x11 body ∧ ∀ e : AEnv, (body e.i e).idle = false ∧
    ((∀ n, e.a.mode ≠ .restoring n) → body e.i e =
      .ok e.base { e.a with apc := e.a.apc + 4 * (e.i.d ++ e.i.s1 ++ e.i.s2).signExtend 32 } 0 true) ∧
    ((∃ n, e.a.mode = .restoring n) → body e.i e =
      .ok e.base { e.a with apc := e.a.apc + 4 * (e.i.d ++ e.i.s1 ++ e.i.s2).signExtend 32, mode := .running } 0 true) := by
  refine ⟨_, issue_short fun _ _ => rfl, fun e => ⟨rfl, fun h => ?_, fun ⟨n, h⟩ => ?_⟩⟩
  · dsimp only
    split
    · exact absurd ‹_› (h _)
    · rfl
  · simp only [h]
    rfl

/-- ARET's answer (R166). -/
theorem aret_issue : ∃ body : AWord → AEnv → ARes, (AForms.short .aret).Issue 0x13 body ∧ ∀ e : AEnv, body e.i e =
    let t : Word := (e.a.reg e.i.s1.toNat).setWidth 32
    if t.toNat % 4 ≠ 0 then .trap .align (t.setWidth 64) else .ok e.base { e.a with apc := t } 0 true :=
  ⟨_, issue_short fun _ _ => rfl, fun _ => rfl⟩

/-- The alignment of a register's low word. -/
theorem low_aligned (x : DWord) : (x.setWidth 32).toNat % 4 = x.toNat % 4 := by
  rw [BitVec.toNat_setWidth]
  omega

/-- ALOOP's answer (R167). -/
theorem aloop_issue : ∃ body : AWord → AEnv → ARes, (AForms.short .aloop).Issue 0x14 body ∧ ∀ e : AEnv, body e.i e =
    let n := e.i.d.toNat % 4
    let c : Word := if e.a.loop n = 0 then 0 else e.a.loop n - 1
    if c = 0 then .ok e.base (e.a.setLoop n c) 0 false
    else .ok e.base { e.a.setLoop n c with apc := e.a.apc + 4 * (e.i.s1 ++ e.i.s2).signExtend 32 } 0 true := by
  refine ⟨_, issue_short fun _ _ => rfl, fun e => ?_⟩
  dsimp only
  rw [d_low]
  rfl

theorem aFlowRows_issue : ∀ r ∈ aFlowRows, r.Issues := by
  obtain ⟨abr, habr, babr⟩ := abr_issue
  obtain ⟨ajmp, hajmp, bajmp⟩ := ajmp_issue
  obtain ⟨aret, haret, baret⟩ := aret_issue
  obtain ⟨aloop, haloop, baloop⟩ := aloop_issue
  have iabr (e : AEnv) : (abr e.i e).idle = false := by rw [babr]; exact idle_ite rfl rfl
  have iaret (e : AEnv) : (aret e.i e).idle = false := by rw [baret]; exact idle_ite rfl rfl
  have ialoop (e : AEnv) : (aloop e.i e).idle = false := by rw [baloop]; exact idle_ite rfl rfl
  simp only [aFlowRows, List.forall_mem_cons, List.not_mem_nil, false_imp_iff, implies_true, and_true]
  refine ⟨?acmp, ?anop, ?stays, ?branches, ?jumps, ?ends, ?acall, ?returns, ?none, ?last, ?again⟩
  case acmp => exact ⟨rfl, fun _ => aCmp, issue_both (fun _ _ => rfl) fun _ _ _ => rfl, fun e => ⟨rfl, fun _ => aCmp_eq e⟩⟩
  case anop => exact ⟨rfl, _, issue_short fun _ _ => rfl, fun _ => ⟨rfl, fun _ => rfl⟩⟩
  case stays => exact ⟨rfl, abr, habr, fun e => ⟨iabr e, fun h => (babr e).trans (if_pos h)⟩⟩
  case branches => exact ⟨rfl, abr, habr, fun e => ⟨iabr e, fun h => (babr e).trans (if_neg h)⟩⟩
  case jumps => exact ⟨rfl, ajmp, hajmp, fun e => have ⟨hi, h, _⟩ := bajmp e; ⟨hi, h⟩⟩
  case ends => exact ⟨rfl, ajmp, hajmp, fun e => have ⟨hi, _, h⟩ := bajmp e; ⟨hi, h⟩⟩
  case acall => exact ⟨rfl, _, issue_short fun _ _ => rfl, fun _ => ⟨rfl, fun _ => rfl⟩⟩
  case returns =>
    refine ⟨rfl, aret, haret, fun e => ⟨iaret e, fun h => (baret e).trans (if_neg ?_)⟩⟩
    rw [not_not, low_aligned]
    exact h
  case none =>
    refine ⟨rfl, aloop, haloop, fun e => ⟨ialoop e, fun h => (baloop e).trans ?_⟩⟩
    simp only at h
    simp only [h, if_true]
  case last =>
    refine ⟨rfl, aloop, haloop, fun e => ⟨ialoop e, fun h => (baloop e).trans ?_⟩⟩
    simp only at h
    simp only [h]
    rfl
  case again =>
    refine ⟨rfl, aloop, haloop, fun e => ⟨ialoop e, fun h => (baloop e).trans ?_⟩⟩
    simp only at h
    have h0 : e.a.loop (e.i.d.toNat % 4) ≠ 0 := fun hz => by simp [hz] at h
    have h1 : e.a.loop (e.i.d.toNat % 4) - 1 ≠ 0 := by bv_omega
    simp only [if_neg h0, if_neg h1]
    rfl

end Sys2Proof.Laws

end

section
/-!
CLAIM. Obligation O24: the results of the A stream's arithmetic, moves, queue and status instructions, compares and branches.
-/

namespace Sys2Proof.Laws

open Sys2Proof.Machine

/-- Settles O24: each row's forms issue one body, whose effect is the row's (`aRows_issue`, `aFlowRows_issue`). -/
theorem accessResults : Obligations.AccessResults := by
  unfold Obligations.AccessResults
  refine ⟨⟨fun r hr => gives_of_aIssues (aRows_issue r hr), reg_setReg, loop_setLoop, status_fields⟩,
    fun r hr => gives_of_aIssues (aFlowRows_issue r hr), fun i s e hr => ?_⟩
  intro t ht
  obtain rfl := aReady_i hr
  obtain ⟨aret, haret, baret⟩ := aret_issue
  have hb : aret e.i e = .trap .align (t.setWidth 64) := (baret e).trans (if_pos ht)
  rw [exec_short haret, aIssue_ready hr (by rw [hb]; rfl), hb]
  rfl

end Sys2Proof.Laws

end

section
/-!
CLAIM. Obligation O25: the waits, SAFEOVER and the faults of popped tokens in the A stream.
-/

namespace Sys2Proof.Laws

open Sys2Proof.Machine

/-- Settles O25: every row's forms issue one body that never waits (`ARow.Issues`), so that the pop, SAFECNT and the token alone say
what stands before its effect. -/
theorem accessIssue : Obligations.AccessIssue := by
  unfold Obligations.AccessIssue
  intro r hr f hf p i s e0 h0 n
  obtain ⟨hop, body, hx, hb⟩ := (List.forall_mem_append.2 ⟨aRows_issue, aFlowRows_issue⟩) r hr
  obtain ⟨rfl, rfl, hop0⟩ := aEnv_fields h0
  rw [← hop0] at hop
  rw [hx f hf]
  refine ⟨fun hn hh hv => aIssue_unpopped h0 (aPopped_empty hn hh hv), aPopped_none, fun v l hn hh hv => ?pop, fun e hp => ?issue⟩
  case pop =>
    refine ⟨_, aPopped_oldest hn hh hv, rfl, fun x hn hx => acquired_of_scope hn hx, acquired_none⟩
  case issue =>
    intro beyond
    have hidle : (body e0.i e).idle = false := by
      have hi : e.i = e0.i := by rw [aPopped_eq hp]
      rw [← hi]
      exact (hb e).1
    have ha : e.a = e0.a := by rw [aPopped_eq hp]
    refine ⟨fun hover => ?_, fun hover hh hq => ?_⟩
    · rw [aIssue_overrun h0 hp hidle ((aOverrun_iff hp hop).2 hover), ha]
    · have ho : e.overrun = false := Bool.eq_false_of_not_eq_true fun ho => hover ((aOverrun_iff hp hop).1 ho)
      have hi : e.i.popq.toNat = n := by rw [aPopped_eq hp]
      have hcore : e0.g.core = e.g.core := by rw [aPopped_group hp]
      have hinfo : e0.g.ceInfo = e.g.ceInfo := by rw [aPopped_group hp]
      rw [← ha] at hh
      rw [hcore, hinfo]
      refine ⟨fun h6 => ?_, fun h7 => ?_⟩
      · obtain ⟨s1, ht, hs1, hcores⟩ := tokenFault_array hq hh (hi.trans h6)
        exact ⟨s1, aIssue_tokenFault h0 hp hidle ho ht, hs1, hcores⟩
      · exact aIssue_tokenFault h0 hp hidle ho (tokenFault_copy hq hh (hi.trans h7))

end Sys2Proof.Laws

end

section
/-!
SUPPORT. The accesses of the A stream (R168, R221, R384): the address, the check that stops it, and the four instructions' bodies, which
answer what stops them.
-/

namespace Sys2Proof.Machine

/-- The A stream's loads and stores: the forms, the opcode, whether the scratchpad is accessed, and what the access needs of its page. -/
def accessRows : List (AForms × Nat × Bool × Need) :=
  [(AForms.both .ald .aldLong, 0x20, false, .read), (AForms.both .alds .aldsLong, 0x22, true, .read),
   (AForms.both .ast .astLong, 0x21, false, .write), (AForms.both .asts .astsLong, 0x23, true, .write)]

end Sys2Proof.Machine

namespace Sys2Proof.Laws

open Sys2Proof.Machine

/-! ### Sizes and addresses -/

theorem accessSize_eq (e : AEnv) : e.size = 2 ^ (e.i.s2.toNat / 256) := by
  have := e.i.s2.isLt
  rw [AEnv.size, s2bits_eq, Nat.mod_eq_of_lt (by omega)]
  rfl

theorem accessSize_cases (e : AEnv) : e.size = 1 ∨ e.size = 2 ∨ e.size = 4 ∨ e.size = 8 := by
  have := e.i.s2.isLt
  have hk : e.i.s2.toNat / 256 < 4 := by omega
  rw [accessSize_eq]
  interval_cases e.i.s2.toNat / 256 <;> simp

theorem accessAddr_eq (e : AEnv) : e.addr = e.a.reg e.i.s1.toNat +
    (if e.p.iuse = 1 then e.p.imm32.signExtend 64
     else if bit e.i.s2 7 then BitVec.ofNat 64 ((e.a.reg (e.i.s2.toNat % 32)).toNat * 2 ^ (e.i.s2.toNat / 32 % 4))
     else BitVec.ofInt 64 ((e.i.s2.setWidth 7).toInt * ((2 ^ (e.i.s2.toNat / 256) : Nat) : Int))) := by
  unfold AEnv.addr
  rw [s2_register, s2_scale, accessSize_eq, BitVec.ofNat_mul, BitVec.ofNat_toNat, BitVec.setWidth_eq, BitVec.ofInt_mul,
    BitVec.ofInt_natCast, BitVec.setWidth_eq_extractLsb' (by decide)]
  rfl

/-! ### What the check of an access answers -/

section
variable (e : AEnv) (need : Need)

theorem place_misaligned (pad : Bool) (h : e.addr.toNat % e.size ≠ 0) : e.place pad need = .error (.trap .align e.addr) := if_pos h

variable {e} (h : e.addr.toNat % e.size = 0)
include h

theorem place_pad : e.place true need = match e.g.spPlace e.addr.toNat e.size with
    | some _ => .ok (e.base, .pad e.g.uid e.addr.toNat)
    | none => .error (.trap .prot e.addr) := by
  unfold AEnv.place
  dsimp only
  cases e.g.spPlace e.addr.toNat e.size <;> exact (if_neg (not_not.2 h)).trans (if_pos rfl)

/-- A global access past 2^52, untranslated, on a page without the permission, or at its page. -/
theorem place_global :
    let x := e.addr
    let t := e.base.translate e.g.core e.g.tenant e.g.asid x.toNat
    (2 ^ 52 ≤ x.toNat → e.place false need = .error (.trap .prot x)) ∧
    (x.toNat < 2 ^ 52 →
      (∀ k, t.2 = .error k → e.place false need = .error (.park t.1 x.toNat k)) ∧
      ∀ q, t.2 = .ok q → (q.allows need = true → e.place false need = .ok (t.1, .glob q)) ∧
        (q.allows need = false → e.place false need = .error (.trap .prot x))) := by
  intro x t
  unfold AEnv.place State.checkGlobal
  dsimp only
  rw [if_neg (not_not.2 h), if_neg (not_not.2 h), if_neg (by simp)]
  refine ⟨fun hx => by rw [if_pos hx]; rfl, fun hx => ?_⟩
  rw [if_neg (Nat.not_le.2 hx)]
  refine ⟨fun k hk => ?_, fun q hq => ⟨fun ha => ?_, fun ha => ?_⟩⟩
  · simp only [show (e.base.translate e.g.core e.g.tenant e.g.asid e.addr.toNat).2 = .error k from hk, if_true]
    rfl
  · simp only [show (e.base.translate e.g.core e.g.tenant e.g.asid e.addr.toNat).2 = .ok q from hq, ha, if_true]
    rfl
  · simp only [show (e.base.translate e.g.core e.g.tenant e.g.asid e.addr.toNat).2 = .ok q from hq, ha, Bool.false_eq_true, if_false]
    rfl

end

/-! ### What stops an access -/

theorem aLoad_stopped {e : AEnv} {pad : Bool} {r : ARes} (h : e.place pad .read = .error r) : aLoad pad e = r := by
  simp only [aLoad, h]

theorem aStore_stopped {e : AEnv} {pad : Bool} {r : ARes} (h : e.place pad .write = .error r) : aStore pad e = r := by
  simp only [aStore, h]

/-- The forms of each access issue one body, which answers what the check does where that stops the access. -/
theorem accessRows_issue : ∀ f ∈ accessRows, ∃ body : AEnv → ARes, f.1.Issue f.2.1 (fun _ => body) ∧
    ∀ e r, e.place f.2.2.1 f.2.2.2 = .error r → body e = r := by
  simp only [accessRows, List.forall_mem_cons, List.not_mem_nil, false_imp_iff, implies_true, and_true]
  refine ⟨?ald, ?alds, ?ast, ?asts⟩
  case ald => exact ⟨aLoad false, issue_both (fun _ _ => rfl) fun _ _ _ => rfl, fun _ _ => aLoad_stopped⟩
  case alds => exact ⟨aLoad true, issue_both (fun _ _ => rfl) fun _ _ _ => rfl, fun _ _ => aLoad_stopped⟩
  case ast => exact ⟨aStore false, issue_both (fun _ _ => rfl) fun _ _ _ => rfl, fun _ _ => aStore_stopped⟩
  case asts => exact ⟨aStore true, issue_both (fun _ _ => rfl) fun _ _ _ => rfl, fun _ _ => aStore_stopped⟩

section
variable {op : Nat} {p : Option APrefix} {i : AWord} {s : State} {e : AEnv} {body : AEnv → ARes} (hr : s.aReady op p i = some e)
include hr

theorem aTraps_of_trap {c : Cause} {v : DWord} (hb : body e = .trap c v) : aIssue op p i s body = .next (e.trap c v) := by
  rw [aIssue_ready hr (by rw [hb]; rfl), hb]
  rfl

/-- An access without a translation parks its context, its popped entry kept, and queues the fault (R221, R384). -/
theorem aParks_of_park {t : State} {va k : Nat} (hb : body e = .park t va k) (hg : t.group? e.g.uid = some e.g) :
    ∃ u, aIssue op p i s body = .next u ∧ u.group? e.g.uid = some { e.g with a := { e.a with
      held := if e.i.popq = 0 then none else some e.q, parked := some (Park.mk e.g.asid va k 3) } } ∧ u.FaultWaits e.g va := by
  have hq : (t.queueFault e.g va k 3).group? e.g.uid = some e.g := hg
  refine ⟨_, aIssue_ready hr (by rw [hb]; rfl), ?_⟩
  rw [hb]
  dsimp only [AEnv.conclude]
  rw [setA_of_group hq]
  exact ⟨setGroup_self _ _, faultWaits_setGroup (queueFault_waits _ _ _ _ _)⟩

end

/-- The A stream's group stands, after reads alone, as the instruction has put it. -/
theorem agroup_of_warmed {e : AEnv} {s : State} (h : Warmed e.base s) : s.group? e.g.uid = some e.g := by
  unfold State.group?
  rw [h.rest]
  exact setGroup_self _ _

end Sys2Proof.Laws

end

section
/-!
CLAIM. Obligation O29: where an A access goes and which check stops it.
-/

namespace Sys2Proof.Laws

open Sys2Proof.Machine

/-- Settles O29: the check's answers are `place_misaligned`, `place_pad` and `place_global`, and what stops an access is its body's answer
(`accessRows_issue`). -/
theorem accessAddresses : Obligations.AccessAddresses := by
  unfold Obligations.AccessAddresses
  intro f hf m hm p i s e hr n off x go
  obtain rfl := aReady_i hr
  obtain ⟨body, hissue, hstop⟩ := accessRows_issue f hf
  have hx : e.addr = x := accessAddr_eq e
  have hn : e.size = n := accessSize_eq e
  have hexec := hissue m hm p e.i s
  have traps {c : Cause} {v : DWord} (h : e.place f.2.2.1 f.2.2.2 = .error (.trap c v)) : go (e.trap c v) :=
    hexec.trans (aTraps_of_trap hr (hstop e _ h))
  rw [← hx, ← hn]
  refine ⟨fun hal => traps (place_misaligned e _ _ hal), fun hal hpad => ?pad, fun hal hglobal => ?global⟩
  case pad =>
    have hplace := place_pad f.2.2.2 hal
    rw [hpad] at traps
    refine ⟨fun hnone => traps (by rw [hplace, hnone]), fun hsome => ?_⟩
    obtain ⟨_, hsp⟩ := Option.ne_none_iff_exists'.1 hsome
    rw [hplace, hsp]
  case global =>
    obtain ⟨hbeyond, hwithin⟩ := place_global f.2.2.2 hal
    rw [hglobal] at traps hstop
    refine ⟨fun h => traps (hbeyond h), fun h => ?_⟩
    intro t
    obtain ⟨herror, hok⟩ := hwithin h
    refine ⟨fun k hk => ?_, fun q hq => ⟨(hok q hq).1, fun ha => traps ((hok q hq).2 ha)⟩⟩
    obtain ⟨u, hu, hgroup, hwaits⟩ := aParks_of_park hr (hstop e _ (herror k hk)) (agroup_of_warmed (translate_warmed _ _ _ _ _))
    exact ⟨u, hexec.trans hu, hgroup, hwaits⟩

end Sys2Proof.Laws

end

section
/-!
SUPPORT. Ordinary stores of one access: to global memory with its side effect, and to a group's scratchpad space byte by byte, what they
change is what they name (`StoredOnly`).
-/

namespace Sys2Proof.Machine

/-- One byte of a group's scratchpad space written. -/
def State.spPut (s : State) (g : Group) (a : Nat) (b : Byte) : State :=
  match g.spPlace a 1 with
  | some .alloc => s.setGroup { g with smem := SMap.set 0 g.smem a b }
  | some (.window o) => s.setCore g.core { s.core g.core with ta := (s.core g.core).ta.winPut o b }
  | none => s

/-- The bytes of a run in one group's scratchpad space. -/
def padRun (uid a n u x : Nat) : Prop := u = uid ∧ a ≤ x ∧ x < a + n

end Sys2Proof.Machine

namespace Sys2Proof.Laws

open Sys2Proof.Machine

/-! ### Groups that differ in scratchpads and side effects alone -/

theorem sameGroups_of_eq {s t : State} (h : ∀ uid, t.group? uid = s.group? uid) : SameGroups s t := fun uid => by
  rw [h]
  cases s.group? uid with
  | none => trivial
  | some g => rfl

theorem sameGroups_at {s t : State} (h : SameGroups s t) {uid : Nat} {g : Group} (hg : s.group? uid = some g) :
    ∃ g', t.group? uid = some g' ∧ g' = { g with smem := g'.smem, side := g'.side } := by
  have hu := h uid
  rw [hg] at hu
  cases ht : t.group? uid with
  | none => rw [ht] at hu; exact hu.elim
  | some g' => rw [ht] at hu; exact ⟨g', rfl, hu⟩

theorem sameGroups_back {s t : State} (h : SameGroups s t) {uid : Nat} {g' : Group} (hg : t.group? uid = some g') :
    ∃ g, s.group? uid = some g ∧ g' = { g with smem := g'.smem, side := g'.side } := by
  have hu := h uid
  rw [hg] at hu
  cases hs : s.group? uid with
  | none => rw [hs] at hu; exact hu.elim
  | some g => rw [hs] at hu; exact ⟨g, rfl, hu⟩

theorem sameGroups_trans {s t u : State} (h1 : SameGroups s t) (h2 : SameGroups t u) : SameGroups s u := fun uid => by
  cases hs : s.group? uid with
  | none =>
    cases hu : u.group? uid with
    | none => trivial
    | some g' =>
      obtain ⟨x, hx, -⟩ := sameGroups_back h2 hu
      obtain ⟨y, hy, -⟩ := sameGroups_back h1 hx
      rw [hs] at hy
      cases hy
  | some g =>
    obtain ⟨x, hx, hgx⟩ := sameGroups_at h1 hs
    obtain ⟨y, hy, hxy⟩ := sameGroups_at h2 hx
    rw [hy]
    change y = _
    rw [hxy, hgx]

/-! ### Stores one after another -/

theorem storedOnly_refl (s : State) (P : Nat → Prop) (Q : Nat → Nat → Prop) : StoredOnly s s P Q where
  rest := rfl
  bytes := sameBytes_refl s P
  posters _ _ := rfl
  groups := sameGroups_of_eq fun _ => rfl
  pads uid g g' hg hg' a _ := by rw [hg] at hg'; cases hg'; rfl
  cores _ := rfl
  window _ _ _ := rfl

theorem storedOnly_trans {s t u : State} {P : Nat → Prop} {Q : Nat → Nat → Prop} (h1 : StoredOnly s t P Q) (h2 : StoredOnly t u P Q) :
    StoredOnly s u P Q where
  rest := by rw [h2.rest, h1.rest]
  bytes := sameBytes_trans h1.bytes h2.bytes
  posters k hk := (h2.posters k hk).trans (h1.posters k hk)
  groups := sameGroups_trans h1.groups h2.groups
  pads uid g g'' hg hg'' a ha := by
    obtain ⟨g', hg', -⟩ := sameGroups_at h1.groups hg
    exact (h2.pads uid g' g'' hg' hg'' a ha).trans (h1.pads uid g g' hg hg' a ha)
  cores c := by rw [h2.cores, h1.cores]
  window c o ho := by
    refine (h2.window c o fun uid g' hg' hc => ?_).trans (h1.window c o ho)
    obtain ⟨g, hg, hx⟩ := sameGroups_back h1.groups hg'
    exact ho uid g hg (by rw [hx] at hc; exact hc)

theorem storedOnly_mono {s t : State} {P : Nat → Prop} {Q R : Nat → Nat → Prop} (h : StoredOnly s t P Q) (hqr : ∀ u a, Q u a → R u a) :
    StoredOnly s t P R where
  rest := h.rest
  bytes := h.bytes
  posters := h.posters
  groups := h.groups
  pads uid g g' hg hg' a ha := h.pads uid g g' hg hg' a fun hq => ha (hqr _ _ hq)
  cores := h.cores
  window c o ho := h.window c o fun uid g hg hc hq => ho uid g hg hc (hqr _ _ hq)

/-- The window's offset of a scratchpad address (R175). -/
theorem spPlace_window {g : Group} {a n o : Nat} (h : g.spPlace a n = some (.window o)) : 0x200000 + o = a := by
  unfold Group.spPlace at h
  split at h
  · simp at h
  · split at h
    · rename_i hw
      obtain ⟨hle, -⟩ := hw
      simp only [Option.some.injEq, SpPlace.window.injEq] at h
      rw [← h, Nat.add_sub_cancel' hle]
    · simp at h

/-- A byte that no store names reads as before. -/
theorem storedOnly_spByte {s t : State} {P : Nat → Prop} {Q : Nat → Nat → Prop} (h : StoredOnly s t P Q) {uid : Nat} {g g' : Group}
    (hg : s.group? uid = some g) (hg' : t.group? uid = some g') {a : Nat} (ha : ∀ u, ¬ Q u a) : t.spByte g' a = s.spByte g a := by
  obtain ⟨x, hx, hgx⟩ := sameGroups_at h.groups hg
  cases hg'.symm.trans hx
  have hplace : g'.spPlace a 1 = g.spPlace a 1 := by rw [hgx]; rfl
  have hcore : g'.core = g.core := by rw [hgx]
  unfold State.spByte
  rw [hplace, hcore]
  split
  · exact h.pads uid g g' hg hg' a (ha uid)
  · rename_i o ho
    have hoff := spPlace_window ho
    exact h.window g.core o fun u _ _ _ => by rw [hoff]; exact ha u
  · rfl

/-- A group's scratchpad and side-effect count replaced. -/
theorem storedOnly_setGroup {s : State} {g g' : Group} (hg : s.group? g.uid = some g)
    (hx : g' = { g with smem := g'.smem, side := g'.side }) {P : Nat → Prop} {Q : Nat → Nat → Prop}
    (hp : ∀ a, ¬ Q g.uid a → SMap.get 0 g'.smem a = SMap.get 0 g.smem a) : StoredOnly s (s.setGroup g') P Q := by
  have hu : g'.uid = g.uid := by rw [hx]
  have hself : (s.setGroup g').group? g.uid = some g' := by rw [← hu]; exact setGroup_self s g'
  have hother {uid : Nat} (h : uid ≠ g.uid) : (s.setGroup g').group? uid = s.group? uid := setGroup_other s g' (by rw [hu]; exact h)
  refine ⟨rfl, fun _ _ _ => rfl, fun _ _ => rfl, fun uid => ?_, fun uid x x' h1 h2 a ha => ?_, fun _ => rfl, fun _ _ _ => rfl⟩
  · by_cases h : uid = g.uid
    · rw [h, hg, hself]
      exact hx
    · rw [hother h]
      exact sameGroups_of_eq (s := s) (fun _ => rfl) uid
  · by_cases h : uid = g.uid
    · subst h
      cases hg.symm.trans h1
      cases hself.symm.trans h2
      exact hp a ha
    · rw [hother h, h1] at h2
      cases h2
      rfl

/-! ### Stores to global memory -/

theorem gStore_frame (s : State) (c tn sc : Nat) (p : Page) (n v : Nat) : StoreFrame s (s.gStore c tn sc p n v) := by
  unfold State.gStore
  dsimp only
  split
  · rfl
  · split
    · rw [dieStore_frame]; rfl
    · rw [writeThrough_frame]; rfl

theorem dieStore_cores (s : State) (c k ln : Nat) (cp : Bool) (mask : BitVec 128) (x : BitVec 1024) :
    (s.dieStore c k ln cp mask x).cores = s.cores := by
  unfold State.dieStore
  split
  · rfl
  · exact devStore_cores s k ln mask x

/-- A store changes the L1 of its core and no more of any core. -/
theorem gStore_core (s : State) (c tn sc : Nat) (p : Page) (n v c' : Nat) :
    ∃ l, (s.gStore c tn sc p n v).core c' = { s.core c' with l1 := l } := by
  have hset (l : Line) : ∃ m, ((s.setL1Line c (p.pa / 128) l).unmarkLine (p.pa / 128) (byteMask (p.pa % 128) n)).core c' =
      { s.core c' with l1 := m } := by
    change ∃ m, (s.setL1Line c (p.pa / 128) l).core c' = _
    unfold State.setL1Line
    rw [core_setCore]
    split
    · rename_i h
      subst h
      exact ⟨_, rfl⟩
    · exact ⟨_, rfl⟩
  unfold State.gStore
  dsimp only
  split
  · exact hset _
  · unfold State.core at hset ⊢
    split
    · rw [dieStore_cores]; exact hset _
    · rw [writeThrough_cores]; exact hset _

theorem gStore_storedOnly (s : State) (c tn sc : Nat) (p : Page) (n v : Nat) (h : p.pa % 128 + n ≤ 128) (Q : Nat → Nat → Prop) :
    StoredOnly s (s.gStore c tn sc p n v) (inAccess p n) Q := by
  have hframe := gStore_frame s c tn sc p n v
  have hgroup (uid : Nat) : (s.gStore c tn sc p n v).group? uid = s.group? uid := by
    unfold State.group?
    rw [(gStore_kept s c tn sc p n v).1]
  refine ⟨by rw [hframe], gStore_others s c tn sc p n v h, fun k _ => by rw [hframe], sameGroups_of_eq hgroup,
    fun uid g g' hg hg' a _ => ?_, fun c' => ?_, fun c' o _ => ?_⟩
  · rw [hgroup, hg] at hg'
    cases hg'
    rfl
  · obtain ⟨l, hl⟩ := gStore_core s c tn sc p n v c'
    rw [hl]
  · obtain ⟨l, hl⟩ := gStore_core s c tn sc p n v c'
    rw [hl]

theorem wroteRing_storedOnly (s : State) (uid : Nat) {p : Page} {n : Nat} (hn : 0 < n) (Q : Nat → Nat → Prop) :
    StoredOnly s (s.wroteRing uid p n) (inAccess p n) Q := by
  have hsame {t : State} (h : t = { s with qi := { s.qi with posters := t.qi.posters } }) (hp : ∀ k, p.pa / 64 ≠ k →
      SMap.find t.qi.posters k = SMap.find s.qi.posters k) : StoredOnly s t (inAccess p n) Q := by
    have hgroup (u : Nat) : t.group? u = s.group? u := by unfold State.group?; rw [h]
    have hcore (c : Nat) : t.core c = s.core c := by unfold State.core; rw [h]
    refine ⟨by rw [h], fun v a _ => ?_, fun k hk => hp k (hk p.pa ⟨Nat.le_refl _, by omega⟩), sameGroups_of_eq hgroup,
      fun u g g' hg hg' a _ => ?_, fun c => by rw [hcore], fun c o _ => by rw [hcore]⟩
    · rw [h]
      rfl
    · rw [hgroup, hg] at hg'
      cases hg'
      rfl
  unfold State.wroteRing
  split
  · exact hsame rfl fun k hk => find_put_other _ _ (Ne.symm hk)
  · exact hsame rfl fun _ _ => rfl

/-- One write of a resident group to a page, with its side effect where that is a RING page (R235). -/
theorem wroteOne_spec {s : State} {g : Group} (hg : s.group? g.uid = some g) (p : Page) {n : Nat} (hn : 0 < n) (Q : Nat → Nat → Prop) :
    StoredOnly s (s.wroteOne g.uid p n) (inAccess p n) Q ∧
    (s.wroteOne g.uid p n).group? g.uid = some (if p.kind = 2 then g.sideUp else g) ∧
    ∀ v a, (s.wroteOne g.uid p n).levelByte v a = s.levelByte v a := by
  have hring : (s.wroteRing g.uid p n).group? g.uid = some g := by
    unfold State.group?
    rw [wroteRing_groups]
    exact hg
  unfold State.wroteOne
  split
  · rw [sideEffect_of_group hring]
    refine ⟨storedOnly_trans (wroteRing_storedOnly s _ hn Q) (storedOnly_setGroup hring rfl fun _ _ => rfl), setGroup_self _ g.sideUp,
      fun v a => ?_⟩
    change (s.wroteRing g.uid p n).levelByte v a = _
    unfold State.wroteRing
    split <;> rfl
  · exact ⟨storedOnly_refl s _ Q, hg, fun _ _ => rfl⟩

/-! ### The visible bank (R175) -/

theorem winByte_toNat (t : TritArray) (o : Nat) :
    (t.winByte o).toNat = (SMap.get 0 t.visible (o / 4)).toNat / 256 ^ (o % 4) % 256 := by
  rw [TritArray.winByte, BitVec.extractLsb'_toNat, Nat.shiftRight_eq_div_pow, pow_mul]
  norm_num

theorem winByte_winPut (t : TritArray) (o k : Nat) (b : Byte) : (t.winPut o b).winByte k = if k = o then b else t.winByte k := by
  refine BitVec.eq_of_toNat_eq ?_
  rw [winByte_toNat, apply_ite BitVec.toNat, winByte_toNat]
  unfold TritArray.winPut
  dsimp only
  rw [get_set]
  by_cases hw : k / 4 = o / 4
  · rw [if_pos hw, hw, BitVec.toNat_ofNat]
    have hb := b.isLt
    have hv := (SMap.get 0 t.visible (o / 4)).isLt
    generalize (SMap.get 0 t.visible (o / 4)).toNat = v at hv
    generalize b.toNat = x at hb
    have hk4 : k % 4 < 4 := Nat.mod_lt _ (by omega)
    have ho4 : o % 4 < 4 := Nat.mod_lt _ (by omega)
    have hko : k = o ↔ k % 4 = o % 4 := by omega
    simp only [hko]
    generalize k % 4 = i at hk4
    generalize o % 4 = j at ho4
    interval_cases j <;> interval_cases i <;> norm_num <;> omega
  · rw [if_neg hw, if_neg fun h => hw (by rw [h])]

/-! ### Stores to a scratchpad space -/

/-- A byte of the window written, which the store names in the group's space. -/
theorem winPut_storedOnly {s : State} {g : Group} (hg : s.group? g.uid = some g) (o : Nat) (b : Byte) (P : Nat → Prop) {Q : Nat → Nat → Prop}
    (hq : Q g.uid (0x200000 + o)) :
    StoredOnly s (s.setCore g.core { s.core g.core with ta := (s.core g.core).ta.winPut o b }) P Q := by
  refine ⟨rfl, fun v x _ => levelByte_of_lines (s := s) (t := s.setCore _ _) (fun c => ?_) (fun _ => rfl) rfl rfl rfl v x, fun _ _ => rfl,
    sameGroups_of_eq fun _ => rfl, fun uid x x' h1 h2 _ _ => ?_, fun c => ?_, fun c k hk => ?_⟩
  · rw [core_setCore]
    split
    · rename_i h
      rw [h]
    · rfl
  · cases h1.symm.trans h2
    rfl
  · rw [core_setCore]
    split
    · rename_i h
      rw [h]
      rfl
    · rfl
  · rw [core_setCore]
    split
    · rename_i h
      subst h
      refine (winByte_winPut _ _ _ _).trans (if_neg fun h => hk g.uid g hg rfl ?_)
      rw [h]
      exact hq
    · rfl

/-- A byte written in a group's scratchpad space: it alone changes, and where it has a place it reads back. -/
theorem spPut_spec {s : State} {g : Group} (hg : s.group? g.uid = some g) (a : Nat) (b : Byte) (P : Nat → Prop) :
    StoredOnly s (s.spPut g a b) P (padRun g.uid a 1) ∧
    ∃ g', (s.spPut g a b).group? g.uid = some g' ∧ g' = { g with smem := g'.smem } ∧
      (g.spPlace a 1 ≠ none → (s.spPut g a b).spByte g' a = b) := by
  have hsp (t : State) (m : SMap Byte) : t.spByte { g with smem := m } a = match g.spPlace a 1 with
      | some .alloc => SMap.get 0 m a
      | some (.window o) => (t.core g.core).ta.winByte o
      | none => 0 := rfl
  unfold State.spPut
  cases hp : g.spPlace a 1 with
  | none => exact ⟨storedOnly_refl s P _, g, hg, rfl, fun h => absurd rfl h⟩
  | some pl =>
    cases pl with
    | alloc =>
      dsimp only
      refine ⟨storedOnly_setGroup hg rfl fun x hx => get_set_other _ _ _ fun h => hx ⟨rfl, by omega⟩, _,
        setGroup_self s { g with smem := SMap.set 0 g.smem a b }, rfl, fun _ => ?_⟩
      rw [hsp, hp]
      exact get_set_self _ _ _ _
    | window o =>
      dsimp only
      have hoff := spPlace_window hp
      refine ⟨winPut_storedOnly hg o b P ⟨rfl, by omega⟩, g, hg, rfl, fun _ => (hsp _ g.smem).trans ?_⟩
      rw [hp]
      dsimp only
      rw [core_setCore, if_pos rfl]
      exact (winByte_winPut _ _ _ _).trans (if_pos rfl)

theorem spPuts_cons {s : State} {g : Group} (hg : s.group? g.uid = some g) (a : Nat) (b : Byte) (bs : List Byte) :
    s.spPuts g.uid a (b :: bs) = (s.spPut g a b).spPuts g.uid (a + 1) bs := by
  simp only [State.spPuts, hg]
  rfl

/-- A run of bytes written to a group's scratchpad space: they alone change, and where they have a place they read back. -/
theorem spPuts_spec {s : State} {g : Group} (hg : s.group? g.uid = some g) (a : Nat) (bs : List Byte) (P : Nat → Prop) :
    StoredOnly s (s.spPuts g.uid a bs) P (padRun g.uid a bs.length) ∧
    ∃ g', (s.spPuts g.uid a bs).group? g.uid = some g' ∧ g' = { g with smem := g'.smem } ∧
      ∀ k b, bs[k]? = some b → g.spPlace (a + k) 1 ≠ none → (s.spPuts g.uid a bs).spByte g' (a + k) = b := by
  induction bs generalizing s g a with
  | nil => exact ⟨storedOnly_refl s P _, g, hg, rfl, fun k b h => by cases h⟩
  | cons b bs ih =>
    obtain ⟨hput, g1, hg1, hx1, hread⟩ := spPut_spec hg a b P
    have hu : g1.uid = g.uid := by rw [hx1]
    have hplace (x : Nat) : g1.spPlace x 1 = g.spPlace x 1 := by rw [hx1]; rfl
    rw [← hu] at hg1
    obtain ⟨hputs, g2, hg2, hx2, hreads⟩ := ih hg1 (a + 1)
    rw [hu] at hputs hg2 hreads hg1
    rw [spPuts_cons hg]
    refine ⟨storedOnly_trans (storedOnly_mono hput ?_) (storedOnly_mono hputs ?_), g2, hg2, by rw [hx2, hx1], fun k c hk hp => ?_⟩
    · rintro u x ⟨rfl, h⟩
      exact ⟨rfl, by rw [List.length_cons]; omega⟩
    · rintro u x ⟨rfl, h⟩
      exact ⟨rfl, by rw [List.length_cons]; omega⟩
    · cases k with
      | zero =>
        cases hk
        rw [storedOnly_spByte hputs hg1 hg2 fun u ⟨_, h, _⟩ => by omega]
        exact hread hp
      | succ k =>
        rw [show a + (k + 1) = a + 1 + k by ring] at hp ⊢
        exact hreads k c hk (by rw [hplace]; exact hp)

end Sys2Proof.Laws

end

section
/-!
SUPPORT. The A stream's loads and stores where their checks pass (R168, R263, R381), and AFENCE's fields (R169).
-/

namespace Sys2Proof.Laws

open Sys2Proof.Machine

/-! ### The page of a translation -/

theorem pageOf_low (pte : DWord) (size : PageSize) (va : Nat) : (pageOf pte size va).pa % 256 = va % 256 := by
  unfold pageOf ptePA
  cases size <;> simp only [PageSize.bytes] <;> omega

theorem fillTlbs_low {s : State} {c asid va : Nat} {r : WalkResult} {die : Bool} {q : Page}
    (h : (s.fillTlbs c asid va r die).2 = .ok q) : q.pa % 256 = va % 256 := by
  unfold State.fillTlbs at h
  cases r with
  | fault k => cases h
  | leaf pte size =>
    cases h
    exact pageOf_low pte size va

/-- A translation keeps an address's low bits (R377, R378). -/
theorem translate_low {s : State} {c tn asid va : Nat} {q : Page} (h : (s.translate c tn asid va).2 = .ok q) :
    q.pa % 256 = va % 256 := by
  unfold State.translate at h
  dsimp only at h
  split at h
  · cases h
    exact pageOf_low _ _ _
  · split at h
    · exact fillTlbs_low h
    · split at h <;> exact fillTlbs_low h

/-! ### The place of an access that passes its checks -/

theorem place_ok {e : AEnv} {pad : Bool} {need : Need} {s0 : State} {pl : Place} (h : e.place pad need = .ok (s0, pl)) :
    Warmed e.base s0 ∧ ((∃ q, pl = .glob q ∧ q.pa % e.size = 0) ∨
      (pl = .pad e.g.uid e.addr.toNat ∧ e.g.spPlace e.addr.toNat e.size ≠ none)) := by
  by_cases hal : e.addr.toNat % e.size = 0
  · cases pad with
    | true =>
      rw [place_pad need hal] at h
      split at h
      · cases h
        exact ⟨warmed_refl _, .inr ⟨rfl, by simp only [*]; simp⟩⟩
      · cases h
    | false =>
      obtain ⟨hbeyond, hwithin⟩ := place_global need hal
      rcases Nat.lt_or_ge e.addr.toNat (2 ^ 52) with hx | hx
      · obtain ⟨herror, hok⟩ := hwithin hx
        cases ht : (e.base.translate e.g.core e.g.tenant e.g.asid e.addr.toNat).2 with
        | error k => rw [herror k ht] at h; cases h
        | ok q =>
          obtain ⟨hallow, hdeny⟩ := hok q ht
          cases ha : q.allows need with
          | false => rw [hdeny ha] at h; cases h
          | true =>
            rw [hallow ha] at h
            cases h
            refine ⟨translate_warmed _ _ _ _ _, .inl ⟨q, rfl, ?_⟩⟩
            have hlow := translate_low ht
            rcases accessSize_cases e with hn | hn | hn | hn <;> rw [hn] at hal ⊢ <;> omega
      · rw [hbeyond hx] at h
        cases h
  · rw [place_misaligned e need pad hal] at h
    cases h

/-- An aligned access lies in one line. -/
theorem access_in_line {e : AEnv} {q : Page} (h : q.pa % e.size = 0) : q.pa % 128 + e.size ≤ 128 ∧ 0 < e.size := by
  rcases accessSize_cases e with hn | hn | hn | hn <;> rw [hn] at h ⊢ <;> omega

/-- Each byte of an access in a group's space has a place there. -/
theorem spPlace_byte {g : Group} {a n k : Nat} (h : g.spPlace a n ≠ none) (hk : k < n) : g.spPlace (a + k) 1 ≠ none := by
  unfold Group.spPlace at h ⊢
  split at h
  · rw [if_pos (by omega)]
    simp
  · split at h
    · rename_i hw
      obtain ⟨hlo, hhi, hring⟩ := hw
      split
      · simp
      · rw [if_pos ⟨by omega, by omega, hring⟩]
        simp
    · exact absurd rfl h

theorem placeRead_warmed (s : State) (g : Group) (sc n : Nat) (pl : Place) : Warmed s (s.placeRead g sc n pl).1 := by
  cases pl with
  | glob p => exact gLoad_warmed _ _ _ _ _ _
  | pad uid a => exact warmed_refl s
  | away => exact warmed_refl s

theorem aPre_warmed (e : AEnv) (s : State) (sem : BitVec 2) (sc : Nat) : Warmed s (e.pre s sem sc) := by
  unfold AEnv.pre
  split
  · exact release_warmed _ _ _ _
  · exact warmed_refl s

theorem aPost_warmed (e : AEnv) (s : State) (sem : BitVec 2) (sc : Nat) : Warmed s (e.post s sem sc) := by
  unfold AEnv.post
  split
  · exact acquire_warmed _ _ _
  · exact warmed_refl s

/-! ### The bodies where the check passes -/

section
variable {e : AEnv} {pad : Bool} {s0 : State}

theorem aLoad_placed {pl : Place} (h : e.place pad .read = .ok (s0, pl)) :
    let r := s0.placeRead e.g e.p.scope.toNat e.size pl
    aLoad pad e = .ok (e.post r.1 e.p.sem e.p.scope.toNat) (e.a.setReg e.i.d.toNat (BitVec.ofNat 64 r.2)) (BitVec.ofNat 32 r.2) false := by
  intro r
  have hw : (BitVec.ofNat 64 r.2).setWidth 32 = BitVec.ofNat 32 r.2 := BitVec.setWidth_ofNat_of_le (by decide) _
  simp only [aLoad, h]
  rw [← hw]

theorem aStore_global {q : Page} (h : e.place pad .write = .ok (s0, .glob q)) : aStore pad e =
    .ok (((e.pre s0 e.p.sem e.p.scope.toNat).gStore e.g.core e.g.tenant e.p.scope.toNat q e.size
      ((e.a.reg e.i.d.toNat).toNat % 2 ^ (8 * e.size))).wroteOne e.g.uid q e.size) e.a 0 false := by
  simp only [aStore, h]
  rfl

theorem aStore_pad {uid b : Nat} (h : e.place pad .write = .ok (s0, .pad uid b)) : aStore pad e =
    .ok ((e.pre s0 e.p.sem e.p.scope.toNat).spPuts uid b (leBytes e.size ((e.a.reg e.i.d.toNat).toNat % 2 ^ (8 * e.size)))) e.a 0
      false := by
  simp only [aStore, h]
  rfl

end

/-! ### What a store leaves -/

/-- Byte k of the low bytes of a register. -/
theorem regByte_eq (x : DWord) {n k : Nat} (hk : k < n) : BitVec.ofNat 8 (x.toNat % 2 ^ (8 * n) / 256 ^ k) = x.extractLsb' (8 * k) 8 := by
  have h8 (m : Nat) : (2 : Nat) ^ (8 * m) = 256 ^ m := by rw [pow_mul]; norm_num
  obtain ⟨j, rfl⟩ := Nat.exists_eq_add_of_lt hk
  refine BitVec.eq_of_toNat_eq ?_
  rw [BitVec.toNat_ofNat, BitVec.extractLsb'_toNat, Nat.shiftRight_eq_div_pow, h8, h8, show (256 : Nat) ^ (k + j + 1) = 256 ^ k * 256 ^ (j + 1) by
    rw [← pow_add]; ring_nf, Nat.mod_mul_right_div_self]
  exact Nat.mod_mod_of_dvd _ (Dvd.intro_left (256 ^ j) (pow_succ 256 j).symm)

/-- A store to global memory: its bytes alone change, they stand in the core's L1, and one to a RING page is a side effect (R235). -/
theorem globalStore_spec {s : State} {g : Group} (hg : s.group? g.uid = some g) (sc : Nat) {q : Page} {n : Nat} (hl : q.pa % 128 + n ≤ 128)
    (hn : 0 < n) (x : DWord) (Q : Nat → Nat → Prop) :
    let t := (s.gStore g.core g.tenant sc q n (x.toNat % 2 ^ (8 * n))).wroteOne g.uid q n
    StoredOnly s t (inAccess q n) Q ∧ t.group? g.uid = some (if q.kind = 2 then g.sideUp else g) ∧
    ∀ k < n, (t.levelByte (.l1 g.core) (q.pa + k)).2.2 = x.extractLsb' (8 * k) 8 := by
  intro t
  have hgroup : (s.gStore g.core g.tenant sc q n (x.toNat % 2 ^ (8 * n))).group? g.uid = some g := by
    unfold State.group?
    rw [(gStore_kept _ _ _ _ _ _ _).1]
    exact hg
  obtain ⟨hwrote, hg1, hlevel⟩ := wroteOne_spec hgroup q hn Q
  refine ⟨storedOnly_trans (gStore_storedOnly s _ _ sc q n _ hl Q) hwrote, hg1, fun k hk => ?_⟩
  rw [hlevel, gStore_l1 s _ _ sc q n _ _ hl ⟨by omega, by omega⟩, Nat.add_sub_cancel_left]
  exact regByte_eq x hk

/-- A store to the group's scratchpad space. -/
theorem padStore_spec {s : State} {g : Group} (hg : s.group? g.uid = some g) {a n : Nat} (hp : g.spPlace a n ≠ none) (x : DWord)
    (P : Nat → Prop) :
    let t := s.spPuts g.uid a (leBytes n (x.toNat % 2 ^ (8 * n)))
    StoredOnly s t P (padRun g.uid a n) ∧ ∃ g1, t.group? g.uid = some g1 ∧ g1.side = g.side ∧ g1.uid = g.uid ∧
      ∀ k < n, t.spByte g1 (a + k) = x.extractLsb' (8 * k) 8 := by
  intro t
  obtain ⟨hput, g1, hg1, hx, hread⟩ := spPuts_spec hg a (leBytes n (x.toNat % 2 ^ (8 * n))) P
  rw [leBytes_length] at hput
  refine ⟨hput, g1, hg1, by rw [hx], by rw [hx], fun k hk => ?_⟩
  have hlen : k < (leBytes n (x.toNat % 2 ^ (8 * n))).length := by rw [leBytes_length]; exact hk
  have hget := leBytes_get n (x.toNat % 2 ^ (8 * n)) k hk
  rw [List.getElem?_eq_getElem hlen, Option.getD_some, regByte_eq x hk] at hget
  exact hread k _ (by rw [List.getElem?_eq_getElem hlen, hget]) (spPlace_byte hp hk)

/-! ### AFENCE (R169) -/

theorem aFence_eq (e : AEnv) : aFence e =
    let sc := e.i.s2.toNat % 8
    let s0 := if bit e.i.s2 4 then e.base.release e.g.tenant e.g.core sc else e.base
    .ok (if bit e.i.s2 3 then s0.acquire e.g.core sc else s0) e.a 0 false := by
  have hbit (n : Nat) (h : n < 2) : bit (e.i.s2.extractLsb' 3 2) n = bit e.i.s2 (3 + n) := by simp [bit, h]
  unfold aFence AEnv.pre AEnv.post
  dsimp only
  rw [hbit 1 (by omega), hbit 0 (by omega), s2bits_eq]
  simp

end Sys2Proof.Laws

end

section
/-!
CLAIM. Obligation O28: the loads, stores and fences of the A stream.
-/

namespace Sys2Proof.Laws

open Sys2Proof.Machine

/-- Settles O28: a load's body is `aLoad_placed`; a store's is one store at the place that its check gives, of which `globalStore_spec`
and `padStore_spec` say what it leaves; AFENCE's is `aFence_eq`. -/
theorem accessMemory : Obligations.AccessMemory := by
  unfold Obligations.AccessMemory
  refine ⟨⟨fun f hf g hg p i s e hr s0 pl hpl => ?load, fun f hf g hg p i s e hr s0 pl hpl => ?store⟩, fun f hf p i s e hr => ?fence⟩
  case load =>
    have hissue : ∀ f ∈ ([(AForms.both .ald .aldLong, 0x20, false), (AForms.both .alds .aldsLong, 0x22, true)] : List (AForms × Nat × Bool)),
        f.1.Issue f.2.1 fun _ => aLoad f.2.2 :=
      List.forall_mem_cons.2 ⟨issue_both (fun _ _ => rfl) fun _ _ _ => rfl,
        List.forall_mem_singleton.2 (issue_both (fun _ _ => rfl) fun _ _ _ => rfl)⟩
    obtain rfl := aReady_i hr
    intro r
    have hw : Warmed e.base r.1 := warmed_trans (place_ok hpl).1 (placeRead_warmed _ _ _ _ _)
    rw [hissue f hf g hg]
    exact ⟨hw, aCompletes_of_ok_at hr (aLoad_placed hpl) (agroup_of_warmed (warmed_trans hw (aPost_warmed _ _ _ _))) rfl⟩
  case store =>
    have hissue : ∀ f ∈ ([(AForms.both .ast .astLong, 0x21, false), (AForms.both .asts .astsLong, 0x23, true)] : List (AForms × Nat × Bool)),
        f.1.Issue f.2.1 fun _ => aStore f.2.2 :=
      List.forall_mem_cons.2 ⟨issue_both (fun _ _ => rfl) fun _ _ _ => rfl,
        List.forall_mem_singleton.2 (issue_both (fun _ _ => rfl) fun _ _ _ => rfl)⟩
    obtain rfl := aReady_i hr
    obtain ⟨hw, hplace⟩ := place_ok hpl
    have hgroup := agroup_of_warmed (warmed_trans hw (aPre_warmed e s0 e.p.sem e.p.scope.toNat))
    rw [hissue f hf g hg]
    rcases hplace with ⟨q, rfl, hal⟩ | ⟨rfl, hsp⟩
    · obtain ⟨hl, hn⟩ := access_in_line hal
      obtain ⟨hstored, hg1, hbytes⟩ := globalStore_spec hgroup e.p.scope.toNat hl hn (e.a.reg e.i.d.toNat) fun _ _ => False
      refine ⟨_, _, aCompletes_of_ok_at hr (aStore_global hpl) hg1 (by split <;> rfl), hg1, hstored, hbytes, ?_⟩
      split <;> rfl
    · obtain ⟨hstored, g1, hg1, hside, hu, hbytes⟩ := padStore_spec hgroup hsp (e.a.reg e.i.d.toNat) fun _ => False
      exact ⟨_, g1, aCompletes_of_ok_at hr (aStore_pad hpl) hg1 hu, hg1, hstored, hbytes, hside⟩
  case fence =>
    have hissue : (AForms.both .afence .afenceLong).Issue 0x1A fun _ => aFence := issue_both (fun _ _ => rfl) fun _ _ _ => rfl
    obtain rfl := aReady_i hr
    intro sc s0 s1
    have hw : Warmed e.base s1 := by
      refine warmed_trans (t := s0) ?_ ?_
      · dsimp only [s0]
        split
        · exact release_warmed _ _ _ _
        · exact warmed_refl _
      · dsimp only [s1]
        split
        · exact acquire_warmed _ _ _
        · exact warmed_refl _
    rw [hissue f hf]
    exact ⟨hw, aCompletes_of_ok_at hr (aFence_eq e) (agroup_of_warmed hw) rfl⟩

end Sys2Proof.Laws

end

section
/-!
SUPPORT. An A context's trap frame (R173, R224): its bytes as a trap entry stores them, and what ARET.T reads back of them.
-/

namespace Sys2Proof.Machine

/-- The registers that ARET.T reloads from a frame. -/
def ACtx.reloadRegs (a : ACtx) (bs : List Byte) : ACtx :=
  (List.range 7).foldl (fun a n => a.setReg (n + 1) (BitVec.ofNat 64 (wordAt bs (8 * n) 8))) a

/-- The loop counters that ARET.T reloads from a frame. -/
def ACtx.reloadLoops (a : ACtx) (bs : List Byte) : ACtx :=
  (List.range 4).foldl (fun a n => a.setLoop n (BitVec.ofNat 32 (wordAt bs (0x38 + 4 * n) 4))) a

/-- The fields of a frame behind its loop counters (R224). -/
def aTrapFields (a : ACtx) (tr : TrapRegs) : List Byte :=
  leBytes 4 a.p.toNat ++ (leBytes 4 tr.tcause.toNat ++ (leBytes 4 tr.tpc.toNat ++ (leBytes 4 a.safecnt.toNat ++ (leBytes 8 tr.tval.toNat ++
    (leBytes 4 (bitsOf tr.tinst.toNat 63 32) ++ (leBytes 4 (bitsOf tr.tinst2.toNat 31 0) ++
      (leBytes 4 (bitsOf tr.tinst.toNat 31 0) ++ leBytes 20 0)))))))

/-- A frame from its loop counters on. -/
def aFromLoops (a : ACtx) (tr : TrapRegs) : List Byte := ((List.range 4).flatMap fun n => leBytes 4 (a.loop n).toNat) ++ aTrapFields a tr

/-- The trap registers that a trap of the instruction leaves (R217, R224). -/
def AEnv.trapRegs (e : AEnv) (c : Cause) (v : DWord) : TrapRegs :=
  { tcause := BitVec.ofNat 32 (c.code + 2 ^ 16 + 2 ^ 24 * e.op), tpc := e.a.apc, tinst := e.words.1 ++ e.words.2.2,
    tinst2 := e.words.2.1.setWidth 64, tmask := 0, tval := v }

/-- The state in which a trap of the instruction is taken: its popped entry is gone (R158). -/
def AEnv.trapBase (e : AEnv) : State := e.s.setGroup { e.g with a := { e.a with held := none } }

/-- The translation of TFRAME at a trap. -/
def AEnv.frameAt (e : AEnv) : State × Except Nat Page := e.trapBase.translate e.g.core e.g.tenant e.g.asid e.a.tframe.toNat

/-- The context in its handler. -/
def AEnv.handler (e : AEnv) (c : Cause) (v : DWord) (entry : Nat) : ACtx :=
  { e.a with held := none, trap := e.trapRegs c v, safecnt := 0, inHandler := true, apc := BitVec.ofNat 32 entry, semWait := none,
             crownWait := false }

/-- The frame that a trap of the instruction stores. -/
def AEnv.frame (e : AEnv) (c : Cause) (v : DWord) : List Byte := aFrameBytes { e.a with held := none } (e.trapRegs c v)

end Sys2Proof.Machine

namespace Sys2Proof.Laws

open Sys2Proof.Machine

/-! ### The fields of a frame -/

section
variable (a : ACtx) (tr : TrapRegs)

theorem aFrameBytes_eq : aFrameBytes a tr = ((List.range 7).flatMap fun n => leBytes 8 (a.reg (n + 1)).toNat) ++ aFromLoops a tr := by
  simp only [aFrameBytes, aFromLoops, aTrapFields, List.append_assoc]

theorem aFrameRegs_length : ((List.range 7).flatMap fun n => leBytes 8 (a.reg (n + 1)).toNat).length = 56 :=
  length_flatMap_blocks (f := fun n => leBytes 8 (a.reg (n + 1)).toNat) (fun _ => leBytes_length 8 _) (List.range 7)

theorem aFrameBytes_length : (aFrameBytes a tr).length = 128 := by
  rw [aFrameBytes_eq, List.length_append, aFrameRegs_length, aFromLoops, List.length_append, words_length]
  simp [aTrapFields]

theorem aFrame_reg {n : Nat} (h : n < 7) : BitVec.ofNat 64 (wordAt (aFrameBytes a tr) (8 * n) 8) = a.reg (n + 1) := by
  have hblock := wordAt_flatMap (f := fun n => leBytes 8 (a.reg (n + 1)).toNat) (fun _ => leBytes_length 8 _)
    (List.getElem?_range h) (o := 0) (n := 8) (by omega)
  rw [aFrameBytes_eq, wordAt_append_left (by rw [aFrameRegs_length]; omega), ← Nat.add_zero (8 * n), hblock, wordAt_leBytes]
  refine BitVec.eq_of_toNat_eq ?_
  rw [BitVec.toNat_ofNat]
  omega

theorem aFrame_loop {n : Nat} (h : n < 4) : BitVec.ofNat 32 (wordAt (aFrameBytes a tr) (0x38 + 4 * n) 4) = a.loop n := by
  rw [aFrameBytes_eq, wordAt_skip _ _ (aFrameRegs_length a) (by omega), Nat.add_sub_cancel_left]
  exact wordAt_words a.loop (List.getElem?_range h)

theorem wordAt_aTrapFields {o : Nat} (h : 0x48 ≤ o) (n : Nat) : wordAt (aFrameBytes a tr) o n = wordAt (aTrapFields a tr) (o - 0x48) n := by
  rw [aFrameBytes_eq, wordAt_skip _ _ (aFrameRegs_length a) (by omega), aFromLoops, wordAt_skip _ _ (words_length _ (List.range 4)) (by simp; omega),
    Nat.sub_sub]
  rfl

theorem aFrame_flags : BitVec.ofNat 4 (wordAt (aFrameBytes a tr) 0x48 4) = a.p := by
  rw [wordAt_aTrapFields a tr (by omega), aTrapFields, wordAt_append_left (by simp), wordAt_leBytes]
  refine BitVec.eq_of_toNat_eq ?_
  rw [BitVec.toNat_ofNat]
  omega

theorem aFrame_tpc : BitVec.ofNat 32 (wordAt (aFrameBytes a tr) 0x50 4) = tr.tpc := by
  rw [wordAt_aTrapFields a tr (by omega), aTrapFields]
  iterate 2 rw [wordAt_skip _ _ (leBytes_length _ _) (by omega)]
  exact wordAt_leBytes_word _ _

theorem aFrame_safecnt : BitVec.ofNat 32 (wordAt (aFrameBytes a tr) 0x54 4) = a.safecnt := by
  rw [wordAt_aTrapFields a tr (by omega), aTrapFields]
  iterate 3 rw [wordAt_skip _ _ (leBytes_length _ _) (by omega)]
  exact wordAt_leBytes_word _ _

end

/-- The zero fields of an A frame (R224, R6). -/
theorem aFrameZeros_iff {bs : List Byte} (h : bs.length = 128) :
    aFrameZeros bs = true ↔ wordAt bs 0x48 4 < 16 ∧ ∀ k < 20, bs[0x6C + k]? = some 0 := by
  unfold aFrameZeros
  rw [Bool.and_eq_true, beq_iff_eq, beq_iff_eq, wordAt_eq_zero (o := 0x6C) (n := 20) h, Nat.div_eq_zero_iff_lt (by omega)]

/-! ### The context that ARET.T leaves -/

section
variable (b : ACtx) (bs : List Byte)

theorem reloadRegs_frame : b.reloadRegs bs = { b with a := (b.reloadRegs bs).a } :=
  List.foldlRecOn (motive := fun x : ACtx => x = { b with a := x.a }) _ _ rfl fun x hx n _ => by
    unfold ACtx.setReg
    split
    · exact hx
    · rw [hx]

theorem reloadLoops_frame : b.reloadLoops bs = { b with l := (b.reloadLoops bs).l } :=
  List.foldlRecOn (motive := fun x : ACtx => x = { b with l := x.l }) _ _ rfl fun x hx n _ => by
    unfold ACtx.setLoop
    rw [hx]

theorem reloadRegs_reg (n : Nat) :
    (b.reloadRegs bs).reg n = if 1 ≤ n ∧ n ≤ 7 then BitVec.ofNat 64 (wordAt bs (8 * (n - 1)) 8) else b.reg n := by
  have fold (k : Nat) : ((List.range k).foldl (fun a n => a.setReg (n + 1) (BitVec.ofNat 64 (wordAt bs (8 * n) 8))) b).reg n =
      if 1 ≤ n ∧ n ≤ k then BitVec.ofNat 64 (wordAt bs (8 * (n - 1)) 8) else b.reg n := by
    induction k with
    | zero => rw [if_neg (by omega)]; rfl
    | succ k ih =>
      rw [List.range_succ, List.foldl_append, List.foldl_cons, List.foldl_nil, reg_setReg, ih]
      by_cases h0 : n = 0
      · rw [if_pos h0, if_neg (by omega), h0]
        rfl
      · by_cases hk : n = k + 1
        · rw [if_neg h0, if_pos hk, if_pos (by omega), hk, Nat.add_sub_cancel]
        · rw [if_neg h0, if_neg hk]
          exact if_congr (by omega) rfl rfl
  exact fold 7

theorem reloadLoops_loop (n : Nat) :
    (b.reloadLoops bs).loop n = if n < 4 then BitVec.ofNat 32 (wordAt bs (0x38 + 4 * n) 4) else b.loop n := by
  have fold (k : Nat) : ((List.range k).foldl (fun a n => a.setLoop n (BitVec.ofNat 32 (wordAt bs (0x38 + 4 * n) 4))) b).loop n =
      if n < k then BitVec.ofNat 32 (wordAt bs (0x38 + 4 * n) 4) else b.loop n := by
    induction k with
    | zero => rw [if_neg (by omega)]; rfl
    | succ k ih =>
      rw [List.range_succ, List.foldl_append, List.foldl_cons, List.foldl_nil, loop_setLoop, ih]
      by_cases hk : n = k
      · rw [if_pos hk, if_pos (by omega), hk]
      · rw [if_neg hk]
        exact if_congr (by omega) rfl rfl
  exact fold 4

theorem leave_eq : b.leave bs = { (b.reloadRegs bs).reloadLoops bs with
    p := BitVec.ofNat 4 (wordAt bs 0x48 4), apc := BitVec.ofNat 32 (wordAt bs 0x50 4), safecnt := BitVec.ofNat 32 (wordAt bs 0x54 4),
    inHandler := false } := rfl

theorem leave_reg (n : Nat) :
    (b.leave bs).reg n = if 1 ≤ n ∧ n ≤ 7 then BitVec.ofNat 64 (wordAt bs (8 * (n - 1)) 8) else b.reg n := by
  rw [leave_eq, reloadLoops_frame]
  exact reloadRegs_reg b bs n

theorem leave_loop (n : Nat) :
    (b.leave bs).loop n = if n < 4 then BitVec.ofNat 32 (wordAt bs (0x38 + 4 * n) 4) else b.loop n := by
  rw [leave_eq]
  refine (reloadLoops_loop (b.reloadRegs bs) bs n).trans ?_
  rw [reloadRegs_frame]
  rfl

theorem leave_frame : b.leave bs = { b with
    a := (b.leave bs).a, l := (b.leave bs).l, p := BitVec.ofNat 4 (wordAt bs 0x48 4), apc := BitVec.ofNat 32 (wordAt bs 0x50 4),
    safecnt := BitVec.ofNat 32 (wordAt bs 0x54 4), inHandler := false } := by
  rw [leave_eq, reloadLoops_frame, reloadRegs_frame]

end

/-! ### Runs of bytes in the L1 -/

/-- A run of bytes stored at any scope stands in its core's L1. -/
theorem storeUnits_l1 (c tn sc : Nat) {p : Page} (bs : List Byte) (h : p.pa % 128 = 0) (s : State) (n : Nat) :
    ∀ i, i < 16 * n → i < bs.length →
      (((List.range n).foldl (State.storeUnit c tn sc p bs) s).levelByte (.l1 c) (p.pa + i)).2.2 = (bs[i]?).getD 0 := by
  induction n with
  | zero => intro i hi; omega
  | succ n ih =>
    intro i hi hlen
    rw [List.range_succ, List.foldl_append]
    change ((State.storeUnit c tn sc p bs _ n).levelByte _ _).2.2 = _
    have hul : ((bs.drop (16 * n)).take 16).length = min 16 (bs.length - 16 * n) := by rw [List.length_take, List.length_drop]
    have hpa : (p.at (16 * n)).pa = p.pa + 16 * n := rfl
    by_cases hin : i < 16 * n
    · rw [storeUnit_sameBytes c tn bs h sc _ n (.l1 c) (p.pa + i) fun hh => by
        have h1 : p.pa + 16 * n ≤ p.pa + i := hh.1
        omega]
      exact ih i hin hlen
    · have hget : ((bs.drop (16 * n)).take 16)[i - 16 * n]? = bs[i]? := by
        rw [List.getElem?_take_of_lt (by omega), List.getElem?_drop]
        congr 1
        omega
      unfold State.storeUnit
      rw [gStore_l1 _ c tn sc (p.at (16 * n)) _ _ _ (by rw [hpa, hul]; omega) ⟨by rw [hpa]; omega, by rw [hpa, hul]; omega⟩, ← hget, hpa,
        Nat.add_sub_add_left]
      refine BitVec.eq_of_toNat_eq ?_
      rw [BitVec.toNat_ofNat]
      exact leNat_byte _ _

/-- A run of bytes stored at a line's start: they alone change, and they stand in the core's L1. -/
theorem gStoreList_l1 (c tn sc : Nat) {p : Page} (bs : List Byte) (h : p.pa % 128 = 0) (s : State) :
    let t := s.gStoreList c tn sc p bs
    SameBytes s t (fun a => p.pa ≤ a ∧ a < p.pa + bs.length) ∧ t.groups = s.groups ∧
    ∀ i < bs.length, (t.levelByte (.l1 c) (p.pa + i)).2.2 = (bs[i]?).getD 0 := by
  obtain ⟨hb, hg, -⟩ := storeUnits_spec c tn bs h sc s ((bs.length + 15) / 16)
  exact ⟨hb, hg, fun i hi => storeUnits_l1 c tn sc bs h s _ i (by omega) hi⟩

theorem levelByte_setGroup (s : State) (g : Group) (l : Level) (x : Nat) : (s.setGroup g).levelByte l x = s.levelByte l x := by
  cases l <;> rfl

/-! ### A trap entry -/

section
variable (e : AEnv) {c : Cause} (v : DWord)

/-- The lookup of the frame's page leaves the groups as the trap found them. -/
theorem frameAt_group : e.frameAt.1.group? e.g.uid = some { e.g with a := { e.a with held := none } } ∧
    ∀ uid, uid ≠ e.g.uid → e.frameAt.1.group? uid = e.s.group? uid := by
  have hgroup (uid : Nat) : e.frameAt.1.group? uid = e.trapBase.group? uid := by
    unfold State.group?
    rw [AEnv.frameAt, (translate_warmed e.trapBase e.g.core e.g.tenant e.g.asid e.a.tframe.toNat).rest]
  exact ⟨(hgroup _).trans (setGroup_self e.s { e.g with a := { e.a with held := none } }),
    fun uid hne => (hgroup uid).trans (setGroup_other _ { e.g with a := { e.a with held := none } } hne)⟩

theorem atrap_safeover : e.trap .safeover v =
    e.trapBase.gridFault e.g 64 Cause.safeover.code 0 e.a.apc v (e.a.inHandler || e.a.mode.routine) := by
  unfold AEnv.trap State.aTrap
  exact if_pos (by simp)

theorem atrap_unhandled (hc : c ≠ .safeover) (h : e.a.inHandler = true ∨ e.a.mode.routine = true ∨ e.g.kern.atrap = none) :
    e.trap c v = e.trapBase.gridFault e.g 64 c.code 0 e.a.apc v true := by
  unfold AEnv.trap State.aTrap
  dsimp only
  by_cases hn : (e.a.inHandler || e.a.mode.routine) = true
  · rw [if_pos (by rw [hn]; simp), hn]
    rfl
  · have hno : e.g.kern.atrap = none := by
      rw [Bool.or_eq_true, not_or] at hn
      exact (h.resolve_left hn.1).resolve_left hn.2
    rw [if_neg (by simpa [hc] using hn), hno]
    rfl

theorem trapRegs_eq (c : Cause) :
    ({ tcause := tcauseOf c e.op 0 true 0, tpc := e.a.apc, tinst := e.words.1 ++ e.words.2.2,
       tinst2 := e.words.2.1.setWidth 64, tmask := 0, tval := v } : TrapRegs) = e.trapRegs c v := by
  simp [AEnv.trapRegs, tcauseOf]

section
variable (hc : c ≠ .safeover) (hh : e.a.inHandler = false) (hm : e.a.mode.routine = false) {entry : Nat} (ht : e.g.kern.atrap = some entry)
  {p : Page} (hp : e.frameAt.2 = .ok p) (hw : p.w = true)
include hc hh hm ht hp hw

/-- A trap that is handled stores its frame and enters the handler. -/
theorem atrap_handled :
    e.trap c v = (e.frameAt.1.gStoreList e.g.core e.g.tenant 0 p (e.frame c v)).setA e.g.uid (e.handler c v entry) := by
  have hp' : (State.translate (e.s.setGroup { e.g with a := { e.a with held := none } }) e.g.core e.g.tenant e.g.asid e.a.tframe.toNat).2 =
    .ok p := hp
  unfold AEnv.trap State.aTrap
  dsimp only
  rw [if_neg (by simp [hc, hh, hm]), ht, trapRegs_eq]
  dsimp only
  rw [hp']
  dsimp only
  rw [if_pos hw]
  rfl

/-- Its context is in the handler, no other group has changed, and of the levels' bytes the frame's alone, which stand in the L1. -/
theorem atrap_entered (hal : p.pa % 128 = 0) :
    let t := e.trap c v
    t.group? e.g.uid = some { e.g with a := e.handler c v entry } ∧ (∀ uid, uid ≠ e.g.uid → t.group? uid = e.s.group? uid) ∧
    SameBytes e.frameAt.1 t (fun x => p.pa ≤ x ∧ x < p.pa + 128) ∧
    ∀ k < 128, (t.levelByte (.l1 e.g.core) (p.pa + k)).2.2 = ((e.frame c v)[k]?).getD 0 := by
  obtain ⟨hbytes, hgroups, hl1⟩ := gStoreList_l1 e.g.core e.g.tenant 0 (e.frame c v) hal e.frameAt.1
  have hlen : (e.frame c v).length = 128 := aFrameBytes_length _ _
  rw [hlen] at hbytes hl1
  have hgroup := frameAt_group e
  rw [atrap_handled e v hc hh hm ht hp hw]
  generalize e.frameAt.1 = u at *
  generalize u.gStoreList e.g.core e.g.tenant 0 p (e.frame c v) = t at *
  obtain ⟨hself, hother⟩ := hgroup
  have hgroup (uid : Nat) : t.group? uid = u.group? uid := congrArg (SMap.find · uid) hgroups
  rw [setA_of_group ((hgroup _).trans hself)]
  refine ⟨setGroup_self _ { e.g with a := e.handler c v entry }, fun uid hne => ?_,
    fun l x hx => (levelByte_setGroup _ _ _ _).trans (hbytes l x hx), fun k hk => ?_⟩
  · exact (setGroup_other _ { e.g with a := e.handler c v entry } hne).trans ((hgroup uid).trans (hother uid hne))
  · rw [levelByte_setGroup]
    exact hl1 k hk

end

end

/-! ### ARET.T -/

theorem aretT_outside {s : State} {e : AEnv} (h : s.aReady 0x19 none AWord.zero = some e) (hh : e.a.inHandler = false) :
    exec .aretT s = .next (e.trap .illinst 0) :=
  aTraps_of_trap h (if_pos (by rw [hh]; rfl))

/-- ARET.T's meaning in a handler whose frame has a translation. -/
theorem aretT_body (s : State) {e : AEnv} {p : Page} (hh : e.a.inHandler = true)
    (hp : (e.base.translate e.g.core e.g.tenant e.g.asid e.a.tframe.toNat).2 = .ok p) :
    ∃ body : AEnv → ARes, exec .aretT s = aIssue 0x19 none AWord.zero s body ∧
      let r := (e.base.translate e.g.core e.g.tenant e.g.asid e.a.tframe.toNat).1.gLoadList e.g.core e.g.tenant 0 p 128
      let pc := wordAt r.2 0x50 4
      body e = if p.r = false then .trap .prot e.a.tframe
        else if pc % 4 ≠ 0 ∨ ¬ (wordAt r.2 0x48 4 < 16 ∧ ∀ k < 20, r.2[0x6C + k]? = some 0) then .trap .align (BitVec.ofNat 64 pc)
        else .ok r.1 (e.a.leave r.2) 0 true := by
  refine ⟨_, rfl, ?_⟩
  intro r pc
  have hzeros := aFrameZeros_iff (bs := r.2) (gLoadList_length _ _ _ _ _ _)
  rw [if_neg (by rw [hh]; simp)]
  simp only [hp]
  rw [BitVec.ofNat_toNat, BitVec.setWidth_eq]
  refine if_congr (by simp) rfl (if_congr ?_ rfl rfl)
  rw [← hzeros]
  simp [r, pc]

end Sys2Proof.Laws

end

section
/-!
CLAIM. Obligation O27: a trap entry of an A context, and ARET.T.
-/

namespace Sys2Proof.Laws

open Sys2Proof.Machine

/-- Settles O27: an entry stores its frame into the core's L1 (`atrap_handled`, `gStoreList_l1`) or faults the grid; ARET.T answers what
`aretT_body` says, and reads of an entry's frame what stood there (`leave_frame`, `leave_reg`, `leave_loop`). -/
theorem accessTraps : Obligations.AccessTraps := by
  unfold Obligations.AccessTraps
  refine ⟨fun e c v => ?entry, fun s e h => ?returns, fun b0 b tr => ?restored⟩
  case entry =>
    intro a ws
    refine ⟨fun entry p => ?_, fun hc => by subst hc; exact atrap_safeover e v, fun hc h => atrap_unhandled e v hc h⟩
    intro t hc hh hm ht hp hw hal
    obtain ⟨hgroup, hothers, hbytes, hl1⟩ := atrap_entered e v hc hh hm ht hp hw hal
    exact ⟨e.handler c v entry, hgroup, rfl, rfl, hothers, hbytes, hl1⟩
  case returns =>
    refine ⟨aretT_outside h, fun p => ?_⟩
    intro t hh hp
    obtain ⟨body, hx, hb⟩ := aretT_body s hh hp
    rw [hx]
    refine ⟨fun hr => aTraps_of_trap h (hb.trans (if_pos hr)), fun hr => ?_⟩
    intro r pc
    have hw : Warmed e.base r.1 := warmed_trans (translate_warmed _ _ _ _ _) (gLoadList_warmed _ _ _ _ _ _)
    have hb := hb.trans (if_neg (by rw [hr]; simp))
    refine ⟨hw, gLoadList_length _ _ _ _ _ _, ?_⟩
    intro zeros
    exact ⟨fun hpc hz => aCompletes_of_ok_at h (hb.trans (if_neg fun hbad => hbad.elim (· hpc) (· hz))) (agroup_of_warmed hw) rfl,
      fun hbad => aTraps_of_trap h (hb.trans (if_pos hbad))⟩
  case restored =>
    intro c
    refine ⟨?_, fun n => ?_, fun n => ?_⟩
    · have hframe := leave_frame b (aFrameBytes b0 tr)
      rwa [aFrame_flags, aFrame_tpc, aFrame_safecnt] at hframe
    · refine (leave_reg b _ n).trans ?_
      by_cases hn : 1 ≤ n ∧ n ≤ 7
      · rw [if_pos hn, if_pos hn, aFrame_reg b0 tr (by omega), Nat.sub_add_cancel hn.1]
      · rw [if_neg hn, if_neg hn]
    · refine (leave_loop b _ n).trans ?_
      by_cases hn : n < 4
      · rw [if_pos hn, if_pos hn, aFrame_loop b0 tr hn]
      · rw [if_neg hn, if_neg hn]

end Sys2Proof.Laws

end

section
/-!
SUPPORT. What the instructions of the Trit Array have in common (R186, R188, R191): the crown, an answer that names one of several
failing addresses, and a completion that has changed one core's array.
-/

namespace Sys2Proof.Machine

/-- The trap of an instruction whose TVAL is one of several failing addresses; which one has taken a free value (log 11). -/
def AEnv.trapFree (e : AEnv) (c : Cause) (a : Nat) : State :=
  AEnv.trap { e with s := { e.base with ctl := { e.base.ctl with fresh := e.base.ctl.fresh + 1 } } } c (BitVec.ofNat 64 a)

end Sys2Proof.Machine

namespace Sys2Proof.Laws

open Sys2Proof.Machine

theorem crowned_iff (e : AEnv) :
    ((e.s.core e.g.core).ta.held && e.g.ring == some (e.s.core e.g.core).ta.holder) = true ↔ e.crowned := by
  simp [AEnv.crowned]

theorem crowned_false (e : AEnv) :
    ((e.s.core e.g.core).ta.held && e.g.ring == some (e.s.core e.g.core).ta.holder) = false ↔ ¬ e.crowned := by
  rw [← crowned_iff, Bool.not_eq_true]

theorem core_setArray (s : State) (c k : Nat) (f : TritArray) :
    (s.setCore c { s.core c with ta := f }).core k = if k = c then { s.core k with ta := f } else s.core k := by
  rw [core_setCore]
  by_cases h : k = c
  · rw [if_pos h, if_pos h, h]
  · rw [if_neg h, if_neg h]

section
variable {op : Nat} {p : Option APrefix} {i : AWord} {s : State} {e : AEnv} {body : AEnv → ARes} (hr : s.aReady op p i = some e)
include hr

/-- A trap over a state in which the group stands as the instruction has put it. -/
theorem aTraps_of_trapAt {u : State} {c : Cause} {v : DWord} (hb : body e = .trapAt u c v) :
    aIssue op p i s body = .next (u.aTrapOf e.g.uid e c v) := by
  rw [aIssue_ready hr (by rw [hb]; rfl), hb]
  rfl

theorem aTraps_among {c : Cause} {x : Nat} {xs : List Nat} (hb : body e = e.trapAmong c x xs) :
    ∃ a ∈ x :: xs, aIssue op p i s body = .next (e.trapFree c a) := by
  have hlt : e.base.freeNat.2 % (xs.length + 1) < (x :: xs).length := Nat.mod_lt _ (Nat.succ_pos _)
  refine ⟨(x :: xs)[e.base.freeNat.2 % (xs.length + 1)], List.getElem_mem hlt, (aTraps_of_trapAt hr hb).trans ?_⟩
  have hg : e.base.freeNat.1.group? e.g.uid = some e.g := setGroup_self e.s e.g
  rw [State.aTrapOf, hg, List.getElem?_eq_getElem hlt]
  rfl

/-- The state of a completion that has changed the array of the group's core. -/
theorem aCompletes_withArray (f : TritArray → TritArray) {a : ACtx} {v : Word} {j : Bool}
    (hb : body e = .ok (e.base.setCore e.g.core { e.s.core e.g.core with ta := f (e.s.core e.g.core).ta }) a v j) :
    ∃ s1, e.withArray f s1 ∧ e.Completes (aIssue op p i s body) s1 e.g a v j := by
  refine ⟨_, ⟨rfl, fun c => (core_setArray e.base e.g.core c _).trans ?_⟩, aCompletes_of_ok_at hr hb (setGroup_self e.s e.g) rfl⟩
  by_cases hc : c = e.g.core
  · rw [if_pos hc, if_pos hc, hc]
    rfl
  · rw [if_neg hc, if_neg hc]
    rfl

end

end Sys2Proof.Laws

end

section
/-!
CLAIM. Obligation O32: the issue of tile commands (R176, R179, R185 to R187).
-/

namespace Sys2Proof.Machine

/-- There is a place for a tile command of the group, in the array's queue and among the group's own (R176). -/
def AEnv.tileRoom (e : AEnv) : Prop :=
  (e.s.core e.g.core).ta.queue.length < 16 ∧
    ((e.s.core e.g.core).ta.queue.filter fun x => x.uid == e.g.uid).length + e.g.queues.t6.length < 8

/-- What TA.RUN and TA.ZERO answer: the checks that they share, then the instruction's own over the format word. -/
def tileBody (after : AEnv → Word → ARes) (e : AEnv) : ARes :=
  match e.tile with
  | .error r => r
  | .ok f => after e f

/-- TA.ZERO's own check (R187). -/
def AEnv.zeroChecks (e : AEnv) (f : Word) : ARes :=
  match fmtReserved f with
  | some b => .trap .tafmt (BitVec.ofNat 64 b)
  | none => e.enqueue f true 0

/-- The group with its format word popped and its next number (R176, R179). -/
def AEnv.tileGroup (e : AEnv) : Group :=
  { e.g with taSeq := (e.g.taSeq + 1) % 65536, queues := { e.g.queues with fmt := e.g.queues.fmt.tail } }

/-- The array with the command at the end of its queue, which keeps the scratchpad and the window as they are; an epoch opens where
none is open or where it is TA.ZERO (R176, R179, R186). -/
def AEnv.tileArray (e : AEnv) (w : Word) (zero : Bool) (b : BitVec 512) : TritArray :=
  let ta := (e.s.core e.g.core).ta
  { ta with
    queue := ta.queue ++ [{ uid := e.g.uid, seq := e.g.taSeq, zero := zero, fmt := w, block := b, smem := e.g.smem,
                            win := ta.visible, st := .queued }],
    epset := true, eprs := if zero = true ∨ ta.epset = false then bit w 16 else ta.eprs }

/-- The answer o accepts a command. -/
def AEnv.TileAccepted (e : AEnv) (o : Host.Outcome State Fault Refusal) (w : Word) (zero : Bool) (b : BitVec 512) : Prop :=
  ∃ s1 g1, g1 = e.tileGroup ∧ s1 = { e.s with cores := s1.cores, groups := s1.groups } ∧ s1.group? e.g.uid = some g1 ∧
    (∀ uid, uid ≠ e.g.uid → s1.group? uid = e.s.group? uid) ∧
    (∀ c, s1.core c = if c = e.g.core then { e.s.core c with ta := e.tileArray w zero b } else e.s.core c) ∧
    e.Completes o s1 g1 e.a 0 false

/-- A misaligned address of a run's block (check 8 of R186). -/
def Misaligned (w : Word) (b : BitVec 512) (a : Nat) : Prop :=
  a = blkSBase b ∧ a % 2 ≠ 0 ∨ bitsOf w.toNat 7 6 = 1 ∧ a = blkMBase b ∧ a % 4 ≠ 0 ∨ bit w 16 = true ∧ a = blkRBase b ∧ a % 4 ≠ 0

end Sys2Proof.Machine

namespace Sys2Proof.Laws

open Sys2Proof.Machine

/-! ### The checks that TA.RUN and TA.ZERO share -/

section
variable {e : AEnv}

theorem tile_full (h : ¬ e.tileRoom) : e.tile = .error (.wait e.a) := by
  rw [AEnv.tileRoom, Classical.not_and_iff_not_or_not, Nat.not_lt, Nat.not_lt] at h
  exact if_pos h

variable (h : e.tileRoom)
include h

theorem tile_busy_false : ¬ (16 ≤ (e.s.core e.g.core).ta.queue.length ∨
    8 ≤ ((e.s.core e.g.core).ta.queue.filter fun x => x.uid == e.g.uid).length + e.g.queues.t6.length) := by
  rwa [not_or, Nat.not_le, Nat.not_le]

theorem tile_no_ring (hring : e.g.ring = none) : e.tile = .error (.trap .prot 0) := by
  simp [AEnv.tile, tile_busy_false h, hring]

theorem tile_no_crown (hring : e.g.ring ≠ none) (hc : ¬ e.crowned) : e.tile = .error (.trap .nocrown 0) := by
  simp [AEnv.tile, tile_busy_false h, hring, (crowned_false e).2 hc]

variable (hc : e.crowned)
include hc

theorem tile_no_format (hf : e.g.queues.fmt = []) : e.tile = .error (.trap .fmtunder 0) := by
  simp [AEnv.tile, tile_busy_false h, hc.1, hc.2, hf]

theorem tile_ok {w : Word} {l : List Word} (hf : e.g.queues.fmt = w :: l) : e.tile = .ok w := by
  simp [AEnv.tile, tile_busy_false h, hc.1, hc.2, hf]

end

section
variable {op : Nat} {p : Option APrefix} {i : AWord} {s : State} {e : AEnv} (hr : s.aReady op p i = some e)
include hr

theorem tileBody_stops (after : AEnv → Word → ARes) :
    let o := aIssue op p i s (tileBody after)
    (¬ e.tileRoom → o = .next (s.waitsWith e.g.uid e.a)) ∧
    (e.tileRoom → e.g.ring = none → o = .next (e.trap .prot 0)) ∧
    (e.tileRoom → e.g.ring ≠ none → ¬ e.crowned → o = .next (e.trap .nocrown 0)) ∧
    (e.tileRoom → e.crowned → e.g.queues.fmt = [] → o = .next (e.trap .fmtunder 0)) := by
  refine ⟨fun h => aIssue_wait hr ?_, fun h hn => aTraps_of_trap hr ?_, fun h hn hc => aTraps_of_trap hr ?_,
    fun h hc hf => aTraps_of_trap hr ?_⟩
  · rw [tileBody, tile_full h]
  · rw [tileBody, tile_no_ring h hn]
  · rw [tileBody, tile_no_crown h hn hc]
  · rw [tileBody, tile_no_format h hc hf]

omit hr in
theorem tileBody_passes (after : AEnv → Word → ARes) (h : e.tileRoom) (hc : e.crowned) {w : Word} {l : List Word}
    (hf : e.g.queues.fmt = w :: l) : tileBody after e = after e w := by
  rw [tileBody, tile_ok h hc hf]

/-! ### An accepted command -/

omit hr in
theorem enqueue_eq (e : AEnv) (w : Word) (zero : Bool) (b : BitVec 512) : e.enqueue w zero b =
    .ok ((e.s.setCore e.g.core { e.s.core e.g.core with ta := e.tileArray w zero b }).setGroup e.tileGroup) e.a 0 false := by
  simp [AEnv.enqueue, AEnv.tileArray, AEnv.tileGroup, fmtRowsc]

theorem enqueue_accepted {body : AEnv → ARes} {w : Word} {zero : Bool} {b : BitVec 512} (hb : body e = e.enqueue w zero b) :
    e.TileAccepted (aIssue op p i s body) w zero b := by
  have hgroup := setGroup_self (e.s.setCore e.g.core { e.s.core e.g.core with ta := e.tileArray w zero b }) e.tileGroup
  refine ⟨_, _, rfl, rfl, hgroup, fun uid hu => setGroup_other _ e.tileGroup hu, fun c => core_setArray e.s e.g.core c _,
    aCompletes_of_ok_at hr (hb.trans (enqueue_eq e w zero b)) hgroup rfl⟩

end

/-! ### TA.RUN's own checks -/

theorem misaligned_entry (on : Bool) (x k a : Nat) :
    (if (on && x % k != 0) = true then some x else none) = some a ↔ on = true ∧ a = x ∧ a % k ≠ 0 := by
  simp only [Option.ite_none_right_eq_some, Bool.and_eq_true, bne_iff_ne, Option.some.injEq]
  exact ⟨fun ⟨⟨hon, hk⟩, hx⟩ => hx ▸ ⟨hon, rfl, hk⟩, fun ⟨hon, hx, hk⟩ => hx ▸ ⟨⟨hon, hk⟩, rfl⟩⟩

theorem mem_runMisaligned {w : Word} {b : BitVec 512} {a : Nat} : a ∈ runMisaligned w b ↔ Misaligned w b a := by
  simp only [runMisaligned, Misaligned, List.mem_filterMap, List.mem_cons, List.not_mem_nil, or_false, or_and_right, exists_or,
    exists_eq_left, misaligned_entry, true_and]
  simp [fmtSparse, fmtRowsc]

section
variable {e : AEnv} {w : Word}

theorem epoch_kept {t : TritArray} (h : t.epset = true → bit w 16 = t.eprs) : (t.epset && fmtRowsc w != t.eprs) = false := by
  simpa [fmtRowsc] using h

theorem runChecks_misaligned (h : e.s1.toNat % 64 ≠ 0) : e.runChecks w = .trap .align e.s1 := if_pos h

variable (ha : e.s1.toNat % 64 = 0)
include ha

theorem runChecks_outside (h : e.g.spPlace e.s1.toNat 64 = none) : e.runChecks w = .trap .prot e.s1 := by
  simp [AEnv.runChecks, ha, h]

variable (hp : e.g.spPlace e.s1.toNat 64 ≠ none)
include hp

theorem runChecks_reserved {b : Nat} (h : fmtReserved w = some b) : e.runChecks w = .trap .tafmt (BitVec.ofNat 64 b) := by
  simp [AEnv.runChecks, ha, hp, h]

variable (hw : fmtReserved w = none)
include hw

theorem runChecks_epoch (h : (e.s.core e.g.core).ta.epset = true) (hne : bit w 16 ≠ (e.s.core e.g.core).ta.eprs) :
    e.runChecks w = .trap .tafmt 16 := by
  simp [AEnv.runChecks, ha, hp, hw, h, fmtRowsc, hne]

variable (hep : ((e.s.core e.g.core).ta.epset && fmtRowsc w != (e.s.core e.g.core).ta.eprs) = false) {blk : BitVec 512}
  (hblk : BitVec.ofNat 512 (e.s.spNat e.g e.s1.toNat 64) = blk)
include hep hblk

theorem runChecks_block {b : Nat} (h : blkBad w blk = some b) : e.runChecks w = .trap .tafmt (BitVec.ofNat 64 (0x100 + b)) := by
  simp [AEnv.runChecks, ha, hp, hw, hep, hblk, h]

variable (hb : blkBad w blk = none)
include hb

theorem runChecks_weights (h : blkWBase blk % 5 ≠ 0) : e.runChecks w = .trap .descalign (BitVec.ofNat 64 (blkWBase blk)) := by
  simp [AEnv.runChecks, ha, hp, hw, hep, hblk, hb, h]

variable (h5 : blkWBase blk % 5 = 0)
include h5

theorem runChecks_align {x : Nat} {xs : List Nat} (h : runMisaligned w blk = x :: xs) : e.runChecks w = e.trapAmong .align x xs := by
  simp [AEnv.runChecks, ha, hp, hw, hep, hblk, hb, h5, h]

variable (hm : runMisaligned w blk = [])
include hm

theorem runChecks_prot {x : Nat} {xs : List Nat} (h : (runRanges w blk).filterMap e.g.outside = x :: xs) :
    e.runChecks w = e.trapAmong .prot x xs := by
  simp [AEnv.runChecks, ha, hp, hw, hep, hblk, hb, h5, hm, h]

theorem runChecks_pass (h : (runRanges w blk).filterMap e.g.outside = []) : e.runChecks w = e.enqueue w false blk := by
  simp [AEnv.runChecks, ha, hp, hw, hep, hblk, hb, h5, hm, h]

end

/-! ### The instructions -/

theorem fmtq_full {e : AEnv} (h : 8 ≤ e.g.queues.fmt.length) : aFmtq e = .wait e.a := if_pos h

theorem fmtq_room {e : AEnv} (h : e.g.queues.fmt.length < 8) : aFmtq e =
    .ok (e.s.setGroup { e.g with queues := { e.g.queues with fmt := e.g.queues.fmt ++ [e.s1.setWidth 32] } }) e.a 0 false :=
  if_neg (Nat.not_le.2 h)

section
variable {op : Nat} {p : Option APrefix} {i : AWord} {s : State} {e : AEnv} (hr : s.aReady op p i = some e) (hroom : e.tileRoom)
  (hc : e.crowned) {w : Word} {l : List Word} (hf : e.g.queues.fmt = w :: l)
include hr hroom hc hf

theorem zero_answers :
    let o := aIssue op p i s (tileBody AEnv.zeroChecks)
    (fmtReserved w = none → e.TileAccepted o w true 0) ∧
    (∀ b, fmtReserved w = some b → o = .next (e.trap .tafmt (BitVec.ofNat 64 b))) := by
  have hb := tileBody_passes AEnv.zeroChecks hroom hc hf
  refine ⟨fun h => enqueue_accepted hr (hb.trans ?_), fun b h => aTraps_of_trap hr (hb.trans ?_)⟩ <;> rw [AEnv.zeroChecks, h]

theorem run_answers :
    let o := aIssue op p i s (tileBody AEnv.runChecks)
    let ta := (e.s.core e.g.core).ta
    let block := BitVec.ofNat 512 (e.s.spNat e.g e.s1.toNat 64)
    (e.s1.toNat % 64 ≠ 0 → o = .next (e.trap .align e.s1)) ∧
    (e.s1.toNat % 64 = 0 → e.g.spPlace e.s1.toNat 64 = none → o = .next (e.trap .prot e.s1)) ∧
    (e.s1.toNat % 64 = 0 → e.g.spPlace e.s1.toNat 64 ≠ none →
      (∀ b, fmtReserved w = some b → o = .next (e.trap .tafmt (BitVec.ofNat 64 b))) ∧
      (fmtReserved w = none → ta.epset = true → bit w 16 ≠ ta.eprs → o = .next (e.trap .tafmt 16)) ∧
      (fmtReserved w = none → (ta.epset = true → bit w 16 = ta.eprs) →
        (∀ b, blkBad w block = some b → o = .next (e.trap .tafmt (BitVec.ofNat 64 (0x100 + b)))) ∧
        (blkBad w block = none → blkWBase block % 5 ≠ 0 → o = .next (e.trap .descalign (BitVec.ofNat 64 (blkWBase block)))) ∧
        (blkBad w block = none → blkWBase block % 5 = 0 →
          ((∃ a, Misaligned w block a) → ∃ a, Misaligned w block a ∧ o = .next (e.trapFree .align a)) ∧
          ((∀ a, ¬ Misaligned w block a) →
            ((∃ r ∈ runRanges w block, e.g.outside r ≠ none) →
              ∃ r ∈ runRanges w block, ∃ a, e.g.outside r = some a ∧ o = .next (e.trapFree .prot a)) ∧
            ((∀ r ∈ runRanges w block, e.g.outside r = none) → e.TileAccepted o w false block))))) := by
  intro o ta block
  have hb := tileBody_passes AEnv.runChecks hroom hc hf
  have traps {c : Cause} {v : DWord} (h : e.runChecks w = .trap c v) : o = .next (e.trap c v) := aTraps_of_trap hr (hb.trans h)
  refine ⟨fun ha => traps (runChecks_misaligned ha), fun ha hp => traps (runChecks_outside ha hp), fun ha hp =>
    ⟨fun b h => traps (runChecks_reserved ha hp h), fun hw h hne => traps (runChecks_epoch ha hp hw h hne), fun hw hep =>
    ⟨fun b h => traps (runChecks_block ha hp hw (epoch_kept hep) rfl h),
    fun hbad h => traps (runChecks_weights ha hp hw (epoch_kept hep) rfl hbad h),
    fun hbad h5 => ⟨fun ⟨a, h⟩ => ?misaligned, fun hal => ?aligned⟩⟩⟩⟩
  case misaligned =>
    obtain ⟨x, xs, hm⟩ := List.exists_cons_of_ne_nil (List.ne_nil_of_mem (mem_runMisaligned.2 h))
    obtain ⟨a, ha', ho⟩ := aTraps_among hr (hb.trans (runChecks_align ha hp hw (epoch_kept hep) rfl hbad h5 hm))
    exact ⟨a, mem_runMisaligned.1 (hm ▸ ha'), ho⟩
  case aligned =>
    have hm : runMisaligned w block = [] := List.eq_nil_iff_forall_not_mem.2 fun a h => hal a (mem_runMisaligned.1 h)
    refine ⟨fun ⟨r, hmem, hout⟩ => ?_, fun hin => ?_⟩
    · obtain ⟨a, ha'⟩ := Option.ne_none_iff_exists'.1 hout
      obtain ⟨x, xs, hx⟩ := List.exists_cons_of_ne_nil (List.ne_nil_of_mem (List.mem_filterMap.2 ⟨r, hmem, ha'⟩))
      obtain ⟨a, ha', ho⟩ := aTraps_among hr (hb.trans (runChecks_prot ha hp hw (epoch_kept hep) rfl hbad h5 hm hx))
      rw [← hx] at ha'
      obtain ⟨r, hmem, hra⟩ := List.mem_filterMap.1 ha'
      exact ⟨r, hmem, a, hra, ho⟩
    · have hx : (runRanges w block).filterMap e.g.outside = [] := List.filterMap_eq_nil_iff.2 hin
      exact enqueue_accepted hr (hb.trans (runChecks_pass ha hp hw (epoch_kept hep) rfl hbad h5 hm hx))

end

/-- Settles O32: FMTQ by `fmtq_room` and `fmtq_full`; TA.RUN and TA.ZERO by the checks that they share (`tileBody_stops`) and then by
their own. -/
theorem tileCommands : Obligations.TileCommands := by
  unfold Obligations.TileCommands
  refine ⟨?fmtq, List.forall_mem_cons.2 ⟨?run, List.forall_mem_singleton.2 ?zero⟩⟩
  case fmtq =>
    intro g hg p i s e hr
    have hissue : (AForms.both .fmtq .fmtqLong).Issue 0x35 (fun _ => aFmtq) := issue_both (fun _ _ => rfl) fun _ _ _ => rfl
    rw [hissue g hg]
    exact ⟨fun h => ⟨_, rfl, aCompletes_of_ok_at hr (fmtq_room h) (setGroup_self _ _) rfl⟩, fun h => aIssue_wait hr (fmtq_full h)⟩
  case run =>
    intro g hg p i s e hr
    have hissue : (AForms.both .taRun .taRunLong).Issue 0x36 (fun _ => tileBody AEnv.runChecks) :=
      issue_both (fun _ _ => rfl) fun _ _ _ => rfl
    intro o
    have ho : o = _ := hissue g hg p i s
    rw [ho]
    obtain ⟨hwait, hprot, hcrown, hformat⟩ := tileBody_stops hr AEnv.runChecks
    exact ⟨hwait, hprot, hcrown, hformat, fun hroom hc w l hf => ⟨fun h => Bool.noConfusion h, fun _ => run_answers hr hroom hc hf⟩⟩
  case zero =>
    intro g hg p i s e hr
    have hissue : (AForms.short .taZero).Issue 0x37 (fun _ => tileBody AEnv.zeroChecks) := issue_short fun _ _ => rfl
    intro o
    have ho : o = _ := hissue g hg p i s
    rw [ho]
    obtain ⟨hwait, hprot, hcrown, hformat⟩ := tileBody_stops hr AEnv.zeroChecks
    exact ⟨hwait, hprot, hcrown, hformat, fun hroom hc w l hf => ⟨fun _ => zero_answers hr hroom hc hf, fun h => Bool.noConfusion h⟩⟩

end Sys2Proof.Laws

end

section
/-!
CLAIM. Obligation O33: CROWN.TAKE, CROWN.PASS and TA.SWAP (R188, R191, R195).
-/

namespace Sys2Proof.Machine

/-- The array of TA.SWAP's core and the tokens of its group after a fault of the group's own is delivered (R195). -/
def AEnv.swapFaulted (e : AEnv) : State :=
  (e.s.setCore e.g.core { e.s.core e.g.core with ta := { (e.s.core e.g.core).ta with fpend := false } }).setGroup
    { e.g with queues := { e.g.queues with
        t6 := updFirst (fun x => bitsOf x.toNat 15 0 == (e.s.core e.g.core).ta.fseq) clearErr e.g.queues.t6 } }

end Sys2Proof.Machine

namespace Sys2Proof.Laws

open Sys2Proof.Machine

/-! ### The first entry of a list that satisfies a test -/

section
variable {α : Type} {p : α → Bool} (f : α → α)

theorem updFirst_of_first {l1 l2 : List α} {x : α} (h : ∀ y ∈ l1, p y = false) (hx : p x = true) :
    updFirst p f (l1 ++ x :: l2) = l1 ++ f x :: l2 := by
  induction l1 with
  | nil => exact if_pos hx
  | cons y l1 ih =>
    obtain ⟨hy, hl⟩ := List.forall_mem_cons.1 h
    rw [List.cons_append, updFirst, hy, if_neg Bool.false_ne_true, ih hl]
    rfl

theorem updFirst_of_none {l : List α} (h : ∀ y ∈ l, p y = false) : updFirst p f l = l := by
  induction l with
  | nil => rfl
  | cons y l ih =>
    obtain ⟨hy, hl⟩ := List.forall_mem_cons.1 h
    rw [updFirst, hy, if_neg Bool.false_ne_true, ih hl]

end

/-! ### The next member of the ring (R191) -/

theorem nextRing_of_successor {ring : SMap Nat} {pos q : Nat} (h : successor ring pos q) : nextRing ring pos = some q := by
  obtain ⟨k, h1, h8, rfl, hk, hbefore⟩ := h
  obtain ⟨k, rfl⟩ : ∃ n, k = n + 1 := ⟨k - 1, by omega⟩
  have hpos (j : Nat) : (pos + 1 + j) % 8 = (pos + (j + 1)) % 8 := by rw [Nat.add_assoc, Nat.add_comm 1 j]
  have hfind : (List.range 8).find? ((fun p => (SMap.find ring p).isSome) ∘ fun i => (pos + 1 + i) % 8) = some k := by
    refine List.find?_range_eq_some.2 ⟨?_, List.mem_range.2 (by omega), fun j hj => ?_⟩
    · rwa [Function.comp, hpos]
    · rw [Function.comp, hpos, hbefore (j + 1) (by omega) (by omega), Bool.not_false]
  rw [nextRing, List.find?_map, hfind, Option.map_some, hpos]

/-! ### The banks after a swap (R188) -/

theorem get_scaled (v : Nat → Word) (n k : Nat) :
    SMap.get 0 ((List.range n).foldl (fun m k => SMap.set 0 m k (v k)) []) k = if k < n then v k else 0 := by
  induction n with
  | zero => rfl
  | succ n ih =>
    rw [List.range_succ, List.foldl_append, List.foldl_cons, List.foldl_nil, get_set, ih]
    by_cases hk : k = n
    · subst hk
      simp
    · rw [if_neg hk]
      exact if_congr (by omega) rfl rfl

theorem get_swap (t : TritArray) {m n : Nat} (hm : m < 128) (hn : n < 128) : SMap.get 0 t.swap.visible (128 * m + n) =
    if t.eprs then f32r .rne ((f32v (SMap.get 0 t.working (128 * m + n))).mul (f32v (SMap.get 0x3F800000 t.rowsc m)))
    else SMap.get 0 t.working (128 * m + n) := by
  have hrow : (128 * m + n) / 128 = m := by omega
  by_cases h : t.eprs = true
  · simp only [TritArray.swap, h, if_true]
    rw [get_scaled, if_pos (by omega), hrow]
    rfl
  · simp only [TritArray.swap, h, Bool.false_eq_true, if_false]

/-! ### The three instructions -/

section
variable {i : AWord} {s : State} {e : AEnv}

theorem crownTake_answers (hr : s.aReady 0x3A none i = some e) :
    let o := exec (.crownTake i) s
    (e.g.ring = none → o = .next (e.trap .prot 0)) ∧
    (e.crowned → e.Completes o e.s e.g { e.a with crownWait := false } 0 false) ∧
    ((e.s.core e.g.core).ta.held = true → e.g.ring ≠ none → ¬ e.crowned → o = .next (s.waitsWith e.g.uid { e.a with crownWait := true })) ∧
    (∀ q, (e.s.core e.g.core).ta.held = false → e.g.ring = some q → ∃ s1, e.withArray (fun t => { t with held := true, holder := q }) s1 ∧
      e.Completes o s1 e.g { e.a with crownWait := false } 0 false) := by
  intro o
  have ho : o = execCrownTake i s := rfl
  rw [ho]
  unfold execCrownTake
  refine ⟨fun hn => aTraps_of_trap hr ?_, fun hc => aCompletes_of_ok hr ?_, fun hh hn hc => aIssue_wait hr ?_,
    fun q hh hq => aCompletes_withArray hr _ ?_⟩
  · simp only [hn]
  · simp only [hc.1, hc.2, if_true]
  · obtain ⟨q, hq⟩ := Option.ne_none_iff_exists'.1 hn
    have hne : (e.s.core e.g.core).ta.holder ≠ q := fun h => hc ⟨hh, by rw [hq, ← h]⟩
    simp only [hq, hh, hne, if_true, if_false]
  · simp only [hq, hh, Bool.false_eq_true, if_false]

theorem crownPass_answers (hr : s.aReady 0x3B none i = some e) :
    let o := exec (.crownPass i) s
    let given (q : Nat) : Prop := ∃ s1, e.withArray (fun t => { t with holder := q }) s1 ∧ e.Completes o s1 e.g e.a 0 false
    (e.g.ring = none → o = .next (e.trap .prot 0)) ∧
    (e.g.ring ≠ none → ¬ e.crowned → o = .next (e.trap .nocrown 0)) ∧
    (e.crowned → bit i.s2 8 = true → ∀ q, successor (e.s.core e.g.core).ta.ring (e.s.core e.g.core).ta.holder q → given q) ∧
    (e.crowned → bit i.s2 8 = false → (SMap.find (e.s.core e.g.core).ta.ring (i.s2.toNat % 8)).isSome = true → given (i.s2.toNat % 8)) ∧
    (e.crowned → bit i.s2 8 = false → SMap.find (e.s.core e.g.core).ta.ring (i.s2.toNat % 8) = none → o = .next (e.trap .prot 0)) := by
  intro o given
  obtain rfl := aReady_i hr
  have ho : o = execCrownPass e.i s := rfl
  simp only [given]
  rw [ho]
  unfold execCrownPass
  have hq8 : e.i.s2bits 2 0 = e.i.s2.toNat % 8 := by simp [s2bits_eq]
  refine ⟨fun hn => aTraps_of_trap hr ?_, fun hn hc => aTraps_of_trap hr ?_, fun hc hb q hq => aCompletes_withArray hr _ ?_,
    fun hc hb hf => aCompletes_withArray hr _ ?_, fun hc hb hf => aTraps_of_trap hr ?_⟩
  · simp only [hn]
  · obtain ⟨q, hq⟩ := Option.ne_none_iff_exists'.1 hn
    have hlost : ¬ ((e.s.core e.g.core).ta.held = true ∧ (e.s.core e.g.core).ta.holder = q) := fun h => hc ⟨h.1, by rw [hq, h.2]⟩
    simp [hq, hlost]
  · simp [hc.1, hc.2, hb, nextRing_of_successor hq]
  · simp [hc.1, hc.2, hb, hq8, Option.isSome_iff_ne_none.1 hf]
  · simp [hc.1, hc.2, hb, hq8, hf]

theorem taSwap_answers (hr : s.aReady 0x38 none i = some e) :
    let o := exec (.taSwap i) s
    (e.g.ring = none → o = .next (e.trap .prot 0)) ∧
    (e.g.ring ≠ none → ¬ e.crowned → o = .next (e.trap .nocrown 0)) ∧
    (e.crowned → (e.s.core e.g.core).ta.queue ≠ [] → o = .next (s.waitsWith e.g.uid e.a)) ∧
    (e.crowned → (e.s.core e.g.core).ta.queue = [] → (e.s.core e.g.core).ta.poison = true →
      ¬ ((e.s.core e.g.core).ta.fpend = true ∧ (e.s.core e.g.core).ta.fowner = e.g.uid) →
        o = .next (e.trap .tafault (e.s.core e.g.core).ta.status)) ∧
    (e.crowned → (e.s.core e.g.core).ta.queue = [] → (e.s.core e.g.core).ta.poison = true → (e.s.core e.g.core).ta.fpend = true →
      (e.s.core e.g.core).ta.fowner = e.g.uid →
      o = .next (e.swapFaulted.aTrapOf e.g.uid e .tafault { (e.s.core e.g.core).ta with fpend := false : TritArray }.status)) ∧
    (e.crowned → (e.s.core e.g.core).ta.queue = [] → (e.s.core e.g.core).ta.poison = false →
      ∃ s1, e.withArray TritArray.swap s1 ∧ e.Completes o s1 e.g e.a 0 false) := by
  intro o
  have ho : o = execTaSwap i s := rfl
  rw [ho]
  unfold execTaSwap
  refine ⟨fun hn => aTraps_of_trap hr ?_, fun hn hc => aTraps_of_trap hr ?_, fun hc hq => aIssue_wait hr ?_,
    fun hc hq hp hf => aTraps_of_trap hr ?_, fun hc hq hp hf hu => aTraps_of_trapAt hr ?_,
    fun hc hq hp => aCompletes_withArray hr _ ?_⟩
  · simp [hn]
  · simp [hn, (crowned_false e).2 hc]
  · simp [hc.1, hc.2, hq]
  · simp [hc.1, hc.2, hq, hp, hf]
  · simp [hc.1, hc.2, hq, hp, hf, hu, AEnv.swapFaulted]
  · simp [hc.1, hc.2, hq, hp]

end

/-- Settles O33: each instruction's answers are those of its one body; the tokens after a delivered fault are `updFirst`'s and the banks
after a swap `get_swap`'s. -/
theorem crownAndSwap : Obligations.CrownAndSwap := by
  unfold Obligations.CrownAndSwap
  refine ⟨fun i s e hr => crownTake_answers hr, fun i s e hr => crownPass_answers hr, fun i s e hr => ?swap⟩
  case swap =>
    intro ta o
    obtain ⟨hprot, hcrown, hwait, hother, hown, hswap⟩ := taSwap_answers hr
    refine ⟨hprot, hcrown, hwait, hother, fun hc hq hp hf hu => ⟨_, hown hc hq hp hf hu, ?first, ?absent⟩, fun hc hq hp => ?swapped⟩
    case first =>
      intro l1 tok l2 ht hbefore htok
      rw [ht]
      exact updFirst_of_first _ (fun y hy => by simpa [tokenNumber_eq] using hbefore y hy) (by simpa [tokenNumber_eq] using htok)
    case absent => exact fun h => updFirst_of_none _ fun y hy => by simpa [tokenNumber_eq] using h y hy
    case swapped =>
      obtain ⟨s1, harray, hdone⟩ := hswap hc hq hp
      refine ⟨s1, ta.swap.visible, hdone, ⟨harray.1, fun c => (harray.2 c).trans ?_⟩, fun m hm n hn => get_swap ta hm hn⟩
      by_cases hcore : c = e.g.core
      · rw [if_pos hcore, if_pos hcore, hcore]
        rfl
      · rw [if_neg hcore, if_neg hcore]

end Sys2Proof.Laws

end

section
/-!
SUPPORT. A run of the Trit Array (R181, R182, R194): a chunk adds its products to the group's partials or stops the run, a group adds its
scaled partials to the bank, each cell rounded once, and a stop leaves the bank as the groups before it made it.
-/

namespace Sys2Proof.Machine

/-- A change of the cells of a block of M rows and N columns, one after another. -/
def overBlock {σ : Type} (M N : Nat) (upd : σ → Nat → Nat → σ) (p : σ) : σ :=
  (List.range M).foldl (fun p m => (List.range N).foldl (fun p n => upd p m n) p) p

/-- The mask word of chunk c (R181). -/
def maskWord (rd : Nat → Nat) (b : BitVec 512) (c : Nat) : Nat :=
  leNat ((List.range 4).map fun i => BitVec.ofNat 8 (rd (blkMBase b + 4 * (c / 24) + i)))

/-- What chunk c adds to the partial of cell (m, n) (R182). -/
def chunkPartial (rd : Nat → Nat) (f : Word) (b : BitVec 512) (c m n : Nat) : Int :=
  if chunkOn rd f b c then ((List.range 5).map fun i => runAct rd f b m c i * tritOf (runWeight rd b c n) i).sum else 0

/-- A cell with a group's scaled partial added, with one rounding (R63, R182). -/
def groupCell (rd : Nat → Nat) (b : BitVec 512) (g n : Nat) (p : Int) (old : Word) : Word :=
  f32r .rne (FVal.sum .rne [(FVal.ofRat p).mul
    (bf16.decode (rd (blkSBase b + 256 * g + 2 * n) + 256 * rd (blkSBase b + 256 * g + 2 * n + 1))), f32v old])

/-- A run past the chunks of group g. -/
def groupChunks (rd : Nat → Nat) (f : Word) (b : BitVec 512) (r : RunAcc) (g : Nat) : RunAcc :=
  (List.range (fmtGroup f / 5)).foldl (fun r k => runChunk rd f b r (g * (fmtGroup f / 5) + k)) { r with part := [] }

/-- The bank with the scaled partials of group g added (R63). -/
def groupBank (rd : Nat → Nat) (b : BitVec 512) (g : Nat) (part : SMap Int) (bank : SMap Word) : SMap Word :=
  overBlock (blkM b) (blkN b) (fun bank m n => SMap.set 0 bank (128 * m + n)
    (groupCell rd b g n (SMap.get 0 part (128 * m + n)) (SMap.get 0 bank (128 * m + n)))) bank

/-- What the groups of a run start from: an empty account over the bank, whose cells of the block are +0 where the flag says so
(R182). -/
def startAcc (b : BitVec 512) (bank : SMap Word) : RunAcc :=
  { bank := if bit b 288 then overBlock (blkM b) (blkN b) (fun k m j => SMap.del k (128 * m + j)) bank else bank, part := [], present := 0,
    fault := none, soft := none }

/-- The bank as the first k groups of a run leave it. -/
structure BankAfter (rd : Nat → Nat) (f : Word) (b : BitVec 512) (old : SMap Word) (k : Nat) (bank : SMap Word) : Prop where
  inside : ∀ m < blkM b, ∀ n < blkN b,
    SMap.get 0 bank (128 * m + n) = cellAfter rd f b (SMap.get 0 old (128 * m + n)) m n k
  outside : ∀ m, ∀ n < 128, ¬ (m < blkM b ∧ n < blkN b) → SMap.get 0 bank (128 * m + n) = SMap.get 0 old (128 * m + n)

end Sys2Proof.Machine

namespace Sys2Proof.Laws

open Sys2Proof.Machine

/-! ### Tables changed cell by cell -/

section
variable {α : Type} {d : α} {upd : SMap α → Nat → Nat → SMap α} {F : Nat → Nat → α → α}
  (h : ∀ p m n k, SMap.get d (upd p m n) k = if k = 128 * m + n then F m n (SMap.get d p k) else SMap.get d p k)
include h

theorem get_overRow (N : Nat) (p : SMap α) (m0 : Nat) {m n : Nat} (hN : N ≤ 128) (hn : n < 128) :
    SMap.get d ((List.range N).foldl (fun p n => upd p m0 n) p) (128 * m + n) =
      if m = m0 ∧ n < N then F m n (SMap.get d p (128 * m + n)) else SMap.get d p (128 * m + n) := by
  induction N with
  | zero => simp
  | succ N ih =>
    rw [List.range_succ, List.foldl_append, List.foldl_cons, List.foldl_nil, h, ih (by omega)]
    by_cases hk : 128 * m + n = 128 * m0 + N
    · obtain ⟨rfl, rfl⟩ : m = m0 ∧ n = N := by omega
      simp
    · rw [if_neg hk]
      exact if_congr (by omega) rfl rfl

/-- The cells of the block are changed, and no other. -/
theorem get_overBlock (M : Nat) {N : Nat} (p : SMap α) {m n : Nat} (hN : N ≤ 128) (hn : n < 128) :
    SMap.get d (overBlock M N upd p) (128 * m + n) =
      if m < M ∧ n < N then F m n (SMap.get d p (128 * m + n)) else SMap.get d p (128 * m + n) := by
  induction M with
  | zero => simp [overBlock]
  | succ M ih =>
    rw [overBlock] at ih ⊢
    rw [List.range_succ, List.foldl_append, List.foldl_cons, List.foldl_nil, get_overRow h N _ M hN hn, ih]
    by_cases hm : m = M ∧ n < N
    · obtain ⟨rfl, hlt⟩ := hm
      simp [hlt]
    · rw [if_neg hm]
      exact if_congr (by omega) rfl rfl

end

theorem get_del {α : Type} (d : α) (m : SMap α) (n k : Nat) :
    SMap.get d (SMap.del m n) k = if k = n then d else SMap.get d m k := by
  unfold SMap.get
  split
  · subst_vars
    rw [find_del_self]
    rfl
  · rw [find_del_other m ‹_›]

/-- Values put at the first n keys. -/
theorem get_putRange {α : Type} (d : α) (v : Nat → α) (m : SMap α) (n k : Nat) :
    SMap.get d ((List.range n).foldl (fun m k => SMap.put m k (v k)) m) k = if k < n then v k else SMap.get d m k := by
  induction n with
  | zero => simp
  | succ n ih =>
    rw [List.range_succ, List.foldl_append, List.foldl_cons, List.foldl_nil, get_put, ih]
    by_cases hk : k = n
    · subst hk
      simp
    · rw [if_neg hk]
      exact if_congr (by omega) rfl rfl

theorem foldl_zipIdx_range {α σ : Type} (w : Nat → α) (n : Nat) (g : σ → α × Nat → σ) (p : σ) :
    ((List.range n).map w).zipIdx.foldl g p = (List.range n).foldl (fun p k => g p (w k, k)) p := by
  have hzip : ((List.range n).map w).zipIdx = (List.range n).map fun k => (w k, k) :=
    List.ext_getElem (by simp) fun i h1 h2 => by simp
  rw [hzip, List.foldl_map]

/-! ### Mask words (R181) -/

section
variable (rd : Nat → Nat) (f : Word) (b : BitVec 512) (c : Nat)

theorem maskWord_byte {i : Nat} (h : i < 4) : maskWord rd b c / 256 ^ i % 256 = rd (blkMBase b + 4 * (c / 24) + i) % 256 := by
  rw [maskWord, leNat_byte]
  simp [h]

theorem maskWord_top : bitsOf (maskWord rd b c) 31 24 = rd (blkMBase b + 4 * (c / 24) + 3) % 256 :=
  maskWord_byte rd b c (i := 3) (by decide)

theorem maskWord_bit :
    maskWord rd b c / 2 ^ (c % 24) % 2 = rd (blkMBase b + 4 * (c / 24) + c % 24 / 8) / 2 ^ (c % 8) % 2 := by
  have hlow (x : Nat) : x % 256 / 2 ^ (c % 8) % 2 = x / 2 ^ (c % 8) % 2 := by
    obtain ⟨k, hk⟩ : ∃ k, 8 = c % 8 + 1 + k := ⟨7 - c % 8, by omega⟩
    have h256 : 256 = 2 ^ (c % 8) * (2 * 2 ^ k) := by
      rw [← Nat.mul_assoc, ← pow_succ, ← pow_add, ← hk]
      rfl
    rw [h256, Nat.mod_mul_right_div_self, Nat.mod_mul_right_mod]
  rw [← hlow (rd _), ← maskWord_byte rd b c (by omega), hlow, Nat.div_div_eq_div_mul,
    show (256 : Nat) = 2 ^ 8 from rfl, ← pow_mul, ← pow_add, show 8 * (c % 24 / 8) + c % 8 = c % 24 by omega]

theorem chunkOn_eq : chunkOn rd f b c = !(fmtSparse f && maskWord rd b c / 2 ^ (c % 24) % 2 == 0) := by
  rw [maskWord_bit, chunkOn]
  rcases Nat.mod_two_eq_zero_or_one (rd (blkMBase b + 4 * (c / 24) + c % 24 / 8) / 2 ^ (c % 8)) with h | h <;> rw [h] <;>
    cases fmtSparse f <;> rfl

variable {rd f b c}

theorem mask_bad_iff : (fmtSparse f && bitsOf (maskWord rd b c) 31 24 != 0) = true ↔
    fmtSparse f = true ∧ rd (blkMBase b + 4 * (c / 24) + 3) % 256 ≠ 0 := by
  rw [maskWord_top, Bool.and_eq_true, bne_iff_ne]

theorem mask_off_iff : (fmtSparse f && maskWord rd b c / 2 ^ (c % 24) % 2 == 0) = true ↔ chunkOn rd f b c = false := by
  rw [chunkOn_eq, Bool.not_eq_false']

theorem mask_on (h : chunkOn rd f b c = true) : ¬ (fmtSparse f && maskWord rd b c / 2 ^ (c % 24) % 2 == 0) = true := by
  rw [mask_off_iff, h]
  decide

end

/-! ### One chunk (R182, R194) -/

/-- The first illegal weight byte of a chunk. -/
theorem firstIllegal_some {w : Nat → Nat} {N n : Nat} : ((List.range N).map w).findIdx? (fun x => decide (243 ≤ x)) = some n ↔
    n < N ∧ 243 ≤ w n ∧ ∀ k < n, w k < 243 := by
  rw [List.findIdx?_eq_some_iff_getElem]
  simp [and_left_comm]

theorem firstIllegal_none {w : Nat → Nat} {N : Nat} : ((List.range N).map w).findIdx? (fun x => decide (243 ≤ x)) = none ↔
    ∀ n < N, w n < 243 := by
  simp

/-- A weight byte of five zero trits adds nothing. -/
theorem chunkPartial_of_zero {rd : Nat → Nat} {f : Word} {b : BitVec 512} {c m n : Nat} (h : runWeight rd b c n = 0) :
    chunkPartial rd f b c m n = 0 := by
  have htrit (i : Nat) : tritOf 0 i = 0 := by simp [tritOf, tritDigit]
  simp [chunkPartial, h, htrit]

section
variable {rd : Nat → Nat} {f : Word} {b : BitVec 512} {r : RunAcc}

theorem runChunk_stopped (hf : r.fault.isSome = true) (c : Nat) : runChunk rd f b r c = r := if_pos hf

variable (hf : r.fault = none) (hs : r.soft = none) {c : Nat}
include hf hs

theorem runChunk_badMask (h : fmtSparse f = true ∧ rd (blkMBase b + 4 * (c / 24) + 3) % 256 ≠ 0) :
    runChunk rd f b r c = { r with fault := some (1, blkMBase b + 4 * (c / 24), c) } :=
  (if_neg (by simp [hf])).trans ((if_neg (by simp [hs])).trans (if_pos (mask_bad_iff.2 h)))

variable (hm : ¬ (fmtSparse f = true ∧ rd (blkMBase b + 4 * (c / 24) + 3) % 256 ≠ 0))
include hm

theorem runChunk_absent (h : chunkOn rd f b c = false) : runChunk rd f b r c = r :=
  (if_neg (by simp [hf])).trans ((if_neg (by simp [hs])).trans ((if_neg (mt mask_bad_iff.1 hm)).trans
    (if_pos (mask_off_iff.2 h))))

variable (hon : chunkOn rd f b c = true)
include hon

theorem runChunk_illegal {n : Nat} (hn : n < blkN b) (h : 243 ≤ runWeight rd b c n) (hbefore : ∀ k < n, runWeight rd b c k < 243) :
    runChunk rd f b r c = { r with fault := some (0, blkWBase b / 5 + c * blkWStride b + n, c) } := by
  refine (if_neg (by simp [hf])).trans ((if_neg (by simp [hs])).trans ((if_neg (mt mask_bad_iff.1 hm)).trans
    ((if_neg (mask_on hon)).trans ?_)))
  have hfirst := firstIllegal_some.2 ⟨hn, h, hbefore⟩
  unfold runWeight at hfirst
  simp only [hfirst]

variable (hlegal : ∀ n < blkN b, runWeight rd b c n < 243)
include hlegal

omit hon in
theorem runChunk_skipped (h : fmtSparse f = false) (hz : ∀ n < blkN b, runWeight rd b c n = 0) : runChunk rd f b r c = r := by
  have hoff : ¬ (fmtSparse f && maskWord rd b c / 2 ^ (c % 24) % 2 == 0) = true := by simp [h]
  have hskip : (!fmtSparse f && ((List.range (blkN b)).map (runWeight rd b c)).all (· == 0)) = true := by simpa [h] using hz
  refine (if_neg (by simp [hf])).trans ((if_neg (by simp [hs])).trans ((if_neg (mt mask_bad_iff.1 hm)).trans ((if_neg hoff).trans ?_)))
  have hfirst := firstIllegal_none.2 hlegal
  unfold runWeight at hfirst hskip
  simp only [hfirst]
  exact if_pos hskip

theorem runChunk_adds (h : ¬ (fmtSparse f = false ∧ ∀ n < blkN b, runWeight rd b c n = 0)) : runChunk rd f b r c =
    { r with part := overBlock (blkM b) (blkN b) (fun p m n => SMap.put p (128 * m + n) (SMap.get 0 p (128 * m + n) +
        (List.range 5).foldl (fun s i => s + runAct rd f b m c i * tritOf (runWeight rd b c n) i) 0)) r.part,
             present := r.present + 1 } := by
  have hskip : ¬ (!fmtSparse f && ((List.range (blkN b)).map (runWeight rd b c)).all (· == 0)) = true := by simpa using h
  refine (if_neg (by simp [hf])).trans ((if_neg (by simp [hs])).trans ((if_neg (mt mask_bad_iff.1 hm)).trans
    ((if_neg (mask_on hon)).trans ?_)))
  have hfirst := firstIllegal_none.2 hlegal
  unfold runWeight at hfirst hskip
  simp only [hfirst]
  refine (if_neg hskip).trans ?_
  simp only [foldl_zipIdx_range]
  rfl

end

/-- A chunk that does not stop the run adds to the partials what it holds, be it left out or not. -/
theorem runChunk_sound {rd : Nat → Nat} {f : Word} {b : BitVec 512} {r : RunAcc} {c : Nat} (hf : r.fault = none) (hs : r.soft = none)
    (hN : blkN b ≤ 128) (h : ∀ u a, ¬ ChunkFault rd f b c u a) : ∃ part present,
    runChunk rd f b r c = { r with part := part, present := present } ∧ ∀ m < blkM b, ∀ n < blkN b,
      SMap.get 0 part (128 * m + n) = SMap.get 0 r.part (128 * m + n) + chunkPartial rd f b c m n := by
  have hm : ¬ (fmtSparse f = true ∧ rd (blkMBase b + 4 * (c / 24) + 3) % 256 ≠ 0) := fun hm => h 1 _ (.inl ⟨rfl, rfl, hm⟩)
  cases hon : chunkOn rd f b c with
  | false =>
    refine ⟨r.part, r.present, runChunk_absent hf hs hm hon, fun m _ n _ => ?_⟩
    rw [chunkPartial, hon, if_neg Bool.false_ne_true, add_zero]
  | true =>
    have hlegal : ∀ n < blkN b, runWeight rd b c n < 243 := firstIllegal_none.1 (Option.eq_none_iff_forall_ne_some.2 fun n hn => by
      obtain ⟨hlt, hill, hbefore⟩ := firstIllegal_some.1 hn
      exact h 0 _ (.inr ⟨rfl, hm, hon, n, hlt, rfl, hill, hbefore⟩))
    by_cases hz : fmtSparse f = false ∧ ∀ n < blkN b, runWeight rd b c n = 0
    · refine ⟨r.part, r.present, runChunk_skipped hf hs hm hlegal hz.1 hz.2, fun m _ n hn => ?_⟩
      rw [chunkPartial_of_zero (hz.2 n hn), add_zero]
    · refine ⟨_, _, runChunk_adds hf hs hm hon hlegal hz, fun m hM n hn => ?_⟩
      rw [get_overBlock (F := fun m n x => x + chunkPartial rd f b c m n) _ _ _ hN (by omega), if_pos ⟨hM, hn⟩]
      intro p m n k
      rw [get_put]
      by_cases hk : k = 128 * m + n
      · rw [if_pos hk, if_pos hk, hk, chunkPartial, hon, if_pos rfl, List.sum_eq_foldl, List.foldl_map]
      · rw [if_neg hk, if_neg hk]

theorem runChunk_fault {rd : Nat → Nat} {f : Word} {b : BitVec 512} {r : RunAcc} {c u a : Nat} (hf : r.fault = none)
    (hs : r.soft = none) (h : ChunkFault rd f b c u a) : runChunk rd f b r c = { r with fault := some (u, a, c) } := by
  obtain ⟨rfl, rfl, hm⟩ | ⟨rfl, hm, hon, n, hn, rfl, hill, hbefore⟩ := h
  · exact runChunk_badMask hf hs hm
  · exact runChunk_illegal hf hs hm hon hn hill hbefore

/-! ### The chunks of a group -/

section
variable {rd : Nat → Nat} {f : Word} {b : BitVec 512} {r : RunAcc}

theorem chunks_stopped (hf : r.fault.isSome = true) (l : List Nat) (c : Nat → Nat) :
    l.foldl (fun r k => runChunk rd f b r (c k)) r = r := by
  induction l with
  | nil => rfl
  | cons k l ih => rw [List.foldl_cons, runChunk_stopped hf, ih]

variable (hf : r.fault = none) (hs : r.soft = none) (hN : blkN b ≤ 128) (c0 : Nat)
include hf hs hN

/-- n chunks from c0 on that do not stop the run. -/
theorem chunks_sound {n : Nat} (h : ∀ k < n, ∀ u a, ¬ ChunkFault rd f b (c0 + k) u a) : ∃ part present,
    (List.range n).foldl (fun r k => runChunk rd f b r (c0 + k)) r = { r with part := part, present := present } ∧
      ∀ m < blkM b, ∀ j < blkN b, SMap.get 0 part (128 * m + j) =
        SMap.get 0 r.part (128 * m + j) + ((List.range n).map fun k => chunkPartial rd f b (c0 + k) m j).sum := by
  induction n with
  | zero => exact ⟨r.part, r.present, rfl, fun m _ j _ => by simp⟩
  | succ n ih =>
    obtain ⟨part, present, hr, hpart⟩ := ih fun k hk => h k (by omega)
    obtain ⟨part', present', hr', hpart'⟩ := runChunk_sound (r := { r with part := part, present := present }) hf hs hN (h n (by omega))
    refine ⟨part', present', ?_, fun m hm j hj => ?_⟩
    · rw [List.range_succ, List.foldl_append, hr]
      exact hr'
    · rw [hpart' m hm j hj, List.range_succ, List.map_append, List.sum_append, ← add_assoc]
      exact congrArg₂ (· + ·) (hpart m hm j hj) (by simp)

/-- The first of n chunks that stops the run. -/
theorem chunks_fault {n k u a : Nat} (hk : k < n) (h : ChunkFault rd f b (c0 + k) u a)
    (hbefore : ∀ j < k, ∀ u a, ¬ ChunkFault rd f b (c0 + j) u a) : ∃ part present,
    (List.range n).foldl (fun r k => runChunk rd f b r (c0 + k)) r =
      { r with part := part, present := present, fault := some (u, a, c0 + k) } := by
  obtain ⟨part, present, hr, -⟩ := chunks_sound hf hs hN c0 hbefore
  obtain ⟨n, rfl⟩ := Nat.exists_eq_add_of_le (Nat.succ_le_of_lt hk)
  refine ⟨part, present, ?_⟩
  rw [List.range_add, List.range_succ, List.foldl_append, List.foldl_append, hr, List.foldl_cons, List.foldl_nil,
    runChunk_fault (r := { r with part := part, present := present }) hf hs h, List.foldl_map]
  exact chunks_stopped rfl _ _

end

/-! ### A group (R63, R182) -/

section
variable {rd : Nat → Nat} {f : Word} {b : BitVec 512} {r : RunAcc}

theorem runGroup_of_stop {g : Nat} (h : (groupChunks rd f b r g).fault.isSome = true) :
    runGroup rd f b r g = groupChunks rd f b r g := if_pos h

theorem runGroup_of_going {g : Nat} (h : (groupChunks rd f b r g).fault = none) : runGroup rd f b r g =
    { groupChunks rd f b r g with bank := groupBank rd b g (groupChunks rd f b r g).part (groupChunks rd f b r g).bank } :=
  if_neg (show ¬ (groupChunks rd f b r g).fault.isSome = true by simp [h])

/-- A group after the stop changes neither the bank nor the fault. -/
theorem runGroup_stopped (hf : r.fault.isSome = true) (g : Nat) : runGroup rd f b r g = { r with part := [] } := by
  have hr : groupChunks rd f b r g = { r with part := [] } :=
    chunks_stopped (r := { r with part := [] }) hf _ _
  rw [runGroup_of_stop (by rw [hr]; exact hf), hr]

theorem groups_stopped (hf : r.fault.isSome = true) (l : List Nat) :
    (l.foldl (runGroup rd f b) r).fault = r.fault ∧ (l.foldl (runGroup rd f b) r).bank = r.bank := by
  induction l generalizing r with
  | nil => exact ⟨rfl, rfl⟩
  | cons g l ih =>
    rw [List.foldl_cons, runGroup_stopped hf]
    exact ih (r := { r with part := [] }) hf

variable (hf : r.fault = none) (hs : r.soft = none) (hN : blkN b ≤ 128) {g : Nat}
include hf hs hN

theorem runGroup_fault {k u a : Nat} (hk : k < fmtGroup f / 5) (h : ChunkFault rd f b (g * (fmtGroup f / 5) + k) u a)
    (hbefore : ∀ j < k, ∀ u a, ¬ ChunkFault rd f b (g * (fmtGroup f / 5) + j) u a) :
    (runGroup rd f b r g).fault = some (u, a, g * (fmtGroup f / 5) + k) ∧ (runGroup rd f b r g).bank = r.bank := by
  obtain ⟨part, present, hr⟩ := chunks_fault (r := { r with part := [] }) hf hs hN _ hk h hbefore
  have hr : groupChunks rd f b r g = _ := hr
  rw [runGroup_of_stop (by rw [hr]; rfl), hr]
  exact ⟨rfl, rfl⟩

theorem runGroup_sound (h : ∀ k < fmtGroup f / 5, ∀ u a, ¬ ChunkFault rd f b (g * (fmtGroup f / 5) + k) u a) :
    (runGroup rd f b r g).fault = none ∧ (runGroup rd f b r g).soft = none ∧ ∀ m, ∀ n < 128,
      SMap.get 0 (runGroup rd f b r g).bank (128 * m + n) =
        if m < blkM b ∧ n < blkN b then groupCell rd b g n (groupPartial rd f b g m n) (SMap.get 0 r.bank (128 * m + n))
        else SMap.get 0 r.bank (128 * m + n) := by
  obtain ⟨part, present, hr, hpart⟩ := chunks_sound (r := { r with part := [] }) hf hs hN _ h
  have hr : groupChunks rd f b r g = _ := hr
  rw [runGroup_of_going (by rw [hr]; exact hf), hr]
  refine ⟨hf, hs, fun m n hn => ?_⟩
  refine (get_overBlock (F := fun m n x => groupCell rd b g n (SMap.get 0 part (128 * m + n)) x) (fun p m n k => ?_) _ _ hN hn).trans ?_
  · rw [get_set]
    by_cases hk : k = 128 * m + n
    · rw [if_pos hk, if_pos hk, hk]
    · rw [if_neg hk, if_neg hk]
  · by_cases hin : m < blkM b ∧ n < blkN b
    · have hsum : SMap.get 0 part (128 * m + n) = groupPartial rd f b g m n :=
        (hpart m hin.1 n hin.2).trans (zero_add (groupPartial rd f b g m n))
      rw [if_pos hin, if_pos hin, hsum]
    · rw [if_neg hin, if_neg hin]

end

/-! ### The groups of a run -/

section
variable {rd : Nat → Nat} {f : Word} {b : BitVec 512} {bank : SMap Word} (hN : blkN b ≤ 128)
include hN

theorem startAcc_bank : BankAfter rd f b bank 0 (startAcc b bank).bank := by
  have hclear {m n : Nat} (hn : n < 128) : SMap.get 0 (startAcc b bank).bank (128 * m + n) =
      if bit b 288 = true ∧ m < blkM b ∧ n < blkN b then 0 else SMap.get 0 bank (128 * m + n) := by
    unfold startAcc
    by_cases hb : bit b 288 = true
    · simp only [hb, if_true, true_and]
      exact get_overBlock (F := fun _ _ _ => 0) (fun p m n k => get_del 0 p (128 * m + n) k) _ _ hN hn
    · simp [hb]
  refine ⟨fun m hm n hn => (hclear (by omega)).trans ?_, fun m n hn hout => (hclear hn).trans (if_neg fun h => hout h.2)⟩
  exact if_congr ⟨fun h => h.1, fun h => ⟨h, hm, hn⟩⟩ rfl rfl

omit hN in
theorem runBlock_eq : runBlock rd f b bank none = (List.range (blkK b / fmtGroup f)).foldl (runGroup rd f b) (startAcc b bank) := rfl

theorem groups_sound {k : Nat} (h : ∀ c < k * (fmtGroup f / 5), ∀ u a, ¬ ChunkFault rd f b c u a) :
    let r := (List.range k).foldl (runGroup rd f b) (startAcc b bank)
    r.fault = none ∧ r.soft = none ∧ BankAfter rd f b bank k r.bank := by
  induction k with
  | zero => exact ⟨rfl, rfl, startAcc_bank hN⟩
  | succ k ih =>
    rw [Nat.succ_mul] at h
    obtain ⟨hf, hs, hbank⟩ := ih fun c hc => h c (by omega)
    obtain ⟨hf', hs', hcell⟩ := runGroup_sound hf hs hN (g := k) fun c hc => h _ (by omega)
    rw [List.range_succ, List.foldl_append]
    refine ⟨hf', hs', fun m hm n hn => (hcell m n (by omega)).trans ?_, fun m n hn hout => (hcell m n hn).trans ?_⟩
    · rw [if_pos ⟨hm, hn⟩, hbank.inside m hm n hn]
      rfl
    · rw [if_neg hout, hbank.outside m n hn hout]

theorem groups_fault {n c u a : Nat} (hc : c < n * (fmtGroup f / 5)) (h : ChunkFault rd f b c u a)
    (hbefore : ∀ j < c, ∀ u a, ¬ ChunkFault rd f b j u a) :
    let r := (List.range n).foldl (runGroup rd f b) (startAcc b bank)
    r.fault = some (u, a, c) ∧ BankAfter rd f b bank (c / (fmtGroup f / 5)) r.bank := by
  have hpos : 0 < fmtGroup f / 5 := Nat.pos_of_mul_pos_left (Nat.zero_lt_of_lt hc)
  obtain ⟨g, k, hk, rfl⟩ : ∃ g k, k < fmtGroup f / 5 ∧ c = g * (fmtGroup f / 5) + k :=
    ⟨c / (fmtGroup f / 5), c % (fmtGroup f / 5), Nat.mod_lt _ hpos, (Nat.div_add_mod' _ _).symm⟩
  have hg : g < n := Nat.lt_of_mul_lt_mul_right (Nat.lt_of_le_of_lt (Nat.le_add_right _ k) hc)
  rw [Nat.mul_comm g, Nat.mul_add_div hpos, Nat.div_eq_of_lt hk, Nat.add_zero, Nat.mul_comm _ g]
  intro r
  obtain ⟨hf, hs, hbank⟩ := groups_sound (rd := rd) (f := f) (bank := bank) hN (k := g) fun c hc => hbefore c (by omega)
  obtain ⟨hfault, hsame⟩ := runGroup_fault hf hs hN hk h fun j hj => hbefore _ (by omega)
  obtain ⟨n, rfl⟩ := Nat.exists_eq_add_of_le (Nat.succ_le_of_lt hg)
  have hr : r = ((List.range n).map (g + 1 + ·)).foldl (runGroup rd f b)
      (runGroup rd f b ((List.range g).foldl (runGroup rd f b) (startAcc b bank)) g) := by
    simp only [r, List.range_add, List.range_succ, List.foldl_append, List.foldl_cons, List.foldl_nil]
  obtain ⟨hlast, hkept⟩ := groups_stopped (rd := rd) (f := f) (b := b) (by rw [hfault]; rfl) ((List.range n).map (g + 1 + ·))
  rw [hr]
  exact ⟨hlast.trans hfault, by rw [hkept, hsame]; exact hbank⟩

end

end Sys2Proof.Laws

end

section
/-!
CLAIM. Obligation O41: the head of an array queue starts, faults and completes (R176, R177, R182, R187, R188, R194).
-/

namespace Sys2Proof.Machine

/-- Word a of the operands that a run reads. -/
def runWord (rd : Nat → Nat) (a : Nat) : Word := BitVec.ofNat 32 (leNat ((List.range 4).map fun i => BitVec.ofNat 8 (rd (a + i))))

/-- The row scales that a run keeps. -/
def runScales (rd : Nat → Nat) (f : Word) (b : BitVec 512) (old : SMap Word) : SMap Word :=
  if fmtRowsc f then (List.range (blkM b)).foldl (fun m k => SMap.put m k (runWord rd (blkRBase b + 4 * k))) old else old

/-- How far a run has come with the fault that has stopped it, if one has. -/
def TaSt.after : Option (Nat × Nat × Nat) → TaSt
  | some (k, a, ch) => .faulted k a ch
  | none => .ran

/-- One core's array has a new value; besides it only groups, the free values used and the counts have moved. -/
def State.ArrayNow (s : State) (c : Nat) (t : State) (f : TritArray) : Prop :=
  t = { s with groups := t.groups, cores := t.cores, ctl := { s.ctl with fresh := t.ctl.fresh }, fw := { s.fw with counts := t.fw.counts } } ∧
  ∀ k, t.core k = if k = c then { s.core k with ta := f } else s.core k

end Sys2Proof.Machine

namespace Sys2Proof.Laws

open Sys2Proof.Machine

theorem arrayNow_setCore (s : State) (c : Nat) (f : TritArray) :
    s.ArrayNow c (s.setCore c { s.core c with ta := f }) f := ⟨rfl, fun k => core_setArray s c k f⟩

/-! ### What a run reads and keeps (R186, R188) -/

theorem taByte_cases (s : State) (g : Group) (x : TaCmd) (free a : Nat) :
    s.taByte g x free a = (s.spByte g a).toNat ∨ s.taByte g x free a = (x.was g a).toNat := by
  unfold State.taByte
  dsimp only
  split
  · exact .inl rfl
  · split
    · exact .inl rfl
    · exact .inr rfl

theorem get_runScales (rd : Nat → Nat) (f : Word) (b : BitVec 512) (old : SMap Word) (d : Word) (m : Nat) :
    SMap.get d (runScales rd f b old) m =
      if fmtRowsc f = true ∧ m < blkM b then runWord rd (blkRBase b + 4 * m) else SMap.get d old m := by
  unfold runScales
  by_cases h : fmtRowsc f = true
  · simp only [h, if_true, true_and]
    exact get_putRange d (fun k => runWord rd (blkRBase b + 4 * k)) old _ m
  · simp [h]

/-- A run meets no chunk that stops it, or one that is the first. -/
theorem firstFault (rd : Nat → Nat) (f : Word) (b : BitVec 512) (n : Nat) : (∀ k < n, ∀ u a, ¬ ChunkFault rd f b k u a) ∨
    ∃ k < n, ∃ u a, ChunkFault rd f b k u a ∧ ∀ j < k, ∀ u a, ¬ ChunkFault rd f b j u a := by
  classical
  by_cases h : ∃ k, k < n ∧ ∃ u a, ChunkFault rd f b k u a
  · obtain ⟨hlt, u, a, hf⟩ := Nat.find_spec h
    exact .inr ⟨_, hlt, u, a, hf, fun j hj u a hf => Nat.find_min h hj ⟨hj.trans hlt, u, a, hf⟩⟩
  · exact .inl fun k hk u a hf => h ⟨k, hk, u, a, hf⟩

/-! ### The head of the queue -/

section
variable {s : State} {c : Nat} {x : TaCmd} {rest : List TaCmd} (hq : (s.core c).ta.queue = x :: rest)
include hq

theorem taStart_zero (hx : x.st = .queued) (hz : x.zero = true) : s.taStart c none =
    .next (s.setCore c { s.core c with ta := { (s.core c).ta with
      working := [], poison := false, rowsc := [], queue := { x with st := .ran } :: rest } }) := by
  simp [State.taStart, hq, hx, hz]

theorem taStart_run {g : Group} (hx : x.st = .queued) (hz : x.zero = false) (hg : s.group? x.uid = some g) :
    let rd := s.taByte g x s.freeNat.2
    let r := runBlock rd x.fmt x.block (s.core c).ta.working none
    s.taStart c none = .next ((s.freeNat.1.setCore c { s.core c with ta := { (s.core c).ta with
      working := r.bank, rowsc := runScales rd x.fmt x.block (s.core c).ta.rowsc,
      queue := { x with st := TaSt.after r.fault } :: rest } }).bump g.tenant 12 c r.present) := by
  unfold State.taStart
  simp only [hq, hx, hz, hg]
  rfl

/-- The head of the core's queue runs: one bank, one state of the command, and the row scales that it keeps (R182, R188, R194). -/
theorem taStart_runs {g : Group} (hx : x.st = .queued) (hz : x.zero = false) (hg : s.group? x.uid = some g) (hN : blkN x.block ≤ 128) :
    let b := x.block
    let chunks := blkK b / fmtGroup x.fmt * (fmtGroup x.fmt / 5)
    let rd := s.taByte g x s.freeNat.2
    ∃ t w st, s.taStart c none = .next t ∧ t.groups = s.groups ∧
      s.ArrayNow c t { (s.core c).ta with
        working := w, rowsc := runScales rd x.fmt b (s.core c).ta.rowsc, queue := { x with st := st } :: rest } ∧
      ((∀ k < chunks, ∀ u a, ¬ ChunkFault rd x.fmt b k u a) →
        st = .ran ∧ BankAfter rd x.fmt b (s.core c).ta.working (blkK b / fmtGroup x.fmt) w) ∧
      ∀ k < chunks, ∀ u a, ChunkFault rd x.fmt b k u a → (∀ j < k, ∀ u a, ¬ ChunkFault rd x.fmt b j u a) →
        st = .faulted u a k ∧ BankAfter rd x.fmt b (s.core c).ta.working (k / (fmtGroup x.fmt / 5)) w := by
  intro b chunks rd
  refine ⟨_, _, _, taStart_run hq hx hz hg, rfl, ⟨rfl, fun k => core_setArray s c k _⟩, fun h => ?sound, fun k hk u a h hbefore => ?fault⟩
  case sound =>
    obtain ⟨hf, -, hbank⟩ := groups_sound (bank := (s.core c).ta.working) hN h
    rw [runBlock_eq, hf]
    exact ⟨rfl, hbank⟩
  case fault =>
    obtain ⟨hf, hbank⟩ := groups_fault (bank := (s.core c).ta.working) hN hk h hbefore
    rw [runBlock_eq, hf]
    exact ⟨rfl, hbank⟩

/-- The array after its head's fault has struck (R194). -/
theorem taRunFault_strikes {g : Group} {u a k : Nat} (hc : s.ctl.arg.core = c) (hx : x.st = .faulted u a k) (hg : s.group? x.uid = some g) :
    exec .taRunFault s = .next (s.setCore c { s.core c with ta := { (s.core c).ta with
      poison := true, faddr := a, fchunk := k, fcause := u, fqtr := g.quarter, fctx := g.actx, fpend := true,
      fowner := x.uid, fseq := x.seq, queue := { x with st := .struck } :: rest } }) := by
  have hexec : exec .taRunFault s = execTaRunFault s := rfl
  rw [hexec]
  unfold execTaRunFault
  subst hc
  simp only [hq, hx, hg, Option.map_some, Option.getD_some]

end

/-! ### Tokens (R177) -/

theorem token_eq (x : TaCmd) (bad : Bool) (hseq : x.seq < 2 ^ 16) :
    BitVec.ofNat 32 (x.seq + 2 ^ 28 * (if x.zero then 2 else 1) + if bad then 3 * 2 ^ 30 else 0) =
      (if bad then 3#2 else 0#2) ++ (if x.zero then 2#2 else 1#2) ++ 0#12 ++ BitVec.ofNat 16 x.seq := by
  apply BitVec.eq_of_toNat_eq
  simp only [toNat_append_add, BitVec.toNat_ofNat]
  cases bad <;> cases x.zero <;> simp only [Bool.false_eq_true, if_true, if_false, BitVec.reduceToNat] <;> omega

/-- The head of the core's queue leaves it with its token. -/
theorem taCommandComplete_completes {s : State} {c : Nat} {x : TaCmd} {rest : List TaCmd} {g : Group} (bad : Bool)
    (hc : s.ctl.arg.core = c) (hq : (s.core c).ta.queue = x :: rest) (hst : x.st = if bad then .struck else .ran)
    (hg : s.group? x.uid = some g) (hseq : x.seq < 2 ^ 16) : exec .taCommandComplete s =
      .next ((s.setCore c { s.core c with ta := { (s.core c).ta with queue := rest } }).setGroup { g with queues := { g.queues with
        t6 := g.queues.t6 ++ [(if bad then 3#2 else 0#2) ++ (if x.zero then 2#2 else 1#2) ++ 0#12 ++ BitVec.ofNat 16 x.seq] } }) := by
  have hexec : exec .taCommandComplete s = execTaCommandComplete s := rfl
  have hgroup : (s.setCore c { s.core c with ta := { (s.core c).ta with queue := rest } }).group? x.uid = some g := hg
  rw [hexec, ← token_eq x bad hseq]
  unfold execTaCommandComplete
  subst hc
  cases bad <;> simp [hq, hst, hgroup]

/-- Settles O41: TA.ZERO is `taStart_zero`; a run is `taStart_runs`, by the groups before its first fault (`firstFault`); the fault and the
completion are one equation each. -/
theorem tileRuns : Obligations.TileRuns := by
  unfold Obligations.TileRuns
  intro s x rest c ta now hq
  refine ⟨fun hx hz => ?zero, fun g hx hz hg hM hN => ?run, fun g u a k hx hg => ?strikes, fun g bad hg hu hseq hst => ?completes⟩
  case zero => exact ⟨_, taStart_zero hq hx hz, rfl, rfl, arrayNow_setCore s c _⟩
  case run =>
    intro b chunks
    obtain ⟨t, w, st, ht, hgroups, hnow, hsound, hfault⟩ := taStart_runs hq hx hz hg hN
    refine ⟨s.taByte g x s.freeNat.2, taByte_cases s g x _, t, w, _, st, ht, hgroups, hnow, fun m hm => ?_, fun m hm => ?_, ?_, ?_, ?_⟩
    · rw [get_runScales]
      exact if_congr (and_iff_left hm) rfl rfl
    · rw [get_runScales, if_neg fun h => Nat.not_lt.2 hm h.2]
    · obtain h | ⟨k, hk, u, a, h, hb⟩ := firstFault (s.taByte g x s.freeNat.2) x.fmt b chunks
      · exact fun m _ => (hsound h).2.outside m
      · exact fun m _ => (hfault k hk u a h hb).2.outside m
    · exact fun h => ⟨(hsound h).1, (hsound h).2.inside⟩
    · exact fun k hk u a h hb => ⟨(hfault k hk u a h hb).1, (hfault k hk u a h hb).2.inside⟩
  case strikes => exact ⟨_, taRunFault_strikes hq rfl hx hg, rfl, rfl, arrayNow_setCore s c _⟩
  case completes =>
    have hst : x.st = if bad then .struck else .ran := by rcases hst with ⟨rfl, h⟩ | ⟨rfl, h⟩ <;> exact h
    have ht := taCommandComplete_completes bad rfl hq hst hg hseq
    refine ⟨_, _, ht, rfl, ⟨rfl, (arrayNow_setCore s c _).2⟩, fun uid hne => setGroup_other _ _ (by rwa [hu]), ?_, rfl⟩
    rw [← hu]
    exact setGroup_self _ _

end Sys2Proof.Laws

end

section
/-!
CLAIM. Obligation O54: the event of a grid that an uncorrectable error faults carries SOFTERR's code at bit 128 only where the grid's
queue number leaves the bits above it alone, and the statement bounds no queue number.
-/

namespace Sys2Proof.Laws

open Sys2Proof.Machine

/-- A grid of a queue whose number reaches from its place at bit 22 of an event to bit 128; the part numbers its queues below 1,024. -/
def farGrid : Grid := { strayGrid with num := 0, queue := 2 ^ 106 }

/-- A group of that grid with a side effect, so that an error which strikes it faults the grid. -/
def farGroup : Group := { placedGroup (placedKern 128 128) with side := 1 }

/-- The reset state with the two, at an error in the group's registers. -/
def farState : State :=
  { State.reset with groups := [(0, farGroup)], lu := { LaunchUnit.reset with grids := [(0, farGrid)] },
                     ctl := { Control.reset with arg := { EventArg.zero with soft := .group 0 0 } } }

/-- The first word of the payload: SOFTERR's code, and whether the warp slot that the event names, which is a free value, is the
context's. -/
def farCause : Nat := Cause.softerr.code + 0 + (if Config.freeValue 1 % 65 = 64 then 512 else 0) + 2 ^ 16 * 0

theorem farState_event : ∃ ws, (farState.strike 0 0).fw.events =
    [(0, eventOf 4 13 (2 ^ 106) 0 0 (BitVec.ofNat 32 farCause :: ws))] :=
  ⟨_, rfl⟩

/-- Byte 16 of an event: the payload's first byte, and what the fields below reach above bit 127. -/
theorem eventOf_byte16 (kind status queue : Nat) (tag : Word) (index : DWord) (w : Word) (ws : List Word) :
    ((eventOf kind status queue tag index (w :: ws)).extractLsb' 128 8).toNat =
      ((kind + status * 2 ^ 8 + 2 ^ 22 * queue + 2 ^ 32 * tag.toNat + 2 ^ 64 * index.toNat) / 2 ^ 128 + w.toNat) % 256 := by
  have hbyte : leNat ((w :: ws).flatMap fun x => leBytes 4 x.toNat) % 256 = w.toNat % 256 := by
    have h := leNat_byte ((w :: ws).flatMap fun x => leBytes 4 x.toNat) 0
    simpa [leBytes] using h
  rw [BitVec.extractLsb'_toNat, Nat.shiftRight_eq_div_pow, eventOf, BitVec.toNat_ofNat, show (512 : Nat) = 128 + 384 from rfl,
    pow_add 2 128 384, Nat.mod_mul_right_div_self, Nat.add_mul_div_left _ _ (by norm_num), show (384 : Nat) = 8 + 376 from rfl,
    pow_add 2 8 376, Nat.mod_mul_right_mod, Nat.add_mod, show (2 : Nat) ^ 8 = 256 from rfl, hbyte, ← Nat.add_mod]

theorem farCause_mod : farCause % 256 = Cause.softerr.code := by
  unfold farCause
  split <;> rfl

/-- The queue's number has added 1 to the code. -/
theorem farEvent_cause (ws : List Word) : (eventOf 4 13 (2 ^ 106) 0 0 (BitVec.ofNat 32 farCause :: ws)).extractLsb' 128 8 ≠
    BitVec.ofNat 8 Cause.softerr.code := by
  intro h
  have hbyte := eventOf_byte16 4 13 (2 ^ 106) 0 0 (BitVec.ofNat 32 farCause) ws
  have hw : (BitVec.ofNat 32 farCause).toNat % 256 = 22 := by
    rw [BitVec.toNat_ofNat, Nat.mod_mod_of_dvd _ (by norm_num), farCause_mod]
    rfl
  rw [h, Nat.add_mod, hw] at hbyte
  exact absurd hbyte (by decide)

theorem farState_exec : exec .uncorrectableError farState = .next (farState.strike 0 0) := rfl

/-- Refutes O54: the fault of a grid of that queue has the code 0x17 in its event, not SOFTERR's 0x16. -/
theorem not_logsAndErrors : ¬ Obligations.LogsAndErrors := by
  unfold Obligations.LogsAndErrors
  intro h
  obtain ⟨-, -, -, -, -, hgroup, -⟩ := h farState
  obtain ⟨t, e, l, ht, -, hevents, -, -, hcode, -⟩ := (hgroup 0 0 farGroup rfl rfl rfl (by decide)).2 (.inl (by decide)) farGrid rfl rfl
  obtain ⟨ws, hfar⟩ := farState_event
  cases farState_exec.symm.trans ht
  rw [hfar] at hevents
  obtain ⟨he, -⟩ := List.cons.inj hevents
  rw [← (Prod.mk.inj he).2] at hcode
  exact farEvent_cause ws hcode

end Sys2Proof.Laws

end
